-- ==== Sys2Proof/Word.lean ====
section
/-! DEFINITION. The word types of the AF7 model and the sparse, sorted maps its state is held in. -/

namespace Sys2Proof

/-- One byte. -/
abbrev Byte := BitVec 8

/-- A 32-bit word. -/
abbrev Word := BitVec 32

/-- A 64-bit word: addresses, wide registers, instruction words. -/
abbrev DWord := BitVec 64

/-- A sparse map from unit numbers to unit states: pairs in rising order of the key. A key that is
not listed stands for the unit's idle state, which the reader of the map names. -/
abbrev Map (α : Type) := List (Nat × α)

/-- The listed value of a key, if any. -/
def Map.get? {α : Type} : Map α → Nat → Option α
  | [], _ => none
  | (k, a) :: m, n => if k = n then some a else Map.get? m n

/-- The value of a key, or the idle value `d`. -/
def Map.getD {α : Type} (m : Map α) (n : Nat) (d : α) : α :=
  match m.get? n with
  | some a => a
  | none => d

/-- Write a key, keeping the rising order. -/
def Map.put {α : Type} : Map α → Nat → α → Map α
  | [], n, a => [(n, a)]
  | (k, b) :: m, n, a =>
    if n < k then (n, a) :: (k, b) :: m
    else if n = k then (n, a) :: m
    else (k, b) :: Map.put m n a

/-- Remove a key. -/
def Map.del {α : Type} : Map α → Nat → Map α
  | [], _ => []
  | (k, b) :: m, n => if k = n then m else (k, b) :: Map.del m n

/-- Change a key's value, starting from the idle value `d` when it is not listed. -/
def Map.upd {α : Type} (m : Map α) (n : Nat) (d : α) (f : α → α) : Map α :=
  m.put n (f (m.getD n d))

/-- Keys strictly rising: the canonical form of every map of the state. -/
def Map.rising {α : Type} : Map α → Bool
  | [] => true
  | [_] => true
  | (k, _) :: (l, b) :: m => decide (k < l) && Map.rising ((l, b) :: m)

end Sys2Proof
end

