-- ==== Sys2Proof/Syntax.lean ====
section
/-! DEFINITION. The commands of the AF7: one constructor of `Instr` for every row of the table of
operations and events, with the operands each row needs. -/

namespace Sys2Proof

/-- An issue opportunity of a core (R88, R89): the logical core number (R18) and the leader's thread
index 16·slot + position. -/
structure Issue where
  core : Nat
  leader : Nat
deriving DecidableEq, Repr

/-- The fields of a Form T instruction word, raw (R107). -/
structure FormT where
  guard : BitVec 5
  dst : BitVec 6
  sa : BitVec 6
  sb : BitVec 6
  sc : BitVec 6
  type : BitVec 4
  mod : BitVec 23
deriving DecidableEq, Repr

/-- The fields of a Form I instruction word, raw (R107). -/
structure FormI where
  guard : BitVec 5
  dst : BitVec 6
  sa : BitVec 6
  type : BitVec 4
  mod : BitVec 3
  imm : BitVec 32
deriving DecidableEq, Repr

/-- An entry the queue engine holds: function, queue, and the entry's fetch number in that queue (the
count of entries fetched before it since the queue was enabled; its ring slot is that number modulo the
ring size). -/
structure EntryRef where
  fn : Nat
  q : Nat
  n : Nat
deriving DecidableEq, Repr

/-- How a code word stands when it is read or arrives (R166): clean, one symbol in error, a husk, or
uncorrectable, with its 16-bit syndrome. -/
inductive WordState where
  | clean
  | single
  | husk
  | bad (syndrome : BitVec 16)
deriving DecidableEq, Repr

/-- One 16-byte data word of a fabric message with the state it arrives in (R166, R274). -/
structure CodeWord where
  data : BitVec 128
  st : WordState
deriving DecidableEq, Repr

/-- A fabric message: the route header of R274 and its data words. `rsv` is the OR of the header's
reserved bits. -/
structure Msg where
  addr : DWord
  dstdev : BitVec 16
  srcdev : BitVec 16
  htag : BitVec 16
  tag : BitVec 16
  op : BitVec 8
  ttl : BitVec 8
  len : BitVec 9
  cls : BitVec 2
  dlh : Bool
  rsv : Bool
  nak : BitVec 8
  atype : BitVec 8
  ordsc : Word
  hint : BitVec 2
  words : List CodeWord
deriving DecidableEq, Repr

/-- A flit as the link layer receives it (R270). `crcOk` says that its CRC-32C matches, `fecOk` that
it lay in no codeword the FEC could not correct, `corr` how many symbols the FEC corrected. `msgs` are
the messages whose last byte it carries. -/
structure Flit where
  fseq : BitVec 12
  ackseq : BitVec 12
  ftype : BitVec 2
  cred : BitVec 32
  vc : BitVec 3
  crcOk : Bool
  fecOk : Bool
  corr : Nat
  msgs : List Msg
deriving DecidableEq, Repr

/-- An SPDM request over the DOE mailbox (R427): its two parameter bytes, and its body. -/
structure SpdmReq where
  param1 : Byte
  param2 : Byte
  body : List Byte
deriving DecidableEq, Repr

/-- Which operation an agent makes on a spar named by a job descriptor or PRE block (R296). -/
inductive AgentOp where
  | add (delta : BitVec 64)
  | setZero
  | watch (threshold : BitVec 64)
deriving DecidableEq, Repr

/-- Which agent spar: the ready spars of even and odd steps, the block-stream spar, a stream's DONE
spar, or the staged or ready spar of the PRE entry with the given update-table index (R296). -/
inductive AgentSpar where
  | readyEven
  | readyOdd
  | blockStream
  | done (lid : BitVec 16)
  | staged (entry : Nat)
  | ready (entry : Nat)
deriving DecidableEq, Repr

/-- What a spare takes over with (R246, R388): the expelled member, the step that it joins as sealed, the generation and
the SEL of the member it copies from, that member's sealed W and RSTEP of the group range in update-table order, and the
body of the expelled member's newest complete buddy slot with its step, if there is one. -/
structure Takeover where
  expelled : Nat
  step : Word
  gen : Byte
  sel : Bool
  weights : List CodeWord
  slot : Option (Word × List CodeWord)
deriving DecidableEq, Repr

/-- The operations and events of the AF7, one constructor for each row of the table. -/
inductive Instr where
  -- Instructions of the opcode map (R114)
  | nop (i : Issue) (f : FormT)
  | bra (i : Issue) (f : FormI)
  | brx (i : Issue) (f : FormT)
  | call (i : Issue) (f : FormI)
  | exit (i : Issue) (f : FormT)
  | bar (i : Issue) (f : FormI)
  | rdsr (i : Issue) (f : FormI)
  | iadd (i : Issue) (f : FormT)
  | isub (i : Issue) (f : FormT)
  | imul (i : Issue) (f : FormT)
  | imulh (i : Issue) (f : FormT)
  | imad (i : Issue) (f : FormT)
  | imin (i : Issue) (f : FormT)
  | imax (i : Issue) (f : FormT)
  | iabs (i : Issue) (f : FormT)
  | and (i : Issue) (f : FormT)
  | or (i : Issue) (f : FormT)
  | xor (i : Issue) (f : FormT)
  | shl (i : Issue) (f : FormT)
  | shr (i : Issue) (f : FormT)
  | sar (i : Issue) (f : FormT)
  | popc (i : Issue) (f : FormT)
  | clz (i : Issue) (f : FormT)
  | bfe (i : Issue) (f : FormT)
  | bfi (i : Issue) (f : FormT)
  | iaddi (i : Issue) (f : FormI)
  | imuli (i : Issue) (f : FormI)
  | andi (i : Issue) (f : FormI)
  | ori (i : Issue) (f : FormI)
  | xori (i : Issue) (f : FormI)
  | shli (i : Issue) (f : FormI)
  | shri (i : Issue) (f : FormI)
  | sari (i : Issue) (f : FormI)
  | movi (i : Issue) (f : FormI)
  | mov (i : Issue) (f : FormT)
  | sel (i : Issue) (f : FormT)
  | fadd (i : Issue) (f : FormT)
  | fsub (i : Issue) (f : FormT)
  | fmul (i : Issue) (f : FormT)
  | ffma (i : Issue) (f : FormT)
  | fmin (i : Issue) (f : FormT)
  | fmax (i : Issue) (f : FormT)
  | fabs (i : Issue) (f : FormT)
  | fneg (i : Issue) (f : FormT)
  | fdiv (i : Issue) (f : FormT)
  | fsqrt (i : Issue) (f : FormT)
  | frcp (i : Issue) (f : FormT)
  | frsq (i : Issue) (f : FormT)
  | fexp2 (i : Issue) (f : FormT)
  | flog2 (i : Issue) (f : FormT)
  | ftanh (i : Issue) (f : FormT)
  | fmuli (i : Issue) (f : FormI)
  | fsin (i : Issue) (f : FormT)
  | fcos (i : Issue) (f : FormT)
  | isetp (i : Issue) (f : FormT)
  | fsetp (i : Issue) (f : FormT)
  | plop (i : Issue) (f : FormT)
  | i2f (i : Issue) (f : FormT)
  | f2i (i : Issue) (f : FormT)
  | cvt (i : Issue) (f : FormT)
  | ld (i : Issue) (f : FormI)
  | st (i : Issue) (f : FormI)
  | ldl (i : Issue) (f : FormI)
  | stl (i : Issue) (f : FormI)
  | atom (i : Issue) (f : FormT)
  | fence (i : Issue) (f : FormI)
  | gfeedr (i : Issue) (f : FormT)
  | gfeeds (i : Issue) (f : FormT)
  | gdrain (i : Issue) (f : FormT)
  | greshape (i : Issue) (f : FormT)
  | grelease (i : Issue) (f : FormT)
  | spadd (i : Issue) (f : FormT)
  | spwait (i : Issue) (f : FormT)
  | sparrive (i : Issue) (f : FormT)
  | spread (i : Issue) (f : FormT)
  | alloc (i : Issue) (f : FormT)
  | free (i : Issue) (f : FormT)
  | hput (i : Issue) (f : FormT)
  | hget (i : Issue) (f : FormT)
  | philox (i : Issue) (f : FormT)
  | rnde (i : Issue) (f : FormT)
  | msend (i : Issue) (f : FormT)
  | mrecv (i : Issue) (f : FormT)
  -- Core and grid events
  | pendingWriteLands (core slot n : Nat)
  | sheafPlace (e : EntryRef) (core : Nat)
  | sheafSwapOut (core slot : Nat)
  | sheafRestore (core n : Nat)
  | feedAccepted (gang : Nat) (side bank : Bool)
  | cellFire (gang row col : Nat)
  | elementWisePair (gang row : Nat) (x y : Word) (ncw : Word) (dcw : DWord) (doff : Nat) (tid : Word) (elem : DWord)
  | drainComplete (gang core : Nat)
  | checkerResult (id : Nat) (accs outs : List Word)
  | arbiterVerdict (id : Nat) (accs outs : List Word)
  | rowShift (course row : Nat)
  | rowShiftDone (course row : Nat)
  | reshapeComplete (tract : Nat)
  | gangParityError (gang core part : Nat)
  | contextAbort (ctx : Nat)
  -- Memory events
  | homeSliceAccess (n : Nat)
  | fillArrives (line : Nat) (words : List WordState)
  | orderedContribution (n : Nat)
  | orderedRetry (n : Nat)
  | orderedSequenceAbandon (addr : Nat)
  | scrub (addr : Nat) (st : WordState) (symbols : Word)
  -- Spars
  | sparHomeOperation (spar : Nat)
  | agentSparOperation (fn jslot : Nat) (which : AgentSpar) (op : AgentOp)
  -- Gutters and update engines
  | chunkStart (fn jslot chunk : Nat)
  | contribution (port : Nat) (m : Msg)
  | engineApplyChunk (engine : Nat)
  | preBlockApply (fn jslot entry : Nat)
  | rowCopyDone (engine : Nat)
  | parameterMessage (port : Nat) (m : Msg)
  | blockStreamStart (fn jslot : Nat)
  | blockContribution (port : Nat) (m : Msg)
  | escape (port : Nat) (m : Msg)
  | blockResult (port : Nat) (m : Msg)
  | ridgeSend (fn jslot : Nat)
  | ridge (port : Nat) (m : Msg)
  | void (port : Nat) (m : Msg)
  | replayStart (fn jslot : Nat)
  | join (port : Nat) (m : Msg)
  | spareTakeover (fn jslot : Nat) (t : Takeover)
  | ridgeTimeout (fn jslot : Nat)
  | ridgeOverdue (fn jslot : Nat)
  | checkpointStreamComplete (fn jslot : Nat) (buddy : Bool)
  -- Fabric
  | read (port : Nat) (m : Msg)
  | write (port : Nat) (m : Msg)
  | atomic (port : Nat) (m : Msg)
  | atomicOrd (port : Nat) (m : Msg)
  | readResp (port : Nat) (m : Msg)
  | writeAck (port : Nat) (m : Msg)
  | atomicResp (port : Nat) (m : Msg)
  | returnMsg (port : Nat) (m : Msg)
  | nak (port : Nat) (m : Msg)
  | messageForward (port : Nat) (m : Msg)
  | remoteTimeout (tag : Nat)
  | flitReceive (port : Nat) (flit : Flit)
  | retryRequest (port : Nat) (next : BitVec 12)
  | berWindow (port errors bits : Nat)
  | portTrainingComplete (port : Nat) (lanes : Byte) (peer : BitVec 16) (peerPort : BitVec 6)
  | vcStalled (port vc : Nat)
  | violationScoreDecay
  | reorderRelease (port : Nat)
  -- Queue commands
  | queueNop (e : EntryRef)
  | launch (e : EntryRef)
  | copy (e : EntryRef)
  | fill (e : EntryRef)
  | reshape (e : EntryRef)
  | sparadd (e : EntryRef)
  | ctxcreate (e : EntryRef)
  | ctxdestroy (e : EntryRef)
  | ctxrecover (e : EntryRef)
  | codeload (e : EntryRef)
  | codeunload (e : EntryRef)
  | oalloc (e : EntryRef)
  | ofree (e : EntryRef)
  | oshare (e : EntryRef)
  | odrop (e : EntryRef)
  | ocopy (e : EntryRef)
  | query (e : EntryRef)
  -- Queue engine events
  | entryFetch (fn q : Nat)
  | entryFinish (e : EntryRef)
  | completionPost (fn q : Nat)
  | modtimeExpires (fn q : Nat)
  | pageIn (ctx : Nat)
  | destructionComplete (ctx : Nat)
  -- Register writes with a row of their own
  | hqDbsq (fn q : Nat) (tail : Word)
  | hqDbcq (fn q : Nat) (head : Word)
  | queueEnable (fn q : Nat) (v : DWord)
  | queueDisable (fn q : Nat) (v : DWord)
  | mailboxSend (fn ch : Nat)
  | inboundGoClear (fn ch : Nat)
  | channelOpenWrite (fn ch : Nat) (v : Word)
  | mcAccept (fn ch : Nat)
  | mcAnswer (fn ch : Nat) (words : List Word)
  | secureClaim (rid : BitVec 16) (ide : Bool) (v : DWord)
  | sparCreate (fn : Nat) (v : DWord)
  | sparMap (fn : Nat) (v : DWord)
  | sparUnmap (fn : Nat) (v : DWord)
  | sparDestroy (fn : Nat) (v : DWord)
  | sparRead (fn : Nat) (v : DWord)
  | sparSet (fn : Nat) (v : DWord)
  | jobLoad (fn : Nat) (v : DWord)
  | jobUnload (fn : Nat) (v : DWord)
  | forceVoid (fn : Nat) (v : DWord)
  | membershipReload (fn : Nat) (v : DWord)
  | replay (fn : Nat) (v : DWord)
  | skip (fn : Nat) (v : DWord)
  | checkpointRegister (fn : Nat) (v : DWord)
  | resume (fn : Nat) (v : DWord)
  | restore (fn : Nat) (v : DWord)
  | restoreFromBuddy (fn : Nat) (v : DWord) (body : List CodeWord)
  | hoardRelease (fn : Nat) (v : Word)
  | errCodeClear (fn : Nat) (v : Word)
  | windowEntryEnable (fn index : Nat) (v : DWord)
  | windowEntryInvalidate (fn index : Nat) (v : DWord)
  | windowInvalidateDone (fn index : Nat)
  | quarantineClear (fn port : Nat) (v : DWord)
  | retrain (fn port : Nat) (v : DWord)
  | injPctlWrite (fn port : Nat) (v : DWord)
  | injPseedWrite (fn port : Nat) (v : DWord)
  | signatureRingEnable (fn : Nat) (v : Word)
  | powerCapWrite (fn : Nat) (v : DWord)
  | ctxKill (fn : Nat) (v : DWord)
  | fullLoad (fn : Nat) (v : DWord)
  | partitionLoad (fn : Nat) (v : DWord)
  | trussApply
  -- Function shut-down and reset
  | shutdown (fn target : Nat)
  | flr (fn : Nat)
  | vfEnableClear
  | shutdownComplete (fn us : Nat)
  | functionWedged (fn us : Nat)
  | functionEnable (fn : Nat)
  | erase (fn target : Nat)
  | eraseComplete (fn : Nat)
  | fullreset (fn : Nat) (v : DWord)
  | conventionalReset
  | cxlReset
  | cxlMemRead (dpa : Nat) (len : Nat)
  | cxlMemWrite (dpa : Nat) (data : List Byte) (poison : Bool)
  | splitWriteTimeout (fn : Nat)
  | splitReadLow (rid : BitVec 16) (ide : Bool) (fn off : Nat)
  -- Offsets from `barSize` on: 64 KiB of BAR2, then 4 KiB of the function's configuration space, then the boot capability.
  | registerWrite (rid : BitVec 16) (ide : Bool) (fn off : Nat) (wide : Bool) (v : DWord)
  -- Boot and identity
  | bootMailboxSend (v : Word)
  | doeBootChunk (kind : Byte) (last : Bool) (off total : Word) (data : List Byte)
  | firmwareVerify
  | bootImageApply
  | memoryTrainingComplete (badUnits : List Nat) (channels : List (Nat × Nat))
  | fabricBringupComplete
  | identityKeysReady (ok : Bool)
  | getVersion (r : SpdmReq)
  | getCapabilities (r : SpdmReq)
  | negotiateAlgorithms (r : SpdmReq)
  | getDigests (r : SpdmReq)
  | getCertificate (r : SpdmReq)
  | challenge (r : SpdmReq)
  | getMeasurements (r : SpdmReq)
  | keyExchange (r : SpdmReq)
  | finish (r : SpdmReq)
  | heartbeat (r : SpdmReq)
  | endSession (r : SpdmReq)
  | vendorDefinedRequest (r : SpdmReq)
  -- PLDM over I3C
  | getPdrRepositoryInfo
  | getPdr (record : Nat)
  | getSensorReading (id : Nat)
  | getNumericEffecterValue (id : Nat)
  | setNumericEffecterValue (id value : Nat)
  | setEventReceiver (eid : Byte)
  | pollForPlatformEventMessage (ack : Nat)
  | entdaa (address : BitVec 7)
  -- Power, clocks and supplies
  | powerBudgetTick (energyUJ : Nat) (demand : List (Nat × Nat × Nat)) (island : Int × Nat)
  | courseStandby (course : Nat)
  | courseOff (course : Nat)
  | courseWakeComplete (course : Nat)
  | pacingInterval (course : Nat)
  | temperatureSample (course : Nat) (temp : Int) (mv : Nat)
  | thermalTripTimeout (course : Nat)
  | hbmStackTemperature (stack : Nat) (temp : Int)
  | deliverySense (powerW currentMA vinMV : Nat)
  | deliveryThrottleEnd
  | courseSupplyFault (course : Nat)
  | vinMainOutOfLimits (mv : Nat)
  | vinMainLoss
  | vinMainStable (perst : Bool)
  | vinAonApplied (testmode sris : Bool)
  | vinAonLoss
  | pmbusPoll (answers : Bool) (vinMV iinMA : Nat) (status : BitVec 16)
  | energySample (contexts : List (Nat × Nat)) (jobs : List (Nat × Nat × Nat)) (idle : List (Nat × Nat)) (base : Nat)
  | contextEnergyWriteback (ctx : Nat)
  | clockStop
  | clockReturn
  -- Test port
  | tapReset
  | bypass
  | idcode
  | samplePreload
  | extest
  | clamp
  | highz
  | instrNet
  -- Added rows
  | vinMainReturnsWithinLimits (mv : Nat)
  | pldmBaseRequest (cmd : Byte) (body : List Byte)
  | ideKmMessage (r : SpdmReq)
deriving DecidableEq, Repr

end Sys2Proof
end

