-- ==== Sys2Proof/Machine/Bytes.lean ====
section
/-! DEFINITION. Bit fields, little-endian byte strings (R8), CRC-32C, SHA-384 and the Philox generator. -/

namespace Sys2Proof.Machine

/-- Bits hi:lo of a natural number. -/
def field (v hi lo : Nat) : Nat := (v >>> lo) % 2 ^ (hi + 1 - lo)

/-- Bit i of a natural number. -/
def bitOf (v i : Nat) : Bool := v.testBit i

/-- The number with bit i set. -/
def setBitN (v i : Nat) : Nat := v ||| (1 <<< i)

/-- The number with bit i clear. -/
def clearBitN (v i : Nat) : Nat := if v.testBit i then v - (1 <<< i) else v

/-- How many of the low n bits are set. -/
def popCount : Nat → Nat → Nat
  | 0, _ => 0
  | n + 1, v => popCount n v + (if v.testBit n then 1 else 0)

/-- The positions of the set bits below n, rising. -/
def setBits (n v : Nat) : List Nat := (List.range n).filter (fun i => v.testBit i)

/-- A value that saturates at n bits (saturating counters). -/
def sat (n v : Nat) : Nat := min v (2 ^ n - 1)

/-- The n bytes of v, least significant first (R8). -/
def leBytes : Nat → Nat → List Byte
  | 0, _ => []
  | n + 1, v => BitVec.ofNat 8 v :: leBytes n (v >>> 8)

/-- The number a little-endian byte string stands for (R8). -/
def ofLe : List Byte → Nat
  | [] => 0
  | b :: bs => b.toNat + 256 * ofLe bs

/-- The little-endian number of `len` bytes at offset `off` of a byte string; bytes past its end are 0. -/
def leAt (bs : List Byte) (off len : Nat) : Nat := ofLe ((bs.drop off).take len)

/-- Pad with zero bytes, or cut, to n bytes. -/
def padTo : Nat → List Byte → List Byte
  | 0, _ => []
  | n + 1, [] => 0 :: padTo n []
  | n + 1, b :: bs => b :: padTo n bs

/-- Cut a byte string into pieces of n bytes, at most `fuel` of them. -/
def chunksOf (n : Nat) : Nat → List Byte → List (List Byte)
  | 0, _ => []
  | fuel + 1, bs => if bs.isEmpty then [] else bs.take n :: chunksOf n fuel (bs.drop n)

/-- A signed number from its n-bit two's complement. -/
def signedOf (n v : Nat) : Int := if v.testBit (n - 1) then (v : Int) - 2 ^ n else v

/-- An n-bit two's complement code of a signed number. -/
def codeOf (n : Nat) (v : Int) : Nat := (v % (2 ^ n : Nat)).toNat

/-! ## CRC-32C -/

/-- Eight shifts of the reflected Castagnoli register. -/
def crcShift : Nat → Word → Word
  | 0, c => c
  | n + 1, c => crcShift n (if c.getLsbD 0 then (c >>> 1) ^^^ 0x82F63B78#32 else c >>> 1)

/-- CRC-32C of a byte string (R270, R330, R348, R367). -/
def crc32c (bs : List Byte) : Word :=
  (bs.foldl (fun c b => crcShift 8 (c ^^^ b.setWidth 32)) 0xFFFFFFFF#32) ^^^ 0xFFFFFFFF#32

/-! ## SHA-384 -/

def shaK : List DWord :=
  [0x428a2f98d728ae22, 0x7137449123ef65cd, 0xb5c0fbcfec4d3b2f, 0xe9b5dba58189dbbc, 0x3956c25bf348b538,
   0x59f111f1b605d019, 0x923f82a4af194f9b, 0xab1c5ed5da6d8118, 0xd807aa98a3030242, 0x12835b0145706fbe,
   0x243185be4ee4b28c, 0x550c7dc3d5ffb4e2, 0x72be5d74f27b896f, 0x80deb1fe3b1696b1, 0x9bdc06a725c71235,
   0xc19bf174cf692694, 0xe49b69c19ef14ad2, 0xefbe4786384f25e3, 0x0fc19dc68b8cd5b5, 0x240ca1cc77ac9c65] ++
  [0x2de92c6f592b0275, 0x4a7484aa6ea6e483, 0x5cb0a9dcbd41fbd4, 0x76f988da831153b5, 0x983e5152ee66dfab,
   0xa831c66d2db43210, 0xb00327c898fb213f, 0xbf597fc7beef0ee4, 0xc6e00bf33da88fc2, 0xd5a79147930aa725,
   0x06ca6351e003826f, 0x142929670a0e6e70, 0x27b70a8546d22ffc, 0x2e1b21385c26c926, 0x4d2c6dfc5ac42aed,
   0x53380d139d95b3df, 0x650a73548baf63de, 0x766a0abb3c77b2a8, 0x81c2c92e47edaee6, 0x92722c851482353b] ++
  [0xa2bfe8a14cf10364, 0xa81a664bbc423001, 0xc24b8b70d0f89791, 0xc76c51a30654be30, 0xd192e819d6ef5218,
   0xd69906245565a910, 0xf40e35855771202a, 0x106aa07032bbd1b8, 0x19a4c116b8d2d0c8, 0x1e376c085141ab53,
   0x2748774cdf8eeb99, 0x34b0bcb5e19b48a8, 0x391c0cb3c5c95a63, 0x4ed8aa4ae3418acb, 0x5b9cca4f7763e373,
   0x682e6ff3d6b2b8a3, 0x748f82ee5defb2fc, 0x78a5636f43172f60, 0x84c87814a1f0ab72, 0x8cc702081a6439ec] ++
  [0x90befffa23631e28, 0xa4506cebde82bde9, 0xbef9a3f7b2c67915, 0xc67178f2e372532b, 0xca273eceea26619c,
   0xd186b8c721c0c207, 0xeada7dd6cde0eb1e, 0xf57d4f7fee6ed178, 0x06f067aa72176fba, 0x0a637dc5a2c898a6,
   0x113f9804bef90dae, 0x1b710b35131c471b, 0x28db77f523047d84, 0x32caab7b40c72493, 0x3c9ebe0a15c9bebc,
   0x431d67c49c100d4c, 0x4cc5d4becb3e42b6, 0x597f299cfc657e2a, 0x5fcb6fab3ad6faec, 0x6c44198c4a475817]

def shaInit : List DWord :=
  [0xcbbb9d5dc1059ed8, 0x629a292a367cd507, 0x9159015a3070dd17, 0x152fecd8f70e5939,
   0x67332667ffc00b31, 0x8eb44a8768581511, 0xdb0c2e0d64f98fa7, 0x47b5481dbefa4fa4]

/-- A big-endian 64-bit word of eight bytes. -/
def beWord (bs : List Byte) : DWord := bs.foldl (fun (w : DWord) b => (w <<< 8) ||| b.setWidth 64) 0

def beBytes (n : Nat) (v : Nat) : List Byte := (leBytes n v).reverse

/-- Extend the message schedule by n words; the newest word is first. -/
def shaSchedule : Nat → List DWord → List DWord
  | 0, w => w
  | n + 1, w =>
    let w2 := w.getD 1 0
    let w15 := w.getD 14 0
    let s0 := w15.rotateRight 1 ^^^ w15.rotateRight 8 ^^^ (w15 >>> 7)
    let s1 := w2.rotateRight 19 ^^^ w2.rotateRight 61 ^^^ (w2 >>> 6)
    shaSchedule n ((w.getD 15 0 + s0 + w.getD 6 0 + s1) :: w)

def shaRound (h : List DWord) (kw : DWord × DWord) : List DWord :=
  let a := h.getD 0 0; let b := h.getD 1 0; let c := h.getD 2 0; let d := h.getD 3 0
  let e := h.getD 4 0; let f := h.getD 5 0; let g := h.getD 6 0; let hh := h.getD 7 0
  let s1 := e.rotateRight 14 ^^^ e.rotateRight 18 ^^^ e.rotateRight 41
  let ch := (e &&& f) ^^^ (~~~e &&& g)
  let t1 := hh + s1 + ch + kw.1 + kw.2
  let s0 := a.rotateRight 28 ^^^ a.rotateRight 34 ^^^ a.rotateRight 39
  let maj := (a &&& b) ^^^ (a &&& c) ^^^ (b &&& c)
  [t1 + (s0 + maj), a, b, c, d + t1, e, f, g]

def shaBlock (h : List DWord) (block : List Byte) : List DWord :=
  let w := (shaSchedule 64 ((chunksOf 8 16 block).map beWord).reverse).reverse
  List.zipWith (· + ·) h ((List.zip shaK w).foldl shaRound h)

/-- SHA-384 of a byte string: 48 bytes. -/
def sha384 (bs : List Byte) : List Byte :=
  let zeros := (111 - bs.length % 128 + 128) % 128
  let msg := bs ++ (0x80#8 :: List.replicate zeros 0#8) ++ beBytes 16 (8 * bs.length)
  (((chunksOf 128 (msg.length / 128) msg).foldl shaBlock shaInit).take 6).flatMap (fun w => beBytes 8 w.toNat)

/-- The content digest of R364 and R210: the first 16 bytes of the SHA-384, as a little-endian integer. -/
def digest16 (bs : List Byte) : BitVec 128 := BitVec.ofNat 128 (ofLe ((sha384 bs).take 16))

/-- The digest field of a journal entry: content of 16 bytes or fewer stands as it is (R364). -/
def contentDigest (bs : List Byte) : BitVec 128 :=
  if bs.length ≤ 16 then BitVec.ofNat 128 (ofLe bs) else digest16 bs

/-! ## Philox4x32-10 (R130) -/

def philoxRounds : Nat → Word × Word × Word × Word → Word → Word → Word × Word × Word × Word
  | 0, c, _, _ => c
  | n + 1, (c0, c1, c2, c3), k0, k1 =>
    let p0 := 0xD2511F53 * c0.toNat
    let p1 := 0xCD9E8D57 * c2.toNat
    philoxRounds n
      (BitVec.ofNat 32 (p1 >>> 32) ^^^ c1 ^^^ k0, BitVec.ofNat 32 p1,
       BitVec.ofNat 32 (p0 >>> 32) ^^^ c3 ^^^ k1, BitVec.ofNat 32 p0)
      (k0 + 0x9E3779B9#32) (k1 + 0xBB67AE85#32)

/-- One Philox4x32-10 block of counter (c0..c3) and key (k0, k1). -/
def philox (c0 c1 c2 c3 k0 k1 : Word) : Word × Word × Word × Word := philoxRounds 10 (c0, c1, c2, c3) k0 k1

/-- The 16 random bits of element e of a tensor in a step of a job with the given seed (R49, R205). -/
def roundBits (seed : DWord) (tid step : Word) (e : DWord) : BitVec 16 :=
  let b := e.toNat / 8
  let k0 := seed.extractLsb' 0 32
  let k1 := seed.extractLsb' 32 32 ^^^ tid
  let (w0, w1, w2, w3) := philox (BitVec.ofNat 32 b) (BitVec.ofNat 32 (b >>> 32)) step 0 k0 k1
  let w := match e.toNat % 8 / 2 with
    | 0 => w0 | 1 => w1 | 2 => w2 | _ => w3
  if e.toNat % 2 = 0 then w.extractLsb' 0 16 else w.extractLsb' 16 16

/-- One step of the 64-bit generator of R281. -/
def xorshift (s : DWord) : DWord :=
  let s := s ^^^ (s <<< 13)
  let s := s ^^^ (s >>> 7)
  s ^^^ (s <<< 17)

end Sys2Proof.Machine
end

