-- ==== Sys2Proof/Config.lean ====
section
/-! DEFINITION. What an implementation fixes and the free values: constants without a body, of which
nothing can be proved, so that a claim holds whatever they are. Each is named in the assumption log. -/

namespace Sys2Proof.Config

/-- A value the manual leaves undefined after an instruction that goes on (R94, R105, R392): the
argument is the state's counter of free values drawn. -/
opaque freeWord : Nat → Word

/-- A byte of DDR5 that nothing has written under the key now in force (R450): it depends on the
address and on the counter of free values. -/
opaque ddrByte : Nat → Nat → Byte

/-- Whether a DDR5 code word that nothing has written since power-up reads as uncorrectable (R450). -/
opaque ddrBad : Nat → Bool

/-- A byte of host memory that no write of this device has set: the host's own content (R310). -/
opaque hostByte : Nat → Byte

/-- 1/x within 1 ulp (R116). -/
opaque frcp : Word → Word

/-- 1/√x within 1 ulp (R116). -/
opaque frsq : Word → Word

/-- 2^x within 2 ulp (R116). -/
opaque fexp2 : Word → Word

/-- log₂ x within 2 ulp (R116). -/
opaque flog2 : Word → Word

/-- tanh x within 2 ulp (R116). -/
opaque ftanh : Word → Word

/-- sin x within 2 ulp for |x| ≤ 2¹⁵, undefined bits beyond (R116). -/
opaque fsin : Word → Word

/-- cos x, as sin. -/
opaque fcos : Word → Word

/-- The derivative of the activation with the given code (3, 4, 5, 8, 10) at a finite z, with the
parameter α, within 2 ulp (R73). -/
opaque fprime : Nat → Word → Word → Word

/-- The random start of the DDR5 key epoch of a slot at the given power-on of the always-on supply (R431). -/
opaque epochBase : Nat → Nat → DWord

/-- The RSA-PSS check of a firmware manifest: key, exponent, signature, manifest (R423). -/
opaque rsaPssVerify : List Byte → List Byte → List Byte → List Byte → Bool

/-- The SLH-DSA-SHA2-192s check of a firmware manifest: key, signature, manifest (R423). -/
opaque slhVerify : List Byte → List Byte → List Byte → Bool

/-- The boot ROM's SHA-384 digests of the signing keys of key set KEYSEL: false RSA, true SLH-DSA. -/
opaque romKeyDigest : Nat → Bool → List Byte

/-- The SHA-384 of the boot ROM, measurement block 1 (R429). -/
opaque romDigest : List Byte

/-- The signature by the alias key of an algorithm (false RSA, true SLH-DSA) over a transcript hash,
for the firmware whose manifest digest is given (R425, R428). -/
opaque aliasSign : Bool → List Byte → List Byte → List Byte

/-- The certificate chain of slot 0 or 1 with its alias certificate, for the accepted firmware (R426). -/
opaque certChain : Nat → List Byte → List Byte

/-- The Vangey identifiers the manual does not spell out: PCI-SIG vendor ID and MIPI manufacturer ID. -/
opaque pciVendor : BitVec 16
opaque mipiManufacturer : BitVec 15

/-- The body of an SPDM response that SPDM 1.3 decides and this manual does not: request code, the two
parameter bytes, the body, and the number of requests answered before. -/
opaque spdmBody : Nat → Byte → Byte → List Byte → Nat → List Byte

/-- Whether the SPDM layer accepts a request's contents (algorithm lists, FINISH verify data). -/
opaque spdmAccepts : Nat → Byte → Byte → List Byte → Nat → Bool

/-- The body of a PLDM response or PDR that PLDM decides and this manual does not. -/
opaque pldmBody : Nat → Nat → List Byte

/-- The firmware's interpretation of the processor-specific units of the power grant: the highest clock
step whose predicted draw fits a grant in milliwatts, for a course (R405). -/
opaque stepFor : Nat → Nat → Nat

/-- The draw of the whole device, in milliwatts, with every unit at its minimum rate (R404). -/
opaque minDraw : Nat

/-- Flits beyond the first that a port's receive buffer holds for each channel. -/
opaque vcMore : Nat

/-- Flits that a port's receive buffer holds for each channel, the credits that it grants (R263, R270): at least one
(DEDUCED: a channel without room would carry nothing). -/
def vcDepth : Nat := vcMore + 1

/-- Which of the possible outcomes holds where the manual says that one of two happens and not which
(R105, R261): the argument is the counter of free values drawn. -/
opaque freeBool : Nat → Bool

end Sys2Proof.Config
end

