-- ==== Sys2Proof/Machine/State.lean ====
section
/-! DEFINITION. The state of the AF7 as plain data: every register, table, queue, buffer and mode the
manual gives the device, unit by unit, and the state after reset. Sparse tables list only the units
that differ from their idle state. -/

namespace Sys2Proof.Machine

/-! ## Numbers -/

/-- A value inside the arithmetic: a NaN with its sign, a signed infinity, or the exact finite value
(-1)^neg · mant · 2^exp, whose mantissa 0 is a signed zero. -/
inductive Num where
  | nan (neg : Bool)
  | inf (neg : Bool)
  | fin (neg : Bool) (mant : Nat) (exp : Int)
deriving DecidableEq, Repr

/-! ## Sheaves (R84) -/

/-- Thread states (R84). -/
inductive TState where
  | ready | waitData | parkBar | parkWhole | parkSpar | parkMbx | exited
deriving DecidableEq, Repr

/-- The wait of a thread (R289): the spar by local id and translation (R284, R285), the condition, the
register its result goes to, and the entry's state: 1 parked, 2 satisfied, 3 abandoned, 4 reset. -/
structure SparWait where
  lid : Nat
  phys : Nat
  cond : Nat
  thresh : DWord
  dst : Nat
  code : Nat
deriving DecidableEq, Repr

/-- A thread's arrival token (R289, R291). -/
structure Token where
  lid : Nat
  phys : Nat
  gen : Nat
  phase : Bool
deriving DecidableEq, Repr

/-- The whole-sheaf instruction at which a thread stands in PARK_WHOLE (R99). -/
inductive WholeIns where
  | feed (f : FormT)
  | drain (f : FormT)
deriving DecidableEq, Repr

/-- One thread of a slot (R84). -/
structure Thread where
  g : Map Word
  p : BitVec 8
  pc : DWord
  st : TState
  waits : List Nat
  wait : Option SparWait
  token : Option Token
  /-- The guard was false at the whole-sheaf instruction it stands at (R108). -/
  masked : Bool
  /-- The whole-sheaf instruction that it waits at. -/
  whole : Option WholeIns
  /-- The id of the sheaf barrier at which it stands in PARK_BAR (R98). -/
  bar : Nat
deriving DecidableEq, Repr

/-- An open register feed of a slot (R122). `lanes` holds the register words of each lane in step
order, newest last. -/
structure OpenFeed where
  gang : Nat
  side : Bool
  bank : Bool
  clr : Bool
  klen : Nat
  pairLo : Word
  ncw : Word
  count : Nat
  lanes : Map (List Word)
deriving DecidableEq, Repr

/-- A pending register result of a slot (R92, R94): `ready` once its value is there. `thread` 16 stands
for a u register. `drain` marks a register drain, `clobber` a later write to the register, which makes the value of a
drain undefined and leaves any other result with nothing to write. -/
structure Pend where
  tag : Nat
  thread : Nat
  reg : Nat
  val : Word
  ready : Bool
  drain : Bool
  clobber : Bool
deriving DecidableEq, Repr

/-- A sheaf slot in use (R84). `launch` names the queue entry that placed it, `block` its block of the
context's wait list (R289). -/
structure Slot where
  ctx : Nat
  threads : Map Thread
  u : Map Word
  barId : Nat
  barMask : Nat
  openFeed : Option OpenFeed
  pend : List Pend
  launch : Option EntryRef
  index : Nat
  block : Nat
deriving DecidableEq, Repr

/-- A line of a near-core cache (R143 to R145): its valid bytes, which of them are dirty, and which of
its four code words are husks. -/
structure NLine where
  bytes : Map Byte
  dirty : List Nat
  husks : List Nat
  stamp : Nat
deriving DecidableEq, Repr

/-- A core (R84, R87, R89, R142, R143). -/
structure Core where
  slots : Map Slot
  ptr : Nat
  ls : Map Byte
  lsHusk : List Nat
  lines : Map NLine
  lsWin : Map (Nat × Nat)
deriving DecidableEq, Repr

/-- A sheaf swapped out of its core (R102): the slot as it was, and its save area's number. -/
structure Saved where
  core : Nat
  area : Nat
  slot : Slot
deriving DecidableEq, Repr

/-! ## The grid (R53 to R83) -/

/-- One operand on its way through a gang: bank, position in the bank's accepted steps, the clear mark
of a first step, and the one or two exact values of the step; `low` marks a lower piece (R41, R56). -/
structure Opnd where
  bank : Bool
  seq : Nat
  clr : Bool
  v0 : Num
  v1 : Option Num
  low : Bool
  raw : Word
deriving DecidableEq, Repr

/-- One past step of a cell, kept for shadow sampling (R378): both operands as fed and the accumulator
before the step. -/
structure Hist where
  a : Opnd
  b : Opnd
  before : Word
deriving DecidableEq, Repr

/-- A cell (R54): two accumulators, the skids that hold its A and B operands, the steps it has fired in
each bank, and the last 256 steps of each bank. -/
structure Cell where
  acc0 : Word
  acc1 : Word
  aq : List Opnd
  bq : List Opnd
  done0 : Nat
  done1 : Nat
  hist0 : List Hist
  hist1 : List Hist
deriving DecidableEq, Repr

/-- One edge feed that has arrived at a gang (R61): the core that issued it, its gang-level fields, and
its steps for each of the core's four lanes. `wait` names the remote stream that still fetches them. -/
structure EdgeFeed where
  core : Nat
  side : Bool
  bank : Bool
  clr : Bool
  klen : Nat
  ncw : Word
  steps : Nat
  lanes : List (List Opnd)
  wait : Option Nat
deriving DecidableEq, Repr

/-- An edge stream whose operands lie on another device (R257): its descriptor, the lines it has asked for
and those that have come, each with its data and the code words of it that are husks. -/
structure Stream where
  id : Nat
  core : Nat
  ctx : Nat
  gang : Nat
  side : Bool
  ncw : Word
  desc : Nat
  need : List Nat
  got : Map (Nat × List Nat)
  pc : DWord
  word : Nat
  idx : Nat
deriving DecidableEq, Repr

/-- A drain that a core has issued and that has not completed (R70 to R72, R124). `need` is the number
of accepted steps of the bank that it waits for. -/
structure Drain where
  core : Nat
  slot : Nat
  ctx : Nat
  dcw : DWord
  ncw : Word
  tOff : Nat
  zOff : Nat
  dOff : Nat
  dst : BitVec 6
  tslot : Nat
  tid : Word
  base : DWord
  pitch : Word
  need : Nat
  /-- Threads that receive an element of a register drain, and the tag of their pending writes. -/
  takers : List Nat
  tag : Nat
deriving DecidableEq, Repr

/-- A gang in use (R57 to R81): its bound context, edge feeds that wait for their peers, the streams not
yet taken by the first cells of each row and column, accepted steps per side and bank, the step at which each
bank was last cleared by a feed and by each core's drain, pending drains, and a release that waits (R125). -/
structure Gang where
  ctx : Option Nat
  edge : List EdgeFeed
  rows : Map (List Opnd)
  cols : Map (List Opnd)
  acceptedA : Nat × Nat
  acceptedB : Nat × Nat
  cleared : Nat × Nat
  coreClear : Map (Nat × Nat)
  cells : Map Cell
  drains : List Drain
  releasing : Bool
  /-- An array start of this gang waits in its course's pacing queue (R400). -/
  held : Bool
  /-- An element-wise run has been started in it (R75). -/
  ew : Bool
deriving DecidableEq, Repr

/-- A reshape request (R77, R78): `running` once it has passed its checks. -/
structure Reshape where
  tract : Nat
  running : Bool
  ctx : Nat
  word : DWord
  fn : Nat
  sheaf : Bool
  /-- The issuing core, slot and destination of a GRESHAPE, or the queue entry of a RESHAPE. -/
  core : Nat
  slot : Nat
  tag : Nat
  entry : Option EntryRef
deriving DecidableEq, Repr

/-- A sampled drain under check (R377 to R381): where it was, the capture, the original's values, and
checker 1's values once it has differed. -/
structure Shadow where
  id : Nat
  core : Nat
  gang : Nat
  ctx : Nat
  drain : Drain
  window : Nat
  before : List Word
  opA : List Word
  opB : List Word
  countBefore : Nat
  accs : List Word
  outs : List Word
  tile : List Word
  rand : List (BitVec 16)
  checker1 : Option (List Word × List Word)
  rows : Nat × Nat
  capture : Option Nat
  /-- The job's function and slot, the step and the generation in which the drain ran. -/
  step : Option (Nat × Nat × Nat × Nat)
  /-- A verdict against a drain of the speculative step with its DETAIL, until that step becomes the current one (R380). -/
  verdict : Option (BitVec 16 × List Byte)
deriving DecidableEq, Repr

/-- A pending retirement (R23): the course row, logical column, core, and whether the shift is done but
the work not yet released. -/
structure Retire where
  course : Nat
  row : Nat
  col : Nat
  core : Nat
  tract : Nat
  cause : BitVec 16
  /-- The step has sealed or voided, so the shift may be applied. -/
  due : Bool
  shifting : Bool
  fn : Nat
  jslot : Option Nat
deriving DecidableEq, Repr

/-- Course power states (R397). -/
inductive Power where
  | run | standby | off | tripped | fault
deriving DecidableEq, Repr

/-- An array start in a pacing queue (R400): its gang, its number of cores, and the intervals it has waited. -/
structure Start where
  gang : Nat
  cores : Nat
  age : Nat
  /-- It arrived at an empty queue, so that its wait is a whole number of intervals. -/
  first : Bool
deriving DecidableEq, Repr

/-- A course (R20 to R25, R377, R396, R397, R400, R407): power state, clock step, the controller's step,
temperature and voltage as sampled, residency, whether it is waking, its retired columns by row (32 for
a failed spare) and fence mask in always-on memory, its sampler, its pacing queue. -/
structure Course where
  power : Power
  step : Nat
  grant : Nat
  temp : Int
  mv : Nat
  res : Nat
  waking : Bool
  retired : Map Nat
  fence : Nat
  sampler : DWord
  queue : List Start
  credit : Nat
  /-- The step to which heat limits the clock, 20 when it does not (R407). -/
  heat : Nat
  /-- Milliseconds of the open averaging window in which it was seen in RUN (R414). -/
  runMs : Nat
deriving DecidableEq, Repr

/-! ## Memory (R136 to R171) -/

/-- The metadata word of a 64-byte DDR5 burst (R163) with the key it is encrypted under (R165, R431):
partition of the writer, generation, slot and epoch of the key. -/
structure DMeta where
  part : Nat
  gen : Nat
  keySlot : Nat
  keyEpoch : Nat
deriving DecidableEq, Repr

/-- HBM and DDR5: the listed bytes, in the canonical form of `Memory.wf`; the code words that are husks;
and the metadata of the DDR5 bursts written. An unlisted HBM byte reads as zero (R450); an unlisted DDR5
byte has never been written. -/
structure Memory where
  cells : List Host.Cell
  husks : List Nat
  metas : Map DMeta
deriving DecidableEq, Repr

/-- Kinds of access on their way to a home slice (R147, R152, R154). -/
inductive MemKind where
  | load | store | atom (op : Nat) | ordered (op : Nat)
deriving DecidableEq, Repr

/-- A memory access issued by a thread and not yet accepted at its home slice, or a miss that waits for
its fill (R147, R148): where it came from with its program counter and word, and `near` when its data also
fills the near-core cache. `remote` names the message of another device that it serves. -/
structure MemReq where
  tag : Nat
  core : Nat
  slot : Nat
  thread : Nat
  ctx : Nat
  pc : DWord
  word : Nat
  kind : MemKind
  addr : Nat
  vaddr : Nat
  size : Nat
  data : Nat
  cmp : Nat
  hint : Nat
  sext : Bool
  near : Bool
  ordsc : Word
  remote : Option Msg
deriving DecidableEq, Repr

/-- A die-cache line (R148 to R151): the partition whose way it takes, recency stamp, hint class (0
normal, 1 keep, 2 evict-first), its sectors read from memory, the bytes written since its last write-back,
the code words whose husk state the line overrides, and for a remote read-only line its window and its
1,024 bits of data. -/
structure DLine where
  part : Nat
  stamp : Nat
  cls : Nat
  valid : List Nat
  dirty : Map Byte
  words : Map Bool
  remote : Option (Nat × Nat)
deriving DecidableEq, Repr

/-- An open ordered sequence of an element (R154 to R157): its size, next index, count, and the buffered
contributions, each with its operation and operand. -/
structure OrdSeq where
  size : Nat
  next : Nat
  count : Nat
  buf : Map (Nat × Nat)
deriving DecidableEq, Repr

/-- A remote request this device has outstanding (R257 to R261): tag, requester, window index and global
address; what it is for when the device itself issued it (R375, R387). For a command of the queue engine: its entry, the
number of its transfer, and the address that a READ asks for. -/
inductive RemoteWhy where
  | thread (r : MemReq)
  | stream (id line : Nat)
  | collCounter (seq : Nat)
  | collWrite (seq : Nat)
  | command (e : EntryRef) (id : Nat) (addr : Option Nat)
  | buddy (fn jslot : Nat)
deriving DecidableEq, Repr

structure Remote where
  tag : Nat
  port : Nat
  window : Nat
  gaddr : DWord
  dev : BitVec 16
  why : RemoteWhy
deriving DecidableEq, Repr

/-! ## Spars (R282 to R302) -/

/-- Who waits on a spar: a resident thread, or a thread of a swapped sheaf (R288, R293). -/
inductive Waiter where
  | thread (core slot thread : Nat)
  | saved (ctx area thread : Nat)
deriving DecidableEq, Repr

/-- An operation on its way to a spar's home unit (R286). -/
inductive SparAct where
  | add (delta : DWord)
  | wait (cond : Nat) (thresh : DWord)
  | arrive
  | read
deriving DecidableEq, Repr

structure SparOp where
  core : Nat
  slot : Nat
  thread : Nat
  ctx : Nat
  lid : Nat
  gen : Nat
  tag : Nat
  pc : DWord
  word : Nat
  act : SparAct
deriving DecidableEq, Repr

/-- A physical spar (R282). `used` is false for a spar of the pool, which keeps its generation. `maps`
lists the map entries that name it, as context and local id (R300). `ops` are operations in arrival
order. -/
structure Spar where
  used : Bool
  kind : Nat
  value : DWord
  param : DWord
  init : DWord
  gen : Nat
  owner : Nat
  part : Nat
  aband : Bool
  step : Bool
  arr : Nat
  dep : Nat
  waiters : List Waiter
  tokens : List Waiter
  maps : List (Nat × Nat)
  ops : List SparOp
deriving DecidableEq, Repr

/-! ## Contexts and objects (R327 to R347) -/

/-- Context states (R328). -/
inductive CtxSt where
  | free | defined | faulted | destroying
deriving DecidableEq, Repr

/-- A kernel of a context's code table (R336): entry address, window size, spar ids, load address. -/
structure Kernel where
  entry : DWord
  win : Nat
  spars : Nat
  dst : DWord
deriving DecidableEq, Repr

/-- A context (R328, R330): the record's fields as the AF7 holds them. `aborting` marks a context whose
abort has not reached every unit (R105), `stopped` the cores on which it already issues nothing. -/
structure Ctx where
  st : CtxSt
  fn : Nat
  record : Nat
  winFirst : Nat
  winCount : Nat
  mapAddr : Nat
  mapLen : Nat
  maxShf : Nat
  waitList : Nat
  save : Nat
  code : Nat
  ncode : Nat
  maxObj : Nat
  hbmLim : Nat
  ddrLim : Nat
  heapHbm : DWord
  heapDdr : DWord
  crc : Word
  jobsl : Option Nat
  numflags : Word
  fault : BitVec 16
  objs : Nat
  hbmCh : Nat
  ddrCh : Nat
  energy : Nat
  resident : Bool
  stamp : Nat
  kernels : List Kernel
  saved : List Saved
  aborting : Bool
  stopped : List Nat
deriving DecidableEq, Repr

/-- A memory object (R337 to R341): tier (true DDR5), offset in its heap, size, the charged context and its
holders. -/
structure Obj where
  ddr : Bool
  off : Nat
  size : Nat
  owner : Nat
  holders : List Nat
deriving DecidableEq, Repr

/-- The object table of a partition (R337): live objects by index, the generation of each index issued,
and the retired indices. -/
structure ObjTab where
  objs : Map Obj
  gens : Map Nat
  retired : List Nat
deriving DecidableEq, Repr

/-! ## The hoard (R179 to R187) -/

/-- A hoard entry: job, block, where it lies (0 HBM, 1 DDR5, 2 absent), its length and its bytes with the
code words that are husks. -/
structure HEntry where
  job : Nat
  block : Nat
  disp : Nat
  len : Nat
  data : List Byte
  husks : List Nat
deriving DecidableEq, Repr

/-- What the hoard keeps of a job's current step (R180, R183, R187): the step, the block at which deep
recompute began, whether room ran out after releases, and whether the first spill has been logged. -/
structure HJob where
  step : Nat
  deep : Option Nat
  exhaust : Bool
  spilled : Bool
deriving DecidableEq, Repr

/-- A partition's hoard with its registers (R185). `job` and `step` are those of the most recent HPUT. -/
structure Hoard where
  entries : List HEntry
  jobs : Map HJob
  job : Nat
  step : Nat
  deepen : Bool
  mapBase : DWord
  mapEn : Bool
deriving DecidableEq, Repr

/-! ## Queues (R309 to R318) -/

/-- How far an entry has come (R315, R316). -/
inductive EState where
  | waiting
  | running
  | done (status : BitVec 16) (result : Word)
deriving DecidableEq, Repr

/-- A part of a range of context addresses: local memory, or memory of another device behind a window (R249, R257). -/
structure Span where
  win : Option Nat
  addr : Nat
  len : Nat
deriving DecidableEq, Repr

/-- A transfer of a command to or from another device: its number, its source and destination, the code words that have
come, each with its husk mark, and how the command ends. -/
structure Transfer where
  id : Nat
  src : List Span
  dst : List Span
  got : Map (Nat × Bool)
  status : BitVec 16
  result : Nat
deriving DecidableEq, Repr

/-- A submission entry the queue engine has fetched (R313): its 512 bits, its fetch number, the step it
belongs to, and its state. `post` says that its completion has been formed. -/
structure QEntry where
  n : Nat
  bits : BitVec 512
  jslot : Option Nat
  step : Nat
  attempt : Nat
  st : EState
  posted : Bool
  /-- A LAUNCH: sheaves placed on each core, and sheaves ended. -/
  placed : Map Nat
  ended : Nat
  /-- Its start has been counted as a wait for residency (R334). -/
  waited : Bool
  /-- It has finished, and its signal has been given (R315). -/
  signalled : Bool
  /-- Its status is the code of its context's fault, met before it finished (R106). -/
  aborted : Bool
  /-- Its transfer to or from another device (R252, R313). -/
  remote : Option Transfer
deriving DecidableEq, Repr

/-- A completion entry not yet written to its ring (R316). -/
structure Compl where
  cid : BitVec 16
  status : BitVec 16
  step : Word
  result : Word
  attempt : Byte
  sqhead : BitVec 16
deriving DecidableEq, Repr

/-- A queue (R310 to R318). -/
structure Queue where
  sqbase : DWord
  cqbase : DWord
  ctl : DWord
  mod : DWord
  status : BitVec 16
  err : Bool
  sqhead : Nat
  sqtail : Nat
  fetched : Nat
  cqhead : Nat
  cqtail : Nat
  phase : Bool
  entries : List QEntry
  cursor : Map Nat
  posts : List Compl
  unsignalled : Nat
  /-- A write of EN = 0 in the error state waits for the executing entries (R311). -/
  closing : Bool
deriving DecidableEq, Repr

/-- Threads of a slot parked in MSEND or MRECV: local-store offset and destination (R132). -/
structure MbxPark where
  send : Bool
  core : Nat
  slot : Nat
  ctx : Nat
  threads : List Nat
  off : Nat
  dst : Nat
  pc : DWord
  word : Nat
deriving DecidableEq, Repr

/-- A mailbox channel (R319), with the groups parked on it in issue order (R132). -/
structure Mbx where
  out : Map Word
  outGo : Bool
  inw : Map Word
  inGo : Bool
  ien : Bool
  opened : BitVec 2
  parked : List MbxPark
deriving DecidableEq, Repr

/-- An MSI-X vector (R306, R318): its table words, how often it has fired, and its pending bit. -/
structure Vec where
  addr : DWord
  data : Word
  masked : Bool
  fired : Nat
  pending : Bool
deriving DecidableEq, Repr

/-! ## Jobs, gutters and update engines (R190 to R248, R384 to R391) -/

/-- A membership entry (R216). -/
structure Member where
  first : Nat
  nchunk : Nat
  devid : BitVec 16
  group : Nat
  ridx : Nat
  spare : Bool
  expelled : Bool
deriving DecidableEq, Repr

/-- A role-table entry (R190). -/
structure Role where
  first : Nat
  nchunk : Nat
  frozen : Bool
deriving DecidableEq, Repr

/-- An update-table entry (R194), raw and by address. -/
structure UpdEntry where
  first : Nat
  nchunk : Nat
  rule : Nat
  nest : Bool
  bc : Bool
  emb : Bool
  stbf16 : Bool
  cord : Bool
  csign : Bool
  cden : Nat
  ns : Nat
  rowlog : Nat
  layer : Nat
  tid : Word
  start : Nat
  eta : Word
  lambda : Word
  beta1 : Word
  beta2 : Word
  eps : Word
  view : Nat
  ctlen : Nat
  aux : Nat
deriving DecidableEq, Repr

/-- The update header (R193). -/
structure UpdHdr where
  seed : DWord
  table : Nat
  sched : Nat
  schlen : Nat
  schbase : Nat
  ntbase : Nat
  ntdepth : Nat
  ntlayers : Nat
  dgbase : Nat
  dgdepth : Nat
deriving DecidableEq, Repr

/-- A translated agent spar (R296): physical number and generation, or none when the id was not valid
at load. -/
structure AgSpar where
  phys : Nat
  gen : Nat
deriving DecidableEq, Repr

/-- The checkpoint descriptor (R385). -/
structure CkDesc where
  localA : Nat
  slotsz : Nat
  peer : Nat
  jrnl : Nat
  jdepth : Nat
deriving DecidableEq, Repr

/-- A checkpoint being streamed (R386, R387): step, slot, body with the 16-byte words of it that are husks, which
streams are done, and whether the buddy stream was abandoned. -/
structure CkRun where
  step : Nat
  slot : Nat
  body : List Byte
  husks : List Nat
  localDone : Bool
  buddyDone : Bool
  abandoned : Bool
deriving DecidableEq, Repr

/-- An active block stream (R230 to R234): descriptor number and fields, the step it belongs to, what has passed
here (2k for chunk k's contribution, 2k + 1 for its result), escapes that wait for their chunk, and whether a
lift and an escape have been logged. -/
structure BStream where
  n : Nat
  seq : Nat
  step : Nat
  done : Nat
  doneSp : Option AgSpar
  allg : Bool
  mypos : Nat
  rlen : Nat
  e0 : Nat
  nelem : Nat
  ring : List Nat
  dst : Nat
  src : Nat
  chunks : List Nat
  escapes : Map (List CodeWord)
  lifted : Bool
  escaped : Bool
deriving DecidableEq, Repr

/-- Job states (R248). -/
inductive JobSt where
  | running | held | awaitSpare | expelled | ridgeOverdue
deriving DecidableEq, Repr

/-- A loaded job (R220, R248) with the gutter state of its current attempt. -/
structure Job where
  job : Nat
  desc : Nat
  gen : Nat
  step : Nat
  tau : Nat
  k : Nat
  rtmo : Nat
  nring : Nat
  vretry : Nat
  spec : Bool
  order : Bool
  portmask : DWord
  memb : Nat
  members : List Member
  myidx : Nat
  buddy : Nat
  readyLid : Nat
  spctx : Nat
  bsspar : Nat
  slotbase : Nat
  slotcnt : Nat
  grad0 : Nat
  grad1 : Nat
  tmask : Nat
  roles : List Role
  ckint : Nat
  hdr : UpdHdr
  upd : List UpdEntry
  bsq : Nat
  readySp0 : Option AgSpar
  readySp1 : Option AgSpar
  bsSp : Option AgSpar
  preSp : Map (Option AgSpar × Option AgSpar)
  st : JobSt
  voids : Nat
  rcvd : List Nat
  rcvdNext : List Nat
  ridgeSent : Bool
  digests : Map Nat
  digest : Nat
  /-- The device digest of the attempt and the chunks hashed into it (R210). -/
  devDigest : Nat
  hashed : Nat
  digSeal : Nat
  digSealStep : Nat
  splitBefore : Bool
  cause : BitVec 16
  origin : Nat
  causeStep : Nat
  tallyf : Nat
  stale : Nat
  lifts : Nat
  escapes : Nat
  /-- Owned chunks written by their engine in this attempt, parameter chunks held, chunks started or
  passed on here. -/
  ownDone : List Nat
  paramHeld : List Nat
  sent : List Nat
  /-- Chunks of PRE entries that are staged, and blocks applied as entry and block (R201). -/
  staged : List Nat
  preDone : List (Nat × Nat)
  verify : Bool
  /-- Why the next step will void: the cause met after this member's ridge, or by a speculative stream. -/
  pendingVoid : Option (BitVec 16)
  rewinding : Bool
  hold : List (Nat × Msg)
  holdGen : List (Nat × Msg)
  staleLogged : Bool
  nakSeen : List Nat
  agentLogged : List (Nat × Nat)
  seenMsgs : List (Nat × Nat × Nat × Nat)
  timerRunning : Bool
  streams : List BStream
  bsStarted : Nat
  /-- The newest step of which a block stream has started, and the SEQ values started in it. -/
  bsSeen : Nat × List Nat
  /-- Expelled members whose place is not yet taken, with the spare that will take it, if the group has one (R246, R247). -/
  awaits : List (Nat × Option Nat)
  ckdesc : Option CkDesc
  /-- Checkpoints being streamed, oldest first. -/
  ckruns : List CkRun
  ckLastStep : Nat
  ckLastSlot : Nat
  ckBuddyOk : Bool
  attempts : Nat
  energy : Nat
deriving DecidableEq, Repr

/-- A summed chunk at an update engine (R192), with its tally and touched mask (R223, R227). -/
structure EChunk where
  fn : Nat
  jslot : Nat
  gen : Nat
  step : Nat
  chunk : Nat
  ring : Nat
  startIdx : Nat
  hops : Nat
  ovf : Bool
  mask : DWord
  sigma : DWord
  amag : Word
  vals : List Word
  husk : Bool
deriving DecidableEq, Repr

/-- An update engine (R192, R208, R212, R214). `rows` are the row copies still to run, as function, job
slot, table entry, row; `attempt` the job slot, step and attempt whose per-attempt constants (schedule
entry ρ, γ) are formed. -/
structure Engine where
  chunks : List EChunk
  applied : Map Nat
  stepOf : Map Nat
  stopped : List (Nat × Nat)
  rows : List (Nat × Nat × Nat × Nat)
  sched : Map (Word × Word)
  opened : List (Nat × Nat)
  touched : List (Nat × Nat × Nat × Nat)
deriving DecidableEq, Repr

/-! ## Fabric (R249 to R281) -/

/-- Port states of FAB_PORTSTAT (R278). -/
inductive PortSt where
  | disabled | down | training | up | degraded | quarantined | retraining
deriving DecidableEq, Repr

/-- A fabric port (R268 to R281). -/
structure Port where
  st : PortSt
  linkUp : PortSt
  peerDev : BitVec 16
  peerPort : BitVec 6
  vcnt : Nat
  lanes : Byte
  rate : Bool
  rateNext : Bool
  enable : Bool
  retry : Nat
  uncorr : Nat
  viol : Nat
  late : Nat
  corrSym : Nat
  rxSeq : BitVec 12
  txSeq : BitVec 12
  replay : List (BitVec 12 × Msg × Nat)
  retrains : Nat
  /-- Flits sent on each channel whose credits the peer has not returned (R263, R270). -/
  credits : Map Nat
  /-- The flits that this port's retry requests have named, newest last (R271). -/
  asks : List (BitVec 12)
  waiting : List Msg
  stalled : List Nat
  lastNakTime : Option DWord
  injRate : Word
  injCmask : BitVec 4
  injSym : BitVec 2
  injMode : BitVec 4
  injSeed : DWord
  injState : DWord
  injCount : DWord
  held : List Msg
deriving DecidableEq, Repr

/-- A window-table entry (R252): its four words, and whether an invalidation is under way (R254). -/
structure Window where
  w0 : DWord
  w1 : DWord
  w2 : DWord
  w3 : DWord
  closing : Bool
deriving DecidableEq, Repr

/-- A route-table entry (R262). -/
structure Route where
  cand : DWord
  dl : DWord
deriving DecidableEq, Repr

/-- A violation-log entry (R278). -/
structure VLog where
  hdr : BitVec 128
  time : DWord
  src : BitVec 16
  port : Nat
  nak : Nat
  status : BitVec 16
deriving DecidableEq, Repr

/-! ## Records and journal (R363, R367) -/

/-- A fault signature record (R367). `detail` holds up to 64 bytes, the rest being zero. -/
structure Record where
  unit : Nat
  status : BitVec 16
  seq : Nat
  time : DWord
  step : Word
  job : BitVec 16
  gen : Byte
  secondary : Bool
  injected : Bool
  dropped : Bool
  priv : Bool
  ctx : Option Nat
  fn : Nat
  devid : BitVec 16
  course : Option Nat
  temp : Int
  mv : Nat
  loc : Word
  op : BitVec 16
  detail : List Byte
  capture : Nat
deriving DecidableEq, Repr

/-- A change-journal entry (R363). -/
structure JEntry where
  seq : Nat
  time : DWord
  fn : Nat
  src : Nat
  kind : Nat
  detail : Nat
  digest : BitVec 128
deriving DecidableEq, Repr

/-- A signature ring's registers (R371). -/
structure SigRing where
  base : DWord
  ctl : Word
  head : Nat
  tail : Nat
  drop : Nat
  dropped : Bool
deriving DecidableEq, Repr

/-! ## Partitions and functions -/

/-- A PARTITION section with its SHAPES and POWER entry (R351, R353). -/
structure Part where
  lomcon : Bool
  htag : BitVec 16
  qcount : Nat
  ctxBase : Nat
  ctxCount : Nat
  rshare : Nat
  winBase : Nat
  winCount : Nat
  slotBase : Nat
  slotCnt : Nat
  sparq : Nat
  objq : Nat
  ddrBase : Nat
  ddrSize : Nat
  hbmHeap : Nat × Nat
  ddrHeap : Nat × Nat
  alloc : Nat × Nat
  hoardHbm : Nat
  hoardT2 : Nat
  hbmGr : Nat
  t2Gr : Nat
  ports : DWord
  ways : List Nat
  courses : List Nat
  units : List Nat
  chans : List Nat
  shapes : List DWord
  power : Nat
deriving DecidableEq, Repr

/-- The registers of the spars block of a function (R302). -/
structure SprRegs where
  arg0 : DWord
  arg1 : DWord
  handle : DWord
  status : BitVec 16
  die : BitVec 5
  ctx : BitVec 20
  lid : BitVec 16
  step : Bool
  kind : BitVec 2
  state : DWord
  stale : Nat
  agentDrop : Nat
  aband : Nat
  resets : Nat
deriving DecidableEq, Repr

/-- A PCIe function (R306 to R326) and its registers that no other structure holds. -/
structure Fn where
  ready : Bool
  enabled : Bool
  tearing : Bool
  enlatch : Bool
  wedged : Bool
  erasing : Bool
  tearus : Nat
  /-- Held not-ready by R362. -/
  memShort : Bool
  loadSeq : Nat
  heldLow : Option (Nat × Word)
  latched : Option (Nat × Word)
  vecs : Map Vec
  queues : Map Queue
  mbx : Map Mbx
  jobs : Map Job
  ctxSel : BitVec 20
  killStatus : BitVec 16
  killBusy : Option Nat
  waits : Nat
  pageins : Nat
  spr : SprRegs
  jdaddr : DWord
  jdStatus : BitVec 16
  jdSlot : BitVec 4
  winStatus : BitVec 16
  winIndex : Nat
  sig : SigRing
  corr : Nat
  uncorr : Nat
  huskuse : Nat
  shRate : Nat
  samples : Nat
  mismatch : Nat
  unres : Nat
  chkfail : Nat
  capslots : DWord
  updJob : BitVec 16
  updStep : Word
  ckaddr : DWord
  ckStatus : BitVec 16
  ckSlot : Bool
  ckJslot : BitVec 4
  ckBusy : Bool
  paceWaits : Nat
  paceMax : Nat
  hoard : Hoard
  objTab : ObjTab
  epart : Nat
  ppart : Nat
  /-- The partition's energy at the last millisecond, and of the milliseconds of the window, newest first (R406). -/
  elast : Nat
  phist : List Nat
  capped : Bool
deriving DecidableEq, Repr

/-! ## Device-wide units -/

/-- The truss loader, the device sections of the image and the journal (R348 to R365). `pending` is the
checked image whose apply has not run. -/
structure TrussImg where
  full : Bool
  slot : Nat
  nsect : Nat
  digest : BitVec 128
  devid : BitVec 16
  porten : DWord
  portrate : DWord
  parts : Map Part
  power : DWord × DWord
  inject : List (DWord × DWord)
  spares : List (Nat × Nat × Map Nat)
deriving DecidableEq, Repr

structure Truss where
  src : DWord
  len : Nat
  status : BitVec 16
  fsect : Byte
  foff : Nat
  busy : Bool
  pslot : BitVec 6
  pending : Option TrussImg
  /-- The apply has begun (R361); writes of fault-injection registers that arrive meanwhile, as offset and value (R362). -/
  applying : Bool
  injHeld : List (Nat × DWord)
  parts : Map Part
  jcount : Nat
  journal : Map JEntry
  /-- Owner of each course, HBM unit and die way in the always-on ownership record, and of DDR5 shares
  as slot, base, size by channel (R417). -/
  ownCourse : Map Nat
  ownUnit : Map Nat
  ownWays : Map (List Nat)
  ownDdr : Map (List (Nat × Nat × Nat))
  /-- Every HBM unit counts as changed at the next boot (R417, R439). -/
  unitsLost : Bool
deriving DecidableEq, Repr

/-- Device settings and counters of the fabric (R278). -/
structure Fabric where
  devid : BitVec 16
  ttl : Nat
  qthresh : Nat
  rtmo : Nat
  ports : Map Port
  routes : Map Route
  windows : Map Window
  vlogCount : Nat
  vlog : Map VLog
  remotes : List Remote
  nextTag : Nat
  /-- Messages handed to a port for sending, newest last. -/
  out : List (Nat × Msg)
  /-- Messages a port has delivered and no unit has yet taken. -/
  inbox : List (Nat × Msg)
deriving DecidableEq, Repr

/-- The spar units, contexts and other tables that partitions share. -/
structure Tables where
  spars : Map Spar
  ctxs : Map Ctx
  stamp : Nat
deriving DecidableEq, Repr

/-- The cores and the grid. -/
structure Grid where
  cores : Map Core
  gangs : Map Gang
  shapes : Map DWord
  reshapes : List Reshape
  streams : List Stream
  nextStream : Nat
  shadows : List Shadow
  nextShadow : Nat
  retires : List Retire
  shadowStopped : List Nat
deriving DecidableEq, Repr

/-- The memory system. -/
structure Mem where
  mem : Memory
  dlines : Map DLine
  misses : Map (List MemReq)
  seqs : Map OrdSeq
  reqs : List MemReq
  retries : List MemReq
  nextTag : Nat
  /-- Channels trained, with their capacity in bytes (R137, R161). -/
  chanCap : Map Nat
  /-- Units that training found missing (R416). -/
  badUnits : List Nat
  scrubH : Byte
  /-- Host-held lines of the snoop filters, newest last (R304). -/
  snoop : List Nat
  /-- The answer of the last CXL.mem read: each line with its poison mark and its bytes, none of them where the address is
  unpopulated (R304, R305). -/
  cxlAns : List (Nat × Bool × List Byte)
  /-- Host memory as far as this device has written or been given it, and its poisoned lines (R310). -/
  hostCells : Map Byte
  hostPoison : List Nat
  stackGB : Nat
deriving DecidableEq, Repr

/-- Power controller, clocks, energy and supplies (R394 to R414, R438 to R447). -/
structure PowerCtl where
  cap : Nat
  window : Nat
  capNext : Option (Nat × Nat)
  history : List Nat
  /-- Milliseconds of the open residency window. -/
  winMs : Nat
  mode : DWord
  p1ms : Nat
  pwin : Nat
  budget : Int
  minimums : Bool
  stby : Nat
  offdly : Nat
  tthr : Nat
  ttrip : Nat
  delivery : Bool
  supply : Bool
  memRate : Map Nat
  linkRate : Map Nat
  edev : Nat
  ebase : Nat
  stackTemp : Map Int
  stackSlow : List Nat
  stackRefresh : List Nat
  islandTemp : Int
  islandMv : Nat
  vinMV : Nat
  iinMA : Nat
  pmbusBad : Nat
  /-- The board stage reports a fault, so that the throttle of R408 is in force (R413). -/
  pmFault : Bool
  pmbusLogged : Bool
  thermtrip : Bool
  mainStable : Bool
  aonUp : Bool
  clockUp : Bool
  testmode : Bool
  sris : Bool
  time : DWord
  ddrSelfRefresh : Bool
deriving DecidableEq, Repr

/-- A firmware manifest as accepted (R422). -/
structure Fw where
  fwver : DWord
  svn : Word
  digest : List Byte
deriving DecidableEq, Repr

/-- Boot, identity, attestation (R415 to R432). -/
structure Boot where
  stage : Nat
  status : BitVec 16
  attempts : Nat
  idfail : Bool
  /-- THERMTRIP_N went low during a boot, which then stands still until VIN_AON is applied again (R447). -/
  halted : Bool
  keysReady : Bool
  go : Bool
  words : Map Word
  busMaster : Bool
  /-- Which channel a delivery of each kind is fixed to (true DOE), and the bytes received over DOE. -/
  fwChan : Option Bool
  imgChan : Option Bool
  doeTotal : Map Nat
  doeBuf : List Byte
  image : List Byte
  fw : Option Fw
  svnAon : Word
  svnFlash : Word
  rstCause : Nat
  bootms : Nat
  waitms : Nat
  /-- The local time at which this boot began, and at which its current wait began, and the ticks it has waited (R416). -/
  bootStart : DWord
  waitFrom : DWord
  waitTicks : Nat
  epochAdv : Map Nat
  powerOns : Nat
  /-- Which DDR5 key seed is in force: 0 the derived one, else the random one of that draw; and the draws so far (R425). -/
  seed : Nat
  draws : Nat
  bootImageDigest : List Byte
  doeStatus : List (BitVec 16)
deriving DecidableEq, Repr

/-- The SPDM responder (R427 to R429): negotiation state (0 none, 1 version, 2 capabilities, 3
algorithms), the transcript, the last signed transcript hash, the open session, and the responses. -/
structure Spdm where
  phase : Nat
  transcript : List Byte
  lastSigned : Option (List Byte)
  handshake : Bool
  session : Bool
  answered : Nat
  responses : List (Nat × Byte × Byte × List Byte)
deriving DecidableEq, Repr

/-- The MCTP, PLDM and I3C endpoint, and the export paths of records (R370 to R376, R412, R442). -/
structure Board where
  address : Option (BitVec 7)
  receiver : Option Byte
  bmcQueue : List Record
  bmcDrop : Nat
  bmcDropped : Bool
  sent : List (Nat × List Byte)
  exportCtl : DWord
  collBase : DWord
  collCtr : DWord
  collQueue : List Record
  collDrop : Nat
  collDropped : Bool
  aoCount : Nat
  aoStore : Map Record
  recSeq : Nat
  ibi : Bool
  tap : Nat
deriving DecidableEq, Repr

/-- The secure mailbox page (R321). -/
structure Secure where
  rid : BitVec 16
  ide : Bool
  claimed : Bool
  deny : Nat
  mbx : Map Mbx
deriving DecidableEq, Repr

/-- The whole device, with the commands that wait for it. -/
structure State where
  pending : List Instr
  grid : Grid
  courses : Map Course
  mem : Mem
  tab : Tables
  fns : Map Fn
  engines : Map Engine
  fab : Fabric
  truss : Truss
  pwr : PowerCtl
  boot : Boot
  spdm : Spdm
  board : Board
  secure : Secure
  /-- How many free values have been drawn (the model's own counter). -/
  free : Nat
  /-- SR-IOV VF Enable in the PF's configuration space (R323). -/
  vfEnable : Bool
deriving DecidableEq, Repr

/-! ## Idle values of the sparse tables -/

def Thread.idle : Thread :=
  { g := [], p := 0, pc := 0, st := .ready, waits := [], wait := none, token := none, masked := false, whole := none, bar := 0 }

def Core.idle : Core :=
  { slots := [], ptr := 0, ls := [], lsHusk := [], lines := [], lsWin := [] }

def Cell.idle : Cell :=
  { acc0 := 0, acc1 := 0, aq := [], bq := [], done0 := 0, done1 := 0, hist0 := [], hist1 := [] }

def Gang.idle : Gang :=
  { ctx := none, edge := [], rows := [], cols := [], acceptedA := (0, 0), acceptedB := (0, 0),
    cleared := (0, 0), coreClear := [], cells := [], drains := [], releasing := false, held := false, ew := false }

/-- A course after reset: STANDBY with clock step 20 (R414), no retired core and no fence. -/
def Course.idle : Course :=
  { power := .standby, step := 20, grant := 20, temp := 0, mv := 0, res := 0, waking := false, retired := [], fence := 0,
    sampler := 1, queue := [], credit := 0, heat := 20, runMs := 0 }

/-- A spar of the pool, at its first generation (R285). -/
def Spar.idle : Spar :=
  { used := false, kind := 0, value := 0, param := 0, init := 0, gen := 1, owner := 0, part := 0, aband := false,
    step := false, arr := 0, dep := 0, waiters := [], tokens := [], maps := [], ops := [] }

/-- A context number that is FREE (R328). -/
def Ctx.idle : Ctx :=
  { st := .free, fn := 0, record := 0, winFirst := 0, winCount := 0, mapAddr := 0, mapLen := 0, maxShf := 0,
    waitList := 0, save := 0, code := 0, ncode := 0, maxObj := 0, hbmLim := 0, ddrLim := 0, heapHbm := 0, heapDdr := 0,
    crc := 0, jobsl := none, numflags := 0, fault := 0, objs := 0, hbmCh := 0, ddrCh := 0, energy := 0,
    resident := false, stamp := 0, kernels := [], saved := [], aborting := false, stopped := [] }

/-- An empty hoard with its registers at reset (R185). -/
def Hoard.idle : Hoard :=
  { entries := [], jobs := [], job := 0xFFFF, step := 0, deepen := true, mapBase := 0, mapEn := false }

def Queue.idle : Queue :=
  { sqbase := 0, cqbase := 0, ctl := 0, mod := 0, status := 0, err := false, sqhead := 0, sqtail := 0, fetched := 0,
    cqhead := 0, cqtail := 0, phase := true, entries := [], cursor := [], posts := [], unsignalled := 0, closing := false }

def Mbx.idle : Mbx :=
  { out := [], outGo := false, inw := [], inGo := false, ien := false, opened := 0, parked := [] }

/-- A vector after reset, masked. -/
def Vec.idle : Vec := { addr := 0, data := 0, masked := true, fired := 0, pending := false }

def Engine.idle : Engine :=
  { chunks := [], applied := [], stepOf := [], stopped := [], rows := [], sched := [], opened := [], touched := [] }

def Port.idle : Port :=
  { st := .down, linkUp := .down, peerDev := 0, peerPort := 0, vcnt := 0, lanes := 0, rate := false, rateNext := false,
    enable := false, retry := 0, uncorr := 0, viol := 0, late := 0, corrSym := 0, rxSeq := 0, txSeq := 0, replay := [],
    retrains := 0, credits := [], asks := [], waiting := [], stalled := [], lastNakTime := none, injRate := 0,
    injCmask := 0, injSym := 0, injMode := 0, injSeed := 0, injState := 1, injCount := 0, held := [] }

def Window.idle : Window := { w0 := 0, w1 := 0, w2 := 0, w3 := 0, closing := false }

def SprRegs.idle : SprRegs :=
  { arg0 := 0, arg1 := 0, handle := 0, status := 0, die := 16, ctx := 0, lid := 0, step := false, kind := 0, state := 0,
    stale := 0, agentDrop := 0, aband := 0, resets := 0 }

def SigRing.idle : SigRing := { base := 0, ctl := 0, head := 0, tail := 0, drop := 0, dropped := false }

/-- A function after reset: not ready, every register at the reset value of its map. -/
def Fn.idle : Fn :=
  { ready := false, enabled := false, tearing := false, enlatch := false, wedged := false, erasing := false, tearus := 0,
    memShort := false, loadSeq := 0, heldLow := none, latched := none, vecs := [], queues := [], mbx := [],
    jobs := [], ctxSel := 0, killStatus := 0, killBusy := none, waits := 0, pageins := 0, spr := SprRegs.idle,
    jdaddr := 0, jdStatus := 0, jdSlot := 0, winStatus := 0, winIndex := 0, sig := SigRing.idle, corr := 0, uncorr := 0,
    huskuse := 0, shRate := 64, samples := 0, mismatch := 0, unres := 0, chkfail := 0, capslots := 0, updJob := 0,
    updStep := 0, ckaddr := 0, ckStatus := 0, ckSlot := false, ckJslot := 0, ckBusy := false, paceWaits := 0, paceMax := 0,
    hoard := Hoard.idle, objTab := { objs := [], gens := [], retired := [] }, epart := 0, ppart := 0, elast := 0, phist := [], capped := false }

/-! ## Reset -/

/-- The cores and the grid right after power-on: nothing placed, nothing bound. -/
def Grid.reset : Grid :=
  { cores := [], gangs := [], shapes := [], reshapes := [], streams := [], nextStream := 0, shadows := [], nextShadow := 0, retires := [],
    shadowStopped := [] }

def Mem.reset : Mem :=
  { mem := { cells := [], husks := [], metas := [] }, dlines := [], misses := [], seqs := [], reqs := [], retries := [],
    nextTag := 0, chanCap := [], badUnits := [], scrubH := 24, snoop := [], cxlAns := [], hostCells := [], hostPoison := [],
    stackGB := 64 }

def Fabric.reset : Fabric :=
  { devid := 0, ttl := 64, qthresh := 64, rtmo := 100, ports := [], routes := [], windows := [], vlogCount := 0, vlog := [],
    remotes := [], nextTag := 0, out := [], inbox := [] }

/-- The journal that loss of the always-on supply leaves: one entry of kind 0 (R363). -/
def Truss.reset : Truss :=
  { src := 0, len := 0, status := 0, fsect := 0, foff := 0, busy := false, pslot := 0, pending := none, applying := false, injHeld := [], parts := [],
    jcount := 1, journal := [(0, { seq := 0, time := 0, fn := 0, src := 2, kind := 0, detail := 0, digest := 0 })],
    ownCourse := [], ownUnit := [], ownWays := [], ownDdr := [], unitsLost := true }

def PowerCtl.reset : PowerCtl :=
  { cap := 10000, window := 10000, capNext := none, history := [], winMs := 0, mode := 0, p1ms := 0, pwin := 0, budget := 12000,
    minimums := false, stby := 4096, offdly := 10, tthr := 95, ttrip := 110, delivery := false, supply := false,
    memRate := [], linkRate := [], edev := 0, ebase := 0, stackTemp := [], stackSlow := [],
    stackRefresh := [], islandTemp := 0, islandMv := 3300, vinMV := 0, iinMA := 0, pmbusBad := 0, pmFault := false, pmbusLogged := false,
    thermtrip := false, mainStable := false, aonUp := true, clockUp := true, testmode := false, sris := false, time := 0,
    ddrSelfRefresh := false }

def Boot.reset : Boot :=
  { stage := 0, status := 0, attempts := 0, idfail := false, halted := false, keysReady := false, go := false, words := [],
    busMaster := false, fwChan := none, imgChan := none, doeTotal := [], doeBuf := [], image := [], fw := none, svnAon := 0,
    svnFlash := 0, rstCause := 4, bootms := 0, waitms := 0, bootStart := 0, waitFrom := 0, waitTicks := 0, epochAdv := [],
    powerOns := 0, seed := 0, draws := 0, bootImageDigest := [], doeStatus := [] }

def Spdm.reset : Spdm :=
  { phase := 0, transcript := [], lastSigned := none, handshake := false, session := false, answered := 0, responses := [] }

def Board.reset : Board :=
  { address := none, receiver := none, bmcQueue := [], bmcDrop := 0, bmcDropped := false, sent := [], exportCtl := 0,
    collBase := 0, collCtr := 0, collQueue := [], collDrop := 0, collDropped := false, aoCount := 0,
    aoStore := [], recSeq := 0, ibi := false, tap := 1 }

def Secure.reset : Secure := { rid := 0, ide := false, claimed := false, deny := 0, mbx := [] }

/-- The AF7 right after its always-on supply has been applied with TESTMODE at 0: boot at STAGE 0 (R415), VIN_MAIN not yet
stable, no image, no function ready, the PF enabled. -/
def State.reset : State :=
  { pending := [], grid := Grid.reset, courses := [], mem := Mem.reset, tab := { spars := [], ctxs := [], stamp := 0 },
    fns := [(0, { Fn.idle with enabled := true })], engines := [], fab := Fabric.reset, truss := Truss.reset,
    pwr := PowerCtl.reset, boot := Boot.reset, spdm := Spdm.reset, board := Board.reset, secure := Secure.reset, free := 0,
    vfEnable := false }

/-- Reasons for which a step stops. -/
inductive Fault where
  /-- A command names a unit the device does not have: a core above 1,048,575 (R18), a die, course, tract,
  stack, engine, spar or port above its count (R1), a function above 63 (R306), a queue above 2,046
  (R309), a channel above 23 (R319). Raised by the meaning of the command. Safe: no such command can be
  given to the device. -/
  | noSuchUnit
deriving DecidableEq, Repr

/-- Reasons for which a command is refused. -/
inductive Refusal where
  /-- The command has no meaning in the model yet. Raised by the dispatcher's arm of that command. Safe:
  nothing is claimed of it. -/
  | notModelled (mnemonic : String)
deriving DecidableEq, Repr

end Sys2Proof.Machine
end

