-- ==== Sys2Proof/Machine/Num.lean ====
section
/-! DEFINITION. Exact arithmetic on the formats of R33, binary32 and binary64 results, the rounding of
R46 to R48, 4-bit expansion (R36), pieces (R39) and the cell's adds (R37, R38, R41). -/

namespace Sys2Proof.Machine

/-! ## Exact values -/

def Num.zero : Num := .fin false 0 0
def Num.one : Num := .fin false 1 0

def Num.isNan : Num → Bool
  | .nan _ => true
  | _ => false

def Num.isFinite : Num → Bool
  | .fin _ _ _ => true
  | _ => false

def Num.isZero : Num → Bool
  | .fin _ m _ => m == 0
  | _ => false

def Num.neg? : Num → Bool
  | .nan s => s
  | .inf s => s
  | .fin s _ _ => s

def Num.negate : Num → Num
  | .nan s => .nan !s
  | .inf s => .inf !s
  | .fin s m e => .fin (!s) m e

def Num.abs : Num → Num
  | .nan _ => .nan false
  | .inf _ => .inf false
  | .fin _ m e => .fin false m e

/-- The signed mantissa of a finite value over the exponent e0, which is at most its own. -/
def scaled (s : Bool) (m : Nat) (e e0 : Int) : Int :=
  let v : Int := (m <<< (e - e0).toNat : Nat)
  if s then -v else v

/-- The smallest exponent among the finite values of a list. -/
def minExp : List Num → Int
  | [] => 0
  | [.fin _ _ e] => e
  | .fin _ _ e :: r => min e (minExp r)
  | _ :: r => minExp r

/-- The exact sum of a list (R37, R38): NaN for a NaN or opposed infinities; an exact zero sum is +0
unless every term is -0. -/
def sumNum (xs : List Num) : Num :=
  if xs.any Num.isNan then .nan false
  else
    let posInf := xs.any (fun x => decide (x = .inf false))
    let negInf := xs.any (fun x => decide (x = .inf true))
    if posInf && negInf then .nan false
    else if posInf then .inf false
    else if negInf then .inf true
    else
      let e0 := minExp xs
      let t : Int := xs.foldl (fun acc x => match x with
        | .fin s m e => acc + scaled s m e e0
        | _ => acc) 0
      if t = 0 then .fin (xs.all (fun x => x.neg? && x.isZero)) 0 0
      else .fin (decide (t < 0)) t.natAbs e0

def addNum (a b : Num) : Num := sumNum [a, b]

/-- The exact product; 0 × ∞ is NaN (R38). -/
def mulNum (a b : Num) : Num :=
  match a, b with
  | .nan _, _ => .nan false
  | _, .nan _ => .nan false
  | .inf s, .inf t => .inf (s != t)
  | .inf s, .fin t m _ => if m = 0 then .nan false else .inf (s != t)
  | .fin s m _, .inf t => if m = 0 then .nan false else .inf (s != t)
  | .fin s m e, .fin t n f => .fin (s != t) (m * n) (e + f)

/-- Integer square root by bits, from bit n - 1 down. -/
def isqrtFrom : Nat → Nat → Nat → Nat
  | 0, _, r => r
  | n + 1, v, r =>
    let t := r + (1 <<< n)
    isqrtFrom n v (if t * t ≤ v then t else r)

/-- A value whose rounding to `prec` bits or fewer equals that of the quotient a/b: `prec + 2` quotient
bits and a sticky bit. -/
def divNum (prec : Nat) (a b : Num) : Num :=
  match a, b with
  | .nan _, _ => .nan false
  | _, .nan _ => .nan false
  | .inf _, .inf _ => .nan false
  | .inf s, .fin t _ _ => .inf (s != t)
  | .fin s _ _, .inf t => .fin (s != t) 0 0
  | .fin s m e, .fin t n f =>
    if n = 0 then (if m = 0 then .nan false else .inf (s != t))
    else if m = 0 then .fin (s != t) 0 0
    else
      let k := prec + 2 + n.log2 + 1 - min (prec + 2 + n.log2) m.log2
      let q := (m <<< k) / n
      let r := (m <<< k) % n
      .fin (s != t) (2 * q + (if r = 0 then 0 else 1)) (e - f - k - 1)

/-- A value whose rounding to `prec` bits or fewer equals that of the square root. -/
def sqrtNum (prec : Nat) (a : Num) : Num :=
  match a with
  | .nan _ => .nan false
  | .inf s => if s then .nan false else .inf false
  | .fin s m e =>
    if m = 0 then .fin s 0 0
    else if s then .nan false
    else
      let k0 := 2 * (prec + 2)
      let k := if (e - k0) % 2 = 0 then k0 else k0 + 1
      let v := m <<< k
      let r := isqrtFrom (v.log2 / 2 + 1) v 0
      .fin false (2 * r + (if r * r = v then 0 else 1)) ((e - k) / 2 - 1)

/-- Comparison of two values that are not NaN: the sign of a - b. -/
def cmpNum (a b : Num) : Ordering :=
  match a, b with
  | .inf false, .inf false => .eq
  | .inf true, .inf true => .eq
  | .inf s, _ => if s then .lt else .gt
  | _, .inf s => if s then .gt else .lt
  | _, _ => match sumNum [a, b.negate] with
    | .fin s m _ => if m = 0 then .eq else if s then .lt else .gt
    | _ => .eq

/-! ## Formats (R33, R34) -/

/-- A format of R33: exponent and fraction bits, bias, the largest finite code, the code of infinity (0 if
the format has none) and the canonical NaN code (R38, R48). -/
structure Fmt where
  ebits : Nat
  fbits : Nat
  bias : Int
  maxCode : Nat
  infCode : Nat
  nanCode : Nat
deriving DecidableEq, Repr

def Fmt.width (f : Fmt) : Nat := 1 + f.ebits + f.fbits

def f64 : Fmt := ⟨11, 52, 1023, 0x7FEFFFFFFFFFFFFF, 0x7FF0000000000000, 0x7FF8000000000000⟩
def f32 : Fmt := ⟨8, 23, 127, 0x7F7FFFFF, 0x7F800000, 0x7FC00000⟩
def bf16 : Fmt := ⟨8, 7, 127, 0x7F7F, 0x7F80, 0x7FC0⟩
def f16 : Fmt := ⟨5, 10, 15, 0x7BFF, 0x7C00, 0x7E00⟩
def e4m3 : Fmt := ⟨4, 3, 7, 0x7E, 0, 0x7F⟩
def e5m2 : Fmt := ⟨5, 2, 15, 0x7B, 0x7C, 0x7F⟩

/-- The value of a code of a format. -/
def decodeFmt (f : Fmt) (code : Nat) : Num :=
  let s := code.testBit (f.width - 1)
  let mag := code % 2 ^ (f.width - 1)
  if mag > f.maxCode then (if f.infCode ≠ 0 ∧ mag = f.infCode then .inf s else .nan s)
  else
    let ex := mag >>> f.fbits
    let fr := mag % 2 ^ f.fbits
    if ex = 0 then .fin s fr (1 - f.bias - f.fbits)
    else .fin s (fr + 2 ^ f.fbits) ((ex : Int) - f.bias - f.fbits)

/-- The code of a magnitude with the given sign. -/
def signCode (f : Fmt) (s : Bool) (mag : Nat) : Nat := if s then mag + 2 ^ (f.width - 1) else mag

/-- The magnitude code toward zero from a nonzero |v| = m·2^e, and the remainder above it in units of
2^-64 of the spacing, with a sticky unit for what those bits drop. The code may exceed the largest. -/
def lowCode (f : Fmt) (m : Nat) (e : Int) : Nat × Nat :=
  let emin : Int := 1 - f.bias - f.fbits
  let q : Int := max ((m.log2 : Int) + e - f.fbits) emin
  if q ≤ e then
    let k := m <<< (e - q).toNat
    ((q - emin).toNat * 2 ^ f.fbits + k, 0)
  else
    let sh := (q - e).toNat
    let k := m >>> sh
    let r := m % 2 ^ sh
    let r64 := (r <<< 66) >>> sh
    let sticky := if (r <<< 66) % 2 ^ sh = 0 then 0 else 1
    ((q - emin).toNat * 2 ^ f.fbits + k, 2 * r64 + sticky)

/-- Half of the remainder scale of `lowCode`. -/
def halfUlp : Nat := 2 ^ 66

/-- Round to nearest, ties to the even code: the magnitude code, which may be the code above the
largest. -/
def rneCode (f : Fmt) (m : Nat) (e : Int) : Nat :=
  let (lo, r) := lowCode f m e
  if r < halfUlp then lo else if r > halfUlp then lo + 1 else if lo % 2 = 0 then lo else lo + 1

/-- IEEE rounding to nearest of an exact value into a format with infinities (R38). -/
def roundIeee (f : Fmt) (v : Num) : Nat :=
  match v with
  | .nan _ => f.nanCode
  | .inf s => signCode f s f.infCode
  | .fin s m e =>
    if m = 0 then signCode f s 0
    else
      let c := rneCode f m e
      signCode f s (if c > f.maxCode then f.infCode else c)

/-- Rounding to binary32 by RNE (R37, R38). -/
def toF32 (v : Num) : Word := BitVec.ofNat 32 (roundIeee f32 v)

/-- The value of a binary32 word. -/
def ofF32 (w : Word) : Num := decodeFmt f32 w.toNat

/-- Rounding to binary64 by RNE; NaN is the canonical quiet NaN (R209). -/
def toF64 (v : Num) : DWord := BitVec.ofNat 64 (roundIeee f64 v)

def ofF64 (w : DWord) : Num := decodeFmt f64 w.toNat

/-! ## binary32 operations (R38, R116, R197) -/

def fadd32 (a b : Word) : Word := toF32 (addNum (ofF32 a) (ofF32 b))
def fsub32 (a b : Word) : Word := toF32 (addNum (ofF32 a) (ofF32 b).negate)
def fmul32 (a b : Word) : Word := toF32 (mulNum (ofF32 a) (ofF32 b))
def fma32 (a b c : Word) : Word := toF32 (sumNum [mulNum (ofF32 a) (ofF32 b), ofF32 c])
def fdiv32 (a b : Word) : Word := toF32 (divNum 26 (ofF32 a) (ofF32 b))
def fsqrt32 (a : Word) : Word := toF32 (sqrtNum 26 (ofF32 a))

/-- Less-than on binary32 for minimum and maximum, with -0 below +0 (R116). -/
def fless (a b : Word) : Bool :=
  match cmpNum (ofF32 a) (ofF32 b) with
  | .lt => true
  | .gt => false
  | .eq => (ofF32 a).neg? && !(ofF32 b).neg?

/-- Minimum or maximum of R116. -/
def fminmax (wantMax : Bool) (a b : Word) : Word :=
  match (ofF32 a).isNan, (ofF32 b).isNan with
  | true, true => 0x7FC00000#32
  | true, false => b
  | false, true => a
  | false, false => if fless a b != wantMax then a else b

/-! ## Conversion into a narrow format (R45 to R48) -/

/-- Bits of CTX_NUMFLAGS (R52). -/
def flagSat : Word := 0x01
def flagOvfnf : Word := 0x02
def flagNanin : Word := 0x04
def flagAccnf : Word := 0x08
def flagXrange : Word := 0x10
def flagUflow : Word := 0x20

/-- The format an OFMT code names (R43): 0 FP32, 1 BF16, 2 FP16, 3 E4M3, 4 E5M2. -/
def ofmtOf (n : Nat) : Fmt :=
  match n with
  | 1 => bf16 | 2 => f16 | 3 => e4m3 | 4 => e5m2 | _ => f32

/-- Whether overflow saturates: the OVF field, whose default is SAT for E4M3 and E5M2 and IEEE-like for
BF16 and FP16 (R45). -/
def saturates (ofmt ovf : Nat) : Bool :=
  match ovf with
  | 1 => true
  | 2 => false
  | _ => ofmt == 3 || ofmt == 4

/-- The overflow result and its flag (R48). -/
def overflowCode (f : Fmt) (s satm : Bool) : Nat × Word :=
  if satm then (signCode f s f.maxCode, flagSat)
  else (signCode f s (if f.infCode = 0 then f.nanCode else f.infCode), flagOvfnf)

/-- Conversion of an exact value into a narrow format (R46 to R48): with `rand` the element's 16 random
bits under stochastic rounding, none under RNE. Answers the code and the flag events. -/
def convertNum (f : Fmt) (satm : Bool) (rand : Option (BitVec 16)) (v : Num) : Nat × Word :=
  match v with
  | .nan s => (signCode f s f.nanCode, flagNanin)
  | .inf s =>
    if satm then (signCode f s f.maxCode, flagSat)
    else (signCode f s (if f.infCode = 0 then f.nanCode else f.infCode), 0)
  | .fin s m e =>
    if m = 0 then (signCode f s 0, 0)
    else
      let (lo, r) := lowCode f m e
      if lo = f.maxCode ∧ 0 < r ∧ r < halfUlp then (signCode f s f.maxCode, 0)
      else if lo > f.maxCode ∨ (lo = f.maxCode ∧ r > halfUlp) then overflowCode f s satm
      else
        let c := match rand with
          | none => if r < halfUlp then lo else if r > halfUlp then lo + 1 else if lo % 2 = 0 then lo else lo + 1
          | some bits => if r = 0 then lo else if r >>> 51 + bits.toNat ≥ 65536 then lo + 1 else lo
        if c > f.maxCode then overflowCode f s satm
        else (signCode f s c, if c = 0 then flagUflow else 0)

/-- Conversion by the fields of a numeric control word (R43, R45): OVF and RND do nothing for FP32. -/
def convertOut (ncw : Word) (rand : Option (BitVec 16)) (v : Num) : Nat × Word :=
  let ofmt := field ncw.toNat 11 9
  if ofmt = 0 then
    (match v with
     | .nan s => signCode f32 s f32.nanCode
     | _ => roundIeee f32 v, if v.isNan then flagNanin else 0)
  else
    convertNum (ofmtOf ofmt) (saturates ofmt (field ncw.toNat 14 13))
      (if ncw.getLsbD 12 then rand else none) v

/-! ## 4-bit expansion (R35, R36) -/

/-- The value of an E2M1 code. -/
def decodeE2m1 (c : Nat) : Num :=
  let mag := [0, 1, 2, 3, 4, 6, 8, 12].getD (c % 8) 0
  .fin (c.testBit 3) mag (-1)

/-- The value of an INT4 code; 0 is positive. -/
def decodeInt4 (c : Nat) : Num :=
  let v := signedOf 4 (c % 16)
  .fin (decide (v < 0)) v.natAbs 0

/-- Expand a 4-bit element with its block scale byte to an E4M3 code, with the flag events (R36, R52). -/
def expand4 (int4 : Bool) (xovf : Bool) (elem scale : Nat) : Nat × Word :=
  let x := if int4 then decodeInt4 elem else decodeE2m1 elem
  if scale = 0xFF then (signCode e4m3 x.neg? 0x7F, flagXrange)
  else
    let v := match x with
      | .fin s m e => .fin s m (e + scale - 127)
      | y => y
    let (c, fl) := convertNum e4m3 (!xovf) none v
    (c, if fl = flagSat ∨ fl = flagOvfnf then flagXrange else fl)

/-- An operand value by its AFMT code (R43, R129): the element bits, with the scale byte in bits 15:8 for
the 4-bit formats. Answers the value and the flag events of its expansion. -/
def operandNum (fmt : Nat) (xovf : Bool) (w : Nat) : Num × Word :=
  match fmt with
  | 0 => (decodeFmt bf16 (w % 2 ^ 16), 0)
  | 1 => (decodeFmt e4m3 (w % 2 ^ 8), 0)
  | 2 => (decodeFmt e5m2 (w % 2 ^ 8), 0)
  | 3 => let (c, fl) := expand4 false xovf (w % 16) (field w 15 8); (decodeFmt e4m3 c, fl)
  | 4 => let (c, fl) := expand4 true xovf (w % 16) (field w 15 8); (decodeFmt e4m3 c, fl)
  | 5 => (decodeFmt f16 (w % 2 ^ 16), 0)
  | _ => (decodeFmt f32 (w % 2 ^ 32), 0)

/-- The group of an operand format (R44): none for a reserved code. -/
def fmtGroup (n : Nat) : Option Nat :=
  match n with
  | 0 => some 0
  | 1 | 2 | 3 | 4 => some 1
  | 5 => some 2
  | 6 => some 3
  | _ => none

/-- A and B belong to the same group (R44). -/
def fmtPairOk (ncw : Word) : Bool :=
  match fmtGroup (field ncw.toNat 3 0), fmtGroup (field ncw.toNat 7 4) with
  | some a, some b => a == b
  | _, _ => false

/-! ## Pieces and passes (R39, R40) -/

/-- A finite value rounded to 8 significant bits by RNE, with an unbounded exponent. -/
def round8 (v : Num) : Num :=
  match v with
  | .fin s m e =>
    if m < 256 then .fin s m e
    else
      let sh := m.log2 - 7
      let k := m >>> sh
      let r := m % 2 ^ sh
      let h := 2 ^ (sh - 1)
      let k := if r < h then k else if r > h then k + 1 else if k % 2 = 0 then k else k + 1
      .fin s k (e + sh)
  | y => y

/-- Pieces of R39. -/
inductive Piece where
  | h | m | l
deriving DecidableEq, Repr

/-- A piece of an operand. Infinities and NaN lie in the high piece alone. A zero remainder is +0. -/
def pieceOf (fp32 : Bool) (x : Num) (p : Piece) : Num :=
  match x with
  | .fin _ _ _ =>
    let xh := round8 x
    let r1 := sumNum [x, xh.negate]
    if fp32 then
      let xm := round8 r1
      match p with
      | .h => xh
      | .m => xm
      | .l => sumNum [r1, xm.negate]
    else
      match p with
      | .h => xh
      | .m => .zero
      | .l => r1
  | y => match p with
    | .h => y
    | _ => .zero

/-- The table *Pass sequences* of R40. -/
def passes (fmt : Nat) (exact : Bool) : List (Piece × Piece) :=
  match fmt, exact with
  | 5, false => [(.l, .h), (.h, .l), (.h, .h)]
  | 5, true => [(.l, .l), (.l, .h), (.h, .l), (.h, .h)]
  | 6, false => [(.l, .h), (.m, .m), (.h, .l), (.m, .h), (.h, .m), (.h, .h)]
  | 6, true => [(.l, .l), (.l, .m), (.m, .l), (.l, .h), (.m, .m), (.h, .l), (.m, .h), (.h, .m), (.h, .h)]
  | _, _ => [(.h, .h)]

/-- The number of steps a feed runs (R64). -/
def feedSteps (ncw : Word) (klen : Nat) : Nat :=
  let fmt := field ncw.toNat 3 0
  if fmt = 0 then klen
  else if fmt ≤ 4 then (klen + 1) / 2
  else klen * (passes fmt (ncw.getLsbD 8)).length

/-! ## The cell (R37, R38, R41) -/

/-- One step of a cell: the new accumulator and the flag events. A lower piece that is zero adds
nothing (R41); ACCNF marks the step in which the accumulator becomes infinite or NaN (R52). -/
def cellAdd (acc : Word) (a b : Opnd) : Word × Word :=
  let nanIn := a.v0.isNan || b.v0.isNan || (match a.v1, b.v1 with
    | some x, some y => x.isNan || y.isNan
    | _, _ => false)
  let skip := (a.low && a.v0.isZero) || (b.low && b.v0.isZero)
  let acc' := if skip then acc
    else match a.v1, b.v1 with
      | some x, some y => toF32 (sumNum [ofF32 acc, mulNum a.v0 b.v0, mulNum x y])
      | _, _ => toF32 (sumNum [ofF32 acc, mulNum a.v0 b.v0])
  let nonfin := decide (acc' ≠ acc) && !(ofF32 acc').isFinite
  (acc', (if nanIn then flagNanin else 0) ||| (if nonfin then flagAccnf else 0))

/-- Conversion to an unsigned or signed 32-bit integer toward zero, saturating; NaN gives 0 (R114). -/
def f2i32 (signed : Bool) (w : Word) : Word :=
  let lo : Int := if signed then -(2 ^ 31) else 0
  let hi : Int := if signed then 2 ^ 31 - 1 else 2 ^ 32 - 1
  let clampI (v : Int) : Word := BitVec.ofInt 32 (max lo (min hi v))
  match ofF32 w with
  | .nan _ => 0
  | .inf s => clampI (if s then lo else hi)
  | .fin s m e =>
    let a : Nat := if e ≥ 0 then m <<< e.toNat else m >>> (-e).toNat
    clampI (if s then -(a : Int) else a)

/-- Conversion of an integer to binary32 by RNE (R114). -/
def i2f32 (signed : Bool) (w : Word) : Word :=
  let v : Int := if signed then w.toInt else w.toNat
  toF32 (.fin (decide (v < 0)) v.natAbs 0)

end Sys2Proof.Machine
end

