-- ==== Sys2Proof/Machine/Status.lean ====
section
/-! DEFINITION. The master status table (R393) and the unit ids (R11). -/

namespace Sys2Proof.Machine

/-- A status code (R9). -/
abbrev Status := BitVec 16

/-- The class of a status code (R10). -/
def statusClass (st : Status) : Nat := st.toNat / 4096

def statusOk : Status := 0x0000
def hrdSpilled : Status := 0x0001
def hrdDeepRecompute : Status := 0x0002
def hrdDuplicate : Status := 0x0003
def gutBlockLifted : Status := 0x0004
def gutBlockEscaped : Status := 0x0005
def gngCoreRetired : Status := 0x0006
def jobSpareJoined : Status := 0x0007
def gngShadowStopped : Status := 0x0008
def stepAbortedNonfinite : Status := 0x1001
def jobRetryLimit : Status := 0x1002
def jobExpelled : Status := 0x1003
def jobMemberAborted : Status := 0x1004
def gutRidgeTimeout : Status := 0x1005
def gutJobUnloaded : Status := 0x1006
def gutForceVoid : Status := 0x1007
def ctxDestroyed : Status := 0x1008
def ctxFaulted : Status := 0x1009
def hqStepStale : Status := 0x100A
def sprAbandoned : Status := 0x100B
def sprStepReset : Status := 0x100C
def trsLoadAborted : Status := 0x100D
def shfIllegalOp : Status := 0x2001
def shfMisaligned : Status := 0x2002
def shfLsRange : Status := 0x2003
def shfWindowFault : Status := 0x2004
def shfBarrierMismatch : Status := 0x2005
def gngFormatPair : Status := 0x2006
def gngNotEdge : Status := 0x2007
def gngFeedMismatch : Status := 0x2008
def gngDescInvalid : Status := 0x2009
def gngKLimit : Status := 0x200A
def gngDrainTarget : Status := 0x200B
def gngGangOwned : Status := 0x200C
def gngShapeInvalid : Status := 0x200D
def memOrderIndex : Status := 0x200E
def alcStaleHandle : Status := 0x200F
def alcForeignHandle : Status := 0x2010
def sprIdInvalid : Status := 0x2011
def sprStaleGen : Status := 0x2012
def sprUnderflow : Status := 0x2013
def sprOverflow : Status := 0x2014
def sprKind : Status := 0x2015
def sprForeign : Status := 0x2016
def mbnChannelInvalid : Status := 0x2017
def fabNakUnknownJob : Status := 0x3001
def fabNakStaleGen : Status := 0x3002
def fabNakCreditOverrun : Status := 0x3003
def fabNakMalformed : Status := 0x3004
def fabNakUnexpectedRidge : Status := 0x3005
def fabNakDenied : Status := 0x3006
def fabNakUnpopulated : Status := 0x3007
def fabNakNoRoute : Status := 0x3008
def fabNakQuarantined : Status := 0x3009
def fabRemoteTimeout : Status := 0x3010
def fabVcStalled : Status := 0x3011
def fabPortQuarantined : Status := 0x3012
def gutStaleGen : Status := 0x3013
def hqDbRange : Status := 0x3014
def hqRingFault : Status := 0x3015
def alcNoSpace : Status := 0x4001
def alcLimit : Status := 0x4002
def sprNoSpace : Status := 0x4003
def sprBusy : Status := 0x4004
def mbnBusy : Status := 0x4005
def mbnEmpty : Status := 0x4006
def hrdNotFound : Status := 0x4007
def hrdTooLong : Status := 0x4008
def gngReshapeBusy : Status := 0x4009
def gngTractFenced : Status := 0x400A
def hqQueueBusy : Status := 0x400B
def hqFuncWedged : Status := 0x400C
def gutJobBusy : Status := 0x400D
def jobNoSpare : Status := 0x400E
def trsMemShort : Status := 0x400F
def trsNotQuiesced : Status := 0x4010
def updCkptPartial : Status := 0x4011
def memUncorrectable : Status := 0x5001
def memHuskConsumed : Status := 0x5002
def memOrderAbandoned : Status := 0x5003
def gngParity : Status := 0x5004
def gngShadowMismatch : Status := 0x5005
def gngShadowUnresolved : Status := 0x5006
def gutTallyMismatch : Status := 0x5007
def jobDigestSplit : Status := 0x5008
def ctxRecordCorrupt : Status := 0x5009
def trsImageCrc : Status := 0x500A
def updCkptCorrupt : Status := 0x500B
def bootFwRejected : Status := 0x500C
def pwrThermalTrip : Status := 0x6001
def pwrSupplyFault : Status := 0x6002
def pwrDeliveryLimit : Status := 0x6003
def hqCmdInvalid : Status := 0x7001
def hqBadOpcode : Status := 0x7002
def hqLaunchInvalid : Status := 0x7003
def ctxNotDefined : Status := 0x7004
def ctxNotFree : Status := 0x7005
def ctxForeign : Status := 0x7006
def ctxRecordInvalid : Status := 0x7007
def ctxCodeInvalid : Status := 0x7008
def winEntryInvalid : Status := 0x7009
def gutJobInvalid : Status := 0x700A
def gutStreamRange : Status := 0x700B
def updRoleTableInvalid : Status := 0x700C
def updTableInvalid : Status := 0x700D
def trsImageFormat : Status := 0x700E
def trsSectionInvalid : Status := 0x700F
def trsResourceConflict : Status := 0x7010
def trsSpareConflict : Status := 0x7011
def updCkptInvalid : Status := 0x7012
def updCkptSkipped : Status := 0x7013

end Sys2Proof.Machine
end

