-- ==== Sys2Proof/WellFormed.lean ====
section
/-! DEFINITION. Which commands name units that the device has (R1, R18, R306, R307, R309, R319): the
meaning of any other command is the fault `noSuchUnit`. -/

namespace Sys2Proof

/-- Logical cores, and likewise context numbers (R1, R18). -/
def coreCount : Nat := 1048576

/-- Functions (R306). -/
def fnCount : Nat := 64

/-- The most queues a function has (R309). -/
def queueMax : Nat := 2047

/-- The size of BAR0 (R306). -/
def barSize : Nat := 0x4000000

/-- The register space of the model: BAR0, the 64 KiB of BAR2, 4 KiB of configuration space and 4 KiB for the boot
capability, one after another (R306, R419; the places of the last three are the model's own). -/
def spaceSize : Nat := barSize + 0x12000

/-- The issue names a core and one of its 64 threads (R18, R89). -/
def Issue.ok (i : Issue) : Bool := decide (i.core < coreCount ∧ i.leader < 64)

/-- The entry names a function and a queue number it can have. -/
def EntryRef.ok (e : EntryRef) : Bool := decide (e.fn < fnCount ∧ e.q < queueMax)

/-- Every unit that the command names exists. -/
def Instr.wellFormed : Instr → Bool
  | .nop i _ => i.ok
  | .bra i _ => i.ok
  | .brx i _ => i.ok
  | .call i _ => i.ok
  | .exit i _ => i.ok
  | .bar i _ => i.ok
  | .rdsr i _ => i.ok
  | .iadd i _ => i.ok
  | .isub i _ => i.ok
  | .imul i _ => i.ok
  | .imulh i _ => i.ok
  | .imad i _ => i.ok
  | .imin i _ => i.ok
  | .imax i _ => i.ok
  | .iabs i _ => i.ok
  | .and i _ => i.ok
  | .or i _ => i.ok
  | .xor i _ => i.ok
  | .shl i _ => i.ok
  | .shr i _ => i.ok
  | .sar i _ => i.ok
  | .popc i _ => i.ok
  | .clz i _ => i.ok
  | .bfe i _ => i.ok
  | .bfi i _ => i.ok
  | .iaddi i _ => i.ok
  | .imuli i _ => i.ok
  | .andi i _ => i.ok
  | .ori i _ => i.ok
  | .xori i _ => i.ok
  | .shli i _ => i.ok
  | .shri i _ => i.ok
  | .sari i _ => i.ok
  | .movi i _ => i.ok
  | .mov i _ => i.ok
  | .sel i _ => i.ok
  | .fadd i _ => i.ok
  | .fsub i _ => i.ok
  | .fmul i _ => i.ok
  | .ffma i _ => i.ok
  | .fmin i _ => i.ok
  | .fmax i _ => i.ok
  | .fabs i _ => i.ok
  | .fneg i _ => i.ok
  | .fdiv i _ => i.ok
  | .fsqrt i _ => i.ok
  | .frcp i _ => i.ok
  | .frsq i _ => i.ok
  | .fexp2 i _ => i.ok
  | .flog2 i _ => i.ok
  | .ftanh i _ => i.ok
  | .fmuli i _ => i.ok
  | .fsin i _ => i.ok
  | .fcos i _ => i.ok
  | .isetp i _ => i.ok
  | .fsetp i _ => i.ok
  | .plop i _ => i.ok
  | .i2f i _ => i.ok
  | .f2i i _ => i.ok
  | .cvt i _ => i.ok
  | .ld i _ => i.ok
  | .st i _ => i.ok
  | .ldl i _ => i.ok
  | .stl i _ => i.ok
  | .atom i _ => i.ok
  | .fence i _ => i.ok
  | .gfeedr i _ => i.ok
  | .gfeeds i _ => i.ok
  | .gdrain i _ => i.ok
  | .greshape i _ => i.ok
  | .grelease i _ => i.ok
  | .spadd i _ => i.ok
  | .spwait i _ => i.ok
  | .sparrive i _ => i.ok
  | .spread i _ => i.ok
  | .alloc i _ => i.ok
  | .free i _ => i.ok
  | .hput i _ => i.ok
  | .hget i _ => i.ok
  | .philox i _ => i.ok
  | .rnde i _ => i.ok
  | .msend i _ => i.ok
  | .mrecv i _ => i.ok
  | .pendingWriteLands core slot _ => decide (core < coreCount) && decide (slot < 4)
  | .sheafPlace e core => e.ok && decide (core < coreCount)
  | .sheafSwapOut core slot => decide (core < coreCount) && decide (slot < 4)
  | .sheafRestore core _ => decide (core < coreCount)
  | .feedAccepted gang _ _ => decide (gang < 2 ^ 20)
  | .cellFire gang row col => decide (gang < 2 ^ 20) && decide (row < 256) && decide (col < 256)
  | .elementWisePair gang row _ _ _ _ _ _ _ => decide (gang < 2 ^ 20) && decide (row < 256)
  | .drainComplete gang core => decide (gang < 2 ^ 20) && decide (core < coreCount)
  | .checkerResult _ _ _ => true
  | .arbiterVerdict _ _ _ => true
  | .rowShift course row => decide (course < 1024) && decide (row < 256)
  | .rowShiftDone course row => decide (course < 1024) && decide (row < 256)
  | .reshapeComplete tract => decide (tract < 16384)
  | .gangParityError gang core part => decide (gang < 2 ^ 20) && decide (core < coreCount) && decide (part < 4)
  | .contextAbort ctx => decide (ctx < coreCount)
  | .homeSliceAccess _ => true
  | .fillArrives _ _ => true
  | .orderedContribution _ => true
  | .orderedRetry _ => true
  | .orderedSequenceAbandon _ => true
  | .scrub _ _ _ => true
  | .sparHomeOperation spar => decide (spar < 65536)
  | .agentSparOperation fn jslot _ _ => decide (fn < fnCount) && decide (jslot < 16)
  | .chunkStart fn jslot _ => decide (fn < fnCount) && decide (jslot < 16)
  | .contribution port _ => decide (port < 64)
  | .engineApplyChunk engine => decide (engine < 32)
  | .preBlockApply fn jslot _ => decide (fn < fnCount) && decide (jslot < 16)
  | .rowCopyDone engine => decide (engine < 32)
  | .parameterMessage port _ => decide (port < 64)
  | .blockStreamStart fn jslot => decide (fn < fnCount) && decide (jslot < 16)
  | .blockContribution port _ => decide (port < 64)
  | .escape port _ => decide (port < 64)
  | .blockResult port _ => decide (port < 64)
  | .ridgeSend fn jslot => decide (fn < fnCount) && decide (jslot < 16)
  | .ridge port _ => decide (port < 64)
  | .void port _ => decide (port < 64)
  | .replayStart fn jslot => decide (fn < fnCount) && decide (jslot < 16)
  | .join port _ => decide (port < 64)
  | .spareTakeover fn jslot _ => decide (fn < fnCount) && decide (jslot < 16)
  | .ridgeTimeout fn jslot => decide (fn < fnCount) && decide (jslot < 16)
  | .ridgeOverdue fn jslot => decide (fn < fnCount) && decide (jslot < 16)
  | .checkpointStreamComplete fn jslot _ => decide (fn < fnCount) && decide (jslot < 16)
  | .read port _ => decide (port < 64)
  | .write port _ => decide (port < 64)
  | .atomic port _ => decide (port < 64)
  | .atomicOrd port _ => decide (port < 64)
  | .readResp port _ => decide (port < 64)
  | .writeAck port _ => decide (port < 64)
  | .atomicResp port _ => decide (port < 64)
  | .returnMsg port _ => decide (port < 64)
  | .nak port _ => decide (port < 64)
  | .messageForward port _ => decide (port < 64)
  | .remoteTimeout _ => true
  | .flitReceive port _ => decide (port < 64)
  | .retryRequest port _ => decide (port < 64)
  | .berWindow port _ _ => decide (port < 64)
  | .portTrainingComplete port _ _ _ => decide (port < 64)
  | .vcStalled port vc => decide (port < 64) && decide (vc < 8)
  | .violationScoreDecay => true
  | .reorderRelease port => decide (port < 64)
  | .queueNop e => e.ok
  | .launch e => e.ok
  | .copy e => e.ok
  | .fill e => e.ok
  | .reshape e => e.ok
  | .sparadd e => e.ok
  | .ctxcreate e => e.ok
  | .ctxdestroy e => e.ok
  | .ctxrecover e => e.ok
  | .codeload e => e.ok
  | .codeunload e => e.ok
  | .oalloc e => e.ok
  | .ofree e => e.ok
  | .oshare e => e.ok
  | .odrop e => e.ok
  | .ocopy e => e.ok
  | .query e => e.ok
  | .entryFetch fn q => decide (fn < fnCount) && decide (q < queueMax)
  | .entryFinish e => e.ok
  | .completionPost fn q => decide (fn < fnCount) && decide (q < queueMax)
  | .modtimeExpires fn q => decide (fn < fnCount) && decide (q < queueMax)
  | .pageIn ctx => decide (ctx < coreCount)
  | .destructionComplete ctx => decide (ctx < coreCount)
  | .hqDbsq fn q _ => decide (fn < fnCount) && decide (q < queueMax)
  | .hqDbcq fn q _ => decide (fn < fnCount) && decide (q < queueMax)
  | .queueEnable fn q _ => decide (fn < fnCount) && decide (q < queueMax)
  | .queueDisable fn q _ => decide (fn < fnCount) && decide (q < queueMax)
  | .mailboxSend fn ch => decide (fn < fnCount) && decide (ch < 24 ∨ (fn = 0 ∧ ch < 32))
  | .inboundGoClear fn ch => decide (fn < fnCount) && decide (ch < 24 ∨ (fn = 0 ∧ ch < 32))
  | .channelOpenWrite fn ch _ => decide (fn < fnCount) && decide (ch < 24 ∨ (fn = 0 ∧ ch < 32))
  | .mcAccept fn ch => decide (fn < fnCount) && decide (ch < 24 ∨ (fn = 0 ∧ ch < 32))
  | .mcAnswer fn ch _ => decide (fn < fnCount) && decide (ch < 24 ∨ (fn = 0 ∧ ch < 32))
  | .secureClaim _ _ _ => true
  | .sparCreate fn _ => decide (fn < fnCount)
  | .sparMap fn _ => decide (fn < fnCount)
  | .sparUnmap fn _ => decide (fn < fnCount)
  | .sparDestroy fn _ => decide (fn < fnCount)
  | .sparRead fn _ => decide (fn < fnCount)
  | .sparSet fn _ => decide (fn < fnCount)
  | .jobLoad fn _ => decide (fn < fnCount)
  | .jobUnload fn _ => decide (fn < fnCount)
  | .forceVoid fn _ => decide (fn < fnCount)
  | .membershipReload fn _ => decide (fn < fnCount)
  | .replay fn _ => decide (fn < fnCount)
  | .skip fn _ => decide (fn < fnCount)
  | .checkpointRegister fn _ => decide (fn < fnCount)
  | .resume fn _ => decide (fn < fnCount)
  | .restore fn _ => decide (fn < fnCount)
  | .restoreFromBuddy fn _ _ => decide (fn < fnCount)
  | .hoardRelease fn _ => decide (fn < fnCount)
  | .errCodeClear fn _ => decide (fn < fnCount)
  | .windowEntryEnable fn index _ => decide (fn < fnCount) && decide (index < 131072)
  | .windowEntryInvalidate fn index _ => decide (fn < fnCount) && decide (index < 131072)
  | .windowInvalidateDone fn index => decide (fn < fnCount) && decide (index < 131072)
  | .quarantineClear fn port _ => decide (fn < fnCount) && decide (port < 64)
  | .retrain fn port _ => decide (fn < fnCount) && decide (port < 64)
  | .injPctlWrite fn port _ => decide (fn < fnCount) && decide (port < 64)
  | .injPseedWrite fn port _ => decide (fn < fnCount) && decide (port < 64)
  | .signatureRingEnable fn _ => decide (fn < fnCount)
  | .powerCapWrite fn _ => decide (fn < fnCount)
  | .ctxKill fn _ => decide (fn < fnCount)
  | .fullLoad fn _ => decide (fn < fnCount)
  | .partitionLoad fn _ => decide (fn < fnCount)
  | .trussApply => true
  | .shutdown fn target => decide (fn < fnCount) && decide (target < 64)
  | .flr fn => decide (fn < fnCount)
  | .vfEnableClear => true
  | .shutdownComplete fn _ => decide (fn < fnCount)
  | .functionWedged fn _ => decide (fn < fnCount)
  | .functionEnable fn => decide (fn < fnCount)
  | .erase fn target => decide (fn < fnCount) && decide (target < 64)
  | .eraseComplete fn => decide (fn < fnCount)
  | .fullreset fn _ => decide (fn < fnCount)
  | .conventionalReset => true
  | .cxlReset => true
  | .cxlMemRead _ _ => true
  | .cxlMemWrite _ _ _ => true
  | .splitWriteTimeout fn => decide (fn < fnCount)
  | .splitReadLow _ _ fn off => decide (fn < fnCount) && decide (off < spaceSize ∧ off % 8 = 0)
  | .registerWrite _ _ fn off wide _ => decide (fn < fnCount) && decide (off < spaceSize ∧ off % (if wide then 8 else 4) = 0)
  | .bootMailboxSend _ => true
  | .doeBootChunk _ _ _ _ _ => true
  | .firmwareVerify => true
  | .bootImageApply => true
  | .memoryTrainingComplete badUnits channels => badUnits.all (· < 128) && channels.all (fun c => c.1 < 24)
  | .fabricBringupComplete => true
  | .identityKeysReady _ => true
  | .getVersion _ => true
  | .getCapabilities _ => true
  | .negotiateAlgorithms _ => true
  | .getDigests _ => true
  | .getCertificate _ => true
  | .challenge _ => true
  | .getMeasurements _ => true
  | .keyExchange _ => true
  | .finish _ => true
  | .heartbeat _ => true
  | .endSession _ => true
  | .vendorDefinedRequest _ => true
  | .getPdrRepositoryInfo => true
  | .getPdr _ => true
  | .getSensorReading _ => true
  | .getNumericEffecterValue _ => true
  | .setNumericEffecterValue _ _ => true
  | .setEventReceiver _ => true
  | .pollForPlatformEventMessage _ => true
  | .entdaa _ => true
  | .powerBudgetTick _ _ _ => true
  | .courseStandby course => decide (course < 1024)
  | .courseOff course => decide (course < 1024)
  | .courseWakeComplete course => decide (course < 1024)
  | .pacingInterval course => decide (course < 1024)
  | .temperatureSample course _ _ => decide (course < 1024)
  | .thermalTripTimeout course => decide (course < 1024)
  | .hbmStackTemperature stack _ => decide (stack < 32)
  | .deliverySense _ _ _ => true
  | .deliveryThrottleEnd => true
  | .courseSupplyFault course => decide (course < 1024)
  | .vinMainOutOfLimits _ => true
  | .vinMainLoss => true
  | .vinMainStable _ => true
  | .vinAonApplied _ _ => true
  | .vinAonLoss => true
  | .pmbusPoll _ _ _ _ => true
  | .energySample _ _ _ _ => true
  | .contextEnergyWriteback ctx => decide (ctx < coreCount)
  | .clockStop => true
  | .clockReturn => true
  | .tapReset => true
  | .bypass => true
  | .idcode => true
  | .samplePreload => true
  | .extest => true
  | .clamp => true
  | .highz => true
  | .instrNet => true
  | .vinMainReturnsWithinLimits _ => true
  | .pldmBaseRequest _ _ => true
  | .ideKmMessage _ => true

end Sys2Proof
end

