-- ==== Sys2Proof/Machine/Ops.lean ====
section
/-! DEFINITION. Named operations over the state: units and their owners, memory and its caches, address
translation, local stores. -/

namespace Sys2Proof.Machine

/-- The outcome of a command: its effect when every unit it names exists, else the fault. -/
def doneIf (ok : Bool) (t : State) : Host.Outcome State Fault Refusal :=
  if ok then .next t else .fault .noSuchUnit

/-- `doneIf` for a command's own check. -/
def done (c : Instr) (t : State) : Host.Outcome State Fault Refusal := doneIf c.wellFormed t

/-! ## Sorted sets of numbers -/

def insSet : List Nat → Nat → List Nat
  | [], n => [n]
  | k :: l, n => if n < k then n :: k :: l else if n = k then k :: l else k :: insSet l n

def delSet (l : List Nat) (n : Nat) : List Nat := l.filter (· != n)

def risingSet : List Nat → Bool
  | [] => true
  | [_] => true
  | a :: b :: l => decide (a < b) && risingSet (b :: l)

/-! ## Units -/

def State.fn (s : State) (n : Nat) : Fn := s.fns.getD n Fn.idle
def State.updFn (s : State) (n : Nat) (f : Fn → Fn) : State := { s with fns := s.fns.upd n Fn.idle f }

/-- The partition of slot n, if the image has one. -/
def State.part (s : State) (n : Nat) : Option Part := s.truss.parts.get? n

def State.course (s : State) (n : Nat) : Course := s.courses.getD n Course.idle
def State.updCourse (s : State) (n : Nat) (f : Course → Course) : State :=
  { s with courses := s.courses.upd n Course.idle f }

def State.ctx (s : State) (n : Nat) : Ctx := s.tab.ctxs.getD n Ctx.idle
def State.updCtx (s : State) (n : Nat) (f : Ctx → Ctx) : State :=
  { s with tab := { s.tab with ctxs := s.tab.ctxs.upd n Ctx.idle f } }

def State.core (s : State) (n : Nat) : Core := s.grid.cores.getD n Core.idle
def State.updCore (s : State) (n : Nat) (f : Core → Core) : State :=
  { s with grid := { s.grid with cores := s.grid.cores.upd n Core.idle f } }

def State.gang (s : State) (n : Nat) : Gang := s.grid.gangs.getD n Gang.idle
def State.updGang (s : State) (n : Nat) (f : Gang → Gang) : State :=
  { s with grid := { s.grid with gangs := s.grid.gangs.upd n Gang.idle f } }

def State.spar (s : State) (n : Nat) : Spar := s.tab.spars.getD n Spar.idle
def State.updSpar (s : State) (n : Nat) (f : Spar → Spar) : State :=
  { s with tab := { s.tab with spars := s.tab.spars.upd n Spar.idle f } }

def State.port (s : State) (n : Nat) : Port := s.fab.ports.getD n Port.idle
def State.updPort (s : State) (n : Nat) (f : Port → Port) : State :=
  { s with fab := { s.fab with ports := s.fab.ports.upd n Port.idle f } }

def State.engine (s : State) (n : Nat) : Engine := s.engines.getD n Engine.idle
def State.updEngine (s : State) (n : Nat) (f : Engine → Engine) : State :=
  { s with engines := s.engines.upd n Engine.idle f }

def State.queue (s : State) (fn q : Nat) : Queue := (s.fn fn).queues.getD q Queue.idle
def State.updQueue (s : State) (fn q : Nat) (f : Queue → Queue) : State :=
  s.updFn fn (fun g => { g with queues := g.queues.upd q Queue.idle f })

def State.mbx (s : State) (fn ch : Nat) : Mbx := (s.fn fn).mbx.getD ch Mbx.idle
def State.updMbx (s : State) (fn ch : Nat) (f : Mbx → Mbx) : State :=
  s.updFn fn (fun g => { g with mbx := g.mbx.upd ch Mbx.idle f })

/-- The job loaded in a slot of a function, if any. -/
def State.job (s : State) (fn j : Nat) : Option Job := (s.fn fn).jobs.get? j

/-- Change a loaded job; nothing happens where none is loaded. -/
def State.updJob (s : State) (fn j : Nat) (f : Job → Job) : State :=
  match s.job fn j with
  | some b => s.updFn fn (fun g => { g with jobs := g.jobs.put j (f b) })
  | none => s

def State.slot (s : State) (core slot : Nat) : Option Slot := (s.core core).slots.get? slot
def State.updSlot (s : State) (core slot : Nat) (f : Slot → Slot) : State :=
  match s.slot core slot with
  | some b => s.updCore core (fun c => { c with slots := c.slots.put slot (f b) })
  | none => s

/-- The context's job: function, slot and job (R332). -/
def State.jobOf (s : State) (ctx : Nat) : Option (Nat × Nat × Job) :=
  let c := s.ctx ctx
  match c.jobsl with
  | some j => (s.job c.fn j).map (fun b => (c.fn, j, b))
  | none => none

/-- A fresh mark of recency. -/
def State.tick (s : State) : State := { s with tab := { s.tab with stamp := s.tab.stamp + 1 } }

/-- Draw a free value: the word and the state that has drawn it. -/
def State.drawWord (s : State) : Word × State := (Config.freeWord s.free, { s with free := s.free + 1 })
def State.drawBool (s : State) : Bool × State := (Config.freeBool s.free, { s with free := s.free + 1 })

/-! ## Geometry (R13 to R21) -/

def courseOfCore (n : Nat) : Nat := n / 1024
def dieOfCore (n : Nat) : Nat := n / 65536

/-- Course row and column of a logical core (R18). -/
def coreRow (n : Nat) : Nat := 4 * (n % 1024 / 16 / 8) + n % 16 / 4
def coreCol (n : Nat) : Nat := 4 * (n % 1024 / 16 % 8) + n % 4

/-- Tract number of a logical core (R18). -/
def tractOfCore (n : Nat) : Nat := 16 * courseOfCore n + 4 * (coreRow n / 8) + coreCol n / 8

/-- The logical core at a course's row and column (R18). -/
def coreAt (course row col : Nat) : Nat :=
  1024 * course + 16 * (8 * (row / 4) + col / 4) + 4 * (row % 4) + col % 4

/-- The logical core at a row and column of a tract. -/
def coreInTract (tract row col : Nat) : Nat :=
  coreAt (tract / 16) (8 * (tract % 16 / 4) + row) (8 * (tract % 4) + col)

/-- Physical column of a logical core after its row's shift (R21). -/
def State.physCol (s : State) (core : Nat) : Nat :=
  match (s.course (courseOfCore core)).retired.get? (coreRow core) with
  | some f => if f < 32 ∧ coreCol core ≥ f then coreCol core + 1 else coreCol core
  | none => coreCol core

/-- Whether a tract is fenced (R24). -/
def State.fenced (s : State) (tract : Nat) : Bool := bitOf (s.course (tract / 16)).fence (tract % 16)

/-- The slots present in the image, with their partitions. -/
def State.owner? (s : State) (p : Part → Bool) : Option Nat := (s.truss.parts.find? (fun q => p q.2)).map (·.1)

def State.ownerOfCourse (s : State) (c : Nat) : Option Nat := s.owner? (fun p => p.courses.contains c)
def State.ownerOfCore (s : State) (n : Nat) : Option Nat := s.ownerOfCourse (courseOfCore n)

/-- The tracts of a partition in ascending order (R60). -/
def Part.tracts (p : Part) : List Nat := p.courses.flatMap (fun c => (List.range 16).map (fun t => 16 * c + t))

/-! ## Local addresses (R137 to R141, R249) -/

/-- Capacity of a quarter-stack unit in bytes (R308). -/
def State.unitB (s : State) : Nat := s.mem.stackGB * 250000000

/-- Populated bytes of a unit slot (R137). -/
def State.unitPop (s : State) : Nat := s.unitB / 4096 * 4096

def ddrSpace : Nat := 0x100000000000
def isDdr (a : Nat) : Bool := decide (ddrSpace ≤ a ∧ a < 0x200000000000)
def unitOf (a : Nat) : Nat := a / 0x800000000
def chanOf (a : Nat) : Nat := (a - ddrSpace) / 0x8000000000

/-- Whether the device has memory at a local address (R137). -/
def State.populated (s : State) (a : Nat) : Bool :=
  if a < 0x40000000000 then decide (a % 0x800000000 < s.unitPop) && !s.mem.badUnits.contains (unitOf a)
  else if isDdr a then
    match s.mem.chanCap.get? (chanOf a) with
    | some c => decide ((a - ddrSpace) % 0x8000000000 < c)
    | none => false
  else false

def Part.ownsAddr (p : Part) (a : Nat) : Bool :=
  if a < 0x40000000000 then p.units.contains (unitOf a)
  else if isDdr a then
    p.chans.contains (chanOf a) && decide (p.ddrBase ≤ (a - ddrSpace) % 0x8000000000) &&
      decide ((a - ddrSpace) % 0x8000000000 < p.ddrBase + p.ddrSize)
  else false

/-- The slot whose partition owns the memory at a local address. -/
def State.ownerOfAddr (s : State) (a : Nat) : Option Nat := s.owner? (fun p => p.ownsAddr a)

/-- Whether len bytes at a local address lie in the partition's memory. -/
def State.inPart (s : State) (n a len : Nat) : Bool :=
  match s.part n with
  | none => false
  | some p =>
    let b := a + (len - 1)
    p.ownsAddr a && p.ownsAddr b && s.populated a && s.populated b &&
      (if isDdr a then isDdr b && chanOf a == chanOf b else unitOf a == unitOf b)

/-- The die that carries a DDR5 channel (R15). -/
def dieOfChan (n : Nat) : Nat := [0, 1, 2, 3, 4, 7, 8, 11, 12, 13, 14, 15].getD (n / 2) 0

/-- The home die of a local address (R138, R139). -/
def homeDie (a : Nat) : Nat := if isDdr a then dieOfChan (chanOf a) else unitOf a / 8

/-- Slice within the home die, and set (R140). -/
def homeSlice (a : Nat) : Nat := field a 11 7 ^^^ field a 16 12 ^^^ field a 21 17
def homeSet (a : Nat) : Nat := field a 21 12 ^^^ field a 31 22

def State.hbmSize (s : State) (p : Part) : Nat := p.units.length * s.unitPop
def Part.ddrRange (p : Part) : Nat := p.chans.length * p.ddrSize

/-- Local address of a byte offset in the partition's HBM range (R138). -/
def Part.hbmLocal (p : Part) (x : Nat) : Nat :=
  let n := x / 4096
  let u := p.units.length
  p.units.getD (n % u) 0 * 0x800000000 + n / u * 4096 + x % 4096

/-- Local address of a byte offset in the partition's DDR5 range (R139). -/
def Part.ddrLocal (p : Part) (x : Nat) : Nat :=
  let n := x / 4096
  let u := p.chans.length
  ddrSpace + p.chans.getD (n % u) 0 * 0x8000000000 + p.ddrBase + n / u * 4096 + x % 4096

/-- Local address of an offset of space 0b00 (R249). -/
def State.partLocal (s : State) (p : Part) (x : Nat) : Option Nat :=
  if x < ddrSpace then (if x < s.hbmSize p then some (p.hbmLocal x) else none)
  else if x - ddrSpace < p.ddrRange then some (p.ddrLocal (x - ddrSpace)) else none

/-! ## HBM and DDR5 contents (R162 to R166, R450) -/

/-- Which key a slot's DDR5 bytes are written under now: the slot, and its epoch since the last power-on with the seed in
force (R425, R431). Memory that no partition owns has the key of slot 64. -/
def State.keyOf (s : State) (slot : Option Nat) : Nat × Nat :=
  let base := s.boot.seed * 2 ^ 96 + s.boot.powerOns * 2 ^ 32
  match slot with
  | some n => (n, base + s.boot.epochAdv.getD n 0)
  | none => (64, base)

/-- Whether the burst at a DDR5 address was written under the key that now reads it. -/
def State.keyFits (s : State) (a : Nat) : Bool :=
  match s.mem.mem.metas.get? (a / 64) with
  | some m => decide (s.keyOf (s.ownerOfAddr a) = (m.keySlot, m.keyEpoch))
  | none => false

/-- What an address reads as when the manual leaves its content open (R450). -/
def State.openByte (s : State) (a : Nat) : Byte :=
  let k := s.keyOf (s.ownerOfAddr a)
  Config.ddrByte a (k.1 + 65 * k.2)

/-- One byte of memory, behind the die cache. -/
def State.memByte (s : State) (a : Nat) : Byte :=
  if isDdr a then
    match Map.get? s.mem.mem.cells a with
    | some b => if s.keyFits a then b else s.openByte a
    | none => s.openByte a
  else Map.getD s.mem.mem.cells a 0

/-- Whether no byte of a DDR5 code word has ever been written. -/
def State.virginWord (s : State) (w : Nat) : Bool :=
  isDdr (16 * w) && (List.range 16).all (fun k => (Map.get? s.mem.mem.cells (16 * w + k)).isNone)

/-- Whether a code word of memory reads as a husk or as uncorrectable. -/
def State.memHusk (s : State) (w : Nat) : Bool :=
  s.mem.mem.husks.contains w || (s.virginWord w && Config.ddrBad w)

/-- The memory keeps its canonical form: cells strictly rising, no HBM byte listed as zero, husks and
burst metadata strictly rising. -/
def Memory.wf (m : Memory) : Bool :=
  Map.rising m.cells && m.cells.all (fun c => isDdr c.1 || c.2 != 0) && risingSet m.husks && Map.rising m.metas

/-- Write one byte, in canonical form. -/
def Memory.put (m : Memory) (a : Nat) (b : Byte) : Memory :=
  { m with cells := if isDdr a || b != 0 then Map.put m.cells a b else Map.del m.cells a }

/-- Forget the bytes of a burst (a write under a new key leaves the rest of the burst unreadable). -/
def Memory.forget (m : Memory) : Nat → Nat → Memory
  | _, 0 => m
  | a, n + 1 => Memory.forget { m with cells := Map.del m.cells a } (a + 1) n

def Memory.setHusk (m : Memory) (w : Nat) (h : Bool) : Memory :=
  { m with husks := if h then insSet m.husks w else delSet m.husks w }

def State.setMem (s : State) (m : Memory) : State := { s with mem := { s.mem with mem := m } }

/-- Prepare the burst of a DDR5 address for a write: its metadata names the key in force, and `gp` sets
PART and GEN where the write goes through an object (R164). -/
def State.burst (s : State) (a : Nat) (gp : Option (Nat × Nat)) : State :=
  if isDdr a then
    let m := s.mem.mem
    let k := s.keyOf (s.ownerOfAddr a)
    let old := m.metas.getD (a / 64) { part := 0, gen := 0, keySlot := k.1, keyEpoch := k.2 }
    let m := if s.keyFits a then m else m.forget (a / 64 * 64) 64
    let pg := gp.getD (old.part, old.gen)
    s.setMem { m with metas := m.metas.put (a / 64) { part := pg.1, gen := pg.2, keySlot := k.1, keyEpoch := k.2 } }
  else s

/-- Write one byte of memory. A byte written into a word that cannot be corrected leaves it a husk. -/
def State.memPut (s : State) (a : Nat) (b : Byte) (gp : Option (Nat × Nat)) : State :=
  let h := s.memHusk (a / 16)
  let s := s.burst a gp
  s.setMem ((s.mem.mem.put a b).setHusk (a / 16) h)

/-- Write bytes at an address, then clear the husk of every code word written whole (R170). -/
def State.memPutList (s : State) (gp : Option (Nat × Nat)) : Nat → List Byte → State
  | _, [] => s
  | a, b :: bs => State.memPutList (s.memPut a b gp) gp (a + 1) bs

/-- Code words that lie wholly in [a, a + len). -/
def wholeWords (a len : Nat) : List Nat :=
  let w0 := (a + 15) / 16
  (List.range ((a + len) / 16 - w0)).map (· + w0)

/-- Code words that [a, a + len) touches. -/
def wordsOf (a len : Nat) : List Nat :=
  if len = 0 then [] else (List.range ((a + len - 1) / 16 + 1 - a / 16)).map (· + a / 16)

def State.setHusks (s : State) (ws : List Nat) (h : Bool) : State :=
  s.setMem (ws.foldl (fun m w => m.setHusk w h) s.mem.mem)

def State.memWrite (s : State) (a : Nat) (bs : List Byte) (gp : Option (Nat × Nat)) : State :=
  (s.memPutList gp a bs).setHusks (wholeWords a bs.length) false

/-! ## The die cache (R148 to R151) -/

/-- What every agent of the device sees at a local address: the home slice's line over memory. -/
def State.byteAt (s : State) (a : Nat) : Byte :=
  match s.mem.dlines.get? (a / 128) with
  | some l => match l.dirty.get? (a % 128) with
    | some b => b
    | none => s.memByte a
  | none => s.memByte a

def State.huskAt (s : State) (w : Nat) : Bool :=
  match s.mem.dlines.get? (w / 8) with
  | some l => match l.words.get? (w % 8) with
    | some h => h
    | none => s.memHusk w
  | none => s.memHusk w

def State.readBytes (s : State) (a len : Nat) : List Byte := (List.range len).map (fun k => s.byteAt (a + k))
def State.readNat (s : State) (a len : Nat) : Nat := ofLe (s.readBytes a len)
def State.husksIn (s : State) (a len : Nat) : List Nat := (wordsOf a len).filter s.huskAt

def State.setLine (s : State) (n : Nat) (l : DLine) : State :=
  { s with mem := { s.mem with dlines := s.mem.dlines.put n l } }
def State.dropLine (s : State) (n : Nat) : State :=
  { s with mem := { s.mem with dlines := s.mem.dlines.del n } }

/-- Write a line's dirty bytes and husk states back to memory. -/
def State.writeBack (s : State) (n : Nat) : State :=
  match s.mem.dlines.get? n with
  | none => s
  | some l =>
    if l.remote.isSome then s
    else
      let t := l.dirty.foldl (fun t (d : Nat × Byte) => t.memPut (128 * n + d.1) d.2 none) s
      let t := l.words.foldl (fun t (d : Nat × Bool) => t.setHusks [8 * n + d.1] d.2) t
      t.setLine n { l with dirty := [], words := [] }

/-- Key of a remote read-only line held on a die. -/
def remoteKey (die gaddr : Nat) : Nat := (die + 1) * 0x100000000000000000 + gaddr / 128

/-- Where a line lies: die, slice, set. -/
def linePlace (n : Nat) : Nat × Nat × Nat :=
  if n < 0x100000000000000000 then (homeDie (128 * n), homeSlice (128 * n), homeSet (128 * n))
  else
    let a := 128 * (n % 0x100000000000000000)
    (n / 0x100000000000000000 - 1, homeSlice a, homeSet a)

/-- Whether an ordered sequence pins a line (R156). -/
def State.pinned (s : State) (n : Nat) : Bool := s.mem.seqs.any (fun q => q.1 / 128 == n)

/-- Ways of a partition on a die (R141). -/
def State.waysOf (s : State) (part die : Nat) : Nat :=
  match s.part part with
  | some p => popCount 16 (p.ways.getD die 0)
  | none => 0

/-- The least recent of some lines. -/
def leastRecent : List (Nat × DLine) → Option Nat
  | [] => none
  | (n, l) :: r => match leastRecent r with
    | none => some n
    | some m => match r.find? (fun x => x.1 == m) with
      | some x => if l.stamp ≤ x.2.stamp then some n else some m
      | none => some n

/-- Lines of a partition in the set of a line. -/
def State.setMates (s : State) (part n : Nat) : List (Nat × DLine) :=
  s.mem.dlines.filter (fun x => x.2.part == part && decide (linePlace x.1 = linePlace n))

/-- The victim of R150: the least recent evict-first, then normal, then keep line, none pinned. -/
def State.victim (s : State) (part n : Nat) : Option Nat :=
  let c := (s.setMates part n).filter (fun x => !s.pinned x.1)
  match leastRecent (c.filter (fun x => x.2.cls == 2)) with
  | some v => some v
  | none => match leastRecent (c.filter (fun x => x.2.cls == 0)) with
    | some v => some v
    | none => leastRecent c

/-- The class in which an access with a hint enters a line (R149, R150). -/
def State.enterClass (s : State) (part n hint : Nat) : Nat :=
  if hint = 1 then
    (if ((s.setMates part n).filter (fun x => x.2.cls == 1)).length + 1 < s.waysOf part (linePlace n).1 then 1 else 0)
  else if hint = 0 then 0 else 2

/-- Make room for a line in a partition's ways and enter it, evicting where the set is full (R150). A
partition with no way, or a set with every way pinned, holds no line. -/
def State.enterLine (s : State) (part n hint : Nat) (remote : Option (Nat × Nat)) : State :=
  let cls := s.enterClass part n hint
  match s.mem.dlines.get? n with
  | some l => (s.tick).setLine n { l with stamp := s.tab.stamp, cls := if hint = 1 ∧ l.cls ≠ 1 then cls else l.cls }
  | none =>
    let l : DLine := { part := part, stamp := s.tab.stamp, cls := cls, valid := [], dirty := [], words := [],
                       remote := remote }
    let w := s.waysOf part (linePlace n).1
    if w = 0 then s
    else if (s.setMates part n).length < w then (s.tick).setLine n l
    else match s.victim part n with
      | some v => (((s.writeBack v).dropLine v).tick).setLine n l
      | none => s

/-- Before a device agent writes a line, the die back-invalidates the host's copies (R304). -/
def State.unsnoop (s : State) (a len : Nat) : State :=
  { s with mem := { s.mem with snoop := s.mem.snoop.filter (fun n => n + 1 ≤ a / 64 || (a + len - 1) / 64 < n) } }

/-- Write one byte where the home slice holds it: into a cached line, else into memory. -/
def State.poke (s : State) (a : Nat) (b : Byte) : State :=
  match s.mem.dlines.get? (a / 128) with
  | some l =>
    let h := s.huskAt (a / 16)
    s.setLine (a / 128) { l with dirty := l.dirty.put (a % 128) b, words := l.words.put (a % 128 / 16) h }
  | none => s.memPut a b none

def State.pokeList (s : State) : Nat → List Byte → State
  | _, [] => s
  | a, b :: bs => State.pokeList (s.poke a b) (a + 1) bs

/-- Set or clear the husk of a code word where the home slice holds it. -/
def State.pokeHusk (s : State) (w : Nat) (h : Bool) : State :=
  match s.mem.dlines.get? (w / 8) with
  | some l => s.setLine (w / 8) { l with words := l.words.put (w % 8) h }
  | none => s.setHusks [w] h

/-- A write by any agent of the device at the home slices (R147): bytes land, and code words written
whole are clean (R170). -/
def State.writeBytes (s : State) (a : Nat) (bs : List Byte) : State :=
  let t := ((s.unsnoop a bs.length).pokeList a bs)
  (wholeWords a bs.length).foldl (fun t w => t.pokeHusk w false) t

def State.writeNat (s : State) (a len v : Nat) : State := s.writeBytes a (leBytes len v)

/-- A write through an allocator object, or by a spill or checkpoint stream: it also sets PART and GEN of
the bursts (R164). -/
def State.writeObj (s : State) (a : Nat) (bs : List Byte) (part gen : Nat) : State :=
  let t := s.writeBytes a bs
  let t := ((wordsOf a bs.length).map (· / 8)).eraseDups.foldl (fun t n => (t.writeBack n)) t
  (((wordsOf a bs.length).map (· / 4)).eraseDups).foldl (fun t n => t.burst (64 * n) (some (part, gen))) t

/-- Zero a range of memory, line by line of 64 bytes. -/
def State.zeroObj (s : State) (part gen : Nat) : Nat → Nat → State
  | _, 0 => s
  | a, n + 1 => State.zeroObj (s.writeObj a (List.replicate 64 0) part gen) part gen (a + 64) n

/-- Copy len bytes between local addresses, husks as husks (R170). -/
def State.copyBytes (s : State) (src dst len : Nat) : State :=
  let bad := s.husksIn src len
  let t := s.writeBytes dst (s.readBytes src len)
  bad.foldl (fun t w => t.pokeHusk ((16 * w + dst - src) / 16) true) t

/-- A PART and GEN comparison of a read through an object on DDR5 (R164). -/
def State.metaFits (s : State) (a len part gen : Nat) : Bool :=
  (wordsOf a len).all (fun w =>
    !isDdr (16 * w) ||
      (match s.mem.mem.metas.get? (w / 4) with
       | some m => m.part == part && m.gen == gen
       | none => false))

/-! ## Local stores (R87, R142) -/

def State.lsByte (s : State) (core off : Nat) : Byte := (s.core core).ls.getD off 0
def State.lsRead (s : State) (core off len : Nat) : List Byte := (List.range len).map (fun k => s.lsByte core (off + k))
def State.lsNat (s : State) (core off len : Nat) : Nat := ofLe (s.lsRead core off len)
def State.lsHusks (s : State) (core off len : Nat) : Bool :=
  (wordsOf off len).any (fun w => (s.core core).lsHusk.contains w)

def putList : Map Byte → Nat → List Byte → Map Byte
  | m, _, [] => m
  | m, a, b :: bs => putList (if b = 0 then Map.del m a else Map.put m a b) (a + 1) bs

def State.lsWrite (s : State) (core off : Nat) (bs : List Byte) : State :=
  s.updCore core (fun c => { c with
    ls := putList c.ls off bs
    lsHusk := c.lsHusk.filter (fun w => !(wholeWords off bs.length).contains w) })

/-- Whether [off, off + len) lies in the context's window on the core (R87). -/
def State.lsOk (s : State) (core ctx off len : Nat) : Bool :=
  match (s.core core).lsWin.get? ctx with
  | some (base, size) => decide (256 * base ≤ off ∧ off + len ≤ 256 * (base + size))
  | none => false

/-! ## Host memory (R310) -/

def State.hostByte (s : State) (a : Nat) : Byte :=
  match s.mem.hostCells.get? a with
  | some b => b
  | none => Config.hostByte a

def State.hostRead (s : State) (a len : Nat) : List Byte := (List.range len).map (fun k => s.hostByte (a + k))

/-- Which of some poisoned host lines keep their marker after a clean write: the host's memory system decides
(R305), so each is a free choice. -/
def State.cleanPoison (s : State) : List Nat → State
  | [] => s
  | l :: r =>
    let (b, s) := s.drawBool
    let s := if b then { s with mem := { s.mem with hostPoison := s.mem.hostPoison.filter (· != l) } } else s
    State.cleanPoison s r

/-- Write host memory without poison. -/
def State.hostWrite (s : State) (a : Nat) (bs : List Byte) : State :=
  let s := { s with mem := { s.mem with hostCells := (List.range bs.length).foldl (fun m k => m.put (a + k) (bs.getD k 0)) s.mem.hostCells } }
  s.cleanPoison (s.mem.hostPoison.filter (fun l => decide (64 * l < a + bs.length ∧ a < 64 * l + 64)))

/-- Whether a read of host memory meets poison. -/
def State.hostPoisoned (s : State) (a len : Nat) : Bool :=
  s.mem.hostPoison.any (fun l => decide (64 * l < a + len ∧ a < 64 * l + 64))

/-! ## Windows (R252 to R256) -/

def Window.valid (w : Window) : Bool := w.w0.getLsbD 0 && !w.closing
def Window.size (w : Window) : Nat := field w.w0.toNat 9 5
def Window.covers (w : Window) (a : Nat) : Bool :=
  w.valid && decide (w.w2.toNat ≤ a ∧ a < w.w2.toNat + 2 ^ w.size)

/-- Where a context address leads: function-relative window index, the entry, and either a local address
or a global address on another device. -/
structure Target where
  index : Nat
  win : Window
  loc : Option Nat
  gaddr : Nat
deriving DecidableEq, Repr

/-- The local address of a global address, if it is this device's (R249, R250). -/
def State.globalLocal (s : State) (p : Part) (g : Nat) : Option Nat :=
  if g / 2 ^ 62 = 0 then s.partLocal p (g % 2 ^ 46)
  else if field g 61 46 = s.fab.devid.toNat then some (g % 2 ^ 46)
  else none

/-- Translate a context address through the context's window subrange (R252, R256). -/
def State.translate (s : State) (ctx a : Nat) : Option Target :=
  let c := s.ctx ctx
  match s.part c.fn with
  | none => none
  | some p =>
    let lo := p.winBase + c.winFirst
    match s.fab.windows.find? (fun e => decide (lo ≤ e.1 ∧ e.1 < lo + c.winCount) && e.2.covers a) with
    | none => none
    | some (n, w) =>
      let g := w.w3.toNat + (a - w.w2.toNat)
      some { index := n - p.winBase, win := w, loc := s.globalLocal p g, gaddr := g }

/-- Whether a target lies on another device. -/
def Target.remote (t : Target) : Bool := t.loc.isNone && decide (t.gaddr / 2 ^ 62 = 1)

/-- Kinds of access that a window entry may permit. -/
inductive Acc where
  | r | w | a
deriving DecidableEq, Repr

def Window.permits (w : Window) : Acc → Bool
  | .r => w.w0.getLsbD 1
  | .w => w.w0.getLsbD 2
  | .a => w.w0.getLsbD 3

/-- Whether slot n may reach the memory at a local address of this device: its own, or that of a
partition with the same nonzero hall tag (R251). -/
def State.admits (s : State) (n a : Nat) : Bool :=
  match s.ownerOfAddr a with
  | none => false
  | some o => o == n || (match s.part n, s.part o with
    | some p, some q => p.htag == q.htag && p.htag != 0
    | _, _ => false)

/-- Translate for an access of one kind; a target without memory here is refused like a missing window
(R137, R256). -/
def State.reach (s : State) (ctx a len : Nat) (k : Acc) : Option Target :=
  match s.translate ctx a with
  | none => none
  | some t =>
    if t.win.permits k && t.win.covers (a + (len - 1)) &&
       (match t.loc with
        | some l => s.populated l && s.populated (l + (len - 1)) && s.admits (s.ctx ctx).fn l
        | none => t.remote)
    then some t else none

/-- The pieces of a range of context addresses, cut at 4 KiB granules, as local addresses with their
lengths; none where a byte cannot be reached locally. -/
def State.pieces (s : State) (ctx : Nat) (k : Acc) : Nat → Nat → Nat → Option (List (Nat × Nat))
  | 0, _, len => if len = 0 then some [] else none
  | fuel + 1, a, len =>
    if len = 0 then some []
    else
      let n := min len (4096 - a % 4096)
      match s.reach ctx a n k with
      | some { loc := some l, .. } => match State.pieces s ctx k fuel (a + n) (len - n) with
        | some r => some ((l, n) :: r)
        | none => none
      | _ => none

def State.ctxPieces (s : State) (ctx : Nat) (k : Acc) (a len : Nat) : Option (List (Nat × Nat)) :=
  s.pieces ctx k (len / 4096 + 2) a len

/-- The local address and husks of a range given by pieces. -/
def State.readPieces (s : State) (ps : List (Nat × Nat)) : List Byte := ps.flatMap (fun p => s.readBytes p.1 p.2)
def State.huskPieces (s : State) (ps : List (Nat × Nat)) : List Nat := ps.flatMap (fun p => s.husksIn p.1 p.2)

def State.writePieces (s : State) : List (Nat × Nat) → List Byte → State
  | [], _ => s
  | (a, n) :: r, bs => State.writePieces (s.writeBytes a (bs.take n)) r (bs.drop n)

/-- Write a partition's structure given by local address, when it lies in device memory, else host memory
(the LOC bit of rings). -/
def State.ringWrite (s : State) (loc : Bool) (a : Nat) (bs : List Byte) : State :=
  if loc then s.writeBytes a bs else s.hostWrite a bs

def State.ringRead (s : State) (loc : Bool) (a len : Nat) : List Byte :=
  if loc then s.readBytes a len else s.hostRead a len

end Sys2Proof.Machine
end

