-- ==== Sys2Proof/Machine/Log.lean ====
section
/-! DEFINITION. Fault signature records and where they go (R367 to R375), the change journal (R363),
vectors (R318), sending over the fabric (R265, R275), and taking a context fault (R105, R106). -/

namespace Sys2Proof.Machine

/-! ## Vectors (R309, R318) -/

/-- Fire a vector of a function; a masked vector keeps it pending. -/
def State.fireVec (s : State) (n v : Nat) : State :=
  s.updFn n (fun g => { g with vecs := g.vecs.upd v Vec.idle (fun x =>
    if x.masked || g.tearing then { x with pending := true } else { x with fired := x.fired + 1 }) })

/-! ## The change journal (R363, R364) -/

/-- Append a journal entry. -/
def State.journal (s : State) (fn src kind detail : Nat) (digest : BitVec 128) : State :=
  let t := s.truss
  { s with truss := { t with
      jcount := t.jcount + 1
      journal := t.journal.put (t.jcount % 4096)
        { seq := t.jcount, time := s.pwr.time, fn := fn, src := src, kind := kind, detail := detail, digest := digest } } }

/-! ## Fabric messages (R263 to R267, R274, R275) -/

def emptyMsg : Msg :=
  { addr := 0, dstdev := 0, srcdev := 0, htag := 0, tag := 0, op := 0, ttl := 0, len := 0, cls := 0, dlh := false,
    rsv := false, nak := 0, atype := 0, ordsc := 0, hint := 0, words := [] }

/-- The 256 bits of a route header. -/
def msgHeader (m : Msg) : Nat :=
  m.hint.toNat + m.ordsc.toNat * 2 ^ 32 + m.atype.toNat * 2 ^ 80 + m.nak.toNat * 2 ^ 88 +
  (if m.dlh then 2 ^ 100 else 0) + m.cls.toNat * 2 ^ 101 + m.len.toNat * 2 ^ 103 + m.ttl.toNat * 2 ^ 112 +
  m.op.toNat * 2 ^ 120 + m.tag.toNat * 2 ^ 128 + m.htag.toNat * 2 ^ 144 + m.srcdev.toNat * 2 ^ 160 +
  m.dstdev.toNat * 2 ^ 176 + m.addr.toNat * 2 ^ 192

/-- A port that may carry messages now: not disabled, down, untrained or quarantined. -/
def PortSt.carries : PortSt → Bool
  | .up => true
  | .degraded => true
  | .retraining => true
  | _ => false

def portHash (a src : Nat) : Nat :=
  field a 12 7 ^^^ field a 18 13 ^^^ field a 24 19 ^^^ field a 30 25 ^^^ field a 36 31 ^^^ field a 42 37 ^^^
  field a 45 43 ^^^ field src 5 0 ^^^ field src 11 6 ^^^ field src 15 12

/-- The output port of a message (R265): `origin` is the slot for which this device originates it. -/
def State.route (s : State) (addr dst src : Nat) (origin : Option Nat) : Option Nat :=
  let cand := (s.fab.routes.getD dst { cand := 0, dl := 0 }).cand.toNat
  let own := match origin with
    | some q => match s.part q with
      | some p => p.ports.toNat
      | none => 0
    | none => 2 ^ 64 - 1
  let ports := (setBits 64 cand).filter (fun p => (s.port p).st.carries && bitOf own p)
  if ports.isEmpty then none else ports[portHash addr src % ports.length]?

/-- The channel of a message: its class and half (R263; the number is a DESIGN CHOICE). -/
def channelOf (m : Msg) : Nat := 2 * m.cls.toNat + (if m.dlh then 1 else 0)

/-- Flits that the code words of a message fill (R270, R274). -/
def flitsOf (m : Msg) : Nat := (18 * m.words.length + 36 + 235) / 236

/-- Hand a message to a port. It moves to the high half of its class where the port's DL bit is set (R264).
It waits while the port retrains (R272) or its replay buffer is full (R271). -/
def State.sendOn (s : State) (p : Nat) (m : Msg) : State :=
  let dl := bitOf (s.fab.routes.getD m.dstdev.toNat { cand := 0, dl := 0 }).dl.toNat p
  let m := { m with dlh := m.dlh || dl }
  if (s.port p).st = .retraining ∨ 512 ≤ (s.port p).replay.length then s.updPort p (fun x => { x with waiting := x.waiting ++ [m] })
  else
    let q := (s.port p).txSeq
    let t := s.updPort p (fun x => { x with
      txSeq := q + 1, replay := x.replay ++ [(q, m, 0)], credits := x.credits.upd (channelOf m) 0 (· + flitsOf m) })
    { t with fab := { t.fab with out := t.fab.out ++ [(p, m)] } }

/-- The initial hop limit (R267, R278). -/
def State.ttl (s : State) : BitVec 8 := BitVec.ofNat 8 (if s.fab.ttl = 0 then 64 else s.fab.ttl)

/-- The port by which a message that this device originates leaves. -/
def State.outPort (s : State) (m : Msg) (origin : Option Nat) : Nat :=
  (s.route (m.addr.toNat % 2 ^ 46) m.dstdev.toNat s.fab.devid.toNat origin).getD 0

/-- Originate a message: the answer is none where no port remains (R266). -/
def State.send (s : State) (m : Msg) (origin : Option Nat) : Option State :=
  let m := { m with srcdev := s.fab.devid, ttl := s.ttl }
  match s.route (m.addr.toNat % 2 ^ 46) m.dstdev.toNat s.fab.devid.toNat origin with
  | some p => some (s.sendOn p m)
  | none => none

def State.sendOr (s : State) (m : Msg) (origin : Option Nat) : State := (s.send m origin).getD s

/-- The NAK of a message with a wire code (R274, R275). -/
def nakOf (m : Msg) (wire : Nat) : Msg :=
  { emptyMsg with
    dstdev := m.srcdev, tag := m.tag, op := 0x30, len := 2, cls := if m.op = 0x20 then 3 else 1,
    nak := BitVec.ofNat 8 wire,
    words := [⟨BitVec.ofNat 128 (msgHeader m), .clean⟩, ⟨BitVec.ofNat 128 ((msgHeader m) / 2 ^ 128), .clean⟩] }

/-- The status of a wire code (R275, R393). -/
def nakStatus (wire : Nat) : Status := BitVec.ofNat 16 (0x3000 + wire)

/-- The weight of a wire code (R275). -/
def nakWeight (wire : Nat) : Nat :=
  match wire with
  | 1 | 5 => 1
  | 3 | 4 => 4
  | _ => 0

/-- Answer a message with a NAK; a NAK is never answered (R275). -/
def State.sendNak (s : State) (m : Msg) (wire : Nat) : State :=
  if m.op = 0x30 then s else s.sendOr (nakOf m wire) none

/-! ## Records (R367 to R376) -/

/-- What a unit reports: the fields of a record that it decides. -/
structure Report where
  unit : Nat
  status : Status
  ctx : Option Nat
  job : Option (Nat × Nat)
  fn : Nat
  course : Option Nat
  loc : Nat
  op : Nat
  detail : List Byte
  capture : Nat
  secondary : Bool
deriving DecidableEq, Repr

def Report.plain (unit : Nat) (st : Status) (loc : Nat) (detail : List Byte) : Report :=
  { unit := unit, status := st, ctx := none, job := none, fn := 0, course := none, loc := loc, op := 0, detail := detail,
    capture := 0, secondary := false }

def jobGen (b : Job) : Byte := BitVec.ofNat 8 b.gen

/-- Complete a report with what the device adds. -/
def State.recordOf (s : State) (r : Report) : Record :=
  let jb : Option Job := match r.job with
    | some (f, j) => s.job f j
    | none => match r.ctx with
      | some c => (s.jobOf c).map (·.2.2)
      | none => none
  let (temp, mv) := match r.course with
    | some c => ((s.course c).temp, (s.course c).mv)
    | none => (s.pwr.islandTemp, s.pwr.islandMv)
  { unit := r.unit, status := r.status, seq := s.board.recSeq, time := s.pwr.time
    step := match jb with | some b => BitVec.ofNat 32 b.step | none => 0
    job := match jb with | some b => BitVec.ofNat 16 b.job | none => 0xFFFF
    gen := match jb with | some b => jobGen b | none => 0
    secondary := r.secondary
    injected := (r.unit == 0x0A || r.unit == 0x09) && (s.port r.loc).injMode != 0
    dropped := false
    priv := r.ctx.isSome || jb.isSome
    ctx := r.ctx, fn := r.fn, devid := s.fab.devid, course := r.course, temp := temp, mv := mv
    loc := BitVec.ofNat 32 r.loc, op := BitVec.ofNat 16 r.op, detail := r.detail, capture := r.capture }

/-- The 128 bytes of a record (R367). -/
def Record.bytes (r : Record) : List Byte :=
  let flags := (if r.secondary then 1 else 0) + (if r.injected then 2 else 0) + (if r.capture ≠ 0 then 4 else 0) +
    (if r.dropped then 8 else 0) + (if r.priv then 16 else 0)
  let who := match r.ctx with
    | some c => c + r.fn * 2 ^ 20
    | none => r.fn * 2 ^ 20 + 2 ^ 31
  let b := leBytes 1 1 ++ leBytes 1 r.unit ++ leBytes 2 r.status.toNat ++ leBytes 4 r.seq ++ leBytes 8 r.time.toNat ++
    leBytes 4 r.step.toNat ++ leBytes 2 r.job.toNat ++ leBytes 1 r.gen.toNat ++ leBytes 1 flags ++ leBytes 4 who ++
    leBytes 2 r.devid.toNat ++ leBytes 2 (r.course.getD 0xFFFF) ++ leBytes 2 (codeOf 16 r.temp) ++ leBytes 2 r.mv ++
    leBytes 4 r.loc.toNat ++ leBytes 2 r.op.toNat ++ leBytes 6 0 ++ padTo 64 r.detail ++ leBytes 8 r.capture
  b ++ leBytes 4 (crc32c b).toNat ++ leBytes 4 0

/-- A copy that leaves the partition's own function: without detail and capture unless the function exports
(R370). -/
def State.exportCopy (s : State) (r : Record) : Record :=
  if r.priv && !(s.fn r.fn).sig.ctl.getLsbD 15 then { r with detail := [], capture := 0 } else r

def SigRing.size (g : SigRing) : Nat := 2 ^ (field g.ctl.toNat 11 8 + 6)

/-- Deliver a record on a function's path (R371, R372). -/
def State.ringDeliver (s : State) (n : Nat) (r : Record) : State :=
  let g := (s.fn n).sig
  let next := (g.tail + 1) % g.size
  let t :=
    if !g.ctl.getLsbD 0 || next == g.head % g.size then
      s.updFn n (fun f => { f with sig := { f.sig with drop := sat 16 (f.sig.drop + 1), dropped := true } })
    else
      let t := s.ringWrite (g.ctl.getLsbD 12) (g.base.toNat + 128 * g.tail) { r with dropped := g.dropped }.bytes
      t.updFn n (fun f => { f with sig := { f.sig with tail := next, dropped := false } })
  if statusClass r.status ≠ 0 ∨ g.ctl.getLsbD 14 then t.fireVec n 0 else t

/-- A record is lost on its way to the collector (R375). -/
def State.collLose (s : State) : State :=
  { s with board := { s.board with
      collQueue := s.board.collQueue.drop 1, collDrop := sat 16 (s.board.collDrop + 1), collDropped := true } }

/-- Whether remote memory access with a hall tag reaches a local address: the wire code of the refusal, if any (R251,
R275). Unpopulated addresses are found first (DESIGN CHOICE). -/
def State.refuses (s : State) (htag : BitVec 16) (a : Nat) : Option Nat :=
  if !s.populated a then some 7
  else match (s.ownerOfAddr a).bind s.part with
    | some p => if p.htag = htag ∧ htag ≠ 0 then none else some 6
    | none => some 6

/-- The address of slot i of the collector's ring. -/
def State.collSlot (s : State) (i : Nat) : Nat :=
  (s.board.collBase.toNat + 128 * (i % 2 ^ field s.board.exportCtl.toNat 31 24)) % 2 ^ 46

/-- Issue a request to the device that a global address names (R249, R259, R274); none where no port remains (R266). -/
def State.request (s : State) (fn : Nat) (m : Msg) (window g : Nat) (why : RemoteWhy) : Option State :=
  let tag := s.fab.nextTag
  let m := { m with addr := BitVec.ofNat 64 g, dstdev := BitVec.ofNat 16 (field g 61 46), tag := BitVec.ofNat 16 tag }
  (s.send m (some fn)).map (fun t =>
    let e : Remote := { tag := tag, port := s.outPort m (some fn), window := window, gaddr := BitVec.ofNat 64 g, dev := m.dstdev, why := why }
    { t with fab := { t.fab with nextTag := tag + 1, remotes := t.fab.remotes ++ [e] } })

/-- The hall tag that a slot's requests carry (R251). -/
def State.htagOf (s : State) (fn : Nat) : BitVec 16 := match s.part fn with | some p => p.htag | none => 0

/-- Originate a request of the MC for the collector. -/
def State.collSend (s : State) (m : Msg) (why : RemoteWhy) : Option State :=
  let ctl := s.board.exportCtl.toNat
  let g := 2 ^ 62 + field ctl 63 48 * 2 ^ 46 + m.addr.toNat
  s.request 0 { m with htag := BitVec.ofNat 16 (field ctl 47 32) } 0 g why

/-- The MC asks the collector's counter for the slot of its oldest record (R375). A collector on this device is served
locally (R250); a record that finds no route is lost. -/
def State.collAsk (s : State) : Nat → State
  | 0 => s
  | fuel + 1 =>
    match s.board.collQueue with
    | [] => s
    | r :: _ =>
      let c := s.board.collCtr.toNat % 2 ^ 46
      if field s.board.exportCtl.toNat 63 48 = s.fab.devid.toNat then
        let i := s.readNat c 8
        let tag := BitVec.ofNat 16 (field s.board.exportCtl.toNat 47 32)
        if (s.refuses tag c).isSome ∨ (s.refuses tag (s.collSlot i)).isSome then State.collAsk s.collLose fuel
        else
          let t := (s.writeNat c 8 (i + 1)).writeBytes (s.collSlot i) r.bytes
          State.collAsk { t with board := { t.board with collQueue := t.board.collQueue.drop 1 } } fuel
      else
        match s.collSend { emptyMsg with addr := BitVec.ofNat 64 c, op := 0x03, len := 1, atype := 12, words := [⟨1, .clean⟩] }
            (.collCounter r.seq) with
        | some t => t
        | none => State.collAsk s.collLose fuel

/-! ## The CBOR rendering of a record (R376) -/

/-- The head of a CBOR item in deterministic encoding: major type and argument. -/
def cborHead (major n : Nat) : List Byte :=
  let m (k : Nat) : Byte := BitVec.ofNat 8 (32 * major + k)
  if n < 24 then [m n]
  else if n < 2 ^ 8 then m 24 :: beBytes 1 n
  else if n < 2 ^ 16 then m 25 :: beBytes 2 n
  else if n < 2 ^ 32 then m 26 :: beBytes 4 n
  else m 27 :: beBytes 8 n

def cborInt (v : Int) : List Byte := if 0 ≤ v then cborHead 0 v.toNat else cborHead 1 ((-1 - v).toNat)

/-- The fields of a record by key, those that hold their none value left out. -/
def Record.cborFields (r : Record) : List (Nat × List Byte) :=
  let u (k n : Nat) : List (Nat × List Byte) := [(k, cborHead 0 n)]
  let opt (b : Bool) (l : List (Nat × List Byte)) : List (Nat × List Byte) := if b then l else []
  let job := r.job != 0xFFFF
  let flags := (r.bytes.getD 0x17 0).toNat
  u 1 1 ++ u 2 r.unit ++ u 3 r.status.toNat ++ u 4 r.seq ++ u 5 r.time.toNat ++ opt job (u 6 r.step.toNat) ++ opt job (u 7 r.job.toNat) ++
    opt job (u 8 r.gen.toNat) ++ u 9 flags ++ opt r.ctx.isSome (u 10 (r.ctx.getD 0)) ++ u 11 r.fn ++ u 12 r.devid.toNat ++
    opt r.course.isSome (u 13 (r.course.getD 0)) ++ [(14, cborInt r.temp)] ++ u 15 r.mv ++ u 16 r.loc.toNat ++ u 17 r.op.toNat ++
    opt (r.detail.any (· != 0)) [(18, cborHead 2 64 ++ padTo 64 r.detail)] ++ opt (r.capture != 0) (u 19 r.capture)

def Record.cbor (r : Record) : List Byte :=
  cborHead 5 r.cborFields.length ++ r.cborFields.flatMap (fun f => cborHead 0 f.1 ++ f.2)

/-! ## Events (R374) -/

/-- The event data of a record. -/
def State.eventData (s : State) (r : Record) : List Byte := if s.board.exportCtl.getLsbD 3 then r.cbor else r.bytes

/-- A message leaves for the BMC: command code and bytes. -/
def State.bmcSend (s : State) (cmd : Nat) (bs : List Byte) : State := { s with board := { s.board with sent := s.board.sent ++ [(cmd, bs)] } }

/-- Waiting records leave as PlatformEventMessages (command 0x0A, event class 0xFA) once the endpoint has an address and an
event receiver. -/
def State.bmcServe (s : State) : State :=
  if s.board.address.isNone ∨ s.board.receiver.isNone ∨ !s.board.exportCtl.getLsbD 2 then s
  else
    let t := s.board.bmcQueue.foldl (fun (t : State) r => t.bmcSend 0x0A (0xFA#8 :: s.eventData r)) s
    { t with board := { t.board with bmcQueue := [], ibi := false } }

/-- Deliver to the always-on store, the BMC and the collector (R373 to R375). -/
def State.deviceDeliver (s : State) (r : Record) : State :=
  let b := s.board
  let b := { b with aoStore := b.aoStore.put (b.aoCount % 256) r, aoCount := b.aoCount + 1 }
  let b :=
    if b.exportCtl.getLsbD 2 then
      (if b.bmcQueue.length < 64 then
        { b with bmcQueue := b.bmcQueue ++ [{ r with dropped := b.bmcDropped }], bmcDropped := false, ibi := true }
      else { b with bmcDrop := sat 16 (b.bmcDrop + 1), bmcDropped := true })
    else b
  let s := ({ s with board := b }).bmcServe
  let b := s.board
  if b.exportCtl.getLsbD 1 then
    let first := b.collQueue.isEmpty
    let s := { s with board := { b with collQueue := b.collQueue ++ [{ r with dropped := b.collDropped }], collDropped := false } }
    if first then s.collAsk 1 else s
  else s

/-- Write a fault signature record and send it where R369 says. -/
def State.record (s : State) (rep : Report) : State :=
  let r := s.recordOf rep
  let s := { s with board := { s.board with recSeq := s.board.recSeq + 1 } }
  let c := s.exportCopy r
  let home := if r.priv then r.fn else 0
  let t := s.ringDeliver home r
  let t := if home = 0 then t else t.ringDeliver 0 c
  t.deviceDeliver c

/-! ## Peer violations (R275, R277) -/

/-- Count a refusal of a message on its port, log it, and answer with its NAK. -/
def State.violate (s : State) (port : Nat) (m : Msg) (wire : Nat) : State :=
  if m.op = 0x30 then s
  else
    let f := s.fab
    let e : VLog := { hdr := BitVec.ofNat 128 ((msgHeader m) / 2 ^ 128), time := s.pwr.time, src := m.srcdev, port := port,
                      nak := wire, status := nakStatus wire }
    let s := { s with fab := { f with vlogCount := f.vlogCount + 1, vlog := f.vlog.put (f.vlogCount % 256) e } }
    let p := s.port port
    let v := min 255 (p.vcnt + nakWeight wire)
    let s := s.updPort port (fun p => { p with viol := sat 16 (p.viol + 1), vcnt := v })
    let s :=
      if s.fab.qthresh ≠ 0 ∧ s.fab.qthresh ≤ v ∧ p.st ≠ .quarantined then
        (s.updPort port (fun p => { p with st := .quarantined, linkUp := p.st })).record
          (Report.plain 0x0A fabPortQuarantined port
            (leBytes 4 0 ++ leBytes 4 0 ++ leBytes 8 m.addr.toNat ++ leBytes 2 m.dstdev.toNat ++
             leBytes 2 p.peerDev.toNat ++ leBytes 1 v))
      else s
    s.sendNak m wire

/-! ## Context records in memory (R330) -/

def CtxSt.code : CtxSt → Nat
  | .free => 0
  | .defined => 1
  | .faulted => 2
  | .destroying => 3

/-- Write the fields that the AF7 owns into the context's record. -/
def State.saveCtx (s : State) (n : Nat) : State :=
  let c := s.ctx n
  let a := c.record
  let t := s.writeBytes a (leBytes 4 (c.st.code + if c.resident then 16 else 0) ++
    leBytes 4 (n + (c.jobsl.getD 31) * 2 ^ 24))
  t.writeBytes (a + 0x60) (leBytes 4 c.crc.toNat ++ leBytes 4 c.numflags.toNat ++ leBytes 4 c.fault.toNat ++
    leBytes 4 c.objs ++ leBytes 8 c.hbmCh ++ leBytes 8 c.ddrCh ++ leBytes 8 c.energy)

/-! ## Context faults (R104 to R106) -/

/-- A context faults: the first fault becomes its status and starts its abort; a later one only leaves a
record, marked secondary. `core` is the core that stops issuing at once. -/
def State.faultCtx (s : State) (n : Nat) (rep : Report) (core : Option Nat) : State :=
  let c := s.ctx n
  let stopOn (c : Ctx) : Ctx := match core with
    | some k => { c with stopped := insSet c.stopped k }
    | none => c
  let rep := { rep with ctx := some n, fn := c.fn }
  match c.st with
  | .free => s
  | .defined =>
    (s.record rep).updCtx n (fun c => stopOn { c with st := .faulted, fault := rep.status, aborting := true })
  | _ => (s.record { rep with secondary := true }).updCtx n stopOn

/-- Count a husk consumed by a context or unit of a partition (R171). -/
def State.countHusk (s : State) (n : Nat) : State := s.updFn n (fun g => { g with huskuse := sat 16 (g.huskuse + 1) })

/-- Location of a core in a record (R368). -/
def State.coreLoc (s : State) (core : Nat) : Nat :=
  courseOfCore core + coreRow core * 2 ^ 10 + s.physCol core * 2 ^ 15

/-- The report of a context fault found by a core: unit 0x02 with slot, thread, PC, word and address. -/
def State.sheafReport (s : State) (core idx : Nat) (st : Status) (pc : DWord) (word addr : Nat) : Report :=
  { unit := 0x02, status := st, ctx := none, job := none, fn := 0, course := some (courseOfCore core)
    loc := s.coreLoc core, op := word / 2 ^ 56
    detail := leBytes 1 (idx / 16) ++ leBytes 1 (idx % 16) ++ leBytes 6 0 ++ leBytes 8 pc.toNat ++ leBytes 8 word ++ leBytes 8 addr
    capture := 0, secondary := false }

/-- Whether a unit may still start work of a context: it is defined and not being aborted. -/
def State.ctxRuns (s : State) (n : Nat) : Bool := decide ((s.ctx n).st = .defined) && !(s.ctx n).aborting

end Sys2Proof.Machine
end

