-- ==== Sys2Proof/Machine/Operands.lean ====
section
/-! DEFINITION. Issue groups (R88 to R90), guards (R108), register operands (R109 to R112), writes that
land later (R92, R94), and the shared form of instructions that compute in the lanes and the XU. -/

namespace Sys2Proof.Machine

/-! ## Register specifiers (R109, R110) -/

inductive Reg where
  | g (n : Nat) | u (n : Nat) | zr
deriving DecidableEq, Repr

/-- The register, pair (w = 2) or quad (w = 4) that a specifier names; none for a reserved code or a base
that is not a multiple of w. -/
def regs (w : Nat) (c : BitVec 6) : Option (List Reg) :=
  let n := c.toNat
  if n = 0x30 then some (List.replicate w .zr)
  else if n < 0x20 then (if n % w = 0 then some ((List.range w).map (fun k => .g (n + k))) else none)
  else if n < 0x30 then (if n % w = 0 then some ((List.range w).map (fun k => .u (n - 0x20 + k))) else none)
  else none

/-- As `regs`, for an operand that must be a u register, pair or quad (or ZR). -/
def uregs (w : Nat) (c : BitVec 6) : Option (List Reg) :=
  if 0x20 ≤ c.toNat then regs w c else none

/-- As `regs`, for an operand that must be a g register (or ZR). -/
def gregs (w : Nat) (c : BitVec 6) : Option (List Reg) :=
  if c.toNat < 0x20 ∨ c.toNat = 0x30 then regs w c else none

def Reg.isU : Reg → Bool
  | .u _ => true
  | _ => false

/-- The register of a thread (its position) as a slot holds it. -/
def Slot.read (sl : Slot) (pos : Nat) : Reg → Word
  | .g n => (sl.threads.getD pos Thread.idle).g.getD n 0
  | .u n => sl.u.getD n 0
  | .zr => 0

/-- The number that a register, pair or quad holds, low word first. -/
def Slot.readNat (sl : Slot) (pos : Nat) : List Reg → Nat
  | [] => 0
  | r :: rs => (sl.read pos r).toNat + 2 ^ 32 * sl.readNat pos rs

/-- Whether a register of a thread is awaited (R92, R94). A result that a later instruction has overwritten is not. -/
def Slot.awaits (sl : Slot) (pos : Nat) : Reg → Bool
  | .g n => sl.pend.any (fun p => p.thread == pos && p.reg == n && (p.drain || !p.clobber))
  | .u n => sl.pend.any (fun p => p.thread == 16 && p.reg == n && (p.drain || !p.clobber))
  | .zr => false

def Reg.code : Reg → Nat
  | .g n => n
  | .u n => 0x20 + n
  | .zr => 0x30

def Reg.ofNat (n : Nat) : Reg := if n < 0x20 then .g n else if n < 0x30 then .u (n - 0x20) else .zr

def Slot.thread (sl : Slot) (pos : Nat) : Thread := sl.threads.getD pos Thread.idle

/-- The pending results of a slot once a register has been overwritten. -/
def Slot.overwritten (sl : Slot) (pos n : Nat) : List Pend :=
  sl.pend.map (fun p => if p.thread == pos && p.reg == n then { p with clobber := true } else p)

/-- Write a register of a thread. A write to a register with a register drain pending leaves its final
value undefined (R94); any other pending result of the register is older, and lands nowhere. -/
def Slot.write (sl : Slot) (pos : Nat) (r : Reg) (v : Word) : Slot :=
  match r with
  | .g n => { sl with
      threads := sl.threads.upd pos Thread.idle (fun t => { t with g := t.g.put n v })
      pend := sl.overwritten pos n }
  | .u n => { sl with u := sl.u.put n v, pend := sl.overwritten 16 n }
  | .zr => sl

def Slot.writeAll (sl : Slot) (pos : Nat) : List Reg → List Word → Slot
  | r :: rs, v :: vs => Slot.writeAll (sl.write pos r v) pos rs vs
  | _, _ => sl

def Slot.updThread (sl : Slot) (pos : Nat) (f : Thread → Thread) : Slot :=
  { sl with threads := sl.threads.upd pos Thread.idle f }

/-- Change thread `idx` (16·slot + position) of a core. -/
def State.updThread (s : State) (core idx : Nat) (f : Thread → Thread) : State :=
  s.updSlot core (idx / 16) (fun sl => sl.updThread (idx % 16) f)

def State.thread (s : State) (core idx : Nat) : Thread :=
  match s.slot core (idx / 16) with
  | some sl => sl.thread (idx % 16)
  | none => Thread.idle

/-- The n words of a number, low word first. -/
def wordsOfNat : Nat → Nat → List Word
  | 0, _ => []
  | n + 1, v => BitVec.ofNat 32 v :: wordsOfNat n (v / 2 ^ 32)

/-! ## Pending results (R92) -/

/-- A result that lands later in a register of a thread: `ready` once its value is known. ZR discards. -/
def Slot.pendOne (sl : Slot) (tag pos : Nat) (r : Reg) (v : Word) (ready : Bool) : Slot :=
  let p (t n : Nat) : Pend := { tag := tag, thread := t, reg := n, val := v, ready := ready, drain := false, clobber := false }
  match r with
  | .g n => { sl with pend := sl.pend ++ [p pos n] }
  | .u n => { sl with pend := sl.pend ++ [p 16 n] }
  | .zr => sl

def Slot.pendAll (sl : Slot) (tag pos : Nat) : List Reg → List Word → Bool → Slot
  | r :: rs, v :: vs, b => Slot.pendAll (sl.pendOne tag pos r v b) tag pos rs vs b
  | _, _, _ => sl

/-- Give the pending results with a tag their values, in order. -/
def Slot.settle (sl : Slot) (tag : Nat) (vs : List Word) : Slot :=
  let rec go : List Pend → List Word → List Pend
    | [], _ => []
    | p :: ps, vs =>
      if p.tag = tag && !p.ready then
        match vs with
        | v :: vs => { p with val := v, ready := true } :: go ps vs
        | [] => { p with ready := true } :: go ps []
      else p :: go ps vs
  { sl with pend := go sl.pend vs }

/-! ## Issue (R88 to R90, R108) -/

/-- What the encoding of an instruction says before it acts: whether it is legal (R110), whether it is
slot-bound (R90), and which registers it reads. -/
structure Enc where
  legal : Bool
  bound : Bool
  reads : List Reg
deriving DecidableEq, Repr

def guardLegal (g : BitVec 5) : Bool := g.getLsbD 4 || g == 0

/-- Whether the guard is true for a thread (R108). -/
def Thread.guarded (t : Thread) (g : BitVec 5) : Bool :=
  !g.getLsbD 4 || (t.p.getLsbD (g.toNat % 8) != g.getLsbD 3)

/-- The thread at a position that joins the leader's group: the lowest slot of the pool (R89). -/
def Core.joiner (c : Core) (ctx : Nat) (pc : DWord) (slots : List Nat) (pos : Nat) : Option Nat :=
  (slots.find? (fun k => match c.slots.get? k with
    | some sl => sl.ctx == ctx && (sl.thread pos).st == .ready && (sl.thread pos).pc == pc
    | none => false)).map (fun k => 16 * k + pos)

/-- The issue group of a leader, in ascending position (R89). -/
def Core.group (c : Core) (leader : Nat) (bound : Bool) : List Nat :=
  match c.slots.get? (leader / 16) with
  | none => []
  | some sl =>
    let pc := (sl.thread (leader % 16)).pc
    (List.range 16).filterMap (fun pos =>
      if pos = leader % 16 then some leader
      else c.joiner sl.ctx pc (if bound then [leader / 16] else [0, 1, 2, 3]) pos)

/-- Whether the leader can issue: its thread is READY, its context has not been stopped on the core, and
its course's fast clock runs. -/
def State.canLead (s : State) (i : Issue) : Bool :=
  match s.slot i.core (i.leader / 16) with
  | none => false
  | some sl =>
    (sl.thread (i.leader % 16)).st == .ready && !(s.ctx sl.ctx).stopped.contains i.core &&
      decide ((s.ctx sl.ctx).st ≠ .destroying) && decide ((s.course (courseOfCore i.core)).power = .run)

/-- Make the threads of a group that read an awaited register wait for it (R92). -/
def State.waitData (s : State) (core : Nat) (reads : List Reg) : List Nat → State
  | [] => s
  | m :: ms =>
    let s := match s.slot core (m / 16) with
      | some sl =>
        let w := reads.filter (sl.awaits (m % 16))
        if w.isEmpty then s else s.updThread core m (fun t => { t with st := .waitData, waits := w.map Reg.code })
      | none => s
    State.waitData s core reads ms

def State.mustWait (s : State) (core : Nat) (reads : List Reg) (m : Nat) : Bool :=
  match s.slot core (m / 16) with
  | some sl => reads.any (sl.awaits (m % 16))
  | none => false

/-- Whether the guard is true for a member of a group. -/
def State.guardOn (s : State) (core : Nat) (g : BitVec 5) (m : Nat) : Bool := (s.thread core m).guarded g

/-- A thread's instruction faults its context (R105). -/
def State.sheafFault (s : State) (core m : Nat) (st : Status) (word addr : Nat) : State :=
  match s.slot core (m / 16) with
  | some sl => s.faultCtx sl.ctx (s.sheafReport core m st (sl.thread (m % 16)).pc word addr) (some core)
  | none => s

/-- Issue one instruction: form the group, refuse an illegal encoding, hold back threads that read awaited
registers, and act on the rest: `act` is given the members that issue and those whose guard is true. -/
def State.issue (s : State) (i : Issue) (guard : BitVec 5) (e : Enc) (word : Nat)
    (act : State → List Nat → List Nat → State) : State :=
  if !s.canLead i then s
  else
    let grp := (s.core i.core).group i.leader e.bound
    let s := s.updCore i.core (fun c => { c with ptr := (i.leader + 1) % 64 })
    if !(e.legal && guardLegal guard) then s.sheafFault i.core i.leader shfIllegalOp word 0
    else
      let held := grp.filter (fun m => s.guardOn i.core guard m && s.mustWait i.core e.reads m)
      let s := s.waitData i.core e.reads held
      let go := grp.filter (fun m => !held.contains m)
      act s go (go.filter (s.guardOn i.core guard))

/-- Advance the program counters of a group to the next instruction. -/
def State.nextPc (s : State) (core : Nat) (ms : List Nat) : State :=
  ms.foldl (fun s m => s.updThread core m (fun t => { t with pc := t.pc + 8 })) s

/-- The context of a group: that of its leader's slot. -/
def State.slotCtx (s : State) (i : Issue) : Nat :=
  match s.slot i.core (i.leader / 16) with
  | some sl => sl.ctx
  | none => 0

/-! ## Instruction words (R107) -/

def tWord (opc : Nat) (f : FormT) : Nat :=
  opc * 2 ^ 56 + f.guard.toNat * 2 ^ 51 + f.dst.toNat * 2 ^ 45 + f.sa.toNat * 2 ^ 39 + f.sb.toNat * 2 ^ 33 +
  f.sc.toNat * 2 ^ 27 + f.type.toNat * 2 ^ 23 + f.mod.toNat

def iWord (opc : Nat) (f : FormI) : Nat :=
  opc * 2 ^ 56 + f.guard.toNat * 2 ^ 51 + f.dst.toNat * 2 ^ 45 + f.sa.toNat * 2 ^ 39 + f.type.toNat * 2 ^ 35 +
  f.mod.toNat * 2 ^ 32 + f.imm.toNat

/-! ## Lane instructions (R111, R112, R116) -/

/-- Which members write a destination: every one a g register, the lowest one a u register (R111). -/
def writers (dst : List Reg) (ms : List Nat) : List Nat := if dst.any Reg.isU then ms.take 1 else ms

/-- How an instruction computes: from the member (its thread index), the thread's predicates and the values
of the source operands. -/
abbrev LaneFn := Nat → BitVec 8 → List Nat → Nat

/-- The result of a member. -/
def State.result (s : State) (core m : Nat) (srcs : List (List Reg)) (f : LaneFn) : Nat :=
  match s.slot core (m / 16) with
  | some sl => f m (sl.thread (m % 16)).p (srcs.map (sl.readNat (m % 16)))
  | none => 0

/-- Write the results of a group in its destination registers. -/
def State.laneWrite (s : State) (core : Nat) (srcs : List (List Reg)) (dst : List Reg) (f : LaneFn) : List Nat → State
  | [] => s
  | m :: ms =>
    let v := wordsOfNat dst.length (s.result core m srcs f)
    State.laneWrite (s.updSlot core (m / 16) (fun sl => sl.writeAll (m % 16) dst v)) core srcs dst f ms

/-- Results of the XU: ready, and landing later (R113). -/
def State.lanePend (s : State) (core : Nat) (srcs : List (List Reg)) (dst : List Reg) (f : LaneFn) : List Nat → State
  | [] => s
  | m :: ms =>
    let v := wordsOfNat dst.length (s.result core m srcs f)
    State.lanePend (s.updSlot core (m / 16) (fun sl => sl.pendAll 0 (m % 16) dst v true)) core srcs dst f ms

/-- The operands of an instruction as its encoding names them, or none when one is illegal. -/
def allRegs : List (Option (List Reg)) → Option (List (List Reg))
  | [] => some []
  | none :: _ => none
  | some r :: l => (allRegs l).map (r :: ·)

/-- An instruction that computes a result from registers: in the lanes, or in the XU with the result
pending. `bound` marks an instruction that is slot-bound whatever its operands. -/
def State.compute (s : State) (xu bound : Bool) (i : Issue) (guard : BitVec 5) (word : Nat) (legal : Bool)
    (srcs : List (Option (List Reg))) (dst : Option (List Reg)) (f : LaneFn) : State :=
  let rs := (allRegs srcs).getD []
  let d := dst.getD []
  let e : Enc := { legal := legal && (allRegs srcs).isSome && dst.isSome
                   bound := bound || rs.any (·.any Reg.isU) || d.any Reg.isU
                   reads := rs.flatten }
  s.issue i guard e word (fun s go on =>
    (if xu then s.lanePend i.core rs d f (writers d on) else s.laneWrite i.core rs d f (writers d on)).nextPc i.core go)

end Sys2Proof.Machine
end

