-- ==== Sys2Proof/Machine/Flags.lean ====
section
/-! DEFINITION. The sticky numeric flags (R52), the random bits of a rounding (R49, R205), predicates and
their comparisons (R116), and the conversion instruction's result (R129). -/

namespace Sys2Proof.Machine

/-- OR events into a context's CTX_NUMFLAGS (R52). -/
def State.orFlags (s : State) (ctx : Nat) (fl : Word) : State :=
  s.updCtx ctx (fun c => { c with numflags := c.numflags ||| fl })

/-- Seed and step of a context's job; 0 and 0 without one (R205). -/
def State.seedOf (s : State) (ctx : Nat) : DWord × Word :=
  match s.jobOf ctx with
  | some (_, _, b) => (b.hdr.seed, BitVec.ofNat 32 b.step)
  | none => (0, 0)

/-- The 16 random bits of an element for a context (R49, R205). -/
def State.randOf (s : State) (ctx : Nat) (tid : Word) (e : DWord) : BitVec 16 :=
  let (seed, step) := s.seedOf ctx
  roundBits seed tid step e

/-- Comparisons of ISETP and FSETP: 0 EQ, 1 NE, 2 LT, 3 LE, 4 GT, 5 GE. -/
def condHolds (cond : Nat) (o : Ordering) : Bool :=
  match cond, o with
  | 0, .eq => true
  | 1, .lt => true
  | 1, .gt => true
  | 2, .lt => true
  | 3, .lt => true
  | 3, .eq => true
  | 4, .gt => true
  | 5, .gt => true
  | 5, .eq => true
  | _, _ => false

def icmp (signed : Bool) (a b : Word) : Ordering :=
  if signed then compare a.toInt b.toInt else compare a.toNat b.toNat

/-- Any NaN makes every condition false except NE (R116). -/
def fcond (cond : Nat) (a b : Word) : Bool :=
  if (ofF32 a).isNan || (ofF32 b).isNan then cond == 1 else condHolds cond (cmpNum (ofF32 a) (ofF32 b))

/-- Predicate operations of PLOP: 0 AND, 1 OR, 2 XOR, 3 AND-NOT. -/
def plogic (op : Nat) (a b : Bool) : Bool :=
  match op with
  | 0 => a && b
  | 1 => a || b
  | 2 => a != b
  | _ => a && !b

def setPred (p : BitVec 8) (n : Nat) (b : Bool) : BitVec 8 := if b then p ||| (1#8 <<< n) else p &&& ~~~(1#8 <<< n)

/-- Write predicate n of the members of a group. -/
def State.predWrite (s : State) (core n : Nat) (f : Slot → Nat → Bool) : List Nat → State
  | [] => s
  | m :: ms =>
    let t := match s.slot core (m / 16) with
      | some sl => s.updThread core m (fun t => { t with p := setPred t.p n (f sl (m % 16)) })
      | none => s
    State.predWrite t core n f ms

/-- Whether a conversion's control word holds only defined values (R43). -/
def ncwDefined (w : Word) : Bool :=
  decide (w.toNat < 2 ^ 16) && decide (field w.toNat 14 13 ≠ 3) && decide (field w.toNat 11 9 ≤ 4) &&
    decide (field w.toNat 3 0 ≤ 6)

/-- The result of CVT and its flag events (R129, R52). -/
def cvtResult (ncw : Word) (rand : BitVec 16) (w : Nat) : Nat × Word :=
  let (v, fl) := operandNum (field ncw.toNat 3 0) (ncw.getLsbD 15) w
  let (c, fl') := convertOut ncw (some rand) v
  (c, fl ||| fl')

end Sys2Proof.Machine
end

