-- ==== Sys2Proof/Machine/Control.lean ====
section
/-! DEFINITION. Control transfers, exit, sheaf barriers, special values (R86, R98, R100, R115), and what
happens when a sheaf ends (R86, R146). -/

namespace Sys2Proof.Machine

/-! ## The near-core cache at a task boundary (R146) -/

/-- Write the dirty bytes of the near-core cache back to their home slices. -/
def State.writeBackNear (s : State) (core : Nat) : State :=
  let t := (s.core core).lines.foldl (fun t (l : Nat × NLine) =>
    l.2.dirty.foldl (fun t d => t.writeBytes (64 * l.1 + d) [l.2.bytes.getD d 0]) t) s
  t.updCore core (fun c => { c with lines := c.lines.map (fun l => (l.1, { l.2 with dirty := [] })) })

/-- The end of a launch on a core, or a fence in Lomcon mode: write back, then invalidate everything. -/
def State.flushNear (s : State) (core : Nat) : State :=
  (s.writeBackNear core).updCore core (fun c => { c with lines := [] })

/-- The start of a launch on a core: invalidate the clean lines. -/
def State.dropClean (s : State) (core : Nat) : State :=
  s.updCore core (fun c => { c with lines := c.lines.filter (fun l => !l.2.dirty.isEmpty) })

/-! ## The end of a sheaf (R86, R87) -/

def Slot.over (sl : Slot) : Bool :=
  sl.pend.isEmpty && (List.range 16).all (fun p => (sl.thread p).st == .exited)

/-- Whether a context still has a sheaf on a core, resident or swapped out. -/
def State.onCore (s : State) (ctx core : Nat) : Bool :=
  (s.core core).slots.any (fun x => x.2.ctx == ctx) || (s.ctx ctx).saved.any (fun v => v.core == core)

/-- Whether a launch still has a sheaf on a core. -/
def State.launchOn (s : State) (e : Option EntryRef) (ctx core : Nat) : Bool :=
  (s.core core).slots.any (fun x => x.2.launch == e) || (s.ctx ctx).saved.any (fun v => v.core == core && v.slot.launch == e)

/-- Free a slot. The context's window on the core ends with its last sheaf there (R87). -/
def State.freeSlot (s : State) (core slot ctx : Nat) : State :=
  let s := s.updCore core (fun c => { c with slots := c.slots.del slot })
  if s.onCore ctx core then s else s.updCore core (fun c => { c with lsWin := c.lsWin.del ctx })

/-- Change a queue entry that the engine holds. -/
def State.updEntry (s : State) (e : EntryRef) (f : QEntry → QEntry) : State :=
  s.updQueue e.fn e.q (fun q => { q with entries := q.entries.map (fun x => if x.n = e.n then f x else x) })

/-- End the sheaf of a slot if every thread has exited and every write has landed. Its launch counts it,
and the task boundary falls when it was the launch's last on the core. -/
def State.endSheaf (s : State) (core slot : Nat) : State :=
  match s.slot core slot with
  | none => s
  | some sl =>
    if !sl.over then s
    else
      let s := s.freeSlot core slot sl.ctx
      let s := match sl.launch with
        | some e => s.updEntry e (fun x => { x with ended := x.ended + 1 })
        | none => s
      if s.launchOn sl.launch sl.ctx core then s else s.flushNear core

/-! ## Sheaf barriers (R98 to R100) -/

/-- What the parked threads of a slot amount to. -/
inductive BarTest where
  | wait | release | whole | mismatch
deriving DecidableEq, Repr

def Slot.barTest (sl : Slot) : BarTest :=
  let live := (List.range 16).filter (fun p => (sl.thread p).st != .exited)
  match live with
  | [] => .wait
  | p0 :: _ =>
    let t0 := sl.thread p0
    if !live.all (fun p => (sl.thread p).st == .parkBar || (sl.thread p).st == .parkWhole) then .wait
    else if live.all (fun p => (sl.thread p).st == .parkBar && (sl.thread p).bar == t0.bar) then .release
    else if live.all (fun p => (sl.thread p).st == .parkWhole && (sl.thread p).pc == t0.pc) then .whole
    else .mismatch

def Slot.releaseBar (sl : Slot) : Slot :=
  { sl with
    threads := sl.threads.map (fun x =>
      if x.2.st = .parkBar then (x.1, { x.2 with st := .ready, pc := x.2.pc + 8 }) else x)
    barId := 0, barMask := 0 }

/-- Test the barrier of a slot: release it, or fault the context where no release is possible. The fault is
that of the thread `m` that completes the mismatch, at its instruction `word` (R105). -/
def State.testBar (s : State) (core slot m word : Nat) : State :=
  match s.slot core slot with
  | none => s
  | some sl => match sl.barTest with
    | .release => s.updSlot core slot Slot.releaseBar
    | .mismatch => s.sheafFault core m shfBarrierMismatch word 0
    | _ => s

/-- The slots that the members of a group belong to. -/
def slotsOf (ms : List Nat) : List Nat := [0, 1, 2, 3].filter (fun k => ms.any (fun m => m / 16 == k))

/-! ## Instructions -/

/-- A form with every field but the guard and those named here at 0. -/
def bareT (f : FormT) : Bool := f.type == 0 && f.mod == 0 && f.sc == 0 && f.sb == 0

def execNop (i : Issue) (f : FormT) (s : State) : Host.Outcome State Fault Refusal :=
  let e : Enc := { legal := bareT f && f.sa == 0 && f.dst == 0, bound := false, reads := [] }
  done (.nop i f) (s.issue i f.guard e (tWord 0x00 f) (fun s go _ => s.nextPc i.core go))

/-- The first member whose branch target is refused, with the status: misaligned, or outside the windows. -/
def State.badTarget (s : State) (ctx : Nat) : List (Nat × DWord) → Option (Nat × Status × Nat)
  | [] => none
  | (m, t) :: r =>
    if t.toNat % 8 ≠ 0 then some (m, shfMisaligned, t.toNat)
    else if (s.reach ctx t.toNat 8 .r).isNone then some (m, shfWindowFault, t.toNat)
    else State.badTarget s ctx r

/-- Take the branches of a group: nobody branches when one target is refused (R105, R115). -/
def State.branch (s : State) (core ctx : Nat) (go on : List Nat) (word : Nat) (target : Nat → DWord)
    (link : State → State) : State :=
  match s.badTarget ctx (on.map (fun m => (m, target m))) with
  | some (m, st, a) => s.sheafFault core m st word a
  | none =>
    let t := (link s).nextPc core (go.filter (fun m => !on.contains m))
    on.foldl (fun t m => t.updThread core m (fun th => { th with pc := target m })) t

def execBra (i : Issue) (f : FormI) (s : State) : Host.Outcome State Fault Refusal :=
  let e : Enc := { legal := f.type == 0 && f.mod == 0 && f.sa == 0 && f.dst == 0, bound := false, reads := [] }
  let ctx := s.slotCtx i
  done (.bra i f) (s.issue i f.guard e (iWord 0x01 f) (fun s go on =>
    s.branch i.core ctx go on (iWord 0x01 f) (fun m => (s.thread i.core m).pc + f.imm.signExtend 64) (fun t => t)))

def execBrx (i : Issue) (f : FormT) (s : State) : Host.Outcome State Fault Refusal :=
  let ra := (regs 2 f.sa).getD []
  let e : Enc := { legal := bareT f && f.dst == 0 && (regs 2 f.sa).isSome, bound := ra.any Reg.isU, reads := ra }
  let ctx := s.slotCtx i
  let target (s : State) (m : Nat) : DWord := match s.slot i.core (m / 16) with
    | some sl => BitVec.ofNat 64 (sl.readNat (m % 16) ra)
    | none => 0
  done (.brx i f) (s.issue i f.guard e (tWord 0x02 f) (fun s go on =>
    s.branch i.core ctx go on (tWord 0x02 f) (target s) (fun t => t)))

/-- CALL writes the link pair, then branches. -/
def execCall (i : Issue) (f : FormI) (s : State) : Host.Outcome State Fault Refusal :=
  let d := (regs 2 f.dst).getD []
  let e : Enc := { legal := f.type == 0 && f.mod == 0 && f.sa == 0 && (regs 2 f.dst).isSome, bound := d.any Reg.isU, reads := [] }
  let ctx := s.slotCtx i
  done (.call i f) (s.issue i f.guard e (iWord 0x03 f) (fun s go on =>
    s.branch i.core ctx go on (iWord 0x03 f) (fun m => (s.thread i.core m).pc + f.imm.signExtend 64)
      (fun t => (writers d on).foldl (fun t m => t.updSlot i.core (m / 16) (fun sl =>
        sl.writeAll (m % 16) d (wordsOfNat 2 ((s.thread i.core m).pc + 8).toNat))) t)))

/-- BAR: the threads enter PARK_BAR at barrier IMM[2:0] and record their arrival (R98). -/
def execBar (i : Issue) (f : FormI) (s : State) : Host.Outcome State Fault Refusal :=
  let e : Enc := { legal := f.type == 0 && f.mod == 0 && f.sa == 0 && f.dst == 0 && decide (f.imm.toNat < 8)
                   bound := true, reads := [] }
  let id := f.imm.toNat % 8
  done (.bar i f) (s.issue i f.guard e (iWord 0x05 f) (fun s go on =>
    let t := s.nextPc i.core (go.filter (fun m => !on.contains m))
    let t := on.foldl (fun t m => t.updSlot i.core (m / 16) (fun sl =>
      let sl := sl.updThread (m % 16) (fun th => { th with st := .parkBar, bar := id })
      if sl.barMask = 0 ∨ sl.barId = id then { sl with barId := id, barMask := setBitN sl.barMask (m % 16) } else sl)) t
    if on.isEmpty then t else t.testBar i.core (i.leader / 16) i.leader (iWord 0x05 f)))

/-- The special value IMM of RDSR for a member (R115). -/
def State.special (s : State) (core ctx m : Nat) (imm : Nat) : Nat :=
  match imm with
  | 0 => m % 16
  | 1 => m / 16
  | 2 => core
  | 3 => tractOfCore core
  | 4 => s.pwr.time.toNat % 2 ^ 32
  | 5 => s.pwr.time.toNat / 2 ^ 32
  | 6 => (s.seedOf ctx).2.toNat
  | _ => ctx

def execRdsr (i : Issue) (f : FormI) (s : State) : Host.Outcome State Fault Refusal :=
  let ctx := s.slotCtx i
  done (.rdsr i f) (s.compute false false i f.guard (iWord 0x06 f)
    (f.type == 0 && f.mod == 0 && f.sa == 0 && decide (f.imm.toNat < 8)) [] (regs 1 f.dst)
    (fun m _ _ => s.special i.core ctx m f.imm.toNat))

end Sys2Proof.Machine
end

