-- ==== Sys2Proof/Machine/LoadStore.lean ====
section
/-! DEFINITION. Loads, stores, atomics and fences (R95, R117 to R120), the near-core cache (R143 to R147)
and remote requests as threads issue them (R257 to R259). -/

namespace Sys2Proof.Machine

/-! ## Sizes and operations -/

/-- Bytes and sign extension of a load TYPE (R117). -/
def sizeOfType (t : Nat) : Option (Nat × Bool) :=
  match t with
  | 0 => some (1, false)
  | 1 => some (1, true)
  | 2 => some (2, false)
  | 3 => some (2, true)
  | 4 => some (4, false)
  | 5 => some (8, false)
  | 6 => some (16, false)
  | _ => none

/-- Registers that hold an access of a size. -/
def regWidth (size : Nat) : Nat := if size ≤ 4 then 1 else size / 4

/-- Width in bytes of an atomic operation (R119). -/
def atomSize (op : Nat) : Nat :=
  match op with
  | 2 => 2
  | 12 => 8
  | _ => 4

/-- ADD.BF16: the exact sum rounded to BF16 (R152). -/
def addBf16 (a b : Nat) : Nat := roundIeee bf16 (addNum (decodeFmt bf16 a) (decodeFmt bf16 b))

/-- The new value of an atomic operation (R119, R152). -/
def atomNew (op old arg cmp : Nat) : Nat :=
  let o : Word := BitVec.ofNat 32 old
  let a : Word := BitVec.ofNat 32 arg
  match op with
  | 0 => (o + a).toNat
  | 1 => (fadd32 o a).toNat
  | 2 => addBf16 (old % 2 ^ 16) (arg % 2 ^ 16)
  | 3 => (if icmp true o a = .gt then a else o).toNat
  | 4 => (if icmp true o a = .lt then a else o).toNat
  | 5 => (if icmp false o a = .gt then a else o).toNat
  | 6 => (if icmp false o a = .lt then a else o).toNat
  | 7 => (o &&& a).toNat
  | 8 => (o ||| a).toNat
  | 9 => (o ^^^ a).toNat
  | 10 => a.toNat
  | 11 => (if old = cmp then a else o).toNat
  | _ => (old + arg) % 2 ^ 64

/-- A loaded value as it enters its registers (R117). -/
def extendLoad (size : Nat) (sext : Bool) (v : Nat) : Nat := if sext then codeOf 32 (signedOf (8 * size) v) else v

/-! ## The near-core cache (R143 to R145) -/

def State.lomcon (s : State) (ctx : Nat) : Bool :=
  match s.part (s.ctx ctx).fn with
  | some p => p.lomcon
  | none => false

/-- Whether the near-core cache may hold a line reached through a target: in native mode through windows
without write permission, in Lomcon mode through any local window (R144, R145). -/
def State.nearHolds (s : State) (ctx : Nat) (t : Target) : Bool :=
  t.loc.isSome && (s.lomcon ctx || !t.win.permits .w)

/-- Make room for a line in its set of 4 ways (DESIGN CHOICE: 16 sets by the low line bits, least recent
first): dirty bytes of the victim are written back. -/
def State.nearRoom (s : State) (core line : Nat) : State :=
  let c := s.core core
  let mates := c.lines.filter (fun l => l.1 % 16 == line % 16)
  if (c.lines.get? line).isSome || mates.length < 4 then s
  else
    let v := mates.foldl (fun (b : Nat × NLine) l => if l.2.stamp < b.2.stamp then l else b) (mates.headD (0,
      { bytes := [], dirty := [], husks := [], stamp := 0 }))
    let t := v.2.dirty.foldl (fun t d => t.writeBytes (64 * v.1 + d) [v.2.bytes.getD d 0]) s
    t.updCore core (fun c => { c with lines := c.lines.del v.1 })

def NLine.idle : NLine := { bytes := [], dirty := [], husks := [], stamp := 0 }

/-- Fill a line from its home slice, merged under its dirty bytes (R145). -/
def State.nearFill (s : State) (core a : Nat) : State :=
  let line := a / 64
  let s := s.nearRoom core line
  let l := (s.core core).lines.getD line NLine.idle
  let bytes := (List.range 64).map (fun k =>
    (k, if l.dirty.contains k then l.bytes.getD k 0 else s.byteAt (64 * line + k)))
  let husks := (List.range 4).filter (fun w => s.huskAt (4 * line + w))
  let l := { l with bytes := bytes, husks := husks, stamp := s.tab.stamp }
  (s.updCore core (fun c => { c with lines := c.lines.put line l })).tick

/-- A Lomcon store into the cache: its bytes become valid and dirty without a read of memory (R145). -/
def State.nearStore (s : State) (core a : Nat) (bs : List Byte) : State :=
  let line := a / 64
  let s := s.nearRoom core line
  let off := a % 64
  let l := (s.core core).lines.getD line NLine.idle
  let l := { l with
    bytes := (List.range bs.length).foldl (fun m k => m.put (off + k) (bs.getD k 0)) l.bytes
    dirty := (List.range bs.length).foldl (fun m k => insSet m (off + k)) l.dirty
    husks := l.husks.filter (fun w => !(wholeWords off bs.length).contains w)
    stamp := s.tab.stamp }
  (s.updCore core (fun c => { c with lines := c.lines.put line l })).tick

/-- A hit: every byte of the access is valid. -/
def State.nearHit (s : State) (core a size : Nat) : Option (Nat × Bool) :=
  match (s.core core).lines.get? (a / 64) with
  | none => none
  | some l =>
    let off := a % 64
    if (List.range size).all (fun k => (l.bytes.get? (off + k)).isSome) then
      some (ofLe ((List.range size).map (fun k => l.bytes.getD (off + k) 0)), l.husks.contains (off / 16))
    else none

/-! ## Remote requests (R257 to R261, R274) -/

/-- The report of a failed remote request (R261, R368). -/
def fabReport (st : Status) (port window : Nat) (gaddr : DWord) (dev peer : BitVec 16) (vcnt : Nat) : Report :=
  Report.plain 0x0A st port (leBytes 4 window ++ leBytes 4 0 ++ leBytes 8 gaddr.toNat ++ leBytes 2 dev.toNat ++
    leBytes 2 peer.toNat ++ leBytes 1 vcnt)

/-- The message of a request (R274). -/
def State.requestMsg (s : State) (r : MemReq) (g : Nat) : Msg :=
  let base := { emptyMsg with htag := s.htagOf (s.ctx r.ctx).fn, hint := BitVec.ofNat 2 r.hint }
  let word (v : Nat) : CodeWord := ⟨BitVec.ofNat 128 v, .clean⟩
  let code : BitVec 8 := match r.size with | 1 => 0 | 2 => 2 | 4 => 4 | 8 => 5 | 16 => 6 | 32 => 8 | _ => 9
  match r.kind with
  | .load => { base with op := 0x01, atype := if r.near then 9 else code }
  | .store => { base with
      op := 0x02, len := 1, atype := code
      ordsc := BitVec.ofNat 32 ((2 ^ r.size - 1) * 2 ^ (g % 16)), words := [word (r.data * 2 ^ (8 * (g % 16)))] }
  | .atom op => { base with
      op := 0x03, len := 1, atype := BitVec.ofNat 8 op, words := [word (r.data + r.cmp * 2 ^ 64)] }
  | .ordered op => { base with
      op := 0x04, len := 1, atype := BitVec.ofNat 8 op, ordsc := r.ordsc, words := [word r.data] }

/-- The report of a request that finds no port (R266). -/
def noRouteReport (window g : Nat) : Report :=
  fabReport fabNakNoRoute 0 window (BitVec.ofNat 64 g) (BitVec.ofNat 16 (field g 61 46)) 0 0

/-- Issue a remote request: it waits for its response, or its context faults where no port remains (R266). -/
def State.issueRemote (s : State) (r : MemReq) (window g : Nat) : State :=
  match s.request (s.ctx r.ctx).fn (s.requestMsg r g) window g (.thread r) with
  | some t => t
  | none => s.faultCtx r.ctx (noRouteReport window g) none

/-! ## Faults and results of accesses -/

/-- The consumption of a husk by a thread (R169): its context faults. -/
def State.huskFault (s : State) (core slot thread ctx : Nat) (pc : DWord) (word addr : Nat) : State :=
  (s.faultCtx ctx (s.sheafReport core (16 * slot + thread) memHuskConsumed pc word addr) none).countHusk (s.ctx ctx).fn

/-- Deliver a value to a thread's pending registers. -/
def State.deliver (s : State) (r : MemReq) (v : Nat) : State :=
  s.updSlot r.core r.slot (fun sl => sl.settle r.tag (wordsOfNat 4 (extendLoad r.size r.sext v)))

/-- Check the addresses of a group in position order: the first fault, if any. -/
def State.badAccess (s : State) (ctx size : Nat) (k : Acc) : List (Nat × Nat) → Option (Nat × Status × Nat)
  | [] => none
  | (m, a) :: r =>
    if a % size ≠ 0 then some (m, shfMisaligned, a)
    else if (s.reach ctx a size k).isNone then some (m, shfWindowFault, a)
    else State.badAccess s ctx size k r

def State.newTag (s : State) : State := { s with mem := { s.mem with nextTag := s.mem.nextTag + 1 } }

/-- The address of a memory instruction for a member: pair SA plus the offset. -/
def State.addrOf (s : State) (core m : Nat) (ra : List Reg) (off : DWord) : Nat :=
  match s.slot core (m / 16) with
  | some sl => (BitVec.ofNat 64 (sl.readNat (m % 16) ra) + off).toNat
  | none => 0

def State.regsNat (s : State) (core m : Nat) (rs : List Reg) : Nat :=
  match s.slot core (m / 16) with
  | some sl => sl.readNat (m % 16) rs
  | none => 0

/-- Mark registers of a member as awaited under a tag. -/
def State.await (s : State) (core m tag : Nat) (d : List Reg) : State :=
  s.updSlot core (m / 16) (fun sl => sl.pendAll tag (m % 16) d (List.replicate d.length 0) false)

/-- One load of a member, its address already checked. -/
def State.loadOne (s : State) (core ctx m a size : Nat) (sext : Bool) (hint word : Nat) (d : List Reg) : State :=
  match s.reach ctx a size .r with
  | none => s
  | some t =>
    let tag := s.mem.nextTag
    let near := s.nearHolds ctx t
    let r : MemReq := { tag := tag, core := core, slot := m / 16, thread := m % 16, ctx := ctx
                        pc := (s.thread core m).pc, word := word, kind := .load, addr := t.loc.getD 0, vaddr := a
                        size := size, data := 0, cmp := 0, hint := hint, sext := sext, near := near, ordsc := 0, remote := none }
    let s' := (s.await core m tag d).newTag
    match t.loc with
    | some l =>
      match (if near then s.nearHit core l size else none) with
      | some (_, true) => s.huskFault core (m / 16) (m % 16) ctx r.pc word a
      | some (v, false) => s'.deliver r v
      | none => { s' with mem := { s'.mem with reqs := s'.mem.reqs ++ [r] } }
    | none =>
      if t.win.w0.getLsbD 4 then
        match s.mem.dlines.get? (remoteKey (dieOfCore core) t.gaddr) with
        | some line =>
          let data := match line.remote with | some (_, v) => v | none => 0
          if (line.words.getD (t.gaddr % 128 / 16) false) then s.huskFault core (m / 16) (m % 16) ctx r.pc word a
          else
            let v := (data >>> (8 * (t.gaddr % 128))) % 2 ^ (8 * size)
            let s' := if hint = 3 then s'.dropLine (remoteKey (dieOfCore core) t.gaddr) else s'
            s'.deliver r v
        | none => s'.issueRemote { r with near := true } t.index t.gaddr
      else s'.issueRemote r t.index t.gaddr

/-- One store of a member, its address already checked. -/
def State.storeOne (s : State) (core ctx m a size v hint word : Nat) : State :=
  match s.reach ctx a size .w with
  | none => s
  | some t =>
    let r : MemReq := { tag := s.mem.nextTag, core := core, slot := m / 16, thread := m % 16, ctx := ctx
                        pc := (s.thread core m).pc, word := word, kind := .store, addr := t.loc.getD 0, vaddr := a
                        size := size, data := v, cmp := 0, hint := hint, sext := false, near := false, ordsc := 0, remote := none }
    let s' := s.newTag
    match t.loc with
    | some l =>
      if s.lomcon ctx then s'.nearStore core l (leBytes size v)
      else { s' with mem := { s'.mem with reqs := s'.mem.reqs ++ [r] } }
    | none => s'.issueRemote r t.index t.gaddr

/-! ## LD, ST -/

def execLd (i : Issue) (f : FormI) (s : State) : Host.Outcome State Fault Refusal :=
  let (size, sext) := (sizeOfType f.type.toNat).getD (1, false)
  let ra := (regs 2 f.sa).getD []
  let d := (regs (regWidth size) f.dst).getD []
  let e : Enc := { legal := (sizeOfType f.type.toNat).isSome && f.mod.toNat < 4 && (regs 2 f.sa).isSome &&
                     (regs (regWidth size) f.dst).isSome
                   bound := ra.any Reg.isU || d.any Reg.isU, reads := ra }
  let ctx := s.slotCtx i
  let word := iWord 0x50 f
  let off := f.imm.signExtend 64
  done (.ld i f) (s.issue i f.guard e word (fun s go on =>
    match s.badAccess ctx size .r (on.map (fun m => (m, s.addrOf i.core m ra off))) with
    | some (m, st, a) => s.sheafFault i.core m st word a
    | none =>
      ((writers d on).foldl (fun t m => t.loadOne i.core ctx m (s.addrOf i.core m ra off) size sext f.mod.toNat word d) s).nextPc
        i.core go))

def execSt (i : Issue) (f : FormI) (s : State) : Host.Outcome State Fault Refusal :=
  let (size, sext) := (sizeOfType f.type.toNat).getD (1, false)
  let ra := (regs 2 f.sa).getD []
  let d := (regs (regWidth size) f.dst).getD []
  let e : Enc := { legal := (sizeOfType f.type.toNat).isSome && !sext && f.mod.toNat < 4 && (regs 2 f.sa).isSome &&
                     (regs (regWidth size) f.dst).isSome
                   bound := ra.any Reg.isU || d.any Reg.isU, reads := ra ++ d }
  let ctx := s.slotCtx i
  let word := iWord 0x51 f
  let off := f.imm.signExtend 64
  done (.st i f) (s.issue i f.guard e word (fun s go on =>
    match s.badAccess ctx size .w (on.map (fun m => (m, s.addrOf i.core m ra off))) with
    | some (m, st, a) => s.sheafFault i.core m st word a
    | none =>
      (on.foldl (fun t m => t.storeOne i.core ctx m (s.addrOf i.core m ra off) size
        (s.regsNat i.core m d % 2 ^ (8 * size)) f.mod.toNat word) s).nextPc i.core go))

/-! ## LDL, STL (R87, R118) -/

/-- Check local-store accesses of a group: alignment, then the context's window. -/
def State.badLocal (s : State) (core ctx size : Nat) : List (Nat × Nat) → Option (Nat × Status × Nat)
  | [] => none
  | (m, a) :: r =>
    if a % size ≠ 0 then some (m, shfMisaligned, a)
    else if !s.lsOk core ctx a size then some (m, shfLsRange, a)
    else State.badLocal s core ctx size r

/-- The local-store offset of a member: SA zero-extended plus IMM. -/
def State.lsAddr (s : State) (core m : Nat) (ra : List Reg) (imm : Word) : Nat :=
  (BitVec.ofNat 64 (s.regsNat core m ra) + imm.signExtend 64).toNat

def execLdl (i : Issue) (f : FormI) (s : State) : Host.Outcome State Fault Refusal :=
  let (size, sext) := (sizeOfType f.type.toNat).getD (1, false)
  let ra := (regs 1 f.sa).getD []
  let d := (regs (regWidth size) f.dst).getD []
  let e : Enc := { legal := (sizeOfType f.type.toNat).isSome && f.mod == 0 && (regs 1 f.sa).isSome &&
                     (regs (regWidth size) f.dst).isSome
                   bound := ra.any Reg.isU || d.any Reg.isU, reads := ra }
  let ctx := s.slotCtx i
  let word := iWord 0x52 f
  done (.ldl i f) (s.issue i f.guard e word (fun s go on =>
    match s.badLocal i.core ctx size (on.map (fun m => (m, s.lsAddr i.core m ra f.imm))) with
    | some (m, st, a) => s.sheafFault i.core m st word a
    | none =>
      match on.find? (fun m => s.lsHusks i.core (s.lsAddr i.core m ra f.imm) size) with
      | some m => (s.sheafFault i.core m memHuskConsumed word (s.lsAddr i.core m ra f.imm)).countHusk (s.ctx ctx).fn
      | none =>
        ((writers d on).foldl (fun t m =>
          let v := extendLoad size sext (s.lsNat i.core (s.lsAddr i.core m ra f.imm) size)
          t.updSlot i.core (m / 16) (fun sl => sl.pendAll 0 (m % 16) d (wordsOfNat 4 v) true)) s).nextPc i.core go))

def execStl (i : Issue) (f : FormI) (s : State) : Host.Outcome State Fault Refusal :=
  let (size, sext) := (sizeOfType f.type.toNat).getD (1, false)
  let ra := (regs 1 f.sa).getD []
  let d := (regs (regWidth size) f.dst).getD []
  let e : Enc := { legal := (sizeOfType f.type.toNat).isSome && !sext && f.mod == 0 && (regs 1 f.sa).isSome &&
                     (regs (regWidth size) f.dst).isSome
                   bound := ra.any Reg.isU || d.any Reg.isU, reads := ra ++ d }
  let ctx := s.slotCtx i
  let word := iWord 0x53 f
  done (.stl i f) (s.issue i f.guard e word (fun s go on =>
    match s.badLocal i.core ctx size (on.map (fun m => (m, s.lsAddr i.core m ra f.imm))) with
    | some (m, st, a) => s.sheafFault i.core m st word a
    | none =>
      (on.foldl (fun t m => t.lsWrite i.core (s.lsAddr i.core m ra f.imm) (leBytes size (s.regsNat i.core m d))) s).nextPc
        i.core go))

/-! ## ATOM (R119) -/

def execAtom (i : Issue) (f : FormT) (s : State) : Host.Outcome State Fault Refusal :=
  let op := f.type.toNat
  let ord := f.mod.getLsbD 2
  let size := atomSize op
  let w := if op = 12 then 2 else 1
  let ra := (regs 2 f.sa).getD []
  let rb := (regs w f.sb).getD []
  let useC := ord || op == 11
  let rc := if useC then (regs 1 f.sc).getD [] else []
  let d := (regs w f.dst).getD []
  let e : Enc := { legal := decide (op ≤ 12) && decide (f.mod.toNat < 8) && (regs 2 f.sa).isSome && (regs w f.sb).isSome &&
                     (regs w f.dst).isSome && (if useC then (regs 1 f.sc).isSome else f.sc == 0) &&
                     (!ord || (decide (op ≤ 2) && f.dst == 0x30))
                   bound := ra.any Reg.isU || rb.any Reg.isU || rc.any Reg.isU || d.any Reg.isU
                   reads := ra ++ rb ++ rc }
  let ctx := s.slotCtx i
  let word := tWord 0x54 f
  done (.atom i f) (s.issue i f.guard e word (fun s go on =>
    match s.badAccess ctx size .a (on.map (fun m => (m, s.addrOf i.core m ra 0))) with
    | some (m, st, a) => s.sheafFault i.core m st word a
    | none =>
      (on.foldl (fun t m =>
        match s.reach ctx (s.addrOf i.core m ra 0) size .a with
        | none => t
        | some tg =>
          let tag := t.mem.nextTag
          let r : MemReq := { tag := tag, core := i.core, slot := m / 16, thread := m % 16, ctx := ctx
                              pc := (s.thread i.core m).pc, word := word
                              kind := if ord then .ordered op else .atom op
                              addr := tg.loc.getD 0, vaddr := s.addrOf i.core m ra 0, size := size
                              data := s.regsNat i.core m rb % 2 ^ (8 * size), cmp := if ord then 0 else s.regsNat i.core m rc
                              hint := f.mod.toNat % 4, sext := false, near := false
                              ordsc := if ord then BitVec.ofNat 32 (s.regsNat i.core m rc) else 0, remote := none }
          let dm := if d.any Reg.isU && some m != on.head? then [] else d
          let t := (t.await i.core m tag dm).newTag
          match tg.loc with
          | some _ => { t with mem := { t.mem with reqs := t.mem.reqs ++ [r] } }
          | none => t.issueRemote r tg.index tg.gaddr) s).nextPc i.core go))

/-! ## FENCE (R120, R147, R379) -/

def MemKind.isLoad : MemKind → Bool
  | .load => true
  | _ => false

/-- Whether an earlier store or atomic of a thread has not been accepted at its home slice. -/
def State.unaccepted (s : State) (core m : Nat) : Bool :=
  let mine (r : MemReq) : Bool := r.core == core && r.slot == m / 16 && r.thread == m % 16 && !r.kind.isLoad && r.remote.isNone
  s.mem.reqs.any mine || s.mem.retries.any mine || s.mem.misses.any (fun e => e.2.any mine)

/-- Whether a remote store or atomic of a thread has not been accepted on its target device. -/
def State.unacked (s : State) (core m : Nat) : Bool :=
  s.fab.remotes.any (fun e => match e.why with
    | .thread r => r.core == core && r.slot == m / 16 && r.thread == m % 16 && !r.kind.isLoad
    | _ => false)

/-- Whether a sampled drain of the core for the context has no verdict yet (R379). -/
def State.unverified (s : State) (core ctx : Nat) : Bool := s.grid.shadows.any (fun v => v.core == core && v.ctx == ctx && v.verdict.isNone)

/-- FENCE: with scope 1 to 3, Lomcon mode first writes back and invalidates the near-core cache. The thread
stays at the fence until its condition holds (DESIGN CHOICE: it is issued again). -/
def execFence (i : Issue) (f : FormI) (s : State) : Host.Outcome State Fault Refusal :=
  let e : Enc := { legal := f.type == 0 && f.mod == 0 && f.sa == 0 && f.dst == 0 && decide (f.imm.toNat < 4)
                   bound := false, reads := [] }
  let ctx := s.slotCtx i
  let scope := f.imm.toNat
  done (.fence i f) (s.issue i f.guard e (iWord 0x55 f) (fun s go on =>
    if scope = 0 ∨ on.isEmpty then s.nextPc i.core go
    else
      let s := if s.lomcon ctx then s.flushNear i.core else s
      let open' (m : Nat) : Bool :=
        s.unaccepted i.core m || s.unverified i.core ctx || (scope == 3 && s.unacked i.core m)
      s.nextPc i.core (go.filter (fun m => !(on.contains m && open' m)))))

end Sys2Proof.Machine
end

