-- ==== Sys2Proof/Machine/MemEvents.lean ====
section
/-! DEFINITION. What the home slices and memory controllers do: accesses and misses (R147 to R153), ordered
accumulation (R154 to R157), uncorrectable words and scrubbing (R166 to R171). -/

namespace Sys2Proof.Machine

/-! ## Uncorrectable words (R168, R368) -/

/-- Unit of a memory level and location within it: HBM stack and channel, or DDR5 channel (R160, R368). -/
def memUnit (a : Nat) : Nat := if isDdr a then 0x07 else 0x06
def memLoc (a : Nat) : Nat :=
  if isDdr a then chanOf a else (unitOf a / 4) * 32 + (unitOf a % 4) * 8 + a / 256 % 8

def uncorrectableReport (a syndrome symbols : Nat) : Report :=
  Report.plain (memUnit a) memUncorrectable (memLoc a)
    (leBytes 8 a ++ leBytes 2 syndrome ++ leBytes 2 0 ++ leBytes 4 symbols)

/-- Change the code counters of the partition that owns an address (R171). -/
def State.countCode (s : State) (a : Nat) (f : Fn → Fn) : State :=
  match s.ownerOfAddr a with
  | some n => s.updFn n f
  | none => s

/-- A word of HBM or DDR5 is read in some state: a single-symbol error is corrected and counted, any other
error makes the word a husk where it is held and leaves a record (R166, R168). A DDR5 word never written
may be uncorrectable by itself (R450). -/
def State.readWord (s : State) (w : Nat) (st : WordState) (symbols : Nat) : State :=
  let a := 16 * w
  let virginBad := s.virginWord w && Config.ddrBad w && !s.mem.mem.husks.contains w
  match st with
  | .bad syn =>
    ((s.setHusks [w] true).countCode a (fun g => { g with uncorr := sat 16 (g.uncorr + 1) })).record
      (uncorrectableReport a syn.toNat symbols)
  | .husk => s.setHusks [w] true
  | st =>
    let s := if st = .single then s.countCode a (fun g => { g with corr := sat 32 (g.corr + 1) }) else s
    if virginBad then
      let (v, s) := s.drawWord
      ((s.setHusks [w] true).countCode a (fun g => { g with uncorr := sat 16 (g.uncorr + 1) })).record
        (uncorrectableReport a (v.toNat % 2 ^ 16) 0)
    else s

/-! ## Serving an access at its home slice (R147, R152, R170) -/

/-- The elements with an open ordered sequence that a plain access touches (R156). -/
def State.openAt (s : State) (a size : Nat) : List (Nat × OrdSeq) :=
  s.mem.seqs.filter (fun q => decide (q.1 < a + size ∧ a < q.1 + q.2.size))

/-- A plain store or atomic to an element with an open sequence leaves the element's value undefined: a
free value (R156). -/
def State.spoil (s : State) : List (Nat × OrdSeq) → State
  | [] => s
  | (a, o) :: r =>
    let (v, s) := s.drawWord
    State.spoil (s.pokeList a (leBytes o.size v.toNat)) r

/-- A store accepted at its home slice. -/
def State.acceptStore (s : State) (a size v hint : Nat) : State :=
  let part := (s.ownerOfAddr a).getD 64
  let q := s.openAt a size
  ((s.enterLine part (a / 128) (if hint = 3 then 2 else hint) none).writeBytes a (leBytes size v)).spoil q

/-- An atomic executed at its home slice: the old value, and the state after. A husk stays a husk. -/
def State.acceptAtom (s : State) (op a v cmp hint : Nat) : Nat × State :=
  let size := atomSize op
  let part := (s.ownerOfAddr a).getD 64
  let q := s.openAt a size
  let old := s.readNat a size
  let t := (s.unsnoop a size).enterLine part (a / 128) (if hint = 3 then 2 else hint) none
  (old, (t.pokeList a (leBytes size (atomNew op old v cmp))).spoil q)

/-- Serve one access: a load returns its value, or its context consumes a husk (R169). -/
def State.serve (s : State) (r : MemReq) : State :=
  match r.kind with
  | .load =>
    let s := if r.near then s.nearFill r.core r.addr else s
    if (s.husksIn r.addr r.size).isEmpty then s.deliver r (s.readNat r.addr r.size)
    else s.huskFault r.core r.slot r.thread r.ctx r.pc r.word r.vaddr
  | .store => s.acceptStore r.addr r.size r.data r.hint
  | .atom op =>
    let (old, t) := s.acceptAtom op r.addr r.data r.cmp r.hint
    t.deliver r old
  | .ordered _ => s

/-- Bring a line to its home slice: the words of a line that it does not hold are read from memory. -/
def State.bring (s : State) (line hint : Nat) : State :=
  let held := match s.mem.dlines.get? line with
    | some l => l.valid == [0, 1, 2, 3]
    | none => false
  let s := s.enterLine ((s.ownerOfAddr (128 * line)).getD 64) line (if hint = 3 then 0 else hint) none
  if held then s
  else
    let s := (List.range 8).foldl (fun s k => s.readWord (8 * line + k) .clean 0) s
    match s.mem.dlines.get? line with
    | some l => s.setLine line { l with valid := [0, 1, 2, 3] }
    | none => s

/-- Whether an earlier access of the same thread, or of the same source device, to the same line still waits (R97, R147,
R258). -/
def blockedBy (rs : List MemReq) (r : MemReq) : Bool :=
  rs.any (fun q => q.addr / 128 == r.addr / 128 && (match q.remote, r.remote with
    | none, none => q.core == r.core && q.slot == r.slot && q.thread == r.thread
    | some m, some n => m.srcdev == n.srcdev
    | _, _ => false))

/-- Whether the slice holds every byte of an access: its sector was read from memory, or the bytes have been
written since. -/
def State.lineHas (s : State) (a size : Nat) : Bool :=
  match s.mem.dlines.get? (a / 128) with
  | none => false
  | some l => l.valid.contains (a % 128 / 32) || (List.range size).all (fun k => (l.dirty.get? (a % 128 + k)).isSome)

def removeAt {α : Type} : List α → Nat → List α
  | [], _ => []
  | _ :: l, 0 => l
  | a :: l, n + 1 => a :: removeAt l n

/-- Outstanding fills of the slice that homes a line (R148). -/
def State.fillsAt (s : State) (line : Nat) : Nat :=
  (s.mem.misses.filter (fun m => decide ((linePlace m.1).1 = (linePlace line).1 ∧ (linePlace m.1).2.1 = (linePlace line).2.1))).length

/-- HOME_SLICE_ACCESS: the n-th waiting access reaches its home slice. It joins an outstanding fill of its
line, is served where the slice holds its bytes, or starts a fill; a full miss table keeps it waiting. -/
def State.homeAccess (s : State) (n : Nat) : State :=
  match s.mem.reqs[n]? with
  | none => s
  | some r =>
    let line := r.addr / 128
    let took (s : State) : State := { s with mem := { s.mem with reqs := removeAt s.mem.reqs n } }
    match r.kind with
    | .ordered _ => s
    | k =>
      if blockedBy (s.mem.reqs.take n) r then s
      else match s.mem.misses.get? line with
        | some q => let s := took s; { s with mem := { s.mem with misses := s.mem.misses.put line (q ++ [r]) } }
        | none =>
          if k = .store then (took s).serve r
          else if s.lineHas r.addr r.size then
            let t := (took s).enterLine ((s.ownerOfAddr r.addr).getD 64) line r.hint none
            let t := t.serve r
            if k = .load ∧ r.hint = 3 ∧ !s.pinned line then t.dropLine line else t
          else if s.fillsAt line < 256 then
            let s := took s
            { s with mem := { s.mem with misses := s.mem.misses.put line [r] } }
          else s

def execHomeSliceAccess (n : Nat) (s : State) : Host.Outcome State Fault Refusal :=
  done (.homeSliceAccess n) (s.homeAccess n)

/-- FILL_ARRIVES: the line's words come from memory in the states given, every joined access is served in
order, and a dead load drops the line unless a sequence is open or an atomic was joined (R148, R149, R151). -/
def State.fill (s : State) (line : Nat) (words : List WordState) : State :=
  match s.mem.misses.get? line with
  | none => s
  | some rs =>
    let s := { s with mem := { s.mem with misses := s.mem.misses.del line } }
    let part := (s.ownerOfAddr (128 * line)).getD 64
    let s := s.enterLine part line (match rs.head? with | some r => (if r.hint = 3 then 0 else r.hint) | none => 0) none
    let s := (List.range 8).foldl (fun s k => s.readWord (8 * line + k) (words.getD k .clean) 0) s
    let s := match s.mem.dlines.get? line with
      | some l => s.setLine line { l with valid := [0, 1, 2, 3] }
      | none => s
    let t := rs.foldl (fun s r => s.serve r) s
    let dead := rs.any (fun r => r.kind.isLoad && r.hint == 3)
    let atom := rs.any (fun r => match r.kind with | .atom _ => true | _ => false)
    if dead && !atom && !t.pinned line then t.dropLine line else t

def execFillArrives (line : Nat) (words : List WordState) (s : State) : Host.Outcome State Fault Refusal :=
  done (.fillArrives line words) (s.fill line words)

/-! ## Ordered accumulation (R154 to R157) -/

/-- What the slice does with a contribution. -/
inductive OrdAct where
  | fault | back | buffer | apply
deriving DecidableEq, Repr

/-- Contributions buffered for a line (R155). -/
def State.buffered (s : State) (line : Nat) : Nat :=
  (s.mem.seqs.filter (fun q => q.1 / 128 == line)).foldl (fun n q => n + q.2.buf.length) 0

/-- Whether one more line of the set may be pinned (R156). -/
def State.canPin (s : State) (line : Nat) : Bool :=
  let part := (s.ownerOfAddr (128 * line)).getD 64
  s.pinned line ||
    decide (((s.setMates part line).filter (fun x => s.pinned x.1)).length + 1 ≤ s.waysOf part (linePlace line).1 / 2)

/-- The disposition of a contribution with index i and count p to an element (R154, R155, R156). -/
def State.ordAct (s : State) (addr i p : Nat) : OrdAct :=
  if p = 0 ∨ p ≤ i then .fault
  else match s.mem.seqs.get? addr with
    | none => if !s.canPin (addr / 128) then .back
      else if i = 0 then .apply
      else if i ≤ 15 then (if s.buffered (addr / 128) < 16 then .buffer else .back)
      else .back
    | some q =>
      if q.count ≠ p ∨ i < q.next ∨ (q.buf.get? i).isSome then .fault
      else if i = q.next then .apply
      else if i ≤ q.next + 15 then (if s.buffered (addr / 128) < 16 then .buffer else .back)
      else .back

/-- Add one contribution to its element; a husk stays a husk (R170). -/
def State.addTo (s : State) (op addr v : Nat) : State :=
  let size := atomSize op
  (s.unsnoop addr size).pokeList addr (leBytes size (atomNew op (s.readNat addr size) v 0))

/-- Apply the buffered contributions that now match next (at most the 16 of the buffer). -/
def State.drainSeq (s : State) (addr : Nat) : Nat → State
  | 0 => s
  | fuel + 1 =>
    match s.mem.seqs.get? addr with
    | none => s
    | some q => match q.buf.get? q.next with
      | none => s
      | some (op, v) =>
        let s := s.addTo op addr v
        State.drainSeq { s with mem := { s.mem with seqs := s.mem.seqs.put addr { q with next := q.next + 1, buf := q.buf.del q.next } } }
          addr fuel

/-- Close the sequence of an element when next has reached its count. -/
def State.closeSeq (s : State) (addr : Nat) : State :=
  match s.mem.seqs.get? addr with
  | some q => if q.next = q.count then { s with mem := { s.mem with seqs := s.mem.seqs.del addr } } else s
  | none => s

/-- Answer the remote requester of a contribution or atomic. -/
def State.respond (s : State) (m : Msg) (op cls : Nat) (words : List CodeWord) : State :=
  s.sendOr { emptyMsg with
    addr := m.addr, dstdev := m.srcdev, htag := m.htag, tag := m.tag, op := BitVec.ofNat 8 op, cls := BitVec.ofNat 2 cls
    len := BitVec.ofNat 9 words.length, words := words } (s.ownerOfAddr (m.addr.toNat % 2 ^ 46))

/-- ORDERED_CONTRIBUTION: the n-th waiting access, if it is a contribution, is applied, buffered, returned
for retry, or discarded with its context's fault; it waits behind the accesses that an outstanding fill of its line has
taken before it (R147). A discarded contribution of another device is not
answered: no message carries MEM_ORDER_INDEX (DESIGN CHOICE). -/
def State.ordered (s : State) (n : Nat) : State :=
  match s.mem.reqs[n]? with
  | none => s
  | some r =>
    match r.kind with
    | .ordered op =>
      if blockedBy (s.mem.reqs.take n) r || (s.mem.misses.get? (r.addr / 128)).isSome then s
      else
        let s := { s with mem := { s.mem with reqs := removeAt s.mem.reqs n } }
        let i := r.ordsc.toNat % 2 ^ 16
        let p := r.ordsc.toNat / 2 ^ 16
        let ack (s : State) : State := match r.remote with
          | some m => s.respond m 0x12 1 []
          | none => s
        match s.ordAct r.addr i p with
        | .fault => match r.remote with
          | some _ => s
          | none => s.faultCtx r.ctx (s.sheafReport r.core (16 * r.slot + r.thread) memOrderIndex r.pc r.word r.vaddr) none
        | .back => match r.remote with
          | some m => s.respond m 0x14 1 [⟨BitVec.ofNat 128 r.data, .clean⟩]
          | none => { s with mem := { s.mem with retries := s.mem.retries ++ [r] } }
        | .buffer =>
          let s := s.enterLine ((s.ownerOfAddr r.addr).getD 64) (r.addr / 128) r.hint none
          let q := s.mem.seqs.getD r.addr { size := atomSize op, next := 0, count := p, buf := [] }
          ack { s with mem := { s.mem with seqs := s.mem.seqs.put r.addr { q with buf := q.buf.put i (op, r.data) } } }
        | .apply =>
          let s := s.enterLine ((s.ownerOfAddr r.addr).getD 64) (r.addr / 128) r.hint none
          let q := s.mem.seqs.getD r.addr { size := atomSize op, next := 0, count := p, buf := [] }
          let s := s.addTo op r.addr r.data
          let s := { s with mem := { s.mem with seqs := s.mem.seqs.put r.addr { q with next := i + 1 } } }
          ack ((s.drainSeq r.addr 16).closeSeq r.addr)
    | _ => s

def execOrderedContribution (n : Nat) (s : State) : Host.Outcome State Fault Refusal :=
  done (.orderedContribution n) (s.ordered n)

/-- Resend a contribution to its home: one to another device keeps its global address, which has space 0b01. -/
def State.resend (s : State) (r : MemReq) : State :=
  if r.addr < 2 ^ 62 then { s with mem := { s.mem with reqs := s.mem.reqs ++ [r] } }
  else s.issueRemote r (match s.translate r.ctx r.vaddr with | some t => t.index | none => 0) r.addr

/-- ORDERED_RETRY: the n-th contribution returned for retry is resent. -/
def execOrderedRetry (n : Nat) (s : State) : Host.Outcome State Fault Refusal :=
  done (.orderedRetry n) (match s.mem.retries[n]? with
    | some r => State.resend { s with mem := { s.mem with retries := removeAt s.mem.retries n } } r
    | none => s)

/-- ORDERED_SEQUENCE_ABANDON: the slice abandons the open sequence of an element, husks its word and
reports (R157). -/
def execOrderedSequenceAbandon (addr : Nat) (s : State) : Host.Outcome State Fault Refusal :=
  done (.orderedSequenceAbandon addr) (match s.mem.seqs.get? addr with
    | none => s
    | some q =>
      let s := { s with mem := { s.mem with seqs := s.mem.seqs.del addr } }
      (s.pokeHusk (addr / 16) true).record (Report.plain 0x05 memOrderAbandoned (32 * homeDie addr + homeSlice addr)
        (leBytes 8 addr ++ leBytes 2 q.next ++ leBytes 2 q.count)))

/-! ## Scrub (R171) -/

/-- SCRUB: the controller reads one code word in the background; an interval of 0 stops scrubbing. -/
def execScrub (addr : Nat) (st : WordState) (symbols : Word) (s : State) : Host.Outcome State Fault Refusal :=
  done (.scrub addr st symbols)
    (if s.mem.scrubH = 0 ∨ !s.populated addr then s
     else s.readWord (addr / 16) (if st = .husk && !s.mem.mem.husks.contains (addr / 16) then .clean else st) symbols.toNat)

end Sys2Proof.Machine
end

