-- ==== Sys2Proof/Machine/GridIns.lean ====
section
/-! DEFINITION. Gang shapes (R57 to R60), feeds, drains, reshapes and releases as sheaves issue them (R61 to
R65, R70 to R72, R76 to R80, R121 to R125), and whole-sheaf instructions (R99). -/

namespace Sys2Proof.Machine

/-! ## Shapes (R57 to R60) -/

/-- Whether a tract shape word is valid (R60). -/
def shapeValid (w : DWord) : Bool :=
  let n := w.toNat
  decide (n < 2 ^ 28) && decide (field n 7 4 = 0) && decide (n % 16 ≤ 4) &&
    (decide (n % 16 = 0) || decide (field n 27 8 = 0)) &&
    (List.range 4).all (fun q => !(bitOf n (8 + 5 * q)) || decide (field n (12 + 5 * q) (9 + 5 * q) = 0))

/-- Core rows and columns, in gang order, of the gang whose core (0, 0) stands at a row and column of the
tract, if the shape has one there. -/
def shapeGang (w : DWord) (row col : Nat) : Option (Nat × Nat) :=
  let n := w.toNat
  match n % 16 with
  | 0 =>
    let q := 2 * (row / 4) + col / 4
    let sub := 2 * (row % 4 / 2) + col % 4 / 2
    if bitOf n (8 + 5 * q) then (if row % 4 = 0 ∧ col % 4 = 0 then some (4, 4) else none)
    else if bitOf n (9 + 5 * q + sub) then (if row % 2 = 0 ∧ col % 2 = 0 then some (2, 2) else none)
    else some (1, 1)
  | 1 => if row = 0 ∧ col = 0 then some (8, 8) else none
  | 2 => if row = 0 ∧ col = 0 then some (1, 64) else none
  | 3 => if row = 0 ∧ col = 0 then some (2, 32) else none
  | 4 => if row = 0 ∧ col = 0 then some (4, 16) else none
  | _ => none

def State.shape (s : State) (tract : Nat) : DWord := s.grid.shapes.getD tract 0

/-- Row and column of a core within its tract. -/
def tractRow (core : Nat) : Nat := coreRow core % 8
def tractCol (core : Nat) : Nat := coreCol core % 8

/-- The gang of an id in the current shapes: its core rows and columns. -/
def State.gangDims (s : State) (gid : Nat) : Option (Nat × Nat) :=
  shapeGang (s.shape (tractOfCore gid)) (tractRow gid) (tractCol gid)

/-- The logical core at gang position (gr, gc) (R58). -/
def gangCore (gid rows cols gr gc : Nat) : Nat :=
  if cols > rows then
    let b := gc / 8
    coreInTract (tractOfCore gid) (rows * b + gr) (if b % 2 = 0 then gc % 8 else 7 - gc % 8)
  else coreInTract (tractOfCore gid) (tractRow gid + gr) (tractCol gid + gc)

/-- The position of a core in a gang, if it belongs to it. -/
def gangPos (gid rows cols core : Nat) : Option (Nat × Nat) :=
  ((List.range rows).flatMap (fun gr => (List.range cols).map (fun gc => (gr, gc)))).find?
    (fun p => gangCore gid rows cols p.1 p.2 == core)

/-- The edge cores of a side: west for A, north for B (R61). -/
def edgeCores (gid rows cols : Nat) (side : Bool) : List Nat :=
  if side then (List.range cols).map (fun gc => gangCore gid rows cols 0 gc)
  else (List.range rows).map (fun gr => gangCore gid rows cols gr 0)

/-- Whether every accepted feed of a gang is complete and no drain is pending (R77). -/
def Gang.idleNow (g : Gang) : Bool :=
  g.drains.isEmpty && g.rows.all (fun r => r.2.isEmpty) && g.cols.all (fun r => r.2.isEmpty) &&
    g.cells.all (fun c => c.2.aq.isEmpty && c.2.bq.isEmpty)

def pick (p : Nat × Nat) (bank : Bool) : Nat := if bank then p.2 else p.1
def putPick (p : Nat × Nat) (bank : Bool) (v : Nat) : Nat × Nat := if bank then (p.1, v) else (v, p.2)

/-! ## Grid faults -/

/-- A grid fault of an instruction: the thread faults (R104). -/
def State.gridFault (s : State) (core m : Nat) (st : Status) (word : Nat) : State := s.sheafFault core m st word 0

/-- Why a feed or drain may not name a gang: the shape holds no such gang, or another context has it. -/
def State.gangBad (s : State) (ctx gid : Nat) : Option Status :=
  match s.gangDims gid with
  | none => some gngShapeInvalid
  | some _ => match (s.gang gid).ctx with
    | some c => if c = ctx then none else some gngGangOwned
    | none => none

/-- Reserved values of a numeric control word other than its operand formats (R43). -/
def ncwReserved (w : Word) : Bool :=
  decide (w.toNat ≥ 2 ^ 16) || decide (field w.toNat 14 13 = 3) || decide (field w.toNat 11 9 > 4)

/-- The gang-level fields of a feed pair (R121). -/
structure FeedPair where
  gang : Nat
  side : Bool
  bank : Bool
  clr : Bool
  klen : Nat
  ok : Bool
deriving DecidableEq, Repr

def feedPair (v : Nat) : FeedPair :=
  { gang := v % 2 ^ 20, side := bitOf v 20, bank := bitOf v 21, clr := bitOf v 22, klen := field v 63 32
    ok := decide (field v 31 23 = 0) }

/-- The checks that every feed passes before its operands are read, in this order: descriptor fields, gang,
edge, owner, formats (R121, R80, R61, R44). -/
def State.feedBad (s : State) (core ctx : Nat) (fp : FeedPair) (ncw : Word) : Option Status :=
  if !fp.ok then some gngDescInvalid
  else match s.gangDims fp.gang with
    | none => some gngShapeInvalid
    | some (rows, cols) =>
      if !(edgeCores fp.gang rows cols fp.side).contains core then some gngNotEdge
      else match s.gangBad ctx fp.gang with
        | some st => some st
        | none => if !fmtPairOk ncw then some gngFormatPair else if ncwReserved ncw then some gngDescInvalid else none

/-- An edge feed arrives at its gang; the first feed that names an unbound gang binds it (R80). -/
def State.addEdge (s : State) (gid ctx : Nat) (e : EdgeFeed) : State :=
  s.updGang gid (fun g => { g with ctx := some (g.ctx.getD ctx), edge := g.edge ++ [e] })

/-! ## Operands (R56, R63, R64) -/

/-- An element with no code: a position past the last element. -/
def operand0 : Num := .zero

/-- Pair FP8 elements into steps; an odd last element is paired with +0 (R56). -/
def pairSteps (bank : Bool) : Nat → List (Num × Nat) → List Opnd
  | _, [] => []
  | n, [(v, w)] => [{ bank := bank, seq := n, clr := false, v0 := v, v1 := some operand0, low := false, raw := BitVec.ofNat 32 w }]
  | n, (v, w) :: (v', w') :: r =>
    { bank := bank, seq := n, clr := false, v0 := v, v1 := some v', low := false, raw := BitVec.ofNat 32 (w + 256 * w') } ::
      pairSteps bank (n + 1) r

/-- Number the steps of a lane from 0. -/
def numberSteps : Nat → List Opnd → List Opnd
  | _, [] => []
  | n, o :: r => { o with seq := n } :: numberSteps (n + 1) r

/-- The steps of one lane from its elements, as values with their codes: by the format and the pass sequence
of the side (R39, R40, R63). -/
def laneSteps (fmt : Nat) (exact side bank : Bool) (es : List (Num × Nat)) : List Opnd :=
  if fmt = 0 then
    numberSteps 0 (es.map (fun e =>
      { bank := bank, seq := 0, clr := false, v0 := e.1, v1 := none, low := false, raw := BitVec.ofNat 32 e.2 }))
  else if fmt ≤ 4 then pairSteps bank 0 es
  else
    numberSteps 0 ((passes fmt exact).flatMap (fun p =>
      let pc := if side then p.2 else p.1
      es.map (fun e =>
        let v := pieceOf (fmt == 6) e.1 pc
        { bank := bank, seq := 0, clr := false, v0 := v, v1 := none, low := decide (pc ≠ .h)
          raw := BitVec.ofNat 32 (roundIeee bf16 v) })))

/-- The operand format of a side. -/
def sideFmt (ncw : Word) (side : Bool) : Nat := if side then field ncw.toNat 7 4 else field ncw.toNat 3 0

/-! ## Whole-sheaf instructions (R99, R108) -/

/-- Release the threads of a slot from a whole-sheaf instruction: all non-exited go on after it. -/
def Slot.releaseWhole (sl : Slot) : Slot :=
  { sl with threads := sl.threads.map (fun x =>
      if x.2.st = .parkWhole then (x.1, { x.2 with st := .ready, pc := x.2.pc + 8, masked := false, whole := none }) else x) }

/-- Threads whose operands a whole-sheaf instruction takes: parked at it with a true guard. -/
def Slot.wholeOn (sl : Slot) : List Nat :=
  (List.range 16).filter (fun p => (sl.thread p).st == .parkWhole && !(sl.thread p).masked)

/-- Issue a whole-sheaf instruction: its threads park, and once every non-exited thread of the slot stands at
it, it acts once and they go on. A command whose leader is already parked acts if all have come. -/
def State.whole (s : State) (i : Issue) (ins : WholeIns) (guard : BitVec 5) (e : Enc) (word : Nat) (act : State → State) : State :=
  let slot := i.leader / 16
  let fire (s : State) : State :=
    match s.slot i.core slot with
    | some sl => if sl.barTest = .whole then (act s).updSlot i.core slot Slot.releaseWhole else s.testBar i.core slot i.leader word
    | none => s
  if (s.thread i.core i.leader).st = .parkWhole ∧ !(s.ctx (s.slotCtx i)).stopped.contains i.core then fire s
  else
    s.issue i guard e word (fun s go on =>
      if go.isEmpty then s
      else fire (go.foldl (fun s m => s.updThread i.core m (fun t =>
        { t with st := .parkWhole, masked := !on.contains m, whole := some ins })) s))

/-! ## GFEEDR (R122) -/

/-- The register words that one GFEEDR supplies to a lane: relative steps 0 to 3. -/
def Slot.fragment (sl : Slot) (r : List Reg) (lane : Nat) : List Word :=
  (List.range 4).map (fun k =>
    if sl.wholeOn.contains (4 * lane + k) then BitVec.ofNat 32 (sl.readNat (4 * lane + k) r) else 0)

/-- The step that a fragment word stands for (R63). -/
def fragmentStep (fmt : Nat) (bank : Bool) (last odd : Bool) (w : Word) : Opnd :=
  let n := w.toNat
  let base : Opnd := { bank := bank, seq := 0, clr := false, v0 := .zero, v1 := none, low := false, raw := w }
  if fmt = 0 then { base with v0 := decodeFmt bf16 (n % 2 ^ 16) }
  else
    let f := if fmt = 1 then e4m3 else e5m2
    { base with v0 := decodeFmt f (n % 256), v1 := some (if last && odd then operand0 else decodeFmt f (field n 15 8)) }

/-- Close a register feed: its steps become an edge feed of the core. -/
def State.closeFeed (s : State) (core slot ctx : Nat) (o : OpenFeed) : State :=
  let n := feedSteps o.ncw o.klen
  let fmt := sideFmt o.ncw o.side
  let lanes := (List.range 4).map (fun l =>
    numberSteps 0 (((List.range n).map (fun k =>
      fragmentStep fmt o.bank (k + 1 == n) (o.klen % 2 == 1) ((o.lanes.getD l []).getD k 0)))))
  let s := s.updSlot core slot (fun sl => { sl with openFeed := none })
  s.addEdge o.gang ctx { core := core, side := o.side, bank := o.bank, clr := o.clr, klen := o.klen, ncw := o.ncw
                         steps := n, lanes := lanes, wait := none }

/-- Take the four steps of one GFEEDR into an open feed, and close it after its last. -/
def State.takeFragment (s : State) (core slot ctx : Nat) (r : List Reg) (o : OpenFeed) : State :=
  match s.slot core slot with
  | none => s
  | some sl =>
    let lanes := (List.range 4).foldl (fun m l => m.put l (m.getD l [] ++ sl.fragment r l)) o.lanes
    let o := { o with lanes := lanes, count := o.count + 1 }
    let s := s.updSlot core slot (fun sl => { sl with openFeed := some o })
    if (feedSteps o.ncw o.klen + 3) / 4 ≤ o.count then s.closeFeed core slot ctx o else s

/-- The effect of a GFEEDR to which the sheaf of a thread has come. -/
def State.feedrAct (s : State) (core m ctx : Nat) (f : FormT) : State :=
  let ra := (gregs 1 f.sa).getD []
  let rb := (uregs 2 f.sb).getD []
  let rc := (uregs 1 f.sc).getD []
  let slot := m / 16
  match s.slot core slot with
  | none => s
  | some sl =>
    let pair := sl.readNat 0 rb
    let fp := feedPair pair
    let ncw : Word := BitVec.ofNat 32 (sl.readNat 0 rc)
    let fault (st : Status) : State := s.gridFault core m st (tWord 0x60 f)
    if f.mod == 1 then
      match sl.openFeed, s.feedBad core ctx fp ncw with
      | some _, _ => fault gngFeedMismatch
      | none, some st => fault st
      | none, none =>
        if sideFmt ncw fp.side > 2 then fault gngDescInvalid
        else s.takeFragment core slot ctx ra
          { gang := fp.gang, side := fp.side, bank := fp.bank, clr := fp.clr, klen := fp.klen
            pairLo := BitVec.ofNat 32 pair, ncw := ncw, count := 0, lanes := [] }
    else match sl.openFeed with
      | none => fault gngFeedMismatch
      | some o =>
        if o.pairLo = BitVec.ofNat 32 pair ∧ o.klen = fp.klen ∧ o.ncw = ncw then s.takeFragment core slot ctx ra o
        else fault gngFeedMismatch

def execGfeedr (i : Issue) (f : FormT) (s : State) : Host.Outcome State Fault Refusal :=
  let ra := (gregs 1 f.sa).getD []
  let rb := (uregs 2 f.sb).getD []
  let rc := (uregs 1 f.sc).getD []
  let e : Enc := { legal := f.type == 0 && f.dst == 0 && decide (f.mod.toNat < 2) && (gregs 1 f.sa).isSome &&
                     (uregs 2 f.sb).isSome && (uregs 1 f.sc).isSome
                   bound := true, reads := ra ++ rb ++ rc }
  let ctx := s.slotCtx i
  done (.gfeedr i f) (s.whole i (.feed f) f.guard e (tWord 0x60 f) (fun s => s.feedrAct i.core i.leader ctx f))

/-! ## GFEEDS (R63, R123) -/

/-- Fields of an edge stream descriptor (R63). -/
def dsAddr (d : Nat) : Nat := d % 2 ^ 64
def dsSrc (d : Nat) : Nat := field d 65 64
def dsSsrc (d : Nat) : Bool := bitOf d 66
def dsTrans (d : Nat) : Bool := bitOf d 67
def dsKlen (d : Nat) : Nat := field d 159 128
def dsLd (d : Nat) : Nat := field d 191 160
def dsScale (d : Nat) : Nat := field d 255 192

/-- Bytes per element of an operand format; 0 stands for half a byte. -/
def fmtBytes (fmt : Nat) : Nat :=
  match fmt with
  | 0 | 5 => 2
  | 1 | 2 => 1
  | 6 => 4
  | _ => 0

/-- Why a descriptor is invalid (R63). -/
def descBad (d fmt : Nat) : Bool :=
  decide (field d 127 70 ≠ 0) || decide (dsSrc d > 1) || (decide (dsSrc d = 0) && decide (dsAddr d ≥ 2 ^ 14)) ||
    (decide (fmt = 3 ∨ fmt = 4) && (dsTrans d || (!dsSsrc d && decide (dsScale d ≥ 2 ^ 14))))

/-- Address of element k of lane i (R34, R63). -/
def elemAddr (d fmt i k : Nat) : Nat :=
  let size := fmtBytes fmt
  if size = 0 then dsAddr d + i * dsLd d + k / 2
  else if dsTrans d then dsAddr d + k * dsLd d + i * size
  else dsAddr d + i * dsLd d + k * size

/-- A source read: its bytes as a number, or the status and address of the fault that it meets. `got` holds
the remote lines that have come, by global line number. -/
def State.streamRead (s : State) (core ctx : Nat) (mem : Bool) (a size : Nat) (got : Map (Nat × List Nat)) : Except (Status × Nat) Nat :=
  if mem then
    match s.reach ctx a size .r with
    | none => .error (shfWindowFault, a)
    | some t => match t.loc with
      | some l => if (s.husksIn l size).isEmpty then .ok (s.readNat l size) else .error (memHuskConsumed, a)
      | none =>
        let l := got.getD (t.gaddr / 128) (0, [])
        if l.2.contains (t.gaddr % 128 / 16) then .error (memHuskConsumed, a)
        else .ok ((l.1 >>> (8 * (t.gaddr % 128))) % 2 ^ (8 * size))
  else if !s.lsOk core ctx a size then .error (shfLsRange, a)
  else if s.lsHusks core a size then .error (memHuskConsumed, a)
  else .ok (s.lsNat core a size)

/-- The global lines of the remote elements of a stream that are not yet here. -/
def State.remoteLines (s : State) (ctx d fmt : Nat) : List Nat :=
  let klen := dsKlen d
  let of (mem : Bool) (as : List Nat) (size : Nat) : List Nat :=
    if mem then as.filterMap (fun a => match s.reach ctx a size .r with
      | some t => if t.loc.isNone then some (t.gaddr / 128) else none
      | none => none)
    else []
  let es := (List.range 4).flatMap (fun i => (List.range klen).map (fun k => elemAddr d fmt i k))
  let ss := if fmt = 3 ∨ fmt = 4 then
      (List.range 4).flatMap (fun i => (List.range ((klen + 31) / 32)).map (fun n => dsScale d + i * ((klen + 31) / 32) + n))
    else []
  (of (dsSrc d == 1) es (max 1 (fmtBytes fmt)) ++ of (dsSsrc d) ss 1).eraseDups

/-- The lines of this device's memory that a stream reads. -/
def State.streamLines (s : State) (ctx d fmt : Nat) : List Nat :=
  let n := (dsKlen d + 31) / 32
  let here (mem : Bool) (as : List Nat) (size : Nat) : List Nat :=
    if mem then as.filterMap (fun a => (s.reach ctx a size .r).bind (fun t => t.loc.map (· / 128))) else []
  (here (dsSrc d == 1) ((List.range 4).flatMap (fun i => (List.range (dsKlen d)).map (elemAddr d fmt i))) (max 1 (fmtBytes fmt)) ++
    here (dsSsrc d && decide (fmt = 3 ∨ fmt = 4)) ((List.range 4).flatMap (fun i => (List.range n).map (fun k => dsScale d + i * n + k))) 1).eraseDups

/-- The lines that a stream reads enter their slices by the hint of its descriptor (R63, R149). -/
def State.streamBring (s : State) (ctx d fmt : Nat) : State := (s.streamLines ctx d fmt).foldl (fun s n => s.bring n (field d 69 68)) s

/-- After a stream with a dead hint its lines are dropped, but for those with an open sequence (R149, R151). -/
def State.streamDead (s : State) (ctx d fmt : Nat) : State :=
  if field d 69 68 = 3 then (s.streamLines ctx d fmt).foldl (fun s n => if s.pinned n then s else s.dropLine n) s else s

/-- One element of a stream: value, code, flag events. -/
def State.streamElem (s : State) (core ctx d fmt : Nat) (xovf : Bool) (got : Map (Nat × List Nat)) (i k : Nat) :
    Except (Status × Nat) (Num × Nat × Word) :=
  let mem := dsSrc d == 1
  match s.streamRead core ctx mem (elemAddr d fmt i k) (max 1 (fmtBytes fmt)) got with
  | .error e => .error e
  | .ok v =>
    if fmt = 3 ∨ fmt = 4 then
      let nib := if k % 2 = 0 then v % 16 else v / 16
      match s.streamRead core ctx (dsSsrc d) (dsScale d + i * ((dsKlen d + 31) / 32) + k / 32) 1 got with
      | .error e => .error e
      | .ok sc =>
        let (c, fl) := expand4 (fmt == 4) xovf nib sc
        .ok (decodeFmt e4m3 c, c, fl)
    else .ok ((operandNum fmt xovf v).1, v, 0)

/-- Collect results in order, or the first error. -/
def collect {ε α : Type} : List (Except ε α) → Except ε (List α)
  | [] => .ok []
  | .error e :: _ => .error e
  | .ok a :: r => match collect r with
    | .ok l => .ok (a :: l)
    | .error e => .error e

/-- The four lanes of an edge stream and the flag events of its expansions. -/
def State.streamLanes (s : State) (core ctx d : Nat) (ncw : Word) (side bank : Bool) (got : Map (Nat × List Nat)) :
    Except (Status × Nat) (List (List Opnd) × Word) :=
  let fmt := sideFmt ncw side
  let xovf := ncw.getLsbD 15
  match collect ((List.range 4).map (fun i =>
    collect ((List.range (dsKlen d)).map (fun k => s.streamElem core ctx d fmt xovf got i k)))) with
  | .error e => .error e
  | .ok ls =>
    .ok (ls.map (fun l => laneSteps fmt (ncw.getLsbD 8) side bank (l.map (fun x => (x.1, x.2.1)))),
         ls.foldl (fun fl l => l.foldl (fun fl x => fl ||| x.2.2) fl) 0)

/-- A stream's fault: a husk consumed by a feed is a record of unit 0x01, any other fault one of unit 0x02. -/
def State.streamFault (s : State) (core ctx m : Nat) (pc : DWord) (st : Status) (word addr : Nat) : State :=
  let rep := s.sheafReport core m st pc word addr
  if st = memHuskConsumed then
    (s.faultCtx ctx { rep with unit := 0x01, op := 0, detail := leBytes 8 addr } (some core)).countHusk (s.ctx ctx).fn
  else s.faultCtx ctx rep (some core)

/-- The window entry of a context that maps onto a global address. -/
def State.windowTo (s : State) (ctx g : Nat) : Nat :=
  let c := s.ctx ctx
  match s.part c.fn with
  | none => 0
  | some p =>
    let lo := p.winBase + c.winFirst
    match s.fab.windows.find? (fun e => decide (lo ≤ e.1 ∧ e.1 < lo + c.winCount) && e.2.valid &&
        decide (e.2.w3.toNat ≤ g ∧ g < e.2.w3.toNat + 2 ^ e.2.size)) with
    | some (n, _) => n - p.winBase
    | none => 0

/-- Ask for the remote lines of a stream. -/
def State.askLines (s : State) (ctx id hint : Nat) : List Nat → State
  | [] => s
  | line :: r =>
    let fn := (s.ctx ctx).fn
    match s.request fn { emptyMsg with op := 0x01, atype := 9, htag := s.htagOf fn, hint := BitVec.ofNat 2 hint } (s.windowTo ctx (128 * line)) (128 * line) (.stream id line) with
    | some t => State.askLines t ctx id hint r
    | none => s.faultCtx ctx (noRouteReport (s.windowTo ctx (128 * line)) (128 * line)) none

def execGfeeds (i : Issue) (f : FormT) (s : State) : Host.Outcome State Fault Refusal :=
  let ra := (uregs 1 f.sa).getD []
  let rb := (uregs 2 f.sb).getD []
  let rc := (uregs 1 f.sc).getD []
  let e : Enc := { legal := f.type == 0 && f.dst == 0 && f.mod == 0 && (uregs 1 f.sa).isSome && (uregs 2 f.sb).isSome &&
                     (uregs 1 f.sc).isSome
                   bound := true, reads := ra ++ rb ++ rc }
  let word := tWord 0x61 f
  let ctx := s.slotCtx i
  done (.gfeeds i f) (s.issue i f.guard e word (fun s go on =>
    match on with
    | [] => s.nextPc i.core go
    | m :: _ =>
      let off := s.regsNat i.core m ra
      let fp := feedPair (s.regsNat i.core m rb)
      let ncw : Word := BitVec.ofNat 32 (s.regsNat i.core m rc)
      let d := s.lsNat i.core off 32
      let fmt := sideFmt ncw fp.side
      let pc := (s.thread i.core m).pc
      let fault (st : Status) (a : Nat) : State := s.streamFault i.core ctx m pc st word a
      if off % 32 ≠ 0 then fault shfMisaligned off
      else if !s.lsOk i.core ctx off 32 then fault shfLsRange off
      else if s.lsHusks i.core off 32 then fault memHuskConsumed off
      else match s.feedBad i.core ctx fp ncw with
        | some st => fault st 0
        | none =>
          if descBad d fmt then fault gngDescInvalid off
          else
            let feed (lanes : List (List Opnd)) (wait : Option Nat) : EdgeFeed :=
              { core := i.core, side := fp.side, bank := fp.bank, clr := fp.clr, klen := dsKlen d, ncw := ncw
                steps := feedSteps ncw (dsKlen d), lanes := lanes, wait := wait }
            match s.remoteLines ctx d fmt with
            | [] =>
              let s := s.streamBring ctx d fmt
              match s.streamLanes i.core ctx d ncw fp.side fp.bank [] with
              | .error (st, a) => s.streamFault i.core ctx m pc st word a
              | .ok (lanes, fl) =>
                (((s.addEdge fp.gang ctx (feed lanes none)).orFlags ctx fl).streamDead ctx d fmt).nextPc i.core go
            | need =>
              let id := s.grid.nextStream
              let st : Stream := { id := id, core := i.core, ctx := ctx, gang := fp.gang, side := fp.side, ncw := ncw, desc := d
                                   need := need, got := [], pc := pc, word := word, idx := m }
              let s := s.addEdge fp.gang ctx (feed [] (some id))
              let s := { s with grid := { s.grid with streams := s.grid.streams ++ [st], nextStream := id + 1 } }
              (s.askLines ctx id (field d 69 68) need).nextPc i.core go))

/-! ## GDRAIN (R70 to R72, R124) -/

def dcDest (d : DWord) : Nat := field d.toNat 25 24
def dcBank (d : DWord) : Bool := d.getLsbD 23
def dcKeep (d : DWord) : Bool := d.getLsbD 22
def dcEop (d : DWord) : Nat := field d.toNat 27 26
def dcDeriv (d : DWord) : Nat := field d.toNat 31 28
def dcTfmt (d : DWord) : Nat := field d.toNat 21 19
def dcZfmt (d : DWord) : Nat := field d.toNat 18 16
def dcAlpha (d : DWord) : Nat := field d.toNat 47 32

/-- A reserved value in a drain control word (R72). -/
def dcReserved (d : DWord) : Bool :=
  decide (field d.toNat 63 48 ≠ 0) || decide (d.toNat % 2 ^ 16 ≠ 0) || decide (dcDeriv d > 10) || decide (dcEop d = 3) ||
    decide (dcDest d = 3) || decide (dcTfmt d > 4) || decide (dcZfmt d > 4)

/-- Bytes of an element in an output format (R43). -/
def ofmtBytes (n : Nat) : Nat :=
  match n with
  | 0 => 4
  | 1 | 2 => 2
  | _ => 1

/-- A 4×4 tile lies in the window and is aligned to its element size (R124). -/
def State.tileBad (s : State) (core ctx off fmt : Nat) : Option Status :=
  let n := ofmtBytes fmt
  if off % n ≠ 0 then some shfMisaligned else if !s.lsOk core ctx off (16 * n) then some shfLsRange else none

/-- The first of some checks that fails. -/
def firstBad : List (Option Status) → Option Status
  | [] => none
  | some st :: _ => some st
  | none :: r => firstBad r

/-- The checks of a drain that passed its encoding. -/
def State.drainBad (s : State) (core ctx gid : Nat) (dr : Drain) : Option Status :=
  firstBad
    [s.gangBad ctx gid,
     match s.gangDims gid with
     | some (rows, cols) => if (gangPos gid rows cols core).isNone then some gngShapeInvalid else none
     | none => some gngShapeInvalid,
     if dcReserved dr.dcw || ncwReserved dr.ncw then some gngDescInvalid else none,
     if dcEop dr.dcw ≠ 0 ∧ dcDest dr.dcw ≠ 2 then s.tileBad core ctx dr.tOff (dcTfmt dr.dcw) else none,
     if dcDeriv dr.dcw ≠ 0 ∧ dcDest dr.dcw ≠ 2 then s.tileBad core ctx dr.zOff (dcZfmt dr.dcw) else none,
     if dcDest dr.dcw = 1 then s.tileBad core ctx dr.dOff (field dr.ncw.toNat 11 9) else none,
     if dcDest dr.dcw = 0 then
       (match s.slot core dr.tslot with
        | some sl => if sl.ctx = ctx then none else some gngDrainTarget
        | none => some gngDrainTarget)
     else none]

/-- Mark the destination of a register drain pending in all 16 threads of the target slot (R94). Older results
pending for it land nowhere. -/
def Slot.drainPend (sl : Slot) (tag n : Nat) : Slot :=
  let p (t : Nat) : Pend := { tag := tag, thread := t, reg := n, val := 0, ready := false, drain := true, clobber := false }
  let older (p : Pend) : Pend := if p.thread < 16 ∧ p.reg = n ∧ p.drain = false then { p with clobber := true } else p
  { sl with pend := sl.pend.map older ++ (List.range 16).map p }

/-- Issue a drain whose checks have passed: it waits for every step that its gang has accepted into the
bank (R70). -/
def State.addDrain (s : State) (gid : Nat) (dr : Drain) : State :=
  let g := s.gang gid
  let bank := dcBank dr.dcw
  let tag := s.mem.nextTag
  let dr := { dr with need := max (pick g.acceptedA bank) (pick g.acceptedB bank), tag := tag }
  let s := if dcDest dr.dcw = 0 ∧ dr.dst ≠ 0x30 then
      (s.newTag).updSlot dr.core dr.tslot (fun sl => sl.drainPend tag dr.dst.toNat)
    else s
  s.updGang gid (fun g => { g with drains := g.drains ++ [dr] })

/-- Read the operands of GDRAIN for a thread. -/
def State.drainOf (s : State) (core m ctx : Nat) (f : FormT) (ra rb rq : List Reg) (takers : List Nat) : Nat × Drain :=
  let q := s.regsNat core m rb
  let r := s.regsNat core m rq
  (s.regsNat core m ra % 2 ^ 20,
   { core := core, slot := m / 16, ctx := ctx, dcw := BitVec.ofNat 64 q, ncw := BitVec.ofNat 32 (q >>> 96)
     tOff := field q 79 64, zOff := field q 95 80, dOff := f.mod.toNat % 2 ^ 14, dst := f.dst, tslot := field f.mod.toNat 22 21
     tid := BitVec.ofNat 32 r, base := BitVec.ofNat 64 (r >>> 32), pitch := BitVec.ofNat 32 (r >>> 96), need := 0
     takers := takers, tag := 0 })

/-- The rounding quad that MOD[20:15] names: required with RND = 1 and DEST 0 or 1, 0 otherwise (R124). -/
def rqLegal (rq : Nat) (dr : Drain) : Bool :=
  if dr.ncw.getLsbD 12 && dcDest dr.dcw ≤ 1 then rq == 0x20 || rq == 0x24 || rq == 0x28 || rq == 0x2C else rq == 0

/-- Issue the drain that GDRAIN describes for a thread: checked, then pending at its gang. -/
def State.drainGo (s : State) (core m ctx : Nat) (f : FormT) (takers : List Nat) : State :=
  let rqc := field f.mod.toNat 20 15
  let ra := (uregs 1 f.sa).getD []
  let rb := (uregs 4 f.sb).getD []
  let rq := if rqc = 0 then [] else (uregs 4 (BitVec.ofNat 6 rqc)).getD []
  let (gid, dr) := s.drainOf core m ctx f ra rb rq takers
  if !rqLegal rqc dr then s.gridFault core m shfIllegalOp (tWord 0x62 f)
  else match s.drainBad core ctx gid dr with
    | some st => s.gridFault core m st (tWord 0x62 f)
    | none => s.addDrain gid dr

/-- The effect of a whole-sheaf GDRAIN to which the sheaf of a slot has come. -/
def State.drainAct (s : State) (core slot ctx : Nat) (f : FormT) : State :=
  match s.slot core slot with
  | some sl => if sl.wholeOn.isEmpty then s else s.drainGo core (16 * slot + sl.wholeOn.headD 0) ctx f sl.wholeOn
  | none => s

def execGdrain (i : Issue) (f : FormT) (s : State) : Host.Outcome State Fault Refusal :=
  let rqc := field f.mod.toNat 20 15
  let ra := (uregs 1 f.sa).getD []
  let rb := (uregs 4 f.sb).getD []
  let rq := if rqc = 0 then [] else (uregs 4 (BitVec.ofNat 6 rqc)).getD []
  let e : Enc := { legal := f.type == 0 && f.sc == 0 && !f.mod.getLsbD 14 && (uregs 1 f.sa).isSome && (uregs 4 f.sb).isSome &&
                     (gregs 1 f.dst).isSome && (rqc == 0 || (uregs 4 (BitVec.ofNat 6 rqc)).isSome)
                   bound := true, reads := ra ++ rb ++ rq }
  let word := tWord 0x62 f
  let ctx := s.slotCtx i
  let slot := i.leader / 16
  let dcw : DWord := BitVec.ofNat 64 (s.regsNat i.core i.leader rb)
  done (.gdrain i f)
    (if dcDest dcw = 0 ∧ field f.mod.toNat 22 21 = slot then
      s.whole i (.drain f) f.guard e word (fun s => s.drainAct i.core slot ctx f)
    else
      s.issue i f.guard e word (fun s go on => match on with
        | [] => s.nextPc i.core go
        | m :: _ =>
          let live := match s.slot i.core (field f.mod.toNat 22 21) with
            | some sl => (List.range 16).filter (fun p => (sl.thread p).st != .exited)
            | none => []
          (s.drainGo i.core m ctx f live).nextPc i.core go))

/-- A thread of a slot has exited: a whole-sheaf instruction to which all the others have come issues, in the name of the
first of them (R99). -/
def State.wholeIssue (s : State) (core slot : Nat) : State :=
  match s.slot core slot with
  | none => s
  | some sl =>
    if sl.barTest ≠ .whole then s
    else
      let p := ((List.range 16).find? (fun p => (sl.thread p).st == .parkWhole)).getD 0
      let act (s : State) : State := match (sl.thread p).whole with
        | some (.feed f) => s.feedrAct core (16 * slot + p) sl.ctx f
        | some (.drain f) => s.drainAct core slot sl.ctx f
        | none => s
      if (s.ctx sl.ctx).stopped.contains core then s
      else (act s).updSlot core slot Slot.releaseWhole

/-! ## GRESHAPE, GRELEASE (R76 to R80, R125) -/

/-- The quadrants that a new word affects: all four if FORM is not 0 in either word (R77). -/
def affectedQuads (old new : DWord) : List Nat :=
  if old.toNat % 16 ≠ 0 ∨ new.toNat % 16 ≠ 0 then [0, 1, 2, 3]
  else (List.range 4).filter (fun q => decide (field old.toNat (12 + 5 * q) (8 + 5 * q) ≠ field new.toNat (12 + 5 * q) (8 + 5 * q)))

def quadOf (core : Nat) : Nat := 2 * (tractRow core / 4) + tractCol core / 4

/-- The gangs in use in the affected region of a tract. -/
def State.regionGangs (s : State) (tract : Nat) (new : DWord) : List (Nat × Gang) :=
  let qs := affectedQuads (s.shape tract) new
  s.grid.gangs.filter (fun g => tractOfCore g.1 == tract && qs.contains (quadOf g.1))

/-- The checks of a reshape request (R77). -/
def State.reshapeBad (s : State) (r : Reshape) : Option Status :=
  let gs := s.regionGangs r.tract r.word
  if !shapeValid r.word then some gngShapeInvalid
  else if s.fenced r.tract then some gngTractFenced
  else if gs.any (fun g => match g.2.ctx with | some c => !r.sheaf || c != r.ctx | none => false) then some gngGangOwned
  else if gs.any (fun g => !g.2.idleNow) then some gngReshapeBusy
  else none

/-- Give a sheaf's reshape its status in DST. -/
def State.reshapeStatus (s : State) (r : Reshape) (st : Status) : State :=
  if r.sheaf then
    s.updSlot r.core r.slot (fun sl =>
      { sl with pend := sl.pend.map (fun p => if p.tag = r.tag && !p.ready then { p with val := st.setWidth 32, ready := true } else p) })
  else match r.entry with
    | some e => s.updEntry e (fun x => { x with st := .done st 0 })
    | none => s

/-- A reshape request arrives: it is checked at once unless an earlier request of the tract, or a row shift,
is still under way (R78). -/
def State.startReshape (s : State) (r : Reshape) : State :=
  if s.grid.reshapes.any (fun q => q.tract == r.tract) || s.grid.retires.any (fun q => q.tract == r.tract) then
    { s with grid := { s.grid with reshapes := s.grid.reshapes ++ [{ r with running := false }] } }
  else match s.reshapeBad r with
    | some st => s.reshapeStatus r st
    | none =>
      let s := { s with grid := { s.grid with reshapes := s.grid.reshapes ++ [{ r with running := true }] } }
      s.updCourse (r.tract / 16) (fun c => { c with waking := decide (c.power = .standby ∨ c.power = .off) || c.waking })

def execGreshape (i : Issue) (f : FormT) (s : State) : Host.Outcome State Fault Refusal :=
  let ra := (uregs 2 f.sa).getD []
  let d := (regs 1 f.dst).getD []
  let e : Enc := { legal := bareT f && (uregs 2 f.sa).isSome && (regs 1 f.dst).isSome, bound := true, reads := ra }
  let ctx := s.slotCtx i
  done (.greshape i f) (s.issue i f.guard e (tWord 0x63 f) (fun s go on =>
    match on with
    | [] => s.nextPc i.core go
    | m :: _ =>
      let tag := s.mem.nextTag
      let r : Reshape := { tract := tractOfCore i.core, running := false, ctx := ctx, word := BitVec.ofNat 64 (s.regsNat i.core m ra)
                           fn := (s.ctx ctx).fn, sheaf := true, core := i.core, slot := m / 16, tag := tag, entry := none }
      let t := ((writers d on).foldl (fun t k => t.await i.core k tag d) s).newTag
      let ownBusy := (s.regionGangs r.tract r.word).any (fun g => g.2.ctx == some ctx && !g.2.idleNow)
      let t := if ownBusy && shapeValid r.word && !s.fenced r.tract then t.reshapeStatus r gngReshapeBusy else t.startReshape r
      t.nextPc i.core go))

/-- Release a gang's binding once its work is complete (R125). -/
def State.settleRelease (s : State) (gid : Nat) : State :=
  let g := s.gang gid
  if g.releasing && g.idleNow then s.updGang gid (fun g => { g with ctx := none, releasing := false }) else s

def execGrelease (i : Issue) (f : FormT) (s : State) : Host.Outcome State Fault Refusal :=
  let ra := (uregs 1 f.sa).getD []
  let e : Enc := { legal := bareT f && f.dst == 0 && (uregs 1 f.sa).isSome, bound := true, reads := ra }
  let ctx := s.slotCtx i
  done (.grelease i f) (s.issue i f.guard e (tWord 0x64 f) (fun s go on =>
    match on with
    | [] => s.nextPc i.core go
    | m :: _ =>
      let gid := s.regsNat i.core m ra % 2 ^ 20
      match (s.gang gid).ctx with
      | none => s.nextPc i.core go
      | some c =>
        if c ≠ ctx then s.gridFault i.core m gngGangOwned (tWord 0x64 f)
        else ((s.updGang gid (fun g => { g with releasing := true })).settleRelease gid).nextPc i.core go))

end Sys2Proof.Machine
end

