-- ==== Sys2Proof/Machine/GridEvents.lean ====
section
/-! DEFINITION. What gangs do with feeds and drains (R54 to R56, R61 to R65, R70 to R75), the end of a reshape
(R78), parity errors (R82), and results that land in registers (R86, R92, R94). -/

namespace Sys2Proof.Machine

/-! ## Landing results (R86, R92) -/

/-- Threads that no longer wait for any register become READY. -/
def Slot.wake (sl : Slot) : Slot :=
  { sl with threads := sl.threads.map (fun x =>
      if x.2.st = .waitData && !x.2.waits.any (fun c => sl.awaits x.1 (Reg.ofNat c))
      then (x.1, { x.2 with st := .ready, waits := [] }) else x) }

/-- After results have landed: threads wake, and the sheaf may end. -/
def State.settleSlot (s : State) (core slot : Nat) : State := (s.updSlot core slot Slot.wake).endSheaf core slot

/-- Store a value in the register of a pending result, without the effect of a program's write. -/
def Slot.land (sl : Slot) (p : Pend) (v : Word) : Slot :=
  if p.reg = 0x30 then sl
  else if p.thread = 16 then { sl with u := sl.u.put p.reg v }
  else { sl with threads := sl.threads.upd p.thread Thread.idle (fun t => { t with g := t.g.put p.reg v }) }

/-- A result lands: nowhere if a later instruction has overwritten its register, else in the register, which it
writes under any register drain still pending there (R94). -/
def Slot.arrive (sl : Slot) (p : Pend) (rest : List Pend) : Slot :=
  if p.clobber then { sl with pend := rest }
  else { sl.land p p.val with
    pend := rest.map (fun q => if q.drain && q.thread == p.thread && q.reg == p.reg then { q with clobber := true } else q) }

/-- PENDING_WRITE_LANDS: the n-th pending result of a slot lands once its value is known. Results for one
register land in the order of their instructions. -/
def execPendingWriteLands (core slot n : Nat) (s : State) : Host.Outcome State Fault Refusal :=
  done (.pendingWriteLands core slot n) (match s.slot core slot with
    | none => s
    | some sl => match sl.pend[n]? with
      | none => s
      | some p =>
        if !p.ready || p.drain || (sl.pend.take n).any (fun q => q.thread == p.thread && q.reg == p.reg && !q.drain) then s
        else (s.updSlot core slot (fun sl => sl.arrive p (removeAt sl.pend n))).settleSlot core slot)

/-! ## Accepting a feed (R61, R62, R64, R65, R80) -/

/-- The steps of a lane as the gang accepts them: numbered from the steps accepted before, the first with the
clear mark where the feed clears. -/
def acceptLane (base : Nat) (clr : Bool) : List Opnd → List Opnd
  | [] => []
  | o :: r => { o with seq := base + o.seq, clr := clr } :: r.map (fun q => { q with seq := base + q.seq })

/-- The edge feed of a core that a gang takes next for a side and bank. -/
def Gang.edgeOf (g : Gang) (side bank : Bool) (core : Nat) : Option EdgeFeed :=
  g.edge.find? (fun e => e.core == core && e.side == side && e.bank == bank)

/-- Remove the first edge feed of each listed core. -/
def dropEdges (side bank : Bool) (es : List EdgeFeed) : List Nat → List EdgeFeed
  | [] => es
  | c :: r => dropEdges side bank (es.eraseP (fun e => e.core == c && e.side == side && e.bank == bank)) r

/-- Set the accumulators of one bank to +0 in every cell. -/
def Gang.zeroBank (g : Gang) (bank : Bool) : Gang :=
  { g with cells := g.cells.map (fun c => (c.1,
      if bank then { c.2 with acc1 := 0, hist1 := [] } else { c.2 with acc0 := 0, hist0 := [] })) }

/-- Accepted steps in the bank since its last clear, by a feed or by a core's drain. -/
def Gang.count (g : Gang) (cores : List Nat) (side bank : Bool) : Nat :=
  let low := cores.foldl (fun m c => min m (pick (g.coreClear.getD c (0, 0)) bank)) (pick g.acceptedA bank + pick g.acceptedB bank)
  (if side then pick g.acceptedB bank else pick g.acceptedA bank) - max (pick g.cleared bank) low

/-- Put the lanes of the accepted edge feeds at the ends of the gang's rows or columns. -/
def Gang.enter (g : Gang) (side : Bool) (base : Nat) : Nat → List EdgeFeed → Gang
  | _, [] => g
  | n, e :: r =>
    let add (m : Map (List Opnd)) : Map (List Opnd) :=
      (List.range 4).foldl (fun m l => m.upd (4 * n + l) [] (· ++ acceptLane base e.clr (e.lanes.getD l []))) m
    Gang.enter (if side then { g with cols := add g.cols } else { g with rows := add g.rows }) side base (n + 1) r

/-- Every logical core of a gang. -/
def gangCores (gid rows cols : Nat) : List Nat :=
  (List.range rows).flatMap (fun gr => (List.range cols).map (fun gc => gangCore gid rows cols gr gc))

/-- The report of a grid fault that names no thread: unit 0x01 at a core. -/
def State.gridReport (s : State) (core : Nat) (st : Status) (detail : List Byte) : Report :=
  { Report.plain 0x01 st (s.coreLoc core) detail with course := some (courseOfCore core) }

/-- An array start arrives at its course's pacing queue (R400): the gang holds its first step. -/
def State.arrayStart (s : State) (gid rows cols : Nat) : State :=
  (s.updCourse (courseOfCore gid) (fun c =>
    let c := if c.queue.isEmpty then { c with credit := 0 } else c
    { c with queue := c.queue ++ [{ gang := gid, cores := rows * cols, age := 0, first := c.queue.isEmpty }] })).updGang gid (fun g => { g with held := true })

/-- FEED_ACCEPTED: a gang accepts a feed of a side and bank once every edge feed has arrived. Feeds that
disagree are rejected (R62), and a feed beyond the step limit does not start (R65). A feed into an idle gang
is an array start (DESIGN CHOICE: the model counts no cycles). -/
def State.acceptFeed (s : State) (gid : Nat) (side bank : Bool) : State :=
  match s.gangDims gid with
  | none => s
  | some (rows, cols) =>
    let g := s.gang gid
    let cores := edgeCores gid rows cols side
    let es := cores.filterMap (g.edgeOf side bank)
    let ctx := g.ctx.getD 0
    match es with
    | [] => s
    | e0 :: _ =>
      if es.length < cores.length || es.any (fun e => e.wait.isSome) || g.ctx.isNone then s
      else
        let left := dropEdges side bank g.edge cores
        if es.any (fun e => e.clr != e0.clr || e.klen != e0.klen || e.ncw != e0.ncw) then
          (s.updGang gid (fun g => { g.zeroBank bank with edge := left })).faultCtx ctx (s.gridReport gid gngFeedMismatch []) none
        else
          let acc := if side then g.acceptedB else g.acceptedA
          let base := pick acc bank
          let count := if e0.clr then 0 else g.count (gangCores gid rows cols) side bank
          if count + e0.steps > 2 ^ 32 then
            (s.updGang gid (fun g => { g with edge := left })).faultCtx ctx (s.gridReport gid gngKLimit []) none
          else if e0.clr && e0.steps == 0 && !g.idleNow then s
          else
            let idle := g.idleNow
            let n := putPick acc bank (base + e0.steps)
            let t := s.updGang gid (fun g =>
              let g := if e0.clr && e0.steps == 0 then g.zeroBank bank else g
              let g := g.enter side base 0 es
              { g with
                edge := left, ew := false
                acceptedA := if side then g.acceptedA else n
                acceptedB := if side then n else g.acceptedB
                cleared := if e0.clr then putPick g.cleared bank (max base (pick g.cleared bank)) else g.cleared })
            if idle && e0.steps != 0 then t.arrayStart gid rows cols else t

def execFeedAccepted (gang : Nat) (side bank : Bool) (s : State) : Host.Outcome State Fault Refusal :=
  done (.feedAccepted gang side bank) (s.acceptFeed gang side bank)

/-! ## Cells (R53 to R56, R69) -/

def cellKey (row col : Nat) : Nat := row * 1024 + col

def Gang.cell (g : Gang) (row col : Nat) : Cell := g.cells.getD (cellKey row col) Cell.idle

/-- Room of the skid that a cell's A operands wait in: 2 inside a core, 4 between cores, 8 behind a turn
link of an eave form (R55). -/
def skidA (rows cols col : Nat) : Nat :=
  if col % 4 ≠ 0 then 2 else if cols > rows ∧ col / 4 % 8 = 0 then 8 else 4

/-- Room of the skid that a cell's B operands wait in (R55). -/
def skidB (row : Nat) : Nat := if row % 4 ≠ 0 then 2 else 4

/-- The operands that a cell holds: an edge cell sees the next two of its stream. -/
def Gang.opsA (g : Gang) (row col : Nat) : List Opnd := if col = 0 then (g.rows.getD row []).take 2 else (g.cell row col).aq
def Gang.opsB (g : Gang) (row col : Nat) : List Opnd := if row = 0 then (g.cols.getD col []).take 2 else (g.cell row col).bq

def Cell.fired (c : Cell) (bank : Bool) : Nat := if bank then c.done1 else c.done0
def Cell.acc (c : Cell) (bank : Bool) : Word := if bank then c.acc1 else c.acc0
def Cell.hist (c : Cell) (bank : Bool) : List Hist := if bank then c.hist1 else c.hist0

/-- Whether a drain of the core has yet to read the bank before a step (R70). -/
def Gang.awaitsDrain (g : Gang) (core : Nat) (bank : Bool) (seq : Nat) : Bool :=
  g.drains.any (fun d => d.core == core && dcBank d.dcw == bank && decide (d.need ≤ seq))

/-- The operands of the step that a cell can fire now: one bank's first A and B operand of one step. -/
def Gang.ready (g : Gang) (core row col : Nat) : Option (Opnd × Opnd) :=
  let first (bank : Bool) : Option (Opnd × Opnd) :=
    match (g.opsA row col).find? (fun o => o.bank == bank), (g.opsB row col).find? (fun o => o.bank == bank) with
    | some a, some b =>
      if a.seq = b.seq ∧ a.seq = (g.cell row col).fired bank ∧ !g.awaitsDrain core bank a.seq then some (a, b) else none
    | _, _ => none
  match first false with
  | some p => some p
  | none => first true

/-- Take an operand from where a cell held it. -/
def takeOp (m : List Opnd) (bank : Bool) : List Opnd := m.eraseP (fun o => o.bank == bank)

/-- One cell adds a step and passes both operands on. -/
def Gang.fire (g : Gang) (rows cols row col : Nat) (a b : Opnd) : Gang × Word :=
  let bank := a.bank
  let c := g.cell row col
  let clr := a.clr || b.clr
  let before := if clr then 0 else c.acc bank
  let old := if clr then [] else c.hist bank
  let (acc, fl) := cellAdd before a b
  let mark : Hist := { a := a, b := b, before := before }
  let h := (old ++ [mark]).drop (old.length + 1 - 256)
  let c := if bank then { c with acc1 := acc, hist1 := h, done1 := c.done1 + 1 }
    else { c with acc0 := acc, hist0 := h, done0 := c.done0 + 1 }
  let c := { c with aq := if col = 0 then c.aq else takeOp c.aq bank, bq := if row = 0 then c.bq else takeOp c.bq bank }
  let g := { g with
    cells := g.cells.put (cellKey row col) c
    rows := if col = 0 then g.rows.upd row [] (takeOp · bank) else g.rows
    cols := if row = 0 then g.cols.upd col [] (takeOp · bank) else g.cols }
  let g := if col + 1 < 4 * cols then
      { g with cells := g.cells.upd (cellKey row (col + 1)) Cell.idle (fun c => { c with aq := c.aq ++ [a] }) } else g
  let g := if row + 1 < 4 * rows then
      { g with cells := g.cells.upd (cellKey (row + 1) col) Cell.idle (fun c => { c with bq := c.bq ++ [b] }) } else g
  (g, fl)

/-- CELL_FIRE: the cell at a row and column of a gang adds one step when it holds both operands and the skids
east and south of it have room. A gang whose array start is not admitted, or whose course's fast clock is
stopped, does not fire (R68, R400). -/
def State.cellFire (s : State) (gid row col : Nat) : State :=
  match s.gangDims gid with
  | none => s
  | some (rows, cols) =>
    let g := s.gang gid
    if row ≥ 4 * rows ∨ col ≥ 4 * cols ∨ g.held ∨ (s.course (courseOfCore gid)).power ≠ .run then s
    else
      let core := gangCore gid rows cols (row / 4) (col / 4)
      match g.ready core row col with
      | none => s
      | some (a, b) =>
        let roomE := decide (col + 1 ≥ 4 * cols) || decide ((g.cell row (col + 1)).aq.length < skidA rows cols (col + 1))
        let roomS := decide (row + 1 ≥ 4 * rows) || decide ((g.cell (row + 1) col).bq.length < skidB (row + 1))
        if !(roomE && roomS) then s
        else
          let (g', fl) := g.fire rows cols row col a b
          let t := s.updGang gid (fun _ => g')
          let t := match g.ctx with
            | some c => if fl = 0 then t else t.orFlags c fl
            | none => t
          t.settleRelease gid

def execCellFire (gang row col : Nat) (s : State) : Host.Outcome State Fault Refusal :=
  done (.cellFire gang row col) (s.cellFire gang row col)

/-! ## The drain pipeline (R71 to R73) -/

/-- f′ of R73 at an argument, as the exact value that the final multiply takes. -/
def fprime (code : Nat) (alpha : Word) (zw : Word) : Num :=
  let z := ofF32 zw
  if z.isNan then .nan false
  else
    let pos := cmpNum z .zero == .gt
    match code with
    | 1 => if pos then .one else .zero
    | 2 => if pos then .one else ofF32 alpha
    | 6 => mulNum z (addNum .one z.negate)
    | 7 => addNum .one (mulNum z z).negate
    | 9 => if pos then mulNum (.fin false 2 0) z else .zero
    | _ => match z with
      | .inf false => .one
      | .inf true => .zero
      | _ => ofF32 (Config.fprime code zw alpha)

/-- The binary32 value of one element before conversion (R71). -/
def drainElem (dcw : DWord) (c t z : Word) : Word :=
  let c := match dcEop dcw with
    | 1 => fadd32 c t
    | 2 => fmul32 c t
    | _ => c
  if dcDeriv dcw = 0 then c
  else toF32 (mulNum (ofF32 c) (fprime (dcDeriv dcw) (BitVec.ofNat 32 (dcAlpha dcw * 2 ^ 16)) z))

/-- Element k of a 4×4 tile in local store, as binary32. -/
def State.tileElem (s : State) (core off fmt k : Nat) : Word :=
  let n := ofmtBytes fmt
  toF32 (decodeFmt (ofmtOf fmt) (s.lsNat core (off + n * k) n))

/-- The 16 elements that a drain reads from a tile; zeros where it reads none. -/
def State.tile (s : State) (core off fmt : Nat) (used : Bool) : List Word :=
  (List.range 16).map (fun k => if used then s.tileElem core off fmt k else 0)

/-- The element index with which cell k of a patch rounds (R124). -/
def roundIndex (base : DWord) (pitch : Word) (k : Nat) : DWord :=
  base + BitVec.ofNat 64 (k / 4 * pitch.toNat) + BitVec.ofNat 64 (k % 4)

/-- What a drain computes: its outputs in order, and their flag events. -/
def drainOuts (dcw : DWord) (ncw : Word) (accs ts zs : List Word) (rand : List (BitVec 16)) : List (Nat × Word) :=
  (List.range 16).map (fun k =>
    convertOut ncw (some (rand.getD k 0)) (ofF32 (drainElem dcw (accs.getD k 0) (ts.getD k 0) (zs.getD k 0))))

/-- The four cells of each row of a core's patch, at a gang position. -/
def patchKeys (gr gc : Nat) : List Nat := (List.range 16).map (fun k => cellKey (4 * gr + k / 4) (4 * gc + k % 4))

/-! ## Shadow samples (R377, R378, R381) -/

/-- The rows of a course whose spare is unused, nearest to a row first. -/
def State.freeSpares (s : State) (course row : Nat) : List Nat :=
  let used := (s.course course).retired
  let free := (List.range 32).filter (fun r => (used.get? r).isNone)
  (List.range 32).flatMap (fun d => free.filter (fun r => decide (r = row + d ∨ (r + d = row ∧ d ≠ 0))))

/-- Write bytes at an offset of a partition's HBM range, granule by granule. -/
def State.rangeWrite (s : State) (p : Part) : Nat → Nat → List Byte → State
  | 0, _, _ => s
  | fuel + 1, x, bs =>
    if bs.isEmpty then s
    else
      let n := 4096 - x % 4096
      State.rangeWrite (s.writeBytes (p.hbmLocal x) (bs.take n)) p fuel (x + n) (bs.drop n)

/-- The bytes of a capture slot (R381). `more` are the accumulators and outputs of the checkers so far. -/
def captureBytes (v : Shadow) (c1 c2 : List Word × List Word) : List Byte :=
  let words (l : List Word) : List Byte := (List.range 16).flatMap (fun k => leBytes 4 (l.getD k 0).toNat)
  let head := padTo 0x40 (leBytes 4 v.drain.ncw.toNat ++ leBytes 4 0 ++ leBytes 8 v.drain.dcw.toNat ++ leBytes 4 v.window ++
    leBytes 4 v.core ++ leBytes 8 v.countBefore ++ leBytes 4 (v.rows.1 + v.rows.2 * 2 ^ 16))
  let body := head ++ words v.before ++ words v.accs ++ words c1.1 ++ words c2.1 ++ words v.outs ++ words c1.2 ++ words c2.2 ++
    v.tile.flatMap (fun w => leBytes 4 w.toNat) ++ v.rand.flatMap (fun r => leBytes 2 r.toNat)
  padTo 0x400 body ++ padTo 4096 (v.opA.flatMap (fun w => leBytes 4 w.toNat)) ++
    padTo 4096 (v.opB.flatMap (fun w => leBytes 4 w.toNat)) ++ padTo 7168 []

/-- Offset of a capture slot in the partition's HBM range. -/
def Part.captureAt (p : Part) (k : Nat) : Nat := p.alloc.1 + 16384 * k

/-- Write a sample into its capture slot. -/
def State.saveCapture (s : State) (v : Shadow) (c1 c2 : List Word × List Word) : State :=
  match v.capture, s.part (s.ctx v.ctx).fn with
  | some k, some p => s.rangeWrite p 8 (p.captureAt k) (captureBytes v c1 c2)
  | _, _ => s

/-- The step of the launch that placed a slot's sheaf. -/
def State.launchStep (s : State) (core slot : Nat) : Option Nat :=
  match s.slot core slot with
  | some sl => match sl.launch with
    | some e => ((s.queue e.fn e.q).entries.find? (fun x => x.n == e.n)).bind (fun x => if x.jslot.isSome then some x.step else none)
    | none => none
  | none => none

/-- The job step in which a sheaf of a context works: function, slot, step, generation. -/
def State.stepMark (s : State) (ctx core slot : Nat) : Option (Nat × Nat × Nat × Nat) :=
  (s.jobOf ctx).map (fun j => (j.1, j.2.1, (s.launchStep core slot).getD j.2.2.step, j.2.2.gen))

/-- Advance the course's sampler for a drain and capture the drain if it is chosen. -/
def State.sample (s : State) (v : Shadow) (fn : Nat) : State :=
  let course := courseOfCore v.core
  let rate := min (s.fn fn).shRate 1024
  if rate = 0 then s
  else
    let x := xorshift (s.course course).sampler
    let s := s.updCourse course (fun c => { c with sampler := x })
    if field x.toNat 63 48 ≥ rate then s
    else match s.freeSpares course (coreRow v.core) with
      | r1 :: r2 :: _ =>
        let k := (List.range 64).find? (fun k => !(s.fn fn).capslots.getLsbD k)
        let v := { v with rows := (r1, r2), capture := k, id := s.grid.nextShadow }
        let s := { s with grid := { s.grid with shadows := s.grid.shadows ++ [v], nextShadow := s.grid.nextShadow + 1 } }
        let s := match k with
          | some k => s.updFn fn (fun g => { g with capslots := g.capslots ||| (1#64 <<< k) })
          | none => s
        s.saveCapture v ([], []) ([], [])
      | _ =>
        if s.grid.shadowStopped.contains course then s
        else
          let s := { s with grid := { s.grid with shadowStopped := insSet s.grid.shadowStopped course } }
          s.record { s.gridReport v.core gngShadowStopped
            (leBytes 4 v.core ++ leBytes 4 (tractOfCore v.core) ++ leBytes 2 0) with fn := fn }

/-! ## DRAIN_COMPLETE (R70 to R74) -/

/-- The operands of lane i (A: rows, B: columns) for the window of a patch, step by step. -/
def windowOps (g : Gang) (gr gc : Nat) (side bank : Bool) : List Word :=
  let lane (i : Nat) : List Hist :=
    (if side then g.cell (4 * gr) (4 * gc + i) else g.cell (4 * gr + i) (4 * gc)).hist bank
  let w := (lane 0).length
  (List.range w).flatMap (fun k => (List.range 4).map (fun i => match (lane i)[k]? with
    | some h => if side then h.b.raw else h.a.raw
    | none => 0))

/-- Give the elements of a register drain to the threads that take part, and end the wait for the others. A
register that the program wrote meanwhile holds a free value (R94). -/
def State.landDrain (s : State) (core slot tag : Nat) (takers : List Nat) (outs : List Nat) : State :=
  match s.slot core slot with
  | none => s
  | some sl =>
    let mine := sl.pend.filter (fun p => p.tag == tag && p.drain)
    let s := s.updSlot core slot (fun sl => { sl with pend := sl.pend.filter (fun p => !(p.tag == tag && p.drain)) })
    let s := mine.foldl (fun s p =>
      if p.clobber then
        let (v, s) := s.drawWord
        s.updSlot core slot (fun sl => sl.land p v)
      else if takers.contains p.thread then s.updSlot core slot (fun sl => sl.land p (BitVec.ofNat 32 (outs.getD p.thread 0)))
      else s) s
    s.settleSlot core slot

/-- A drain whose turn has come: its core's 16 cells have fired every step it waits for. -/
def Gang.drainReady (g : Gang) (gr gc : Nat) (d : Drain) : Bool :=
  (patchKeys gr gc).all (fun k => decide (d.need ≤ (g.cells.getD k Cell.idle).fired (dcBank d.dcw)))

/-- DRAIN_COMPLETE: the first drain of a core whose steps have all fired reads its bank, fuses, rounds and writes its elements. A
husk in a companion tile is consumed by the gang (R169). -/
def State.completeDrain (s : State) (gid core : Nat) : State :=
  match s.gangDims gid with
  | none => s
  | some (rows, cols) =>
    let g := s.gang gid
    match gangPos gid rows cols core with
    | none => s
    | some (gr, gc) => match g.drains.find? (fun d => d.core == core && g.drainReady gr gc d) with
    | none => s
    | some d =>
      if (s.course (courseOfCore core)).power ≠ .run then s
      else
        let bank := dcBank d.dcw
        let dest := dcDest d.dcw
        let useT := decide (dcEop d.dcw ≠ 0) && decide (dest ≠ 2)
        let useZ := decide (dcDeriv d.dcw ≠ 0) && decide (dest ≠ 2)
        let nT := 16 * ofmtBytes (dcTfmt d.dcw)
        let nZ := 16 * ofmtBytes (dcZfmt d.dcw)
        if (useT && s.lsHusks core d.tOff nT) || (useZ && s.lsHusks core d.zOff nZ) then
          (s.faultCtx d.ctx (s.gridReport core memHuskConsumed (leBytes 8 d.tOff)) none).countHusk (s.ctx d.ctx).fn
        else
          let keys := patchKeys gr gc
          let accs := keys.map (fun k => (g.cells.getD k Cell.idle).acc bank)
          let ts := s.tile core d.tOff (dcTfmt d.dcw) useT
          let zs := s.tile core d.zOff (dcZfmt d.dcw) useZ
          let rand := (List.range 16).map (fun k => s.randOf d.ctx d.tid (roundIndex d.base d.pitch k))
          let outs := drainOuts d.dcw d.ncw accs ts zs rand
          let codes := outs.map (·.1)
          let hist := keys.map (fun k => (g.cells.getD k Cell.idle).hist bank)
          let w := (hist.headD []).length
          let n := (g.cells.getD (keys.headD 0) Cell.idle).fired bank
          let since := max (pick g.cleared bank) (pick (g.coreClear.getD core (0, 0)) bank)
          let v : Shadow :=
            { id := 0, core := core, gang := gid, ctx := d.ctx, drain := d, window := w
              before := List.zipWith (fun h a => match h.head? with | some x => x.before | none => a) hist accs
              opA := windowOps g gr gc false bank, opB := windowOps g gr gc true bank, countBefore := n - since - w
              accs := accs, outs := codes.map (BitVec.ofNat 32), tile := ts ++ zs, rand := rand, checker1 := none
              rows := (0, 0), capture := none, step := s.stepMark d.ctx core d.slot, verdict := none }
          let s := s.updGang gid (fun g => { g with
            drains := g.drains.eraseP (fun d => d.core == core && g.drainReady gr gc d)
            cells := if dcKeep d.dcw then g.cells
              else keys.foldl (fun m k => m.upd k Cell.idle (fun c =>
                if bank then { c with acc1 := 0, hist1 := [] } else { c with acc0 := 0, hist0 := [] })) g.cells
            coreClear := if dcKeep d.dcw then g.coreClear
              else g.coreClear.put core (putPick (g.coreClear.getD core (0, 0)) bank n) })
          let s := match dest with
            | 0 => s.landDrain core d.tslot d.tag d.takers codes
            | 1 => s.lsWrite core d.dOff (codes.flatMap (leBytes (ofmtBytes (field d.ncw.toNat 11 9))))
            | _ => s
          let s := if dest = 2 then s else s.orFlags d.ctx (outs.foldl (fun f o => f ||| o.2) 0)
          let s := if dest = 2 then s else s.sample v (s.ctx d.ctx).fn
          s.settleRelease gid

def execDrainComplete (gang core : Nat) (s : State) : Host.Outcome State Fault Refusal :=
  done (.drainComplete gang core) (s.completeDrain gang core)

/-! ## Element-wise mode (R75) -/

/-- ELEMENT_WISE_PAIR: a pair passes a row of a tract shaped as one 32×32 gang and, at the row's east-edge
core, the drain pipeline with c = x and T = Z = y. The first pair of a run is an array start (R400). -/
def State.elementWise (s : State) (gid row : Nat) (x y ncw : Word) (dcw : DWord) (doff : Nat) (tid : Word) (elem : DWord) : State :=
  match s.gangDims gid, (s.gang gid).ctx with
  | some (rows, cols), some ctx =>
    if rows ≠ 8 ∨ cols ≠ 8 ∨ row ≥ 32 ∨ (s.gang gid).held ∨ (s.course (courseOfCore gid)).power ≠ .run then s
    else if !(s.gang gid).ew then (s.arrayStart gid rows cols).updGang gid (fun g => { g with ew := true })
    else
      let core := gangCore gid rows cols (row / 4) 7
      let n := ofmtBytes (field ncw.toNat 11 9)
      let fault (st : Status) : State := s.faultCtx ctx (s.gridReport core st []) none
      if dcReserved dcw || ncwReserved ncw || dcDest dcw ≠ 1 then fault gngDescInvalid
      else if doff % n ≠ 0 then fault shfMisaligned
      else if !s.lsOk core ctx doff n then fault shfLsRange
      else
        let (code, fl) := convertOut ncw (some (s.randOf ctx tid elem)) (ofF32 (drainElem dcw x y y))
        (s.lsWrite core doff (leBytes n code)).orFlags ctx fl
  | _, _ => s

def execElementWisePair (gang row : Nat) (x y : Word) (ncw : Word) (dcw : DWord) (doff : Nat) (tid : Word) (elem : DWord)
    (s : State) : Host.Outcome State Fault Refusal :=
  done (.elementWisePair gang row x y ncw dcw doff tid elem) (s.elementWise gang row x y ncw dcw doff tid elem)

/-! ## The end of a reshape (R78) -/

/-- Start the next request of a tract, checked against the shape its predecessor left. -/
def State.nextReshape (s : State) (tract : Nat) : State :=
  match s.grid.reshapes.find? (fun r => r.tract == tract) with
  | some r =>
    if r.running || s.grid.retires.any (fun q => q.tract == tract) then s
    else
      let rest := s.grid.reshapes.filter (fun q => q.tract == tract && q != r)
      let others := s.grid.reshapes.filter (fun q => q.tract != tract)
      let t := { s with grid := { s.grid with reshapes := others } }
      let t := t.startReshape r
      { t with grid := { t.grid with reshapes := t.grid.reshapes ++ rest } }
  | none => s

/-- As `nextReshape`, until a request of the tract runs or none is left. -/
def State.nextReshapes (s : State) (tract : Nat) : Nat → State
  | 0 => s
  | fuel + 1 => State.nextReshapes (s.nextReshape tract) tract fuel

/-- RESHAPE_COMPLETE: the running request clears and unbinds its region, the new shape shows, one journal
entry is written, and the request completes with success. -/
def State.completeReshape (s : State) (tract : Nat) : State :=
  match s.grid.reshapes.find? (fun r => r.tract == tract && r.running) with
  | none => s
  | some r =>
    if (s.course (tract / 16)).power ≠ .run then s
    else
      let gone := (s.regionGangs tract r.word).map (·.1)
      let t := { s with grid := { s.grid with
        gangs := s.grid.gangs.filter (fun g => !gone.contains g.1)
        shapes := s.grid.shapes.put tract r.word
        reshapes := s.grid.reshapes.filter (fun q => q != r) } }
      let t := t.updCourse (tract / 16) (fun c => { c with queue := c.queue.filter (fun q => !gone.contains q.gang) })
      let t := t.journal r.fn (if r.sheaf then 1 else 0) 4 tract (BitVec.ofNat 128 r.word.toNat)
      (t.reshapeStatus r statusOk).nextReshapes tract s.grid.reshapes.length

def execReshapeComplete (tract : Nat) (s : State) : Host.Outcome State Fault Refusal :=
  done (.reshapeComplete tract) (s.completeReshape tract)

/-! ## Parity (R82) -/

/-- GANG_PARITY_ERROR: the gang's accepted feeds are discarded, both banks cleared, its context faults, and
the record names the physical and the logical core. -/
def execGangParityError (gang core part : Nat) (s : State) : Host.Outcome State Fault Refusal :=
  let rep := s.gridReport core gngParity (leBytes 4 core ++ leBytes 4 part)
  done (.gangParityError gang core part) (match s.gangDims gang with
    | none => s
    | some (rows, cols) =>
      if (gangPos gang rows cols core).isNone then s
      else
        let t := s.updGang gang (fun g => { g with
          edge := [], rows := [], cols := [], cells := [], acceptedA := (0, 0), acceptedB := (0, 0), cleared := (0, 0), coreClear := [] })
        match (s.gang gang).ctx with
        | some c => t.faultCtx c rep none
        | none => t.record rep)

end Sys2Proof.Machine
end

