-- ==== Sys2Proof/Machine/Spars.lean ====
section
/-! DEFINITION. Spars: translation of local ids (R284, R285), operations at the home unit (R286 to R288), barrier
phases (R291, R292), abandonment and freeing (R294, R295, R300), restoring step spars (R297), and the spar
instructions with EXIT (R126, R86). -/

namespace Sys2Proof.Machine

/-! ## Threads that wait (R289) -/

def Waiter.pos : Waiter → Nat
  | .thread _ _ t => t
  | .saved _ _ t => t

/-- The slot of a waiter, resident or swapped out. -/
def State.waiterSlot (s : State) : Waiter → Option Slot
  | .thread core slot _ => s.slot core slot
  | .saved ctx area _ => ((s.ctx ctx).saved.find? (fun v => v.area == area)).map (·.slot)

def State.updWaiter (s : State) (w : Waiter) (f : Slot → Slot) : State :=
  match w with
  | .thread core slot _ => s.updSlot core slot f
  | .saved ctx area _ => s.updCtx ctx (fun c => { c with
      saved := c.saved.map (fun v => if v.area = area then { v with slot := f v.slot } else v) })

def State.waiterCtx (s : State) (w : Waiter) : Option Nat := (s.waiterSlot w).map (·.ctx)

/-- A wait-list entry (R289). -/
def waitEntry (t : Thread) : Nat :=
  (match t.wait with
   | some w => w.thresh.toNat * 2 ^ 192 + w.lid * 2 ^ 176 + w.cond * 2 ^ 172 + w.code * 2 ^ 169
   | none => 0) +
  (match t.token with
   | some k => k.lid * 2 ^ 152 + 2 ^ 151 + (if k.phase then 2 ^ 150 else 0)
   | none => 0)

/-- Write a thread's entry into its context's wait list. -/
def State.saveWait (s : State) (w : Waiter) : State :=
  match s.waiterSlot w with
  | some sl => s.writeNat ((s.ctx sl.ctx).waitList + 512 * sl.block + 32 * w.pos) 32 (waitEntry (sl.thread w.pos))
  | none => s

/-- Change a thread's wait or token, in the slot and in the wait list. -/
def State.updWait (s : State) (w : Waiter) (f : Thread → Thread) : State :=
  (s.updWaiter w (fun sl => sl.updThread w.pos f)).saveWait w

/-- Release a parked thread: its result goes to DST and it is READY again. -/
def State.resume (s : State) (w : Waiter) (status : Word) (code : Nat) : State :=
  (s.updWaiter w (fun sl =>
    let dst := match (sl.thread w.pos).wait with | some x => x.dst | none => 0x30
    let sl := sl.write w.pos (Reg.ofNat dst) status
    sl.updThread w.pos (fun t => { t with
      st := .ready
      wait := t.wait.map (fun x => { x with code := code }) }))).saveWait w

/-! ## Conditions and phases (R288, R292) -/

/-- Conditions of SPWAIT (R126): 0 at or above, 1 equal, 2 the phase bit. -/
def sparHolds (cond : Nat) (thresh value : DWord) : Bool :=
  match cond with
  | 0 => decide (thresh.toNat ≤ value.toNat)
  | 1 => value == thresh
  | _ => value.getLsbD 0 == thresh.getLsbD 0

def Spar.bit (x : Spar) : Bool := x.value.getLsbD 0

/-- Participants of a barrier spar. -/
def Spar.count (x : Spar) : Nat := x.param.toNat % 65536

/-- Close the open phase when all have arrived and all have left the last one (R292). -/
def Spar.tryClose (x : Spar) : Spar :=
  if x.kind = 2 ∧ x.arr = x.count ∧ x.dep = x.count then { x with value := x.value + 1, arr := 0, dep := 0 } else x

/-- Whether a waiter's condition holds for the spar's value. -/
def State.waitMet (s : State) (p : Nat) (w : Waiter) : Bool :=
  match s.waiterSlot w with
  | some sl => match (sl.thread w.pos).wait with
    | some x => sparHolds x.cond x.thresh (s.spar p).value
    | none => false
  | none => false

/-- The thread leaves the phase of its token on a spar: the token is cleared and counts as a departure. -/
def State.depart (s : State) (p : Nat) (w : Waiter) : State :=
  (s.updWait w (fun t => { t with token := none })).updSpar p (fun x => { x with dep := x.dep + 1, tokens := x.tokens.filter (· != w) })

/-- Whether a thread holds a token of a phase of the spar that has closed. -/
def State.leaves (s : State) (p : Nat) (w : Waiter) : Bool :=
  match s.waiterSlot w with
  | some sl => match (sl.thread w.pos).token with
    | some k => k.phys == p && k.gen == (s.spar p).gen && k.phase != (s.spar p).bit
    | none => false
  | none => false

/-- Evaluate every waiter of a spar against its value: those whose condition holds resume with 0 and leave
their closed phase, which may close the next one. -/
def State.evaluate (s : State) (p : Nat) : Nat → State
  | 0 => s
  | fuel + 1 =>
    let x := s.spar p
    let met := x.waiters.filter (s.waitMet p)
    if met.isEmpty then s
    else
      let s := s.updSpar p (fun x => { x with waiters := x.waiters.filter (fun w => !met.contains w) })
      let s := met.foldl (fun s w => (s.resume w 0 2)) s
      let s := met.foldl (fun s w => if s.leaves p w then s.depart p w else s) s
      State.evaluate (s.updSpar p Spar.tryClose) p fuel

/-- After an operation on a spar: close its phase if due, and evaluate its waiters. -/
def State.afterOp (s : State) (p : Nat) : State :=
  let s := s.updSpar p Spar.tryClose
  s.evaluate p ((s.spar p).waiters.length + 1)

/-- The rules of SPADD (R283, R287, R294): the old value and the state after, or the fault. -/
def State.addSpar (s : State) (p : Nat) (delta : DWord) : Except Status (DWord × State) :=
  let x := s.spar p
  if x.aband then .ok (x.value, s)
  else if x.kind = 2 then .error sprKind
  else
    let v : Int := x.value.toNat + delta.toInt
    if x.kind = 1 ∧ v < 0 then .error sprUnderflow
    else if x.kind = 1 ∧ v > x.param.toNat then .error sprOverflow
    else .ok (x.value, (s.updSpar p (fun x => { x with value := x.value + delta })).afterOp p)

/-! ## Abandonment, freeing, withdrawal (R294, R295, R300) -/

/-- The next generation, which is never 0 (R285). -/
def nextGen (g : Nat) : Nat := if g ≥ 0x3FFF then 1 else g + 1

/-- Free an abandoned spar that no map entry names. -/
def State.tryFreeSpar (s : State) (p : Nat) : State :=
  let x := s.spar p
  if x.used ∧ x.aband ∧ x.maps.isEmpty then
    s.updSpar p (fun x => { Spar.idle with gen := nextGen x.gen, ops := x.ops })
  else s

/-- A spar is abandoned: its value freezes, its tokens are cleared and its waiters return SPR_ABANDONED. -/
def State.abandon (s : State) (p : Nat) : State :=
  let x := s.spar p
  if !x.used ∨ x.aband then s
  else
    let s := s.updSpar p (fun x => { x with aband := true, waiters := [], tokens := [] })
    let s := x.tokens.foldl (fun s w => s.updWait w (fun t => { t with token := none })) s
    let s := x.waiters.foldl (fun s w => s.resume w (sprAbandoned.setWidth 32) 3) s
    let s := s.updFn x.part (fun g => { g with spr := { g.spr with aband := sat 16 (g.spr.aband + 1) } })
    s.tryFreeSpar p

/-- Withdraw a context's waits on a spar; its tokens count as departures. -/
def State.withdraw (s : State) (p ctx : Nat) : State :=
  let x := s.spar p
  let mine (w : Waiter) : Bool := s.waiterCtx w == some ctx
  let gone := x.tokens.filter mine
  let s := s.updSpar p (fun x => { x with waiters := x.waiters.filter (fun w => !mine w) })
  if gone.isEmpty then s else (gone.foldl (fun s w => s.depart p w) s).afterOp p

/-- The spars in use whose map or owner names a context. -/
def State.sparsOf (s : State) (ctx : Nat) : List Nat :=
  (s.tab.spars.filter (fun x => x.2.owner == ctx || x.2.maps.any (fun m => m.1 == ctx) || x.2.ops.any (fun o => o.ctx == ctx) ||
    (x.2.waiters ++ x.2.tokens).any (fun w => s.waiterCtx w == some ctx))).map (·.1)

/-- A context stops for good: the spars it owns are abandoned, its waits and tokens withdrawn. -/
def State.sparStop (s : State) (ctx : Nat) : State :=
  (s.sparsOf ctx).foldl (fun s p =>
    let s := (s.updSpar p (fun x => { x with ops := x.ops.filter (fun o => o.ctx != ctx) })).withdraw p ctx
    if (s.spar p).used ∧ (s.spar p).owner = ctx then s.abandon p else s) s

/-- Clear a map entry of a context. -/
def State.clearMap (s : State) (p ctx lid : Nat) : State :=
  let s := s.updSpar p (fun x => { x with maps := x.maps.filter (· != (ctx, lid)) })
  (s.writeNat ((s.ctx ctx).mapAddr + 4 * lid) 4 0).tryFreeSpar p

/-- Clear every map entry of a context. -/
def State.clearMaps (s : State) (ctx : Nat) : State :=
  (s.sparsOf ctx).foldl (fun s p =>
    ((s.spar p).maps.filter (fun m => m.1 == ctx)).foldl (fun s m => s.clearMap p ctx m.2) s) s

/-- Restore a step spar before a replay (R297). -/
def State.restoreSpar (s : State) (p : Nat) : State :=
  let x := s.spar p
  let s := s.updSpar p (fun x => { x with
    value := x.init, arr := 0, dep := if x.kind = 2 then x.count else x.dep, waiters := [], tokens := [] })
  let s := x.tokens.foldl (fun s w => s.updWait w (fun t => { t with token := none })) s
  let s := x.waiters.foldl (fun s w => s.resume w (sprStepReset.setWidth 32) 4) s
  s.updFn x.part (fun g => { g with spr := { g.spr with resets := sat 16 (g.spr.resets + 1) } })

/-! ## Translation (R284, R285) -/

/-- A map entry as memory holds it. -/
def State.mapWord (s : State) (ctx lid : Nat) : Nat := s.readNat ((s.ctx ctx).mapAddr + 4 * lid) 4

/-- Translate a local id of a context: the physical spar and the generation, or the fault. An entry that software has
written reaches no spar outside the context's partition (R284; its fault is a DESIGN CHOICE). -/
def State.translateSpar (s : State) (ctx lid : Nat) : Except Status (Nat × Nat) :=
  if (s.ctx ctx).mapLen ≤ lid then .error sprIdInvalid
  else
    let w := s.mapWord ctx lid
    if !bitOf w 31 then .error sprIdInvalid
    else if field w 29 16 ≠ (s.spar (w % 65536)).gen ∨ !(s.spar (w % 65536)).used ∨ (s.spar (w % 65536)).part ≠ (s.ctx ctx).fn then
      .error sprStaleGen
    else .ok (w % 65536, field w 29 16)

/-! ## The home unit (R286) -/

/-- A thread's operation faults: its context is handled under R105. -/
def State.sparFault (s : State) (o : SparOp) (st : Status) : State :=
  s.faultCtx o.ctx (s.sheafReport o.core (16 * o.slot + o.thread) st o.pc o.word 0) (some o.core)

/-- Deliver the result of a thread's operation. -/
def State.sparReply (s : State) (o : SparOp) (v : DWord) : State :=
  s.updSlot o.core o.slot (fun sl => sl.settle o.tag (wordsOfNat 2 v.toNat))

/-- An arrival at a barrier spar (R291). A thread that has exited meanwhile leaves at once (R292). -/
def State.arrive (s : State) (p : Nat) (o : SparOp) : State :=
  let x := s.spar p
  let w : Waiter := .thread o.core o.slot o.thread
  let t := match s.slot o.core o.slot with
    | some sl => sl.thread o.thread
    | none => Thread.idle
  if x.aband then s.sparReply o (if x.bit then 1 else 0)
  else if x.kind ≠ 2 then s.sparFault o sprKind
  else
    let other := match t.token with
      | some k => if k.phys = p ∧ k.gen = x.gen then none else some k
      | none => none
    let openElse := match other with
      | some k => (s.spar k.phys).gen == k.gen && (s.spar k.phys).bit == k.phase
      | none => false
    let mine := match t.token with
      | some k => decide (k.phys = p ∧ k.gen = x.gen)
      | none => false
    if openElse || (mine && (!s.leaves p w || x.arr == x.count)) then s.sparFault o sprOverflow
    else
      let s := match other with
        | some k => if (s.spar k.phys).gen = k.gen then (s.depart k.phys w).afterOp k.phys
                    else s.updWait w (fun t => { t with token := none })
        | none => if mine then s.depart p w else s
      if x.arr = x.count then s.sparFault o sprOverflow
      else
        let s := s.updSpar p (fun x => { x with arr := x.arr + 1 })
        let s := if t.st = .exited then s.updSpar p (fun x => { x with dep := x.dep + 1 })
          else
            (s.updWait w (fun t => { t with token := some { lid := o.lid, phys := p, gen := x.gen, phase := x.bit } })).updSpar p
              (fun x => { x with tokens := x.tokens ++ [w] })
        (s.sparReply o (if x.bit then 1 else 0)).afterOp p

/-- Apply one operation at its home unit. -/
def State.applySpar (s : State) (p : Nat) (o : SparOp) : State :=
  let x := s.spar p
  let w : Waiter := .thread o.core o.slot o.thread
  if o.gen ≠ x.gen then s.sparFault o sprStaleGen
  else match o.act with
    | .add delta => match s.addSpar p delta with
      | .ok (old, t) => t.sparReply o old
      | .error st => s.sparFault o st
    | .read => s.sparReply o x.value
    | .arrive => s.arrive p o
    | .wait cond thresh =>
      if x.aband then s.resume w (sprAbandoned.setWidth 32) 3
      else if sparHolds cond thresh x.value then
        let t := s.resume w 0 2
        if t.leaves p w then (t.depart p w).afterOp p else t
      else
        (s.updWait w (fun t => { t with wait := t.wait.map (fun q => { q with code := 1 }) })).updSpar p
          (fun x => { x with waiters := x.waiters ++ [w] })

/-- SPAR_HOME_OPERATION: the home unit applies the oldest operation that has arrived for the spar. -/
def execSparHomeOperation (spar : Nat) (s : State) : Host.Outcome State Fault Refusal :=
  done (.sparHomeOperation spar) (match (s.spar spar).ops with
    | [] => s
    | o :: r => (s.updSpar spar (fun x => { x with ops := r })).applySpar spar o)

/-! ## The instructions (R126) -/

/-- Mark the destination of a spar operation pending; one into ZR still holds the sheaf until it ends. -/
def Slot.pendSpar (sl : Slot) (tag pos : Nat) (d : List Reg) : Slot :=
  if d.all (· == .zr) then
    { sl with pend := sl.pend ++ [{ tag := tag, thread := pos, reg := 0x30, val := 0, ready := false, drain := false, clobber := false }] }
  else sl.pendAll tag pos d (List.replicate d.length 0) false

/-- The first member whose local id is refused. -/
def State.badSpar (s : State) (ctx : Nat) : List (Nat × Nat) → Option (Nat × Status)
  | [] => none
  | (m, v) :: r =>
    if v ≥ 65536 then some (m, shfIllegalOp)
    else match s.translateSpar ctx v with
      | .error st => some (m, st)
      | .ok _ => State.badSpar s ctx r

/-- Issue a spar instruction: every local id is translated, then each member's operation goes to its home
unit. `park` holds the condition of SPWAIT. -/
def State.sparIssue (s : State) (i : Issue) (f : FormT) (opc : Nat) (e : Enc) (ra rb d : List Reg) (park : Option Nat)
    (act : DWord → SparAct) : State :=
  let ctx := s.slotCtx i
  let word := tWord opc f
  s.issue i f.guard e word (fun s go on =>
    match s.badSpar ctx (on.map (fun m => (m, s.regsNat i.core m ra))) with
    | some (m, st) => s.sheafFault i.core m st word 0
    | none =>
      (on.foldl (fun t m =>
        let lid := s.regsNat i.core m ra
        match s.translateSpar ctx lid with
        | .error _ => t
        | .ok (p, gen) =>
          let arg : DWord := BitVec.ofNat 64 (s.regsNat i.core m rb)
          let tag := t.mem.nextTag
          let o : SparOp := { core := i.core, slot := m / 16, thread := m % 16, ctx := ctx, lid := lid, gen := gen, tag := tag
                              pc := (s.thread i.core m).pc, word := word, act := act arg }
          let dm := if d.any Reg.isU && some m != on.head? then [.zr] else d
          let t := match park with
            | some cond => t.updThread i.core m (fun th => { th with
                st := .parkSpar
                wait := some { lid := lid, phys := p, cond := cond, thresh := arg, dst := (dm.headD .zr).code, code := 0 } })
            | none => (t.updSlot i.core (m / 16) (fun sl => sl.pendSpar tag (m % 16) dm)).newTag
          t.updSpar p (fun x => { x with ops := x.ops ++ [o] })) s).nextPc i.core go)

/-- SPADD: the sign-extended delta of SB is added; the old value goes to pair DST. -/
def execSpadd (i : Issue) (f : FormT) (s : State) : Host.Outcome State Fault Refusal :=
  let ra := (regs 1 f.sa).getD []
  let rb := (regs 1 f.sb).getD []
  let d := (regs 2 f.dst).getD []
  let e : Enc := { legal := f.type == 0 && f.mod == 0 && f.sc == 0 && (regs 1 f.sa).isSome && (regs 1 f.sb).isSome && (regs 2 f.dst).isSome
                   bound := ra.any Reg.isU || rb.any Reg.isU || d.any Reg.isU, reads := ra ++ rb }
  done (.spadd i f) (s.sparIssue i f 0x70 e ra rb d none (fun v => .add ((v.setWidth 32).signExtend 64)))

/-- SPWAIT: the thread parks until the home unit finds its condition met. -/
def execSpwait (i : Issue) (f : FormT) (s : State) : Host.Outcome State Fault Refusal :=
  let ra := (regs 1 f.sa).getD []
  let rb := (regs 2 f.sb).getD []
  let d := (regs 1 f.dst).getD []
  let e : Enc := { legal := decide (f.type.toNat ≤ 2) && f.mod == 0 && f.sc == 0 && (regs 1 f.sa).isSome && (regs 2 f.sb).isSome &&
                     (regs 1 f.dst).isSome
                   bound := ra.any Reg.isU || rb.any Reg.isU || d.any Reg.isU, reads := ra ++ rb }
  done (.spwait i f) (s.sparIssue i f 0x71 e ra rb d (some f.type.toNat) (fun v => .wait f.type.toNat v))

def execSparrive (i : Issue) (f : FormT) (s : State) : Host.Outcome State Fault Refusal :=
  let ra := (regs 1 f.sa).getD []
  let d := (regs 1 f.dst).getD []
  let e : Enc := { legal := f.type == 0 && f.mod == 0 && f.sc == 0 && f.sb == 0 && (regs 1 f.sa).isSome && (regs 1 f.dst).isSome
                   bound := ra.any Reg.isU || d.any Reg.isU, reads := ra }
  done (.sparrive i f) (s.sparIssue i f 0x72 e ra [] d none (fun _ => .arrive))

def execSpread (i : Issue) (f : FormT) (s : State) : Host.Outcome State Fault Refusal :=
  let ra := (regs 1 f.sa).getD []
  let d := (regs 2 f.dst).getD []
  let e : Enc := { legal := f.type == 0 && f.mod == 0 && f.sc == 0 && f.sb == 0 && (regs 1 f.sa).isSome && (regs 2 f.dst).isSome
                   bound := ra.any Reg.isU || d.any Reg.isU, reads := ra }
  done (.spread i f) (s.sparIssue i f 0x73 e ra [] d none (fun _ => .read))

/-! ## EXIT (R86, R98, R292) -/

/-- A thread that exits leaves the phase of its token. -/
def State.exitToken (s : State) (core m : Nat) : State :=
  match (s.thread core m).token with
  | some k =>
    let w : Waiter := .thread core (m / 16) (m % 16)
    if (s.spar k.phys).gen = k.gen then (s.depart k.phys w).afterOp k.phys else s.updWait w (fun t => { t with token := none })
  | none => s

/-- EXIT: the thread enters EXITED; the others' barrier is tested, the whole-sheaf instruction that they stand at issues, and
the sheaf may end. -/
def execExit (i : Issue) (f : FormT) (s : State) : Host.Outcome State Fault Refusal :=
  let e : Enc := { legal := bareT f && f.sa == 0 && f.dst == 0, bound := false, reads := [] }
  done (.exit i f) (s.issue i f.guard e (tWord 0x04 f) (fun s go on =>
    let t := s.nextPc i.core (go.filter (fun m => !on.contains m))
    let t := on.foldl (fun t m => (t.exitToken i.core m).updThread i.core m (fun th => { th with st := .exited })) t
    (slotsOf on).foldl (fun t k => (t.testBar i.core k ((on.find? (fun m => m / 16 == k)).getD i.leader) (tWord 0x04 f)).wholeIssue i.core k |>.endSheaf i.core k) t))

end Sys2Proof.Machine
end

