-- ==== Sys2Proof/Machine/Objects.lean ====
section
/-! DEFINITION. The device allocator (R127, R337 to R342), the hoard (R128, R179 to R187) and the mailbox
instructions (R132, R320). -/

namespace Sys2Proof.Machine

/-! ## Objects (R337 to R341) -/

def State.objTab (s : State) (fn : Nat) : ObjTab := (s.fn fn).objTab
def State.updObjTab (s : State) (fn : Nat) (f : ObjTab → ObjTab) : State := s.updFn fn (fun g => { g with objTab := f g.objTab })

/-- Current generation of an index (R337). -/
def ObjTab.gen (t : ObjTab) (idx : Nat) : Nat := t.gens.getD idx 1

/-- Live objects: an object freed while a command names it is kept under a key above every index until the
command finishes (R341). -/
def ObjTab.live (t : ObjTab) : Nat := (t.objs.filter (fun o => o.1 < 2 ^ 24)).length

/-- Where a freed object waits for the commands that name it. -/
def limboKey (idx gen : Nat) : Nat := idx + 2 ^ 24 * (gen + 1)

/-- Whether an executing OCOPY names an index at a generation (R341). -/
def State.objInUse (s : State) (fn idx gen : Nat) : Bool :=
  let h (x : QEntry) (lo : Nat) : Bool :=
    let v := field x.bits.toNat (192 + lo + 63) (192 + lo)
    decide (v % 2 ^ 24 = idx ∧ field v 37 24 = gen)
  (s.fn fn).queues.any (fun q => q.2.entries.any (fun x =>
    decide (field x.bits.toNat 7 0 = 0x19 ∧ x.st = .running) && (h x 256 || h x 128)))

/-- The objects whose heap ranges are taken. -/
def State.heapUse (s : State) (fn : Nat) : List Obj :=
  ((s.objTab fn).objs.filter (fun o => decide (o.1 < 2 ^ 24) || s.objInUse fn (o.1 % 2 ^ 24) (o.1 / 2 ^ 24 - 1))).map (·.2)

/-- The lowest index that can be issued. -/
def ObjTab.freeIndex (t : ObjTab) (quota : Nat) : Option Nat :=
  (List.range (min quota (t.objs.length + t.retired.length + 1))).find? (fun i => (t.objs.get? i).isNone && !t.retired.contains i)

def alignUp (x n : Nat) : Nat := (x + n - 1) / n * n

/-- The lowest heap offset at which a size fits with an alignment among the ranges taken. -/
def placeObj (taken : List Obj) (ddr : Bool) (heap size align : Nat) : Option Nat :=
  let used := taken.filter (fun o => o.ddr == ddr)
  let cand := (0 :: used.map (fun o => alignUp (o.off + o.size) align)).filter (fun x =>
    decide (x + size ≤ heap) && used.all (fun o => decide (x + size ≤ o.off ∨ o.off + o.size ≤ x)))
  cand.foldl (fun b x => match b with
    | none => some x
    | some y => some (min x y)) none

/-- The local address of a byte of a tier's heap. -/
def Part.heapLocal (p : Part) (ddr : Bool) (x : Nat) : Nat :=
  if ddr then p.ddrLocal (p.ddrHeap.1 + x) else p.hbmLocal (p.hbmHeap.1 + x)

/-- Zero n bursts of an object's heap range, with its PART and GEN (R164). -/
def State.zeroHeap (s : State) (p : Part) (ddr : Bool) (part gen : Nat) : Nat → Nat → State
  | _, 0 => s
  | x, n + 1 => State.zeroHeap (s.writeObj (p.heapLocal ddr x) (List.replicate 64 0) part gen) p ddr part gen (x + 64) n

/-- A handle (R127). -/
def handleOf (part gen idx : Nat) : Nat := part * 2 ^ 38 + gen * 2 ^ 24 + idx

/-- Allocate for a context (R338): the handle and base, or the status of the failure, which changes nothing. -/
def State.alloc (s : State) (ctx size : Nat) (ddr : Bool) (alog : Nat) (zero : Bool) : Except Status (Nat × Nat × State) :=
  let c := s.ctx ctx
  match s.part c.fn with
  | none => .error alcNoSpace
  | some p =>
    let n := alignUp (max size 1) 256
    let (lim, ch) := if ddr then (c.ddrLim, c.ddrCh) else (c.hbmLim, c.hbmCh)
    if c.maxObj < c.objs + 1 ∨ lim < ch + n then .error alcLimit
    else
      let t := s.objTab c.fn
      match placeObj (s.heapUse c.fn) ddr (if ddr then p.ddrHeap.2 else p.hbmHeap.2) n (2 ^ max 8 alog), t.freeIndex p.objq with
      | some off, some idx =>
        let gen := t.gen idx
        let o : Obj := { ddr := ddr, off := off, size := n, owner := ctx, holders := [ctx] }
        let s := s.updObjTab c.fn (fun t => { t with objs := t.objs.put idx o, gens := t.gens.put idx gen })
        let s := s.updCtx ctx (fun c => { c with
          objs := c.objs + 1
          hbmCh := if ddr then c.hbmCh else c.hbmCh + n
          ddrCh := if ddr then c.ddrCh + n else c.ddrCh })
        let s := if ddr || zero then s.zeroHeap p ddr c.fn gen off (n / 64) else s
        .ok (handleOf c.fn gen idx, ((if ddr then c.heapDdr.toNat else c.heapHbm.toNat) + off) % 2 ^ 64, s.saveCtx ctx)
      | _, _ => .error alcNoSpace

/-- Check a handle for a function: the index and its object (R340). -/
def State.handle (s : State) (fn h : Nat) : Except Status (Nat × Obj) :=
  let idx := h % 2 ^ 24
  if field h 43 38 ≠ fn then .error alcForeignHandle
  else match (s.objTab fn).objs.get? idx with
    | some o => if h < 2 ^ 44 ∧ field h 37 24 = (s.objTab fn).gen idx then .ok (idx, o) else .error alcStaleHandle
    | none => .error alcStaleHandle

/-- Free an object at once: its generation advances, its holds go, its charge is credited; its range returns
when no command names it (R340, R341). An index at the last generation is retired (R337). -/
def State.freeObj (s : State) (fn idx : Nat) : State :=
  match (s.objTab fn).objs.get? idx with
  | none => s
  | some o =>
    let gen := (s.objTab fn).gen idx
    let s := s.updObjTab fn (fun t =>
      let objs := t.objs.del idx
      let objs := if s.objInUse fn idx gen then objs.put (limboKey idx gen) { o with holders := [] } else objs
      if gen = 0x3FFF then { t with objs := objs, retired := insSet t.retired idx }
      else { t with objs := objs, gens := t.gens.put idx (gen + 1) })
    if (s.ctx o.owner).st = .free ∨ (s.ctx o.owner).fn ≠ fn then s
    else (s.updCtx o.owner (fun c => { c with
      objs := c.objs - 1
      hbmCh := if o.ddr then c.hbmCh else c.hbmCh - o.size
      ddrCh := if o.ddr then c.ddrCh - o.size else c.ddrCh })).saveCtx o.owner

/-- Remove a context's hold; the last hold frees the object. Answers the holders left. -/
def State.dropHold (s : State) (fn idx ctx : Nat) : Nat × State :=
  match (s.objTab fn).objs.get? idx with
  | none => (0, s)
  | some o =>
    let hs := o.holders.filter (· != ctx)
    if hs.isEmpty then (0, s.freeObj fn idx)
    else (hs.length, s.updObjTab fn (fun t => { t with objs := t.objs.put idx { o with holders := hs } }))

/-- A destroyed context's holds are removed, and its charges belong to no context any more (R343). -/
def State.dropHolds (s : State) (ctx : Nat) : State :=
  let fn := (s.ctx ctx).fn
  let mine := ((s.objTab fn).objs.filter (fun o => o.1 < 2 ^ 24 && o.2.holders.contains ctx)).map (·.1)
  let s := mine.foldl (fun s i => (s.dropHold fn i ctx).2) s
  s.updObjTab fn (fun t => { t with objs := t.objs.map (fun o => if o.2.owner = ctx then (o.1, { o.2 with owner := 2 ^ 20 }) else o) })

/-- Give ready results to a thread's registers, to land later. -/
def State.result' (s : State) (core m : Nat) (d : List Reg) (vs : List Word) : State :=
  s.updSlot core (m / 16) (fun sl => sl.pendAll 0 (m % 16) d vs true)

/-- ALLOC: one object for each thread, in position order; a failure gives handle 0 and the status. -/
def execAlloc (i : Issue) (f : FormT) (s : State) : Host.Outcome State Fault Refusal :=
  let ra := (regs 2 f.sa).getD []
  let d := (regs 4 f.dst).getD []
  let alog := f.mod.toNat
  let e : Enc := { legal := decide (f.type.toNat ≤ 1) && decide (alog ≤ 30) && f.sb == 0 && f.sc == 0 && (regs 2 f.sa).isSome &&
                     (regs 4 f.dst).isSome
                   bound := ra.any Reg.isU || d.any Reg.isU, reads := ra }
  let ctx := s.slotCtx i
  done (.alloc i f) (s.issue i f.guard e (tWord 0x80 f) (fun s go on =>
    (on.foldl (fun t m =>
      let dm := if d.any Reg.isU && some m != on.head? then [] else d
      match t.alloc ctx (s.regsNat i.core m ra) (f.type == 1) alog false with
      | .ok (h, b, t') => t'.result' i.core m dm (wordsOfNat 4 (h + b * 2 ^ 64))
      | .error st => t.result' i.core m dm [0, 0, st.setWidth 32, 0]) s).nextPc i.core go))

/-- FREE each thread's object in position order; the first refused handle faults its context. -/
def State.freeAll (s : State) (core fn word : Nat) (ra : List Reg) : List Nat → State × Bool
  | [] => (s, true)
  | m :: r =>
    match s.handle fn (s.regsNat core m ra) with
    | .ok (idx, _) => State.freeAll (s.freeObj fn idx) core fn word ra r
    | .error st => (s.sheafFault core m st word 0, false)

def execFree (i : Issue) (f : FormT) (s : State) : Host.Outcome State Fault Refusal :=
  let ra := (regs 2 f.sa).getD []
  let e : Enc := { legal := bareT f && f.dst == 0 && (regs 2 f.sa).isSome, bound := ra.any Reg.isU, reads := ra }
  let fn := (s.ctx (s.slotCtx i)).fn
  done (.free i f) (s.issue i f.guard e (tWord 0x81 f) (fun s go on =>
    let (t, ok) := s.freeAll i.core fn (tWord 0x81 f) ra on
    if ok then t.nextPc i.core go else t))

/-! ## The hoard (R179 to R187) -/

def State.hoard (s : State) (fn : Nat) : Hoard := (s.fn fn).hoard
def State.updHoard (s : State) (fn : Nat) (f : Hoard → Hoard) : State := s.updFn fn (fun g => { g with hoard := f g.hoard })

/-- Granules of a block input (R181). -/
def granules (len : Nat) : Nat := (len + 4095) / 4096

/-- Granules in use in a region: 0 HBM, 1 DDR5. -/
def Hoard.use (h : Hoard) (region : Nat) : Nat :=
  (h.entries.filter (fun e => e.disp == region)).foldl (fun n e => n + granules e.len) 0

def HJob.idle : HJob := { step := 0, deep := none, exhaust := false, spilled := false }

def Hoard.find (h : Hoard) (job block : Nat) : Option HEntry := h.entries.find? (fun e => e.job == job && e.block == block)

/-- The oldest HBM-held entry: lowest block id, over all jobs (R182). -/
def Hoard.oldest (h : Hoard) : Option HEntry :=
  (h.entries.filter (fun e => e.disp == 0)).foldl (fun b e => match b with
    | none => some e
    | some x => if e.block < x.block then some e else b) none

/-- The highest HBM-held entry of a job whose id has the other parity than d (R183). -/
def Hoard.victim (h : Hoard) (job d : Nat) : Option HEntry :=
  (h.entries.filter (fun e => e.disp == 0 && e.job == job && e.block % 2 != d % 2)).foldl (fun b e => match b with
    | none => some e
    | some x => if e.block > x.block then some e else b) none

def Hoard.setDisp (h : Hoard) (x : HEntry) (disp : Nat) : Hoard :=
  { h with entries := h.entries.map (fun e => if e = x then (if disp = 2 then { e with disp := 2, data := [], husks := [] } else { e with disp := disp }) else e) }

/-- Write the disposition map's bytes through the default context's windows; where they do not reach, nothing
is written. -/
def State.mapWrite (s : State) (fn off : Nat) (bs : List Byte) : State :=
  match s.part fn with
  | some p =>
    if (s.hoard fn).mapEn then
      match s.ctxPieces p.ctxBase .w ((s.hoard fn).mapBase.toNat + off) bs.length with
      | some ps => s.writePieces ps bs
      | none => s
    else s
  | none => s

/-- Set a block's two bits in the map, for the job that the map describes (R186). -/
def State.mapPut (s : State) (fn job block disp : Nat) : State :=
  match s.part fn with
  | some p =>
    if (s.hoard fn).job ≠ job then s
    else match s.ctxPieces p.ctxBase .r ((s.hoard fn).mapBase.toNat + block / 4) 1 with
      | some ps =>
        let old := ofLe (s.readPieces ps)
        let sh := 2 * (block % 4)
        s.mapWrite fn (block / 4) [BitVec.ofNat 8 (old - field old (sh + 1) sh * 2 ^ sh + disp * 2 ^ sh)]
      | none => s
  | none => s

/-- The hoard's entry in the error log (R187): unit 0x0F, with the block id and the EXHAUST bit. -/
def State.hoardLog (s : State) (fn ctx : Nat) (st : Status) (block : Nat) (exhaust : Bool) : State :=
  s.record { Report.plain 0x0F st 0 (leBytes 2 block ++ leBytes 1 (if exhaust then 1 else 0)) with ctx := some ctx, fn := fn }

/-- Release every entry of a job for which `p` holds (R180). -/
def Hoard.release (h : Hoard) (p : HEntry → Bool) : Hoard := { h with entries := h.entries.filter (fun e => !p e) }

/-- A new step of a job releases its earlier entries; the map is rewritten as never put (R180, R186). -/
def State.hoardStep (s : State) (fn job step : Nat) : State :=
  let h := s.hoard fn
  let old := h.jobs.get? job
  let s := s.updHoard fn (fun h => { h with job := job, step := step })
  if (old.map (·.step)) = some step then s
  else
    (s.updHoard fn (fun h => { h.release (fun e => e.job == job) with
      jobs := h.jobs.put job { HJob.idle with step := step } })).mapWrite fn 0 (List.replicate 16384 0xFF)

/-- Spill the oldest HBM entries while the tier-2 region has room for them (R182, rule 3). -/
def State.spill (s : State) (fn ctx need hbm t2 : Nat) : Nat → State
  | 0 => s
  | fuel + 1 =>
    let h := s.hoard fn
    if h.use 0 + need ≤ hbm then s
    else match h.oldest with
      | some x =>
        if h.use 1 + granules x.len ≤ t2 then
          let s := (s.updHoard fn (fun h => h.setDisp x 1)).mapPut fn x.job x.block 1
          let j := h.jobs.getD x.job HJob.idle
          let s := if j.spilled then s
            else (s.updHoard fn (fun h => { h with jobs := h.jobs.put x.job { j with spilled := true } })).hoardLog fn ctx hrdSpilled x.block false
          State.spill s fn ctx need hbm t2 fuel
        else s
      | none => s

/-- Release HBM entries of the other parity, highest first, until a block fits (R183). -/
def State.shed (s : State) (fn job d need hbm : Nat) : Nat → State
  | 0 => s
  | fuel + 1 =>
    let h := s.hoard fn
    if h.use 0 + need ≤ hbm then s
    else match h.victim job d with
      | some x => State.shed ((s.mapPut fn x.job x.block 2).updHoard fn (fun h => h.setDisp x 2)) fn job d need hbm fuel
      | none => s

/-- Place a block that has not been put (R182, R183): the disposition. -/
def State.hoardPlace (s : State) (fn ctx job block need : Nat) : Nat × State :=
  match s.part fn with
  | none => (2, s)
  | some p =>
    let hbm := p.hbmGr
    let fits (s : State) : Bool := decide ((s.hoard fn).use 0 + need ≤ hbm)
    let keep (s : State) (d : Nat) : Nat × State :=
      if block % 2 ≠ d % 2 then (2, s)
      else
        let s := s.shed fn job d need hbm ((s.hoard fn).entries.length + 1)
        if fits s then (0, s)
        else (2, (s.updHoard fn (fun h => { h with
          jobs := h.jobs.upd job HJob.idle (fun j => { j with exhaust := true }) })).hoardLog fn ctx hrdDeepRecompute block true)
    if hbm < need then (2, s)
    else match ((s.hoard fn).jobs.getD job HJob.idle).deep with
      | some d => keep s d
      | none =>
        if fits s then (0, s)
        else
          let s := s.spill fn ctx need hbm p.t2Gr ((s.hoard fn).entries.length + 1)
          if fits s then (0, s)
          else if (s.hoard fn).deepen then
            keep ((s.updHoard fn (fun h => { h with
              jobs := h.jobs.upd job HJob.idle (fun j => { j with deep := some block }) })).hoardLog fn ctx hrdDeepRecompute block false) block
          else (2, s)

/-- Job and step under which a context puts and gets (R179, R180). -/
def State.hoardKey (s : State) (ctx : Nat) : Nat × Nat :=
  match s.jobOf ctx with
  | some (_, _, b) => (b.job, (s.seedOf ctx).2.toNat)
  | none => (0xFFFF, 0)

/-- HPUT of a block input whose range is reached by the pieces (R128, R182): the result word. -/
def State.hput (s : State) (ctx block len : Nat) (ps : List (Nat × Nat)) : Nat × State :=
  let fn := (s.ctx ctx).fn
  let (job, step) := s.hoardKey ctx
  let s := s.hoardStep fn job step
  match (s.hoard fn).find job block with
  | some x => (hrdDuplicate.toNat + x.disp * 2 ^ 16, s)
  | none =>
    let data := s.readPieces ps
    let bad := (List.range ((len + 15) / 16)).filter (fun k =>
      (ps.foldl (fun (acc : Nat × Bool) p =>
        (acc.1 + p.2, acc.2 || (s.husksIn p.1 p.2).any (fun w =>
          let lo := acc.1 + 16 * w
          decide (lo < p.1 + 16 * (k + 1) ∧ p.1 + 16 * k < lo + 16)))) (0, false)).2)
    let (disp, s) := s.hoardPlace fn ctx job block (granules len)
    let x : HEntry := { job := job, block := block, disp := disp, len := len, data := if disp = 2 then [] else data
                        husks := if disp = 2 then [] else bad }
    (disp * 2 ^ 16, (s.updHoard fn (fun h => { h with entries := h.entries ++ [x] })).mapPut fn job block disp)

/-- The highest kept block below an absent one (R184). -/
def Hoard.near (h : Hoard) (job block : Nat) : Nat :=
  (h.entries.filter (fun e => e.job == job && e.disp != 2 && decide (e.block < block))).foldl (fun b e =>
    if b = 0xFFFF ∨ b < e.block then e.block else b) 0xFFFF

/-- Write bytes over pieces, husked words as husks. -/
def State.writeHusked (s : State) (ps : List (Nat × Nat)) (bs : List Byte) (bad : List Nat) : State :=
  let t := s.writePieces ps bs
  (ps.foldl (fun (acc : Nat × State) p =>
    let hit := bad.filter (fun k => decide (acc.1 < 16 * (k + 1) ∧ 16 * k < acc.1 + p.2))
    (acc.1 + p.2, hit.foldl (fun t k => t.pokeHusk ((p.1 + (max (16 * k) acc.1 - acc.1)) / 16) true) acc.2)) (0, t)).2

/-- The first n bytes of some pieces. -/
def cutPieces : Nat → List (Nat × Nat) → List (Nat × Nat)
  | _, [] => []
  | n, (a, k) :: r => if n = 0 then [] else if n ≤ k then [(a, n)] else (a, k) :: cutPieces (n - k) r

/-- HGET of a block into a range reached by the pieces (R128, R184): the two result words. Register n + 1 is a
free value where the block is not absent. -/
def State.hget (s : State) (ctx block len : Nat) (ps : List (Nat × Nat)) : Nat × Word × State :=
  let fn := (s.ctx ctx).fn
  let (job, step) := s.hoardKey ctx
  let h := s.hoard fn
  let live := ((h.jobs.get? job).map (·.step)) = some step
  match (if live then h.find job block else none) with
  | none => let (v, s) := s.drawWord; (hrdNotFound.toNat, v, s)
  | some x =>
    if x.disp = 2 then (2 * 2 ^ 16, BitVec.ofNat 32 (h.near job block), s)
    else
      let (v, s) := s.drawWord
      if x.len > len then (hrdTooLong.toNat + x.disp * 2 ^ 16, v, s)
      else (x.disp * 2 ^ 16, v, s.writeHusked (cutPieces x.len ps) x.data x.husks)

/-- The operands of HPUT and HGET: block, address, length. -/
def State.hoardArgs (s : State) (core m : Nat) (ra rb rc : List Reg) : Nat × Nat × Nat :=
  (s.regsNat core m ra, s.regsNat core m rb, s.regsNat core m rc)

/-- Issue HPUT or HGET: checks of the block id, the length and the range, then the action, once. -/
def State.hoardIssue (s : State) (i : Issue) (f : FormT) (opc w : Nat) (k : Acc)
    (act : State → Nat → Nat → Nat → List (Nat × Nat) → Nat × State) : State :=
  let ra := (uregs 1 f.sa).getD []
  let rb := (uregs 2 f.sb).getD []
  let rc := (uregs 1 f.sc).getD []
  let d := (regs w f.dst).getD []
  let e : Enc := { legal := f.type == 0 && f.mod == 0 && (uregs 1 f.sa).isSome && (uregs 2 f.sb).isSome && (uregs 1 f.sc).isSome &&
                     (regs w f.dst).isSome
                   bound := true, reads := ra ++ rb ++ rc }
  let ctx := s.slotCtx i
  let word := tWord opc f
  s.issue i f.guard e word (fun s go on =>
    match on with
    | [] => s.nextPc i.core go
    | m :: _ =>
      let (block, addr, len) := s.hoardArgs i.core m ra rb rc
      if block ≥ 0xFFFF ∨ len % 32 ≠ 0 then s.sheafFault i.core m shfIllegalOp word addr
      else match s.ctxPieces ctx k addr len with
        | none => s.sheafFault i.core m shfWindowFault word addr
        | some ps =>
          let (v, t) := act s ctx block len ps
          ((writers d on).foldl (fun t n => t.result' i.core n d (wordsOfNat w v)) t).nextPc i.core go)

def execHput (i : Issue) (f : FormT) (s : State) : Host.Outcome State Fault Refusal :=
  done (.hput i f) (s.hoardIssue i f 0x90 1 .r (fun s ctx block len ps => s.hput ctx block len ps))

def execHget (i : Issue) (f : FormT) (s : State) : Host.Outcome State Fault Refusal :=
  done (.hget i f) (s.hoardIssue i f 0x91 2 .w (fun s ctx block len ps =>
    let (r, n, t) := s.hget ctx block len ps
    (r + n.toNat * 2 ^ 32, t)))

/-! ## Mailboxes (R132, R318, R320) -/

/-- Give a parked or issuing group its result: DST of each thread, landing later. -/
def State.mbxReply (s : State) (q : MbxPark) (st : Status) : State :=
  let d := [Reg.ofNat q.dst]
  (writers d (q.threads.map (fun t => 16 * q.slot + t))).foldl (fun s m => s.result' q.core m d [st.setWidth 32]) s

/-- Let a parked group go on after its instruction. -/
def State.mbxWake (s : State) (q : MbxPark) : State :=
  q.threads.foldl (fun s t => s.updThread q.core (16 * q.slot + t) (fun th => { th with st := .ready, pc := th.pc + 8 })) s

/-- A send that finds outbound GO clear: 16 words from the local store, then GO. -/
def State.mbxSend (s : State) (fn ch : Nat) (q : MbxPark) : State :=
  let ws := (List.range 16).map (fun k => (k, BitVec.ofNat 32 (s.lsNat q.core (q.off + 4 * k) 4)))
  (s.updMbx fn ch (fun m => { m with out := ws, outGo := true })).mbxReply q statusOk

/-- A receive that finds inbound GO set: 16 words to the local store, then GO clears. -/
def State.mbxRecv (s : State) (fn ch : Nat) (q : MbxPark) : State :=
  let bs := (List.range 16).flatMap (fun k => leBytes 4 ((s.mbx fn ch).inw.getD k 0).toNat)
  ((s.lsWrite q.core q.off bs).updMbx fn ch (fun m => { m with inGo := false })).mbxReply q statusOk

/-- Serve the first parked group of a channel whose condition now holds (R132). -/
def State.mbxServe (s : State) (fn ch : Nat) : State :=
  let m := s.mbx fn ch
  match m.parked.find? (fun q => if q.send then !m.outGo else m.inGo) with
  | none => s
  | some q =>
    let s := s.updMbx fn ch (fun m => { m with parked := m.parked.filter (· != q) })
    (if q.send then s.mbxSend fn ch q else s.mbxRecv fn ch q).mbxWake q

/-- Issue MSEND or MRECV, once for the group. -/
def State.mbxIssue (s : State) (i : Issue) (f : FormT) (opc : Nat) (send : Bool) : State :=
  let ra := (uregs 1 f.sa).getD []
  let rb := (uregs 1 f.sb).getD []
  let d := (regs 1 f.dst).getD []
  let e : Enc := { legal := f.type == 0 && f.sc == 0 && decide (f.mod.toNat < 2) && (uregs 1 f.sa).isSome && (uregs 1 f.sb).isSome &&
                     (regs 1 f.dst).isSome
                   bound := true, reads := ra ++ rb }
  let ctx := s.slotCtx i
  let fn := (s.ctx ctx).fn
  let word := tWord opc f
  s.issue i f.guard e word (fun s go on =>
    match on with
    | [] => s.nextPc i.core go
    | m :: _ =>
      let ch := s.regsNat i.core m ra
      let off := s.regsNat i.core m rb
      let b := s.mbx fn ch
      let q : MbxPark := { send := send, core := i.core, slot := m / 16, ctx := ctx, threads := on.map (· % 16), off := off
                           dst := (d.headD .zr).code, pc := (s.thread i.core m).pc, word := word }
      if ch ≥ 24 ∨ b.opened ≠ 2 then s.sheafFault i.core m mbnChannelInvalid word 0
      else if off % 64 ≠ 0 then s.sheafFault i.core m shfMisaligned word off
      else if !s.lsOk i.core ctx off 64 then s.sheafFault i.core m shfLsRange word off
      else if send && s.lsHusks i.core off 64 then (s.sheafFault i.core m memHuskConsumed word off).countHusk fn
      else if (if send then !b.outGo else b.inGo) then
        (if send then s.mbxSend fn ch q else s.mbxRecv fn ch q).nextPc i.core go
      else if f.mod.getLsbD 0 then (s.mbxReply q (if send then mbnBusy else mbnEmpty)).nextPc i.core go
      else
        let s := s.nextPc i.core (go.filter (fun m => !on.contains m))
        let s := on.foldl (fun s m => s.updThread i.core m (fun t => { t with st := .parkMbx })) s
        s.updMbx fn ch (fun b => { b with parked := b.parked ++ [q] }))

def execMsend (i : Issue) (f : FormT) (s : State) : Host.Outcome State Fault Refusal :=
  done (.msend i f) (s.mbxIssue i f 0xB0 true)

def execMrecv (i : Issue) (f : FormT) (s : State) : Host.Outcome State Fault Refusal :=
  done (.mrecv i f) (s.mbxIssue i f 0xB1 false)

end Sys2Proof.Machine
end

