-- ==== Sys2Proof/Machine/QueueOps.lean ====
section
/-! DEFINITION. Submission entries and completions (R313 to R318): the fields of an entry, starting, finishing,
retaining and posting it, its signal, and the error state of a queue. -/

namespace Sys2Proof.Machine

/-! ## Fields of an entry (R313) -/

/-- Bits hi:lo of an entry's header. -/
def QEntry.hdr (x : QEntry) (hi lo : Nat) : Nat := field x.bits.toNat hi lo

/-- Bits hi:lo of an entry's payload, which follows the 192 bits of the header. -/
def QEntry.pay (x : QEntry) (hi lo : Nat) : Nat := field x.bits.toNat (192 + hi) (192 + lo)

def QEntry.opc (x : QEntry) : Nat := x.hdr 7 0
def QEntry.sfirst (x : QEntry) : Bool := bitOf x.bits.toNat 12
def QEntry.conc (x : QEntry) : Bool := bitOf x.bits.toNat 13
def QEntry.waitEn (x : QEntry) : Bool := bitOf x.bits.toNat 14
def QEntry.sigEn (x : QEntry) : Bool := bitOf x.bits.toNat 15
def QEntry.ctx (x : QEntry) : Nat := x.hdr 40 21
def QEntry.cid (x : QEntry) : Nat := x.hdr 56 41
def QEntry.jobsl (x : QEntry) : Nat := x.hdr 61 57

def QEntry.isDone (x : QEntry) : Bool :=
  match x.st with
  | .done _ _ => true
  | _ => false

def State.entry (s : State) (e : EntryRef) : Option QEntry := (s.queue e.fn e.q).entries.find? (fun x => x.n == e.n)

/-- Entries of a queue's rings (R310). -/
def Queue.sqSize (q : Queue) : Nat := 2 ^ (field q.ctl.toNat 35 32 + 4)
def Queue.cqSize (q : Queue) : Nat := 2 ^ (field q.ctl.toNat 39 36 + 4)
def Queue.en (q : Queue) : Bool := q.ctl.getLsbD 0
def Queue.loc (q : Queue) : Bool := q.ctl.getLsbD 1

/-- An entry is executing or retained (HQ_STAT.RUN). -/
def Queue.run (q : Queue) : Bool := q.entries.any (fun (x : QEntry) => x.st != .waiting && !x.posted)

/-! ## Steps (R316) -/

/-- How far a step lies ahead of another, modulo 2^32; at or past 2^31 it lies behind (DESIGN CHOICE). -/
def stepAhead (t cur : Nat) : Nat := (t + 2 ^ 32 - cur % 2 ^ 32) % 2 ^ 32

def stepSealed (t cur : Nat) : Bool := decide (stepAhead t cur ≥ 2 ^ 31)

/-- Whether an entry is retained: its step is not sealed and its job is still loaded. -/
def State.retains (s : State) (fn : Nat) (x : QEntry) : Bool :=
  match x.jslot with
  | none => false
  | some j => match s.job fn j with
    | some b => !stepSealed x.step b.step
    | none => false

/-! ## The error state and vectors of a queue (R317, R318) -/

def State.queueError (s : State) (fn q : Nat) (st : Status) : State :=
  if (s.queue fn q).err then s
  else (s.updQueue fn q (fun q => { q with err := true, status := st })).fireVec fn (q + 1)

/-! ## Completions (R316), and the end of a queue (R311) -/

/-- Free the leading entries whose completions have been formed: SQHEAD advances. -/
def Queue.trim (q : Queue) : Queue :=
  let es := q.entries.dropWhile QEntry.posted
  let head := match es with
    | x :: _ => x.n
    | [] => q.fetched
  { q with entries := es, sqhead := head % q.sqSize }

/-- The completion of one execution of an entry. -/
def Queue.compl (q : Queue) (x : QEntry) (st : Status) (res : Word) : Compl :=
  { cid := BitVec.ofNat 16 x.cid, status := st, step := if x.jslot.isSome then BitVec.ofNat 32 x.step else 0, result := res
    attempt := BitVec.ofNat 8 (min x.attempt 255), sqhead := BitVec.ofNat 16 q.sqhead }

/-- The 128 bits of a completion entry. -/
def Compl.bytes (c : Compl) (phase : Bool) : List Byte :=
  leBytes 1 (if phase then 1 else 0) ++ leBytes 1 c.attempt.toNat ++ leBytes 2 c.cid.toNat ++ leBytes 2 c.status.toNat ++
    leBytes 2 c.sqhead.toNat ++ leBytes 4 c.step.toNat ++ leBytes 4 c.result.toNat

/-- The oldest formed completion of a queue is written when the ring has room: one slot stays empty (DEDUCED:
equal head and tail mean an empty ring). -/
def State.completionPost (s : State) (fn q : Nat) : State :=
  let x := s.queue fn q
  match x.posts with
  | [] => s
  | c :: rest =>
    let next := (x.cqtail + 1) % x.cqSize
    if !x.en || (s.fn fn).tearing || next == x.cqhead then s
    else
      let a := x.cqbase.toNat + 16 * x.cqtail
      if x.loc && !s.inPart fn a 16 then
        (s.updQueue fn q (fun x => { x with posts := rest })).queueError fn q hqRingFault
      else
        let s := s.ringWrite x.loc a (c.bytes x.phase)
        let s := s.updQueue fn q (fun x => { x with
          posts := rest, cqtail := next, phase := if next = 0 then !x.phase else x.phase, unsignalled := x.unsignalled + 1 })
        if statusClass c.status ≠ 0 ∨ max 1 (field x.mod.toNat 7 0) ≤ x.unsignalled + 1 then
          (s.updQueue fn q (fun x => { x with unsignalled := 0 })).fireVec fn (q + 1)
        else s

/-- Write the formed completions that the ring has room for. -/
def State.flushPosts (s : State) (fn q : Nat) : State :=
  (s.queue fn q).posts.foldl (fun s _ => s.completionPost fn q) s

/-- A disabled queue keeps its configuration; every entry that has posted nothing is dropped (R311). -/
def Queue.disable (q : Queue) : Queue :=
  { q with ctl := q.ctl &&& ~~~(1 : DWord), err := false, entries := [], posts := [], unsignalled := 0, closing := false }

/-- An executing entry. -/
def Queue.busy (q : Queue) : Bool := q.entries.any (fun (x : QEntry) => decide (x.st = .running) && !x.posted)

/-- A write of EN = 0 in the error state that waits for the executing entries takes effect once they have finished (R311). -/
def State.settleQueue (s : State) (fn q : Nat) : State :=
  let x := s.queue fn q
  if x.closing && x.err && !x.busy then (s.flushPosts fn q).updQueue fn q Queue.disable else s

/-- Form the final completions of the entries that `p` selects, in ring order; their slots become free. -/
def State.postAll (s : State) (fn q : Nat) (p : QEntry → Option (Status × Word)) : State :=
  (s.updQueue fn q (fun q =>
    let sel := q.entries.filter (fun x => !x.posted && (p x).isSome)
    let q := ({ q with entries := q.entries.map (fun (x : QEntry) => if !x.posted && (p x).isSome then { x with posted := true } else x) }).trim
    { q with posts := q.posts ++ sel.map (fun x => match p x with
        | some (st, res) => q.compl x st res
        | none => q.compl x 0 0) })).settleQueue fn q

/-- Post a finished entry, unless it is retained. -/
def State.conclude (s : State) (e : EntryRef) : State :=
  match s.entry e with
  | none => s
  | some x =>
    match x.st with
    | .done st res =>
      if x.signalled && !s.retains e.fn x then
        s.postAll e.fn e.q (fun y => if y.n = e.n then some (st, res) else none)
      else s
    | _ => s

/-- End an entry that has not run: it completes without a signal (R315, R451). -/
def State.endUnrun (s : State) (e : EntryRef) (st : Status) : State :=
  (s.updEntry e (fun x => { x with st := .done st 0, signalled := true })).conclude e

/-- End an entry at once whatever its step: it posts and is retained no longer. -/
def State.endNow (s : State) (e : EntryRef) (st : Status) : State :=
  (s.updEntry e (fun x => { x with st := .done st 0, signalled := true })).postAll e.fn e.q
    (fun y => if y.n = e.n then some (st, 0) else none)

/-- A command has been executed, with a status and a result. -/
def State.ran (s : State) (e : EntryRef) (st : Status) (res : Nat) : State :=
  s.updEntry e (fun x => { x with st := .done st (BitVec.ofNat 32 res) })

/-! ## Faults that the queue engine finds (R105, R315, R368) -/

/-- The queue engine's report on an entry: unit 0x11, the function, the command. -/
def queueReport (e : EntryRef) (x : QEntry) (st : Status) (detail : List Byte) : Report :=
  { Report.plain 0x11 st e.fn detail with ctx := some x.ctx, fn := e.fn, op := x.opc }

/-- An entry's context faults; the entry carries the context's first fault code (R106), or the fault itself where the
context has none. -/
def State.entryFault (s : State) (e : EntryRef) (x : QEntry) (rep : Report) : State :=
  let s := s.faultCtx x.ctx rep none
  let c := s.ctx x.ctx
  s.updEntry e (fun y => { y with st := .done (if c.st = .faulted then c.fault else rep.status) 0 })

/-! ## Starting an entry (R315, R316, R333) -/

/-- Whether a context may run: it is resident, or it is the default context of a partition whose resident share is 0
(R334). -/
def State.seated (s : State) (n : Nat) : Bool :=
  let c := s.ctx n
  c.resident || (match s.part c.fn with
    | some p => p.rshare == 0 && p.ctxBase == n
    | none => false)

/-- Commands that start whatever the residency of their context: CTXCREATE, CTXDESTROY and CTXRECOVER, and the
allocator commands and QUERY on a default context (R331, R334, R335). -/
def State.needsSlot (s : State) (fn : Nat) (x : QEntry) : Bool :=
  let dflt := match s.part fn with
    | some p => x.ctx == p.ctxBase
    | none => false
  !(x.opc == 0x10 || x.opc == 0x11 || x.opc == 0x12 || (dflt && decide (0x15 ≤ x.opc)))

/-- Whether the entry's predecessors allow it to start. -/
def Queue.turn (q : Queue) (x : QEntry) : Bool :=
  match (q.entries.filter (fun y => decide (y.n < x.n))).getLast? with
  | none => true
  | some y => y.signalled || (x.conc && y.st != .waiting)

/-- Whether the entry's job lets it run: its step is the current one, or the next under speculation, and the job
is neither held nor rewinding nor streams a checkpoint that its step would overwrite (R30, R316, R387). -/
def State.stepRuns (s : State) (fn : Nat) (x : QEntry) : Bool :=
  match x.jslot with
  | none => true
  | some j => match s.job fn j with
    | none => false
    | some b => (b.st == .running || b.st == .awaitSpare || b.st == .ridgeOverdue) && !b.rewinding &&
        !b.ckruns.any (fun (r : CkRun) => decide (x.step = (r.step + 2) % 2 ^ 32)) &&
        (stepSealed x.step b.step || decide (stepAhead x.step b.step ≤ (if b.spec then 1 else 0)))

/-- Why a context accepts no new work (R328). -/
def CtxSt.refusal : CtxSt → Option Status
  | .free => some ctxNotDefined
  | .defined => none
  | .faulted => some ctxFaulted
  | .destroying => some ctxDestroyed

/-- What stands in the way of an entry that is waiting to start. -/
inductive Gate where
  | stay
  | refuse (st : Status)
  | fault (st : Status)
  | go
deriving DecidableEq, Repr

/-- The wait of an entry on a spar (R315). -/
def State.waitGate (s : State) (x : QEntry) : Gate :=
  if !x.waitEn then .go
  else match s.translateSpar x.ctx (x.hdr 111 96) with
    | .error st => .fault st
    | .ok (p, _) =>
      if (s.spar p).aband then .refuse sprAbandoned
      else if x.hdr 191 128 ≤ (s.spar p).value.toNat then .go
      else .stay

/-- Whether an entry may start now. -/
def State.gate (s : State) (e : EntryRef) (x : QEntry) : Gate :=
  let q := s.queue e.fn e.q
  let c := s.ctx x.ctx
  let exempt := x.opc == 0x10 || x.opc == 0x12 || (x.opc == 0x1A && decide (c.st = .faulted))
  if x.st ≠ .waiting ∨ !q.en ∨ q.err ∨ (s.fn e.fn).tearing ∨ !(s.fn e.fn).ready ∨ !q.turn x ∨ !s.stepRuns e.fn x then .stay
  else if c.aborting then .stay
  else match (if exempt then none else c.st.refusal) with
    | some st => .refuse st
    | none =>
      if s.needsSlot e.fn x && !s.seated x.ctx then .stay else s.waitGate x

/-- Run a command whose opcode is `opc` if its entry may start. -/
def State.begin (s : State) (e : EntryRef) (opc : Nat) (act : State → QEntry → State) : State :=
  match s.entry e with
  | none => s
  | some x =>
    if x.opc ≠ opc then s
    else match s.gate e x with
      | .stay => s
      | .refuse st => s.endUnrun e st
      | .fault st =>
        let s := s.entryFault e x (queueReport e x st [])
        (s.updEntry e (fun y => { y with signalled := true })).conclude e
      | .go =>
        let s := (s.updEntry e (fun y => { y with st := .running })).tick
        act (s.updCtx x.ctx (fun c => if c.st = .free then c else { c with stamp := s.tab.stamp })) { x with st := .running }

/-! ## Finishing an entry (R315, R316) -/

/-- The signal of an entry that has run: 1 is added to SSPAR as SPADD adds it. -/
def State.signal (s : State) (e : EntryRef) (x : QEntry) : State :=
  if !x.sigEn then s
  else
    let bad (st : Status) : State := s.entryFault e x (queueReport e x st [])
    match s.translateSpar x.ctx (x.hdr 127 112) with
    | .error st => bad st
    | .ok (p, _) => match s.addSpar p 1 with
      | .ok (_, t) => t
      | .error st => bad st

/-- Whether a launch has ended: every sheaf has, and every sampled drain of its context on its cores has its
verdict (R314, R379). -/
def State.launchOver (s : State) (x : QEntry) : Bool :=
  let core0 := x.pay 191 172
  let n := x.pay 171 152 + 1
  decide (x.ended = n * (x.pay 151 150 + 1)) &&
    !s.grid.shadows.any (fun v => v.ctx == x.ctx && v.verdict.isNone && decide (core0 ≤ v.core ∧ v.core < core0 + n))

/-! ## COMPLETION_POST, MODTIME_EXPIRES (R316 to R318) -/

/-- COMPLETION_POST: the oldest formed completion goes to the ring. -/
def execCompletionPost (fn q : Nat) (s : State) : Host.Outcome State Fault Refusal :=
  done (.completionPost fn q) (s.completionPost fn q)

/-- MODTIME_EXPIRES: the vector fires for the completions not yet signalled; a MODTIME of 0 sets no time. -/
def execModtimeExpires (fn q : Nat) (s : State) : Host.Outcome State Fault Refusal :=
  let x := s.queue fn q
  done (.modtimeExpires fn q)
    (if x.unsignalled = 0 ∨ field x.mod.toNat 31 16 = 0 then s
     else (s.updQueue fn q (fun x => { x with unsignalled := 0 })).fireVec fn (q + 1))

end Sys2Proof.Machine
end

