-- ==== Sys2Proof/Machine/Sched.lean ====
section
/-! DEFINITION. Placing sheaves (R85, R314), swapping them out and back (R102, R103, R293, R333), and removing the
sheaves and gangs of stopped work (R83, R105, R316). -/

namespace Sys2Proof.Machine

/-! ## Launches (R314) -/

/-- Fields of a LAUNCH (R313). -/
def QEntry.lEntry (x : QEntry) : Nat := x.pay 319 256
def QEntry.lArg (x : QEntry) : Nat := x.pay 255 192
def QEntry.lCore0 (x : QEntry) : Nat := x.pay 191 172
def QEntry.lCores (x : QEntry) : Nat := x.pay 171 152 + 1
def QEntry.lPer (x : QEntry) : Nat := x.pay 151 150 + 1
def QEntry.lBase (x : QEntry) : Nat := x.pay 149 143
def QEntry.lSize (x : QEntry) : Nat := x.pay 142 136

/-- Sheaves of a context that take a block of its wait list: placed or swapped out. -/
def State.blocksOf (s : State) (ctx : Nat) : List Nat :=
  (s.grid.cores.flatMap (fun c => (c.2.slots.filter (fun x => x.2.ctx == ctx)).map (fun x => x.2.block))) ++
    (s.ctx ctx).saved.map (fun v => v.slot.block)

/-- The lowest free block of a context's wait list, if it may place one more sheaf (MAXSHF, R330). -/
def State.freeBlock (s : State) (ctx : Nat) : Option Nat :=
  let used := s.blocksOf ctx
  (List.range (min (s.ctx ctx).maxShf (used.length + 1))).find? (fun b => !used.contains b)

/-- Whether a launch still has a sheaf to place on a core. -/
def QEntry.toPlace (x : QEntry) (core : Nat) : Bool :=
  x.opc == 0x01 && decide (x.st = .running) && decide (x.lCore0 ≤ core ∧ core < x.lCore0 + x.lCores) &&
    decide (x.placed.getD core 0 < x.lPer)

/-- Whether a row shift withholds a launch from a tract (R23): every launch while the shift is due, and before that
those of later steps of the job. -/
def State.withheld (s : State) (fn tract : Nat) (x : QEntry) : Bool :=
  s.grid.retires.any (fun r => r.tract == tract &&
    (r.due || r.shifting || (r.fn == fn && decide (r.jslot = x.jslot) &&
      (match x.jslot with
       | some j => match s.job fn j with
         | some b => x.step != b.step
         | none => false
       | none => false))))

/-- The state in which a sheaf starts (R85). -/
def newSlot (e : EntryRef) (x : QEntry) (core slot index block : Nat) : Slot :=
  { ctx := x.ctx
    threads := (List.range 16).map (fun t => (t,
      { Thread.idle with g := [(0, BitVec.ofNat 32 t)], pc := BitVec.ofNat 64 x.lEntry }))
    u := [(0, BitVec.ofNat 32 x.lArg), (1, BitVec.ofNat 32 (x.lArg / 2 ^ 32)), (2, BitVec.ofNat 32 index),
          (3, BitVec.ofNat 32 core), (4, BitVec.ofNat 32 slot)]
    barId := 0, barMask := 0, openFeed := none, pend := [], launch := some e, index := index, block := block }

/-- A course with work wakes if its fast clock stands still (R398). -/
def State.wakeCourse (s : State) (course : Nat) : State :=
  s.updCourse course (fun c => { c with waking := decide (c.power = .standby ∨ c.power = .off) || c.waking })

def State.freeSlotOf (s : State) (core : Nat) : Option Nat := [0, 1, 2, 3].find? (fun k => (s.slot core k).isNone)

/-- SHEAF_PLACE: the next sheaf of a running launch is placed in a free slot of a core (R85, R87, R146, R314). -/
def State.sheafPlace (s : State) (e : EntryRef) (core : Nat) : State :=
  match s.entry e with
  | none => s
  | some x =>
    if !x.toPlace core || !s.ctxRuns x.ctx || !s.seated x.ctx || s.withheld e.fn (tractOfCore core) x then s
    else if (s.course (courseOfCore core)).power ≠ .run then s.wakeCourse (courseOfCore core)
    else match s.freeSlotOf core, s.freeBlock x.ctx with
      | some k, some b =>
        let p := x.placed.getD core 0
        let sl := newSlot e x core k (x.lPer * (core - x.lCore0) + p) b
        let s := if p = 0 then s.dropClean core else s
        let s := s.updCore core (fun c => { c with
          slots := c.slots.put k sl
          lsWin := if (c.lsWin.get? x.ctx).isSome then c.lsWin else c.lsWin.put x.ctx (x.lBase, x.lSize) })
        s.updEntry e (fun y => { y with placed := y.placed.put core (p + 1) })
      | _, _ => s

def execSheafPlace (e : EntryRef) (core : Nat) (s : State) : Host.Outcome State Fault Refusal :=
  done (.sheafPlace e core) (s.sheafPlace e core)

/-! ## Swapping (R102, R103) -/

/-- Thread state codes (R84). -/
def TState.code : TState → Nat
  | .ready => 0
  | .waitData => 1
  | .parkBar => 2
  | .parkWhole => 3
  | .parkSpar => 4
  | .parkMbx => 5
  | .exited => 6

/-- A thread whose wait-list entry holds a parked wait or a token. -/
def Thread.waits? (t : Thread) : Bool :=
  t.token.isSome || (match t.wait with
    | some w => w.code == 1
    | none => false)

/-- The 2,304 bytes of a save area (R102). -/
def saveArea (sl : Slot) : List Byte :=
  let ts := (List.range 16).map sl.thread
  let mask := (List.range 16).foldl (fun m t => if (sl.thread t).waits? then m + 2 ^ t else m) 0
  ts.flatMap (fun t => (List.range 32).flatMap (fun n => leBytes 4 (t.g.getD n 0).toNat)) ++
    ts.flatMap (fun t => leBytes 8 t.pc.toNat) ++ (List.range 16).flatMap (fun n => leBytes 4 (sl.u.getD n 0).toNat) ++
    ts.map (fun t => t.p) ++ ts.map (fun t => BitVec.ofNat 8 t.st.code) ++ leBytes 4 sl.ctx ++
    leBytes 4 (sl.barId + sl.barMask * 2 ^ 16) ++ leBytes 4 sl.block ++ leBytes 4 mask ++ leBytes 16 0

/-- Let the spars name a sheaf's threads where they now are. -/
def State.moveWaiters (s : State) (f : Waiter → Waiter) : State :=
  { s with tab := { s.tab with spars := s.tab.spars.map (fun x =>
      (x.1, { x.2 with waiters := x.2.waiters.map f, tokens := x.2.tokens.map f })) } }

def Slot.parked (sl : Slot) : Bool :=
  sl.pend.isEmpty && (List.range 16).any (fun t => (sl.thread t).st == .parkSpar) &&
    (List.range 16).all (fun t => (sl.thread t).st == .exited || ((sl.thread t).st == .parkSpar && (sl.thread t).waits?))

/-- A swapped sheaf of a core that can go on: a wait of it has been satisfied or released. -/
def Saved.resumable (v : Saved) : Bool := (List.range 16).any (fun t => (v.slot.thread t).st == .ready)

/-- Sheaves swapped out of a core, as context and sheaf. -/
def State.savedOn (s : State) (core : Nat) : List (Nat × Saved) :=
  s.tab.ctxs.flatMap (fun c => (c.2.saved.filter (fun v => v.core == core)).map (fun v => (c.1, v)))

/-- Whether the queue engine holds a sheaf for a core: one of a running launch, one that can be restored, or one of
a launch whose context waits for residency (R102, R334). -/
def State.sheafReady (s : State) (core : Nat) : Bool :=
  (s.savedOn core).any (fun v => v.2.resumable) ||
    s.fns.any (fun f => f.2.queues.any (fun q => q.2.entries.any (fun (x : QEntry) =>
      x.toPlace core || (x.opc == 0x01 && decide (x.st = .waiting) && !s.seated x.ctx &&
        decide (x.lCore0 ≤ core ∧ core < x.lCore0 + x.lCores)))))

/-- SHEAF_SWAP_OUT: a swappable slot is saved (DESIGN CHOICE: in the save area with the number of its wait-list
block). -/
def State.swapOut (s : State) (core slot : Nat) : State :=
  match s.slot core slot with
  | none => s
  | some sl =>
    if !sl.parked || !s.sheafReady core || !s.ctxRuns sl.ctx then s
    else
      let area := sl.block
      let s := s.writeBytes ((s.ctx sl.ctx).save + 2304 * area) (saveArea sl)
      let v : Saved := { core := core, area := area, slot := sl }
      let s := s.updCtx sl.ctx (fun c => { c with saved := c.saved ++ [v] })
      let s := s.updCore core (fun c => { c with slots := c.slots.del slot })
      s.moveWaiters (fun w => match w with
        | .thread c k t => if c = core ∧ k = slot then .saved sl.ctx area t else w
        | _ => w)

def execSheafSwapOut (core slot : Nat) (s : State) : Host.Outcome State Fault Refusal :=
  done (.sheafSwapOut core slot) (s.swapOut core slot)

/-- SHEAF_RESTORE: the n-th sheaf swapped out of a core is placed again on a free slot of it. -/
def State.sheafRestore (s : State) (core n : Nat) : State :=
  match (s.savedOn core)[n]? with
  | none => s
  | some (ctx, v) =>
    if !v.resumable || !s.ctxRuns ctx || !s.seated ctx then s
    else if (s.course (courseOfCore core)).power ≠ .run then s.wakeCourse (courseOfCore core)
    else match s.freeSlotOf core with
      | none => s
      | some k =>
        let s := s.updCtx ctx (fun c => { c with saved := c.saved.filter (fun u => u.area != v.area) })
        let s := s.updCore core (fun c => { c with slots := c.slots.put k v.slot })
        s.moveWaiters (fun w => match w with
          | .saved c a t => if c = ctx ∧ a = v.area then .thread core k t else w
          | _ => w)

def execSheafRestore (core n : Nat) (s : State) : Host.Outcome State Fault Refusal :=
  done (.sheafRestore core n) (s.sheafRestore core n)

/-! ## Stopping work (R83, R105, R316) -/

/-- Requests that a removed sheaf leaves on their way belong to no slot any more. -/
def orphanReq (core slot : Nat) (r : MemReq) : MemReq := if r.core = core ∧ r.slot = slot then { r with slot := 4 } else r

/-- Detach the requests of a slot: accesses complete without a result, waits and reads of spars are dropped. -/
def State.orphan (s : State) (core slot : Nat) : State :=
  let f := orphanReq core slot
  let s := { s with mem := { s.mem with
    reqs := s.mem.reqs.map f, retries := s.mem.retries.map f, misses := s.mem.misses.map (fun (m : Nat × List MemReq) => (m.1, m.2.map f)) } }
  let s := { s with fab := { s.fab with remotes := s.fab.remotes.map (fun (e : Remote) => match e.why with
    | .thread r => { e with why := .thread (f r) }
    | _ => e) } }
  { s with tab := { s.tab with spars := s.tab.spars.map (fun (x : Nat × Spar) => (x.1, { x.2 with
      ops := x.2.ops.filterMap (fun (o : SparOp) =>
        if o.core = core ∧ o.slot = slot then
          (match o.act with
           | .add _ => some { o with slot := 4 }
           | _ => none)
        else some o) })) } }

/-- Withdraw the waits of a sheaf's threads; its tokens count as departures (R295). -/
def State.withdrawSheaf (s : State) (ws : List Waiter) : State :=
  let hit := (s.tab.spars.filter (fun x => (x.2.waiters ++ x.2.tokens).any (fun w => ws.contains w))).map (·.1)
  hit.foldl (fun s p =>
    let gone := (s.spar p).tokens.filter (fun w => ws.contains w)
    let s := s.updSpar p (fun x => { x with waiters := x.waiters.filter (fun w => !ws.contains w) })
    if gone.isEmpty then s else (gone.foldl (fun s w => s.depart p w) s).afterOp p) s

/-- Clear the wait-list entries of a block. -/
def State.clearBlock (s : State) (ctx block : Nat) : State :=
  s.writeBytes ((s.ctx ctx).waitList + 512 * block) (List.replicate 512 0)

/-- Remove the parked mailbox groups of a slot: a send not yet accepted is withdrawn (R322). -/
def State.unparkMbx (s : State) (core slot : Nat) : State :=
  { s with fns := s.fns.map (fun f => (f.1, { f.2 with mbx := f.2.mbx.map (fun m =>
      (m.1, { m.2 with parked := m.2.parked.filter (fun q => !(q.core == core && q.slot == slot)) })) })) }

/-- Remove a sheaf from its slot (R105). -/
def State.dropSheaf (s : State) (core slot : Nat) : State :=
  match s.slot core slot with
  | none => s
  | some sl =>
    let s := s.withdrawSheaf ((List.range 16).map (fun t => .thread core slot t))
    let s := (s.clearBlock sl.ctx sl.block).unparkMbx core slot
    let s := (s.orphan core slot).freeSlot core slot sl.ctx
    if s.launchOn sl.launch sl.ctx core then s else s.flushNear core

/-- Remove a swapped sheaf. -/
def State.dropSaved (s : State) (ctx : Nat) (v : Saved) : State :=
  let s := s.withdrawSheaf ((List.range 16).map (fun t => .saved ctx v.area t))
  let s := (s.clearBlock ctx v.slot.block).updCtx ctx (fun c => { c with saved := c.saved.filter (fun u => u.area != v.area) })
  if s.onCore ctx v.core then s else s.updCore v.core (fun c => { c with lsWin := c.lsWin.del ctx })

/-- The resident sheaves that `p` selects, as core and slot. -/
def State.slotsWhere (s : State) (p : Slot → Bool) : List (Nat × Nat) :=
  s.grid.cores.flatMap (fun c => (c.2.slots.filter (fun x => p x.2)).map (fun x => (c.1, x.1)))

/-- Remove every sheaf that `p` selects, resident or swapped out. -/
def State.dropSheaves (s : State) (p : Slot → Bool) : State :=
  let s := (s.slotsWhere p).foldl (fun s x => s.dropSheaf x.1 x.2) s
  (s.tab.ctxs.flatMap (fun c => (c.2.saved.filter (fun v => p v.slot)).map (fun v => (c.1, v)))).foldl
    (fun s v => s.dropSaved v.1 v.2) s

/-- Clear and unbind a gang: its feeds, drains and accumulators are gone (R83). -/
def State.clearGang (s : State) (gid : Nat) : State :=
  let s := { s with grid := { s.grid with
    gangs := s.grid.gangs.del gid, streams := s.grid.streams.filter (fun t => t.gang != gid) } }
  s.updCourse (courseOfCore gid) (fun c => { c with queue := c.queue.filter (fun q => q.gang != gid) })

/-- Clear every gang bound to a context, and drop its reshape requests that have not started. -/
def State.clearGangs (s : State) (ctx : Nat) : State :=
  let gs := (s.grid.gangs.filter (fun g => g.2.ctx == some ctx)).map (·.1)
  let s := gs.foldl (fun s g => s.clearGang g) s
  { s with grid := { s.grid with reshapes := s.grid.reshapes.filter (fun r => r.running || !(r.sheaf && r.ctx == ctx)) } }

end Sys2Proof.Machine
end

