-- ==== Sys2Proof/Machine/Jobs.lean ====
section
/-! DEFINITION. What gutters and update engines share: members and rings (R216 to R218), gutter messages (R225,
R226, R235, R239), receiving a message (R275, R277), and operations of agents on spars (R285, R296). -/

namespace Sys2Proof.Machine

/-! ## Members (R216, R217) -/

def Member.active (m : Member) : Bool := !m.spare && !m.expelled

def Member.idle : Member :=
  { first := 0, nchunk := 0, devid := 0, group := 0, ridx := 0, spare := true, expelled := false }

def Job.member (b : Job) (i : Nat) : Member := (b.members[i]?).getD Member.idle
def Job.me (b : Job) : Member := b.member b.myidx

/-- Member numbers paired with their entries. -/
def Job.numbered (b : Job) : List (Nat × Member) := (List.range b.members.length).map (fun i => (i, b.member i))

/-- The member of a group with a replica index. -/
def Job.replica (b : Job) (g r : Nat) : Option (Nat × Member) :=
  b.numbered.find? (fun m => m.2.active && m.2.group == g && m.2.ridx == r)

/-- Replicas of a group. -/
def Job.size (b : Job) (g : Nat) : Nat := (b.members.filter (fun m => m.active && m.group == g)).length

/-- The first chunk of a group's range. -/
def Job.groupFirst (b : Job) (g : Nat) : Nat :=
  ((b.members.filter (fun m => m.group == g && !m.spare && decide (0 < m.nchunk))).map (·.first)).foldl min (2 ^ 40)

/-- Chunks of a group's range. -/
def Job.groupCount (b : Job) (g : Nat) : Nat :=
  let f := b.groupFirst g
  (b.members.filter (fun m => m.group == g && !m.spare)).foldl (fun n m => max n (m.first + m.nchunk - f)) 0

/-- The owner of a chunk in a group. -/
def Job.owner (b : Job) (g c : Nat) : Option (Nat × Member) :=
  b.numbered.find? (fun m => m.2.active && m.2.group == g && decide (m.2.first ≤ c ∧ c < m.2.first + m.2.nchunk))

/-- The next replica of this member's group. -/
def Job.next (b : Job) : Option (Nat × Member) :=
  if b.size b.me.group ≤ 1 then none else b.replica b.me.group ((b.me.ridx + 1) % b.size b.me.group)

/-- Whether a chunk lies in a FROZEN region (R190). -/
def Job.frozen (b : Job) (c : Nat) : Bool :=
  b.roles.any (fun r => r.frozen && decide (r.first ≤ c ∧ c < r.first + r.nchunk))

/-- The update entry of a chunk, with its index. -/
def Job.updOf (b : Job) (c : Nat) : Option (Nat × UpdEntry) :=
  ((List.range b.upd.length).zip b.upd).find? (fun e => decide (e.2.first ≤ c ∧ c < e.2.first + e.2.nchunk))

/-- The ring of a chunk (R218). -/
def Job.ringOf (b : Job) (c : Nat) : Nat := (c - b.groupFirst b.me.group) % b.nring

/-- Groups in ascending order. -/
def Job.groups (b : Job) : List Nat := b.members.foldl (fun l m => if m.active then insSet l m.group else l) []

/-- The port that names a job in records: the first that its rings use. -/
def Job.port0 (b : Job) : Nat := (setBits 64 b.portmask.toNat).headD 0

/-- A record of the gutter about a job. -/
def Job.report (b : Job) (fn j : Nat) (st : Status) (detail : List Byte) : Report :=
  { Report.plain 0x09 st b.port0 detail with job := some (fn, j), fn := fn }

/-! ## Gutter messages (R225, R226) -/

/-- The gutter message header. -/
structure GHdr where
  type : Nat
  job : Nat
  gen : Nat
  step : Nat
  chunk : Nat
  start : Nat
  hops : Nat
  ring : Nat
  ovf : Bool
  dig : Bool
  seq : Nat
  cause : Nat
  blk : Nat
  mask : Nat
deriving DecidableEq, Repr

def gHdrOf (m : Msg) : GHdr :=
  let w (i : Nat) : Nat := match m.words[i]? with
    | some c => c.data.toNat
    | none => 0
  let v := w 0 + w 1 * 2 ^ 128
  { type := field v 7 0, job := field v 23 8, gen := field v 31 24, step := field v 63 32, chunk := field v 103 64
    start := field v 119 104, hops := field v 135 120, ring := field v 141 136, ovf := bitOf v 142, dig := bitOf v 143
    seq := field v 159 144, cause := field v 175 160, blk := field v 191 176, mask := field v 255 192 }

def GHdr.bits (h : GHdr) : Nat :=
  h.type + h.job * 2 ^ 8 + h.gen * 2 ^ 24 + h.step * 2 ^ 32 + h.chunk * 2 ^ 64 + h.start * 2 ^ 104 + h.hops * 2 ^ 120 +
  h.ring * 2 ^ 136 + (if h.ovf then 2 ^ 142 else 0) + (if h.dig then 2 ^ 143 else 0) + h.seq * 2 ^ 144 + h.cause * 2 ^ 160 +
  h.blk * 2 ^ 176 + h.mask * 2 ^ 192

def cleanWord (v : Nat) : CodeWord := ⟨BitVec.ofNat 128 v, .clean⟩

/-- 16-byte code words of a byte string; word k is a husk where `bad` says so. -/
def codeWords (bs : List Byte) (bad : Nat → Bool) : List CodeWord :=
  ((List.range ((bs.length + 15) / 16)).zip (chunksOf 16 bs.length bs)).map (fun w =>
    ⟨BitVec.ofNat 128 (ofLe w.2), if bad w.1 then .husk else .clean⟩)

/-- A code word as it is used: an uncorrectable word counts as a husk (R168). -/
def CodeWord.isHusk (c : CodeWord) : Bool :=
  match c.st with
  | .husk => true
  | .bad _ => true
  | _ => false

/-- The data bytes of code words. -/
def wordBytes (ws : List CodeWord) : List Byte := ws.flatMap (fun c => leBytes 16 c.data.toNat)

/-- The body of a gutter message. -/
def msgBody (m : Msg) : List CodeWord := m.words.drop 2

/-- A gutter message to a device. Its tag is the job's id, so that a NAK of it names the job (DESIGN CHOICE). -/
def gutterMsg (dst : BitVec 16) (h : GHdr) (body : List CodeWord) : Msg :=
  { emptyMsg with
    dstdev := dst, tag := BitVec.ofNat 16 h.job, op := 0x20, cls := if h.type ≤ 5 then 2 else 3, len := BitVec.ofNat 9 (2 + body.length)
    words := [cleanWord h.bits, cleanWord (h.bits / 2 ^ 128)] ++ body }

/-- One record for each job, attempt and wire code of a refusal of a gutter message (R275). -/
def State.nakNote (s : State) (fn j port : Nat) (src : BitVec 16) (wire : Nat) : State :=
  match s.job fn j with
  | none => s
  | some b =>
    if b.nakSeen.contains wire then s
    else
      let p := s.port port
      (s.updJob fn j (fun b => { b with nakSeen := insSet b.nakSeen wire })).record
        { Report.plain 0x0A (nakStatus wire) port
            (leBytes 4 0 ++ leBytes 4 0 ++ leBytes 8 0 ++ leBytes 2 src.toNat ++ leBytes 2 p.peerDev.toNat ++ leBytes 1 p.vcnt)
          with job := some (fn, j), fn := fn }

/-- Send a gutter message for a job: on its ring's port while that port carries messages, else by the route
table (R218, R265, R266). -/
def State.gutterSend (s : State) (fn j : Nat) (b : Job) (ring : Option Nat) (dest : Member) (h : GHdr) (body : List CodeWord) : State :=
  let m := { gutterMsg dest.devid h body with srcdev := s.fab.devid, ttl := s.ttl }
  let first := match ring with
    | some r => (setBits 64 b.portmask.toNat)[r]?
    | none => none
  let out := match first with
    | some p => if (s.port p).st.carries then some p else s.route 0 m.dstdev.toNat s.fab.devid.toNat (some fn)
    | none => s.route 0 m.dstdev.toNat s.fab.devid.toNat (some fn)
  match out with
  | some p => s.sendOn p m
  | none => s.nakNote fn j 0 s.fab.devid 8

/-- Where a ridge, void or join goes on from this member: around its group, and from replica 0 to the next group's
replica 0 (R239). It comes back to its origin, which has seen it. -/
def Job.onward (b : Job) : List Member :=
  let round := match b.next with
    | some (_, m) => [m]
    | none => []
  let gs := b.groups
  let across :=
    if b.me.ridx ≠ 0 ∨ gs.length ≤ 1 then []
    else
      let g := match gs.find? (fun g => decide (b.me.group < g)) with
        | some g => g
        | none => gs.headD 0
      match b.replica g 0 with
      | some (_, m) => [m]
      | none => []
  round ++ across

/-- Send a ridge, void or join on its way; the member has seen it from then on (R239). -/
def State.spread (s : State) (fn j : Nat) (b : Job) (h : GHdr) (body : List CodeWord) : State :=
  b.onward.foldl (fun s m => s.gutterSend fn j b none m h body)
    (s.updJob fn j (fun b => { b with seenMsgs := b.seenMsgs ++ [(h.type, h.start, h.step, h.gen)] }))

/-- The header of a message that this member sends for its current attempt. -/
def Job.hdr0 (b : Job) (type : Nat) : GHdr :=
  { type := type, job := b.job, gen := b.gen, step := b.step, chunk := 0, start := b.myidx, hops := 0, ring := 0, ovf := false
    dig := false, seq := 0, cause := 0, blk := 0, mask := 0 }

/-! ## Receiving a message (R274, R275, R277) -/

/-- The loaded job with an id: function, slot and job. -/
def State.jobById (s : State) (id : Nat) : Option (Nat × Nat × Job) :=
  (s.fns.flatMap (fun f => f.2.jobs.map (fun j => (f.1, j.1, j.2)))).find? (fun x => x.2.2.job == id)

/-- The outstanding request that a response, return or NAK answers, by its tag and target device (R274). -/
def State.remoteOf (s : State) (m : Msg) : Option Remote :=
  s.fab.remotes.find? (fun e => e.tag % 65536 == m.tag.toNat && e.dev == m.srcdev)

/-- The function whose partition a message's data belongs to (R171). -/
def State.msgFn (s : State) (m : Msg) : Option Nat :=
  if m.op = 0x20 then (s.jobById (gHdrOf m).job).map (·.1)
  else if m.op.toNat ≤ 4 then s.ownerOfAddr (m.addr.toNat % 2 ^ 46)
  else match s.remoteOf m with
    | some { why := .thread r, .. } => some (s.ctx r.ctx).fn
    | some { why := .stream id _, .. } => (s.grid.streams.find? (fun t => t.id == id)).map (fun t => (s.ctx t.ctx).fn)
    | some { why := .buddy fn _, .. } => some fn
    | some _ => some 0
    | none => none

/-- A message whose data words its destination has decoded: single symbols corrected, uncorrectable words husks (R166,
R167). -/
def decodedMsg (m : Msg) : Msg :=
  { m with words := m.words.map (fun (c : CodeWord) => match c.st with
      | .clean => c
      | .single => { c with st := .clean }
      | _ => { c with st := .husk }) }

/-- Take a delivered message out of the port's inbox: its destination decodes it and counts what it corrects and what
it finds uncorrectable (R166, R171, R280). -/
def State.take (s : State) (port : Nat) (m : Msg) : State :=
  let s := { s with fab := { s.fab with inbox := s.fab.inbox.erase (port, m) } }
  let one := (m.words.filter (fun (c : CodeWord) => match c.st with | .single => true | _ => false)).length
  let bad := (m.words.filter (fun (c : CodeWord) => match c.st with | .bad _ => true | _ => false)).length
  if one + bad = 0 then s
  else match s.msgFn m with
    | some n => s.updFn n (fun g => { g with corr := sat 32 (g.corr + one), uncorr := sat 16 (g.uncorr + bad) })
    | none => s

/-- Whether OP, CLASS and LEN of a route header agree with the table of operations. -/
def opLegal (m : Msg) : Bool :=
  let n := m.len.toNat
  match m.op.toNat with
  | 0x01 => m.cls == 0 && n == 0
  | 0x02 => m.cls == 0 && decide (1 ≤ n ∧ n ≤ 8)
  | 0x03 | 0x04 => m.cls == 0 && n == 1
  | 0x11 => m.cls == 1 && decide (1 ≤ n ∧ n ≤ 8)
  | 0x12 => m.cls == 1 && n == 0
  | 0x13 | 0x14 => m.cls == 1 && n == 1
  | 0x20 => (m.cls == 2 || m.cls == 3) && decide (2 ≤ n ∧ n ≤ 262)
  | 0x30 => (m.cls == 1 || m.cls == 3) && n == 2
  | _ => false

/-- The checks of a route header that every device makes. -/
def hdrLegal (m : Msg) : Bool :=
  opLegal m && !m.rsv && decide (m.words.length = m.len.toNat) &&
    (decide (m.op.toNat = 0 ∨ 4 < m.op.toNat) ||
      (decide (field m.addr.toNat 63 62 = 1) && decide (field m.addr.toNat 61 46 = m.dstdev.toNat)))

/-- A quarantined port discards what it receives, and answers at most once per millisecond (25,000 ticks). -/
def State.quarantined (s : State) (port : Nat) (m : Msg) : State :=
  let due := match (s.port port).lastNakTime with
    | none => true
    | some t => decide (t.toNat + 25000 ≤ s.pwr.time.toNat)
  if due then (s.updPort port (fun p => { p with lastNakTime := some s.pwr.time })).violate port m 9 else s

/-- A message reaches a unit of this device on a port: a quarantined port discards it, and a header that fails its
checks is a violation. `op` is the operation that the command serves. -/
def State.receive (s : State) (port : Nat) (m : Msg) (op : Nat) (act : State → State) : State :=
  let p := s.port port
  if m.dstdev ≠ s.fab.devid ∨ (!p.st.carries ∧ p.st ≠ .quarantined) then s
  else if p.st = .quarantined then (s.take port m).quarantined port m
  else if !hdrLegal m then (s.take port m).violate port m 4
  else if m.op.toNat ≠ op then s
  else act s

/-- Whether a gutter header is malformed (R226, R275): a reserved type, a class that is not the type's, or a body
shorter than the type's. -/
def gutterBad (m : Msg) : Bool :=
  let h := gHdrOf m
  let n := (msgBody m).length
  (h.type == 0 || decide (8 < h.type)) || (m.cls != (if h.type ≤ 5 then 2 else 3)) ||
    (match h.type with
     | 1 => n != 257
     | 2 => n != 128 && n != 0
     | 3 | 4 => n != 256
     | 5 => n != 8
     | 6 => n != (if h.dig then 1 else 0)
     | _ => n != 0)

/-- Discard a stale message: it is counted, and the first of an attempt is logged and answered (R235, R275). -/
def State.stale (s : State) (port : Nat) (m : Msg) (fn j : Nat) (b : Job) : State :=
  let s := s.updJob fn j (fun b => { b with stale := sat 16 (b.stale + 1), staleLogged := true })
  if b.staleLogged then s
  else (s.record { Report.plain 0x09 gutStaleGen port [] with job := some (fn, j), fn := fn }).violate port m 2

/-- What generation and step say of a message (R235): for the current attempt, for the next step, for the next
generation, or stale. -/
inductive Age where
  | current | ahead | later | early | stale
deriving DecidableEq, Repr

def Job.age (b : Job) (h : GHdr) : Age :=
  if h.gen = (b.gen + 1) % 256 then .early
  else if h.gen ≠ b.gen then .stale
  else if h.step = b.step then .current
  else if h.step = (b.step + 1) % 2 ^ 32 then .ahead
  else if stepSealed h.step b.step then .stale
  else .later

/-- Serve a gutter message of a type for its job. An expelled member takes nothing further; a spare's messages wait
for its takeover. -/
def State.gutter (s : State) (port : Nat) (m : Msg) (type : Nat) (act : State → Nat → Nat → Job → GHdr → State) : State :=
  s.receive port m 0x20 (fun s =>
    if gutterBad m then (s.take port m).violate port m 4
    else
      let h := gHdrOf m
      if h.type ≠ type then s
      else match s.jobById h.job with
        | none => (s.take port m).violate port m 1
        | some (fn, j, b) =>
          if b.st = .expelled then s.take port m
          else if b.me.spare then s
          else act s fn j b h)

/-! ## Agents and spars (R285, R294, R296) -/

/-- Log a discarded agent operation, at most once per attempt for each agent spar and status. -/
def State.agentNote (s : State) (fn j key : Nat) (st : Status) (unit p : Nat) (delta : DWord) : State :=
  match s.job fn j with
  | none => s
  | some b =>
    if b.agentLogged.contains (key, st.toNat) then s
    else (s.updJob fn j (fun b => { b with agentLogged := b.agentLogged ++ [(key, st.toNat)] })).record
      { Report.plain 0x10 st (p / 4096) (leBytes 1 unit ++ leBytes 1 0 ++ leBytes 2 p ++ leBytes 4 0 ++ leBytes 8 delta.toNat)
        with job := some (fn, j), fn := fn }

/-- Set a plain or bounded spar as the SET operation does. -/
def State.setSpar (s : State) (p : Nat) (v : DWord) : State :=
  (s.updSpar p (fun x => { x with value := v, init := v })).afterOp p

/-- An operation of an agent on a translated spar. `key` names the agent spar, `unit` the agent. -/
def State.agentOp (s : State) (fn j key unit : Nat) (sp : Option AgSpar) (op : AgentOp) : State :=
  let delta : DWord := match op with
    | .add d => d
    | _ => 0
  match sp with
  | none => s.agentNote fn j key sprIdInvalid unit 0 delta
  | some a =>
    let x := s.spar a.phys
    if a.gen ≠ x.gen then
      (s.updFn fn (fun g => { g with spr := { g.spr with stale := sat 16 (g.spr.stale + 1) } })).agentNote fn j key sprStaleGen
        unit a.phys delta
    else if x.aband then s.updFn fn (fun g => { g with spr := { g.spr with agentDrop := sat 16 (g.spr.agentDrop + 1) } })
    else if x.kind = 2 then s.agentNote fn j key sprKind unit a.phys delta
    else match op with
      | .watch _ => s
      | .setZero => s.setSpar a.phys 0
      | .add d => match s.addSpar a.phys d with
        | .ok (_, t) => t
        | .error st =>
          s.faultCtx x.owner (Report.plain 0x10 st (a.phys / 4096)
            (leBytes 1 unit ++ leBytes 1 0 ++ leBytes 2 a.phys ++ leBytes 4 0 ++ leBytes 8 d.toNat)) none

/-- The value that an agent sees in a spar: 0 where it may not use it. -/
def State.agentValue (s : State) (sp : Option AgSpar) : Nat :=
  match sp with
  | none => 0
  | some a =>
    let x := s.spar a.phys
    if a.gen ≠ x.gen ∨ x.aband ∨ x.kind = 2 then 0 else x.value.toNat

/-- Translate a local id of a context of the agent's partition. -/
def State.agentSpar (s : State) (fn ctx lid : Nat) : Option AgSpar :=
  if (s.ctx ctx).fn ≠ fn then none
  else match s.translateSpar ctx lid with
  | .ok (p, g) => some { phys := p, gen := g }
  | .error _ => none

def Job.readySp (b : Job) (step : Nat) : Option AgSpar := if step % 2 = 0 then b.readySp0 else b.readySp1

/-- The spar and number of an agent spar. -/
def State.agentOf (s : State) (fn : Nat) (b : Job) : AgentSpar → Nat × Nat × Option AgSpar
  | .readyEven => (0, 0x09, b.readySp0)
  | .readyOdd => (1, 0x09, b.readySp1)
  | .blockStream => (2, 0x09, b.bsSp)
  | .done lid =>
    (16 + lid.toNat, 0x09, match b.streams.find? (fun t => t.done == lid.toNat) with
      | some t => t.doneSp
      | none => s.agentSpar fn b.spctx lid.toNat)
  | .staged e => (2 ^ 17 + 2 * e, 0x08, (b.preSp.getD e (none, none)).1)
  | .ready e => (2 ^ 17 + 2 * e + 1, 0x08, (b.preSp.getD e (none, none)).2)

/-- AGENT_SPAR_OPERATION: a gutter or update engine of a job adds to, clears or watches one of its spars. -/
def execAgentSparOperation (fn jslot : Nat) (which : AgentSpar) (op : AgentOp) (s : State) : Host.Outcome State Fault Refusal :=
  done (.agentSparOperation fn jslot which op) (match s.job fn jslot with
    | none => s
    | some b =>
      let (key, unit, sp) := s.agentOf fn b which
      s.agentOp fn jslot key unit sp op)

end Sys2Proof.Machine
end

