-- ==== Sys2Proof/Machine/Void.lean ====
section
/-! DEFINITION. Voiding a step (R31, R158, R180, R241 to R244, R316), starting its replay (R158, R297), the abort of
job contexts (R241), and pending retirements (R23, R24). -/

namespace Sys2Proof.Machine

/-! ## Queues (R316) -/

/-- Drop the sheaves and gangs of launches, but fault no context. -/
def State.stopLaunches (s : State) (es : List EntryRef) (ctxs : List Nat) : State :=
  let s := s.dropSheaves (fun sl => match sl.launch with
    | some e => es.contains e
    | none => false)
  ctxs.foldl (fun s c => s.clearGangs c) s

/-- A running reshape of a stopped entry completes for nobody. -/
def State.detachReshapes (s : State) (es : List EntryRef) : State :=
  { s with grid := { s.grid with reshapes := s.grid.reshapes.filterMap (fun (r : Reshape) => match r.entry with
    | some e => if es.contains e then (if r.running then some { r with entry := none } else none) else some r
    | none => some r) } }

/-- Entries of the function's queues that `p` selects. -/
def State.entriesWhere (s : State) (fn : Nat) (p : QEntry → Bool) : List (EntryRef × QEntry) :=
  (s.fn fn).queues.flatMap (fun q => (q.2.entries.filter p).map (fun x => ({ fn := fn, q := q.1, n := x.n }, x)))

/-- Rewind a queue: every fetched entry of the voided steps posts one completion for the attempt and waits again. -/
def Queue.rewind (q : Queue) (p : QEntry → Bool) (cause : Status) : Queue :=
  let posts := (q.entries.filter p).map (fun x => match x.st with
    | .done st _ => if x.aborted then q.compl x st 0 else q.compl x cause 0
    | _ => q.compl x cause 0)
  { q with
    posts := q.posts ++ posts
    entries := q.entries.map (fun x => if p x then
      { x with attempt := x.attempt + 1, st := .waiting, placed := [], ended := 0, waited := false, signalled := false, aborted := false
               remote := none }
      else x) }

/-- Entries of a job's step s and of step s + 1 that a void rewinds. -/
def voided (j step : Nat) (x : QEntry) : Bool :=
  decide (x.jslot = some j) && !x.posted && (x.step == step || x.step == (step + 1) % 2 ^ 32)

/-- Stop the launches of the voided steps and rewind every queue of the function (R316); one that closes may then be
done. -/
def State.rewind (s : State) (fn j step : Nat) (cause : Status) : State :=
  let es := s.entriesWhere fn (voided j step)
  let started := es.filter (fun x => x.2.opc == 0x01 && x.2.st != .waiting)
  let s := (s.stopLaunches (started.map (·.1)) (started.map (·.2.ctx)).eraseDups).detachReshapes (es.map (·.1))
  let s := s.updFn fn (fun g => { g with queues := g.queues.map (fun q => (q.1, q.2.rewind (voided j step) cause)) })
  ((s.fn fn).queues.map (·.1)).foldl (fun s q => s.settleQueue fn q) s

/-- Complete every entry of a job with a status; none runs any further (R246, R316). -/
def State.endJobEntries (s : State) (fn j : Nat) (st : Status) : State :=
  let es := s.entriesWhere fn (fun x => decide (x.jslot = some j) && !x.posted)
  let started := es.filter (fun x => x.2.opc == 0x01 && x.2.st == .running)
  let s := (s.stopLaunches (started.map (·.1)) (started.map (·.2.ctx)).eraseDups).detachReshapes (es.map (·.1))
  es.foldl (fun s e => s.endNow e.1 st) s

/-! ## Memory and hoard (R158, R180) -/

/-- Close every open ordered sequence in a partition's memory; element values stay as they stand. -/
def State.closeSeqs (s : State) (fn : Nat) : State :=
  { s with mem := { s.mem with seqs := s.mem.seqs.filter (fun q => s.ownerOfAddr q.1 != some fn) } }

/-- Discard a job's hoard entries (R180). -/
def State.dropHoard (s : State) (fn job : Nat) : State :=
  s.updHoard fn (fun h => { h.release (fun e => e.job == job) with jobs := Map.del h.jobs job })

/-! ## Engines (R201, R209, R210) -/

def jobKey (fn j : Nat) : Nat := 16 * fn + j

/-- Address of a norm-table row (R209). -/
def UpdHdr.normRow (h : UpdHdr) (step q layer : Nat) : Nat :=
  h.ntbase + 32 * (step % h.ntdepth * 32 * h.ntlayers + q * h.ntlayers + layer)

/-- Mark the norm-table rows that an engine has opened in an attempt: 1 sealed, 2 aborted. -/
def State.markNorms (s : State) (fn j : Nat) (b : Job) (state : Nat) : State :=
  (List.range 32).foldl (fun s q =>
    if (s.engine q).opened.contains (fn, j) then
      (List.range b.hdr.ntlayers).foldl (fun s l => s.writeNat (b.hdr.normRow b.step q l + 28) 2 state) s
    else s) s

/-- Write the digest record of the job's step: flags 0 open, 1 sealed, 2 aborted (R210). -/
def State.digestRecord (s : State) (b : Job) (flags : Nat) : State :=
  s.writeBytes (b.hdr.dgbase + 32 * (b.step % b.hdr.dgdepth))
    (leBytes 16 b.devDigest ++ leBytes 4 0 ++ leBytes 4 b.step ++ leBytes 4 b.hashed ++ leBytes 4 flags)

/-- Fields of a PRE block (R201). -/
structure PreBlock where
  stage : Nat
  rows : Nat
  cols : Nat
  br : Nat
  bc : Nat
  pctx : Nat
  spstg : Nat
  sprdy : Nat
  ok : Bool
deriving DecidableEq, Repr

def State.preBlock (s : State) (a : Nat) : PreBlock :=
  let v := s.readNat a 64
  { stage := field v 511 448, rows := field v 447 416, cols := field v 415 384, br := field v 363 354, bc := field v 373 364
    pctx := field v 255 236, spstg := field v 235 220, sprdy := field v 219 204
    ok := decide (field v 383 374 = 0) && !bitOf v 353 && decide (field v 203 0 = 0) && decide (1 ≤ field v 351 320) &&
      decide (1 ≤ field v 363 354 ∧ field v 363 354 ≤ 512) && decide (1 ≤ field v 373 364 ∧ field v 373 364 ≤ 512) &&
      decide (1 ≤ field v 447 416) && decide (1 ≤ field v 415 384) }

/-- Blocks of a PRE region: rows of blocks and columns of blocks. -/
def PreBlock.grid (p : PreBlock) : Nat × Nat := ((p.rows + p.br - 1) / p.br, (p.cols + p.bc - 1) / p.bc)
def PreBlock.blocks (p : PreBlock) : Nat := p.grid.1 * p.grid.2

/-- Address of the staged word of a block; its ready word follows at 4·blocks (DEDUCED: the staged words of all
blocks, then the ready words). -/
def PreBlock.staged (p : PreBlock) (k : Nat) : Nat := p.stage + 4 * p.rows * p.cols + 4 * k
def PreBlock.ready (p : PreBlock) (k : Nat) : Nat := p.staged (p.blocks + k)

/-- Set every staged and ready word of every PRE block of a job to 0xFFFF_FFFF (R201). -/
def State.clearPre (s : State) (b : Job) : State :=
  (b.upd.filter (fun e => e.rule == 3)).foldl (fun s e =>
    let p := s.preBlock e.aux
    s.writeBytes (p.staged 0) (List.replicate (8 * p.blocks) 0xFF)) s

/-- Forget what the engines hold for a job's attempt. -/
def State.dropEngineWork (s : State) (fn j : Nat) : State :=
  { s with engines := s.engines.map (fun e => (e.1, { e.2 with
      chunks := e.2.chunks.filter (fun c => !(c.fn == fn && c.jslot == j))
      applied := Map.del e.2.applied (jobKey fn j)
      stopped := e.2.stopped.filter (· != (fn, j))
      sched := Map.del e.2.sched (jobKey fn j)
      opened := e.2.opened.filter (· != (fn, j))
      touched := e.2.touched.filter (fun t => !(t.1 == fn && t.2.1 == j)) })) }

/-! ## Retirement (R23, R24, R380) -/

/-- Fence a tract: its contexts with sheaves or gangs there are aborted (R24). -/
def State.fenceTract (s : State) (fn tract core : Nat) (cause : Status) : State :=
  let course := tract / 16
  let s := s.updCourse course (fun c => { c with fence := setBitN c.fence (tract % 16) })
  let rep := { s.gridReport core gngTractFenced (leBytes 4 core ++ leBytes 4 tract ++ leBytes 2 cause.toNat) with fn := fn }
  let s := s.record rep
  let s := s.journal fn 2 6 tract (BitVec.ofNat 128 (course + 2 ^ 16 * (s.course course).fence))
  let here := ((s.grid.cores.filter (fun c => tractOfCore c.1 == tract)).flatMap (fun c => c.2.slots.map (fun x => x.2.ctx))) ++
    (s.grid.gangs.filter (fun g => tractOfCore g.1 == tract)).filterMap (fun g => g.2.ctx)
  here.eraseDups.foldl (fun s c => s.faultCtx c (s.gridReport core gngTractFenced
    (leBytes 4 core ++ leBytes 4 tract ++ leBytes 2 cause.toNat)) none) s

/-- Retire the core named guilty: its row shifts at the seal or void of the step, or the tract is fenced where the
row's spare is used, pending or failed. -/
def State.retire (s : State) (fn core : Nat) (jslot : Option Nat) (due : Bool) (cause : Status) : State :=
  let course := courseOfCore core
  let row := coreRow core
  if s.grid.retires.any (fun r => r.core == core && !r.shifting) then s
  else if ((s.course course).retired.get? row).isSome || s.grid.retires.any (fun r => r.course == course && r.row == row) then
    s.fenceTract fn (tractOfCore core) core cause
  else
    let r : Retire := { course := course, row := row, col := coreCol core, core := core, tract := tractOfCore core, cause := cause
                        due := due, shifting := false, fn := fn, jslot := jslot }
    { s with grid := { s.grid with retires := s.grid.retires ++ [r] } }

/-- The step has sealed or voided: the job's pending row shifts may be applied (R23). -/
def State.dueRetires (s : State) (fn j : Nat) : State :=
  { s with grid := { s.grid with retires := s.grid.retires.map (fun (r : Retire) =>
      if r.fn = fn ∧ r.jslot = some j then { r with due := true } else r) } }

/-- Verdicts against drains of the step s + 1 that a void discards: their results go, their retirements stay (R380). -/
def State.dropVerdicts (s : State) (fn j step : Nat) : State :=
  let gone := s.grid.shadows.filter (fun v => v.verdict.isSome && (match v.step with
    | some (f, k, t, _) => f == fn && k == j && t == (step + 1) % 2 ^ 32
    | none => false))
  let s := { s with grid := { s.grid with shadows := s.grid.shadows.filter (fun v => !gone.contains v) } }
  gone.foldl (fun s v => match v.verdict with
    | some (c, _) => if c = gngShadowMismatch then s.retire fn v.core (some j) true c else s
    | none => s) s

/-! ## The void (R31, R241 to R244) -/

/-- Voids of one step before a halt. -/
def Job.limit (b : Job) : Nat := if b.vretry = 0 then 3 else b.vretry

/-- A void puts the queue on hold for these causes (R242). -/
def holdCause (cause : Status) (halt : Bool) : Bool :=
  cause == stepAbortedNonfinite || cause == jobRetryLimit || halt

/-- The gutter's state for a new attempt. -/
def Job.newAttempt (b : Job) : Job :=
  { b with
    rcvd := [], rcvdNext := [], ridgeSent := false, digests := [], digest := 0, devDigest := 0, hashed := 0, ownDone := []
    paramHeld := [], sent := [], staged := [], preDone := [], hold := [], holdGen := [], staleLogged := false, nakSeen := [], agentLogged := []
    timerRunning := false, streams := [], bsSeen := (b.step, []), attempts := b.attempts + 1 }

/-- Messages that a job holds go back to their ports, to be received again. -/
def State.redeliver (s : State) (ms : List (Nat × Msg)) : State :=
  { s with fab := { s.fab with inbox := s.fab.inbox ++ ms } }

/-- Void the current attempt of a job (R31, R242): `own` says that this member raises the void and sends its message,
`halt` that the cause holds the queue. A void past VRETRY halts the job with JOB_RETRY_LIMIT (R244). A job that is held
stays held (R213). -/
def State.voidJob (s : State) (fn j : Nat) (cause : Status) (origin : Nat) (own halt : Bool) : State :=
  match s.job fn j with
  | none => s
  | some b =>
    let cause := if b.limit < b.voids + 1 then jobRetryLimit else cause
    let s := if b.limit < b.voids + 1 then s.record (b.report fn j jobRetryLimit []) else s
    let s := if own then s.spread fn j b { b.hdr0 7 with cause := cause.toNat } [] else s
    let s := (s.markNorms fn j b 2).digestRecord b 2
    let s := ((s.dropHoard fn b.job).closeSeqs fn).dropEngineWork fn j
    let s := (s.agentOp fn j 0 0x09 b.readySp0 .setZero).agentOp fn j 1 0x09 b.readySp1 .setZero
    let s := s.rewind fn j b.step cause
    let s := (s.dropVerdicts fn j b.step).dueRetires fn j
    let held := b.holdGen
    let s := s.updJob fn j (fun b => { b.newAttempt with
      gen := (b.gen + 1) % 256, voids := b.voids + 1, cause := cause, origin := origin, causeStep := b.step
      st := if holdCause cause halt ∨ b.st = .held then .held else if b.st = .awaitSpare then .awaitSpare else .running
      rewinding := true, verify := cause == gutTallyMismatch
      splitBefore := cause == jobDigestSplit })
    (s.clearPre b).redeliver held

/-- A member raises a void, unless its attempt has voided already or its ridge has gone (R241). -/
def State.raiseVoid (s : State) (fn j : Nat) (cause : Status) : State :=
  match s.job fn j with
  | none => s
  | some b =>
    if b.ridgeSent ∨ b.st = .held ∨ b.st = .expelled then s else s.voidJob fn j cause b.myidx true false

/-- The abort or destruction of a context voids its job's attempt; after this member's ridge the next attempt voids
(R241). -/
def State.abortVoid (s : State) (ctx : Nat) : State :=
  match s.jobOf ctx with
  | none => s
  | some (fn, j, b) =>
    if b.st = .held ∨ b.st = .expelled then s
    else if b.ridgeSent then s.updJob fn j (fun b => { b with pendingVoid := some (b.pendingVoid.getD jobMemberAborted) })
    else s.raiseVoid fn j jobMemberAborted

/-! ## The replay (R158, R297) -/

/-- Whether the memory accesses that a job's contexts issued have been accepted at their homes. -/
def State.settled (s : State) (fn j : Nat) : Bool :=
  let mine (r : MemReq) : Bool := (s.ctx r.ctx).fn == fn && decide ((s.ctx r.ctx).jobsl = some j) && r.remote.isNone
  !(s.mem.reqs.any mine || s.mem.retries.any mine || s.mem.misses.any (fun m => m.2.any mine) ||
    s.fab.remotes.any (fun e => match e.why with
      | .thread r => mine r
      | .command e _ _ => e.fn == fn && (match s.entry e with
        | some x => decide (x.jslot = some j)
        | none => false)
      | _ => false))

/-- The step spars of a job: those whose owner context belongs to it. -/
def State.stepSpars (s : State) (fn j : Nat) : List Nat :=
  (s.tab.spars.filter (fun x => x.2.used && x.2.step && !x.2.aband && (s.ctx x.2.owner).fn == fn &&
    decide ((s.ctx x.2.owner).jobsl = some j))).map (·.1)

/-- REPLAY_START: once the attempt's accesses are accepted and its row shifts done, the step spars are restored and the
entries may start again. The next block stream is the one with the number that its spar then holds. -/
def State.replayStart (s : State) (fn j : Nat) : State :=
  match s.job fn j with
  | none => s
  | some b =>
    if !b.rewinding ∨ b.st ≠ .running ∨ !s.settled fn j ∨ s.grid.retires.any (fun r => r.fn == fn && decide (r.jslot = some j) && r.due)
    then s
    else
      let s := (s.stepSpars fn j).foldl (fun s p => s.restoreSpar p) s
      let s := (s.updJob fn j (fun b => { b with rewinding := false, pendingVoid := none, bsStarted := s.agentValue b.bsSp })).digestRecord b 0
      match b.pendingVoid with
      | some c => s.raiseVoid fn j c
      | none => s

def execReplayStart (fn jslot : Nat) (s : State) : Host.Outcome State Fault Refusal :=
  done (.replayStart fn jslot) (s.replayStart fn jslot)

end Sys2Proof.Machine
end

