-- ==== Sys2Proof/Machine/Contexts.lean ====
section
/-! DEFINITION. Contexts: the abort of a faulted context (R83, R105, R106), destruction (R343), residency (R332 to R334)
and the default context (R329). -/

namespace Sys2Proof.Machine

/-- Entries of a context that the queue engine holds and that have posted nothing. -/
def State.entriesOf (s : State) (ctx : Nat) : List (EntryRef × QEntry) :=
  s.entriesWhere (s.ctx ctx).fn (fun x => x.ctx == ctx && !x.posted)

/-- End an outstanding entry of a faulted context with the first fault's code (R106). -/
def State.abortEntry (s : State) (code : Status) (e : EntryRef × QEntry) : State :=
  match e.2.st with
  | .done _ _ => if e.2.signalled then s else s.updEntry e.1 (fun x => { x with aborted := true })
  | _ => ((s.detachReshapes [e.1]).updEntry e.1 (fun x => { x with st := .done code 0, signalled := true, aborted := true })).conclude e.1

/-- Stop a context's work everywhere: sheaves, gangs, feeds, drains, spars (R83, R105 steps 3 and 4, R294). -/
def State.stopCtx (s : State) (ctx : Nat) : State :=
  ((s.dropSheaves (fun sl => sl.ctx == ctx)).clearGangs ctx).sparStop ctx

/-- CONTEXT_ABORT: the queue engine completes the abort of a faulted context. -/
def State.ctxAbort (s : State) (ctx : Nat) : State :=
  let c := s.ctx ctx
  if !c.aborting ∨ c.st ≠ .faulted then s
  else
    let s := (s.entriesOf ctx).foldl (fun s e => s.abortEntry c.fault e) s
    let s := s.stopCtx ctx
    let s := (s.updCtx ctx (fun c => { c with aborting := false, stopped := [] })).saveCtx ctx
    s.abortVoid ctx

def execContextAbort (ctx : Nat) (s : State) : Host.Outcome State Fault Refusal := done (.contextAbort ctx) (s.ctxAbort ctx)

/-! ## Destruction (R343) -/

/-- Begin to destroy a context: its entries complete with CTX_DESTROYED, and its job's attempt voids. `self` is the
entry that destroys it. -/
def State.startDestroy (s : State) (ctx : Nat) (self : Option EntryRef) : State :=
  let es := (s.entriesOf ctx).filter (fun e => some e.1 != self && e.2.opc != 0x11)
  let s := s.updCtx ctx (fun c => { c with st := .destroying, aborting := false })
  let s := (s.detachReshapes (es.map (·.1))).saveCtx ctx
  let s := es.foldl (fun s e => s.endNow e.1 ctxDestroyed) s
  s.abortVoid ctx

/-- The number of a context becomes FREE: its record shows it, and nothing of it is kept. -/
def State.freeCtx (s : State) (ctx : Nat) : State :=
  let c := s.ctx ctx
  let s := if c.ncode = 0 then s else s.writeBytes c.code (List.replicate (32 * c.ncode) 0)
  let s := (s.updCtx ctx (fun c => { c with st := .free, resident := false })).saveCtx ctx
  { s with tab := { s.tab with ctxs := Map.del s.tab.ctxs ctx } }

/-- DESTRUCTION_COMPLETE: work, spars, map entries and holds of a context are gone and its number is FREE. -/
def State.destroyed (s : State) (ctx : Nat) : State :=
  let c := s.ctx ctx
  if c.st ≠ .destroying then s
  else
    let s := (((s.stopCtx ctx).clearMaps ctx).dropHolds ctx).freeCtx ctx
    let s := (s.entriesWhere c.fn (fun x => x.ctx == ctx && x.opc == 0x11 && x.st == .running)).foldl
      (fun s e => s.ran e.1 statusOk 0) s
    if (s.fn c.fn).killBusy = some ctx then s.updFn c.fn (fun g => { g with killBusy := none, killStatus := statusOk }) else s

def execDestructionComplete (ctx : Nat) (s : State) : Host.Outcome State Fault Refusal :=
  done (.destructionComplete ctx) (s.destroyed ctx)

/-! ## Residency (R332 to R334) -/

/-- Whether work of a context waits for its residency. -/
def State.wantsSlot (s : State) (ctx : Nat) : Bool :=
  (s.entriesOf ctx).any (fun e => !e.2.isDone) || (s.ctx ctx).saved.any (fun v => v.resumable)

/-- Whether the queue engine may page a context out. -/
def State.evictable (s : State) (ctx : Nat) : Bool :=
  (s.slotsWhere (fun sl => sl.ctx == ctx)).isEmpty && !s.grid.gangs.any (fun g => g.2.ctx == some ctx) &&
    !(s.entriesOf ctx).any (fun e => decide (e.2.st = .running))

/-- Resident contexts of a function, by number. -/
def State.residents (s : State) (fn : Nat) : List (Nat × Ctx) := s.tab.ctxs.filter (fun c => c.2.fn == fn && c.2.resident)

/-- The least recently used context that may be paged out. -/
def State.pageVictim (s : State) (fn : Nat) : Option Nat :=
  (((s.residents fn).filter (fun c => s.evictable c.1)).foldl (fun (v : Option (Nat × Nat)) c => match v with
    | none => some (c.1, c.2.stamp)
    | some w => if c.2.stamp < w.2 then some (c.1, c.2.stamp) else v) none).map (·.1)

/-- The CRC of a context record in memory (R330). -/
def State.recordCrc (s : State) (a : Nat) : Word := crc32c (s.readBytes (a + 8) 0x58)

/-- Make a context resident after its record's check, in the place of the context that it pages out (R332, R333). -/
def State.enterSlot (s : State) (ctx : Nat) (out : Option Nat) : State :=
  let c := s.ctx ctx
  if s.recordCrc c.record ≠ c.crc then
    s.faultCtx ctx { Report.plain 0x11 ctxRecordCorrupt c.fn [] with ctx := some ctx, fn := c.fn } none
  else
    let s := match out with
      | some v => (s.updCtx v (fun c => { c with resident := false })).saveCtx v
      | none => s
    let s := s.tick
    let s := (s.updCtx ctx (fun c => { c with resident := true, stamp := s.tab.stamp })).saveCtx ctx
    s.updFn c.fn (fun g => { g with pageins := sat 16 (g.pageins + 1) })

/-- PAGE_IN: a context that work waits for takes a free slot of its partition's share, or that of the least recently
used eligible context; without either, its waiting starts are counted (R334). -/
def State.pageIn (s : State) (ctx : Nat) : State :=
  let c := s.ctx ctx
  match s.part c.fn with
  | none => s
  | some p =>
    if (c.st ≠ .defined ∧ c.st ≠ .faulted) ∨ c.aborting ∨ c.resident ∨ !s.wantsSlot ctx ∨ (s.fn c.fn).tearing then s
    else if (s.residents c.fn).length < p.rshare then s.enterSlot ctx none
    else match s.pageVictim c.fn with
      | some v =>
        if p.rshare = 0 then s else s.enterSlot ctx (some v)
      | none =>
        let es := (s.entriesOf ctx).filter (fun e => !e.2.isDone && !e.2.waited)
        let s := es.foldl (fun s e => s.updEntry e.1 (fun x => { x with waited := true })) s
        s.updFn c.fn (fun g => { g with waits := sat 16 (g.waits + es.length) })

def execPageIn (ctx : Nat) (s : State) : Host.Outcome State Fault Refusal := done (.pageIn ctx) (s.pageIn ctx)

/-! ## The record and the default context (R329 to R331) -/

/-- Read the fields that you write in a context record. -/
def State.readRecord (s : State) (fn a : Nat) : Ctx :=
  let b := s.readBytes a 0x60
  let n (off len : Nat) : Nat := leAt b off len
  { Ctx.idle with
    st := .defined, fn := fn, record := a, winFirst := n 0x08 4, winCount := n 0x0C 4, mapAddr := n 0x10 8, mapLen := n 0x18 4
    maxShf := n 0x1C 4, waitList := n 0x20 8, save := n 0x28 8, code := n 0x30 8, ncode := n 0x38 4, maxObj := n 0x3C 4
    hbmLim := n 0x40 8, ddrLim := n 0x48 8, heapHbm := BitVec.ofNat 64 (n 0x50 8), heapDdr := BitVec.ofNat 64 (n 0x58 8)
    crc := s.recordCrc a }

/-- Define the default context of a partition (R329). -/
def State.defineDefault (s : State) (fn : Nat) : State :=
  match s.part fn with
  | none => s
  | some p =>
    let a := p.hbmLocal (p.alloc.1 + 2 ^ 20)
    let rec0 : List Byte := leBytes 8 0 ++ leBytes 4 0 ++ leBytes 4 p.winCount ++ leBytes 8 0 ++ leBytes 8 0 ++ leBytes 8 0 ++
      leBytes 8 0 ++ leBytes 8 0 ++ leBytes 4 0 ++ leBytes 4 p.objq ++ leBytes 8 p.hbmHeap.2 ++ leBytes 8 p.ddrHeap.2 ++
      leBytes 16 0
    let s := s.writeBytes a (padTo 256 rec0)
    let c := s.readRecord fn a
    ({ s with tab := { s.tab with ctxs := s.tab.ctxs.put p.ctxBase c } }).saveCtx p.ctxBase

/-- The contexts of a function that are not FREE. -/
def State.ctxsOf (s : State) (fn : Nat) : List Nat := (s.tab.ctxs.filter (fun c => c.2.fn == fn && c.2.st != .free)).map (·.1)

end Sys2Proof.Machine
end

