-- ==== Sys2Proof/Machine/Gutter.lean ====
section
/-! DEFINITION. The data path of the gutters: contributions and tallies (R222 to R229), parameter messages (R237) and
block streams (R230 to R234). -/

namespace Sys2Proof.Machine

/-! ## Views (R195) -/

/-- SEL of an entry's view block, and the address of a buffer of a set: 0 W, 1 to 4 S0 to S3, 5 RSTEP. -/
def State.sel (s : State) (e : UpdEntry) : Nat := s.readNat e.view 8 % 2
def State.bufAddr (s : State) (e : UpdEntry) (set k : Nat) : Nat := s.readNat (e.view + 8 + 48 * set + 8 * k) 8

/-- The engine that serves a local address (R192). -/
def engineOf (a : Nat) : Nat := if isDdr a then 2 * dieOfChan (chanOf a) + chanOf a % 2 else unitOf a / 4

/-! ## Counting chunks -/

/-- TRAIN chunks among n chunks from f: the FROZEN regions do not overlap (R190). -/
def Job.trainCount (b : Job) (f n : Nat) : Nat :=
  b.roles.foldl (fun k r => if r.frozen then k - (min (f + n) (r.first + r.nchunk) - max f r.first) else k) n

/-- A chunk of this member's group range that is reduced. -/
def Job.reduces (b : Job) (c : Nat) : Bool :=
  let f := b.groupFirst b.me.group
  decide (f ≤ c ∧ c < f + b.groupCount b.me.group) && !b.frozen c

/-- Position of a chunk in release order; FROZEN chunks keep their positions (DEDUCED). -/
def Job.position (b : Job) (c : Nat) : Nat :=
  let f := b.groupFirst b.me.group
  if b.order then f + b.groupCount b.me.group - 1 - c else c - f

/-- The gutter works for a job, but not on chunks of a group whose spare has not joined. -/
def Job.flows (b : Job) : Bool :=
  match b.st with
  | .running => true
  | .ridgeOverdue => true
  | .awaitSpare => b.awaits.all (fun a => (b.member a.1).group != b.me.group)
  | _ => false

/-- A chunk's local contribution is complete, and the gutter has not read it yet. -/
def State.shareReady (s : State) (b : Job) (c : Nat) : Bool :=
  b.flows && b.reduces c && !b.sent.contains c && decide (b.position c < s.agentValue (b.readySp b.step))

/-! ## Shares and tallies (R222, R223, R227) -/

/-- FP64 sum of binary32 values in ascending order, and the binary32 sum of their magnitudes. -/
def sigmaOf (xs : List Word) : DWord := xs.foldl (fun (a : DWord) x => toF64 (addNum (ofF64 a) (ofF32 x))) 0
def amagOf (xs : List Word) : Word := xs.foldl (fun (a : Word) x => toF32 (addNum (ofF32 a) (ofF32 x).abs)) 0

/-- A chunk on its way: the values with the code words that are husks, its tally, its mask. -/
structure Sum where
  chunk : Nat
  start : Nat
  hops : Nat
  ovf : Bool
  mask : Nat
  sigma : DWord
  amag : Word
  vals : List Word
  husks : List Nat
deriving DecidableEq, Repr

def wordsOfBytes (bs : List Byte) : List Word := (chunksOf 4 bs.length bs).map (fun w => BitVec.ofNat 32 (ofLe w))
def bytesOfWords (ws : List Word) : List Byte := ws.flatMap (fun w => leBytes 4 w.toNat)

/-- A read with the dead hint: the lines go without write-back, unless a sequence pins them (R149, R151). -/
def State.deadRead (s : State) (a len : Nat) : State :=
  ((List.range ((len + 127) / 128)).map (· + a / 128)).foldl (fun s n => if s.pinned n then s else s.dropLine n) s

/-- Read this member's contribution of a chunk once, with its touched-mask word, which becomes 0. -/
def State.takeShare (s : State) (b : Job) (c : Nat) : Sum × State :=
  let k := c - b.groupFirst b.me.group
  let a := (if b.step % 2 = 0 then b.grad0 else b.grad1) + 4096 * k
  let vals := wordsOfBytes (s.readBytes a 4096)
  let husks := (s.husksIn a 4096).map (fun w => w - a / 16)
  let emb := match b.updOf c with
    | some (_, e) => e.emb
    | none => false
  let m := b.tmask + 16 * k + 8 * (b.step % 2)
  let sum : Sum := { chunk := c, start := b.myidx, hops := 0, ovf := false, mask := if emb then s.readNat m 8 else 0
                     sigma := sigmaOf vals, amag := amagOf vals, vals := vals, husks := husks }
  (sum, (if emb then s.writeNat m 8 0 else s).deadRead a 4096)

/-- Add this member's share to a chunk that arrives (R215, R227, R228). -/
def Sum.add (x own : Sum) : Sum :=
  let pairs := x.vals.zip own.vals
  { x with
    hops := x.hops + 1
    ovf := x.ovf || pairs.any (fun p => (ofF32 p.1).isFinite && (ofF32 p.2).isFinite && !(ofF32 (fadd32 p.1 p.2)).isFinite)
    mask := x.mask ||| own.mask
    sigma := toF64 (addNum (ofF64 x.sigma) (ofF64 own.sigma))
    amag := fadd32 x.amag own.amag
    vals := pairs.map (fun p => fadd32 p.1 p.2)
    husks := own.husks.foldl insSet x.husks }

/-! ## The tally test (R228, R229) -/

/-- The test of a sum against its tally. `inner` is 2^-23 A, with what block scaling adds. The answer is S and the
tolerance where the chunk fails. -/
def tallyFails (vals : List Word) (sigma : DWord) (ovf : Bool) (tau hops : Nat) (inner : DWord) : Option (DWord × DWord) :=
  let sum := sigmaOf vals
  let tol := toF64 (mulNum (.fin false (tau * (hops + 1)) 0) (ofF64 inner))
  let diff := toF64 (addNum (ofF64 sum) (ofF64 sigma).negate)
  if ovf || !(ofF64 sigma).isFinite || !(ofF64 sum).isFinite then none
  else if (ofF64 tol).isNan then some (sum, tol)
  else if cmpNum (ofF64 diff).abs (ofF64 tol) = .gt then some (sum, tol)
  else none

/-- 2^-23 A as FP64. -/
def innerA (amag : Word) : DWord := toF64 (mulNum (.fin false 1 (-23)) (ofF32 amag))

def Job.tauOf (b : Job) : Nat := if b.tau = 0 then 4 else b.tau

/-- DETAIL of a tally record. -/
def tallyDetail (chunk ring start hops : Nat) (sigma sum tol : DWord) : List Byte :=
  leBytes 8 chunk ++ leBytes 2 ring ++ leBytes 2 start ++ leBytes 2 hops ++ leBytes 2 0 ++ leBytes 8 sigma.toNat ++
    leBytes 8 sum.toNat ++ leBytes 8 tol.toNat

/-- A tally fault: it counts, leaves its record and voids. -/
def State.tallyFault (s : State) (fn j : Nat) (unit loc : Nat) (detail : List Byte) : State :=
  ((s.updJob fn j (fun b => { b with tallyf := sat 16 (b.tallyf + 1) })).record
    { Report.plain unit gutTallyMismatch loc detail with job := some (fn, j), fn := fn }).raiseVoid fn j gutTallyMismatch

/-! ## Contributions (R217, R218, R224) -/

/-- The last local contribution of the attempt has left: the ridge timer starts (R243). -/
def State.shareSent (s : State) (fn j c : Nat) : State :=
  s.updJob fn j (fun b =>
    let sent := c :: b.sent
    { b with sent := sent
             timerRunning := b.timerRunning ||
               decide (b.trainCount (b.groupFirst b.me.group) (b.groupCount b.me.group) ≤ sent.length) })

def ringPort (b : Job) (r : Nat) : Nat := (setBits 64 b.portmask.toNat).getD r 0

/-- Pass a chunk on: to its owner's engine here, or to the next replica, tested first in a verify replay. -/
def State.passChunk (s : State) (fn j : Nat) (b : Job) (x : Sum) : State :=
  let r := b.ringOf x.chunk
  let s := s.shareSent fn j x.chunk
  match b.owner b.me.group x.chunk with
  | none => s
  | some (o, _) =>
    if o = b.myidx then
      match b.updOf x.chunk with
      | none => s
      | some (_, e) =>
        let a := s.bufAddr e (1 - s.sel e) 0 + 2048 * (x.chunk - e.first)
        let k : EChunk := { fn := fn, jslot := j, gen := b.gen, step := b.step, chunk := x.chunk, ring := r, startIdx := x.start
                            hops := x.hops, ovf := x.ovf, mask := BitVec.ofNat 64 x.mask, sigma := x.sigma, amag := x.amag
                            vals := x.vals, husk := !x.husks.isEmpty }
        s.updEngine (engineOf a) (fun g => { g with chunks := g.chunks ++ [k] })
    else
      let bad := if b.verify && x.husks.isEmpty then tallyFails x.vals x.sigma x.ovf b.tauOf x.hops (innerA x.amag) else none
      match bad with
      | some (sum, tol) => s.tallyFault fn j 0x09 (ringPort b r) (tallyDetail x.chunk r x.start x.hops x.sigma sum tol)
      | none => match b.next with
        | none => s
        | some (_, dest) =>
          let h : GHdr := { b.hdr0 1 with chunk := x.chunk, start := x.start, hops := x.hops, ring := r, ovf := x.ovf, mask := x.mask }
          let tally := cleanWord (x.sigma.toNat + 2 ^ 64 * x.amag.toNat)
          s.gutterSend fn j b (some r) dest h (tally :: codeWords (bytesOfWords x.vals) (fun k => x.husks.contains k))

/-- CHUNK_START: the replica after a chunk's owner starts it; in a group of one the contribution goes straight to the
engine. -/
def execChunkStart (fn jslot chunk : Nat) (s : State) : Host.Outcome State Fault Refusal :=
  done (.chunkStart fn jslot chunk) (match s.job fn jslot with
    | none => s
    | some b => match b.owner b.me.group chunk with
      | none => s
      | some (_, o) =>
        if !s.shareReady b chunk || b.me.spare || b.me.ridx != (o.ridx + 1) % b.size b.me.group then s
        else
          let (x, s) := s.takeShare b chunk
          s.passChunk fn jslot b x)

/-- The chunk that a contribution message carries. -/
def sumOf (m : Msg) : Sum :=
  let h := gHdrOf m
  let ws := msgBody m
  let t := (ws.headD (cleanWord 0)).data.toNat
  let data := ws.drop 1
  { chunk := h.chunk, start := h.start, hops := h.hops, ovf := h.ovf, mask := h.mask, sigma := BitVec.ofNat 64 t
    amag := BitVec.ofNat 32 (t / 2 ^ 64), vals := wordsOfBytes (wordBytes data)
    husks := (List.range data.length).filter (fun k => CodeWord.isHusk (data.getD k (cleanWord 0))) }

/-- Keep a message of the next step in the hold buffer of its ring: 64 chunks for each ring; a full buffer leaves it at
its port, whose credits are withheld (R225). -/
def State.holdAhead (s : State) (port : Nat) (m : Msg) (fn j : Nat) (b : Job) (h : GHdr) : State :=
  let mine := b.hold.filter (fun x => decide ((gHdrOf x.2).ring = h.ring) && decide ((gHdrOf x.2).type ≤ 2))
  if h.type ≤ 2 ∧ 64 ≤ mine.length then s
  else (s.take port m).updJob fn j (fun b => { b with hold := b.hold ++ [(port, decodedMsg m)] })

def State.holdEarly (s : State) (port : Nat) (m : Msg) (fn j : Nat) : State :=
  (s.take port m).updJob fn j (fun b => { b with holdGen := b.holdGen ++ [(port, decodedMsg m)] })

/-- Serve a message by its generation and step (R235). -/
def State.aged (s : State) (port : Nat) (m : Msg) (fn j : Nat) (b : Job) (h : GHdr) (now : State → State) : State :=
  match b.age h with
  | .current => now s
  | .ahead => s.holdAhead port m fn j b h
  | .early => s.holdEarly port m fn j
  | .later => (s.take port m).stale port m fn j b
  | .stale => (s.take port m).stale port m fn j b

/-- CONTRIBUTION: this member's share is added and the chunk passed on. A chunk whose share is not ready waits. -/
def execContribution (port : Nat) (m : Msg) (s : State) : Host.Outcome State Fault Refusal :=
  done (.contribution port m) (s.gutter port m 1 (fun s fn j b h => s.aged port m fn j b h (fun s =>
    if !s.shareReady b h.chunk then s
    else
      let (own, s) := (s.take port m).takeShare b h.chunk
      s.passChunk fn j b ((sumOf m).add own))))

/-! ## The all-gather (R237) -/

/-- Rows of a chunk of an embedding entry. -/
def UpdEntry.rows (e : UpdEntry) : Nat := 2 ^ (10 - e.rowlog)
def UpdEntry.rowLen (e : UpdEntry) : Nat := 2 ^ e.rowlog

/-- Row number of row r of a chunk in its entry. -/
def UpdEntry.rowOf (e : UpdEntry) (c r : Nat) : Nat := (c - e.first) * e.rows + r

/-- The 16 bytes of a chunk's hash (R210). -/
def chunkHash (c step : Nat) (w : List Byte) : Nat := (digest16 (leBytes 8 c ++ leBytes 4 step ++ w)).toNat

/-- Row copies of an entry that are still to run on this device (R208). -/
def State.copying (s : State) (fn j entry : Nat) (row : Nat → Bool) : Bool :=
  s.engines.any (fun g => g.2.rows.any (fun r => r.1 == fn && r.2.1 == j && r.2.2.1 == entry && row r.2.2.2))

/-- Write code words to memory, husks as husks. -/
def State.writeCode (s : State) (a : Nat) (ws : List CodeWord) : State :=
  let s := s.writeBytes a (wordBytes ws)
  ((List.range ws.length).filter (fun k => CodeWord.isHusk (ws.getD k (cleanWord 0)))).foldl (fun s k =>
    (wordsOf (a + 16 * k) 16).foldl (fun s w => s.pokeHusk w true) s) s

/-- Write a parameter chunk into the provisional set: a whole chunk, or the touched rows with their RSTEP words. The rows
written are listed for the copy at the seal (R208). -/
def State.putParams (s : State) (fn j : Nat) (b : Job) (i : Nat) (e : UpdEntry) (c mask : Nat) (body : List CodeWord) : State :=
  let set := 1 - s.sel e
  let w := s.bufAddr e set 0 + 2048 * (c - e.first)
  if e.emb then
    let rs := (List.range e.rows).filter (fun r => bitOf mask r)
    let n := 2 * e.rowLen
    let t := rs.foldl (fun (t : State) r =>
      ((t.writeCode (w + n * r) ((body.drop (n / 16 * r)).take (n / 16))).writeNat
        (s.bufAddr e set 5 + 4 * e.rowOf c r) 4 b.step)) s
    t.updEngine (engineOf w) (fun g => { g with touched := g.touched ++ rs.map (fun r => (fn, j, i, e.rowOf c r)) })
  else s.writeCode w body

/-- PARAMETER_MESSAGE: the chunk is written, hashed and passed on until it has gone R - 1 hops. It waits for a checkpoint
that still reads the buffer set (R387), and for row copies of its rows (DEDUCED from R208). -/
def execParameterMessage (port : Nat) (m : Msg) (s : State) : Host.Outcome State Fault Refusal :=
  done (.parameterMessage port m) (s.gutter port m 2 (fun s fn j b h => s.aged port m fn j b h (fun s =>
    let c := h.chunk
    match b.updOf c, b.owner b.me.group c with
    | some (i, e), some (o, _) =>
      if !b.flows || !b.reduces c || o == b.myidx || b.paramHeld.contains c ||
          b.ckruns.any (fun (r : CkRun) => decide ((r.step + 2) % 2 ^ 32 = b.step)) ||
          (e.emb && s.copying fn j i (fun r => decide (r / e.rows = c - e.first)))
      then s
      else
        let body := msgBody m
        let s := s.take port m
        let s := if body.isEmpty then s else s.putParams fn j b i e c h.mask body
        let w := s.bufAddr e (1 - s.sel e) 0 + 2048 * (c - e.first)
        let hash := if body.isEmpty then 0 else chunkHash c b.step (s.readBytes w 2048)
        let s := s.updJob fn j (fun b => { b with paramHeld := c :: b.paramHeld, digest := (b.digest + hash) % 2 ^ 128 })
        (match b.next with
        | some (n, dest) => if n = o then s else s.gutterSend fn j b (some (b.ringOf c)) dest h body
        | none => s)
    | _, _ => s)))

/-! ## Block streams (R230 to R234) -/

/-- A block: exponent, lifts, escape mark, mantissas, and the FP32 values of an escaped block. -/
structure Blk where
  e : Nat
  l : Nat
  esc : Bool
  m : List Int
  f : List Word
  husk : Bool
deriving DecidableEq, Repr

/-- Nearest integer, ties to even, of a finite value. -/
def rneInt (v : Num) : Int :=
  match v with
  | .fin neg m e =>
    let k : Nat :=
      if 0 ≤ e then m <<< e.toNat
      else
        let n := (-e).toNat
        let q := m >>> n
        let r := m % 2 ^ n
        let h := 2 ^ (n - 1)
        if r < h then q else if h < r then q + 1 else q + q % 2
    if neg then -(k : Int) else k
  | _ => 0

def scaleNum (v : Num) (k : Int) : Num :=
  match v with
  | .fin s m e => .fin s m (e + k)
  | x => x

def Blk.value (b : Blk) (i : Nat) : Num :=
  let m := b.m.getD i 0
  .fin (decide (m < 0)) m.natAbs ((b.e : Int) - 142)

/-- Add the local contribution to a block (R232): the block, the lifts taken, whether it escapes now, and whether an
add of finite values overflowed. -/
def Blk.hop (b : Blk) (x : List Word) : Blk × Nat × Bool × Bool :=
  let inexact (a c r : Num) : Bool := a.isFinite && c.isFinite && !r.isFinite
  let idx := List.range 32
  if b.esc then
    let f := idx.map (fun i => fadd32 (b.f.getD i 0) (x.getD i 0))
    ({ b with f := f }, 0, false, idx.any (fun i => inexact (ofF32 (b.f.getD i 0)) (ofF32 (x.getD i 0)) (ofF32 (f.getD i 0))))
  else
    let v := idx.map (fun i => addNum (b.value i) (ofF32 (x.getD i 0)))
    let escape : Blk × Nat × Bool × Bool :=
      let f := v.map toF32
      ({ b with esc := true, f := f }, 0, true, v.any (fun y => y.isFinite && !(ofF32 (toF32 y)).isFinite))
    let fits (a : Nat) : Bool := v.all (fun y => decide ((rneInt (scaleNum y (142 - b.e - a))).natAbs ≤ 32767))
    if x.any (fun y => !(ofF32 y).isFinite) then escape
    else match (List.range (8 - b.l)).find? fits with
      | none => escape
      | some a =>
        if 254 < b.e + a then escape
        else ({ b with e := b.e + a, l := b.l + a, m := v.map (fun y => rneInt (scaleNum y (142 - (b.e + a)))) }, a, false, false)

/-- The binary32 values of a block. -/
def Blk.decode (b : Blk) : List Word := if b.esc then b.f else (List.range 32).map (fun i => toF32 (b.value i))

/-- A block record of 68 bytes (R231). -/
def Blk.bytes (b : Blk) : List Byte :=
  leBytes 4 (b.e + b.l * 2 ^ 8 + (if b.esc then 2 ^ 11 else 0)) ++ b.m.flatMap (fun x => leBytes 2 (codeOf 16 x))

def blkOf (bs : List Byte) (husk : Bool) : Blk :=
  let h := leAt bs 0 4
  { e := field h 7 0, l := field h 10 8, esc := bitOf h 11, m := (List.range 32).map (fun i => signedOf 16 (leAt bs (4 + 2 * i) 2))
    f := [], husk := husk }

/-- A block chunk: its tally, overflow mark and 60 blocks. -/
structure BSum where
  chunk : Nat
  start : Nat
  hops : Nat
  ovf : Bool
  sigma : DWord
  amag : Word
  blks : List Blk
  lost : Bool
deriving DecidableEq, Repr

/-- Code words that a block's record touches. -/
def blkWords (k : Nat) : List Nat := wordsOf (16 + 68 * k) 68

/-- The chunk that a block message carries, with the escapes that have come for it. -/
def bsumOf (m : Msg) (esc : Nat → Option (List CodeWord)) : BSum :=
  let h := gHdrOf m
  let ws := msgBody m
  let bs := wordBytes ws
  let bad (k : Nat) : Bool := CodeWord.isHusk (ws.getD k (cleanWord 0))
  { chunk := h.chunk, start := h.start, hops := h.hops, ovf := h.ovf, sigma := BitVec.ofNat 64 (leAt bs 0 8)
    amag := BitVec.ofNat 32 (leAt bs 8 4), lost := bad 0
    blks := (List.range 60).map (fun k =>
      let b := blkOf ((bs.drop (16 + 68 * k)).take 68) ((blkWords k).any bad)
      match (if b.esc then esc k else none) with
      | some f => { b with f := wordsOfBytes (wordBytes f), husk := b.husk || f.any CodeWord.isHusk }
      | none => b) }

/-- Send a block chunk with its escapes: type 3 contributions, type 4 results. -/
def State.sendBlocks (s : State) (fn j : Nat) (b : Job) (t : BStream) (type : Nat) (x : BSum) : State :=
  let dest := b.member (t.ring.getD ((t.mypos + 1) % (t.rlen + 1)) 0)
  let h : GHdr := { b.hdr0 type with step := t.step, chunk := x.chunk, start := x.start, hops := x.hops, ovf := x.ovf, seq := t.seq }
  let bs := leBytes 8 x.sigma.toNat ++ leBytes 4 x.amag.toNat ++ leBytes 4 0 ++ x.blks.flatMap Blk.bytes
  let bad (w : Nat) : Bool := (w == 0 && x.lost) || (List.range 60).any (fun k => (x.blks.getD k (blkOf [] false)).husk && (blkWords k).contains w)
  let s := s.gutterSend fn j b none dest h (codeWords bs bad)
  (List.range 60).foldl (fun s k =>
    let y := x.blks.getD k (blkOf [] false)
    if y.esc then
      s.gutterSend fn j b none dest { h with type := 5, blk := k } (codeWords (bytesOfWords y.f) (fun _ => y.husk))
    else s) s

/-- Chunks of a stream, and the ring position that owns a chunk (R231). -/
def BStream.count (t : BStream) : Nat := (t.nelem + 1919) / 1920
def BStream.ownerPos (t : BStream) (k : Nat) : Nat := k % (t.rlen + 1)

/-- Elements of block k of a chunk that the stream has. -/
def BStream.elems (t : BStream) (c k : Nat) : Nat := min 32 (t.nelem - (1920 * c + 32 * k))

/-- Count and log the lifts and escapes of one hop (R234). -/
def State.noteBlock (s : State) (fn j n seq blk : Nat) (lifts : Nat) (esc : Bool) : State :=
  match s.job fn j with
  | none => s
  | some b =>
    let t := b.streams.find? (fun t => t.n == n)
    let first (seen : BStream → Bool) : Bool := match t with
      | some t => !seen t
      | none => false
    let s := s.updJob fn j (fun b => { b with
      lifts := sat 16 (b.lifts + lifts), escapes := sat 16 (b.escapes + (if esc then 1 else 0))
      streams := b.streams.map (fun (t : BStream) => if t.n = n then
        { t with lifted := t.lifted || decide (0 < lifts), escaped := t.escaped || esc } else t) })
    let note (s : State) (st : Status) : State :=
      s.record { Report.plain 0x09 st b.port0 (leBytes 2 seq ++ leBytes 2 0 ++ leBytes 4 blk) with job := some (fn, j), fn := fn }
    let s := if 0 < lifts ∧ first (·.lifted) then note s gutBlockLifted else s
    if esc && first (·.escaped) then note s gutBlockEscaped else s

/-- Add this member's share to every block of a chunk, with the share's tally. -/
def State.hopBlocks (s : State) (fn j : Nat) (t : BStream) (x : BSum) (starting : Bool) : BSum × State :=
  let share (k : Nat) : List Word := (List.range 32).map (fun i =>
    if i < t.elems x.chunk k then BitVec.ofNat 32 (s.readNat (t.src + 4 * (1920 * x.chunk + 32 * k + i)) 4) else 0)
  let all := (List.range 60).flatMap share
  let step (acc : List Blk × Bool × State) (k : Nat) : List Blk × Bool × State :=
    let xs := share k
    let own := !(s.husksIn (t.src + 4 * (1920 * x.chunk + 32 * k)) (4 * t.elems x.chunk k)).isEmpty
    let y := x.blks.getD k (blkOf [] false)
    let (z, lifts, esc, ov) := y.hop xs
    let u := if lifts = 0 && !esc then acc.2.2 else acc.2.2.noteBlock fn j t.n t.seq (60 * x.chunk + k) lifts esc
    (acc.1 ++ [{ z with husk := y.husk || own }], acc.2.1 || ov, u)
  let (blks, ov, u) := (List.range 60).foldl step ([], x.ovf, s)
  let sg := sigmaOf all
  let am := amagOf all
  ({ x with blks := blks, ovf := ov, hops := if starting then 0 else x.hops + 1
            sigma := if starting then sg else toF64 (addNum (ofF64 x.sigma) (ofF64 sg))
            amag := if starting then am else fadd32 x.amag am }, u)

/-- Write a finished chunk to DST; a non-finite result sets ACCNF in SPCTX (R233). -/
def State.writeResult (s : State) (b : Job) (t : BStream) (x : BSum) : State :=
  let put (s : State) (k : Nat) : State :=
    let y := x.blks.getD k (blkOf [] false)
    let n := t.elems x.chunk k
    let a := t.dst + 4 * (1920 * x.chunk + 32 * k)
    if n = 0 then s
    else
      let s := s.writeBytes a (bytesOfWords (y.decode.take n))
      if y.husk then (wordsOf a (4 * n)).foldl (fun s w => s.pokeHusk w true) s else s
  let s := (List.range 60).foldl put s
  let nonf := (List.range 60).any (fun k => ((x.blks.getD k (blkOf [] false)).decode.take (t.elems x.chunk k)).any (fun w => !(ofF32 w).isFinite))
  if nonf then s.orFlags b.spctx flagAccnf else s

/-- Whether DST is complete here, and whether the stream has nothing more to do here. -/
def BStream.complete (t : BStream) : Bool :=
  (List.range t.count).all (fun k => t.chunks.contains (2 * k + 1) || (!t.allg && t.ownerPos k != t.mypos))
def BStream.over (t : BStream) : Bool := t.complete && (List.range t.count).all (fun k => t.chunks.contains (2 * k))

/-- Mark progress of a stream; a complete DST raises its DONE spar, and a stream that is over frees its slot. -/
def State.streamMark (s : State) (fn j n : Nat) (keys : List Nat) : State :=
  match s.job fn j with
  | none => s
  | some b => match b.streams.find? (fun t => t.n == n) with
    | none => s
    | some t =>
      let u := { t with chunks := keys.foldl insSet t.chunks }
      let left (ts : List BStream) : List BStream :=
        if u.over then ts.filter (fun t => t.n != n) else ts.map (fun (x : BStream) => if x.n = n then u else x)
      let s := s.updJob fn j (fun b => { b with streams := left b.streams })
      if u.complete && !t.complete then s.agentOp fn j (16 + t.done) 0x09 t.doneSp (.add 1) else s

/-- The sum of 2^(E - 142) over the blocks, in FP64. -/
def expSum (bs : List Blk) : DWord := bs.foldl (fun (a : DWord) b => toF64 (addNum (ofF64 a) (.fin false 1 ((b.e : Int) - 142)))) 0

/-- A void by a stream: one of the speculative step takes effect when that step becomes the current one. -/
def State.streamVoid (s : State) (fn j : Nat) (t : BStream) (cause : Status) : State :=
  match s.job fn j with
  | none => s
  | some b =>
    if t.step = b.step then s.raiseVoid fn j cause
    else s.updJob fn j (fun b => { b with pendingVoid := some (b.pendingVoid.getD cause) })

/-- The owner of a segment has the whole sum: it is tested, written and, with ALLG, sent around (R233). A chunk that
carries a husk has no tally test. -/
def State.finishBlocks (s : State) (fn j : Nat) (b : Job) (t : BStream) (x : BSum) : State :=
  let vals := x.blks.flatMap Blk.decode
  let inner := toF64 (addNum (ofF64 (innerA x.amag)) (scaleNum (ofF64 (expSum x.blks)) 5))
  let bad := if x.lost || x.blks.any Blk.husk then none else tallyFails vals x.sigma x.ovf b.tauOf t.rlen inner
  match bad with
  | some (sum, tol) =>
    ((s.updJob fn j (fun b => { b with tallyf := sat 16 (b.tallyf + 1) })).record
      { Report.plain 0x08 gutTallyMismatch (engineOf t.dst) (tallyDetail x.chunk 0 x.start t.rlen x.sigma sum tol) with
        job := some (fn, j), fn := fn }).streamVoid fn j t gutTallyMismatch
  | none =>
    let s := s.writeResult b t x
    let s := if t.allg then s.sendBlocks fn j b t 4 x else s
    s.streamMark fn j t.n [2 * x.chunk, 2 * x.chunk + 1]

/-- The fields of a block-stream descriptor (R230), or none where a field has no meaning or an address leaves the
partition's memory. -/
def State.streamOf (s : State) (fn : Nat) (b : Job) (n : Nat) : Option BStream :=
  let v := s.readNat (b.bsq + 64 * (n % 256)) 64
  let rlen := field v 239 232
  let rtab := field v 191 128
  let nelem := field v 223 192
  let dst := field v 127 64
  let src := field v 63 0
  let seq := field v 287 272
  let mem (a len : Nat) : Bool := len == 0 || s.inPart fn a len
  let cur := b.bsSeen.1 == (b.step + 1) % 2 ^ 32
  let step := if cur || (b.spec && (b.ridgeSent || (b.bsSeen.1 == b.step && b.bsSeen.2.contains seq))) then (b.step + 1) % 2 ^ 32 else b.step
  if field v 511 288 ≠ 0 ∨ field v 255 249 ≠ 0 ∨ rlen = 0 ∨ field v 231 224 = 0 ∨ 254 < field v 231 224 ∨ rlen < field v 247 240 ∨
      !mem rtab (2 * (rlen + 1)) ∨ !mem dst (4 * nelem) ∨ !mem src (4 * nelem) then none
  else some
    { n := n, seq := seq, step := step, done := field v 271 256, doneSp := s.agentSpar fn b.spctx (field v 271 256), allg := bitOf v 248
      mypos := field v 247 240, rlen := rlen, e0 := field v 231 224, nelem := nelem
      ring := (List.range (rlen + 1)).map (fun i => s.readNat (rtab + 2 * i) 2), dst := dst, src := src, chunks := [], escapes := []
      lifted := false, escaped := false }

/-- BLOCK_STREAM_START: the next submitted descriptor takes a stream slot, and the chunks that start at this position
start. A descriptor with no meaning is passed over (DESIGN CHOICE). -/
def execBlockStreamStart (fn jslot : Nat) (s : State) : Host.Outcome State Fault Refusal :=
  done (.blockStreamStart fn jslot) (match s.job fn jslot with
    | none => s
    | some b =>
      if !b.flows || b.rewinding || b.me.spare || decide (s.agentValue b.bsSp ≤ b.bsStarted) || decide (b.slotcnt ≤ b.nring + b.streams.length)
      then s
      else
        let s := s.updJob fn jslot (fun b => { b with bsStarted := b.bsStarted + 1 })
        match s.streamOf fn b b.bsStarted with
        | none => s
        | some t =>
          let seen := if b.bsSeen.1 = t.step then insSet b.bsSeen.2 t.seq else [t.seq]
          let s := s.updJob fn jslot (fun b => { b with streams := b.streams ++ [t], bsSeen := (t.step, seen) })
          let mine := (List.range t.count).filter (fun k => (t.ownerPos k + 1) % (t.rlen + 1) == t.mypos)
          let start (s : State) (k : Nat) : State :=
            let zero : Blk := { e := t.e0, l := 0, esc := false, m := List.replicate 32 0, f := [], husk := false }
            let x : BSum := { chunk := k, start := b.myidx, hops := 0, ovf := false, sigma := 0, amag := 0, blks := List.replicate 60 zero
                              lost := false }
            let (x, s) := s.hopBlocks fn jslot t x true
            (s.sendBlocks fn jslot b t 3 x).streamMark fn jslot t.n [2 * k]
          (mine.foldl start s).streamMark fn jslot t.n [])

/-- Serve a block message for its stream: block messages of the next step are not held (R230). -/
def State.blocks (s : State) (port : Nat) (m : Msg) (type : Nat) (act : State → Nat → Nat → Job → BStream → GHdr → State) : State :=
  s.gutter port m type (fun s fn j b h =>
    let now (s : State) : State :=
      match b.streams.find? (fun t => t.seq == h.seq && t.step == h.step) with
      | some t => act s fn j b t h
      | none => s
    match b.age h with
    | .ahead => now s
    | _ => s.aged port m fn j b h now)

/-- The escape of a block, once it has come. -/
def BStream.escape (t : BStream) (c k : Nat) : Option (List CodeWord) := Map.get? t.escapes (64 * c + k)

/-- Whether every escaped block of a message has its escape. -/
def BStream.escaped? (t : BStream) (x : BSum) : Bool :=
  (List.range 60).all (fun k => !(x.blks.getD k (blkOf [] false)).esc || (t.escape x.chunk k).isSome)

/-- The escapes of a chunk have been used. -/
def State.useEscapes (s : State) (fn j n c : Nat) : State :=
  s.updJob fn j (fun b => { b with streams := b.streams.map (fun (t : BStream) =>
    if t.n = n then { t with escapes := t.escapes.filter (fun e => e.1 / 64 != c) } else t) })

/-- BLOCK_CONTRIBUTION: the share is added block by block, and the chunk goes on or is finished by its owner. -/
def execBlockContribution (port : Nat) (m : Msg) (s : State) : Host.Outcome State Fault Refusal :=
  done (.blockContribution port m) (s.blocks port m 3 (fun s fn j b t h =>
    let x := bsumOf m (fun k => t.escape h.chunk k)
    if decide (t.count ≤ h.chunk) || t.chunks.contains (2 * h.chunk) || !t.escaped? x then s
    else
      let s := (s.take port m).useEscapes fn j t.n h.chunk
      let (y, s) := s.hopBlocks fn j t x false
      if t.ownerPos h.chunk = t.mypos then s.finishBlocks fn j b t y
      else (s.sendBlocks fn j b t 3 y).streamMark fn j t.n [2 * h.chunk]))

/-- ESCAPE: the FP32 values of an escaped block wait for their chunk. -/
def execEscape (port : Nat) (m : Msg) (s : State) : Host.Outcome State Fault Refusal :=
  done (.escape port m) (s.blocks port m 5 (fun s fn j _ t h =>
    (s.take port m).updJob fn j (fun b => { b with streams := b.streams.map (fun (u : BStream) =>
      if u.n = t.n then { u with escapes := u.escapes.put (64 * h.chunk + h.blk) (msgBody m) } else u) })))

/-- BLOCK_RESULT: the result is written to DST and goes on until it has been once around. -/
def execBlockResult (port : Nat) (m : Msg) (s : State) : Host.Outcome State Fault Refusal :=
  done (.blockResult port m) (s.blocks port m 4 (fun s fn j b t h =>
    let x := bsumOf m (fun k => t.escape h.chunk k)
    if decide (t.count ≤ h.chunk) || t.chunks.contains (2 * h.chunk + 1) || !t.escaped? x then s
    else
      let s := (s.take port m).useEscapes fn j t.n h.chunk
      let s := s.writeResult b t x
      let s := if (t.mypos + 1) % (t.rlen + 1) = t.ownerPos h.chunk then s else s.sendBlocks fn j b t 4 x
      s.streamMark fn j t.n [2 * h.chunk + 1]))

end Sys2Proof.Machine
end

