-- ==== Sys2Proof/Machine/Engine.lean ====
section
/-! DEFINITION. The update engines: the rules (R196 to R207), the chunk update with its norms and digest (R192, R209,
R210, R212), the PRE blocks (R201), and the row copies after a seal (R208). -/

namespace Sys2Proof.Machine

/-! ## Arithmetic (R197) -/

def one32 : Word := 0x3F800000#32

/-- sign(x): ±1, +0 for a zero, the canonical NaN for a NaN. -/
def sign32 (x : Word) : Word :=
  match ofF32 x with
  | .nan _ => 0x7FC00000#32
  | v => if v.isZero then 0 else if v.neg? then 0xBF800000#32 else one32

/-- β^k by the table of repeated squares, in ascending order of the set bits of k. -/
def pow32 (beta : Word) (k : Nat) : Word :=
  ((List.range 32).foldl (fun (acc : Word × Word) i =>
    (if k.testBit i then fmul32 acc.1 acc.2 else acc.1, fmul32 acc.2 acc.2)) (one32, beta)).1

/-- a·x + b·y in the order of the pseudocode. -/
def lin2 (a x b y : Word) : Word := fadd32 (fmul32 a x) (fmul32 b y)

/-- What the engines form once per entry and attempt: the learning rate, the powers' steps, the bias corrections, and for
RULE 4 the row of coefficients. -/
structure Coef where
  eta : Word
  lambda : Word
  c1 : Word
  c2 : Word
  row : List Word
deriving DecidableEq, Repr

/-- w - eta·(d + lambda·w). -/
def descend (k : Coef) (w d : Word) : Word := fsub32 w (fmul32 k.eta (fadd32 d (fmul32 k.lambda w)))

/-- RULE 4 (R203): terms of states past NS count as 0, and h1 = 0 gives den = h0. -/
def ruleTable (e : UpdEntry) (k : Coef) (w : Word) (st : List Word) (g : Word) : Word × List Word :=
  let r (i : Nat) : Word := k.row.getD i 0
  let t := (List.range e.ns).map (fun j =>
    fadd32 (lin2 (r j) (st.getD j 0) (r (4 + j)) g) (fmul32 (r (8 + j)) (fmul32 g g)))
  let src := if e.cord then t else st
  let term (j : Nat) : Word := if j < e.ns then fmul32 (r (12 + j)) (src.getD j 0) else 0
  let n := fadd32 (fadd32 (fadd32 (fadd32 (term 0) (term 1)) (term 2)) (term 3)) (fmul32 (r 16) g)
  let n := if e.csign then sign32 n else n
  let h0 := r 17
  let h1 := r 18
  let den := if (ofF32 h1).isZero then h0 else fadd32 h0 (fmul32 h1 (fsqrt32 (toF32 (ofF32 (if e.cden < e.ns then t.getD e.cden 0 else 0)).abs)))
  (fsub32 w (fmul32 k.eta (fadd32 (fdiv32 n den) (fmul32 k.lambda w))), t)

/-- One element under an entry's rule: the new weight and states in binary32, from the sealed ones and g. -/
def ruleStep (e : UpdEntry) (k : Coef) (w : Word) (st : List Word) (g : Word) : Word × List Word :=
  let m := st.getD 0 0
  let v := st.getD 1 0
  match e.rule with
  | 0 =>
    let m := fadd32 (fmul32 e.beta1 m) g
    (descend k w (if e.nest then fadd32 g (fmul32 e.beta1 m) else m), [m])
  | 1 =>
    let m := lin2 e.beta1 m (fsub32 one32 e.beta1) g
    let v := fadd32 (fmul32 e.beta2 v) (fmul32 (fsub32 one32 e.beta2) (fmul32 g g))
    let u := fdiv32 (fdiv32 m k.c1) (fadd32 (fsqrt32 (fdiv32 v k.c2)) e.eps)
    (descend k w u, [m, v])
  | 2 =>
    let c := lin2 e.beta1 m (fsub32 one32 e.beta1) g
    (descend k w (sign32 c), [lin2 e.beta2 m (fsub32 one32 e.beta2) g])
  | 3 =>
    let m := fadd32 (fmul32 e.beta1 m) g
    (descend k w m, [m])
  | _ => ruleTable e k w st g

/-- The k idle steps of a touched row, as decay alone (R207). -/
def idleDecay (e : UpdEntry) (k : Coef) (n : Nat) (w : Word) (st : List Word) : Word × List Word :=
  if n = 0 then (w, st)
  else
    let w := fmul32 w (pow32 (fsub32 one32 (fmul32 k.eta k.lambda)) n)
    let m := st.getD 0 0
    match e.rule with
    | 0 => (w, [fmul32 m (pow32 e.beta1 n)])
    | 1 => (w, [fmul32 m (pow32 e.beta1 n), fmul32 (st.getD 1 0) (pow32 e.beta2 n)])
    | 2 => (w, [fmul32 m (pow32 e.beta2 n)])
    | _ => (w, st)

/-! ## Buffers (R194, R195, R204) -/

/-- States that the engine itself updates under a rule. -/
def UpdEntry.states (e : UpdEntry) : Nat :=
  match e.rule with
  | 1 => 2
  | 4 => e.ns
  | _ => 1

def UpdEntry.width (e : UpdEntry) : Nat := if e.stbf16 then 2 else 4

/-- A stored state value as binary32, and the code in which a new one is stored: BF16 by stochastic rounding with the
state's tensor id, or FP32 (R204). -/
def UpdEntry.load (e : UpdEntry) (code : Nat) : Word := if e.stbf16 then toF32 (decodeFmt bf16 code) else BitVec.ofNat 32 code

def roundBf16 (seed : DWord) (tid : Word) (step idx : Nat) (v : Word) : Nat :=
  (convertNum bf16 false (some (roundBits seed tid (BitVec.ofNat 32 step) (BitVec.ofNat 64 idx))) (ofF32 v)).1

def UpdEntry.store (e : UpdEntry) (seed : DWord) (step idx j : Nat) (v : Word) : Nat :=
  if e.stbf16 then roundBf16 seed (e.tid + 1 + BitVec.ofNat 32 j) step idx v else v.toNat

def UpdEntry.storeFinite (e : UpdEntry) (code : Nat) : Bool :=
  (if e.stbf16 then decodeFmt bf16 code else decodeFmt f32 code).isFinite

/-- The schedule entry of a step: ρ and γ (R196). -/
def State.schedule (s : State) (h : UpdHdr) (step : Nat) : Word × Word :=
  if h.schlen = 0 then (one32, one32)
  else
    let i := if step < h.schbase then 0 else min (step - h.schbase) (h.schlen - 1)
    let v := s.readNat (h.sched + 8 * i) 8
    (BitVec.ofNat 32 v, BitVec.ofNat 32 (v / 2 ^ 32))

/-- The coefficients of an entry for a step. -/
def State.coef (s : State) (e : UpdEntry) (step : Nat) (rho : Word) : Coef :=
  let t := step - e.start + 1
  if e.rule = 4 then
    let a := e.aux + 128 * min (step - e.start) (e.ctlen - 1)
    let row := (List.range 32).map (fun i => BitVec.ofNat 32 (s.readNat (a + 4 * i) 4))
    { eta := row.getD 19 0, lambda := row.getD 20 0, c1 := one32, c2 := one32, row := row }
  else
    { eta := fmul32 e.eta rho, lambda := e.lambda
      c1 := if e.bc then fsub32 one32 (pow32 e.beta1 t) else one32
      c2 := if e.bc then fsub32 one32 (pow32 e.beta2 t) else one32, row := [] }

/-! ## Norm rows (R209) -/

/-- Add to a field of a norm row: byte 0 ‖w‖², 8 ‖g‖², 16 ‖Δw‖². -/
def State.addNorm (s : State) (a off : Nat) (v : DWord) : State :=
  s.writeNat (a + off) 8 (toF64 (addNum (ofF64 (BitVec.ofNat 64 (s.readNat (a + off) 8))) (ofF64 v))).toNat

/-- FP64 sum of exact squares in ascending order. -/
def squareSum (vs : List Num) : DWord := vs.foldl (fun (a : DWord) v => toF64 (addNum (ofF64 a) (mulNum v v))) 0

/-- The first chunk of an attempt at an engine: its rows of the step are opened and its schedule entry is read. -/
def State.openAttempt (s : State) (q fn j : Nat) (b : Job) : State :=
  if (s.engine q).opened.contains (fn, j) then s
  else
    let s := (List.range b.hdr.ntlayers).foldl (fun s l =>
      s.writeBytes (b.hdr.normRow b.step q l) (leBytes 24 0 ++ leBytes 4 b.step ++ leBytes 4 0)) s
    s.updEngine q (fun g => { g with
      opened := g.opened ++ [(fn, j)]
      applied := Map.put g.applied (jobKey fn j) 0
      stepOf := Map.put g.stepOf (jobKey fn j) b.step
      sched := Map.put g.sched (jobKey fn j) (s.schedule b.hdr b.step) })

/-! ## Ends of a chunk -/

/-- An engine meets a husk: it is consumed, and the step voids (R169, R228). -/
def State.engineHusk (s : State) (q fn j chunk : Nat) : State :=
  ((s.countHusk fn).record { Report.plain 0x08 memHuskConsumed q (leBytes 8 chunk) with job := some (fn, j), fn := fn }).raiseVoid
    fn j memHuskConsumed

/-- An engine meets a non-finite value: 0 in g, 1 in a state, 2 in w (R212). -/
def State.engineNonfinite (s : State) (q fn j : Nat) (b : Job) (e : UpdEntry) (chunk elem what : Nat) : State :=
  let a := b.hdr.normRow b.step q e.layer + 30
  let s := s.writeNat a 1 (s.readNat a 1 ||| 2)
  let s := s.updEngine q (fun g => { g with stopped := g.stopped ++ [(fn, j)] })
  (s.record { Report.plain 0x08 stepAbortedNonfinite q (leBytes 8 chunk ++ leBytes 2 elem ++ leBytes 1 what) with
    job := some (fn, j), fn := fn }).raiseVoid fn j stepAbortedNonfinite

/-- The owner's parameter message of a chunk that has passed: with the chunk's provisional weights, or the header alone
(R237). -/
def State.shareParams (s : State) (fn j : Nat) (b : Job) (c mask : Nat) (w : Option Nat) : State :=
  let s := s.updJob fn j (fun b => { b with ownDone := c :: b.ownDone })
  match b.next with
  | none => s
  | some (_, dest) =>
    let h : GHdr := { b.hdr0 2 with chunk := c, ring := b.ringOf c, mask := mask }
    let body := match w with
      | some a => codeWords (s.readBytes a 2048) (fun k => (wordsOf (a + 16 * k) 16).any s.huskAt)
      | none => []
    s.gutterSend fn j b (some (b.ringOf c)) dest h body

/-- A chunk has been written: it is hashed into the device digest and the held digest (R210, R237). -/
def State.hashChunk (s : State) (fn j c step a : Nat) : State :=
  let h := chunkHash c step (s.readBytes a 2048)
  let s := s.updJob fn j (fun b => { b with
    devDigest := (b.devDigest + h) % 2 ^ 128, hashed := b.hashed + 1, digest := (b.digest + h) % 2 ^ 128 })
  match s.job fn j with
  | some b => s.digestRecord b 0
  | none => s

/-! ## Elements -/

/-- One updated element: its number in the chunk, old and new weight codes, state codes. -/
structure Elem where
  k : Nat
  old : Nat
  w : Nat
  st : List Nat
deriving DecidableEq, Repr

/-- Update the element `k` of chunk `c`, whose gradient is g, after `idle` idle steps: the new codes, or the quantity that
is not finite. -/
def State.updateElem (s : State) (b : Job) (e : UpdEntry) (kf : Coef) (set c k idle : Nat) (g : Word) : Except Nat Elem :=
  let idx := 1024 * (c - e.first) + k
  let old := s.readNat (s.bufAddr e set 0 + 2 * idx) 2
  let st := (List.range e.states).map (fun j => e.load (s.readNat (s.bufAddr e set (1 + j) + e.width * idx) e.width))
  let (w, st) := idleDecay e kf idle (toF32 (decodeFmt bf16 old)) st
  let (w, st) := ruleStep e kf w st g
  let code := roundBf16 b.hdr.seed e.tid b.step idx w
  let codes := (List.range e.states).map (fun j => e.store b.hdr.seed b.step idx j (st.getD j 0))
  if !(ofF32 g).isFinite then .error 0
  else if codes.any (fun x => !e.storeFinite x) then .error 1
  else if !(decodeFmt bf16 code).isFinite then .error 2
  else .ok { k := k, old := old, w := code, st := codes }

/-- Update elements in ascending order, until one is not finite. -/
def State.updateElems (s : State) (b : Job) (e : UpdEntry) (kf : Coef) (set c idle : Nat) (g : Nat → Word) :
    List Nat → Except (Nat × Nat) (List Elem)
  | [] => .ok []
  | k :: ks => match s.updateElem b e kf set c k idle (g k) with
    | .error what => .error (k, what)
    | .ok x => match State.updateElems s b e kf set c idle g ks with
      | .error r => .error r
      | .ok xs => .ok (x :: xs)

/-- Write a run of consecutive elements into a set. -/
def State.writeElems (s : State) (e : UpdEntry) (set c : Nat) (xs : List Elem) : State :=
  match xs with
  | [] => s
  | x :: _ =>
    let idx := 1024 * (c - e.first) + x.k
    let s := s.writeBytes (s.bufAddr e set 0 + 2 * idx) (xs.flatMap (fun x => leBytes 2 x.w))
    (List.range e.states).foldl (fun s j =>
      s.writeBytes (s.bufAddr e set (1 + j) + e.width * idx) (xs.flatMap (fun x => leBytes e.width (x.st.getD j 0)))) s

/-- Whether sealed words that an update of elements k to k + n reads are husks. -/
def State.elemHusks (s : State) (e : UpdEntry) (set c k n : Nat) : Bool :=
  let idx := 1024 * (c - e.first) + k
  !(s.husksIn (s.bufAddr e set 0 + 2 * idx) (2 * n)).isEmpty ||
    (List.range e.states).any (fun j => !(s.husksIn (s.bufAddr e set (1 + j) + e.width * idx) (e.width * n)).isEmpty)

def normW (xs : List Elem) : DWord := squareSum (xs.map (fun x => decodeFmt bf16 x.w))
def normD (xs : List Elem) : DWord := squareSum (xs.map (fun x => addNum (decodeFmt bf16 x.w) (decodeFmt bf16 x.old).negate))

/-! ## ENGINE_APPLY_CHUNK (R192) -/

/-- Idle steps of a touched row (R206). -/
def State.idleOf (s : State) (e : UpdEntry) (set step row : Nat) : Nat :=
  let r := s.readNat (s.bufAddr e set 5 + 4 * row) 4
  if r = 0xFFFFFFFF then step - e.start else step - r - 1

/-- Runs of elements of a chunk that are updated together: the touched rows, or the whole chunk. -/
def UpdEntry.runs (e : UpdEntry) (mask : Nat) : List (Nat × Nat) :=
  if e.emb then ((List.range e.rows).filter (fun r => bitOf mask r)).map (fun r => (r, e.rowLen)) else [(0, 1024)]

/-- Update the runs of a chunk one after another. -/
def State.updateRuns (s : State) (b : Job) (e : UpdEntry) (kf : Coef) (set c : Nat) (g : Nat → Word) :
    List (Nat × Nat) → Except (Nat × Nat) (List (List Elem))
  | [] => .ok []
  | (r, n) :: rs =>
    let idle := if e.emb then s.idleOf e set b.step (e.rowOf c r) else 0
    match s.updateElems b e kf set c idle g ((List.range n).map (· + n * r)) with
    | .error x => .error x
    | .ok xs => match State.updateRuns s b e kf set c g rs with
      | .error x => .error x
      | .ok ys => .ok (xs :: ys)

/-- Apply a dense or embedding chunk (R198 to R200, R203, R206). -/
def State.applyRule (s : State) (q fn j : Nat) (b : Job) (i : Nat) (e : UpdEntry) (x : EChunk) (rho gamma : Word) : State :=
  let c := x.chunk
  let set := s.sel e
  let new := 1 - set
  let runs := e.runs x.mask.toNat
  let g (k : Nat) : Word := fmul32 gamma (x.vals.getD k 0)
  let kf := s.coef e b.step rho
  if runs.any (fun r => s.elemHusks e set c (r.2 * r.1) r.2) then s.engineHusk q fn j c
  else match s.updateRuns b e kf set c g runs with
    | .error (k, what) => s.engineNonfinite q fn j b e c k what
    | .ok ys =>
      let s := ys.foldl (fun s xs => s.writeElems e new c xs) s
      let rows := if e.emb then runs.map (fun r => e.rowOf c r.1) else []
      let s := rows.foldl (fun s r => s.writeNat (s.bufAddr e new 5 + 4 * r) 4 b.step) s
      let s := s.updEngine q (fun y => { y with touched := y.touched ++ rows.map (fun r => (fn, j, i, r)) })
      let all := ys.flatten
      let a := b.hdr.normRow b.step q e.layer
      let s := ((s.addNorm a 0 (normW all)).addNorm a 8 (squareSum (all.map (fun y => ofF32 (g y.k))))).addNorm a 16 (normD all)
      let w := s.bufAddr e new 0 + 2048 * (c - e.first)
      (s.hashChunk fn j c b.step w).shareParams fn j b c (if e.emb then x.mask.toNat else 0) (some w)

/-- Elements of a block of a PRE entry, as element numbers of the region in row-major order. -/
def PreBlock.elems (p : PreBlock) (k : Nat) : List Nat :=
  let (br, bc) := (k / p.grid.2, k % p.grid.2)
  (List.range p.br).flatMap (fun r => (List.range p.bc).filterMap (fun c =>
    let row := br * p.br + r
    let col := bc * p.bc + c
    if row < p.rows ∧ col < p.cols then some (row * p.cols + col) else none))

/-- Stage a chunk of a PRE entry; a block whose last element it stages raises the staged spar (R201). -/
def State.stageChunk (s : State) (q fn j : Nat) (b : Job) (i : Nat) (e : UpdEntry) (x : EChunk) (gamma : Word) : State :=
  let p := s.preBlock e.aux
  let c := x.chunk
  let base := 1024 * (c - e.first)
  let n := min 1024 (p.rows * p.cols - base)
  let gs := (List.range 1024).map (fun k => fmul32 gamma (x.vals.getD k 0))
  match (List.range 1024).find? (fun k => !(ofF32 (gs.getD k 0)).isFinite) with
  | some k => s.engineNonfinite q fn j b e c k 0
  | none =>
    let s := s.writeBytes (p.stage + 4 * base) ((gs.take n).flatMap (fun g => leBytes 4 g.toNat))
    let s := s.addNorm (b.hdr.normRow b.step q e.layer) 8 (squareSum (gs.map ofF32))
    let staged := c :: b.staged
    let s := s.updJob fn j (fun b => { b with staged := staged })
    let touches (k : Nat) : Bool := (p.elems k).any (fun y => decide (base ≤ y ∧ y < base + 1024))
    let full (k : Nat) : Bool := (p.elems k).all (fun y => staged.contains (e.first + y / 1024))
    ((List.range p.blocks).filter (fun k => touches k && full k)).foldl (fun s k =>
      (s.writeNat (p.staged k) 4 b.step).agentOp fn j (2 ^ 17 + 2 * i) 0x08 ((b.preSp.getD i (none, none)).1) (.add 1)) s

/-- A chunk that an engine may take now: its job's attempt still runs, no checkpoint reads its buffer set, and no row copy
of its rows is running (R208, R387). -/
def State.takes (s : State) (x : EChunk) : Bool :=
  match s.job x.fn x.jslot with
  | none => true
  | some b =>
    !b.ckruns.any (fun (r : CkRun) => decide ((r.step + 2) % 2 ^ 32 = b.step)) &&
      (match b.updOf x.chunk with
       | some (i, e) => !(e.emb && s.copying x.fn x.jslot i (fun r => decide (r / e.rows = x.chunk - e.first)))
       | none => true)

/-- Take a chunk: husks, the tally, then the entry's rule (R212, R228). -/
def State.applyChunk (s : State) (q : Nat) (x : EChunk) : State :=
  match s.job x.fn x.jslot with
  | none => s
  | some b =>
    if x.gen ≠ b.gen ∨ x.step ≠ b.step then s
    else match b.updOf x.chunk with
      | none => s
      | some (i, e) =>
        let fn := x.fn
        let j := x.jslot
        let s := s.openAttempt q fn j b
        if x.husk then s.engineHusk q fn j x.chunk
        else match tallyFails x.vals x.sigma x.ovf b.tauOf (b.size b.me.group - 1) (innerA x.amag) with
          | some (sum, tol) =>
            s.tallyFault fn j 0x08 q (tallyDetail x.chunk x.ring x.startIdx (b.size b.me.group - 1) x.sigma sum tol)
          | none =>
            let s := s.updEngine q (fun g => { g with applied := Map.put g.applied (jobKey fn j) (Map.getD g.applied (jobKey fn j) 0 + 1) })
            let (rho, gamma) := Map.getD (s.engine q).sched (jobKey fn j) (one32, one32)
            if b.step < e.start ∨ (e.emb ∧ e.runs x.mask.toNat = []) then s.shareParams fn j b x.chunk 0 none
            else if e.rule = 3 then s.stageChunk q fn j b i e x gamma
            else s.applyRule q fn j b i e x rho gamma

/-- ENGINE_APPLY_CHUNK: an engine takes the chunk that has waited longest. -/
def execEngineApplyChunk (engine : Nat) (s : State) : Host.Outcome State Fault Refusal :=
  done (.engineApplyChunk engine) (match (s.engine engine).chunks.find? (fun x => s.takes x) with
    | none => s
    | some x => (s.updEngine engine (fun g => { g with chunks := g.chunks.erase x })).applyChunk engine x)

/-! ## PRE_BLOCK_APPLY (R201) -/

/-- Write elements one by one into a set: the elements of a block row are not always whole code words. -/
def State.writeEach (s : State) (e : UpdEntry) (set : Nat) (xs : List Elem) : State :=
  xs.foldl (fun s x => s.writeElems e set e.first [x]) s

/-- A chunk of a PRE entry whose blocks have all been applied is passed, hashed and shared. -/
def State.finishPre (s : State) (q fn j : Nat) (b : Job) (e : UpdEntry) (p : PreBlock) (c : Nat) (applied : List Nat) : State :=
  let base := 1024 * (c - e.first)
  let mine := (List.range p.blocks).filter (fun k => (p.elems k).any (fun y => decide (base ≤ y ∧ y < base + 1024)))
  if b.ownDone.contains c || !b.staged.contains c || !mine.all (fun k => applied.contains k) then s
  else
    let set := s.sel e
    let new := 1 - set
    let w (t : Nat) : Nat := s.bufAddr e t 0 + 2 * base
    let pad := max base (p.rows * p.cols) - base
    let s := if pad < 1024 then
        (s.writeBytes (w new + 2 * pad) (List.replicate (2 * (1024 - pad)) 0)).writeBytes (s.bufAddr e new 1 + 4 * (base + pad))
          (List.replicate (4 * (1024 - pad)) 0)
      else s
    let code (t k : Nat) : Nat := s.readNat (w t + 2 * k) 2
    let all := (List.range 1024).map (fun k => ({ k := k, old := code set k, w := code new k, st := [] } : Elem))
    let a := b.hdr.normRow b.step q e.layer
    let s := (s.addNorm a 0 (normW all)).addNorm a 16 (normD all)
    (s.hashChunk fn j c b.step (w new)).shareParams fn j b c 0 (some (w new))

/-- Apply one ready block. -/
def State.applyBlock (s : State) (fn j : Nat) (b : Job) (i : Nat) (e : UpdEntry) (p : PreBlock) (k : Nat) : State :=
  let set := s.sel e
  let q := engineOf (s.bufAddr e (1 - set) 0)
  let els := p.elems k
  let (rho, _) := Map.getD (s.engine q).sched (jobKey fn j) (s.schedule b.hdr b.step)
  let kf := s.coef e b.step rho
  let gh (y : Nat) : Word := BitVec.ofNat 32 (s.readNat (p.stage + 4 * y) 4)
  match els.find? (fun y => !(s.husksIn (p.stage + 4 * y) 4).isEmpty || s.elemHusks e set e.first y 1) with
  | some y => s.engineHusk q fn j (e.first + y / 1024)
  | none => match s.updateElems b e kf set e.first 0 gh els with
    | .error (y, what) => s.engineNonfinite q fn j b e (e.first + y / 1024) (y % 1024) (if what = 0 then 1 else what)
    | .ok xs =>
      let s := (s.writeEach e (1 - set) xs).updJob fn j (fun b => { b with preDone := b.preDone ++ [(i, k)] })
      match s.job fn j with
      | none => s
      | some b =>
        let applied := (b.preDone.filter (fun d => d.1 == i)).map (·.2)
        (els.map (fun y => e.first + y / 1024)).eraseDups.foldl (fun s c =>
          s.finishPre (engineOf (s.bufAddr e (1 - set) 0 + 2048 * (c - e.first))) fn j b e p c applied) s

/-- PRE_BLOCK_APPLY: every block whose ready word holds the step and that has not been applied. A void on the way ends it. -/
def execPreBlockApply (fn jslot entry : Nat) (s : State) : Host.Outcome State Fault Refusal :=
  done (.preBlockApply fn jslot entry) (match s.job fn jslot with
    | none => s
    | some b => match b.upd[entry]? with
      | none => s
      | some e =>
        if e.rule ≠ 3 ∨ !b.flows ∨ b.rewinding ∨ b.step < e.start then s
        else
          let p := s.preBlock e.aux
          (List.range p.blocks).foldl (fun s k => match s.job fn jslot with
            | none => s
            | some b' =>
              if b'.gen ≠ b.gen ∨ b'.preDone.contains (entry, k) ∨ s.readNat (p.staged k) 4 ≠ b.step % 2 ^ 32 ∨
                  s.readNat (p.ready k) 4 ≠ b.step % 2 ^ 32
              then s
              else s.applyBlock fn jslot b' entry e p k) s)

/-! ## ROW_COPY_DONE (R208) -/

/-- Copy one row, weights, states and RSTEP word, from the sealed set to the provisional set. -/
def State.copyRow (s : State) (e : UpdEntry) (row : Nat) : State :=
  let set := s.sel e
  let new := 1 - set
  let n := e.rowLen
  let s := s.copyBytes (s.bufAddr e set 0 + 2 * n * row) (s.bufAddr e new 0 + 2 * n * row) (2 * n)
  let s := (List.range e.states).foldl (fun s j =>
    s.copyBytes (s.bufAddr e set (1 + j) + e.width * n * row) (s.bufAddr e new (1 + j) + e.width * n * row) (e.width * n)) s
  s.writeNat (s.bufAddr e new 5 + 4 * row) 4 (s.readNat (s.bufAddr e set 5 + 4 * row) 4)

/-- Whether the row copies of a job wait for a checkpoint of the step before the sealed one (R387). -/
def Job.copiesWait (b : Job) : Bool := b.ckruns.any (fun (r : CkRun) => decide ((r.step + 2) % 2 ^ 32 = b.step))

def execRowCopyDone (engine : Nat) (s : State) : Host.Outcome State Fault Refusal :=
  let free (r : Nat × Nat × Nat × Nat) : Bool := match s.job r.1 r.2.1 with
    | some b => !b.copiesWait
    | none => true
  done (.rowCopyDone engine) (match (s.engine engine).rows.find? free with
    | none => s
    | some (fn, j, i, row) =>
      let s := s.updEngine engine (fun g => { g with rows := g.rows.erase (fn, j, i, row) })
      match s.job fn j with
      | none => s
      | some b => match b.upd[i]? with
        | none => s
        | some e => s.copyRow e row)

end Sys2Proof.Machine
end

