-- ==== Sys2Proof/Machine/Shadow.lean ====
section
/-! DEFINITION. Shadow verdicts (R378 to R380) and the row shift of a retirement (R23). -/

namespace Sys2Proof.Machine

/-! ## Verdicts -/

def State.dropShadow (s : State) (id : Nat) : State :=
  { s with grid := { s.grid with shadows := s.grid.shadows.filter (fun v => v.id != id) } }

/-- A drain has been checked. -/
def State.countShadow (s : State) (fn : Nat) (f : Fn → Fn) : State := s.updFn fn (fun g => f { g with samples := sat 24 (g.samples + 1) })

/-- DETAIL of a verdict: the first element in which the three differ, by its accumulators, else by its outputs (DESIGN
CHOICE). -/
def Shadow.detail (v : Shadow) (c1 c2 : List Word × List Word) : List Byte :=
  let at3 (l1 l2 l3 : List Word) : Option Nat :=
    (List.range 16).find? (fun k => l1.getD k 0 != l2.getD k 0 || l1.getD k 0 != l3.getD k 0)
  let (k, x, y, z) := match at3 v.accs c1.1 c2.1 with
    | some k => (k, v.accs.getD k 0, c1.1.getD k 0, c2.1.getD k 0)
    | none =>
      let k := (at3 v.outs c1.2 c2.2).getD 0
      (k, v.outs.getD k 0, c1.2.getD k 0, c2.2.getD k 0)
  leBytes 4 v.core ++ leBytes 4 k ++ leBytes 4 x.toNat ++ leBytes 4 y.toNat ++ leBytes 4 z.toNat ++ leBytes 2 v.rows.1 ++ leBytes 2 v.rows.2

/-- The record of a verdict, with the address of its capture slot. -/
def State.verdictReport (s : State) (v : Shadow) (st : Status) (detail : List Byte) : Report :=
  let fn := (s.ctx v.ctx).fn
  let cap := match v.capture, s.part fn with
    | some k, some p => p.hbmLocal (p.captureAt k)
    | _, _ => 0
  { s.gridReport v.core st detail with ctx := some v.ctx, fn := fn, capture := cap }

/-- Where a sampled drain stands in its job: its attempt is the current one, it lies in the speculative step, its attempt
has voided, or it belongs to no open step. -/
inductive Standing where
  | current (fn j : Nat)
  | ahead
  | voided (fn j : Nat)
  | none
deriving DecidableEq, Repr

def State.standing (s : State) (v : Shadow) : Standing :=
  match v.step with
  | .none => .none
  | .some (fn, j, t, g) => match s.job fn j with
    | .none => .none
    | .some b =>
      if b.gen ≠ g then .voided fn j
      else if b.step = t then .current fn j
      else if t = (b.step + 1) % 2 ^ 32 then .ahead
      else .none

/-- Act on a verdict against the original: the step voids, or the context faults; a guilty core is retired (R380). -/
def State.actVerdict (s : State) (v : Shadow) (st : Status) (rep : Report) : State :=
  let fn := (s.ctx v.ctx).fn
  let guilty := st == gngShadowMismatch
  match s.standing v with
  | .current f j =>
    let s := s.record rep
    let s := if guilty then s.retire fn v.core (some j) false st else s
    s.raiseVoid f j st
  | .voided _ j =>
    let s := s.record rep
    if guilty then s.retire fn v.core (some j) true st else s
  | _ =>
    let s := s.faultCtx v.ctx rep none
    if guilty then s.retire fn v.core none true st else s

/-- Put a verdict into effect, or keep it until the speculative step becomes the current one. -/
def State.giveVerdict (s : State) (v : Shadow) (st : Status) (detail : List Byte) : State :=
  match s.standing v with
  | .ahead =>
    { s with grid := { s.grid with shadows := s.grid.shadows.map (fun (x : Shadow) =>
        if x.id = v.id then { x with verdict := some (st, detail) } else x) } }
  | _ => (s.dropShadow v.id).actVerdict v st (s.verdictReport v st detail)

/-- CHECKER_RESULT: checker 1 has repeated the drain; equality, bit for bit, ends the check. -/
def execCheckerResult (id : Nat) (accs outs : List Word) (s : State) : Host.Outcome State Fault Refusal :=
  done (.checkerResult id accs outs) (match s.grid.shadows.find? (fun v => v.id == id) with
    | none => s
    | some v =>
      if v.checker1.isSome || v.verdict.isSome then s
      else if accs = v.accs ∧ outs = v.outs then (s.dropShadow id).countShadow (s.ctx v.ctx).fn (fun g => g)
      else
        let s := { s with grid := { s.grid with shadows := s.grid.shadows.map (fun (x : Shadow) =>
          if x.id = id then { x with checker1 := some (accs, outs) } else x) } }
        s.saveCapture v (accs, outs) ([], []))

/-- Checker 1's spare is guilty: its row has no spare any longer. -/
def State.failSpare (s : State) (v : Shadow) : State :=
  let course := courseOfCore v.core
  let row := v.rows.1
  let fn := (s.ctx v.ctx).fn
  let s := s.updCourse course (fun c => { c with retired := c.retired.put row 32 })
  let rep := { s.gridReport v.core gngCoreRetired
    (leBytes 4 0xFFFFFFFF ++ leBytes 4 (tractOfCore v.core) ++ leBytes 2 gngShadowMismatch.toNat) with
    fn := fn, loc := course + row * 2 ^ 10 + 32 * 2 ^ 15 }
  (s.record rep).journal ((s.ownerOfCourse course).getD 0) 2 8 course (BitVec.ofNat 128 (course + 2 ^ 16 * row))

/-- ARBITER_VERDICT: checker 2 has repeated the drain, and the verdict is applied. -/
def execArbiterVerdict (id : Nat) (accs outs : List Word) (s : State) : Host.Outcome State Fault Refusal :=
  done (.arbiterVerdict id accs outs) (match s.grid.shadows.find? (fun v => v.id == id) with
    | none => s
    | some v => match v.checker1 with
      | none => s
      | some c1 =>
        if v.verdict.isSome then s
        else
          let fn := (s.ctx v.ctx).fn
          let s := s.saveCapture v c1 (accs, outs)
          let detail := v.detail c1 (accs, outs)
          if (accs, outs) = (v.accs, v.outs) then
            ((s.dropShadow id).countShadow fn (fun g => { g with chkfail := sat 8 (g.chkfail + 1) })).failSpare v
          else if (accs, outs) = c1 then
            (s.countShadow fn (fun g => { g with mismatch := sat 8 (g.mismatch + 1) })).giveVerdict v gngShadowMismatch detail
          else (s.countShadow fn (fun g => { g with unres := sat 8 (g.unres + 1) })).giveVerdict v gngShadowUnresolved detail)

/-- The verdicts kept for a step act when it becomes the current one. -/
def State.actKept (s : State) (fn j : Nat) : State :=
  let due (v : Shadow) : Bool := v.verdict.isSome && decide (s.standing v = .current fn j)
  (s.grid.shadows.filter due).foldl (fun s v => match v.verdict with
    | some (st, detail) => (s.dropShadow v.id).actVerdict v st (s.verdictReport v st detail)
    | none => s) s

/-! ## The row shift (R23) -/

/-- What a core holds is lost when its physical position changes. -/
def Core.emptied (c : Core) : Core :=
  { c with ls := [], lsHusk := [], lines := []
           slots := c.slots.map (fun x => (x.1, { x.2 with
             u := [], threads := x.2.threads.map (fun t => (t.1, { t.2 with g := [], p := 0 })) })) }

/-- ROW_SHIFT: the shift of a due retirement begins. A course in OFF wakes first (R397). -/
def execRowShift (course row : Nat) (s : State) : Host.Outcome State Fault Refusal :=
  done (.rowShift course row) (match s.grid.retires.find? (fun r => r.course == course && r.row == row && r.due && !r.shifting) with
    | none => s
    | some r =>
      if (s.course course).power = .off then s.wakeCourse course else
      let rep := { s.gridReport r.core gngCoreRetired (leBytes 4 r.core ++ leBytes 4 r.tract ++ leBytes 2 r.cause.toNat) with fn := r.fn }
      let s := s.record rep
      let s := s.journal ((s.ownerOfCourse course).getD 0) 2 5 r.core (BitVec.ofNat 128 (course + 2 ^ 16 * row + 2 ^ 32 * r.col))
      let s := s.updCourse course (fun c => { c with retired := c.retired.put row r.col })
      let moved := ((List.range 32).filter (fun k => decide (r.col ≤ k))).map (fun k => coreAt course row k)
      let s := moved.foldl (fun s n => if (s.grid.cores.get? n).isSome then s.updCore n Core.emptied else s) s
      { s with grid := { s.grid with retires := s.grid.retires.map (fun (x : Retire) => if x = r then { x with shifting := true } else x) } })

/-- ROW_SHIFT_DONE: the shift is complete, and the withheld work of the tract is released. -/
def execRowShiftDone (course row : Nat) (s : State) : Host.Outcome State Fault Refusal :=
  done (.rowShiftDone course row) (match s.grid.retires.find? (fun r => r.course == course && r.row == row && r.shifting) with
    | none => s
    | some r =>
      let s := { s with grid := { s.grid with retires := s.grid.retires.filter (fun x => x != r) } }
      s.nextReshapes r.tract s.grid.reshapes.length)

end Sys2Proof.Machine
end

