-- ==== Sys2Proof/Machine/Seal.lean ====
section
/-! DEFINITION. Agreement on a step: ridges, voids and joins on their way (R238 to R243), the digest verdict and expulsion
(R245 to R247), the seal (R211, R240), the step journal (R384), checkpoints (R385 to R387) and the takeover (R388). -/

namespace Sys2Proof.Machine

/-! ## The step journal (R384) -/

/-- Write the step-journal entry of a step: outcome 0 committing, 1 sealed, 2 skipped. `selp` is SEL after the seal. -/
def State.journalStep (s : State) (b : Job) (outcome selp : Nat) : State :=
  match b.ckdesc with
  | none => s
  | some d =>
    let cause := if b.causeStep = b.step then b.cause.toNat else 0
    s.writeBytes (d.jrnl + 32 * (b.step % d.jdepth))
      (leBytes 4 b.step ++ leBytes 1 (min b.attempts 255) ++ leBytes 1 (outcome + 4 * selp) ++ leBytes 2 cause ++
        leBytes 8 s.pwr.time.toNat ++ leBytes 8 b.devDigest ++ leBytes 8 b.energy)

/-! ## Checkpoints (R386, R387) -/

/-- Parts of a checkpoint body: 0 weights, 1 states, 2 RSTEP words, 3 statistics and roots of PRE, 4 the journal. -/
structure CkPart where
  kind : Nat
  addr : Nat
  len : Nat
deriving DecidableEq, Repr

/-- The body of a checkpoint of a member: the parts of each update entry in table order, from one buffer set, then the
journal. -/
def State.ckParts (s : State) (b : Job) (m : Member) (setOf : UpdEntry → Nat) (d : CkDesc) : List CkPart :=
  let one (e : UpdEntry) : List CkPart :=
    let set := setOf e
    let f := max e.first m.first
    let n := min (e.first + e.nchunk) (m.first + m.nchunk) - f
    let k := f - e.first
    let w : List CkPart := [{ kind := 0, addr := s.bufAddr e set 0 + 2048 * k, len := 2048 * n }]
    let st := (List.range e.states).map (fun j =>
      ({ kind := 1, addr := s.bufAddr e set (1 + j) + 1024 * e.width * k, len := 1024 * e.width * n } : CkPart))
    let r : List CkPart := if e.emb then [{ kind := 2, addr := s.bufAddr e set 5 + 4 * e.rows * k, len := 4 * e.rows * n }] else []
    let p := s.preBlock e.aux
    let pre : List CkPart := if e.rule = 3 then
        [{ kind := 3, addr := s.bufAddr e set 2, len := 8 * p.blocks * p.br * p.br },
         { kind := 3, addr := s.bufAddr e set 3, len := 8 * p.blocks * p.bc * p.bc }]
      else []
    w ++ st ++ r ++ pre
  (b.upd.flatMap one ++ [({ kind := 4, addr := d.jrnl, len := 32 * d.jdepth } : CkPart)]).filter (fun (x : CkPart) => x.len != 0)

/-- The bytes of some parts, each with its husk mark. -/
def State.readParts (s : State) (ps : List CkPart) : List (Byte × Bool) :=
  ps.flatMap (fun p => (List.range p.len).map (fun k => (s.byteAt (p.addr + k), s.huskAt ((p.addr + k) / 16))))

/-- Write bytes with husk marks: a code word that receives a husked byte becomes a husk. -/
def State.writeMarked (s : State) (a : Nat) (bs : List (Byte × Bool)) : State :=
  let s := s.writeBytes a (bs.map (·.1))
  (((List.range bs.length).filter (fun k => (bs.getD k (0, false)).2)).map (fun k => (a + k) / 16)).eraseDups.foldl
    (fun s w => s.pokeHusk w true) s

/-- Lay a stream out over parts, writing those that `keep` selects. -/
def State.writeParts (s : State) (keep : CkPart → Bool) : List CkPart → List (Byte × Bool) → State
  | [], _ => s
  | p :: ps, bs => State.writeParts (if keep p then s.writeMarked p.addr (bs.take p.len) else s) keep ps (bs.drop p.len)

/-- The marked bytes of code words. -/
def markedBytes (ws : List CodeWord) : List (Byte × Bool) :=
  ws.flatMap (fun c => (leBytes 16 c.data.toNat).map (fun x => (x, CodeWord.isHusk c)))

def ckMagic : Nat := 0xAF07C4C7

/-- The header of a checkpoint slot (R386). -/
def ckHeader (b : Job) (r : CkRun) (complete : Bool) : List Byte :=
  padTo 4096 (leBytes 4 ckMagic ++ leBytes 2 b.job ++ leBytes 2 b.myidx ++ leBytes 4 r.step ++ leBytes 4 (if complete then 1 else 0) ++
    leBytes 8 b.me.first ++ leBytes 8 b.me.nchunk ++ leBytes 8 r.body.length ++ leBytes 4 (crc32c r.body).toNat)

/-- Write 128 bytes at a global address for a job's buddy stream. The answer is none where no port remains. -/
def State.peerLine (s : State) (fn j g : Nat) (ws : List CodeWord) : Option State :=
  if field g 61 46 = s.fab.devid.toNat then
    (if s.populated (g % 2 ^ 46) then some (s.writeCode (g % 2 ^ 46) ws) else none)
  else
    s.request fn { emptyMsg with op := 0x02, len := 8, atype := 9, words := ws, htag := s.htagOf fn } 0 g (.buddy fn j)

/-- Write code words, line by line, from the address given. -/
def State.peerWrite (s : State) (fn j : Nat) : Nat → Nat → List CodeWord → Option State
  | 0, _, _ => some s
  | fuel + 1, g, ws =>
    if ws.isEmpty then some s
    else
      let line := (ws.take 8) ++ List.replicate (8 - (ws.take 8).length) (cleanWord 0)
      match s.peerLine fn j g line with
      | some t => State.peerWrite t fn j fuel (g + 128) (ws.drop 8)
      | none => none

/-- The buddy stream of a job is abandoned: the local stream goes on (R387). -/
def State.buddyAbandon (s : State) (fn j : Nat) : State :=
  match s.job fn j with
  | none => s
  | some _ =>
    let s := { s with fab := { s.fab with remotes := s.fab.remotes.filter (fun (e : Remote) => !decide (e.why = RemoteWhy.buddy fn j)) } }
    let s := s.updJob fn j (fun b => { b with
      ckBuddyOk := false
      ckruns := (b.ckruns.map (fun (r : CkRun) => { r with buddyDone := true, abandoned := r.abandoned || !r.buddyDone })).filter
        (fun r => !r.localDone) })
    s.record { Report.plain 0x08 updCkptPartial 0 [] with job := some (fn, j), fn := fn }

/-- Global address of this member's buddy slot. -/
def State.buddySlot (s : State) (b : Job) (d : CkDesc) (slot : Nat) : Nat := s.readNat (d.peer + 8 * b.myidx) 8 + slot * d.slotsz

/-- The seal of a checkpoint step starts both streams: the slots lose COMPLETE, and the body is taken from the sealed
set (R386). -/
def State.startCheckpoint (s : State) (fn j : Nat) (b : Job) (step : Nat) : State :=
  let note (s : State) (st : Status) : State := s.record { Report.plain 0x08 st 0 [] with job := some (fn, j), fn := fn }
  if b.ckint = 0 ∨ step % b.ckint ≠ 0 then s
  else match b.ckdesc with
    | none => note s updCkptSkipped
    | some d =>
      let marked := s.readParts (s.ckParts b b.me s.sel d)
      let body := marked.map (·.1)
      if d.slotsz < body.length then note s updCkptInvalid
      else
        let slot := step / b.ckint % 2
        let husks := ((List.range body.length).filter (fun k => (marked.getD k (0, false)).2)).foldl (fun l k => insSet l (k / 16)) []
        let r : CkRun := { step := step, slot := slot, body := body, husks := husks, localDone := false, buddyDone := false, abandoned := false }
        let s := s.writeObj (d.localA + slot * d.slotsz + 12) (leBytes 4 0) fn 0
        let s := s.updJob fn j (fun b => { b with ckruns := b.ckruns ++ [r] })
        let g := s.buddySlot b d slot
        let words := codeWords body husks.contains
        match (s.peerLine fn j g (codeWords ((ckHeader b r false).take 128) (fun _ => false))).bind
            (fun t => t.peerWrite fn j words.length (g + 4096) words) with
        | some t => t
        | none => s.buddyAbandon fn j

/-- Both streams of a run are done: it ends, and the clearing that waited for it takes place (R387). -/
def State.endRuns (s : State) (fn j : Nat) : State :=
  match s.job fn j with
  | none => s
  | some b =>
    let left := b.ckruns.filter (fun (r : CkRun) => !(r.localDone && r.buddyDone))
    let s := s.updJob fn j (fun b => { b with ckruns := left })
    let waited := b.ckruns.any (fun (r : CkRun) => decide ((r.step + 2) % 2 ^ 32 = b.step)) &&
      !left.any (fun (r : CkRun) => decide ((r.step + 2) % 2 ^ 32 = b.step))
    if waited then s.clearPre b else s

/-- CHECKPOINT_STREAM_COMPLETE: the oldest stream of its kind has written its body; the header with COMPLETE comes last. The
buddy stream completes when every line it wrote has been acknowledged. -/
def State.checkpointDone (s : State) (fn j : Nat) (buddy : Bool) : State :=
  match s.job fn j with
  | none => s
  | some b => match b.ckdesc, b.ckruns.find? (fun (r : CkRun) => !(if buddy then r.buddyDone else r.localDone)) with
    | some d, some r =>
      let head := codeWords (ckHeader b r true) (fun _ => false)
      if buddy then
        (if s.fab.remotes.any (fun e => e.why == .buddy fn j) then s
        else
          let g := s.buddySlot b d r.slot
          match (s.peerWrite fn j 31 (g + 128) (head.drop 8)).bind (fun t => t.peerLine fn j g (head.take 8)) with
          | none => (s.buddyAbandon fn j).endRuns fn j
          | some s =>
            (s.updJob fn j (fun b => { b with
              ckBuddyOk := true
              ckruns := b.ckruns.map (fun (x : CkRun) => if x = r then { x with buddyDone := true } else x) })).endRuns fn j)
      else
        let a := d.localA + r.slot * d.slotsz
        let s := s.writeObj (a + 4096) r.body fn 0
        let s := r.husks.foldl (fun s k => s.pokeHusk ((a + 4096) / 16 + k) true) s
        let s := s.writeObj a (ckHeader b r true) fn 0
        (s.updJob fn j (fun b => { b with
          ckLastStep := r.step, ckLastSlot := r.slot
          ckruns := b.ckruns.map (fun (x : CkRun) => if x = r then { x with localDone := true } else x) })).endRuns fn j
    | _, _ => s

def execCheckpointStreamComplete (fn jslot : Nat) (buddy : Bool) (s : State) : Host.Outcome State Fault Refusal :=
  done (.checkpointStreamComplete fn jslot buddy) (s.checkpointDone fn jslot buddy)

/-! ## Expulsion (R245 to R247) -/

/-- The outcome of the ridges of a step. -/
inductive Verdict where
  | seal (expel : List Nat)
  | split
deriving DecidableEq, Repr

def Job.digestStep (b : Job) : Bool := b.k != 0 && b.step % b.k == 0

/-- The dissenters of a group: none where it is unanimous, one where all others of at least two agree. -/
def dissent (ds : List (Nat × Option Nat)) : Option (List Nat) :=
  let odd := ds.filter (fun x => (ds.filter (fun y => y.2 == x.2)).length == 1)
  if ds.all (fun x => ds.all (fun y => x.2 == y.2)) then some []
  else match odd with
    | [x] =>
      let rest := ds.filter (fun y => y.1 != x.1)
      if 3 ≤ ds.length ∧ rest.all (fun y => rest.all (fun z => y.2 == z.2)) then some [x.1] else none
    | _ => none

/-- The first verdict that applies: unanimity, a lone dissenter in some group, else a split (R245). -/
def Job.verdict (b : Job) : Verdict :=
  if !b.digestStep then .seal []
  else
    let groups := (b.groups.filter (fun g => decide (2 ≤ b.size g))).map (fun g =>
      dissent ((b.numbered.filter (fun m => m.2.active && m.2.group == g)).map (fun m => (m.1, Map.get? b.digests m.1))))
    let lone := groups.flatMap (fun d => d.getD [])
    if groups.any Option.isNone && lone.isEmpty then .split else .seal lone

/-- The 32 bytes of a membership entry (R216). -/
def Member.bytes (m : Member) : List Byte :=
  leBytes 32 (m.first + m.nchunk * 2 ^ 40 + m.devid.toNat * 2 ^ 80 + m.group * 2 ^ 96 + m.ridx * 2 ^ 112 +
    (if m.spare then 2 ^ 128 else 0) + (if m.expelled then 2 ^ 129 else 0))

/-- Change a membership entry, in the gutter and in its copy of the table. -/
def State.setMember (s : State) (fn j i : Nat) (f : Member → Member) : State :=
  match s.job fn j with
  | none => s
  | some b =>
    let m := f (b.member i)
    (s.writeBytes (b.memb + 32 * i) m.bytes).updJob fn j (fun b => { b with members := b.members.set i m })

/-- DETAIL of the records about an expelled member. -/
def expelDetail (e sp age : Nat) : List Byte := leBytes 2 e ++ leBytes 2 sp ++ leBytes 4 age

/-- The spare of a member's group with the lowest index. -/
def Job.spareFor (b : Job) (e : Nat) : Option Nat :=
  (b.numbered.find? (fun m => m.2.spare && !m.2.expelled && m.2.group == (b.member e).group)).map (·.1)

/-- Give an expelled member's place to a spare. -/
def State.replace (s : State) (fn j e sp : Nat) : State :=
  match s.job fn j with
  | none => s
  | some b =>
    let m := b.member e
    let s := s.setMember fn j e (fun m => { m with expelled := true })
    s.setMember fn j sp (fun x => { x with ridx := m.ridx, first := m.first, nchunk := m.nchunk, spare := false })

/-- Expel a member after the seal: its spare is awaited, or the job is held where its group has none. -/
def State.expel (s : State) (fn j e : Nat) : State :=
  match s.job fn j with
  | none => s
  | some b =>
    let s := s.setMember fn j e (fun m => { m with expelled := true })
    match b.spareFor e with
    | some sp =>
      let s := (s.replace fn j e sp).record (b.report fn j jobExpelled (expelDetail e sp 0))
      s.updJob fn j (fun b => { b with awaits := b.awaits ++ [(e, some sp)], st := if b.st = .held then .held else .awaitSpare })
    | none =>
      let s := s.record (b.report fn j jobNoSpare (expelDetail e 0xFFFF 0))
      s.updJob fn j (fun b => { b with awaits := b.awaits ++ [(e, none)], st := .held })

/-- A job held for want of a spare: the speculative entries of the step rewind, as on a hold (R247). -/
def State.holdForSpare (s : State) (fn j : Nat) : State :=
  match s.job fn j with
  | none => s
  | some b =>
    if b.st ≠ .held then s
    else (s.rewind fn j b.step jobNoSpare).updJob fn j (fun b => { b with rewinding := true, streams := [], bsSeen := (b.step, []) })

/-! ## The seal (R211, R240) -/

/-- Lines of remote read-only windows that the partition holds are dropped (R159). -/
def State.dropRemoteLines (s : State) (fn : Nat) : State :=
  { s with mem := { s.mem with dlines := s.mem.dlines.filter (fun l => !(l.2.remote.isSome && l.2.part == fn)) } }

/-- Rows that an engine copies after a seal: those it listed, or its whole share of an entry where the list overflowed
(R208). -/
def State.copyList (s : State) (q fn j : Nat) (b : Job) : List (Nat × Nat × Nat × Nat) :=
  let mine := (s.engine q).touched.filter (fun t => t.1 == fn && t.2.1 == j)
  if mine.length ≤ 1048576 then mine
  else ((mine.map (·.2.2.1)).eraseDups).flatMap (fun i => match b.upd[i]? with
    | none => []
    | some e =>
      let w := s.bufAddr e (1 - s.sel e) 0
      ((List.range e.nchunk).filter (fun k => engineOf (w + 2048 * k) == q)).flatMap (fun k =>
        (List.range e.rows).map (fun r => (fn, j, i, k * e.rows + r))))

/-- Start the row copies of a job on every engine. -/
def State.startCopies (s : State) (fn j : Nat) (b : Job) : State :=
  (List.range 32).foldl (fun s q =>
    let l := s.copyList q fn j b
    if l.isEmpty then s
    else s.updEngine q (fun g => { g with rows := g.rows ++ l, touched := g.touched.filter (fun t => !(t.1 == fn && t.2.1 == j)) })) s

/-- Toggle SEL in every view block. -/
def State.toggleViews (s : State) (b : Job) : State :=
  ((b.upd.map (·.view)).eraseDups).foldl (fun s a => s.writeNat a 8 (1 - s.readNat a 8 % 2)) s

/-- Entries of a job that wait for a sealed step complete as stale, and the finished ones of a queue post together, so that
each shows where SQHEAD then stands (R316). -/
def State.postSealed (s : State) (fn j step : Nat) : State :=
  let mine (x : QEntry) : Bool := decide (x.jslot = some j) && x.step == step && !x.posted
  let s := (s.entriesWhere fn (fun x => mine x && x.st == .waiting)).foldl (fun s e =>
    s.updEntry e.1 (fun x => { x with st := .done hqStepStale 0, signalled := true })) s
  ((s.fn fn).queues.map (·.1)).foldl (fun s q => s.postAll fn q (fun x =>
    match x.st with
    | .done st res => if mine x && x.signalled then some (st, res) else none
    | _ => none)) s

/-- The gutter's state for the step after a seal. -/
def Job.nextStep (b : Job) : Job :=
  let step := (b.step + 1) % 2 ^ 32
  { b with
    step := step, st := if b.st = .ridgeOverdue then .running else b.st
    rcvd := b.rcvdNext, rcvdNext := [], ridgeSent := false
    digests := (b.digests.filter (fun d => decide (2 ^ 16 ≤ d.1))).map (fun d => (d.1 - 2 ^ 16, d.2))
    digest := 0, devDigest := 0, hashed := 0, ownDone := [], paramHeld := [], sent := [], staged := [], preDone := []
    hold := [], staleLogged := false, nakSeen := [], agentLogged := [], timerRunning := false, voids := 0, verify := false
    splitBefore := false, pendingVoid := none, attempts := 1 }

/-- SEAL: the commit in the order of R211, then what follows it. -/
def State.seal (s : State) (fn j : Nat) (b : Job) (expelled : List Nat) : State :=
  let selp := match b.upd with
    | e :: _ => 1 - s.sel e
    | [] => 0
  let s := s.journalStep b 0 selp
  let s := (s.markNorms fn j b 1).digestRecord b 1
  let s := s.toggleViews b
  let s := s.updJob fn j Job.nextStep
  let s := s.journalStep b 1 selp
  let s := (s.startCopies fn j b).dropEngineWork fn j
  match s.job fn j with
  | none => s
  | some n =>
    let s := if n.copiesWait then s else s.clearPre n
    let s := s.agentOp fn j (b.step % 2) 0x09 (b.readySp b.step) .setZero
    let s := ((s.dropRemoteLines fn).postSealed fn j b.step).dueRetires fn j
    let s := s.digestRecord n 0
    let s := s.startCheckpoint fn j b b.step
    let s := (expelled.foldl (fun s e => s.expel fn j e) s).holdForSpare fn j
    let s := s.redeliver b.hold
    let s := s.actKept fn j
    match b.pendingVoid with
    | some c => s.raiseVoid fn j c
    | none => s

/-- The member that dissents alone is expelled: it does not seal (R246). -/
def State.expelSelf (s : State) (fn j : Nat) : State :=
  (s.endJobEntries fn j jobExpelled).updJob fn j (fun b => { b with st := .expelled, timerRunning := false, hold := [], holdGen := [] })

/-- Seal, or act on the digest verdict, once every ridge is held (R240, R245). -/
def State.trySeal (s : State) (fn j : Nat) : State :=
  match s.job fn j with
  | none => s
  | some b =>
    let all := b.numbered.all (fun m => !m.2.active || b.rcvd.contains m.1)
    if !b.ridgeSent || !all || b.st == .held || b.st == .expelled then s
    else match b.verdict with
      | .split => (s.record (b.report fn j jobDigestSplit [])).voidJob fn j jobDigestSplit b.myidx false b.splitBefore
      | .seal gone => if gone.contains b.myidx then s.expelSelf fn j else s.seal fn j b gone

/-! ## Ridges (R238, R239) -/

/-- The conditions of a ridge. -/
def Job.ridgeReady (b : Job) : Bool :=
  let m := b.me
  let own := b.trainCount m.first m.nchunk
  let all := b.trainCount (b.groupFirst m.group) (b.groupCount m.group)
  b.flows && !b.rewinding && !b.ridgeSent && m.active && decide (b.ownDone.length = own) && decide (b.paramHeld.length + own = all)

/-- RIDGE_SEND: the member's ridge leaves, on a digest step with its held digest. -/
def State.ridgeSend (s : State) (fn j : Nat) : State :=
  match s.job fn j with
  | none => s
  | some b =>
    if !b.ridgeReady then s
    else
      let s := s.spread fn j b { b.hdr0 6 with dig := b.digestStep } (if b.digestStep then [cleanWord b.digest] else [])
      let s := s.updJob fn j (fun b => { b with
        ridgeSent := true, timerRunning := false, rcvd := insSet b.rcvd b.myidx
        digests := if b.digestStep then Map.put b.digests b.myidx b.digest else b.digests
        digSeal := if b.digestStep then b.digest else b.digSeal
        digSealStep := if b.digestStep then b.step else b.digSealStep })
      s.trySeal fn j

def execRidgeSend (fn jslot : Nat) (s : State) : Host.Outcome State Fault Refusal :=
  done (.ridgeSend fn jslot) (s.ridgeSend fn jslot)

/-- Serve a message that travels around the job: passed on at its first coming, copies are discarded, and it acts by its
generation and step (R235, R239). -/
def State.around (s : State) (port : Nat) (m : Msg) (fn j : Nat) (b : Job) (h : GHdr) (now : State → State) : State :=
  let seen := b.seenMsgs.contains (h.type, h.start, h.step, h.gen)
  let fresh (s : State) : State := if seen then s else s.spread fn j b h (msgBody m)
  match b.age h with
  | .current => now (fresh (s.take port m))
  | .ahead => if seen then s.take port m else (fresh s).holdAhead port m fn j b h
  | .early => if seen then s.take port m else (fresh s).holdEarly port m fn j
  | _ => if seen then s.take port m else (s.take port m).stale port m fn j b

/-- RIDGE: a ridge is counted and passed on; one of step s + 1 is kept for that step; one further ahead, or of no member,
is a peer violation (R239, R275). -/
def execRidge (port : Nat) (m : Msg) (s : State) : Host.Outcome State Fault Refusal :=
  done (.ridge port m) (s.gutter port m 6 (fun s fn j b h =>
    let dig := match msgBody m with
      | c :: _ => if h.dig then some c.data.toNat else none
      | [] => none
    let seen := b.seenMsgs.contains (6, h.start, h.step, h.gen)
    let stranger := !(b.numbered.any (fun x => x.1 == h.start && x.2.active))
    if !seen && stranger && (b.age h == .current || b.age h == .ahead) then (s.take port m).violate port m 5
    else match b.age h with
    | .later => (s.take port m).violate port m 5
    | .ahead =>
      let s := s.take port m
      if seen then s
      else
        let s := s.spread fn j b h (msgBody m)
        s.updJob fn j (fun b => { b with
          rcvdNext := insSet b.rcvdNext h.start
          digests := match dig with
            | some d => Map.put b.digests (2 ^ 16 + h.start) d
            | none => b.digests })
    | _ => s.around port m fn j b h (fun s =>
      (s.updJob fn j (fun b => { b with
        rcvd := insSet b.rcvd h.start
        digests := match dig with
          | some d => Map.put b.digests h.start d
          | none => b.digests })).trySeal fn j)))

/-- VOID: a void message of the job's current attempt voids it here too (R242). -/
def execVoid (port : Nat) (m : Msg) (s : State) : Host.Outcome State Fault Refusal :=
  done (.void port m) (s.gutter port m 7 (fun s fn j b h => s.around port m fn j b h (fun s =>
    s.voidJob fn j (BitVec.ofNat 16 h.cause) h.start false (BitVec.ofNat 16 h.cause == jobRetryLimit))))

/-- JOIN: the spare that is awaited has joined; when the last has, the member returns to running (R246, R247). -/
def execJoin (port : Nat) (m : Msg) (s : State) : Host.Outcome State Fault Refusal :=
  done (.join port m) (s.gutter port m 8 (fun s fn j b h => s.around port m fn j b h (fun s =>
    let left := b.awaits.filter (fun a => decide (a.2 ≠ some h.start))
    s.updJob fn j (fun b => { b with
      awaits := left, st := if left.isEmpty ∧ b.st = .awaitSpare then .running else b.st }))))

/-! ## Timers (R243) -/

/-- DETAIL of a ridge-timeout record: the lowest member whose ridge is missing, and the ridges held. -/
def Job.missing (b : Job) : List Byte :=
  leBytes 2 (match b.numbered.find? (fun m => m.2.active && !b.rcvd.contains m.1) with
    | some m => m.1
    | none => 0xFFFF) ++ leBytes 2 0 ++ leBytes 4 b.rcvd.length

/-- RIDGE_TIMEOUT: the timer started when the last local contribution left reaches RTMO before the ridge goes. -/
def execRidgeTimeout (fn jslot : Nat) (s : State) : Host.Outcome State Fault Refusal :=
  done (.ridgeTimeout fn jslot) (match s.job fn jslot with
    | none => s
    | some b =>
      if !b.timerRunning || b.ridgeSent || b.st != .running then s
      else (s.record (b.report fn jslot gutRidgeTimeout b.missing)).raiseVoid fn jslot gutRidgeTimeout)

/-- RIDGE_OVERDUE: 4·RTMO after its ridge a member that has not sealed marks itself, and keeps waiting. -/
def execRidgeOverdue (fn jslot : Nat) (s : State) : Host.Outcome State Fault Refusal :=
  done (.ridgeOverdue fn jslot) (match s.job fn jslot with
    | none => s
    | some b =>
      if !b.ridgeSent || b.st != .running then s
      else (s.record (b.report fn jslot gutRidgeTimeout b.missing)).updJob fn jslot (fun b => { b with st := .ridgeOverdue }))

/-! ## The takeover (R246, R388) -/

/-- The parts that a spare copies from another member: sealed W and RSTEP of the group range. -/
def State.groupParts (s : State) (b : Job) (set : Nat) : List CkPart :=
  let whole : Member := { b.me with first := b.groupFirst b.me.group, nchunk := b.groupCount b.me.group }
  (s.ckParts b whole (fun _ => set) { localA := 0, slotsz := 0, peer := 0, jrnl := 0, jdepth := 0 }).filter
    (fun p => p.kind == 0 || p.kind == 2)

/-- SPARE_TAKEOVER: the spare copies weights and buddy state, takes the expelled member's place with the SEL it copied,
seals the step and sends its join. Rows of embedding entries are copied to the provisional set as after a seal. -/
def State.takeover (s : State) (fn j : Nat) (t : Takeover) : State :=
  match s.job fn j with
  | none => s
  | some b =>
    let e := b.member t.expelled
    if !b.me.spare ∨ b.me.expelled ∨ t.expelled = b.myidx ∨ e.group ≠ b.me.group ∨ e.spare ∨ b.members.length ≤ t.expelled then s
    else
      let set := if t.sel then 1 else 0
      let s := s.replace fn j t.expelled b.myidx
      match s.job fn j with
      | none => s
      | some b =>
        let s := s.writeParts (fun _ => true) (s.groupParts b set) (markedBytes t.weights)
        let d := b.ckdesc.getD { localA := 0, slotsz := 0, peer := 0, jrnl := 0, jdepth := 0 }
        let parts := s.ckParts b e (fun _ => set) d
        let state (p : CkPart) : Bool := p.kind == 1 || p.kind == 3
        let s := match t.slot with
          | some (_, body) => s.writeParts state parts (markedBytes body)
          | none => (parts.filter state).foldl (fun (s : State) (p : CkPart) => s.writeBytes p.addr (List.replicate p.len 0)) s
        let s := ((b.upd.map (·.view)).eraseDups).foldl (fun s a => s.writeNat a 8 set) s
        let age := match t.slot with
          | some (c, _) => (t.step - c).toNat
          | none => 0xFFFFFFFF
        let rows := ((List.range b.upd.length).zip b.upd).flatMap (fun x => if x.2.emb then
            let f := max x.2.first (b.groupFirst b.me.group)
            let n := min (x.2.first + x.2.nchunk) (b.groupFirst b.me.group + b.groupCount b.me.group) - f
            (List.range (n * x.2.rows)).map (fun r => (fn, j, x.1, (f - x.2.first) * x.2.rows + r))
          else [])
        let q := match b.upd with
          | x :: _ => engineOf (s.bufAddr x set 0)
          | [] => 0
        let s := if rows.isEmpty then s else s.updEngine q (fun g => { g with rows := g.rows ++ rows })
        let s := s.updJob fn j (fun b => { b.nextStep with step := (t.step.toNat + 1) % 2 ^ 32, gen := t.gen.toNat, st := .running })
        match s.job fn j with
        | none => s
        | some n =>
          let s := s.record (n.report fn j jobSpareJoined (expelDetail t.expelled n.myidx age))
          s.spread fn j n (n.hdr0 8) []

def execSpareTakeover (fn jslot : Nat) (t : Takeover) (s : State) : Host.Outcome State Fault Refusal :=
  done (.spareTakeover fn jslot t) (s.takeover fn jslot t)

end Sys2Proof.Machine
end

