-- ==== Sys2Proof/Machine/Code.lean ====
section
/-! DEFINITION. Code objects (R133 to R135, R336): reading an ELF64 image, placing its loadable sections and applying
its relocations. Where the manual names no ELF detail, the usual ELF64 layout is taken (PRESUMED). -/

namespace Sys2Proof.Machine

/-- A section header. -/
structure Sect where
  name : List Byte
  type : Nat
  flags : Nat
  addr : Nat
  off : Nat
  size : Nat
  link : Nat
  info : Nat
  align : Nat
deriving DecidableEq, Repr

def asciiBytes (s : String) : List Byte := s.toList.map (fun c => BitVec.ofNat 8 c.toNat)

def Sect.idle : Sect := { name := [], type := 0, flags := 0, addr := 0, off := 0, size := 0, link := 0, info := 0, align := 0 }

/-- A section that is loaded. -/
def Sect.alloc (x : Sect) : Bool := bitOf x.flags 1

/-- Whether the file holds the section's bytes. -/
def Sect.fits (x : Sect) (n : Nat) : Bool := x.type == 8 || x.type == 0 || decide (x.off + x.size ≤ n)

/-- The sections of an image, or none where its tables leave it. -/
def elfSects (img : List Byte) : Option (List Sect) :=
  let f (off len : Nat) : Nat := leAt img off len
  let shoff := f 0x28 8
  let n := f 0x3C 2
  if f 0x3A 2 ≠ 64 ∨ img.length < shoff + 64 * n ∨ n ≤ f 0x3E 2 then none
  else
    let raw (i : Nat) : Sect :=
      let a := shoff + 64 * i
      { name := leBytes 4 (f a 4), type := f (a + 4) 4, flags := f (a + 8) 8, addr := f (a + 0x10) 8, off := f (a + 0x18) 8
        size := f (a + 0x20) 8, link := f (a + 0x28) 4, info := f (a + 0x2C) 4, align := f (a + 0x30) 8 }
    let strs := raw (f 0x3E 2)
    let ss := (List.range n).map (fun i =>
      let x := raw i
      { x with name := ((img.drop (strs.off + ofLe x.name)).take (strs.size - ofLe x.name)).takeWhile (· != 0) })
    if ss.all (fun x => x.fits img.length) then some ss else none

/-- Consecutive places for the sections of a relocatable file. -/
def seqPlace : Nat → List Sect → List Nat
  | _, [] => []
  | x, s :: r =>
    if s.alloc then
      let a := alignUp x (max 1 s.align)
      a :: seqPlace (a + s.size) r
    else 0 :: seqPlace x r

/-- The header's fields (R133), for a device of stepping A1 and a partition in Lomcon mode or not (R143). -/
def elfHeaderOk (img : List Byte) (lomcon : Bool) : Bool :=
  let flags := leAt img 0x30 4
  decide (64 ≤ img.length ∧ leAt img 0 4 = 0x464C457F ∧ leAt img 4 1 = 2 ∧ leAt img 5 1 = 1 ∧ leAt img 7 1 = 0 ∧
    leAt img 0x12 2 = 0xA7F1 ∧ flags % 256 ≤ 1 ∧ flags < 512) && (!bitOf flags 8 || lomcon)

/-- A loaded image: its size, the bytes to write at offsets from DST, and its kernels. -/
structure CodeImg where
  size : Nat
  writes : List (Nat × List Byte)
  kernels : List Kernel
deriving DecidableEq, Repr

/-- One relocation (R135): the bytes that it writes at its place. -/
def relocate (img : List Byte) (rel : Bool) (ss : List Sect) (places : List Nat) (dst size : Nat) (x : Sect) (k : Nat) :
    Option (Nat × List Byte) :=
  let e := x.off + 24 * k
  let base (i : Nat) : Nat := if rel then places.getD i 0 else 0
  let place := base x.info + leAt img e 8
  let info := leAt img (e + 8) 8
  let addend := signedOf 64 (leAt img (e + 16) 8)
  let tab := ss.getD x.link Sect.idle
  let sym := tab.off + 24 * (info / 2 ^ 32)
  let shndx := leAt img (sym + 6) 2
  let target : Int := (dst : Int) + base shndx + leAt img (sym + 8) 8 + addend
  if tab.size < 24 * (info / 2 ^ 32 + 1) ∨ shndx = 0 ∨ size < place + 8 then none
  else match info % 2 ^ 32 with
    | 1 => some (place, leBytes 8 (codeOf 64 target))
    | 2 =>
      let v := target - ((dst : Int) + place)
      if v % 8 ≠ 0 ∨ v < -(2 ^ 31 : Int) ∨ (2 ^ 31 : Int) ≤ v then none else some (place, leBytes 4 (codeOf 32 v))
    | _ => none

/-- The kernel that a record of .af7.kdesc describes (R134). -/
def kernelOf (img : List Byte) (text : Nat) (textSize dst : Nat) (a : Nat) : Option Kernel :=
  let entry := leAt img a 8
  if textSize ≤ entry ∨ entry % 8 ≠ 0 ∨ leAt img (a + 16) 16 ≠ 0 then none
  else some { entry := BitVec.ofNat 64 (dst + text + entry), win := leAt img (a + 8) 4, spars := leAt img (a + 12) 4, dst := BitVec.ofNat 64 dst }

/-- All the answers of a list, or none. -/
def allSome {α : Type} : List (Option α) → Option (List α)
  | [] => some []
  | none :: _ => none
  | some a :: r => match allSome r with
    | some l => some (a :: l)
    | none => none

/-- Load an image at DST, or none where it breaks a rule. -/
def loadImage (img : List Byte) (lomcon : Bool) (dst : Nat) : Option CodeImg :=
  if !elfHeaderOk img lomcon then none
  else match elfSects img with
    | none => none
    | some ss =>
      let rel := leAt img 0x10 2 == 1
      let places := if rel then seqPlace 0 ss else ss.map (·.addr)
      let idx := List.range ss.length
      let sec (i : Nat) : Sect := ss.getD i Sect.idle
      let loaded := idx.filter (fun i => (sec i).alloc)
      let size := loaded.foldl (fun n i => max n (places.getD i 0 + (sec i).size)) 0
      let writes := loaded.map (fun i =>
        (places.getD i 0, if (sec i).type = 8 then List.replicate (sec i).size (0 : Byte) else (img.drop (sec i).off).take (sec i).size))
      let relas := ss.filter (fun x => x.type == 4 && (x.info == 0 || (sec x.info).alloc))
      match idx.find? (fun i => (sec i).name == asciiBytes ".text"), ss.find? (fun x => x.name == asciiBytes ".af7.kdesc") with
      | some t, some k =>
        if (sec t).align < 8 ∨ k.size % 32 ≠ 0 ∨ ss.any (fun x => x.type == 9 && (sec x.info).alloc) then none
        else
          match allSome (relas.flatMap (fun x => (List.range (x.size / 24)).map (relocate img rel ss places dst size x))),
              allSome ((List.range (k.size / 32)).map (fun n => kernelOf img (places.getD t 0) (sec t).size dst (k.off + 32 * n))) with
          | some rs, some ks => some { size := size, writes := writes ++ rs, kernels := ks }
          | _, _ => none
      | _, _ => none

/-- Write a context's code table: a row for each kernel, in order of loading (DESIGN CHOICE), the rest zero. -/
def State.writeCodeTable (s : State) (ctx : Nat) : State :=
  let c := s.ctx ctx
  let row (k : Kernel) : List Byte := leBytes 8 k.entry.toNat ++ leBytes 4 k.win ++ leBytes 4 k.spars ++ leBytes 8 k.dst.toNat ++ leBytes 8 0
  s.writeBytes c.code (padTo (32 * c.ncode) (c.kernels.flatMap row))

end Sys2Proof.Machine
end

