-- ==== Sys2Proof/Machine/CmdMem.lean ====
section
/-! DEFINITION. The memory that the commands of the queue engine read and write: context addresses, through windows onto
local memory or onto other devices (R252, R257, R261, R313), and host memory (R305). -/

namespace Sys2Proof.Machine

/-! ## Host memory and marked bytes (R305) -/

/-- Bytes without a husk. -/
def unmarked (bs : List Byte) : List (Byte × Bool) := bs.map (fun b => (b, false))

/-- The bytes of a source, each with its husk mark: poison in host memory enters as husks (R305). -/
def State.hostMarked (s : State) (a len : Nat) : List (Byte × Bool) :=
  (List.range len).map (fun k => (s.hostByte (a + k), s.mem.hostPoison.contains ((a + k) / 64)))

def State.markedPieces (s : State) (ps : List (Nat × Nat)) : List (Byte × Bool) :=
  ps.flatMap (fun p => (List.range p.2).map (fun k => (s.byteAt (p.1 + k), s.huskAt ((p.1 + k) / 16))))

/-- Write marked bytes to host memory: a line that holds a husked word is written with poison (R305). -/
def State.hostPut (s : State) (a : Nat) (bs : List (Byte × Bool)) : State :=
  let s := s.hostWrite a (bs.map (·.1))
  let bad := ((List.range bs.length).filter (fun k => (bs.getD k (0, false)).2)).map (fun k => (a + k) / 64)
  { s with mem := { s.mem with hostPoison := bad.foldl insSet s.mem.hostPoison } }

/-! ## Spans of a context's addresses -/

/-- The spans of a range of context addresses, cut at 4 KiB granules; none where an access is not permitted. -/
def State.spansGo (s : State) (ctx : Nat) (k : Acc) : Nat → Nat → Nat → Option (List Span)
  | 0, _, len => if len = 0 then some [] else none
  | fuel + 1, a, len =>
    if len = 0 then some []
    else
      let n := min len (4096 - a % 4096)
      match s.reach ctx a n k, State.spansGo s ctx k fuel (a + n) (len - n) with
      | some t, some r => some ((match t.loc with
        | some l => { win := none, addr := l, len := n }
        | none => { win := some t.index, addr := t.gaddr, len := n }) :: r)
      | _, _ => none

def State.spans (s : State) (ctx : Nat) (k : Acc) (a len : Nat) : Option (List Span) := s.spansGo ctx k (len / 4096 + 2) a len

/-- The window, line and length of each part of a span on another device, cut at lines of 128 bytes. -/
def Span.lines (p : Span) : List (Nat × Nat × Nat) :=
  match p.win with
  | none => []
  | some w => (List.range ((p.addr + p.len + 127) / 128 - p.addr / 128)).map (fun k =>
      let a := max p.addr (128 * (p.addr / 128 + k))
      (w, a, min (p.addr + p.len) (128 * (p.addr / 128 + k) + 128) - a))

/-- The bytes of spans with their husk marks: those of another device from the words that have come. -/
def State.markedSpans (s : State) (got : Map (Nat × Bool)) (ps : List Span) : List (Byte × Bool) :=
  ps.flatMap (fun p => match p.win with
    | none => s.markedPieces [(p.addr, p.len)]
    | some _ => (List.range p.len).map (fun k =>
        let a := p.addr + k
        let w := got.getD (a / 16) (0, false)
        (BitVec.ofNat 8 (w.1 >>> (8 * (a % 16))), w.2)))

/-! ## Faults (R104, R261) -/

/-- The entry's context faults for an access outside its windows. -/
def State.windowFault (s : State) (e : EntryRef) (x : QEntry) : State := s.entryFault e x (queueReport e x shfWindowFault [])

/-! ## Writing (R258, R260, R313) -/

/-- The WRITE of up to 128 marked bytes of whole code words: a husk leaves as a husk (R170). -/
def writeMsg (htag : BitVec 16) (bs : List (Byte × Bool)) : Msg :=
  let ws := codeWords (bs.map (·.1)) (fun w => (bs.getD (16 * w) (0, false)).2)
  { emptyMsg with op := 0x02, len := BitVec.ofNat 9 ws.length, atype := if ws.length = 1 then 6 else 9
                  ordsc := if ws.length = 1 then 0xFFFF else 0, words := ws, htag := htag }

/-- Issue the WRITEs of an entry. A line that finds no port faults the context (R266). -/
def State.writeLines (s : State) (e : EntryRef) (x : QEntry) (id : Nat) : List (Nat × Nat × Nat) → List (Byte × Bool) → State
  | [], _ => s
  | (w, g, n) :: r, bs =>
    match s.request e.fn (writeMsg (s.htagOf e.fn) (bs.take n)) w g (.command e id none) with
    | some t => State.writeLines t e x id r (bs.drop n)
    | none => s.entryFault e x (noRouteReport w g)

/-- The transfer that an outstanding request of a command serves, if its entry still executes it. -/
def State.transfer (s : State) (e : EntryRef) (id : Nat) : Option (QEntry × Transfer) :=
  match s.entry e with
  | some x => match x.remote with
    | some t => if x.st = .running ∧ t.id = id then some (x, t) else none
    | none => none
  | none => none

/-- Write marked bytes to spans. -/
def State.putSpans (s : State) (e : EntryRef) (x : QEntry) (id : Nat) : List Span → List (Byte × Bool) → State
  | [], _ => s
  | p :: r, bs =>
    let here := bs.take p.len
    let s := match p.win with
      | none => s.writeMarked p.addr here
      | some _ => if (s.transfer e id).isSome then s.writeLines e x id p.lines here else s
    State.putSpans s e x id r (bs.drop p.len)

/-- A command writes its last bytes, and ends with a status and a result: at once, or when the last write to another
device has been acknowledged (R258, R315). -/
def State.deliverTo (s : State) (e : EntryRef) (x : QEntry) (dst : List Span) (bs : List (Byte × Bool)) (st : Status) (res : Nat) : State :=
  if dst.all (fun p => p.win.isNone) then (s.putSpans e x 0 dst bs).ran e st res
  else
    let id := s.fab.nextTag
    let t : Transfer := { id := id, src := [], dst := dst, got := [], status := st, result := res }
    (s.updEntry e (fun y => { y with remote := some t })).putSpans e x id dst bs

/-! ## COPY and CODELOAD with their source bytes (R305, R313, R336) -/

/-- The husked code words of a copy, as addresses; 0 for one that came from host memory. -/
def huskAddrs (ps : List Span) (bs : List (Byte × Bool)) : List Nat :=
  let at' := if ps.isEmpty then List.replicate bs.length 0 else ps.flatMap (fun p => (List.range p.len).map (fun k => (p.addr + k) % 2 ^ 46 / 16 * 16))
  ((List.range (bs.length / 16)).filter (fun k => (bs.getD (16 * k) (0, false)).2)).map (fun k => at'.getD (16 * k) 0)

/-- The end of a COPY: husks are copied as husks between device addresses; to host memory they leave as poison, and the
entry reports them. -/
def State.copyEnd (s : State) (e : EntryRef) (x : QEntry) (src dst : List Span) (bs : List (Byte × Bool)) : State :=
  if x.pay 126 126 = 1 then
    let bad := huskAddrs src bs
    let s := s.hostPut (x.pay 255 192) bs
    if bad.isEmpty then s.ran e statusOk 0
    else
      let rep := queueReport e x memHuskConsumed (leBytes 8 (bad.headD 0) ++ leBytes 2 x.cid ++ leBytes 2 0 ++ leBytes 4 bad.length)
      ((s.record rep).countHusk e.fn).ran e memHuskConsumed 0
  else s.deliverTo e x dst bs statusOk 0

/-- The end of a CODELOAD: the image is checked, placed and relocated; a refused load changes nothing. A husk in the image
is consumed by the load (DEDUCED from R169). -/
def State.codeLoad (s : State) (e : EntryRef) (x : QEntry) (src : List Span) (bs : List (Byte × Bool)) : State :=
  let dst := x.pay 191 128
  let c := s.ctx x.ctx
  match huskAddrs src bs with
  | a :: _ => (s.entryFault e x (queueReport e x memHuskConsumed (leBytes 8 a))).countHusk e.fn
  | [] =>
    match loadImage (bs.map (·.1)) (s.lomcon x.ctx) dst with
    | none => s.ran e ctxCodeInvalid 0
    | some im =>
      if x.pay 127 64 < im.size ∨ c.ncode < c.kernels.length + im.kernels.length then s.ran e ctxCodeInvalid 0
      else if (s.ctxPieces x.ctx .r dst im.size).isNone then s.windowFault e x
      else
        let s := im.writes.foldl (fun s w => match s.ctxPieces x.ctx .r (dst + w.1) w.2.length with
          | some ps => s.writePieces ps w.2
          | none => s) s
        let s := s.updCtx x.ctx (fun c => { c with kernels := c.kernels ++ im.kernels })
        (s.writeCodeTable x.ctx).ran e statusOk im.kernels.length

/-- A dead hint on the source drops its lines (R149). -/
def State.deadLines (s : State) (ps : List Span) : State :=
  ((ps.flatMap (fun p => if p.win.isNone then (wordsOf p.addr p.len).map (· / 8) else [])).eraseDups).foldl
    (fun s n => if s.pinned n then s else s.dropLine n) s

/-- The source bytes of a command are here. -/
def State.gathered (s : State) (e : EntryRef) (x : QEntry) (src dst : List Span) (got : Map (Nat × Bool)) : State :=
  let bs := s.markedSpans got src
  let s := if x.opc = 0x02 ∧ x.pay 125 124 = 3 then s.deadLines src else s
  if x.opc = 0x13 then s.codeLoad e x src bs else s.copyEnd e x src dst bs

/-! ## Reading from other devices (R257, R261) -/

/-- The READs of a span on another device, each with its window, address and code words: a whole line, or single words. -/
def Span.reads (p : Span) : List (Nat × Nat × Nat) :=
  p.lines.flatMap (fun l => if l.2.2 = 128 then [(l.1, l.2.1, 8)]
    else (List.range ((l.2.1 + l.2.2 + 15) / 16 - l.2.1 / 16)).map (fun k => (l.1, 16 * (l.2.1 / 16 + k), 1)))

/-- Issue the READs of an entry. One that finds no port faults the context. -/
def State.issueReads (s : State) (e : EntryRef) (x : QEntry) (id hint : Nat) : List (Nat × Nat × Nat) → State
  | [] => s
  | (w, g, n) :: r =>
    match s.request e.fn { emptyMsg with op := 0x01, atype := if n = 8 then 9 else 6, htag := s.htagOf e.fn, hint := BitVec.ofNat 2 hint } w g
        (.command e id (some g)) with
    | some t => State.issueReads t e x id hint r
    | none => s.entryFault e x (noRouteReport w g)

/-- Gather the source of a command: at once where all of it is local. -/
def State.gather (s : State) (e : EntryRef) (x : QEntry) (hint : Nat) (src dst : List Span) : State :=
  let ls := (src.flatMap Span.reads).eraseDups
  if ls.isEmpty then s.gathered e x src dst []
  else
    let t : Transfer := { id := s.fab.nextTag, src := src, dst := dst, got := [], status := 0, result := 0 }
    (s.updEntry e (fun y => { y with remote := some t })).issueReads e x t.id hint ls

/-- A part of a command's source has come; with the last one the command goes on. -/
def State.gotSource (s : State) (e : EntryRef) (id addr : Nat) (ws : List CodeWord) : State :=
  match s.transfer e id with
  | none => s
  | some (x, t) =>
    let got := (List.range ws.length).foldl (fun m k =>
      let w := ws.getD k (cleanWord 0)
      m.put (addr / 16 + k) (w.data.toNat, CodeWord.isHusk w)) t.got
    let s := s.updEntry e (fun y => { y with remote := some { t with got := got } })
    if t.src.any (fun p => p.reads.any (fun l => (got.get? (l.2.1 / 16)).isNone)) then s
    else s.gathered e x t.src t.dst got

/-- A WRITE of a command has been acknowledged; with the last one the command has been executed. -/
def State.gotAck (s : State) (e : EntryRef) (id : Nat) : State :=
  match s.transfer e id with
  | none => s
  | some (_, t) =>
    if s.fab.remotes.any (fun r => match r.why with
      | .command e' id' none => e' == e && id' == id
      | _ => false)
    then s else s.ran e t.status t.result

/-- A request of a command has failed: its context faults, and the entry carries the code (R106, R261). -/
def State.transferFailed (s : State) (e : EntryRef) (id : Nat) (rep : Report) : State :=
  match s.transfer e id with
  | none => s
  | some (x, _) => s.entryFault e x rep

end Sys2Proof.Machine
end

