-- ==== Sys2Proof/Machine/Remote.lean ====
section
/-! DEFINITION. Remote memory access (R249 to R261): requests served at their target, and responses, returns, NAKs
and timeouts at their source. -/

namespace Sys2Proof.Machine

/-! ## At the target (R251, R257, R258, R260) -/

/-- Whether an earlier request of the same source to the same line has not yet been served (R258). -/
def State.lineBusy (s : State) (port : Nat) (m : Msg) : Bool :=
  let same (n : Msg) : Bool := n.srcdev == m.srcdev && decide (n.op.toNat ≤ 4 ∧ n.addr.toNat / 128 = m.addr.toNat / 128)
  let before := if s.fab.inbox.contains (port, m) then s.fab.inbox.takeWhile (fun x => x != (port, m)) else []
  before.any (fun x => x.1 == port && same x.2) ||
    s.mem.reqs.any (fun r => match r.remote with
      | some n => same n
      | none => false)

/-- Serve a request at the memory of this device: a reserved ATYPE is malformed (DESIGN CHOICE), and R251 decides who is
admitted. `span` gives the address and length that the request touches. -/
def State.serveRemote (s : State) (port : Nat) (m : Msg) (op : Nat) (legal : Bool) (span : Nat × Nat) (act : State → State) : State :=
  s.receive port m op (fun s =>
    if s.lineBusy port m then s
    else
      let s := s.take port m
      if !legal then s.violate port m 4
      else match s.refuses m.htag span.1 with
        | some w => s.violate port m w
        | none => match s.refuses m.htag (span.1 + span.2 - 1) with
          | some w => s.violate port m w
          | none => act s)

/-- The address and length of the code words that a READ returns. -/
def readSpan (m : Msg) : Nat × Nat :=
  let a := m.addr.toNat % 2 ^ 46
  match m.atype.toNat with
  | 8 => (a / 32 * 32, 32)
  | 9 => (a / 128 * 128, 128)
  | _ => (a / 16 * 16, 16)

def sizeLegal (atype : Nat) : Bool := decide (atype ≤ 6 ∨ atype = 8 ∨ atype = 9)

/-- READ: the code words are returned as they stand, husks as husks. A dead hint drops the line (R149, R260). -/
def execRead (port : Nat) (m : Msg) (s : State) : Host.Outcome State Fault Refusal :=
  let sp := readSpan m
  done (.read port m) (s.serveRemote port m 0x01 (sizeLegal m.atype.toNat) sp (fun s =>
    let line := sp.1 / 128
    let s := s.bring line m.hint.toNat
    let ws := (List.range (sp.2 / 16)).map (fun k =>
      let w := sp.1 / 16 + k
      CodeWord.mk (BitVec.ofNat 128 (s.readNat (16 * w) 16)) (if s.huskAt w then .husk else .clean))
    let s := if m.hint = 3 ∧ !s.pinned line then s.dropLine line else s
    s.respond m 0x11 1 ws))

/-- The address and length of the code words that a WRITE touches. -/
def writeSpan (m : Msg) : Nat × Nat := (m.addr.toNat % 2 ^ 46 / 16 * 16, 16 * m.words.length)

/-- WRITE: a single data word lands under its byte mask, more words whole (R260). A husk among whole words is stored as
one. -/
def execWrite (port : Nat) (m : Msg) (s : State) : Host.Outcome State Fault Refusal :=
  let sp := writeSpan m
  let legal := sizeLegal m.atype.toNat && decide (sp.1 % 128 + sp.2 ≤ 128)
  done (.write port m) (s.serveRemote port m 0x02 legal sp (fun s =>
    let q := s.openAt sp.1 sp.2
    let s := (s.unsnoop sp.1 sp.2).enterLine ((s.ownerOfAddr sp.1).getD 64) (sp.1 / 128) (if m.hint = 3 then 2 else m.hint.toNat) none
    let s :=
      if m.words.length = 1 ∧ m.ordsc.toNat % 2 ^ 16 ≠ 2 ^ 16 - 1 then
        let w := m.words.getD 0 (cleanWord 0)
        let ks := setBits 16 (m.ordsc.toNat % 2 ^ 16)
        let s := ks.foldl (fun s k => s.poke (sp.1 + k) ((leBytes 16 w.data.toNat).getD k 0)) s
        if CodeWord.isHusk w && !ks.isEmpty then s.pokeHusk (sp.1 / 16) true else s
      else s.writeCode sp.1 m.words
    (s.spoil q).respond m 0x12 1 []))

/-- The operand of an atomic message at the width of its operation (R274). -/
def atomArg (m : Msg) : Nat × Nat :=
  let v := ((m.words.getD 0 (cleanWord 0)).data).toNat
  (v % 2 ^ (8 * atomSize m.atype.toNat), v / 2 ^ 64 % 2 ^ (8 * atomSize m.atype.toNat))

/-- ATOMIC: it executes at the home slice, and its old value returns (R152, R259). -/
def execAtomic (port : Nat) (m : Msg) (s : State) : Host.Outcome State Fault Refusal :=
  let a := m.addr.toNat % 2 ^ 46
  let op := m.atype.toNat
  done (.atomic port m) (s.serveRemote port m 0x03 (decide (op ≤ 12)) (a, atomSize op) (fun s =>
    let s := s.bring (a / 128) m.hint.toNat
    let (old, t) := s.acceptAtom op a (atomArg m).1 (atomArg m).2 m.hint.toNat
    t.respond m 0x13 1 [cleanWord old]))

/-- ATOMIC_ORD: the contribution joins those that wait for their home slice (R154, R257). -/
def execAtomicOrd (port : Nat) (m : Msg) (s : State) : Host.Outcome State Fault Refusal :=
  let a := m.addr.toNat % 2 ^ 46
  let op := m.atype.toNat
  done (.atomicOrd port m) (s.serveRemote port m 0x04 (decide (op ≤ 2)) (a, atomSize op) (fun s =>
    let r : MemReq := { tag := s.mem.nextTag, core := 0, slot := 4, thread := 0, ctx := 0, pc := 0, word := 0, kind := .ordered op
                        addr := a, vaddr := a, size := atomSize op, data := (atomArg m).1, cmp := 0, hint := m.hint.toNat
                        sext := false, near := false, ordsc := m.ordsc, remote := some m }
    { s.newTag with mem := { s.newTag.mem with reqs := s.mem.reqs ++ [r] } }))

/-! ## At the source (R259 to R261) -/

def State.dropRemote (s : State) (e : Remote) : State := { s with fab := { s.fab with remotes := s.fab.remotes.erase e } }

/-- A response whose request has timed out or been aborted (R261). -/
def State.late (s : State) (port : Nat) : State := s.updPort port (fun p => { p with late := sat 16 (p.late + 1) })

/-- Whether the requester of an outstanding request is still there. -/
def State.wanted (s : State) (e : Remote) : Bool :=
  match e.why with
  | .thread r => decide (r.slot < 4)
  | .stream id _ => s.grid.streams.any (fun t => t.id == id)
  | .command c id _ => (s.transfer c id).isSome
  | _ => true

/-- Serve a response: it is matched to its request, or counted late. -/
def State.answered (s : State) (port : Nat) (m : Msg) (op : Nat) (act : State → Remote → State) : State :=
  s.receive port m op (fun s => match s.remoteOf m with
    | none => (s.take port m).late port
    | some e =>
      let t := (s.take port m).dropRemote e
      if s.wanted e then act t e else t.late port)

/-- The data of code words, and the numbers of those that are husks. -/
def wordsValue (ws : List CodeWord) : Nat × List Nat :=
  (ofLe (wordBytes ws), (List.range ws.length).filter (fun k => CodeWord.isHusk (ws.getD k (cleanWord 0))))

/-- A read-only-cacheable line that has come enters the requesting die's cache, if its window is still open (R159, R254). -/
def State.keepRemote (s : State) (e : Remote) (r : MemReq) (v : Nat × List Nat) : State :=
  let fn := (s.ctx r.ctx).fn
  let key := remoteKey (dieOfCore r.core) e.gaddr.toNat
  let opened := match s.part fn with
    | some p => (s.fab.windows.getD (p.winBase + e.window) Window.idle).valid
    | none => false
  if r.hint = 3 ∨ !opened then s
  else
    let s := s.enterLine fn key r.hint (some (e.window, v.1))
    match s.mem.dlines.get? key with
    | some l => s.setLine key { l with remote := some (e.window, v.1), words := v.2.map (fun k => (k, true)) }
    | none => s

/-- The data of a thread's remote load arrive: they enter its registers, or a husk among them faults its context. -/
def State.gotLoad (s : State) (e : Remote) (r : MemReq) (ws : List CodeWord) : State :=
  let v := wordsValue ws
  let off := if r.near then e.gaddr.toNat % 128 else e.gaddr.toNat % 16
  let s := if r.near then s.keepRemote e r v else s
  if v.2.contains (off / 16) then s.huskFault r.core r.slot r.thread r.ctx r.pc r.word r.vaddr
  else s.deliver r ((v.1 >>> (8 * off)) % 2 ^ (8 * r.size))

/-- A line of an edge stream arrives; when the last one is here the feed's steps are formed (R63, R257). -/
def State.gotLine (s : State) (id line : Nat) (ws : List CodeWord) : State :=
  match s.grid.streams.find? (fun t => t.id == id) with
  | none => s
  | some t =>
    let t := { t with got := t.got.put line (wordsValue ws) }
    if t.need.any (fun l => (t.got.get? l).isNone) then
      { s with grid := { s.grid with streams := s.grid.streams.map (fun (u : Stream) => if u.id = id then t else u) } }
    else
      let s := { s with grid := { s.grid with streams := s.grid.streams.filter (fun (u : Stream) => u.id != id) } }
      match (s.gang t.gang).edge.find? (fun x => x.wait == some id) with
      | none => s
      | some f =>
        let fmt := sideFmt t.ncw f.side
        let s := s.streamBring t.ctx t.desc fmt
        match s.streamLanes t.core t.ctx t.desc t.ncw f.side f.bank t.got with
        | .error (st, a) => s.streamFault t.core t.ctx t.idx t.pc st t.word a
        | .ok (lanes, fl) =>
          ((s.updGang t.gang (fun g => { g with edge := g.edge.map (fun (x : EdgeFeed) =>
            if x.wait = some id then { x with lanes := lanes, wait := none } else x) })).orFlags t.ctx fl).streamDead t.ctx t.desc fmt

/-- READ_RESP: load data return to their requester. -/
def execReadResp (port : Nat) (m : Msg) (s : State) : Host.Outcome State Fault Refusal :=
  done (.readResp port m) (s.answered port m 0x11 (fun s e => match e.why with
    | .thread r => if r.kind.isLoad then s.gotLoad e r m.words else s
    | .stream id line => s.gotLine id line m.words
    | .command c id (some a) => s.gotSource c id a m.words
    | _ => s))

/-- The record at the head of the collector's queue is written, and the next one asked for (R375). -/
def State.collNext (s : State) : State :=
  let s := { s with board := { s.board with collQueue := s.board.collQueue.drop 1 } }
  s.collAsk s.board.collQueue.length

/-- The record at the head of the collector's queue is lost. -/
def State.collFail (s : State) : State :=
  let s := s.collLose
  s.collAsk s.board.collQueue.length

/-- WRITE_ACK: a store or ordered contribution has been accepted at its target (R258, R259). -/
def execWriteAck (port : Nat) (m : Msg) (s : State) : Host.Outcome State Fault Refusal :=
  done (.writeAck port m) (s.answered port m 0x12 (fun s e => match e.why with
    | .collWrite _ => s.collNext
    | .command c id none => s.gotAck c id
    | _ => s))

/-- ATOMIC_RESP: the old value returns; the collector's counter answers with the slot of a record (R375). -/
def execAtomicResp (port : Nat) (m : Msg) (s : State) : Host.Outcome State Fault Refusal :=
  let v := ((m.words.getD 0 (cleanWord 0)).data).toNat
  done (.atomicResp port m) (s.answered port m 0x13 (fun s e => match e.why with
    | .thread r => match r.kind with
      | .atom _ => s.deliver r (v % 2 ^ (8 * r.size))
      | _ => s
    | .collCounter q => match s.board.collQueue with
      | [] => s
      | r :: _ =>
        match s.collSend { emptyMsg with
            addr := BitVec.ofNat 64 (s.collSlot v), op := 0x02, len := 8, atype := 9, words := codeWords r.bytes (fun _ => false) }
            (.collWrite q) with
        | some t => t
        | none => s.collFail
    | _ => s))

/-- RETURN: an ordered contribution comes back to its core, which resends it (R155, R257). -/
def execReturnMsg (port : Nat) (m : Msg) (s : State) : Host.Outcome State Fault Refusal :=
  done (.returnMsg port m) (s.answered port m 0x14 (fun s e => match e.why with
    | .thread r => { s with mem := { s.mem with retries := s.mem.retries ++ [{ r with addr := e.gaddr.toNat }] } }
    | _ => s))

/-- A request of this device fails with a status: its context faults, or the unit that issued it goes on without (R261,
R375, R387). -/
def State.remoteFailed (s : State) (e : Remote) (st : Status) (port : Nat) : State :=
  let p := s.port port
  let rep := fabReport st port e.window e.gaddr e.dev p.peerDev p.vcnt
  match e.why with
  | .thread r => s.faultCtx r.ctx rep none
  | .stream id _ => match s.grid.streams.find? (fun t => t.id == id) with
    | some t => s.faultCtx t.ctx rep none
    | none => s
  | .collCounter _ => s.collFail
  | .collWrite _ => s.collFail
  | .command c id _ => s.transferFailed c id rep
  | .buddy fn j => (s.buddyAbandon fn j).endRuns fn j

/-- The header of the message that a NAK refuses. -/
def refusedHdr (m : Msg) : Nat := ofLe (wordBytes (m.words.take 2))

/-- The request that a NAK answers: a device on the way may send it, so the refused header names the target. -/
def State.refused (s : State) (m : Msg) : Option Remote :=
  s.fab.remotes.find? (fun e => e.tag % 65536 == m.tag.toNat && decide (e.dev.toNat = field (refusedHdr m) 191 176))

/-- NAK: a refused request faults its context; a refused gutter message is only recorded (R261, R275). -/
def execNak (port : Nat) (m : Msg) (s : State) : Host.Outcome State Fault Refusal :=
  let wire := m.nak.toNat
  done (.nak port m) (s.receive port m 0x30 (fun s =>
    let t := s.take port m
    if wire = 0 ∨ 9 < wire then t
    else if m.cls = 3 then
      match s.jobById m.tag.toNat with
      | some (fn, j, _) => t.nakNote fn j port m.srcdev wire
      | none => t
    else match s.refused m with
      | none => t.late port
      | some e =>
        let t := t.dropRemote e
        if s.wanted e then t.remoteFailed e (nakStatus wire) port else t.late port))

/-- REMOTE_TIMEOUT: a request has gone unanswered for RTMO. -/
def execRemoteTimeout (tag : Nat) (s : State) : Host.Outcome State Fault Refusal :=
  done (.remoteTimeout tag) (match s.fab.remotes.find? (fun e => e.tag == tag) with
    | none => s
    | some e =>
      let t := s.dropRemote e
      if s.wanted e then t.remoteFailed e fabRemoteTimeout e.port else t)

end Sys2Proof.Machine
end

