-- ==== Sys2Proof/Machine/Link.lean ====
section
/-! DEFINITION. The link layer and transit (R262 to R281): flits, retry, retraining, training, fault injection on the
receive side, forwarding, and the violation score. A flit stands for one message of the replay buffer (DESIGN CHOICE). -/

namespace Sys2Proof.Machine

/-! ## Link states (R272, R273, R277) -/

/-- The state of a port's link, below any quarantine. -/
def Port.link (p : Port) : PortSt := if p.st = .quarantined then p.linkUp else p.st

def Port.setLink (p : Port) (l : PortSt) : Port := if p.st = .quarantined then { p with linkUp := l } else { p with st := l }

/-- The link layer runs. -/
def Port.linked (p : Port) : Bool := p.link == .up || p.link == .degraded || p.link == .retraining

/-- PORT_RETRAIN: an operating port starts a retrain. -/
def Port.retrain (p : Port) : Port := if p.link = .up ∨ p.link = .degraded then p.setLink .retraining else p

/-- PORT_DOWN: the replay buffer and the messages held are lost. -/
def Port.goDown (p : Port) : Port :=
  { p.setLink .down with replay := [], waiting := [], retrains := 0, credits := [], stalled := [], lanes := 0 }

/-- Send the messages that waited for a port. -/
def State.flushPort (s : State) (port : Nat) : State :=
  let ms := (s.port port).waiting
  ms.foldl (fun s m => s.sendOn port m) (s.updPort port (fun p => { p with waiting := [] }))

/-! ## Fault injection (R280, R281) -/

/-- One injection event of a port: its generator advances, and says whether the event is injected. -/
def State.injEvent (s : State) (port : Nat) : Bool × State :=
  let p := s.port port
  let x := xorshift p.injState
  let hit := decide (x.toNat / 2 ^ 32 < p.injRate.toNat)
  (hit, s.updPort port (fun p => { p with injState := x, injCount := if hit then p.injCount + 1 else p.injCount }))

/-- Mode 3: a data code word is changed in one or two symbols, or a reserved header field is set. Which word and which
symbols is left open: a free choice. A husk with an error is uncorrectable (R166). -/
def State.corrupt (s : State) (port : Nat) (m : Msg) : Msg × State :=
  if (s.port port).injSym = 3 then ({ m with rsv := true }, s)
  else
    let (v, s) := s.drawWord
    let k := v.toNat % m.words.length
    let (y, s) := s.drawWord
    let two := (s.port port).injSym == 2
    ({ m with words := (List.range m.words.length).map (fun i =>
        let c := m.words.getD i (cleanWord 0)
        if i = k then (if two || CodeWord.isHusk c then { c with st := .bad (y.setWidth 16) } else { c with st := .single }) else c) }, s)

/-- A message passes to the units behind a port, and with it those that injection held behind it, newest first. -/
def State.pass (s : State) (port : Nat) (m : Msg) : State :=
  let mine (n : Msg) : Bool := channelOf n == channelOf m
  let held := (s.port port).held.filter mine
  let s := s.updPort port (fun p => { p with held := p.held.filter (fun n => !mine n) })
  { s with fab := { s.fab with inbox := s.fab.inbox ++ (m :: held).map (fun n => (port, n)) } }

/-- The link layer delivers a message: injection of modes 1, 3 and 4 acts on the classes of CMASK. -/
def State.inject (s : State) (port : Nat) (m : Msg) : State :=
  let p := s.port port
  let mode := p.injMode.toNat
  if (mode ≠ 1 ∧ mode ≠ 3 ∧ mode ≠ 4) ∨ !bitOf p.injCmask.toNat m.cls.toNat then s.pass port m
  else
    let (hit, s) := s.injEvent port
    if !hit then s.pass port m
    else if mode = 1 then s
    else if mode = 3 then
      let (m, s) := s.corrupt port m
      s.pass port m
    else s.updPort port (fun p => { p with held := m :: p.held })

/-- REORDER_RELEASE: a message held by injection for 10 µs is released, the oldest first. -/
def execReorderRelease (port : Nat) (s : State) : Host.Outcome State Fault Refusal :=
  done (.reorderRelease port) (match (s.port port).held.getLast? with
    | none => s
    | some m =>
      let s := s.updPort port (fun p => { p with held := p.held.dropLast })
      { s with fab := { s.fab with inbox := s.fab.inbox ++ [(port, m)] } })

/-! ## Flits (R270, R271, R276) -/

/-- ACKSEQ releases the replay buffer up to the flit that it names, and its room takes the messages that wait. -/
def State.release (s : State) (port : Nat) (ack : BitVec 12) : State :=
  let r := (s.port port).replay
  if !r.any (fun x => x.1 == ack) then s
  else
    let left := (r.dropWhile (fun x => x.1 != ack)).drop 1
    let s := s.updPort port (fun p => { p with replay := left, stalled := [] })
    if (s.port port).st = .retraining then s else s.flushPort port

/-- The credits that a flit returns, in units of 4 flits for each channel. -/
def Port.credit (p : Port) (cred : Nat) : Port :=
  { p with credits := (List.range 8).foldl (fun (m : Map Nat) v =>
      let n := field cred (4 * v + 3) (4 * v)
      if n = 0 then m else m.put v (m.getD v 0 - 4 * n)) p.credits }

/-- Messages of a channel that a port has delivered and no unit has taken: they fill its receive buffer. -/
def State.occupied (s : State) (port vc : Nat) : Nat :=
  (s.fab.inbox.filter (fun x => x.1 == port && channelOf x.2 == vc)).foldl (fun n x => n + flitsOf x.2) 0

/-- FLIT_RECEIVE: a flit that fails its CRC or FEC, or is out of sequence, is dropped and asked for again. A data flit
beyond the channel's credits is accepted and its messages are lost; the first is answered (R276). -/
def State.flit (s : State) (port : Nat) (f : Flit) : State :=
  if !(s.port port).linked then s
  else
    let s := s.updPort port (fun p => { p with
      corrSym := p.corrSym + f.corr, uncorr := if f.fecOk then p.uncorr else sat 16 (p.uncorr + 1) })
    let (hit, s) := if (s.port port).injMode = 2 then s.injEvent port else (false, s)
    if !f.crcOk ∨ !f.fecOk ∨ hit ∨ (f.ftype = 0 ∧ f.fseq ≠ (s.port port).rxSeq) then
      s.updPort port (fun p => { p with asks := p.asks ++ [p.rxSeq] })
    else
      let s := (s.updPort port (fun p => p.credit f.cred.toNat)).release port f.ackseq
      if f.ftype ≠ 0 then s
      else
        let s := s.updPort port (fun p => { p with rxSeq := p.rxSeq + 1 })
        match f.msgs with
        | [] => s
        | m :: _ =>
          if Config.vcDepth ≤ s.occupied port f.vc.toNat then s.violate port m 3
          else f.msgs.foldl (fun s m => s.inject port m) s

def execFlitReceive (port : Nat) (flit : Flit) (s : State) : Host.Outcome State Fault Refusal :=
  done (.flitReceive port flit) (s.flit port flit)

/-- RETRY_REQUEST: the sender resends from the flit named; a flit resent more than 8 times makes the port retrain. -/
def execRetryRequest (port : Nat) (next : BitVec 12) (s : State) : Host.Outcome State Fault Refusal :=
  done (.retryRequest port next)
    (let p := s.port port
     let again := p.replay.dropWhile (fun x => x.1 != next)
     if !p.linked ∨ again.isEmpty then s
     else
       let keep := p.replay.takeWhile (fun x => x.1 != next)
       let s := s.updPort port (fun p => { p with
         replay := keep ++ again.map (fun x => (x.1, x.2.1, x.2.2 + 1)), retry := sat 16 (p.retry + again.length) })
       let s := { s with fab := { s.fab with out := s.fab.out ++ again.map (fun x => (port, x.2.1)) } }
       if again.any (fun x => decide (8 < x.2.2 + 1)) then s.updPort port Port.retrain else s)

/-- BER_WINDOW: a pre-FEC error ratio above 2.4 × 10⁻⁴ over 1 s makes the port retrain. -/
def execBerWindow (port errors bits : Nat) (s : State) : Host.Outcome State Fault Refusal :=
  done (.berWindow port errors bits) (if 24 * bits < 100000 * errors then s.updPort port Port.retrain else s)

/-- The lanes on which a port runs, given those that trained: all 8, or a whole half. -/
def usableLanes (lanes : Byte) : Byte :=
  if lanes = 0xFF then 0xFF
  else if lanes &&& 0x0F = 0x0F then 0x0F
  else if lanes &&& 0xF0 = 0xF0 then 0xF0
  else 0

/-- PORT_TRAINING_COMPLETE: the port comes up, on 8 lanes or degraded on 4, and the messages that waited go out; or its
training fails. A third failed retrain in a row takes it down, and so does a failed first training. -/
def State.trained (s : State) (port : Nat) (lanes : Byte) (peer : BitVec 16) (peerPort : BitVec 6) : State :=
  let p := s.port port
  let l := usableLanes lanes
  if p.link ≠ .training ∧ p.link ≠ .retraining then s
  else if l = 0 then
    s.updPort port (fun p =>
      if p.link = .training ∨ 3 ≤ p.retrains + 1 then p.goDown else { p with retrains := p.retrains + 1 })
  else
    (s.updPort port (fun p =>
      { p.setLink (if l = 0xFF then .up else .degraded) with
        lanes := l, peerDev := peer, peerPort := peerPort, rate := p.rateNext, retrains := 0 })).flushPort port

def execPortTrainingComplete (port : Nat) (lanes : Byte) (peer : BitVec 16) (peerPort : BitVec 6) (s : State) :
    Host.Outcome State Fault Refusal :=
  done (.portTrainingComplete port lanes peer peerPort) (s.trained port lanes peer peerPort)

/-! ## Transit (R265 to R267, R275) -/

/-- MESSAGE_FORWARD: a message for another device is checked and sent on; it is discarded and refused where its hop limit
ends here or no port remains. Messages of a channel keep their order. -/
def State.forward (s : State) (port : Nat) (m : Msg) : State :=
  let p := s.port port
  let before := if s.fab.inbox.contains (port, m) then s.fab.inbox.takeWhile (fun x => x != (port, m)) else []
  if m.dstdev = s.fab.devid ∨ (!p.st.carries ∧ p.st ≠ .quarantined) ∨
      before.any (fun x => x.1 == port && x.2.dstdev != s.fab.devid && channelOf x.2 == channelOf m) then s
  else
    let s := { s with fab := { s.fab with inbox := s.fab.inbox.erase (port, m) } }
    if p.st = .quarantined then s.quarantined port m
    else if !hdrLegal m then s.violate port m 4
    else if m.ttl.toNat ≤ 1 then s.sendNak m 8
    else match s.route (m.addr.toNat % 2 ^ 46) m.dstdev.toNat m.srcdev.toNat none with
      | some q => s.sendOn q { m with ttl := m.ttl - 1 }
      | none => s.sendNak m 8

def execMessageForward (port : Nat) (m : Msg) (s : State) : Host.Outcome State Fault Refusal :=
  done (.messageForward port m) (s.forward port m)

/-! ## Stalls and the violation score (R264, R277) -/

/-- VC_STALLED: a channel's head message has made no progress for 100 ms: one record for each stall. -/
def execVcStalled (port vc : Nat) (s : State) : Host.Outcome State Fault Refusal :=
  done (.vcStalled port vc)
    (let p := s.port port
     if p.stalled.contains vc ∨ !(p.waiting.any (fun m => channelOf m == vc) || decide (0 < p.credits.getD vc 0)) then s
     else (s.updPort port (fun p => { p with stalled := insSet p.stalled vc })).record
       (fabReport fabVcStalled port 0 0 0 p.peerDev p.vcnt))

/-- VIOLATION_SCORE_DECAY: every port's score falls by 1, every 16 ms. -/
def execViolationScoreDecay (s : State) : Host.Outcome State Fault Refusal :=
  done .violationScoreDecay
    { s with fab := { s.fab with ports := s.fab.ports.map (fun x => (x.1, { x.2 with vcnt := x.2.vcnt - 1 })) } }

end Sys2Proof.Machine
end

