-- ==== Sys2Proof/Machine/QueueCmd.lean ====
section
/-! DEFINITION. The commands of the queue engine (R313, R314, R335 to R346). -/

namespace Sys2Proof.Machine

/-! ## NOP, LAUNCH (R313, R314) -/

def execQueueNop (e : EntryRef) (s : State) : Host.Outcome State Fault Refusal :=
  done (.queueNop e) (s.begin e 0x00 (fun s _ => s.ran e statusOk 0))

/-- Whether a launch breaks a rule of R314. -/
def State.launchBad (s : State) (fn : Nat) (x : QEntry) : Bool :=
  let cores := (List.range x.lCores).map (· + x.lCore0)
  let courses := match s.part fn with
    | some p => p.courses
    | none => []
  let first := x.lCore0 / 1024
  let c := s.ctx x.ctx
  !((List.range ((x.lCore0 + x.lCores - 1) / 1024 + 1 - first)).all (fun k => courses.contains (first + k))) ||
    cores.any (fun n => s.fenced (tractOfCore n)) || decide (x.lSize = 0 ∨ 64 < x.lBase + x.lSize) ||
    !c.kernels.any (fun k => k.entry.toNat == x.lEntry) ||
    cores.any (fun n => match (s.core n).lsWin.get? x.ctx with
      | some w => w != (x.lBase, x.lSize)
      | none => false)

/-- LAUNCH: an invalid launch completes at once; otherwise its sheaves are placed as slots become free. -/
def execLaunch (e : EntryRef) (s : State) : Host.Outcome State Fault Refusal :=
  done (.launch e) (s.begin e 0x01 (fun s x => if s.launchBad e.fn x then s.ran e hqLaunchInvalid 0 else s))

/-! ## COPY, FILL (R305, R313) -/

/-- COPY: a side is host memory, or a range of context addresses here or on another device. -/
def State.copyEntry (s : State) (e : EntryRef) (x : QEntry) : State :=
  let src := x.pay 319 256
  let len := x.pay 191 128
  let shost := x.pay 127 127 == 1
  match (if shost then some [] else s.spans x.ctx .r src len), (if x.pay 126 126 = 1 then some [] else s.spans x.ctx .w (x.pay 255 192) len) with
  | some sp, some dp =>
    if shost then s.copyEnd e x [] dp (s.hostMarked src len)
    else s.gather e x (x.pay 125 124) sp dp
  | _, _ => s.windowFault e x

def execCopy (e : EntryRef) (s : State) : Host.Outcome State Fault Refusal :=
  done (.copy e) (s.begin e 0x02 (fun s x => s.copyEntry e x))

/-- FILL: the value is written over the range. -/
def execFill (e : EntryRef) (s : State) : Host.Outcome State Fault Refusal :=
  done (.fill e) (s.begin e 0x03 (fun s x =>
    let len := x.pay 255 192
    match s.spans x.ctx .w (x.pay 319 256) len with
    | some ps => s.deliverTo e x ps (unmarked ((List.replicate (len / 4) (leBytes 4 (x.pay 191 160))).flatten)) statusOk 0
    | none => s.windowFault e x))

/-! ## RESHAPE, SPARADD (R77, R313) -/

/-- RESHAPE: a request for the j-th tract of the partition; an index past the last tract is invalid (DESIGN CHOICE). -/
def execReshape (e : EntryRef) (s : State) : Host.Outcome State Fault Refusal :=
  done (.reshape e) (s.begin e 0x04 (fun s x =>
    match (s.part e.fn).bind (fun p => p.tracts[x.pay 255 240]?) with
    | none => s.ran e hqCmdInvalid 0
    | some t => s.startReshape { tract := t, running := false, ctx := x.ctx, word := BitVec.ofNat 64 (x.pay 319 256), fn := e.fn, sheaf := false
                                 core := 0, slot := 0, tag := 0, entry := some e }))

/-- SPARADD: as SPADD by a thread of the context. -/
def execSparadd (e : EntryRef) (s : State) : Host.Outcome State Fault Refusal :=
  done (.sparadd e) (s.begin e 0x05 (fun s x =>
    let bad (st : Status) : State := s.entryFault e x (queueReport e x st [])
    match s.translateSpar x.ctx (x.pay 255 240) with
    | .error st => bad st
    | .ok (p, _) => match s.addSpar p (BitVec.ofNat 64 (x.pay 319 256)) with
      | .error st => bad st
      | .ok (old, t) => t.ran e statusOk (old.toNat % 2 ^ 32)))

/-! ## Contexts (R331, R335, R343) -/

def State.ownCtx (s : State) (fn n : Nat) : Bool :=
  match s.part fn with
  | some p => decide (p.ctxBase ≤ n ∧ n < p.ctxBase + p.ctxCount)
  | none => false

/-- Whether a range of an empty or non-empty table lies in the partition's memory. -/
def State.tableIn (s : State) (fn a len : Nat) : Bool := len == 0 || s.inPart fn a len

/-- Whether a context record breaks a rule of R331. -/
def State.recordBad (s : State) (fn a : Nat) : Bool :=
  match s.part fn with
  | none => true
  | some p =>
    if a % 256 ≠ 0 ∨ !s.inPart fn a 256 then true
    else
      let c := s.readRecord fn a
      decide (p.winCount < c.winFirst + c.winCount ∨ 131072 < c.winCount ∨ 65536 < c.mapLen ∨ 65536 < c.maxShf ∨ 4096 < c.ncode ∨
        2 ^ 24 < c.maxObj ∨ c.mapAddr % 4 ≠ 0 ∨ c.waitList % 512 ≠ 0 ∨ c.save % 256 ≠ 0 ∨ c.code % 32 ≠ 0) ||
      !s.tableIn fn c.mapAddr (4 * c.mapLen) || !s.tableIn fn c.waitList (512 * c.maxShf) || !s.tableIn fn c.save (2304 * c.maxShf) ||
      !s.tableIn fn c.code (32 * c.ncode) || (s.readBytes (a + 0x88) 0x78).any (· != 0)

/-- CTXCREATE: the number is checked first, then the record; the context takes the job of this entry (R332). -/
def execCtxcreate (e : EntryRef) (s : State) : Host.Outcome State Fault Refusal :=
  done (.ctxcreate e) (s.begin e 0x10 (fun s x =>
    let a := x.pay 319 256
    if !s.ownCtx e.fn x.ctx then s.ran e ctxForeign 0
    else if (s.ctx x.ctx).st ≠ .free then s.ran e ctxNotFree 0
    else if s.recordBad e.fn a then s.ran e ctxRecordInvalid 0
    else
      let c := { s.readRecord e.fn a with jobsl := x.jslot }
      let s := (s.writeBytes c.waitList (List.replicate (512 * c.maxShf) 0)).writeBytes c.code (List.replicate (32 * c.ncode) 0)
      (({ s with tab := { s.tab with ctxs := s.tab.ctxs.put x.ctx c } }).saveCtx x.ctx).ran e statusOk 0))

/-- CTXDESTROY acts when its entry has been fetched, not after its predecessors. It completes when the number is FREE. -/
def execCtxdestroy (e : EntryRef) (s : State) : Host.Outcome State Fault Refusal :=
  done (.ctxdestroy e) (match s.entry e with
    | none => s
    | some x =>
      let q := s.queue e.fn e.q
      let dflt := (s.part e.fn).map (·.ctxBase) == some x.ctx
      if x.opc ≠ 0x11 ∨ x.st ≠ .waiting ∨ !q.en ∨ q.err ∨ (s.fn e.fn).tearing ∨ !(s.fn e.fn).ready then s
      else if dflt then s.endUnrun e hqCmdInvalid
      else match (s.ctx x.ctx).st with
        | .free => s.endUnrun e ctxNotDefined
        | .destroying => s.endUnrun e ctxDestroyed
        | _ => match s.waitGate x with
          | .go => (s.updEntry e (fun y => { y with st := .running })).startDestroy x.ctx (some e)
          | .stay => s
          | .refuse st => s.endUnrun e st
          | .fault st =>
            ((s.entryFault e x (queueReport e x st [])).updEntry e (fun y => { y with signalled := true })).conclude e)

/-- CTXRECOVER: a FAULTED context is DEFINED again. -/
def execCtxrecover (e : EntryRef) (s : State) : Host.Outcome State Fault Refusal :=
  done (.ctxrecover e) (s.begin e 0x12 (fun s x =>
    match (s.ctx x.ctx).st with
    | .defined => s.ran e statusOk 0
    | .faulted => ((s.updCtx x.ctx (fun c => { c with st := .defined, fault := 0 })).saveCtx x.ctx).ran e statusOk 0
    | _ => s.ran e ctxNotDefined 0))

/-! ## Code (R336) -/

/-- CODELOAD: the image is read, and loaded. -/
def execCodeload (e : EntryRef) (s : State) : Host.Outcome State Fault Refusal :=
  done (.codeload e) (s.begin e 0x13 (fun s x =>
    match s.spans x.ctx .r (x.pay 319 256) (x.pay 255 192) with
    | none => s.windowFault e x
    | some sp => s.gather e x 0 sp []))

/-- Whether a launch that has not finished uses a kernel of a load. -/
def State.codeInUse (s : State) (fn ctx : Nat) (ks : List Kernel) : Bool :=
  !(s.entriesWhere fn (fun y => y.opc == 0x01 && y.ctx == ctx && decide (y.st = .running) &&
      ks.any (fun k => k.entry.toNat == y.lEntry))).isEmpty

/-- CODEUNLOAD: it waits for the launches that use its kernels, and removes them. -/
def State.codeUnload (s : State) (e : EntryRef) (x : QEntry) : State :=
  let dst := x.pay 319 256
  let ks := (s.ctx x.ctx).kernels.filter (fun k => k.dst.toNat == dst)
  if s.codeInUse e.fn x.ctx ks then s
  else
    let s := s.updCtx x.ctx (fun c => { c with kernels := c.kernels.filter (fun k => !(k.dst.toNat == dst)) })
    (s.writeCodeTable x.ctx).ran e statusOk ks.length

def execCodeunload (e : EntryRef) (s : State) : Host.Outcome State Fault Refusal :=
  done (.codeunload e) (match s.entry e with
    | some x => if x.opc = 0x14 ∧ x.st = .running then s.codeUnload e x else s.begin e 0x14 (fun s x => s.codeUnload e x)
    | none => s)

/-! ## Objects (R338 to R341) -/

/-- OALLOC: the result of the allocation goes to RES as 16 bytes. A RES outside the context's windows is found before
anything is allocated. -/
def execOalloc (e : EntryRef) (s : State) : Host.Outcome State Fault Refusal :=
  done (.oalloc e) (s.begin e 0x15 (fun s x =>
    let res := x.pay 255 192
    let rhost := x.pay 191 191 == 1
    match (if rhost then some [] else s.spans x.ctx .w res 16) with
    | none => s.windowFault e x
    | some ps =>
      let put (s : State) (bs : List Byte) (st : Status) : State :=
        if rhost then (s.hostWrite res bs).ran e st st.toNat else s.deliverTo e x ps (unmarked bs) st st.toNat
      match s.alloc x.ctx (x.pay 319 256) (x.pay 190 188 == 1) (x.pay 187 183) (x.pay 182 182 == 1) with
      | .ok (h, base, t) => put t (leBytes 8 h ++ leBytes 8 base) statusOk
      | .error st => put s (leBytes 8 0 ++ leBytes 4 st.toNat ++ leBytes 4 0) st))

/-- A refused handle faults the entry's context; the record names the handle and its index's current generation (R340). -/
def State.handleFault (s : State) (e : EntryRef) (x : QEntry) (h : Nat) (st : Status) : State :=
  s.entryFault e x { queueReport e x st (leBytes 8 h ++ leBytes 2 ((s.objTab e.fn).gen (h % 2 ^ 24))) with unit := 0x0F, loc := 0, op := 0 }

def execOfree (e : EntryRef) (s : State) : Host.Outcome State Fault Refusal :=
  done (.ofree e) (s.begin e 0x16 (fun s x => match s.handle e.fn (x.pay 319 256) with
    | .error st => s.handleFault e x (x.pay 319 256) st
    | .ok (i, _) => (s.freeObj e.fn i).ran e statusOk 0))

/-- OSHARE: TARGET becomes a holder. A TARGET outside the function's range is foreign (R327). -/
def execOshare (e : EntryRef) (s : State) : Host.Outcome State Fault Refusal :=
  done (.oshare e) (s.begin e 0x17 (fun s x => match s.handle e.fn (x.pay 319 256) with
    | .error st => s.handleFault e x (x.pay 319 256) st
    | .ok (i, o) =>
      let t := x.pay 255 236
      let c := s.ctx t
      if !s.ownCtx e.fn t then s.ran e ctxForeign o.holders.length
      else if c.st ≠ .defined ∧ c.st ≠ .faulted then s.ran e ctxNotDefined o.holders.length
      else if o.holders.contains t ∨ 255 ≤ o.holders.length then s.ran e alcLimit o.holders.length
      else (s.updObjTab e.fn (fun b => { b with objs := b.objs.put i { o with holders := o.holders ++ [t] } })).ran e statusOk
        (o.holders.length + 1)))

/-- ODROP: CTX's hold goes; a context that holds nothing changes nothing. -/
def execOdrop (e : EntryRef) (s : State) : Host.Outcome State Fault Refusal :=
  done (.odrop e) (s.begin e 0x18 (fun s x => match s.handle e.fn (x.pay 319 256) with
    | .error st => s.handleFault e x (x.pay 319 256) st
    | .ok (i, o) =>
      if o.holders.contains x.ctx then
        let r := s.dropHold e.fn i x.ctx
        r.2.ran e statusOk r.1
      else s.ran e statusOk o.holders.length))

/-- The local pieces of a range of an object. -/
def objPieces (p : Part) (o : Obj) : Nat → Nat → Nat → List (Nat × Nat)
  | 0, _, _ => []
  | fuel + 1, off, len =>
    if len = 0 then []
    else
      let n := min len (4096 - (o.off + off) % 4096)
      (p.heapLocal o.ddr (o.off + off), n) :: objPieces p o fuel (off + n) (len - n)

def Part.range (p : Part) (o : Obj) (off len : Nat) : List (Nat × Nat) := objPieces p o (len / 4096 + 2) off len

/-- Write marked bytes through an object, with its PART and GEN (R164). -/
def State.putObj (s : State) (part gen : Nat) : List (Nat × Nat) → List (Byte × Bool) → State
  | [], _ => s
  | (a, n) :: r, bs =>
    let s := s.writeObj a ((bs.take n).map (·.1)) part gen
    let bad := (((List.range n).filter (fun k => (bs.getD k (0, false)).2)).map (fun k => (a + k) / 16)).eraseDups
    State.putObj (bad.foldl (fun s w => s.pokeHusk w true) s) part gen r (bs.drop n)

/-- The object that a handle named when its command started, freed since or not (R341). -/
def State.objOf (s : State) (fn h : Nat) : Option Obj :=
  let idx := h % 2 ^ 24
  let gen := field h 37 24
  match (if gen = (s.objTab fn).gen idx then (s.objTab fn).objs.get? idx else none) with
  | some o => some o
  | none => (s.objTab fn).objs.get? (limboKey idx gen)

/-- The copy of an OCOPY, when it finishes: a source burst with another PART or GEN faults the context (R164). -/
def State.ocopyEnd (s : State) (e : EntryRef) (x : QEntry) : State :=
  let sh := x.pay 319 256
  let dh := x.pay 191 128
  let len := x.pay 63 0
  match s.part e.fn, s.objOf e.fn sh, s.objOf e.fn dh with
  | some p, some so, some d =>
    let src := p.range so (x.pay 255 192) len
    let gen := field sh 37 24
    let s' :=
      if src.all (fun q => s.metaFits q.1 q.2 e.fn gen) then
        (s.putObj e.fn (field dh 37 24) (p.range d (x.pay 127 64) len) (s.markedPieces src)).ran e statusOk 0
      else s.handleFault e x sh alcStaleHandle
    s'.updObjTab e.fn (fun t => { t with objs := t.objs.filter (fun o => decide (o.1 < 2 ^ 24) ||
      s'.objInUse e.fn (o.1 % 2 ^ 24) (o.1 / 2 ^ 24 - 1)) })
  | _, _, _ => s.ran e hqCmdInvalid 0

/-- OCOPY: its handles and ranges are checked; the objects stay allocated until it finishes at its ENTRY_FINISH. -/
def execOcopy (e : EntryRef) (s : State) : Host.Outcome State Fault Refusal :=
  done (.ocopy e) (s.begin e 0x19 (fun s x =>
    let len := x.pay 63 0
    match s.handle e.fn (x.pay 319 256) with
    | .error st => s.handleFault e x (x.pay 319 256) st
    | .ok (_, so) => match s.handle e.fn (x.pay 191 128) with
      | .error st => s.handleFault e x (x.pay 191 128) st
      | .ok (_, d) =>
        if so.size < x.pay 255 192 + len ∨ d.size < x.pay 127 64 + len then s.ran e hqCmdInvalid 0 else s))

/-! ## QUERY (R346) -/

/-- Free bytes of a heap. -/
def State.heapFree (s : State) (fn : Nat) (ddr : Bool) (size : Nat) : Nat :=
  size - ((s.heapUse fn).filter (fun o => o.ddr == ddr)).foldl (fun n o => n + o.size) 0

/-- Spars that a partition has allocated. -/
def State.sparsUsed (s : State) (fn : Nat) : Nat := (s.tab.spars.filter (fun x => x.2.used && x.2.part == fn)).length

/-- MHz of a course's fast clock: 65 times its step, 0 where it stands (R396). -/
def Course.mhz (c : Course) : Nat := if c.power = .run then 65 * c.step else 0

/-- What PWR_CAP holds: the values of the last write, though they act from the next millisecond (R403). -/
def State.capReg (s : State) : Nat × Nat := s.pwr.capNext.getD (s.pwr.cap, s.pwr.window)

/-- ID_VERSION and ID_HBM (R308). -/
def idVersion : Nat := 0xAF070101
def State.idHbm (s : State) : Nat := s.mem.stackGB * 2 ^ 56 + s.unitB

/-- The body of a query, or its refusal. Fields that the manual gives no size are 4 bytes for the clock and tick of query
0, and 8 bytes in query 1 (DESIGN CHOICE). -/
def State.queryBody (s : State) (fn : Nat) (p : Part) (qid arg : Nat) : Except Status (List Byte) :=
  let per (f : Course → List Byte) : List Byte := p.courses.flatMap (fun c => f (s.course c))
  match qid with
  | 0 => .ok (leBytes 8 idVersion ++ leBytes 8 s.idHbm ++ leBytes 4 1300 ++ leBytes 4 40)
  | 1 => .ok ([p.courses.length, p.units.length, p.ddrRange, p.ctxBase, p.ctxCount, p.rshare, (s.residents fn).length, p.sparq,
      s.sparsUsed fn, p.objq, (s.objTab fn).live, s.heapFree fn false p.hbmHeap.2, s.heapFree fn true p.ddrHeap.2].flatMap (leBytes 8))
  | 2 =>
    let c := s.ctx arg
    if !s.ownCtx fn arg then .error ctxForeign
    else if c.st = .free then .error ctxNotDefined
    else .ok (s.readBytes c.record 0x90 ++ leBytes 4 (s.slotsWhere (fun sl => sl.ctx == arg)).length ++
      leBytes 4 (s.grid.gangs.filter (fun g => g.2.ctx == some arg)).length)
  | 3 => .ok (per (fun c => leBytes 4 c.mhz))
  | 4 => .ok (per (fun c => leBytes 2 (codeOf 16 c.temp)))
  | 5 => .ok (per (fun c => leBytes 2 c.mv))
  | 6 => match s.job fn arg with
    | some b => .ok (leBytes 8 b.energy ++ leBytes 4 b.step)
    | none => .error hqCmdInvalid
  | 7 => .ok (leBytes 4 s.capReg.1 ++ leBytes 4 s.capReg.2 ++ leBytes 4 p.power)
  | 8 => .ok (per (fun c => leBytes 2 c.res))
  | _ => .error hqCmdInvalid

/-- QUERY: header and body are written where LEN holds them; else RESULT tells the bytes needed. -/
def execQuery (e : EntryRef) (s : State) : Host.Outcome State Fault Refusal :=
  done (.query e) (s.begin e 0x1A (fun s x =>
    let dst := x.pay 319 256
    let qid := x.pay 191 176
    match s.part e.fn with
    | none => s.ran e hqCmdInvalid 0
    | some p => match s.queryBody e.fn p qid (x.pay 175 156) with
      | .error st => s.ran e st 0
      | .ok body =>
        let out := leBytes 4 qid ++ leBytes 4 body.length ++ leBytes 8 s.pwr.time.toNat ++ body
        if x.pay 255 192 < out.length then s.ran e hqCmdInvalid out.length
        else if x.pay 155 155 = 1 then (s.hostWrite dst out).ran e statusOk out.length
        else match s.spans x.ctx .w dst out.length with
          | none => s.windowFault e x
          | some ps => s.deliverTo e x ps (unmarked out) statusOk out.length))

end Sys2Proof.Machine
end

