-- ==== Sys2Proof/Machine/QueueEng.lean ====
section
/-! DEFINITION. The queue engine: fetching and checking entries (R451), finishing them (R315), doorbells (R312, R317),
enabling and disabling queues (R311). -/

namespace Sys2Proof.Machine

/-! ## Enabling and disabling (R310, R311) -/

/-- Whether a function has queue q. -/
def State.hasQueue (s : State) (fn q : Nat) : Bool :=
  match s.part fn with
  | some p => decide (q < p.qcount)
  | none => false

/-- HQ_CTL as it stores: reserved bits are ignored (R6), COH reads 0 on a VF. -/
def ctlStored (fn : Nat) (v : DWord) : DWord := v &&& (if fn = 0 then 0xFF00000007 else 0xFF00000003)

/-- Why a configuration is refused: a reserved ring size, a misaligned base, or a local base outside the partition. -/
def State.ringsBad (s : State) (fn : Nat) (q : Queue) (ctl : DWord) : Bool :=
  decide (12 < field ctl.toNat 35 32 ∨ 12 < field ctl.toNat 39 36 ∨ q.sqbase.toNat % 64 ≠ 0 ∨ q.cqbase.toNat % 16 ≠ 0) ||
    (ctl.getLsbD 1 && !(s.inPart fn q.sqbase.toNat 64 && s.inPart fn q.cqbase.toNat 16))

/-- The cursors with which a queue starts: each loaded job's last sealed step (R316). -/
def State.cursors (s : State) (fn : Nat) : Map Nat := (s.fn fn).jobs.map (fun j => (j.1, (j.2.step + 2 ^ 32 - 1) % 2 ^ 32))

/-- A write of HQ_CTL. While EN = 1 only EN acts. -/
def State.writeHqCtl (s : State) (fn n : Nat) (v : DWord) : State :=
  let q := s.queue fn n
  let ctl := ctlStored fn v
  if !s.hasQueue fn n then s
  else if q.en then
    (if v.getLsbD 0 then s
    else if q.err then (s.updQueue fn n (fun q => { q with closing := true })).settleQueue fn n
    else if q.run then s.updQueue fn n (fun q => { q with status := hqQueueBusy })
    else (s.flushPosts fn n).updQueue fn n (fun q => { q.disable with status := statusOk }))
  else if !v.getLsbD 0 then s.updQueue fn n (fun q => { q with ctl := ctl })
  else if s.ringsBad fn q ctl then
    s.updQueue fn n (fun q => { q with ctl := ctl &&& ~~~(1 : DWord), status := hqCmdInvalid })
  else
    s.updQueue fn n (fun q => { Queue.idle with
      sqbase := q.sqbase, cqbase := q.cqbase, mod := q.mod, ctl := ctl, cursor := s.cursors fn })

/-! ## Doorbells (R312, R317) -/

/-- Entries from one ring index to another. -/
def ringDist (size a b : Nat) : Nat := (b + size - a % size) % size

/-- A submission doorbell: a tail past the ring, or one that would overwrite an occupied slot, is an error. -/
def State.dbSq (s : State) (fn n tail : Nat) : State :=
  let q := s.queue fn n
  if !s.hasQueue fn n ∨ !q.en ∨ q.err ∨ (s.fn fn).tearing then s
  else if q.sqSize ≤ tail ∨ ringDist q.sqSize q.sqhead tail < ringDist q.sqSize q.sqhead q.sqtail then s.queueError fn n hqDbRange
  else s.updQueue fn n (fun q => { q with sqtail := tail })

/-- A completion doorbell: the head must lie between the current head and CQTAIL. -/
def State.dbCq (s : State) (fn n head : Nat) : State :=
  let q := s.queue fn n
  if !s.hasQueue fn n ∨ !q.en ∨ q.err ∨ (s.fn fn).tearing then s
  else if q.cqSize ≤ head ∨ ringDist q.cqSize q.cqhead q.cqtail < ringDist q.cqSize q.cqhead head then s.queueError fn n hqDbRange
  else s.updQueue fn n (fun q => { q with cqhead := head })

/-! ## Fetching (R313, R335, R451) -/

/-- The payload bits that a command reserves: their highest and lowest position; none for an opcode without a command. -/
def reservedPay (opc : Nat) : Option (Nat × Nat) :=
  match opc with
  | 0x00 | 0x11 | 0x12 => some (319, 0)
  | 0x01 => some (135, 0)
  | 0x02 => some (123, 0)
  | 0x03 => some (159, 0)
  | 0x04 | 0x05 => some (239, 0)
  | 0x10 | 0x14 | 0x16 | 0x18 => some (255, 0)
  | 0x13 => some (63, 0)
  | 0x15 => some (181, 0)
  | 0x17 => some (235, 0)
  | 0x19 => some (0, 1)
  | 0x1A => some (154, 0)
  | _ => none

/-- Whether the format of an entry is bad (R451 step 2). A partition without courses refuses every command (R308). -/
def State.formatBad (s : State) (fn : Nat) (x : QEntry) (rsv : Nat × Nat) : Bool :=
  let empty := match s.part fn with
    | some p => p.courses.isEmpty
    | none => true
  empty || decide (x.hdr 95 62 ≠ 0 ∨ x.hdr 20 16 ≠ 0 ∨ x.hdr 11 8 ≠ 0) || decide (rsv.2 ≤ rsv.1 ∧ x.pay rsv.1 rsv.2 ≠ 0) ||
    decide (x.jobsl ≠ 31 ∧ 16 ≤ x.jobsl) || (x.jobsl != 31 && (s.job fn x.jobsl).isNone) ||
    (match x.opc with
     | 0x02 => decide (x.pay 319 256 % 16 ≠ 0 ∨ x.pay 255 192 % 16 ≠ 0 ∨ x.pay 191 128 % 16 ≠ 0)
     | 0x03 => decide (x.pay 319 256 % 16 ≠ 0 ∨ x.pay 255 192 % 16 ≠ 0)
     | 0x15 => decide (x.pay 255 192 % 16 ≠ 0 ∨ 1 < x.pay 190 188 ∨ 30 < x.pay 187 183)
     | _ => false)

/-- The check of an entry's context (R451 step 3). -/
def State.ctxCheck (s : State) (fn : Nat) (x : QEntry) : Option Status :=
  let c := s.ctx x.ctx
  if x.opc = 0x10 then none
  else if !s.ownCtx fn x.ctx then some ctxForeign
  else match (if x.opc = 0x12 ∨ ((x.opc = 0x11 ∨ x.opc = 0x1A) ∧ c.st = .faulted) then none else c.st.refusal) with
    | some st => some st
    | none =>
      match x.jslot, c.jobsl with
      | some j, some k => if j = k then none else some hqCmdInvalid
      | _, _ => none

/-- The status of the first check of R451 that an entry fails. -/
def State.fetchCheck (s : State) (fn : Nat) (x : QEntry) : Option Status :=
  match reservedPay x.opc with
  | none => some hqBadOpcode
  | some r =>
    if s.formatBad fn x r then some hqCmdInvalid
    else match s.ctxCheck fn x with
      | some st => some st
      | none =>
        match x.jslot.bind (s.job fn) with
        | some b => if stepSealed x.step b.step then some hqStepStale else none
        | none => none

/-- The context takes the job of the first entry that names it with a loaded slot (R332). -/
def State.takeJob (s : State) (x : QEntry) : State :=
  match x.jslot, (s.ctx x.ctx).jobsl with
  | some j, none =>
    if (s.ctx x.ctx).st = .free then s else (s.updCtx x.ctx (fun c => { c with jobsl := some j })).saveCtx x.ctx
  | _, _ => s

/-- An entry of 64 bytes, waiting, with its step: SFIRST raises the cursor of its job where opcode and format are good. -/
def State.readEntry (s : State) (fn n : Nat) (bs : List Byte) : QEntry × Map Nat :=
  let q := s.queue fn n
  let x0 : QEntry := { n := q.fetched, bits := BitVec.ofNat 512 (ofLe bs), jslot := none, step := 0, attempt := 0, st := .waiting, posted := false
                       placed := [], ended := 0, waited := false, signalled := false, aborted := false, remote := none }
  let good := match reservedPay x0.opc with
    | some r => !s.formatBad fn x0 r
    | none => false
  if good && x0.jobsl != 31 then
    let j := x0.jobsl
    let cur := q.cursor.getD j 0
    let step := if x0.sfirst then (cur + 1) % 2 ^ 32 else cur
    ({ x0 with jslot := some j, step := step }, q.cursor.put j step)
  else (x0, q.cursor)

/-- ENTRY_FETCH: the next entry of the ring is read and checked; one that fails a check completes at once and does not run.
A ring read that faults, or meets poison or a husk, stops the queue (R317). -/
def State.entryFetch (s : State) (fn n : Nat) : State :=
  let q := s.queue fn n
  if !s.hasQueue fn n ∨ !q.en ∨ q.err ∨ (s.fn fn).tearing ∨ !(s.fn fn).ready ∨ q.fetched % q.sqSize = q.sqtail then s
  else
    let a := q.sqbase.toNat + 64 * (q.fetched % q.sqSize)
    let bad := if q.loc then !s.inPart fn a 64 || !(s.husksIn a 64).isEmpty else s.hostPoisoned a 64
    if bad then s.queueError fn n hqRingFault
    else
      let (x, cur) := s.readEntry fn n (s.ringRead q.loc a 64)
      let e : EntryRef := { fn := fn, q := n, n := x.n }
      let t := s.updQueue fn n (fun q => { q with entries := q.entries ++ [x], fetched := q.fetched + 1, cursor := cur })
      match s.fetchCheck fn x with
      | some st => t.endNow e st
      | none => t.takeJob x

def execEntryFetch (fn q : Nat) (s : State) : Host.Outcome State Fault Refusal :=
  done (.entryFetch fn q) (s.entryFetch fn q)

/-! ## Finishing (R315, R316) -/

/-- ENTRY_FINISH: an entry that has been executed gives its signal and posts, or is retained. -/
def State.entryFinish (s : State) (e : EntryRef) : State :=
  match s.entry e with
  | none => s
  | some x =>
    let finish (s : State) : State :=
      ((((s.signal e x).updEntry e (fun y => { y with signalled := true })).conclude e)).settleQueue e.fn e.q
    if x.signalled then s
    else match x.st with
      | .done _ _ => finish s
      | .running =>
        if x.opc = 0x19 then finish (s.ocopyEnd e x)
        else if x.opc = 0x01 ∧ s.launchOver x then finish (s.ran e statusOk 0)
        else s
      | .waiting => s

def execEntryFinish (e : EntryRef) (s : State) : Host.Outcome State Fault Refusal :=
  done (.entryFinish e) (s.entryFinish e)

end Sys2Proof.Machine
end

