-- ==== Sys2Proof/Machine/HostRegs.lean ====
section
/-! DEFINITION. Mailbox channels and the secure claim (R319 to R322), and the spar operations (R298 to R302). Channels
0 to 23 of a function are its non-secure channels; 24 to 31 stand for the secure channels of the PF. -/

namespace Sys2Proof.Machine

/-- Whether a function's registers accept an access. -/
def State.answers (s : State) (fn : Nat) : Bool := (s.fn fn).ready && !(s.fn fn).tearing && !(s.fn fn).erasing

/-! ## Channels (R319, R320) -/

/-- A channel: secure channels belong to the page of R321 and are always open to the host. -/
def State.chan (s : State) (fn ch : Nat) : Mbx :=
  if ch < 24 then s.mbx fn ch else { s.secure.mbx.getD (ch - 24) Mbx.idle with opened := 1 }

def State.updChan (s : State) (fn ch : Nat) (f : Mbx → Mbx) : State :=
  if ch < 24 then s.updMbx fn ch f else { s with secure := { s.secure with mbx := s.secure.mbx.upd (ch - 24) Mbx.idle f } }

/-- SEND: outbound GO is set, unless running work owns the channel. -/
def State.chanSend (s : State) (fn ch : Nat) : State :=
  if (s.chan fn ch).opened = 2 then s else s.updChan fn ch (fun m => { m with outGo := true })

/-- Inbound GO is cleared: the channel is handed back to the MC. -/
def State.chanClear (s : State) (fn ch : Nat) : State := s.updChan fn ch (fun m => { m with inGo := false })

/-- A write of CHCFG: IEN is stored; OPEN only while both GO bits are 0, and not the reserved value (DESIGN CHOICE). Threads
parked in MRECV leave a channel that running work loses. -/
def State.chanOpen (s : State) (fn ch : Nat) (v : Word) : State :=
  let m := s.chan fn ch
  let o := v.extractLsb' 0 2
  let s := s.updChan fn ch (fun m => { m with ien := v.getLsbD 2 })
  if ch ≥ 24 ∨ m.outGo ∨ m.inGo ∨ o = 3 then s
  else
    let leave := if o = 2 then [] else m.parked
    let s := s.updChan fn ch (fun m => { m with opened := o, parked := if o = 2 then m.parked else [] })
    leave.foldl (fun s q => (s.mbxReply q mbnChannelInvalid).mbxWake q) s

/-- MC_ACCEPT: the MC copies the words and clears outbound GO; a parked sender may go on. -/
def execMcAccept (fn ch : Nat) (s : State) : Host.Outcome State Fault Refusal :=
  done (.mcAccept fn ch)
    (let m := s.chan fn ch
     if !m.outGo ∨ m.opened = 0 then s
     else
       let s := s.updChan fn ch (fun m => { m with outGo := false })
       let s := if m.ien then s.fireVec fn 0 else s
       if ch < 24 then s.mbxServe fn ch else s)

/-- MC_ANSWER: the MC writes 16 inbound words and sets GO, never over a message that waits. -/
def execMcAnswer (fn ch : Nat) (words : List Word) (s : State) : Host.Outcome State Fault Refusal :=
  done (.mcAnswer fn ch words)
    (let m := s.chan fn ch
     if m.inGo ∨ m.opened = 0 then s
     else
       let s := s.updChan fn ch (fun m => { m with inw := (List.range 16).map (fun k => (k, words.getD k 0)), inGo := true })
       let s := if m.ien then s.fireVec fn 0 else s
       if ch < 24 then s.mbxServe fn ch else s)

/-! ## The secure page (R321) -/

/-- Whether a request reaches the secure block. -/
def Secure.admits (x : Secure) (rid : BitVec 16) (ide : Bool) : Bool := x.claimed && x.rid == rid && (!x.ide || ide)

/-- A refused access to the secure block is counted after the claim. -/
def State.secureDeny (s : State) : State := { s with secure := { s.secure with deny := sat 16 (s.secure.deny + 1) } }

/-- A write of MBS_CLAIM: the first that sets CLAIMED claims the page. -/
def State.claim (s : State) (rid : BitVec 16) (ide : Bool) (v : DWord) : State :=
  if s.secure.claimed then (if s.secure.admits rid ide then s else s.secureDeny)
  else { s with secure := { s.secure with rid := v.extractLsb' 0 16, ide := v.getLsbD 17, claimed := v.getLsbD 16 } }

/-! ## Spar operations (R298 to R302) -/

/-- The fields of SPR_CMD that a write stores. -/
def State.sprFields (s : State) (fn : Nat) (v : DWord) : State :=
  s.updFn fn (fun g => { g with spr := { g.spr with
    die := v.extractLsb' 42 5, ctx := v.extractLsb' 22 20, lid := v.extractLsb' 6 16, step := v.getLsbD 5, kind := v.extractLsb' 3 2 } })

def State.updSpr (s : State) (fn : Nat) (f : SprRegs → SprRegs) : State := s.updFn fn (fun g => { g with spr := f g.spr })

/-- An operation ends with a status. -/
def State.sprDone (s : State) (fn : Nat) (st : Status) : State := s.updSpr fn (fun r => { r with status := st })

/-- Whether a context counts as defined for the operations. -/
def State.sprCtx (s : State) (fn n : Nat) : Bool :=
  s.ownCtx fn n && (decide ((s.ctx n).st = .defined) || decide ((s.ctx n).st = .faulted))

/-- The spar that a handle names, or the failure. Reserved bits of a handle must be 0: it names no spar's generation else
(DESIGN CHOICE). -/
def State.sprHandle (s : State) (fn : Nat) (h : DWord) : Except Status Nat :=
  let p := h.toNat % 65536
  let x := s.spar p
  if field h.toNat 43 38 ≠ fn then .error sprForeign
  else if h.toNat / 2 ^ 44 ≠ 0 ∨ field h.toNat 23 16 ≠ 0 ∨ field h.toNat 37 24 ≠ x.gen ∨ !x.used then .error sprStaleGen
  else if x.part ≠ fn then .error sprForeign
  else .ok p

/-- Write a map entry (R284). -/
def State.putMap (s : State) (p ctx lid : Nat) (own : Bool) : State :=
  let w := 2 ^ 31 + (if own then 2 ^ 30 else 0) + (s.spar p).gen * 2 ^ 16 + p
  (s.writeNat ((s.ctx ctx).mapAddr + 4 * lid) 4 w).updSpar p (fun x => { x with maps := x.maps ++ [(ctx, lid)] })

/-- Whether a map entry may be written. -/
def State.mapFree (s : State) (ctx lid : Nat) : Bool := decide (lid < (s.ctx ctx).mapLen) && !bitOf (s.mapWord ctx lid) 31

/-- Why a CREATE's kind and values are refused. -/
def kindBad (kind : Nat) (arg0 arg1 : DWord) : Bool :=
  match kind with
  | 0 => false
  | 1 => arg1 == 0 || decide (arg1.toNat < arg0.toNat)
  | 2 => arg1 == 0 || decide (65535 < arg1.toNat)
  | _ => true

/-- CREATE: the free spar with the lowest number on the die is taken (DESIGN CHOICE). -/
def State.sprCreate (s : State) (fn : Nat) : State :=
  let r := (s.fn fn).spr
  let ctx := r.ctx.toNat
  let lid := r.lid.toNat
  let die := r.die.toNat
  let pool := if die = 16 then List.range 65536 else (List.range 4096).map (· + 4096 * die)
  if 16 < die then s.sprDone fn hqCmdInvalid
  else if !s.sprCtx fn ctx then s.sprDone fn sprForeign
  else if kindBad r.kind.toNat r.arg0 r.arg1 then s.sprDone fn sprKind
  else if !s.mapFree ctx lid then s.sprDone fn sprIdInvalid
  else match s.part fn, pool.find? (fun p => !(s.spar p).used) with
    | some q, some p =>
      if q.sparq ≤ s.sparsUsed fn then s.sprDone fn sprNoSpace
      else
        let s := s.updSpar p (fun x => { Spar.idle with
          used := true, kind := r.kind.toNat, value := r.arg0, param := r.arg1, init := r.arg0, gen := x.gen, owner := ctx, part := fn
          step := r.step, dep := if r.kind = 2 then r.arg1.toNat else 0, ops := x.ops })
        let h := BitVec.ofNat 64 (handleOf fn (s.spar p).gen p)
        ((s.putMap p ctx lid true).updSpr fn (fun r => { r with handle := h })).sprDone fn statusOk
    | _, _ => s.sprDone fn sprNoSpace

def State.sprMap (s : State) (fn : Nat) : State :=
  let r := (s.fn fn).spr
  let ctx := r.ctx.toNat
  if field r.handle.toNat 43 38 ≠ fn ∨ !s.sprCtx fn ctx then s.sprDone fn sprForeign
  else match s.sprHandle fn r.handle with
    | .error st => s.sprDone fn st
    | .ok p =>
      if !s.mapFree ctx r.lid.toNat then s.sprDone fn sprIdInvalid
      else (s.putMap p ctx r.lid.toNat false).sprDone fn statusOk

/-- UNMAP: the context's waits and tokens on the spar are withdrawn, and an owner's entry abandons it. -/
def State.sprUnmap (s : State) (fn : Nat) : State :=
  let r := (s.fn fn).spr
  let ctx := r.ctx.toNat
  let lid := r.lid.toNat
  let w := s.mapWord ctx lid
  let p := w % 65536
  if !s.sprCtx fn ctx then s.sprDone fn sprForeign
  else if (s.ctx ctx).mapLen ≤ lid ∨ !bitOf w 31 then s.sprDone fn sprIdInvalid
  else
    let live := (s.spar p).maps.contains (ctx, lid)
    let s := if live then s.withdraw p ctx else s
    let s := if live ∧ bitOf w 30 then s.abandon p else s
    (s.clearMap p ctx lid).sprDone fn statusOk

def State.sprDestroy (s : State) (fn : Nat) : State :=
  match s.sprHandle fn (s.fn fn).spr.handle with
  | .error st => s.sprDone fn st
  | .ok p => (s.abandon p).sprDone fn statusOk

/-- SPR_STATE of a spar (R302). -/
def Spar.state (x : Spar) : DWord :=
  BitVec.ofNat 64 ((if x.kind = 2 then x.arr * 2 ^ 48 + x.dep * 2 ^ 32 else 0) + sat 16 x.waiters.length * 2 ^ 16 +
    (if x.step then 64 else 0) + (if x.aband then 32 else 0) + x.kind * 8)

/-- READ: the value, the state, and BOUND or P; a plain spar has neither, and leaves SPR_ARG1 alone (DESIGN CHOICE). -/
def State.sprRead (s : State) (fn : Nat) : State :=
  match s.sprHandle fn (s.fn fn).spr.handle with
  | .error st => s.sprDone fn st
  | .ok p =>
    let x := s.spar p
    s.updSpr fn (fun r => { r with arg0 := x.value, arg1 := if x.kind = 0 then r.arg1 else x.param, state := x.state, status := statusOk })

def State.sprSet (s : State) (fn : Nat) : State :=
  let r := (s.fn fn).spr
  match s.sprHandle fn r.handle with
  | .error st => s.sprDone fn st
  | .ok p =>
    let x := s.spar p
    if x.aband then s.sprDone fn sprAbandoned
    else if x.kind = 1 ∧ x.param.toNat < r.arg0.toNat then s.sprDone fn sprOverflow
    else if x.kind = 2 then
      (if x.waiters.isEmpty ∧ x.tokens.isEmpty then
        (s.updSpar p (fun x => { x with value := r.arg0, init := r.arg0, arr := 0, dep := x.count })).sprDone fn statusOk
      else s.sprDone fn sprBusy)
    else (s.setSpar p r.arg0).sprDone fn statusOk

/-- A write of SPR_CMD: the fields are stored, then OP acts. -/
def State.sprCmd (s : State) (fn : Nat) (v : DWord) : State :=
  let s := s.sprFields fn v
  match v.toNat % 8 with
  | 1 => s.sprCreate fn
  | 2 => s.sprMap fn
  | 3 => s.sprUnmap fn
  | 4 => s.sprDestroy fn
  | 5 => s.sprRead fn
  | 6 => s.sprSet fn
  | _ => s

end Sys2Proof.Machine
end

