-- ==== Sys2Proof/Machine/JobRegs.lean ====
section
/-! DEFINITION. The registers that load, unload and steer jobs (R190, R193 to R195, R213, R220, R221, R243, R247, R248),
the checkpoint registers (R385, R389 to R391), and the releases of R171 and R185. -/

namespace Sys2Proof.Machine

/-! ## The job descriptor and its tables (R190, R193, R194, R216, R220) -/

/-- What a load reads and builds: the job, or the code of its first failing check. -/
abbrev Loaded (α : Type) := Except Status α

/-- A membership entry as memory holds it, and whether it keeps the rules of R216. -/
def memberOf (v : Nat) : Member :=
  { first := field v 39 0, nchunk := field v 79 40, devid := BitVec.ofNat 16 (field v 95 80), group := field v 111 96
    ridx := field v 127 112, spare := bitOf v 128, expelled := bitOf v 129 }

def memberOk (v : Nat) : Bool :=
  let m := memberOf v
  decide (field v 255 130 = 0) && (if m.spare then m.first == 0 && m.nchunk == 0 else m.nchunk != 0)

def State.memberWords (s : State) (a n : Nat) : List Nat := (List.range n).map (fun i => s.readNat (a + 32 * i) 32)

/-- The places of a group: its active members, and the expelled ones whose place nobody has taken. -/
def places (ms : List Member) (g : Nat) : List Member :=
  ms.filter (fun m => m.group == g && !m.spare &&
    (!m.expelled || !(ms.any (fun x => x.group == g && !x.spare && !x.expelled && x.ridx == m.ridx))))

/-- In replica-index order from 0 the places of every group tile one range (R216). -/
def tiles (ms : List Member) : Bool :=
  (ms.map (·.group)).eraseDups.all (fun g =>
    let ps := places ms g
    let at? (r : Nat) : Option Member := ps.find? (fun m => m.ridx == r)
    (List.range ps.length).all (fun r => match at? r, at? (r + 1) with
      | none, _ => false
      | some m, some n => n.first == m.first + m.nchunk
      | some _, none => r + 1 == ps.length))

/-- The role table, or none where it breaks R190. -/
def State.roleTable (s : State) (fn a n : Nat) : Option (List Role) :=
  let ws := (List.range n).map (fun i => s.readNat (a + 16 * i) 16)
  let rs := ws.map (fun w => ({ first := field w 63 24, nchunk := field w 103 64, frozen := decide (field w 1 0 = 1) } : Role))
  let entry (w : Nat) : Bool := decide (field w 127 104 = 0) && decide (field w 23 2 = 0) && decide (field w 1 0 ≤ 1) && decide (field w 103 64 ≠ 0)
  if n = 0 then some []
  else if a % 16 = 0 ∧ n ≤ 65536 ∧ s.inPart fn a (16 * n) ∧ s.husksIn a (16 * n) = [] ∧ ws.all entry ∧
      (rs.zip (rs.drop 1)).all (fun x => decide (x.1.first + x.1.nchunk ≤ x.2.first)) then some rs
  else none

/-- The fields of the update header, with the number of table entries. -/
def hdrOf (v : Nat) : UpdHdr × Nat :=
  ({ seed := BitVec.ofNat 64 (field v 511 448), table := field v 447 384, sched := field v 351 288, schlen := field v 287 256
     schbase := field v 255 224, ntbase := field v 223 160, ntdepth := field v 159 144, ntlayers := field v 143 128
     dgbase := field v 127 64, dgdepth := field v 63 48 }, field v 383 352)

/-- Whether the header keeps the rules of R193. -/
def State.hdrOk (s : State) (fn v : Nat) : Bool :=
  let (h, n) := hdrOf v
  let within (a al len : Nat) : Bool := a % al == 0 && s.inPart fn a (max 1 len)
  decide (field v 47 0 = 0) && decide (1 ≤ n ∧ n ≤ 65536) && h.ntdepth != 0 && decide (1 ≤ h.ntlayers ∧ h.ntlayers ≤ 4096) && h.dgdepth != 0 &&
    within h.table 128 (128 * n) && within h.sched 8 (8 * h.schlen) && within h.ntbase 32 (1024 * h.ntdepth * h.ntlayers) &&
    within h.dgbase 32 (32 * h.dgdepth)

/-- The fields of an update entry (R194). -/
def updEntryOf (v : Nat) : UpdEntry :=
  { first := field v 39 0, nchunk := field v 79 40, rule := field v 82 80, nest := bitOf v 83, bc := bitOf v 84, emb := bitOf v 85
    stbf16 := bitOf v 86, cord := bitOf v 87, csign := bitOf v 88, cden := field v 90 89, ns := field v 93 91
    rowlog := field v 99 96, layer := field v 111 100, tid := BitVec.ofNat 32 (field v 159 128), start := field v 191 160
    eta := BitVec.ofNat 32 (field v 223 192), lambda := BitVec.ofNat 32 (field v 255 224), beta1 := BitVec.ofNat 32 (field v 287 256)
    beta2 := BitVec.ofNat 32 (field v 319 288), eps := BitVec.ofNat 32 (field v 351 320), view := field v 447 384
    ctlen := field v 479 448, aux := field v 575 512 }

/-- Bytes of buffer k of an entry: 0 W, 1 to 4 S0 to S3, 5 RSTEP; 0 where the rule does not use it. -/
def UpdEntry.extent (e : UpdEntry) (p : PreBlock) (k : Nat) : Nat :=
  match k with
  | 0 => 2048 * e.nchunk
  | 5 => if e.emb then 4 * e.nchunk * e.rows else 0
  | _ =>
    if e.rule = 3 ∧ k = 2 then 8 * p.blocks * p.br * p.br
    else if e.rule = 3 ∧ k = 3 then 8 * p.blocks * p.bc * p.bc
    else if k - 1 < e.states then 1024 * e.width * e.nchunk else 0

/-- Whether an entry's view block, buffers and tables keep R194 and R195. -/
def State.viewOk (s : State) (fn : Nat) (e : UpdEntry) : Bool :=
  let p := s.preBlock e.aux
  let buffer (x : Nat × Nat) : Bool :=
    let a := s.bufAddr e x.1 x.2
    if e.extent p x.2 = 0 then a == 0 else s.inPart fn a (e.extent p x.2)
  e.view % 128 == 0 && s.inPart fn e.view 128 && decide (s.readNat e.view 8 ≤ 1) && decide (s.readNat (e.view + 0x68) 24 = 0) &&
    ((List.range 6).flatMap (fun k => [(0, k), (1, k)])).all buffer

/-- Whether the PRE block or coefficient table of an entry keeps R194 and R201. -/
def State.auxOk (s : State) (fn : Nat) (e : UpdEntry) : Bool :=
  match e.rule with
  | 3 =>
    let p := s.preBlock e.aux
    s.inPart fn e.aux 64 && p.ok && decide (p.rows * p.cols ≤ 1024 * e.nchunk) &&
      s.inPart fn p.stage (4 * p.rows * p.cols + 8 * p.blocks) && e.ctlen == 0
  | 4 => e.ctlen != 0 && s.inPart fn e.aux (128 * e.ctlen)
  | _ => e.aux == 0 && e.ctlen == 0

/-- Whether the fields of an entry lie in their ranges (R194). -/
def updFieldsOk (v layers : Nat) : Bool :=
  let e := updEntryOf v
  decide (field v 1023 576 = 0) && decide (field v 511 480 = 0) && decide (field v 383 352 = 0) && decide (field v 127 112 = 0) &&
    decide (field v 95 94 = 0) && e.nchunk != 0 && decide (e.rule ≤ 4) && decide (e.layer < layers) &&
    (if e.emb then decide (4 ≤ e.rowlog ∧ e.rowlog ≤ 10) && decide (e.rule < 3) else e.rowlog == 0) &&
    (if e.rule = 4 then decide (e.ns ≤ 4) else e.ns == 0) && !(e.rule == 3 && e.stbf16)

/-- The update header and table, or none where they break R193 or R194. -/
def State.updTables (s : State) (fn updh : Nat) (ms : List Member) (roles : List Role) : Option (UpdHdr × List UpdEntry) :=
  let hv := s.readNat updh 64
  let (h, n) := hdrOf hv
  if updh % 64 ≠ 0 ∨ !s.inPart fn updh 64 ∨ s.husksIn updh 64 ≠ [] ∨ !s.hdrOk fn hv then none
  else
    let ws := (List.range n).map (fun i => s.readNat (h.table + 128 * i) 128)
    let es := ws.map updEntryOf
    let meets (e : UpdEntry) (f k : Nat) : Bool := decide (e.first < f + k ∧ f < e.first + e.nchunk)
    let owners (e : UpdEntry) (g : Nat) : Nat := ((places ms g).filter (fun m => meets e m.first m.nchunk)).length
    let ok := s.husksIn h.table (128 * n) == [] && ws.all (fun w => updFieldsOk w h.ntlayers) &&
      (es.zip (es.drop 1)).all (fun x => decide (x.1.first + x.1.nchunk ≤ x.2.first)) &&
      es.all (fun e => !(roles.any (fun r => r.frozen && meets e r.first r.nchunk))) &&
      es.all (fun e => s.auxOk fn e && s.viewOk fn e) &&
      es.all (fun e => e.rule != 3 || (ms.map (·.group)).all (fun g => decide (owners e g ≤ 1)))
    if ok then some (h, es) else none

/-! ## Loading (R221) -/

/-- A job as its descriptor gives it, before its tables: bits 831:0 of the descriptor. -/
def descJob (v : Nat) (desc : Nat) (ms : List Member) (hdr : UpdHdr) : Job :=
  let nz (x d : Nat) : Nat := if x = 0 then d else x
  { job := field v 55 40, desc := desc, gen := field v 39 32, step := field v 31 0, tau := nz (field v 63 56) 4, k := field v 79 64
    rtmo := nz (field v 95 80) 30000, nring := field v 101 96 + 1, vretry := field v 105 102, spec := bitOf v 106, order := bitOf v 107
    portmask := BitVec.ofNat 64 (field v 191 128), memb := field v 255 192, members := ms, myidx := field v 287 272
    buddy := field v 303 288, readyLid := field v 319 304, spctx := field v 339 320, bsspar := field v 355 340
    slotbase := field v 379 368, slotcnt := field v 367 356, grad0 := field v 447 384, grad1 := field v 511 448
    tmask := field v 575 512, roles := [], ckint := field v 703 672, hdr := hdr, upd := []
    bsq := field v 831 768, readySp0 := none, readySp1 := none, bsSp := none, preSp := [], st := .running, voids := 0, rcvd := []
    rcvdNext := [], ridgeSent := false, digests := [], digest := 0, devDigest := 0, hashed := 0, digSeal := 0, digSealStep := 0
    splitBefore := false, cause := 0, origin := 0, causeStep := 0, tallyf := 0, stale := 0, lifts := 0, escapes := 0, ownDone := []
    paramHeld := [], sent := [], staged := [], preDone := [], verify := false, pendingVoid := none
    rewinding := false, hold := [], holdGen := [], staleLogged := false, nakSeen := [], agentLogged := [], seenMsgs := []
    timerRunning := false, streams := [], bsStarted := 0, bsSeen := (field v 31 0, []), awaits := [], ckdesc := none, ckruns := []
    ckLastStep := 0, ckLastSlot := 0, ckBuddyOk := false, attempts := 1, energy := 0 }

/-- Stream slots of a descriptor that lie in the partition's range and overlap no other job's (R219). -/
def State.slotsFree (s : State) (p : Part) (base cnt : Nat) : Bool :=
  decide (p.slotBase ≤ base ∧ base + cnt ≤ p.slotBase + p.slotCnt) &&
    s.fns.all (fun f => f.2.jobs.all (fun j => decide (base + cnt ≤ j.2.slotbase ∨ j.2.slotbase + j.2.slotcnt ≤ base)))

/-- Whether a descriptor and its membership table keep what GUT_JOB_INVALID stands for. Misaligned addresses, and
buffers that do not lie wholly in the partition's memory, count as out of place (DEDUCED); fewer stream slots than rings
are a value outside SLOTCNT's range. -/
def State.descOk (s : State) (fn : Nat) (p : Part) (v : Nat) : Bool :=
  let n := field v 271 256 + 1
  let memb := field v 255 192
  let within (a al len : Nat) : Bool := a % al == 0 && s.inPart fn a (max 1 len)
  let pm := setBits 64 (field v 191 128)
  let shape := decide (field v 1023 832 = 0) && decide (field v 383 380 = 0) && decide (field v 127 108 = 0) &&
    decide (field v 55 40 ≠ 0xFFFF) && (field v 671 640 != 0 || field v 639 576 == 0) && within memb 32 (32 * n) &&
    s.husksIn memb (32 * n) == []
  if !shape then false
  else
    let ws := s.memberWords memb n
    let ms := ws.map memberOf
    let b := descJob v 0 ms (hdrOf 0).1
    let cnt := b.groupCount b.me.group
    ws.all memberOk && decide (b.myidx < n) && b.me.devid == s.fab.devid && tiles ms && pm.all (bitOf p.ports.toNat) &&
      decide (b.nring ≤ pm.length ∧ b.nring ≤ b.slotcnt) && within b.bsq 64 16384 && within b.grad0 4096 (4096 * cnt) && within b.grad1 4096 (4096 * cnt) &&
      within b.tmask 16 (16 * cnt)

/-- The checks of a load, in their order: the job that the descriptor stands for, or the first code that applies. -/
def State.jobCheck (s : State) (fn j a : Nat) : Loaded Job :=
  match s.part fn with
  | none => .error gutJobInvalid
  | some p =>
    let v := s.readNat a 128
    if (s.job fn j).isSome then .error gutJobBusy
    else if !s.inPart fn a 128 ∨ s.husksIn a 128 ≠ [] then .error gutJobInvalid
    else if (s.jobById (field v 55 40)).isSome then .error gutJobBusy
    else if !s.slotsFree p (field v 379 368) (field v 367 356) then .error gutStreamRange
    else if !s.descOk fn p v then .error gutJobInvalid
    else
      let ms := (s.memberWords (field v 255 192) (field v 271 256 + 1)).map memberOf
      match s.roleTable fn (field v 639 576) (field v 671 640) with
      | none => .error updRoleTableInvalid
      | some roles => match s.updTables fn (field v 767 704) ms roles with
        | none => .error updTableInvalid
        | some (h, es) => .ok { descJob v a ms h with roles := roles, upd := es }

/-- Translate the spars that a job's agents use (R296). -/
def State.agents (s : State) (fn : Nat) (b : Job) : Job :=
  let pre := ((List.range b.upd.length).zip b.upd).filterMap (fun (x : Nat × UpdEntry) =>
    if x.2.rule = 3 then
      let p := s.preBlock x.2.aux
      some (x.1, (s.agentSpar fn p.pctx p.spstg, s.agentSpar fn p.pctx p.sprdy))
    else none)
  { b with
    readySp0 := s.agentSpar fn b.spctx b.readyLid, readySp1 := s.agentSpar fn b.spctx ((b.readyLid + 1) % 65536)
    bsSp := s.agentSpar fn b.spctx b.bsspar, preSp := pre }

/-- OP 1: the job enters its slot; every queue's cursor stands before its step, and its first attempt opens. Block streams
start after the count that their spar then holds (DESIGN CHOICE). -/
def State.jobLoad (s : State) (fn j : Nat) : Status × State :=
  match s.jobCheck fn j (s.fn fn).jdaddr.toNat with
  | .error st => (st, s)
  | .ok b =>
    let b := s.agents fn b
    let b := { b with bsStarted := s.agentValue b.bsSp }
    let n := match s.part fn with
      | some p => p.qcount
      | none => 0
    let s := s.updFn fn (fun g => { g with
      jobs := g.jobs.put j b
      queues := (List.range n).foldl (fun qs q => qs.upd q Queue.idle (fun x => { x with cursor := x.cursor.put j ((b.step + 2 ^ 32 - 1) % 2 ^ 32) })) g.queues })
    (statusOk, (s.clearPre b).digestRecord b 0)

/-! ## Unloading (R248, R316) -/

/-- Complete the row copies that a job has left (R208). -/
def State.finishRows (s : State) (fn j : Nat) (b : Job) : State :=
  (List.range 32).foldl (fun s q =>
    let mine := (s.engine q).rows.filter (fun r => r.1 == fn && r.2.1 == j)
    let s := mine.foldl (fun s r => match b.upd[r.2.2.1]? with
      | some e => s.copyRow e r.2.2.2
      | none => s) s
    if mine.isEmpty then s
    else s.updEngine q (fun g => { g with rows := g.rows.filter (fun r => !(r.1 == fn && r.2.1 == j)) })) s

/-- Whether an unload, or a shut-down, still has an attempt to void: this member has sent neither its ridge nor a void. -/
def Job.open (b : Job) : Bool :=
  !b.ridgeSent && !b.rewinding && b.me.active && b.st != .held && b.st != .expelled

/-- What a void discards of an attempt beside the queue and the job's own state (R31). -/
def State.discard (s : State) (fn j : Nat) (b : Job) : State :=
  let s := (s.markNorms fn j b 2).digestRecord b 2
  ((s.dropHoard fn b.job).closeSeqs fn).dropVerdicts fn j b.step

/-- A job leaves its slot: its entries complete with a status, its contexts lose it, and its streams end. -/
def State.dropJob (s : State) (fn j : Nat) (b : Job) (st : Status) : State :=
  let s := (s.finishRows fn j b).dropEngineWork fn j
  let s := (s.endJobEntries fn j st).dueRetires fn j
  let s := ((s.tab.ctxs.filter (fun c => c.2.fn == fn && decide (c.2.jobsl = some j))).map (·.1)).foldl
    (fun s c => (s.updCtx c (fun c => { c with jobsl := none })).saveCtx c) s
  let s := { s with fab := { s.fab with remotes := s.fab.remotes.filter (fun (e : Remote) => !decide (e.why = RemoteWhy.buddy fn j)) } }
  s.updFn fn (fun g => { g with jobs := g.jobs.del j })

/-- OP 2: an attempt without a ridge or void is voided with a message, then the job is unloaded. -/
def State.jobUnload (s : State) (fn j : Nat) : Status × State :=
  match s.job fn j with
  | none => (gutJobInvalid, s)
  | some b =>
    let s := if b.open then (s.spread fn j b { b.hdr0 7 with cause := gutJobUnloaded.toNat } []).discard fn j b else s
    (statusOk, s.dropJob fn j b gutJobUnloaded)

/-- OP 3: the attempt voids here; a message goes only where no ridge has (R241, R243). -/
def State.jobForceVoid (s : State) (fn j : Nat) : Status × State :=
  match s.job fn j with
  | none => (gutJobInvalid, s)
  | some b =>
    if b.st = .held ∨ b.st = .expelled ∨ b.rewinding ∨ b.me.spare then (statusOk, s)
    else (statusOk, (s.record (b.report fn j gutForceVoid [])).voidJob fn j gutForceVoid b.myidx (!b.ridgeSent) false)

/-! ## Membership reload (R247) -/

/-- Give each expelled member without a successor its spare, in turn. -/
def State.placeSpares (s : State) (fn j : Nat) : List Nat → Option State
  | [] => some s
  | e :: es => match s.job fn j with
    | none => none
    | some b => match b.spareFor e with
      | none => none
      | some sp => State.placeSpares ((s.replace fn j e sp).updJob fn j (fun b => { b with
          awaits := b.awaits.map (fun (a : Nat × Option Nat) => if a.1 = e then (e, some sp) else a) })) fn j es

/-- OP 4: a job held for want of a spare adopts a larger table that keeps every old entry. -/
def State.jobReload (s : State) (fn j : Nat) : Status × State :=
  match s.job fn j with
  | none => (gutJobInvalid, s)
  | some b =>
    let a := (s.fn fn).jdaddr.toNat
    let v := s.readNat a 128
    let n := field v 271 256 + 1
    let memb := field v 255 192
    let open' := b.awaits.filter (fun x => x.2.isNone)
    if b.st ≠ .held ∨ open' = [] ∨ !s.inPart fn a 128 ∨ memb % 32 ≠ 0 ∨ !s.inPart fn memb (32 * n) then (gutJobInvalid, s)
    else
      let ws := s.memberWords memb n
      let ms := ws.map memberOf
      if !ws.all memberOk ∨ !tiles ms ∨ n ≤ b.members.length ∨ ms.take b.members.length ≠ b.members then (gutJobInvalid, s)
      else match (s.updJob fn j (fun b => { b with members := ms, memb := memb })).placeSpares fn j (open'.map (·.1)) with
        | none => (gutJobInvalid, s)
        | some t => (statusOk, t.updJob fn j (fun b => { b with st := .awaitSpare }))

/-! ## GUT_JDCTL (R248) -/

/-- A write of GUT_JDCTL: JSLOT is stored, and OP acts. -/
def State.gutJdctl (s : State) (fn : Nat) (v : DWord) : State :=
  let j := field v.toNat 7 4
  let s := s.updFn fn (fun g => { g with jdSlot := BitVec.ofNat 4 j })
  let (st, t) := match v.toNat % 8 with
    | 1 => s.jobLoad fn j
    | 2 => s.jobUnload fn j
    | 3 => s.jobForceVoid fn j
    | 4 => s.jobReload fn j
    | _ => ((s.fn fn).jdStatus, s)
  t.updFn fn (fun g => { g with jdStatus := st })

/-! ## UPD_STEPCTL (R213, R214, R244) -/

/-- Discard a queue's entries of step s of a job; the entries after them are numbered again from it (R213, R316). -/
def Queue.skip (q : Queue) (j step : Nat) : Queue :=
  let gone (x : QEntry) : Bool := decide (x.jslot = some j) && !x.posted && x.step == step
  let start := (step + 2 ^ 32 - 1) % 2 ^ 32
  let (es, cur) := q.entries.foldl (fun (acc : List QEntry × Nat) x =>
    if gone x then (acc.1 ++ [{ x with posted := true, signalled := true, st := .done 0 0 }], acc.2)
    else if x.jslot = some j ∧ !x.posted then
      let c := if x.sfirst then (acc.2 + 1) % 2 ^ 32 else acc.2
      (acc.1 ++ [{ x with step := c }], c)
    else (acc.1 ++ [x], acc.2)) (([] : List QEntry), start)
  ({ q with entries := es, cursor := q.cursor.put j cur } : Queue).trim

/-- A held job's release: its count of voids restarts, and it replays or takes the step's next entries. A job held for
want of a spare leaves only through R247. -/
def State.releaseHold (s : State) (fn j : Nat) (b : Job) (skip : Bool) : State :=
  let s := if skip then
      let t := s.updFn fn (fun g => { g with queues := g.queues.map (fun q => (q.1, q.2.skip j b.step)) })
      t.journalStep b 2 (match b.upd with
        | e :: _ => s.sel e
        | [] => 0)
    else s
  s.updJob fn j (fun b => { b with voids := 0, st := if b.awaits.isEmpty then .running else .awaitSpare })

/-- A write of UPD_STEPCTL: JOB and STEP are stored, and ACTION 1 or 2 releases the held job that they name. -/
def State.stepCtl (s : State) (fn : Nat) (v : DWord) : State :=
  let job := field v.toNat 63 48
  let step := field v.toNat 47 16
  let act := v.toNat % 4
  let s := s.updFn fn (fun g => { g with updJob := BitVec.ofNat 16 job, updStep := BitVec.ofNat 32 step })
  if act = 0 ∨ act = 3 then s
  else match (s.fn fn).jobs.find? (fun x => x.2.job == job && x.2.step == step && x.2.st == .held &&
      x.2.awaits.all (fun a => a.2.isSome)) with
    | some (j, b) => s.releaseHold fn j b (act == 2)
    | none => s

/-! ## Checkpoint registers (R385, R389 to R391) -/

/-- OP 1: register the checkpoint descriptor at UPD_CKADDR. -/
def State.ckRegister (s : State) (fn j : Nat) : Status × State :=
  match s.job fn j with
  | none => (updCkptInvalid, s)
  | some b =>
    let a := (s.fn fn).ckaddr.toNat
    let v := s.readNat a 64
    let d : CkDesc := { localA := field v 511 448, slotsz := field v 447 384, peer := field v 383 320, jrnl := field v 319 256, jdepth := field v 255 240 }
    let sels := b.upd.map s.sel
    let ok := a % 64 == 0 && s.inPart fn a 64 && (s.husksIn a 64).isEmpty && decide (field v 239 0 = 0) && d.localA % 4096 == 0 &&
      d.slotsz % 4096 == 0 && isDdr d.localA && s.inPart fn d.localA (max 1 (2 * d.slotsz)) && s.inPart fn d.peer (8 * b.members.length) &&
      d.jrnl % 32 == 0 && d.jdepth != 0 && s.inPart fn d.jrnl (32 * d.jdepth) && sels.all (fun x => x == sels.headD 0)
    if ok then (statusOk, s.updJob fn j (fun b => { b with ckdesc := some d })) else (updCkptInvalid, s)

/-- The newest entry of a step journal with OUTCOME 0 or 1: its step, outcome and SELP. Steps are compared as numbers, and
an entry counts only where its step belongs to its place (DESIGN CHOICE). -/
def State.newestStep (s : State) (d : CkDesc) : Option (Nat × Nat × Nat) :=
  (List.range d.jdepth).foldl (fun (best : Option (Nat × Nat × Nat)) i =>
    let v := s.readNat (d.jrnl + 32 * i) 32
    let e := (field v 31 0, field v 41 40, field v 42 42)
    if e.1 % d.jdepth ≠ i ∨ 1 < e.2.1 then best
    else match best with
      | none => some e
      | some x => if x.1 < e.1 then some e else best) none

/-- OP 2, RESUME: finish the commit that the newest journal entry records. -/
def State.ckResume (s : State) (fn j : Nat) : Status × State :=
  match s.job fn j with
  | none => (updCkptInvalid, s)
  | some b => match b.ckdesc with
    | none => (updCkptInvalid, s)
    | some d => match s.newestStep d with
      | none => (updCkptInvalid, s)
      | some (step, outcome, selp) =>
        if step ≠ (b.step + 2 ^ 32 - 1) % 2 ^ 32 then (updCkptInvalid, s)
        else
          let s := ((b.upd.map (·.view)).eraseDups).foldl (fun s a => s.writeNat a 8 selp) s
          let s := (b.upd.filter (·.emb)).foldl (fun s e => (List.range (e.nchunk * e.rows)).foldl (fun s r => s.copyRow e r) s) s
          let s := s.clearPre b
          let a := d.jrnl + 32 * (step % d.jdepth) + 5
          (statusOk, if outcome = 0 then s.writeNat a 1 (s.readNat a 1 + 1) else s)

/-- Check a checkpoint slot and stream its body into the sealed set, its journal over JRNL (R390). The header's checks come
before the step (DESIGN CHOICE). -/
def State.restoreFrom (s : State) (b : Job) (d : CkDesc) (slot : List (Byte × Bool)) : Status × State :=
  let raw := slot.map (·.1)
  let len := leAt raw 32 8
  let body := (slot.drop 4096).take len
  let good := leAt raw 0 4 == ckMagic && leAt raw 4 2 == b.job && leAt raw 6 2 == b.myidx && leAt raw 12 4 % 2 == 1 &&
    decide (body.length = len) && leAt raw 40 4 == (crc32c (body.map (·.1))).toNat
  if !good then (updCkptCorrupt, s)
  else if b.step ≠ (leAt raw 8 4 + 1) % 2 ^ 32 then (updCkptInvalid, s)
  else (statusOk, s.writeParts (fun _ => true) (s.ckParts b b.me s.sel d) body)

/-- OP 3 reads the member's own slot; OP 4 the slot that the buddy's device has returned. -/
def State.ckRestore (s : State) (fn j : Nat) (slot : Bool) (buddy : Option (List CodeWord)) : Status × State :=
  match s.job fn j with
  | none => (updCkptInvalid, s)
  | some b => match b.ckdesc with
    | none => (updCkptInvalid, s)
    | some d =>
      let a := d.localA + (if slot then d.slotsz else 0)
      s.restoreFrom b d (match buddy with
        | some ws => markedBytes ws
        | none => s.readParts [{ kind := 4, addr := a, len := d.slotsz }])

/-- A write of UPD_CKCTL: SLOT and JSLOT are stored, and OP acts. -/
def State.ckCtl (s : State) (fn : Nat) (v : DWord) (buddy : List CodeWord) : State :=
  let j := field v.toNat 7 4
  let slot := v.getLsbD 8
  let s := s.updFn fn (fun g => { g with ckSlot := slot, ckJslot := BitVec.ofNat 4 j })
  let (st, t) := match v.toNat % 8 with
    | 1 => s.ckRegister fn j
    | 2 => s.ckResume fn j
    | 3 => s.ckRestore fn j slot none
    | 4 => s.ckRestore fn j slot (some buddy)
    | _ => ((s.fn fn).ckStatus, s)
  t.updFn fn (fun g => { g with ckStatus := st })

/-! ## HRD_CTL and ERR_CODE_CTL (R171, R180, R185) -/

/-- A write of HRD_CTL: DEEPEN is stored; RELEASE empties the partition's hoard, and the map becomes never put. -/
def State.hrdCtl (s : State) (fn : Nat) (v : Word) : State :=
  let s := s.updHoard fn (fun h => { h with deepen := v.getLsbD 0 })
  if v.getLsbD 1 then (s.updHoard fn (fun h => { h with entries := [], jobs := [] })).mapWrite fn 0 (List.replicate 16384 0xFF) else s

/-- A write of ERR_CODE_CTL: the PF sets the scrub interval; CLEAR zeroes the function's own counts. -/
def State.errCtl (s : State) (fn : Nat) (v : Word) : State :=
  let s := if fn = 0 then { s with mem := { s.mem with scrubH := v.extractLsb' 0 8 } } else s
  if v.getLsbD 8 then s.updFn fn (fun g => { g with corr := 0, uncorr := 0, huskuse := 0 }) else s

end Sys2Proof.Machine
end

