-- ==== Sys2Proof/Machine/FabRegs.lean ====
section
/-! DEFINITION. The window table (R252 to R254), port control (R277, R278), fault-injection registers (R280, R281), the
signature ring (R371, R372), the power cap (R403) and CTX_KILL (R343). -/

namespace Sys2Proof.Machine

/-! ## Windows (R252 to R254) -/

def State.updWindow (s : State) (n : Nat) (f : Window → Window) : State :=
  { s with fab := { s.fab with windows := s.fab.windows.upd n Window.idle f } }

/-- The table entry of index j of a function's range. -/
def State.winEntry (s : State) (fn j : Nat) : Option Nat :=
  match s.part fn with
  | some p => if j < p.winCount then some (p.winBase + j) else none
  | none => none

/-- The invalidation of an entry completes: the lines filled through it are dropped (R254). -/
def State.winDone (s : State) (fn j n : Nat) : State :=
  if (s.fab.windows.getD n Window.idle).closing then
    let s := s.updWindow n (fun w => { w with closing := false })
    { s with mem := { s.mem with dlines := s.mem.dlines.filter (fun l => !(l.2.part == fn && (match l.2.remote with
      | some r => r.1 == j
      | none => false))) } }
  else s

/-- Whether a page of space 0b00 lies in the partition's ranges. -/
def State.pageLocal (s : State) (p : Part) (off size : Nat) : Bool :=
  if off < ddrSpace then decide (off + size ≤ s.hbmSize p) else decide (off - ddrSpace + size ≤ p.ddrRange)

/-- Whether an entry, complete with a word 0 that sets V, breaks a rule of R253. -/
def State.winBad (s : State) (fn : Nat) (p : Part) (n : Nat) (w : Window) : Bool :=
  let t := w.w3.toNat
  let size := 2 ^ w.size
  let others := (List.range p.winCount).filter (fun i => p.winBase + i != n && (s.fab.windows.getD (p.winBase + i) Window.idle).valid)
  decide (w.size < 21 ∨ 30 < w.size) || t % size != 0 || w.w2.toNat % size != 0 ||
    (w.w0.getLsbD 4 && (w.w0.getLsbD 2 || w.w0.getLsbD 3)) || decide (field w.w0.toNat 63 10 ≠ 0) || w.w1 != 0 ||
    others.any (fun i =>
      let o := s.fab.windows.getD (p.winBase + i) Window.idle
      decide (o.w2.toNat < w.w2.toNat + size ∧ w.w2.toNat < o.w2.toNat + 2 ^ o.size)) ||
    (match field t 63 62 with
     | 0 => decide (field t 61 46 ≠ 0) || !s.pageLocal p t size
     | 1 => (s.part fn).isNone
     | _ => true)

/-- A write of word 0 of an entry. One whose invalidation is under way is invalidated first. -/
def State.winWord0 (s : State) (fn j : Nat) (v : DWord) : State :=
  match s.part fn, s.winEntry fn j with
  | some p, some n =>
    let s := s.winDone fn j n
    let w := s.fab.windows.getD n Window.idle
    let report (s : State) (st : Status) : State := s.updFn fn (fun g => { g with winStatus := st, winIndex := j })
    if w.w0.getLsbD 0 then
      (if v.getLsbD 0 then s else s.updWindow n (fun w => { w with w0 := v, closing := true }))
    else if !v.getLsbD 0 then s.updWindow n (fun w => { w with w0 := v })
    else if s.winBad fn p n { w with w0 := v } then report s winEntryInvalid
    else report (s.updWindow n (fun w => { w with w0 := v })) statusOk
  | _, _ => s

/-- A write of word 1, 2 or 3, ignored while the entry is valid. -/
def State.winWord (s : State) (fn j k : Nat) (v : DWord) : State :=
  match s.winEntry fn j with
  | none => s
  | some n =>
    let s := s.winDone fn j n
    if (s.fab.windows.getD n Window.idle).w0.getLsbD 0 then s
    else s.updWindow n (fun w => match k with
      | 1 => { w with w1 := v }
      | 2 => { w with w2 := v }
      | _ => { w with w3 := v })

/-- WINDOW_INVALIDATE_DONE: the write of V = 0 completes, within 2 µs. -/
def execWindowInvalidateDone (fn index : Nat) (s : State) : Host.Outcome State Fault Refusal :=
  done (.windowInvalidateDone fn index) (match s.winEntry fn index with
    | some n => s.winDone fn index n
    | none => s)

/-! ## Ports (R277, R278) -/

/-- ENABLE of a port: 0 disables it; a disabled port that is enabled trains. -/
def Port.setEnable (p : Port) (en : Bool) : Port :=
  let p := { p with enable := en }
  if !en then (if p.link = .disabled then p else p.goDown.setLink .disabled)
  else if p.link = .disabled then p.setLink .training else p

/-- A write of FAB_PORTCTL by the PF. A retrain of an enabled port that is down trains it anew (DEDUCED). -/
def State.portCtl (s : State) (fn port : Nat) (v : DWord) : State :=
  if fn ≠ 0 then s
  else s.updPort port (fun p =>
    let p := ({ p with rateNext := v.getLsbD 5 } : Port).setEnable (v.getLsbD 4)
    let p := if v.getLsbD 7 ∧ p.st = .quarantined then { p with vcnt := 0, st := p.linkUp } else if v.getLsbD 7 then { p with vcnt := 0 } else p
    if v.getLsbD 6 then (if p.link = .down ∧ p.enable then p.setLink .training else p.retrain) else p)

/-! ## Fault injection (R280, R281) -/

/-- A write of INJ_PCTL: writing MODE seeds the generator and clears the count. A reserved MODE is off (DESIGN CHOICE). -/
def Port.setInj (p : Port) (v : DWord) : Port :=
  let mode := v.extractLsb' 0 4
  { p with
    injRate := v.extractLsb' 32 32, injCmask := v.extractLsb' 16 4, injSym := v.extractLsb' 8 2
    injMode := if mode.toNat ≤ 4 then mode else 0, injState := if p.injSeed = 0 then 1 else p.injSeed, injCount := 0 }

def State.injCtl (s : State) (fn port : Nat) (v : DWord) : State :=
  if fn ≠ 0 then s else (s.updPort port (fun p => p.setInj v)).journal 0 0 7 port (BitVec.ofNat 128 v.toNat)

def State.injSeed (s : State) (fn port : Nat) (v : DWord) : State :=
  if fn ≠ 0 then s else (s.updPort port (fun p => { p with injSeed := v })).journal 0 0 7 (port + 256) (BitVec.ofNat 128 v.toNat)

/-! ## The signature ring (R371, R372) -/

/-- A write of ERR_SIGCTL: EXPOK and INFO are stored; LOC and SIZELOG only while EN = 0, and then EN = 1 is checked. -/
def State.sigCtl (s : State) (fn : Nat) (v : Word) : State :=
  let g := (s.fn fn).sig
  let keep : Word := if g.ctl.getLsbD 0 then g.ctl &&& 0x1F00 else v &&& 0x1F00
  let body : Word := (v &&& 0xC000) ||| keep
  let len := 128 * 2 ^ (field body.toNat 11 8 + 6)
  let bad := decide (10 < field body.toNat 11 8) || (body.getLsbD 12 && !s.inPart fn g.base.toNat len)
  let en := v.getLsbD 0 && (g.ctl.getLsbD 0 || !bad)
  s.updFn fn (fun f => { f with sig := { f.sig with ctl := body ||| (if en then 1 else 0) } })

/-- A write of ERR_SIGBASE. -/
def State.sigBase (s : State) (fn : Nat) (v : DWord) : State :=
  s.updFn fn (fun f => if f.sig.ctl.getLsbD 0 then f else { f with sig := { f.sig with base := v &&& 0xFFFFFFFFFFFFFF80 } })

/-! ## PWR_CAP (R403) -/

/-- A cap and a window for the next millisecond; a value out of range is ignored. -/
def State.setCap (s : State) (cap window : Nat) : State :=
  if 1000 ≤ cap ∧ cap ≤ 12000 ∧ 1000 ≤ window ∧ window ≤ 60000 then { s with pwr := { s.pwr with capNext := some (cap, window) } } else s

def State.pwrCap (s : State) (fn : Nat) (v : DWord) : State :=
  if fn ≠ 0 then s else s.setCap (field v.toNat 15 0) (field v.toNat 47 32)

/-! ## CTX_KILL (R343) -/

/-- A write of CTX_KILL with DESTROY set. -/
def State.ctxKill (s : State) (fn : Nat) (v : DWord) : State :=
  let n := (s.fn fn).ctxSel.toNat
  let status (st : Status) : State := s.updFn fn (fun g => { g with killStatus := st })
  if !v.getLsbD 0 ∨ (s.fn fn).killBusy.isSome then s
  else if !s.ownCtx fn n then status ctxForeign
  else if (s.part fn).map (·.ctxBase) = some n then status hqCmdInvalid
  else match (s.ctx n).st with
    | .free => status ctxNotDefined
    | .destroying => s.updFn fn (fun g => { g with killBusy := some n })
    | _ => (s.startDestroy n none).updFn fn (fun g => { g with killBusy := some n })

end Sys2Proof.Machine
end

