-- ==== Sys2Proof/Machine/Truss.lean ====
section
/-! DEFINITION. The truss image: its checks (R348 to R358), the loader (R359, R360, R365), and the apply (R361, R417). -/

namespace Sys2Proof.Machine

/-- The first item of a list that does not hold: its offset. -/
def firstItem (l : List (Bool × Nat)) : Option Nat := (l.find? (fun x => !x.1)).map (·.2)

/-- A refusal: the status, the directory index and the byte offset of the failing item. -/
structure Refused where
  status : Status
  sect : Nat
  off : Nat
deriving DecidableEq, Repr

/-! ## Header and directory (R348, R349) -/

/-- A directory entry with its body. -/
structure DirE where
  idx : Nat
  typ : Nat
  rsv : Nat
  inst : Nat
  off : Nat
  len : Nat
  crc : Nat
  body : List Byte
deriving DecidableEq, Repr

def dirOf (bs : List Byte) (i : Nat) : DirE :=
  let a := 64 + 16 * i
  let off := leAt bs (a + 4) 4
  let len := leAt bs (a + 8) 4
  { idx := i, typ := leAt bs a 1, rsv := leAt bs (a + 1) 1, inst := leAt bs (a + 2) 2, off := off, len := len, crc := leAt bs (a + 12) 4
    body := (bs.drop off).take len }

/-- Check 1: the fields of the header. `slot` is the slot of a partition load. -/
def headerBad (bs : List Byte) (slot : Option Nat) : Option Nat :=
  let len := leAt bs 52 4
  let n := leAt bs 50 2
  firstItem [(decide (64 ≤ bs.length), 0), (decide (leAt bs 0 4 = 0xAF077255), 0), (decide (leAt bs 46 1 = 1), 46),
    (decide (len = bs.length ∧ len ≤ 0x400000 ∧ len % 64 = 0), 52), (decide (1 ≤ n ∧ n ≤ 256 ∧ 64 + 16 * n ≤ len), 50),
    (decide (leAt bs 49 1 = (if slot.isSome then 1 else 0)), 49), (decide (leAt bs 48 1 = slot.getD 0), 48), (decide (leAt bs 47 1 ≤ 1), 47)]

/-- How many set bits a 128-byte course map has. -/
def courseBits (bs : List Byte) : List Nat := setBits 1024 (ofLe bs)

/-- The length that a section's body must have. -/
def bodyLenOk (es : List DirE) (e : DirE) : Bool :=
  match e.typ with
  | 1 => e.len == 32
  | 2 => e.len == 144
  | 3 => e.len == 1024
  | 4 => e.len == 512
  | 5 => match es.find? (fun x => x.typ == 4 && x.inst == e.inst) with
    | some x => e.len == 128 * (courseBits ((x.body.drop 0xB0).take 128)).length
    | none => false
  | _ => e.len != 0 && e.len % 40 == 0

/-- Check 3: the directory. The answer names the first failing entry, or 0xFF where a section is missing. -/
def dirBad (bs : List Byte) (es : List DirE) (slot : Option Nat) : Option Nat :=
  let known (t : Nat) : Bool := if slot.isSome then decide (4 ≤ t ∧ t ≤ 6) else decide (1 ≤ t ∧ t ≤ 6)
  let instOk (e : DirE) : Bool :=
    if e.typ = 4 ∨ e.typ = 5 then decide (e.inst < 64) && (match slot with
      | some n => e.inst == n
      | none => true)
    else e.inst == 0
  let one (e : DirE) : Bool :=
    known e.typ && instOk e && decide (e.off % 64 = 0) && decide (64 + 16 * es.length ≤ e.off) && decide (e.off + e.len ≤ bs.length) &&
      bodyLenOk es e && es.all (fun x => x.idx == e.idx || !(x.typ == e.typ && x.inst == e.inst)) &&
      es.all (fun x => decide (x.idx ≤ e.idx) || decide (x.off + x.len ≤ e.off ∨ e.off + e.len ≤ x.off))
  let has (t i : Nat) : Bool := es.any (fun x => x.typ == t && x.inst == i)
  match es.find? (fun e => !one e) with
  | some e => some e.idx
  | none =>
    let whole := match slot with
      | some n => has 4 n && has 5 n
      | none => has 1 0 && has 2 0 && es.all (fun x => x.typ != 4 || has 5 x.inst)
    if whole then none else some 0xFF

/-! ## Sections (R350 to R356) -/

def deviceBad (b : List Byte) : Option Nat := firstItem [(decide (leAt b 0 8 = 0), 0), (decide (leAt b 26 6 = 0), 26)]

/-- The POWER section, with the slots that have a PARTITION section. -/
def powerBad (b : List Byte) (present : List Nat) : Option Nat :=
  let h := leAt b 0 8
  let c1 := field h 9 8
  let c2 := field h 11 10
  let c3 := field h 13 12
  let adm := field h 47 32
  let entry (n : Nat) : Nat := leAt b (16 + 2 * n) 2
  firstItem ([(decide (field h 7 1 = 0), 0), (decide (c1 ≤ 2 ∧ c2 ≤ 2 ∧ c3 ≤ 2 ∧ c1 ≠ c2 ∧ c1 ≠ c3 ∧ c2 ≠ c3), 1), (decide (field h 31 14 = 0), 1),
      (decide (1 ≤ adm ∧ adm ≤ 1024), 4), (decide (2600 ≤ (1024 + adm - 1) / adm * field h 63 48), 4), (decide (1 ≤ field h 63 48), 6),
      (decide (leAt b 8 8 = 0), 8)] ++
    (List.range 64).map (fun n => ((present.contains n || entry n == 0) && (bitOf h 0 || decide (entry n ≤ 7)), 16 + 2 * n)) ++
    [(!bitOf h 0 || decide (((List.range 64).map entry).foldl (· + ·) 0 ≤ 1024), 16)])

def injectBad (b : List Byte) : Option Nat :=
  firstItem ((List.range 64).map (fun p =>
    let v := leAt b (16 * p) 8
    (decide (field v 31 20 = 0 ∧ field v 15 10 = 0 ∧ field v 7 4 = 0 ∧ v % 16 ≤ 4), 16 * p)))

/-- The fields of a PARTITION section (R353). -/
def partOf (b : List Byte) : Part :=
  { lomcon := bitOf (leAt b 0 4) 0, htag := BitVec.ofNat 16 (leAt b 4 2), qcount := leAt b 6 2, ctxBase := leAt b 8 4, ctxCount := leAt b 0xC 4
    rshare := leAt b 0x10 2, winBase := leAt b 0x18 4, winCount := leAt b 0x1C 4, slotBase := leAt b 0x20 2, slotCnt := leAt b 0x22 2
    sparq := leAt b 0x24 4, objq := leAt b 0x28 4, ddrBase := leAt b 0x30 8, ddrSize := leAt b 0x38 8
    hbmHeap := (leAt b 0x40 8, leAt b 0x48 8), ddrHeap := (leAt b 0x50 8, leAt b 0x58 8), alloc := (leAt b 0x60 8, leAt b 0x68 8)
    hoardHbm := leAt b 0x70 8, hoardT2 := leAt b 0x78 8, hbmGr := leAt b 0x80 4, t2Gr := leAt b 0x84 4
    ports := BitVec.ofNat 64 (leAt b 0x88 8), ways := (List.range 16).map (fun d => leAt b (0x90 + 2 * d) 2)
    courses := courseBits ((b.drop 0xB0).take 128), units := ((b.drop 0x130).take (leAt b 0x12 2)).map BitVec.toNat
    chans := ((b.drop 0x1B0).take (leAt b 0x14 2)).map BitVec.toNat, shapes := [], power := 0 }

/-- A list of bytes is well formed: n distinct numbers below the limit, then 0xFF. -/
def listBad (bs : List Byte) (n lim base : Nat) : List (Bool × Nat) :=
  let xs := bs.map BitVec.toNat
  (List.range bs.length).map (fun i =>
    let x := xs.getD i 0
    (if i < n then decide (x < lim) && !((xs.take i).contains x) else x == 0xFF, base + i))

/-- Whether a region [o, o + len) lies in a range and overlaps none of some others; a region of size 0 overlaps nothing. -/
def regionOk (range : Nat) (r : Nat × Nat) (others : List (Nat × Nat)) : Bool :=
  decide (r.1 + r.2 ≤ range) && (r.2 == 0 || others.all (fun x => x.2 == 0 || decide (r.1 + r.2 ≤ x.1 ∨ x.1 + x.2 ≤ r.1)))

/-- Offsets in the section of its 4,096-byte multiples. -/
def partAligned (b : List Byte) : List (Bool × Nat) :=
  [0x30, 0x38, 0x40, 0x48, 0x50, 0x58, 0x60, 0x68, 0x70, 0x78].map (fun o => (decide (leAt b o 8 % 4096 = 0), o))

/-- The PARTITION section by R353 and R354. -/
def State.partBad (s : State) (b : List Byte) : Option Nat :=
  let p := partOf b
  let nu := leAt b 0x12 2
  let nc := leAt b 0x14 2
  let hbm := nu * s.unitPop
  let ddr := nc * p.ddrSize
  let hoardH := (p.hoardHbm, 4096 * p.hbmGr)
  let hoardT := (p.hoardT2, 4096 * p.t2Gr)
  firstItem ([(decide (leAt b 0 4 ≤ 1), 0), (decide (p.qcount ≤ 2047), 6), (decide (1 ≤ p.ctxCount), 0xC), (decide (p.rshare ≤ 3072), 0x10),
      (decide (1 ≤ nu ∧ nu ≤ 128), 0x12), (decide (nc ≤ 24), 0x14), (decide (leAt b 0x16 2 = 0), 0x16), (decide (p.sparq ≤ 65536), 0x24),
      (decide (p.objq ≤ 2 ^ 24), 0x28), (decide (leAt b 0x2C 4 = 0), 0x2C)] ++ partAligned b ++
    [(regionOk hbm p.hbmHeap [p.alloc, hoardH], 0x40), (regionOk ddr p.ddrHeap [hoardT], 0x50),
      (regionOk hbm p.alloc [p.hbmHeap, hoardH], 0x60), (decide (2 ^ 20 + 4096 + 64 * p.objq ≤ p.alloc.2), 0x68),
      (regionOk hbm hoardH [p.hbmHeap, p.alloc], 0x70), (regionOk ddr hoardT [p.ddrHeap], 0x78),
      (nc != 0 || (p.ddrSize == 0 && p.ddrHeap.2 == 0 && p.t2Gr == 0), 0x38), (!p.courses.isEmpty, 0xB0)] ++
    listBad ((b.drop 0x130).take 128) nu 128 0x130 ++ listBad ((b.drop 0x1B0).take 24) nc 24 0x1B0 ++
    [(decide (leAt b 0x1C8 56 = 0), 0x1C8)])

def shapesOf (b : List Byte) : List DWord := (chunksOf 8 b.length b).map (fun w => BitVec.ofNat 64 (ofLe w))

def shapesBad (b : List Byte) : Option Nat :=
  let ws := shapesOf b
  firstItem ((List.range ws.length).map (fun i => (shapeValid (ws.getD i 0), 8 * i)))

/-- Spare records: course, fence mask, retired columns by row. -/
def sparesOf (b : List Byte) : List (Nat × Nat × Map Nat) :=
  (chunksOf 40 b.length b).map (fun r => (leAt r 0 2, leAt r 2 2,
    ((List.range 32).filterMap (fun k => let c := leAt r (8 + k) 1; if c = 0xFF then none else some (k, c)))))

/-- The SPARES section; `own` are the courses that a partition image may name. -/
def sparesBad (b : List Byte) (own : Option (List Nat)) : Option Nat :=
  let rs := chunksOf 40 b.length b
  firstItem ((List.range rs.length).flatMap (fun i =>
    let r := rs.getD i []
    let c := leAt r 0 2
    [(decide (c < 1024) && (i == 0 || decide (leAt (rs.getD (i - 1) []) 0 2 < c)) && (match own with
        | some l => l.contains c
        | none => true), 40 * i), (decide (leAt r 4 4 = 0), 40 * i + 4)] ++
      (List.range 32).map (fun k => (decide (leAt r (8 + k) 1 ≤ 32 ∨ leAt r (8 + k) 1 = 0xFF), 40 * i + 8 + k))))

/-! ## Shared resources (R357) -/

/-- Two ranges given by base and count meet. -/
def meets (a b : Nat × Nat) : Bool := decide (a.1 < b.1 + b.2 ∧ b.1 < a.1 + a.2) && a.2 != 0 && b.2 != 0

/-- Dies that home an owned unit or channel. -/
def Part.homeDies (p : Part) : List Nat := (p.units.map (· / 8) ++ p.chans.map dieOfChan).eraseDups

/-- The first rule of R357 that a partition breaks against the others: the field's offset. -/
def partConflict (p : Part) (others : List Part) : Option Nat :=
  let apart (l : Part → List Nat) : Bool := others.all (fun o => (l p).all (fun x => !(l o).contains x))
  firstItem [(decide (p.ctxBase + p.ctxCount ≤ 2 ^ 20) && others.all (fun o => !meets (p.ctxBase, p.ctxCount) (o.ctxBase, o.ctxCount)), 8),
    (decide (p.winBase + p.winCount ≤ 131072) && others.all (fun o => !meets (p.winBase, p.winCount) (o.winBase, o.winCount)), 0x18),
    (decide (p.slotBase + p.slotCnt ≤ 4096) && others.all (fun o => !meets (p.slotBase, p.slotCnt) (o.slotBase, o.slotCnt)), 0x20),
    (others.all (fun o => !(p.chans.any o.chans.contains) || !meets (p.ddrBase, p.ddrSize) (o.ddrBase, o.ddrSize)), 0x30),
    (others.all (fun o => p.ports &&& o.ports == 0), 0x88),
    (others.all (fun o => (List.range 16).all (fun d => p.ways.getD d 0 &&& o.ways.getD d 0 == 0)) &&
      p.homeDies.all (fun d => decide (2 ≤ popCount 16 (p.ways.getD d 0))), 0x90),
    (apart Part.courses, 0xB0), (apart Part.units, 0x130)]

def sumOver (l : List Part) (f : Part → Nat) : Nat := (l.map f).foldl (· + ·) 0

/-- The first of the sums of R357 that is too large. -/
def sumBad (l : List Part) : Option Nat :=
  firstItem [(decide (sumOver l Part.qcount ≤ 65536), 6), (decide (sumOver l Part.rshare ≤ 3072), 0x10), (decide (sumOver l Part.sparq ≤ 65536), 0x24)]

/-! ## The checks in their order (R358) -/

/-- Whether a slot needs memory that is missing or untrained (check 7). -/
def State.memShort (s : State) (p : Part) : Bool :=
  p.units.any s.mem.badUnits.contains || p.chans.any (fun c => match s.mem.chanCap.get? c with
    | some cap => decide (cap < p.ddrBase + p.ddrSize)
    | none => true)

/-- A slot is quiesced (R360). -/
def State.quiesced (s : State) (n : Nat) : Bool :=
  let f := s.fn n
  let dflt := (s.part n).map (·.ctxBase)
  !f.tearing && f.queues.all (fun q => !q.2.en) && f.jobs.isEmpty && s.tab.ctxs.all (fun c => c.2.fn != n || c.2.st == .free || some c.1 == dflt) &&
    f.objTab.live == 0 && s.sparsUsed n == 0

/-- Slots that a load affects. -/
def affected (slot : Option Nat) : List Nat :=
  match slot with
  | some n => [n]
  | none => List.range 64

/-- Check 8: the first spare record that drops a retirement or a fence that its course holds. -/
def State.spareConflict (s : State) (rs : List (Nat × Nat × Map Nat)) : Option Nat :=
  firstItem ((List.range rs.length).map (fun i => match rs[i]? with
    | some (c, fence, rows) => ((s.course c).fence &&& fence == (s.course c).fence &&
        (s.course c).retired.all (fun r => Map.get? rows r.1 == some r.2), 40 * i)
    | none => (true, 0)))

/-- The image that sections stand for, over the current configuration for a partition image. -/
def State.imageOf (s : State) (bs : List Byte) (es : List DirE) (slot : Option Nat) : TrussImg :=
  let body (t i : Nat) : List Byte := match es.find? (fun e => e.typ == t && e.inst == i) with
    | some e => e.body
    | none => []
  let pw := body 2 0
  let entries := (List.range 64).map (fun n => leAt pw (16 + 2 * n) 2)
  let fresh : Map Part := (es.filter (fun e => e.typ == 4)).foldl (fun m e => Map.put m e.inst { partOf e.body with
    shapes := shapesOf (body 5 e.inst)
    power := if slot.isSome then (match s.part e.inst with | some q => q.power | none => 0) else entries.getD e.inst 0 }) []
  let parts := if slot.isSome then fresh.foldl (fun m p => Map.put m p.1 p.2) s.truss.parts else fresh
  let dev := body 1 0
  { full := slot.isNone, slot := slot.getD 0, nsect := es.length, digest := digest16 bs, devid := BitVec.ofNat 16 (leAt dev 24 2)
    porten := BitVec.ofNat 64 (leAt dev 8 8), portrate := BitVec.ofNat 64 (leAt dev 16 8), parts := parts
    power := (BitVec.ofNat 64 (leAt pw 0 8), BitVec.ofNat 64 (leAt pw 8 8))
    inject := (List.range 64).map (fun p => (BitVec.ofNat 64 (leAt (body 3 0) (16 * p) 8), BitVec.ofNat 64 (leAt (body 3 0) (16 * p + 8) 8)))
    spares := sparesOf (body 6 0) }

/-- Check 5 of one section. -/
def State.sectBad (s : State) (es : List DirE) (slot : Option Nat) (e : DirE) : Option Nat :=
  match e.typ with
  | 1 => deviceBad e.body
  | 2 => powerBad e.body ((es.filter (fun x => x.typ == 4)).map (·.inst))
  | 3 => injectBad e.body
  | 4 => s.partBad e.body
  | 5 => shapesBad e.body
  | _ => sparesBad e.body (slot.map (fun n => match es.find? (fun x => x.typ == 4 && x.inst == n) with
    | some x => (partOf x.body).courses
    | none => []))

/-- The first of some sections with a failing item. -/
def sectsBad (f : DirE → Option Nat) : List DirE → Option (Nat × Nat)
  | [] => none
  | e :: es => match f e with
    | some o => some (e.idx, o)
    | none => sectsBad f es

/-- Checks 1 to 6 of an image: its bytes and the slot of a partition load. -/
def State.imgCheck (s : State) (bs : List Byte) (slot : Option Nat) : Except Refused (List DirE × TrussImg) :=
  match headerBad bs slot with
  | some o => .error ⟨trsImageFormat, 0xFF, o⟩
  | none =>
    let n := leAt bs 50 2
    if leAt bs 4 4 ≠ (crc32c ((bs.drop 8).take (56 + 16 * n))).toNat then .error ⟨trsImageCrc, 0xFF, 4⟩
    else
      let es := (List.range n).map (dirOf bs)
      match dirBad bs es slot with
      | some i => .error ⟨trsImageFormat, i, 0⟩
      | none => match es.find? (fun e => decide (e.crc ≠ (crc32c e.body).toNat)) with
        | some e => .error ⟨trsImageCrc, e.idx, 0⟩
        | none => match sectsBad (s.sectBad es slot) es with
          | some (i, o) => .error ⟨trsSectionInvalid, i, o⟩
          | none =>
            let img := s.imageOf bs es slot
            let others (e : DirE) : List Part := (img.parts.filter (fun p => p.1 != e.inst)).map (·.2)
            let clash (e : DirE) : Option Nat := if e.typ ≠ 4 then none else match Map.get? img.parts e.inst with
              | some p => partConflict p (others e)
              | none => none
            let sums (e : DirE) : Option Nat := if e.typ ≠ 4 then none else sumBad (img.parts.map (·.2))
            match sectsBad clash es with
            | some (i, o) => .error ⟨trsResourceConflict, i, o⟩
            | none => match sectsBad sums es with
              | some (i, o) => .error ⟨trsResourceConflict, i, o⟩
              | none => .ok (es, img)

/-- Check 7, after boot: the first PARTITION section that names missing memory. -/
def State.shortCheck (s : State) (es : List DirE) : Option Refused :=
  (es.find? (fun e => e.typ == 4 && s.memShort (partOf e.body))).map (fun e => ⟨trsMemShort, e.idx, if (partOf e.body).units.any s.mem.badUnits.contains then 0x130 else 0x1B0⟩)

/-- Check 8, with the directory index of the SPARES section. -/
def State.spareCheck (s : State) (es : List DirE) (img : TrussImg) : Option Refused :=
  (s.spareConflict img.spares).map (fun o => ⟨trsSpareConflict, ((es.find? (fun e => e.typ == 6)).map (·.idx)).getD 0xFF, o⟩)

/-- Check 9. -/
def State.quiesceCheck (s : State) (es : List DirE) (slot : Option Nat) : Option Refused :=
  ((affected slot).find? (fun n => !s.quiesced n)).map (fun n =>
    ⟨trsNotQuiesced, ((es.find? (fun e => e.typ == 4 && e.inst == n)).map (·.idx)).getD 0xFF, 0⟩)

/-! ## The loader (R359, R365) -/

/-- A load is refused or abandoned: its registers show why, and the journal has one entry of kind 3. -/
def State.loadRefused (s : State) (r : Refused) (digest : BitVec 128) : State :=
  let s := { s with truss := { s.truss with
    status := r.status, fsect := BitVec.ofNat 8 r.sect, foff := r.off, busy := false, pending := none, applying := false, injHeld := [] } }
  s.journal 0 0 3 r.status.toNat digest

/-- The item that holds the first poisoned byte. -/
def poisonItem (bs : List Byte) (o : Nat) : Refused :=
  let n := leAt bs 50 2
  match ((List.range (min n 256)).map (dirOf bs)).find? (fun e => decide (64 + 16 * n ≤ o ∧ e.off ≤ o ∧ o < e.off + e.len)) with
  | some e => ⟨trsImageCrc, e.idx, o - e.off⟩
  | none => ⟨trsImageCrc, 0xFF, o⟩

/-- The offset of the first poisoned byte of a range of host memory. -/
def State.firstPoison (s : State) (a len : Nat) : Option Nat :=
  (s.mem.hostPoison.filter (fun l => decide (64 * l < a + len ∧ a < 64 * l + 64))).foldl (fun b l =>
    let o := 64 * l - a
    match b with
    | none => some o
    | some x => some (min x o)) none

/-- FULL_LOAD, PARTITION_LOAD: the image is read from host memory and checked; an accepted one waits for its apply. -/
def State.load (s : State) (slot : Option Nat) : State :=
  let a := s.truss.src.toNat
  let bs := s.hostRead a s.truss.len
  match s.firstPoison a s.truss.len with
  | some o => s.loadRefused (poisonItem bs o) 0
  | none => match s.imgCheck bs slot with
    | .error r => s.loadRefused r (digest16 bs)
    | .ok (es, img) => match s.shortCheck es, s.spareCheck es img, s.quiesceCheck es slot with
      | some r, _, _ => s.loadRefused r (digest16 bs)
      | none, some r, _ => s.loadRefused r (digest16 bs)
      | none, none, some r => s.loadRefused r (digest16 bs)
      | none, none, none => { s with truss := { s.truss with busy := true, pending := some img } }

/-- A write of TRS_CTL by the PF. -/
def State.trsCtl (s : State) (fn : Nat) (v : DWord) : State :=
  if fn ≠ 0 ∨ s.truss.busy then s
  else
    let slot := field v.toNat 7 2
    let s := { s with truss := { s.truss with pslot := BitVec.ofNat 6 slot } }
    match v.toNat % 4 with
    | 1 => s.load none
    | 2 => s.load (some slot)
    | _ => s

/-! ## The apply (R361, R417) -/

/-- Owners of courses or HBM units under a configuration. -/
def ownersOf (parts : Map Part) (l : Part → List Nat) : Map Nat :=
  parts.foldl (fun m p => (l p.2).foldl (fun m x => Map.put m x p.1) m) []

/-- Keys whose value differs between two maps. -/
def changedKeys (a b : Map Nat) : List Nat := ((a ++ b).map (·.1)).eraseDups.filter (fun k => Map.get? a k != Map.get? b k)

/-- Zero an HBM unit; lines of it are dropped without write-back. -/
def State.clearUnit (s : State) (u : Nat) : State :=
  let out (a : Nat) : Bool := isDdr a || unitOf a != u
  let m := s.mem.mem
  { s with mem := { s.mem with
      mem := { m with cells := m.cells.filter (fun c => out c.1), husks := m.husks.filter (fun w => out (16 * w)) }
      dlines := s.mem.dlines.filter (fun l => decide (0x100000000000000000 ≤ l.1) || out (128 * l.1))
      seqs := s.mem.seqs.filter (fun q => out q.1) } }

/-- Clear every per-core state of a course: local stores, registers, caches, accumulators and links of its gangs. A course
in OFF wakes for it (R397). -/
def State.clearCourse (s : State) (c : Nat) : State :=
  let s := if (s.course c).power = .off then s.wakeCourse c else s
  { s with grid := { s.grid with
      cores := s.grid.cores.filter (fun x => courseOfCore x.1 != c)
      gangs := s.grid.gangs.filter (fun g => courseOfCore g.1 != c)
      shapes := s.grid.shapes.filter (fun t => t.1 / 16 != c)
      reshapes := s.grid.reshapes.filter (fun (r : Reshape) => r.tract / 16 != c) } }

/-- The die on which a line is held. -/
def lineDie (n : Nat) : Nat := (linePlace n).1

/-- Lines of a partition whose ways may have gone are lost without write-back; where a partition keeps some of its ways on
a die, each line's way is open, so that each line is a free choice. -/
def State.cutWays (s : State) (part : Nat) (old new : List Nat) : List Nat → State
  | [] => s
  | n :: ns =>
    let o := old.getD (lineDie n) 0
    let m := new.getD (lineDie n) 0
    if o &&& m = o then State.cutWays s part old new ns
    else if o &&& m = 0 then State.cutWays (s.dropLine n) part old new ns
    else
      let (b, s) := s.drawBool
      State.cutWays (if b then s.dropLine n else s) part old new ns

/-- Die-cache ways change owner. -/
def State.applyWays (s : State) (parts : Map Part) : State :=
  s.truss.ownWays.foldl (fun s w =>
    let new := match Map.get? parts w.1 with
      | some p => p.ways
      | none => []
    s.cutWays w.1 w.2 new ((s.mem.dlines.filter (fun l => l.2.part == w.1)).map (·.1))) s

/-- The share of a partition: channel, base, size. -/
def Part.shareOf (p : Part) : List (Nat × Nat × Nat) := p.chans.map (fun c => (c, p.ddrBase, p.ddrSize))

/-- A slot whose DDR5 share changes gets its next key (R431); lines of the old share leave the die caches. -/
def State.applyShares (s : State) (parts : Map Part) : State :=
  (List.range 64).foldl (fun s n =>
    let old := Map.getD s.truss.ownDdr n []
    let new := match Map.get? parts n with
      | some p => p.shareOf
      | none => []
    if old = new then s
    else
      let inOld (l : Nat) : Bool := isDdr (128 * l) && old.any (fun x => x.1 == chanOf (128 * l) &&
        decide (x.2.1 ≤ (128 * l - ddrSpace) % 0x8000000000 ∧ (128 * l - ddrSpace) % 0x8000000000 < x.2.1 + x.2.2))
      let ls := (s.mem.dlines.filter (fun l => inOld l.1)).map (·.1)
      let s := ls.foldl (fun s l => (s.writeBack l).dropLine l) s
      { s with boot := { s.boot with epochAdv := s.boot.epochAdv.upd n 0 (· + 1) } }) s

/-- Clear what changes owner between the ownership record and the new configuration, and record the new owners. -/
def State.applyOwners (s : State) (parts : Map Part) : State :=
  let courses := ownersOf parts Part.courses
  let units := ownersOf parts Part.units
  let s := (changedKeys s.truss.ownCourse courses).foldl (fun s c => s.clearCourse c) s
  let lost := if s.truss.unitsLost then units.map (·.1) else changedKeys s.truss.ownUnit units
  let s := lost.foldl (fun s u => s.clearUnit u) s
  let s := (s.applyWays parts).applyShares parts
  { s with truss := { s.truss with
      ownCourse := courses, ownUnit := units, ownWays := parts.map (fun p => (p.1, p.2.ways)), ownDdr := parts.map (fun p => (p.1, p.2.shareOf))
      unitsLost := false } }

/-- The default context of a slot is FREE until the function becomes ready again. -/
def State.dropDefault (s : State) (n : Nat) : State :=
  { s with tab := { s.tab with ctxs := s.tab.ctxs.filter (fun c => c.2.fn != n) } }

/-- The settings of an affected slot return to reset (R361 step 2): queues, windows, hoard, retired object indices, the
counts of R171, and the partition's energy. -/
def State.resetSlot (s : State) (n : Nat) : State :=
  let gone := match s.part n with
    | some p => s.fab.windows.filter (fun w => decide (w.1 < p.winBase ∨ p.winBase + p.winCount ≤ w.1))
    | none => s.fab.windows
  let s := (s.dropDefault n).updFn n (fun g => { g with
    queues := [], winStatus := 0, winIndex := 0, corr := 0, uncorr := 0, huskuse := 0, epart := 0
    hoard := { g.hoard with entries := [], jobs := [], job := 0xFFFF, step := 0 }
    objTab := { objs := [], gens := g.objTab.gens.filter (fun x => !g.objTab.retired.contains x.1), retired := [] } })
  { s with fab := { s.fab with windows := gone } }

/-- The tracts of a partition take the image's shapes, and their gangs are cleared and unbound (R78). -/
def State.applyShapes (s : State) (p : Part) : State :=
  let ts := p.tracts
  { s with grid := { s.grid with
      gangs := s.grid.gangs.filter (fun g => !ts.contains (tractOfCore g.1))
      shapes := (List.range ts.length).foldl (fun m i => Map.put m (ts.getD i 0) (p.shapes.getD i 0)) s.grid.shapes } }

/-- A spare record takes effect: rows shift, and the cores whose physical position changes start empty (R21 to R24). -/
def State.applySpare (s : State) (c : Nat) (fence : Nat) (rows : Map Nat) : State :=
  let all := (List.range 1024).map (· + 1024 * c)
  let before := all.map s.physCol
  let t := s.updCourse c (fun x => { x with fence := fence, retired := rows })
  (all.zip before).foldl (fun t x => if t.physCol x.1 ≠ x.2 ∧ (t.grid.cores.get? x.1).isSome then t.updCore x.1 Core.emptied else t) t

/-- The DEVICE, POWER and INJECT settings of a full image. Ports whose enable, rate or device id changes retrain. -/
def State.applyDevice (s : State) (img : TrussImg) : State :=
  let newId := s.fab.devid != img.devid
  let s := { s with fab := { s.fab with devid := img.devid }, pwr := { s.pwr with mode := img.power.1 } }
  (List.range 64).foldl (fun s p =>
    let rate := img.portrate.getLsbD p
    let (ctl, seed) := img.inject.getD p (0, 0)
    s.updPort p (fun x =>
      let moved := newId || x.rateNext != rate
      let x := (({ x with rateNext := rate, injSeed := seed } : Port).setEnable (img.porten.getLsbD p)).setInj ctl
      if moved then x.retrain else x)) s

/-- The kind 7 entries of a full load: ports whose default MODE is not 0. -/
def State.journalInject (s : State) (img : TrussImg) : State :=
  (List.range 64).foldl (fun s p =>
    let (ctl, seed) := img.inject.getD p (0, 0)
    if ctl.toNat % 16 = 0 then s else s.journal 0 2 7 (p + 512) (BitVec.ofNat 128 (ctl.toNat + seed.toNat * 2 ^ 64))) s

/-- Whether a load that is being applied affects a slot (R361). -/
def State.inApply (s : State) (n : Nat) : Bool :=
  s.truss.applying && (match s.truss.pending with
    | some img => img.full || img.slot == n
    | none => false)

/-- A function becomes ready if it is enabled and nothing keeps it from it; its default context is then defined (R329). -/
def State.becomeReady (s : State) (n : Nat) : State :=
  let f := s.fn n
  if s.inApply n || !f.enabled || f.tearing || f.erasing || f.wedged || f.memShort || s.boot.stage != 7 then s.updFn n (fun g => { g with ready := false })
  else ((s.dropDefault n).updFn n (fun g => { g with ready := true })).defineDefault n

/-- Steps 1 to 4 of the apply, and its journal entries. -/
def State.applyImage (s : State) (img : TrussImg) : State :=
  let slots := affected (if img.full then none else some img.slot)
  let s := s.applyOwners img.parts
  let s := slots.foldl (fun s n => s.resetSlot n) s
  let s := { s with truss := { s.truss with parts := img.parts } }
  let s := slots.foldl (fun s n => match s.part n with
    | some p => (s.resetSlot n).applyShapes p
    | none => s) s
  let s := img.spares.foldl (fun s r => s.applySpare r.1 r.2.1 r.2.2) s
  let s := if img.full then s.applyDevice img else s
  let seq := s.truss.jcount
  let s := if img.full then s.journal 0 0 1 img.nsect img.digest else s.journal 0 0 2 img.slot img.digest
  let s := if img.full then s.journalInject img else s
  slots.foldl (fun s n => s.updFn n (fun g => { g with loadSeq := seq, memShort := false })) s

/-- The apply begins: spare records and the quiescence of the slots are checked again, since the checks end here, and
every affected function stops answering. -/
def State.beginApply (s : State) (img : TrussImg) : State :=
  let slot := if img.full then none else some img.slot
  match s.spareConflict img.spares, s.quiesceCheck [] slot with
  | some o, _ => s.loadRefused ⟨trsSpareConflict, 0xFF, o⟩ img.digest
  | none, some r => s.loadRefused r img.digest
  | none, none =>
    let s := { s with truss := { s.truss with applying := true } }
    (affected slot).foldl (fun s n => s.updFn n (fun g => { g with ready := false, heldLow := none, latched := none })) s

/-- The apply ends: what it does takes effect, then the writes of fault-injection registers that came meanwhile (R362). -/
def State.endApply (s : State) (img : TrussImg) : State :=
  let held := s.truss.injHeld
  let s := s.applyImage img
  let s := { s with truss := { s.truss with
    status := statusOk, fsect := 0, foff := 0, busy := false, pending := none, applying := false, injHeld := [] } }
  let s := held.foldl (fun s w =>
    let port := (w.1 - 0x2400000) / 0x20
    if w.1 % 0x20 = 0 then s.injCtl 0 port w.2 else if w.1 % 0x20 = 8 then s.injSeed 0 port w.2 else s) s
  (affected (if img.full then none else some img.slot)).foldl (fun s n => s.becomeReady n) s

/-- TRUSS_APPLY: the first one begins the apply of an accepted image, the next one ends it (DESIGN CHOICE). -/
def execTrussApply (s : State) : Host.Outcome State Fault Refusal :=
  done .trussApply (match s.truss.pending with
    | none => s
    | some img => if s.truss.applying then s.endApply img else s.beginApply img)

end Sys2Proof.Machine
end

