-- ==== Sys2Proof/Machine/Function.lean ====
section
/-! DEFINITION. Function shut-down, enable and erase (R323 to R325), and the full reset (R326, R389, R415, R439). -/

namespace Sys2Proof.Machine

/-! ## Shut-down (R323) -/

/-- Abort a context of a function that shuts down: its first fault status becomes CTX_DESTROYED, and it leaves no record. -/
def State.shutCtx (s : State) (c : Nat) : State :=
  let s := s.updCtx c (fun k => { k with
    st := if k.st = .defined then .faulted else k.st, fault := if k.st = .defined then ctxDestroyed else k.fault, aborting := false })
  ((s.stopCtx c).updCtx c (fun k => { k with stopped := [] })).saveCtx c

/-- A loaded job leaves with the function: an attempt without ridge or void voids with JOB_MEMBER_ABORTED. -/
def State.shutJob (s : State) (n j : Nat) : State :=
  match s.job n j with
  | none => s
  | some b =>
    let s := if b.open then (s.spread n j b { b.hdr0 7 with cause := jobMemberAborted.toNat } []).discard n j b else s
    s.dropJob n j b gutJobUnloaded

/-- The queues of a function start and post nothing more. -/
def State.stopQueues (s : State) (n : Nat) : State :=
  (s.detachReshapes ((s.entriesWhere n (fun _ => true)).map (·.1))).updFn n (fun g => { g with
    queues := g.queues.map (fun q => (q.1, { q.2 with entries := [], posts := [] })) })

/-- A load that has not been applied is abandoned with a shut-down of the PF, or a full reset. -/
def State.abandonLoad (s : State) : State :=
  match s.truss.pending with
  | some img => s.loadRefused ⟨trsLoadAborted, 0xFF, 0⟩ img.digest
  | none => s

/-- T0 of a shut-down: steps 1 to 3. A later trigger joins it, and a wedged function ignores it. -/
def State.beginShutdown (s : State) (n : Nat) : State :=
  if (s.fn n).wedged ∨ (s.fn n).tearing then s
  else
    let s := s.updFn n (fun g => { g with tearing := true, ready := false, enlatch := false, heldLow := none, latched := none })
    let s := s.stopQueues n
    let s := (s.ctxsOf n).foldl (fun s c => s.shutCtx c) s
    let s := ((s.fn n).jobs.map (·.1)).foldl (fun s j => s.shutJob n j) s
    if n = 0 ∧ !s.truss.applying then s.abandonLoad else s

/-- ID_FNCTL.SHUTDOWN of function `target`, written by the PF. -/
def State.fnShutdown (s : State) (fn target : Nat) : State := if fn = 0 then s.beginShutdown target else s

/-- Clearing VF Enable disables and shuts down every VF. -/
def State.clearVfs (s : State) : State :=
  if !s.vfEnable then s
  else
    let s := { s with vfEnable := false }
    (List.range 63).foldl (fun s k => (s.updFn (k + 1) (fun g => { g with enabled := false, enlatch := false })).beginShutdown (k + 1)) s

/-- An FLR of the PF clears VF Enable, and so shuts down every function; that of a VF needs the VF to exist. -/
def State.flr (s : State) (n : Nat) : State :=
  if n = 0 then (s.clearVfs).beginShutdown 0 else if s.vfEnable then s.beginShutdown n else s

def execFlr (fn : Nat) (s : State) : Host.Outcome State Fault Refusal := done (.flr fn) (s.flr fn)
def execVfEnableClear (s : State) : Host.Outcome State Fault Refusal := done .vfEnableClear s.clearVfs

/-! ## Its end (R323 steps 4 to 6, R324, R325) -/

/-- Free every spar of a partition. -/
def State.freeSpars (s : State) (n : Nat) : State :=
  { s with tab := { s.tab with spars := s.tab.spars.map (fun x =>
      if x.2.used && x.2.part == n then (x.1, { Spar.idle with gen := nextGen x.2.gen, ops := x.2.ops }) else x) } }

/-- Release a function's contexts, objects, spars and hoard (step 4). -/
def State.releaseAll (s : State) (n : Nat) : State :=
  let s := (s.ctxsOf n).foldl (fun s c => (((s.stopCtx c).clearMaps c).dropHolds c).freeCtx c) s
  let live := ((s.objTab n).objs.filter (fun o => decide (o.1 < 2 ^ 24))).map (·.1)
  let s := live.foldl (fun s i => s.freeObj n i) s
  (s.updObjTab n (fun t => { t with objs := [] })).freeSpars n

/-- Window entries of a function's range are gone, with the lines filled through them (step 6). -/
def State.dropWindows (s : State) (n : Nat) : State :=
  match s.part n with
  | none => s
  | some p =>
    let s := { s with fab := { s.fab with windows := s.fab.windows.filter (fun w => decide (w.1 < p.winBase ∨ p.winBase + p.winCount ≤ w.1)) } }
    { s with mem := { s.mem with dlines := s.mem.dlines.filter (fun l => !(l.2.part == n && l.2.remote.isSome)) } }

/-- What a function keeps when its registers return to reset: mailbox channels, the counts of R171, and what belongs to
its slot's image, energy and objects' generations. -/
def Fn.afterReset (g : Fn) : Fn :=
  { Fn.idle with
    enabled := g.enabled, mbx := g.mbx, corr := g.corr, uncorr := g.uncorr, huskuse := g.huskuse, memShort := g.memShort
    loadSeq := g.loadSeq, epart := g.epart, ppart := g.ppart, elast := g.elast, phist := g.phist, capped := g.capped, erasing := g.erasing, objTab := g.objTab }

/-- SHUTDOWN_COMPLETE, within 4 ms of T0: TEARUS shows its length, and READY = ENABLED. -/
def State.shutdownDone (s : State) (n us : Nat) : State :=
  if !(s.fn n).tearing ∨ (s.fn n).wedged ∨ 4000 < us then s
  else
    let s := (s.releaseAll n).dropWindows n
    (s.updFn n (fun g => { g.afterReset with tearus := us })).becomeReady n

def execShutdownComplete (fn us : Nat) (s : State) : Host.Outcome State Fault Refusal :=
  done (.shutdownComplete fn us) (s.shutdownDone fn us)

/-- FUNCTION_WEDGED: a shut-down that has not completed 4 ms after T0. -/
def State.wedge (s : State) (n us : Nat) : State :=
  if !(s.fn n).tearing ∨ (s.fn n).wedged ∨ us ≤ 4000 then s
  else (s.updFn n (fun g => { g with wedged := true, ready := false })).record
    { Report.plain 0x11 hqFuncWedged n (leBytes 4 us) with fn := n }

def execFunctionWedged (fn us : Nat) (s : State) : Host.Outcome State Fault Refusal := done (.functionWedged fn us) (s.wedge fn us)

/-- FUNCTION_ENABLE: PCIe and SR-IOV control enable a function; during a shut-down the enable is latched. -/
def State.enableFn (s : State) (n : Nat) : State :=
  let s := if n = 0 then s else { s with vfEnable := true }
  let was := (s.fn n).ready
  let s := s.updFn n (fun g => { g with enabled := true, enlatch := g.enlatch || (g.tearing && !g.wedged) })
  if (s.fn n).tearing ∨ was then s else s.becomeReady n

def execFunctionEnable (fn : Nat) (s : State) : Host.Outcome State Fault Refusal := done (.functionEnable fn) (s.enableFn fn)

/-! ## Erase (R323) -/

/-- A write of ID_FNCTL.ERASE by the PF: ignored unless the slot is quiesced. -/
def State.beginErase (s : State) (fn target : Nat) : State :=
  let g := s.fn target
  if fn ≠ 0 ∨ g.tearing ∨ g.erasing ∨ g.wedged ∨ !s.quiesced target then s
  else s.updFn target (fun g => { g with erasing := true, ready := false, heldLow := none, latched := none })

/-- ERASE_COMPLETE: memory, key, courses and die-cache ways of the partition have been cleared. -/
def State.eraseDone (s : State) (n : Nat) : State :=
  if !(s.fn n).erasing then s
  else
    let s := match s.part n with
      | none => s
      | some p =>
        let s := p.units.foldl (fun (s : State) u => s.clearUnit u) s
        let shapes := s.grid.shapes
        let s := p.courses.foldl (fun (s : State) c => s.clearCourse c) s
        let s := { s with grid := { s.grid with shapes := shapes } }
        { s with mem := { s.mem with dlines := s.mem.dlines.filter (fun l => l.2.part != n) } }
    let s := { s with boot := { s.boot with epochAdv := s.boot.epochAdv.upd n 0 (· + 1) } }
    (s.updFn n (fun g => { g with erasing := false, corr := 0, uncorr := 0, huskuse := 0 })).becomeReady n

def execEraseComplete (fn : Nat) (s : State) : Host.Outcome State Fault Refusal := done (.eraseComplete fn) (s.eraseDone fn)

/-! ## Full reset (R326) -/

/-- Bytes of die-cache lines, and of near-core lines, that no write-back has brought to memory: the manual does not say
whether they reach it before the reset, so each line, and each core, is a free choice. -/
def State.settleLines (s : State) : State :=
  let s := s.grid.cores.foldl (fun s c =>
    if c.2.lines.isEmpty then s
    else
      let (b, s) := s.drawBool
      if b then s.flushNear c.1 else s) s
  s.mem.dlines.foldl (fun s l =>
    if l.2.dirty.isEmpty ∧ l.2.words.isEmpty then s
    else
      let (b, s) := s.drawBool
      if b then s.writeBack l.1 else s) s

/-- What a course keeps: its retired cores and its fence, and what its sensors show. -/
def Course.afterReset (c : Course) : Course :=
  { Course.idle with temp := c.temp, mv := c.mv, retired := c.retired, fence := c.fence }

/-- A core keeps its local store (R142). -/
def Core.afterReset (c : Core) : Core := { Core.idle with ls := c.ls, lsHusk := c.lsHusk }

/-- A function as a full reset leaves it: not ready, its enable kept unless the reset clears PCIe configuration, its DDR5
key epoch and energy elsewhere. -/
def Fn.afterFull (g : Fn) (pcie : Bool) (n : Nat) : Fn := { Fn.idle with enabled := n == 0 || (g.enabled && !pcie) }

/-- A full reset with its cause: 1 conventional, 2 CXL Reset, 3 FULLRESET, 4 power-on or loss. Boot starts again; it leaves
stage 1 once VIN_MAIN is stable, and never with TESTMODE = 1 (R444). -/
def State.fullReset (s : State) (cause : Nat) : State :=
  let s := (s.abandonLoad).settleLines
  let pcie := cause == 1 || cause == 4
  let go := s.pwr.mainStable && !s.pwr.testmode
  { s with
    grid := { Grid.reset with cores := s.grid.cores.map (fun c => (c.1, c.2.afterReset)) }
    courses := s.courses.map (fun c => (c.1, c.2.afterReset))
    mem := { Mem.reset with
      mem := s.mem.mem, hostCells := s.mem.hostCells, hostPoison := s.mem.hostPoison, stackGB := s.mem.stackGB }
    tab := { spars := [], ctxs := [], stamp := s.tab.stamp }
    fns := s.fns.map (fun f => (f.1, f.2.afterFull pcie f.1))
    engines := []
    fab := Fabric.reset
    truss := { Truss.reset with
      jcount := s.truss.jcount, journal := s.truss.journal, ownCourse := s.truss.ownCourse, ownUnit := s.truss.ownUnit
      ownWays := s.truss.ownWays, ownDdr := s.truss.ownDdr, unitsLost := s.truss.unitsLost }
    pwr := { PowerCtl.reset with
      edev := s.pwr.edev, ebase := s.pwr.ebase, stackTemp := s.pwr.stackTemp, islandTemp := s.pwr.islandTemp
      islandMv := s.pwr.islandMv, vinMV := s.pwr.vinMV, iinMA := s.pwr.iinMA, thermtrip := s.pwr.thermtrip
      mainStable := s.pwr.mainStable, aonUp := s.pwr.aonUp, clockUp := s.pwr.clockUp, testmode := s.pwr.testmode
      sris := s.pwr.sris, time := s.pwr.time, ddrSelfRefresh := true }
    boot := { Boot.reset with
      stage := if go then 1 else 0, idfail := s.pwr.testmode, halted := s.boot.halted, busMaster := s.boot.busMaster && !pcie
      svnAon := s.boot.svnAon, svnFlash := s.boot.svnFlash, rstCause := cause, bootStart := s.pwr.time, waitFrom := s.pwr.time
      epochAdv := s.boot.epochAdv, powerOns := s.boot.powerOns, seed := s.boot.seed, draws := s.boot.draws }
    spdm := Spdm.reset
    board := { Board.reset with
      aoCount := s.board.aoCount, aoStore := s.board.aoStore, tap := s.board.tap }
    secure := Secure.reset
    vfEnable := s.vfEnable && !pcie }

/-- A write of ID_DEVCTL by the PF. -/
def State.devCtl (s : State) (fn : Nat) (v : DWord) : State :=
  if fn = 0 ∧ v.getLsbD 0 ∧ v.extractLsb' 8 8 = 0xA5#8 then s.fullReset 3 else s

def execConventionalReset (s : State) : Host.Outcome State Fault Refusal := done .conventionalReset (s.fullReset 1)
def execCxlReset (s : State) : Host.Outcome State Fault Refusal := done .cxlReset (s.fullReset 2)

end Sys2Proof.Machine
end

