-- ==== Sys2Proof/Machine/BootEv.lean ====
section
/-! DEFINITION. Boot: the boot mailbox and DOE deliveries (R419 to R421), firmware verification (R422 to R424), the boot truss
image (R415, R418), training (R416, R417, R362), readiness, and the identity keys (R425). -/

namespace Sys2Proof.Machine

/-! ## Stages (R415, R416) -/

/-- Enter a stage. Time in the stages that wait for the host is not counted (R416). -/
def State.toStage (s : State) (n : Nat) : State :=
  let b := s.boot
  let waited := if b.stage = 1 ∨ b.stage = 3 then (s.pwr.time - b.waitFrom).toNat else 0
  { s with boot := { b with stage := n, waitFrom := s.pwr.time, waitTicks := b.waitTicks + waited } }

/-- Local time ticks, 40 ns each, as milliseconds. -/
def ticksMs (t : Nat) : Nat := t / 25000

/-! ## Deliveries (R418 to R421) -/

/-- Whether a delivery of a kind is due: firmware at STAGE 1, a truss image at STAGE 3; with TESTMODE = 1 never. -/
def State.due (s : State) (kind : Nat) : Bool :=
  !s.pwr.testmode && (decide (kind = 1 ∧ s.boot.stage = 1) || decide (kind = 2 ∧ s.boot.stage = 3))

def State.bootStatus (s : State) (st : Status) : State := { s with boot := { s.boot with status := st } }

/-- An object has arrived whole: the boot goes on to check it. -/
def State.delivered (s : State) (bs : List Byte) : State :=
  let s := if s.boot.stage = 1 then s.toStage 2 else s.toStage 4
  ({ s with boot := { s.boot with
      image := bs, doeBuf := [], doeTotal := []
      fwChan := if s.boot.stage = 2 then none else s.boot.fwChan, imgChan := if s.boot.stage = 2 then s.boot.imgChan else none } }).bootStatus statusOk

/-- Firmware is rejected: the ROM counts it, records it and waits again. -/
def State.fwReject (s : State) : State :=
  let s := (s.toStage 1).bootStatus bootFwRejected
  ({ s with boot := { s.boot with attempts := sat 8 (s.boot.attempts + 1), image := [] } }).record (Report.plain 0x0C bootFwRejected 0 [])

/-- A boot image is refused: the loader's registers and the journal show it, and the boot waits again. -/
def State.bootRefused (s : State) (r : Refused) (digest : BitVec 128) : State :=
  let s := ((s.toStage 3).loadRefused r digest).bootStatus r.status
  { s with boot := { s.boot with image := [] } }

/-- Word k of the boot mailbox. -/
def State.bootWord (s : State) (k : Nat) : Nat := (s.boot.words.getD k 0).toNat

/-- The MC takes a message of the boot mailbox once it may read host memory and its stage 1 is over. A poisoned object fails
its check at once (R359 for an image; DESIGN CHOICE for firmware). An object above 4 MiB fails its first check whatever
follows, so that no more of it is read. -/
def State.bootServe (s : State) : State :=
  if !s.boot.go ∨ !s.boot.busMaster ∨ s.boot.stage = 0 ∨ s.boot.halted then s
  else
    let kind := s.bootWord 0 % 256
    let a := s.bootWord 2 + s.bootWord 3 * 2 ^ 32
    let len := min (s.bootWord 4 + s.bootWord 5 * 2 ^ 32) 0x400001
    let chan := if kind = 1 then s.boot.fwChan else s.boot.imgChan
    let s := { s with boot := { s.boot with go := false } }
    if !s.due kind ∨ chan = some true then s.bootStatus hqCmdInvalid
    else match s.firstPoison a len with
      | some o => if kind = 1 then s.fwReject else s.bootRefused (poisonItem (s.hostRead a len) o) 0
      | none => s.delivered (s.hostRead a len)

/-- A write of MBS_BOOTCTL: SEND sets GO. -/
def State.bootCtl (s : State) (v : Word) : State :=
  if v.getLsbD 1 then ({ s with boot := { s.boot with go := true } }).bootServe else s

def execBootMailboxSend (v : Word) (s : State) : Host.Outcome State Fault Refusal := done (.bootMailboxSend v) (s.bootCtl v)

/-- A DOE response: one dword with the status. -/
def State.doeReply (s : State) (st : Status) : State := { s with boot := { s.boot with doeStatus := s.boot.doeStatus ++ [st] } }

/-- A refused chunk; a chunk that breaks the order of a delivery makes it start again. -/
def State.doeRefuse (s : State) (restart : Bool) : State :=
  let s := if restart then { s with boot := { s.boot with doeBuf := [], doeTotal := [] } } else s
  (s.bootStatus hqCmdInvalid).doeReply hqCmdInvalid

/-- DOE_BOOT_CHUNK: chunks in contiguous order with one total length. LAST must stand on the chunk that ends the object
(DESIGN CHOICE). -/
def State.doeChunk (s : State) (kind : Nat) (last : Bool) (off total : Nat) (data : List Byte) : State :=
  let b := s.boot
  if b.halted then s
  else if !s.due kind then s.doeRefuse false
  else
    let known := match b.doeTotal.get? kind with
      | some t => decide (t = total)
      | none => true
    let stop := off + data.length
    if off ≠ b.doeBuf.length ∨ !known ∨ 0x40000 < data.length ∨ total < stop ∨ (last ∧ stop ≠ total) then s.doeRefuse true
    else
      let s := { s with boot := { b with
        fwChan := if kind = 1 then some true else b.fwChan, imgChan := if kind = 2 then some true else b.imgChan } }
      let all := b.doeBuf ++ data
      if last then (s.delivered all).doeReply statusOk
      else ({ s with boot := { s.boot with doeBuf := all, doeTotal := [(kind, total)] } }).doeReply statusOk

def execDoeBootChunk (kind : Byte) (last : Bool) (off total : Word) (data : List Byte) (s : State) : Host.Outcome State Fault Refusal :=
  done (.doeBootChunk kind last off total data) (s.doeChunk kind.toNat last off.toNat total.toNat data)

/-! ## Firmware (R422 to R424) -/

/-- The checks of R423 of a firmware image on a device at stepping A1. -/
def fwOk (img : List Byte) (floor : Word) : Bool :=
  let man := img.take 128
  let body := leAt img 24 8
  let sel := leAt img 21 1
  let part (off len : Nat) : List Byte := (img.drop off).take len
  decide (128 ≤ img.length ∧ leAt img 0 4 = 0xAF07F1A0 ∧ leAt img 4 4 = 1 ∧ img.length = 0x4400 + body ∧ img.length ≤ 0x400000) &&
    decide (leAt img 20 1 ≤ 1) &&
    (decide (sel ≤ 1) && sha384 (part 0x80 384) == Config.romKeyDigest sel false && sha384 (part 0x204 48) == Config.romKeyDigest sel true) &&
    Config.rsaPssVerify (part 0x80 384) (part 0x200 4) (part 0x240 384) man &&
    Config.slhVerify (part 0x204 48) (part 0x3C0 16224) man &&
    sha384 (part 0x4400 body) == part 32 48 &&
    decide (floor.toNat ≤ leAt img 16 4)

/-- The SVN floor: the higher of its two copies. -/
def State.svnFloor (s : State) : Word := if s.boot.svnAon.toNat < s.boot.svnFlash.toNat then s.boot.svnFlash else s.boot.svnAon

/-- FIRMWARE_VERIFY: the ROM starts the image, having raised both copies of the floor, or rejects it. -/
def execFirmwareVerify (s : State) : Host.Outcome State Fault Refusal :=
  done .firmwareVerify (
    let img := s.boot.image
    if s.boot.stage ≠ 2 ∨ s.boot.halted then s
    else if fwOk img s.svnFloor then
      let svn := BitVec.ofNat 32 (leAt img 16 4)
      let up := decide (s.svnFloor.toNat < svn.toNat)
      let s := s.toStage 3
      let s := { s with boot := { s.boot with
        fw := some { fwver := BitVec.ofNat 64 (leAt img 8 8), svn := svn, digest := sha384 (img.take 128) }
        svnAon := if up then svn else s.boot.svnAon, svnFlash := if up then svn else s.boot.svnFlash, image := [] } }
      (s.bootStatus statusOk).bootServe
    else s.fwReject.bootServe)

/-! ## The boot image (R358, R415, R417) -/

/-- BOOT_IMAGE_APPLY: checks 1 to 6 and 8, and the apply. Check 7 follows training, and every slot is quiesced. -/
def execBootImageApply (s : State) : Host.Outcome State Fault Refusal :=
  done .bootImageApply (
    let bs := s.boot.image
    if s.boot.stage ≠ 4 ∨ s.boot.halted then s
    else match s.imgCheck bs none with
      | .error r => (s.bootRefused r (digest16 bs)).bootServe
      | .ok (es, img) => match s.spareCheck es img with
        | some r => (s.bootRefused r (digest16 bs)).bootServe
        | none =>
          let s := s.applyImage img
          let s := { s with truss := { s.truss with status := statusOk, fsect := 0, foff := 0, busy := false, pending := none } }
          let s := s.toStage 5
          ({ s with boot := { s.boot with image := [], bootImageDigest := sha384 bs } }).bootStatus statusOk)

/-! ## Training and readiness (R161, R362, R416) -/

/-- MEMORY_TRAINING_COMPLETE: what has been trained is known, check 7 holds back the slots that need more, and fabric
bring-up begins on every enabled port. -/
def execMemoryTrainingComplete (badUnits : List Nat) (channels : List (Nat × Nat)) (s : State) : Host.Outcome State Fault Refusal :=
  done (.memoryTrainingComplete badUnits channels) (
    if s.boot.stage ≠ 5 ∨ s.boot.halted then s
    else
      let caps : Map Nat := channels.foldl (fun (m : Map Nat) c => Map.put m c.1 c.2) []
      let s := { s with mem := { s.mem with badUnits := badUnits.foldl insSet [], chanCap := caps }, pwr := { s.pwr with ddrSelfRefresh := false } }
      let s := s.truss.parts.foldl (fun (s : State) p => s.updFn p.1 (fun g => { g with memShort := s.memShort p.2 })) s
      let s := (List.range 64).foldl (fun (s : State) p =>
        s.updPort p (fun x => if x.enable ∧ x.link = .down then x.setLink .training else x)) s
      s.toStage 6)

/-- FABRIC_BRINGUP_COMPLETE: the functions become ready, and the identity block shows the counted time. -/
def execFabricBringupComplete (s : State) : Host.Outcome State Fault Refusal :=
  done .fabricBringupComplete (
    if s.boot.stage ≠ 6 ∨ s.boot.halted then s
    else
      let s := s.toStage 7
      let total := (s.pwr.time - s.boot.bootStart).toNat
      let s := { s with boot := { s.boot with
        bootms := ticksMs (total - s.boot.waitTicks) % 65536, waitms := sat 16 (ticksMs s.boot.waitTicks) } }
      (List.range 64).foldl (fun (s : State) n => s.becomeReady n) s)

/-! ## Identity (R425) -/

/-- IDENTITY_KEYS_READY: the derivation ends. Where it fails there is no identity, and the DDR5 key seed is a new random one. -/
def execIdentityKeysReady (ok : Bool) (s : State) : Host.Outcome State Fault Refusal :=
  done (.identityKeysReady ok) (
    if s.pwr.testmode ∨ s.boot.keysReady ∨ s.boot.idfail then s
    else if ok then { s with boot := { s.boot with keysReady := true, seed := 0 } }
    else { s with boot := { s.boot with idfail := true, draws := s.boot.draws + 1, seed := s.boot.draws + 1 } })

end Sys2Proof.Machine
end

