-- ==== Sys2Proof/Machine/PowerEv.lean ====
section
/-! DEFINITION. Power states and pacing of courses (R397 to R402), the cap (R403 to R406), limits that override it (R407 to
R409), energy (R410, R411), the board stage (R413), supplies and clock (R439, R441), stack temperatures (R446, R447). -/

namespace Sys2Proof.Machine

/-! ## Course states (R397 to R399) -/

/-- Whether a gang of a course fires or holds feeds or drains. -/
def Gang.works (g : Gang) : Bool :=
  !g.edge.isEmpty || !g.drains.isEmpty || g.held || g.rows.any (fun r => !r.2.isEmpty) || g.cols.any (fun r => !r.2.isEmpty) ||
    g.cells.any (fun c => !c.2.aq.isEmpty || !c.2.bq.isEmpty)

/-- Whether a course has nothing to do: no sheaf in a slot, no gang at work. -/
def State.courseIdle (s : State) (c : Nat) : Bool :=
  !s.grid.cores.any (fun x => courseOfCore x.1 == c && !x.2.slots.isEmpty) &&
    !s.grid.gangs.any (fun g => courseOfCore g.1 == c && g.2.works)

/-- COURSE_STANDBY: after PWR_IDLE.STBY idle cycles a running course stops its clock. -/
def execCourseStandby (course : Nat) (s : State) : Host.Outcome State Fault Refusal :=
  doneIf (decide (course < 1024))
    (if (s.course course).power = .run ∧ s.courseIdle course then s.updCourse course (fun c => { c with power := .standby }) else s)

/-- Near-core caches of a course are invalidated without write-back, and its gangs' cells hold zero. -/
def State.blankCourse (s : State) (c : Nat) : State :=
  { s with grid := { s.grid with
      cores := s.grid.cores.map (fun x => if courseOfCore x.1 = c then (x.1, { x.2 with lines := [] }) else x)
      gangs := s.grid.gangs.filter (fun g => courseOfCore g.1 != c) } }

/-- COURSE_OFF: a course that has stood in STANDBY for OFFDLY ms without a bound gang gates its rails; OFFDLY 0 never does. -/
def execCourseOff (course : Nat) (s : State) : Host.Outcome State Fault Refusal :=
  doneIf (decide (course < 1024))
    (let c := s.course course
     if c.power ≠ .standby ∨ c.waking ∨ s.pwr.offdly = 0 ∨ s.grid.gangs.any (fun g => courseOfCore g.1 == course && g.2.ctx.isSome) then s
     else (s.blankCourse course).updCourse course (fun c => { c with power := .off }))

/-- COURSE_WAKE_COMPLETE: a woken course runs; its sampler takes the local time, 0 counting as 1 (R377; DESIGN CHOICE). -/
def execCourseWakeComplete (course : Nat) (s : State) : Host.Outcome State Fault Refusal :=
  doneIf (decide (course < 1024))
    (let c := s.course course
     if c.waking ∧ (c.power = .standby ∨ c.power = .off) then
       s.updCourse course (fun c => { c with power := .run, waking := false, sampler := if s.pwr.time = 0 then 1 else s.pwr.time })
     else s)

/-! ## Start pacing (R400) -/

/-- Admit starts from the head of a queue while the credit suffices: what is left of the credit, those admitted, the rest. -/
def admitted : Nat → List Start → Nat × List Start × List Start
  | cr, [] => (cr, [], [])
  | cr, x :: xs =>
    if x.cores ≤ cr then
      let (c, a, r) := admitted (cr - x.cores) xs
      (c, x :: a, r)
    else (cr, [], x :: xs)

/-- ADMIT and INT of the POWER section (R351). -/
def State.admitOf (s : State) : Nat := field s.pwr.mode.toNat 47 32
def State.intOf (s : State) : Nat := field s.pwr.mode.toNat 63 48

/-- A start leaves the queue: its gang fires, and its wait counts in PWR_PACE. Where it came to a queue in use, the part of
its first interval that it waited is open. -/
def State.startGang (s : State) (x : Start) : State :=
  let (w, s) := if x.first then ((0 : Word), s) else s.drawWord
  let part := if s.intOf = 0 then 0 else w.toNat % s.intOf
  let wait := x.age * s.intOf - part
  let s := s.updGang x.gang (fun g => { g with held := false })
  match s.ownerOfCourse (courseOfCore x.gang) with
  | some n => s.updFn n (fun g => { g with paceWaits := sat 32 (g.paceWaits + 1), paceMax := max g.paceMax (sat 32 wait) })
  | none => s

/-- PACING_INTERVAL: the timer of a course reaches INT: credit for the waiting starts, and those that it covers fire. -/
def execPacingInterval (course : Nat) (s : State) : Host.Outcome State Fault Refusal :=
  doneIf (decide (course < 1024))
    (let c := s.course course
     if c.power ≠ .run ∨ c.queue.isEmpty then s
     else
       let (cr, go, rest) := admitted (c.credit + s.admitOf) (c.queue.map (fun (x : Start) => { x with age := x.age + 1 }))
       let s := s.updCourse course (fun c => { c with queue := rest, credit := if rest.isEmpty then 0 else cr })
       go.foldl (fun s x => s.startGang x) s)

/-! ## Budget and grants (R403 to R406) -/

/-- The budget of R404 in milliwatts: a cap in milliwatts, the most that one millisecond may draw, the window in
milliseconds, and the energies of the past milliseconds in microjoules, newest first. Milliseconds before the first count
as 0 (DESIGN CHOICE). -/
def budget (top cap window : Nat) (past : List Nat) : Int :=
  let w : Nat := (past.take window).foldl (· + ·) 0
  let e : Nat := (past.take (window - 1)).foldl (· + ·) 0
  min (top : Int) (min (2 * (cap : Int) - ((w / window : Nat) : Int)) ((cap : Int) * (window : Int) - (e : Int)))

/-- Divide a budget among three demands in an order of claimants: 0 compute, 1 memory, 2 links. -/
def grants (b : Nat) (order : List Nat) (d : List Nat) : List Nat :=
  (order.foldl (fun (acc : Nat × List Nat) k =>
    let g := min acc.1 (d.getD k 0)
    (acc.1 - g, acc.2.set k g)) (b, [0, 0, 0])).2

/-- A rate in percent of full rate, never below 25. -/
def ratePct (grant demand : Nat) : Nat := if demand ≤ grant then 100 else max 25 (100 * grant / demand)

/-- The claimants' order of the POWER section. -/
def State.claimOrder (s : State) : List Nat :=
  [field s.pwr.mode.toNat 9 8, field s.pwr.mode.toNat 11 10, field s.pwr.mode.toNat 13 12]

/-- Share a compute grant: partitions in descending priority, equals in proportion to their demand. -/
def shareCompute (b : Nat) (l : List (Nat × Nat × Nat)) : List (Nat × Nat) :=
  ((List.range 8).reverse.foldl (fun (acc : Nat × List (Nat × Nat)) p =>
    let mine := l.filter (fun x => min x.2.1 7 == p)
    let d := (mine.map (·.2.2)).foldl (· + ·) 0
    let give (x : Nat × Nat × Nat) : Nat := if d ≤ acc.1 then x.2.2 else acc.1 * x.2.2 / d
    (acc.1 - min acc.1 d, acc.2 ++ mine.map (fun x => (x.1, give x)))) (b, [])).2

/-- What a partition is granted: compute in milliwatts, memory and links in percent, and whether it is short of its demand. -/
structure Grant where
  slot : Nat
  compute : Nat
  memory : Nat
  links : Nat
  short : Bool
deriving DecidableEq, Repr

/-- Grants of the priority mode (R405). -/
def State.priorityGrants (s : State) (b : Nat) (d : List (Nat × Nat × Nat × Nat)) : List Grant :=
  let total (f : Nat × Nat × Nat × Nat → Nat) : Nat := (d.map f).foldl (· + ·) 0
  let dc := total (fun x => x.2.1)
  let dm := total (fun x => x.2.2.1)
  let dl := total (fun x => x.2.2.2)
  let g := grants b s.claimOrder [dc, dm, dl]
  let shares := shareCompute (g.getD 0 0) (d.map (fun x => (x.1, (match s.part x.1 with | some p => p.power | none => 0), x.2.1)))
  let m := ratePct (g.getD 1 0) dm
  let l := ratePct (g.getD 2 0) dl
  d.map (fun x =>
    let c := ((shares.find? (fun y => y.1 == x.1)).map (·.2)).getD 0
    { slot := x.1, compute := c, memory := m, links := l
      short := decide (c < x.2.1) || (m != 100 && x.2.2.1 != 0) || (l != 100 && x.2.2.2 != 0) })

/-- Grants of the fixed-share mode: each partition on its own ledger, the 600 W reserve apart (R406). -/
def State.fixedGrants (s : State) (d : List (Nat × Nat × Nat × Nat)) : List Grant :=
  d.map (fun x =>
    let sigma := match s.part x.1 with
      | some p => p.power
      | none => 0
    let b := (budget (12000000 * sigma / 1024) ((s.pwr.cap - 600) * 1000 * sigma / 1024) s.pwr.window
      ((s.fn x.1).phist.map (· * 1000))).toNat
    let g := grants b s.claimOrder [x.2.1, x.2.2.1, x.2.2.2]
    { slot := x.1, compute := g.getD 0 0, memory := ratePct (g.getD 1 0) x.2.2.1, links := ratePct (g.getD 2 0) x.2.2.2
      short := decide (g.getD 0 0 < x.2.1) || decide (g.getD 1 0 < x.2.2.1) || decide (g.getD 2 0 < x.2.2.2) })

/-- Whether the throttle of R408 is in force, for the delivery limit, the supply or the board stage. -/
def PowerCtl.throttled (p : PowerCtl) : Bool := p.delivery || p.supply || p.pmFault

/-- Every course's step follows the controller's, its heat limit, and the throttle. -/
def State.setSteps (s : State) : State :=
  { s with courses := s.courses.map (fun c =>
      (c.1, { c.2 with step := if s.pwr.throttled then 5 else max 5 (min c.2.grant c.2.heat) })) }

/-- One millisecond of the throttle by temperature (R407): down above TTHR, up below TTHR - 3. -/
def Course.warm (c : Course) (tthr : Nat) : Course :=
  if c.power ≠ .run then c
  else if (16 * tthr : Int) < c.temp then { c with heat := max 5 (min c.heat c.grant - 1) }
  else if c.temp < 16 * ((tthr : Int) - 3) then { c with heat := if c.grant ≤ c.heat + 1 then 20 else c.heat + 1 }
  else c

/-- A grant takes effect: one clock step for every course of the partition, the rates, and PWR_STAT.CAP. -/
def State.applyGrant (s : State) (g : Grant) (low : Bool) : State :=
  match s.part g.slot with
  | none => s
  | some p =>
    let step := if low then 5 else max 5 (min 20 (Config.stepFor g.slot g.compute))
    let s := p.courses.foldl (fun (s : State) c => s.updCourse c (fun x => { x with grant := step })) s
    let s := { s with pwr := { s.pwr with
      memRate := s.pwr.memRate.put g.slot (if low then 25 else g.memory), linkRate := s.pwr.linkRate.put g.slot (if low then 25 else g.links) } }
    s.updFn g.slot (fun f => { f with capped := low || g.short })

/-- The sensors' residency: the part of the last averaging window that a course was seen in RUN. -/
def State.countRes (s : State) : State :=
  let full := decide (s.pwr.window ≤ s.pwr.winMs + 1)
  { s with
    pwr := { s.pwr with winMs := if full then 0 else s.pwr.winMs + 1 }
    courses := s.courses.map (fun c =>
      let r := c.2.runMs + (if c.2.power = .run then 1 else 0)
      (c.1, if full then { c.2 with res := min 65535 (65536 * r / (s.pwr.winMs + 1)), runMs := 0 } else { c.2 with runMs := r })) }

/-- Each partition's energy of the last millisecond, in millijoules, which is its average in watts. -/
def State.countParts (s : State) : State :=
  { s with fns := s.fns.map (fun f =>
      let e := f.2.epart - f.2.elast
      (f.1, { f.2 with ppart := sat 16 e, elast := f.2.epart, phist := (e :: f.2.phist).take 60000 })) }

/-- POWER_BUDGET_TICK, every 1 ms: the energy measured, in microjoules; each partition's demand for compute, memory and
links, in milliwatts at full rate; the island's temperature and voltage. A cap written since acts from now on. -/
def State.budgetTick (s : State) (energy : Nat) (demand : List (Nat × Nat × Nat)) (island : Int × Nat) : State :=
  let p := s.pwr
  let (cap, window) := p.capNext.getD (p.cap, p.window)
  let past := (energy :: p.history).take 60000
  let b := budget 12000000 (1000 * cap) window past
  let low := decide (b < (Config.minDraw : Int)) && !p.mode.getLsbD 0
  let s := { s with pwr := { p with
    cap := cap, window := window, capNext := none, history := past, budget := b, minimums := low
    p1ms := sat 16 (energy / 1000), pwin := sat 16 ((past.take window).foldl (· + ·) 0 / window / 1000)
    islandTemp := island.1, islandMv := island.2 } }
  let s := s.countParts.countRes
  let slots := s.truss.parts.map (·.1)
  let d : List (Nat × Nat × Nat × Nat) := slots.map (fun n => (n, demand.getD n (0, 0, 0)))
  let gs := if s.pwr.mode.getLsbD 0 then s.fixedGrants d else s.priorityGrants b.toNat d
  let s := gs.foldl (fun (s : State) g => s.applyGrant g low) s
  ({ s with courses := s.courses.map (fun (c : Nat × Course) => (c.1, c.2.warm s.pwr.tthr)) }).setSteps

def execPowerBudgetTick (energyUJ : Nat) (demand : List (Nat × Nat × Nat)) (island : Int × Nat) (s : State) : Host.Outcome State Fault Refusal :=
  .next (s.budgetTick energyUJ demand island)

/-! ## Heat (R407, R446, R447) -/

/-- Contexts with work on a course. -/
def State.ctxsOnCourse (s : State) (c : Nat) : List Nat :=
  ((s.grid.cores.filter (fun x => courseOfCore x.1 == c)).flatMap (fun x => x.2.slots.map (fun y => y.2.ctx)) ++
    (s.grid.gangs.filter (fun g => courseOfCore g.1 == c)).filterMap (fun g => g.2.ctx)).eraseDups

/-- Abort the contexts with work on a course. -/
def State.abortCourse (s : State) (c : Nat) (st : Status) : State :=
  (s.ctxsOnCourse c).foldl (fun s n =>
    s.faultCtx n { Report.plain 0x0D st 0 [] with ctx := some n, fn := (s.ctx n).fn, course := some c } none) s

/-- THERMTRIP_N goes low; a boot under way then stands still. -/
def State.thermtrip (s : State) : State :=
  { s with pwr := { s.pwr with thermtrip := true }
           boot := { s.boot with halted := s.boot.halted || (!s.pwr.thermtrip && s.boot.stage != 7) } }

def State.powerRecord (s : State) (st : Status) (course : Option Nat) : State :=
  s.record { Report.plain 0x0D st 0 [] with course := course }

/-- TEMPERATURE_SAMPLE of a course, in 1/16 °C, with its voltage: trip at TTRIP, release below TTHR - 5. -/
def State.tempSample (s : State) (c : Nat) (temp : Int) (mv : Nat) : State :=
  let s := s.updCourse c (fun x => { x with temp := temp, mv := mv })
  let s := if 2000 ≤ temp then s.thermtrip else s
  let x := s.course c
  if (x.power = .run ∨ x.power = .standby) ∧ (16 * s.pwr.ttrip : Int) ≤ temp then
    (s.updCourse c (fun x => { x with power := .tripped })).powerRecord pwrThermalTrip (some c)
  else if x.power = .tripped ∧ temp < 16 * ((s.pwr.tthr : Int) - 5) then
    s.updCourse c (fun x => { x with power := .standby, waking := true, heat := 5, step := 5 })
  else s

def execTemperatureSample (course : Nat) (temp : Int) (mv : Nat) (s : State) : Host.Outcome State Fault Refusal :=
  doneIf (decide (course < 1024)) (s.tempSample course temp mv)

/-- THERMAL_TRIP_TIMEOUT: a course still TRIPPED 1 s after the trip. -/
def execThermalTripTimeout (course : Nat) (s : State) : Host.Outcome State Fault Refusal :=
  doneIf (decide (course < 1024)) (if (s.course course).power = .tripped then s.abortCourse course pwrThermalTrip else s)

/-- HBM_STACK_TEMPERATURE in 1/16 °C: refresh doubles above 85 °C, the issue rate falls from 100 to below 95 °C. -/
def execHbmStackTemperature (stack : Nat) (temp : Int) (s : State) : Host.Outcome State Fault Refusal :=
  doneIf (decide (stack < 32))
    (let slow := s.pwr.stackSlow.contains stack
     let s := { s with pwr := { s.pwr with
       stackTemp := s.pwr.stackTemp.put stack temp
       stackRefresh := if 1360 < temp then insSet s.pwr.stackRefresh stack else delSet s.pwr.stackRefresh stack
       stackSlow := if 1600 ≤ temp then insSet s.pwr.stackSlow stack
                    else if temp < 1520 then delSet s.pwr.stackSlow stack else s.pwr.stackSlow } }
     let s := if 1600 ≤ temp ∧ !slow then s.record (Report.plain 0x06 pwrThermalTrip (32 * stack) []) else s
     if 2000 ≤ temp then s.thermtrip else s)

/-! ## Delivery and supply (R408, R409, R413) -/

/-- DELIVERY_SENSE, every 10 µs: power over the last 100 µs, current over the last 10 µs, and VIN_MAIN. -/
def execDeliverySense (powerW currentMA vinMV : Nat) (s : State) : Host.Outcome State Fault Refusal :=
  .next
    (let s := { s with pwr := { s.pwr with vinMV := vinMV, iinMA := currentMA } }
     if (13500 < powerW ∨ 1200000 < currentMA) ∧ !s.pwr.delivery then
       ({ s with pwr := { s.pwr with delivery := true } }.setSteps).powerRecord pwrDeliveryLimit none
     else s)

def execDeliveryThrottleEnd (s : State) : Host.Outcome State Fault Refusal :=
  done .deliveryThrottleEnd ({ s with pwr := { s.pwr with delivery := false } }.setSteps)

/-- COURSE_SUPPLY_FAULT: the rails of a course go off, nothing of it is kept, and its tracts are fenced. -/
def State.supplyFault (s : State) (c : Nat) : State :=
  if (s.course c).power = .fault then s
  else
    let s := (s.powerRecord pwrSupplyFault (some c)).abortCourse c pwrSupplyFault
    let tracts := ((List.range 16).map (fun t => 16 * c + t)).filter (fun t => !s.fenced t)
    let s := tracts.foldl (fun (s : State) t => s.fenceTract ((s.ownerOfCourse c).getD 0) t (coreInTract t 0 0) pwrSupplyFault) s
    let mine := (s.grid.cores.filter (fun x => courseOfCore x.1 == c)).flatMap (fun x => x.2.slots.map (fun y => (x.1, y.1)))
    let s := mine.foldl (fun (s : State) x => s.dropSheaf x.1 x.2) s
    let s := { s with grid := { s.grid with
      cores := s.grid.cores.filter (fun x => courseOfCore x.1 != c), gangs := s.grid.gangs.filter (fun g => courseOfCore g.1 != c) } }
    s.updCourse c (fun x => { x with power := .fault, waking := false, queue := [], credit := 0 })

def execCourseSupplyFault (course : Nat) (s : State) : Host.Outcome State Fault Refusal :=
  doneIf (decide (course < 1024)) (s.supplyFault course)

/-- VIN_MAIN_OUT_OF_LIMITS for 100 µs, at or above 10.8 V: the supply throttle, and one record. -/
def execVinMainOutOfLimits (mv : Nat) (s : State) : Host.Outcome State Fault Refusal :=
  .next
    (let s := { s with pwr := { s.pwr with vinMV := mv } }
     if mv < 10800 ∨ (11400 ≤ mv ∧ mv ≤ 12600) then s
     else
       let was := s.pwr.supply
       let s := { s with pwr := { s.pwr with supply := true, mainStable := false } }.setSteps
       if was then s else s.powerRecord pwrSupplyFault none)

/-- VIN_MAIN_RETURNS_WITHIN_LIMITS: the supply throttle ends. -/
def execVinMainReturnsWithinLimits (mv : Nat) (s : State) : Host.Outcome State Fault Refusal :=
  .next
    (let s := { s with pwr := { s.pwr with vinMV := mv } }
     if 11400 ≤ mv ∧ mv ≤ 12600 then { s with pwr := { s.pwr with supply := false } }.setSteps else s)

/-- Whether a STATUS_WORD has a VOUT, IOUT, INPUT or TEMPERATURE bit set: bits 15, 14, 13 and 2 of PMBus 1.3 (PRESUMED). -/
def pmbusFault (status : BitVec 16) : Bool := status &&& 0xE004 != 0

/-- PMBUS_POLL, every 1 ms: a thousand readings in a row that differ by more than 5 % from the sense leave one record; a
fault status throttles while it stands, with one record at its start. -/
def State.pmbusPoll (s : State) (answers : Bool) (vin iin : Nat) (status : BitVec 16) : State :=
  if !answers then { s with pwr := { s.pwr with pmbusBad := 0, pmbusLogged := false, pmFault := false } }.setSteps
  else
    let stage := vin * iin / 1000000
    let far := decide (5 * s.pwr.p1ms < 100 * (stage - s.pwr.p1ms) ∨ 5 * s.pwr.p1ms < 100 * (s.pwr.p1ms - stage))
    let bad := if far then s.pwr.pmbusBad + 1 else 0
    let log := decide (1000 ≤ bad) && !s.pwr.pmbusLogged
    let fault := pmbusFault status
    let onset := fault && !s.pwr.pmFault
    let s := { s with pwr := { s.pwr with
      pmbusBad := min bad 1000, pmbusLogged := far && (s.pwr.pmbusLogged || log), pmFault := fault } }.setSteps
    let s := if log then s.powerRecord pwrSupplyFault none else s
    if onset then s.powerRecord pwrSupplyFault none else s

def execPmbusPoll (answers : Bool) (vinMV iinMA : Nat) (status : BitVec 16) (s : State) : Host.Outcome State Fault Refusal :=
  .next (s.pmbusPoll answers vinMV iinMA status)

/-! ## Energy (R410, R411) -/

/-- Charge a partition, and the device. -/
def State.chargePart (s : State) (fn e : Nat) : State :=
  ({ s with pwr := { s.pwr with edev := s.pwr.edev + e } }).updFn fn (fun g => { g with epart := g.epart + e })

def State.chargeBase (s : State) (e : Nat) : State :=
  { s with pwr := { s.pwr with edev := s.pwr.edev + e, ebase := s.pwr.ebase + e } }

/-- Charge a context, its job and its partition; a number that is FREE has no ledger, so the base takes it. -/
def State.chargeCtx (s : State) (ctx e : Nat) : State :=
  if (s.ctx ctx).st = .free then s.chargeBase e
  else
    let fn := (s.ctx ctx).fn
    let s := s.updCtx ctx (fun c => { c with energy := c.energy + e })
    let s := match (s.ctx ctx).jobsl with
      | some j => s.updJob fn j (fun b => { b with energy := b.energy + e })
      | none => s
    s.chargePart fn e

/-- Charge a job with the work of its gutter slots, engines and streams. -/
def State.chargeJob (s : State) (fn j e : Nat) : State :=
  if (s.job fn j).isNone then s.chargeBase e
  else (s.updJob fn j (fun b => { b with energy := b.energy + e })).chargePart fn e

/-- ENERGY_SAMPLE, every 10 µs, in millijoules: contexts, jobs beyond their contexts, partitions' idle parts, and the rest. -/
def execEnergySample (contexts : List (Nat × Nat)) (jobs : List (Nat × Nat × Nat)) (idle : List (Nat × Nat)) (base : Nat) (s : State) :
    Host.Outcome State Fault Refusal :=
  .next
    (let s := contexts.foldl (fun (s : State) x => s.chargeCtx x.1 x.2) s
     let s := jobs.foldl (fun (s : State) x => s.chargeJob x.1 x.2.1 x.2.2) s
     let s := idle.foldl (fun (s : State) x => if (s.part x.1).isSome then s.chargePart x.1 x.2 else s.chargeBase x.2) s
     s.chargeBase base)

/-- CONTEXT_ENERGY_WRITEBACK of a resident context. -/
def execContextEnergyWriteback (ctx : Nat) (s : State) : Host.Outcome State Fault Refusal :=
  doneIf (decide (ctx < coreCount)) (if (s.ctx ctx).resident then s.saveCtx ctx else s)

/-! ## Supplies and clock (R439, R441, R444) -/

/-- VIN_MAIN_LOSS: DDR5 goes into self-refresh and the device resets with cause 4; HBM and local stores are lost. Whether
the board keeps the DIMMs powered is open. -/
def State.mainLoss (s : State) : State :=
  let s := ({ s with pwr := { s.pwr with mainStable := false, vinMV := 0, iinMA := 0 } }).fullReset 4
  let (kept, s) := s.drawBool
  let m := s.mem.mem
  { s with
    grid := { s.grid with cores := [] }
    mem := { s.mem with mem := {
      cells := m.cells.filter (fun c => isDdr c.1 && kept), husks := m.husks.filter (fun w => isDdr (16 * w) && kept)
      metas := if kept then m.metas else [] } }
    truss := { s.truss with unitsLost := true } }

def execVinMainLoss (s : State) : Host.Outcome State Fault Refusal := done .vinMainLoss s.mainLoss

/-- VIN_MAIN_STABLE: within limits for 1 ms; with PERST_N high boot leaves its first stage, unless TESTMODE = 1. -/
def execVinMainStable (perst : Bool) (s : State) : Host.Outcome State Fault Refusal :=
  .next
    (if !s.pwr.aonUp then s
     else
       let s := { s with pwr := { s.pwr with mainStable := true } }
       if perst ∧ s.boot.stage = 0 ∧ !s.pwr.testmode ∧ s.pwr.clockUp ∧ !s.boot.halted then (s.toStage 1).bootServe else s)

/-- VIN_AON_APPLIED: the always-on island starts as at State.reset, with the strap pins sampled. The serial flash and the
contents of memory and local stores stay; with TESTMODE = 1 the key epochs stay as they are. -/
def State.aonApply (s : State) (testmode sris : Bool) : State :=
  if s.pwr.aonUp then s
  else
    let r := State.reset
    { r with
      pending := s.pending
      grid := { r.grid with cores := s.grid.cores.map (fun c => (c.1, c.2.afterReset)) }
      mem := { r.mem with mem := s.mem.mem, hostCells := s.mem.hostCells, hostPoison := s.mem.hostPoison, stackGB := s.mem.stackGB }
      pwr := { r.pwr with testmode := testmode, sris := sris }
      boot := { r.boot with
        idfail := testmode, svnFlash := s.boot.svnFlash, draws := s.boot.draws
        powerOns := if testmode then s.boot.powerOns else s.boot.powerOns + 1, epochAdv := if testmode then s.boot.epochAdv else [] }
      free := s.free }

def execVinAonApplied (testmode sris : Bool) (s : State) : Host.Outcome State Fault Refusal :=
  .next (s.aonApply testmode sris)

/-- VIN_AON_LOSS: every course stops and the device is dead until VIN_AON returns. -/
def execVinAonLoss (s : State) : Host.Outcome State Fault Refusal :=
  done .vinAonLoss
    (if !s.pwr.aonUp then s
     else
       let s := ({ s with pwr := { s.pwr with mainStable := false } }).fullReset 4
       { s with pwr := { s.pwr with aonUp := false } })

/-- CLOCK_STOP for more than 10 µs: courses stop, DDR5 is held in self-refresh, THERMTRIP_N goes low, the counter freezes. No
function answers without clocks (DESIGN CHOICE). -/
def execClockStop (s : State) : Host.Outcome State Fault Refusal :=
  done .clockStop
    (if !s.pwr.clockUp then s
     else
       let s := s.thermtrip
       { s with
         pwr := { s.pwr with clockUp := false, ddrSelfRefresh := true }
         courses := s.courses.map (fun c => (c.1, { c.2 with power := if c.2.power = .run then .standby else c.2.power, waking := false }))
         fns := s.fns.map (fun f => (f.1, { f.2 with ready := false })) })

/-- CLOCK_RETURN: a full reset with cause 4; the counter goes on from its frozen value. -/
def execClockReturn (s : State) : Host.Outcome State Fault Refusal :=
  done .clockReturn (if s.pwr.clockUp then s else ({ s with pwr := { s.pwr with clockUp := true } }).fullReset 4)

end Sys2Proof.Machine
end

