-- ==== Sys2Proof/Machine/RegRead.lean ====
section
/-! DEFINITION. What the registers of BAR0 read (R5, R7, R307), block by block. A register's WO and reserved fields read 0,
and an offset without a register reads 0. -/

namespace Sys2Proof.Machine

/-- Fields of a register from their positions and values. -/
def pack (l : List (Nat × Nat)) : Nat := l.foldl (fun n x => n + x.2 * 2 ^ x.1) 0

def flag (b : Bool) : Nat := if b then 1 else 0

/-- The element of an array of registers that an offset names: base, stride, count. -/
def slotAt (off base stride count : Nat) : Option Nat :=
  if base ≤ off ∧ off < base + stride * count ∧ (off - base) % stride = 0 then some ((off - base) / stride) else none

/-! ## Identity (R308, R432) -/

/-- ID_FNCTL of a function. -/
def Fn.ctlReg (g : Fn) : Nat :=
  pack [(32, g.tearus), (5, flag g.erasing), (4, flag g.wedged), (3, flag g.enlatch), (2, flag g.tearing), (1, flag g.enabled), (0, flag g.ready)]

/-- E(n): the random start of its power-on, and the advances since (R431). -/
def State.keyEpoch (s : State) (n : Nat) : DWord := Config.epochBase s.boot.powerOns n + BitVec.ofNat 64 (s.boot.epochAdv.getD n 0)

def State.readIdPf (s : State) (off : Nat) : Nat :=
  match slotAt off 0x100 8 64, slotAt off 0x400 8 64 with
  | some n, _ => (s.fn n).ctlReg
  | none, some n => (s.keyEpoch n).toNat
  | none, none =>
    if off = 0x28 then pack [(48, s.boot.attempts), (32, s.boot.waitms), (0, s.boot.bootms)]
    else if off = 0x30 then s.svnFloor.toNat
    else if off = 0x40 then pack [(16, s.boot.rstCause)]
    else 0

def State.readId (s : State) (fn off : Nat) : Nat :=
  let p := s.part fn
  if off = 0 then idVersion
  else if off = 8 then
    pack [(32, (p.map (·.qcount)).getD 0), (16, flag ((p.map (·.courses.isEmpty)).getD true)), (0, fn)]
  else if off = 0x10 then s.idHbm
  else if off = 0x20 then
    (match s.boot.fw with
     | some f => pack [(32, f.svn.toNat), (0, f.fwver.toNat % 2 ^ 32)]
     | none => 0)
  else if fn = 0 then s.readIdPf off
  else 0

/-! ## Mailboxes (R319, R321) -/

/-- A 32-bit register of a channel. -/
def Mbx.reg (m : Mbx) (o : Nat) : Nat :=
  match slotAt o 0 4 16, slotAt o 0x80 4 16 with
  | some k, _ => (m.out.getD k 0).toNat
  | none, some k => (m.inw.getD k 0).toNat
  | none, none =>
    if o = 0x40 then flag m.outGo
    else if o = 0xC0 then flag m.inGo
    else if o = 0xC8 then pack [(2, flag m.ien), (0, m.opened.toNat)]
    else 0

/-- The channel of an offset of the two mailbox blocks. -/
def chanAt (off : Nat) : Nat := if off < 0x20000 then (off - 0x10000) / 0x100 else 24 + (off - 0x20000) / 0x100

def State.readMbx (s : State) (fn off : Nat) : Nat :=
  if off < 0x20000 then (if chanAt off < 24 then (s.chan fn (chanAt off)).reg (off % 0x100) else 0)
  else if fn = 0 ∧ s.secure.claimed ∧ off < 0x20800 then (s.chan fn (chanAt off)).reg (off % 0x100)
  else 0

def State.readClaim (s : State) : Nat :=
  pack [(48, s.secure.deny), (17, flag s.secure.ide), (16, flag s.secure.claimed), (0, s.secure.rid.toNat)]

/-! ## Queues (R310) -/

def Queue.reg (q : Queue) (o : Nat) : Nat :=
  match o with
  | 0x00 => q.sqbase.toNat
  | 0x08 => q.cqbase.toNat
  | 0x10 => q.ctl.toNat
  | 0x18 => q.mod.toNat
  | 0x20 => pack [(48, q.status.toNat), (47, flag q.err), (46, flag q.run), (16, q.sqhead), (0, q.cqtail)]
  | _ => 0

def State.readQueue (s : State) (fn off : Nat) : Nat :=
  let q := (off - 0x200000) / 64
  if s.hasQueue fn q then (s.queue fn q).reg (off % 64) else 0

/-! ## Contexts and objects, gang shapes, hoard (R60, R185, R347) -/

/-- CTX_INFO of the selected context. -/
def State.ctxInfo (s : State) (n : Nat) : Nat :=
  let c := s.ctx n
  pack [(48, c.fault.toNat), (32, sat 16 ((s.slotsWhere (fun sl => sl.ctx == n)).length + c.saved.length)),
    (24, sat 8 (s.grid.gangs.filter (fun g => g.2.ctx == some n)).length), (16, c.jobsl.getD 31), (8, flag c.resident), (0, c.st.code)]

def State.readCtx (s : State) (fn off : Nat) : Nat :=
  match s.part fn with
  | none => 0
  | some p =>
    let g := s.fn fn
    let n := g.ctxSel.toNat
    match off with
    | 0x400000 => pack [(32, p.ctxCount), (20, p.rshare), (0, p.ctxBase)]
    | 0x400008 => n
    | 0x400010 => if s.ownCtx fn n then s.ctxInfo n else 0
    | 0x400020 => pack [(48, g.killStatus.toNat), (47, flag g.killBusy.isSome)]
    | 0x400028 => pack [(48, g.waits), (32, g.pageins), (0, (s.residents fn).length)]
    | 0x401000 => pack [(40, g.objTab.live), (16, g.objTab.retired.length)]
    | 0x401008 => pack [(32, s.heapFree fn true p.ddrHeap.2 / 65536), (0, s.heapFree fn false p.hbmHeap.2 / 65536)]
    | _ => 0

/-- GNG_SHAPE of the j-th tract of a partition. -/
def State.readShape (s : State) (fn j : Nat) : Nat :=
  match (s.part fn).bind (fun p => p.tracts[j]?) with
  | some t => pack [(32, flag (s.fenced t)), (0, (s.grid.shapes.getD t 0).toNat)]
  | none => 0

/-- The entries of the job that HRD_STATE names. -/
def Hoard.mine (h : Hoard) : List HEntry := h.entries.filter (fun e => e.job == h.job)

/-- The highest block id that a predicate holds of; 0xFFFF for none. -/
def highest (l : List HEntry) (p : HEntry → Bool) : Nat :=
  ((l.filter p).foldl (fun (b : Option Nat) e => match b with
    | none => some e.block
    | some x => some (max x e.block)) none).getD 0xFFFF

def State.readHoard (s : State) (fn off : Nat) : Nat :=
  let h := s.hoard fn
  let k := h.jobs.getD h.job HJob.idle
  let l := h.mine
  match off with
  | 0x620000 => (match s.part fn with
    | some p => pack [(32, p.t2Gr), (0, p.hbmGr)]
    | none => 0)
  | 0x620010 => pack [(49, flag k.exhaust), (48, flag k.deep.isSome), (32, h.job), (0, h.step)]
  | 0x620018 => pack [(48, k.deep.getD 0xFFFF), (32, highest l (fun e => e.disp == 1)), (16, (l.filter (fun e => e.disp == 2)).length % 65536),
      (0, l.length % 65536)]
  | 0x620020 => pack [(32, h.use 1), (0, h.use 0)]
  | 0x620028 => pack [(0, h.mapBase.toNat), (0, flag h.mapEn)]
  | _ => 0

/-! ## Spars (R302) -/

def State.readSpr (s : State) (fn off : Nat) : Nat :=
  let r := (s.fn fn).spr
  match off with
  | 0x800000 => r.arg0.toNat
  | 0x800008 => r.arg1.toNat
  | 0x800010 => r.handle.toNat
  | 0x800018 => pack [(48, r.status.toNat), (42, r.die.toNat), (22, r.ctx.toNat), (6, r.lid.toNat), (5, flag r.step), (3, r.kind.toNat)]
  | 0x800020 => r.state.toNat
  | 0x800028 => (match s.part fn with
    | some p => pack [(32, s.sparsUsed fn), (0, p.sparq)]
    | none => 0)
  | 0x800030 => pack [(48, r.stale), (32, r.agentDrop), (16, r.aband), (0, r.resets)]
  | _ => 0

/-! ## Gutters (R248) -/

def JobSt.code : JobSt → Nat
  | .running => 1
  | .held => 2
  | .awaitSpare => 3
  | .expelled => 4
  | .ridgeOverdue => 5

def Job.reg (b : Job) (o : Nat) : Nat :=
  match o with
  | 0x00 => pack [(48, b.job), (40, b.gen), (36, b.st.code), (32, sat 4 b.voids), (0, b.step)]
  | 0x08 => pack [(48, b.tallyf), (32, b.stale), (16, b.lifts), (0, b.escapes)]
  | 0x10 => pack [(48, b.cause.toNat), (32, b.origin), (0, b.causeStep)]
  | 0x18 => b.digSeal % 2 ^ 64
  | 0x20 => b.digSeal / 2 ^ 64
  | 0x28 => b.digSealStep
  | 0x30 => b.rcvd.length
  | _ => 0

def State.readGut (s : State) (fn off : Nat) : Nat :=
  let g := s.fn fn
  if off = 0xC00000 then g.jdaddr.toNat
  else if off = 0xC00008 then pack [(48, g.jdStatus.toNat), (4, g.jdSlot.toNat)]
  else if 0xC00100 ≤ off ∧ off < 0xC00500 then
    (match s.job fn ((off - 0xC00100) / 0x40) with
     | some b => b.reg ((off - 0xC00100) % 0x40)
     | none => 0)
  else 0

/-! ## Fabric (R253, R262, R278) -/

def PortSt.code : PortSt → Nat
  | .disabled => 0
  | .down => 1
  | .training => 2
  | .up => 3
  | .degraded => 4
  | .quarantined => 5
  | .retraining => 6

def Port.stat (p : Port) : Nat :=
  pack [(48, p.peerDev.toNat), (42, p.peerPort.toNat), (32, p.vcnt), (16, p.lanes.toNat), (12, flag (p.injMode != 0)), (11, flag p.rate),
    (0, p.st.code)]

/-- Whether a function sees a port: the PF every one, a VF those of its partition. -/
def State.seesPort (s : State) (fn p : Nat) : Bool :=
  fn == 0 || (match s.part fn with
    | some q => q.ports.getLsbD p
    | none => false)

/-- Word k of a violation-log entry. -/
def VLog.word (e : VLog) (k : Nat) : Nat :=
  match k with
  | 0 => pack [(48, e.src.toNat), (40, e.port), (32, e.nak), (16, e.status.toNat)]
  | 1 => e.time.toNat
  | 2 => e.hdr.toNat % 2 ^ 64
  | _ => e.hdr.toNat / 2 ^ 64

def Window.word (w : Window) (k : Nat) : DWord :=
  match k with
  | 0 => w.w0
  | 1 => w.w1
  | 2 => w.w2
  | _ => w.w3

/-- The registers of one port. -/
def State.readPort (s : State) (fn off : Nat) : Nat :=
  let at? (base : Nat) : Option Nat := slotAt off base 8 64
  match at? 0x1001000, at? 0x1001200, at? 0x1001400, at? 0x1001600 with
  | some p, _, _, _ => if s.seesPort fn p then (s.port p).stat else 0
  | _, some p, _, _ => if fn = 0 then pack [(5, flag (s.port p).rateNext), (4, flag (s.port p).enable)] else 0
  | _, _, some p, _ => if s.seesPort fn p then
      pack [(48, (s.port p).retry), (32, (s.port p).uncorr), (16, (s.port p).viol), (0, (s.port p).late)] else 0
  | _, _, _, some p => (s.port p).corrSym % 2 ^ 64
  | _, _, _, _ => 0

def State.readFab (s : State) (fn off : Nat) : Nat :=
  let f := s.fab
  if off = 0x1000000 then pack [(32, ((s.part fn).map (·.htag.toNat)).getD 0), (0, f.devid.toNat)]
  else if off = 0x1000008 then (if fn = 0 then pack [(24, f.ttl), (16, f.qthresh), (0, f.rtmo)] else 0)
  else if off = 0x1000010 then pack [(48, (s.fn fn).winStatus.toNat), (0, (s.fn fn).winIndex)]
  else if off = 0x1002000 then f.vlogCount % 2 ^ 32
  else if off < 0x1002000 then s.readPort fn off
  else if 0x1003000 ≤ off ∧ off < 0x1005000 then
    (match f.vlog.get? ((off - 0x1003000) / 32) with
     | some e => if s.seesPort fn e.port then e.word (off % 32 / 8) else 0
     | none => 0)
  else if 0x1100000 ≤ off ∧ off < 0x1200000 then
    (if fn ≠ 0 then 0
     else
       let r := f.routes.getD ((off - 0x1100000) / 16) { cand := 0, dl := 0 }
       (if off % 16 = 0 then r.cand else r.dl).toNat)
  else if 0x1400000 ≤ off then
    (match s.winEntry fn ((off - 0x1400000) / 32) with
     | some n => ((f.windows.getD n Window.idle).word (off % 32 / 8)).toNat
     | none => 0)
  else 0

/-! ## Power and telemetry (R414) -/

def Power.code : Power → Nat
  | .run => 0
  | .standby => 1
  | .off => 2
  | .tripped => 3
  | .fault => 4

/-- TEL_COURSE. -/
def Course.tel (c : Course) : Nat :=
  pack [(48, codeOf 16 c.temp), (32, c.mv), (16, c.res), (8, if c.power = .run then c.step else 0), (0, c.power.code)]

/-- The courses of a function. -/
def State.coursesOf (s : State) (fn : Nat) : List Nat := ((s.part fn).map (·.courses)).getD []

def State.pwrStat (s : State) (fn : Nat) : Nat :=
  let p := s.pwr
  let cs := (s.coursesOf fn).map s.course
  pack [(48, if fn = 0 then p.pwin else 0), (32, if fn = 0 then p.p1ms else 0), (16, (s.fn fn).ppart),
    (4, flag (cs.any (fun c => c.power == .tripped || c.power == .fault))), (3, flag (p.supply || p.pmFault)), (2, flag p.delivery),
    (1, flag (cs.any (fun c => decide (c.heat < c.grant)))), (0, flag (s.fn fn).capped)]

def State.readPwr (s : State) (fn off : Nat) : Nat :=
  let p := s.pwr
  match slotAt off 0x1800180 8 16, slotAt off 0x1801000 8 1024, slotAt off 0x1803000 8 32 with
  | some j, _, _ => (match s.job fn j with
    | some b => b.energy % 2 ^ 64
    | none => 0)
  | _, some i, _ => (match (s.coursesOf fn)[i]? with
    | some c => (s.course c).tel
    | none => 0)
  | _, _, some k => if fn = 0 then codeOf 16 (p.stackTemp.getD k 0) else 0
  | _, _, _ => match off with
    | 0x1800000 => pack [(32, s.capReg.2), (0, s.capReg.1)]
    | 0x1800008 => pack [(48, ((s.part fn).map (·.power)).getD 0), (32, s.admitOf), (16, s.intOf), (0, p.mode.toNat % 2 ^ 14)]
    | 0x1800010 => s.pwrStat fn
    | 0x1800018 => if fn = 0 then pack [(32, p.offdly), (0, p.stby)] else 0
    | 0x1800028 => pack [(32, (s.fn fn).paceWaits), (0, (s.fn fn).paceMax)]
    | 0x1800100 => p.time.toNat
    | 0x1800108 => (s.fn fn).epart % 2 ^ 64
    | 0x1800110 => if fn = 0 then p.edev % 2 ^ 64 else 0
    | _ => 0

/-! ## Errors (R171, R371 to R375, R382) -/

def State.readErr (s : State) (fn off : Nat) : Nat :=
  let g := s.fn fn
  let b := s.board
  if 0x1C01000 ≤ off ∧ off < 0x1C09000 then
    (match (if fn = 0 then b.aoStore.get? ((off - 0x1C01000) / 128) else none) with
     | some r => leAt r.bytes (off % 128) 8
     | none => 0)
  else match off with
    | 0x1C00000 => g.sig.base.toNat
    | 0x1C00018 => pack [(48, g.sig.drop), (0, g.sig.tail)]
    | 0x1C00020 => if fn = 0 then b.exportCtl.toNat else 0
    | 0x1C00028 => if fn = 0 then b.collBase.toNat else 0
    | 0x1C00030 => if fn = 0 then b.collCtr.toNat else 0
    | 0x1C00038 => if fn = 0 then pack [(48, b.collDrop), (32, b.bmcDrop), (0, b.aoCount % 2 ^ 32)] else 0
    | 0x1C00108 => pack [(40, sat 24 g.samples), (32, sat 8 g.mismatch), (24, sat 8 g.unres), (16, sat 8 g.chkfail)]
    | 0x1C00110 => g.capslots.toNat
    | 0x1C00400 => pack [(48, g.huskuse), (32, g.uncorr), (0, g.corr)]
    | _ => 0

/-! ## Truss loader, injection, update engines (R214, R281, R359, R363, R391) -/

/-- Word k of a journal entry. -/
def JEntry.word (e : JEntry) (k : Nat) : Nat :=
  match k with
  | 0 => pack [(32, e.seq % 2 ^ 32), (26, e.fn), (24, e.src), (20, e.kind), (0, e.detail)]
  | 1 => e.time.toNat
  | 2 => e.digest.toNat % 2 ^ 64
  | _ => e.digest.toNat / 2 ^ 64

def State.readTrs (s : State) (off : Nat) : Nat :=
  let t := s.truss
  match slotAt off 0x2000100 8 64 with
  | some n => pack [(48, if (s.fn n).memShort then trsMemShort.toNat else 0), (32, flag (s.part n).isSome), (0, (s.fn n).loadSeq)]
  | none =>
    if 0x2010000 ≤ off ∧ off < 0x2030000 then
      (match t.journal.get? ((off - 0x2010000) / 32) with
       | some e => e.word (off % 32 / 8)
       | none => 0)
    else match off with
      | 0x2000000 => t.src.toNat
      | 0x2000008 => t.len
      | 0x2000010 => pack [(48, t.status.toNat), (40, t.fsect.toNat), (16, t.foff), (15, flag t.busy), (2, t.pslot.toNat)]
      | 0x2000018 => t.jcount % 2 ^ 32
      | _ => 0

def State.readInj (s : State) (off : Nat) : Nat :=
  let p := s.port ((off - 0x2400000) / 0x20)
  if 0x2400800 ≤ off then 0
  else match off % 0x20 with
    | 0x00 => pack [(32, p.injRate.toNat), (16, p.injCmask.toNat), (8, p.injSym.toNat), (0, p.injMode.toNat)]
    | 0x08 => p.injSeed.toNat
    | 0x10 => p.injCount.toNat
    | _ => 0

/-- UPD_HOLD: the held jobs of a partition. -/
def State.readHold (s : State) (fn : Nat) : Nat :=
  let held := ((s.fn fn).jobs.map (·.2)).filter (fun b => b.st == .held)
  match held.foldl (fun (m : Option Job) b => match m with
    | none => some b
    | some x => if b.job < x.job then some b else some x) none with
  | none => 0
  | some b => pack [(63, 1), (56, sat 7 held.length), (32, b.job), (0, b.step)]

/-- UPD_ENG_STAT of engine q: with several jobs, CHUNKS is their sum and STEP that of the lowest job slot (DESIGN CHOICE). -/
def State.readEngine (s : State) (fn q : Nat) : Nat :=
  match s.part fn with
  | none => 0
  | some p =>
    if !p.units.any (fun u => u / 4 == q) then 0
    else
      let g := s.engine q
      let mine := g.applied.filter (fun a => a.1 / 16 == fn)
      let n := (mine.map (·.2)).foldl (· + ·) 0
      let step := match g.stepOf.find? (fun a => a.1 / 16 == fn) with
        | some a => a.2
        | none => 0
      pack [(63, flag (g.chunks.any (fun x => x.fn == fn))), (62, flag (g.rows.any (fun r => r.1 == fn))), (32, sat 24 n), (0, step)]

def State.readUpd (s : State) (fn off : Nat) : Nat :=
  let g := s.fn fn
  match slotAt off 0x2800100 8 32, slotAt off 0x2800210 8 16 with
  | some q, _ => s.readEngine fn q
  | _, some j => (match s.job fn j with
    | some b => pack [(34, flag (!b.ckruns.isEmpty)), (33, flag b.ckBuddyOk), (32, b.ckLastSlot), (0, b.ckLastStep)]
    | none => 0)
  | _, _ => match off with
    | 0x2800000 => s.readHold fn
    | 0x2800008 => pack [(48, g.updJob.toNat), (16, g.updStep.toNat)]
    | 0x2800200 => pack [(48, g.ckStatus.toNat), (32, flag g.ckBusy), (8, flag g.ckSlot), (4, g.ckJslot.toNat)]
    | 0x2800208 => g.ckaddr.toNat
    | _ => 0

/-! ## The map (R307) -/

/-- A 64-bit register of BAR0 at an offset that is a multiple of 8. -/
def State.read64 (s : State) (fn off : Nat) : Nat :=
  if off < 0x10000 then s.readId fn off
  else if off < 0x100000 then (if off = 0x21000 ∧ fn = 0 then s.readClaim else 0)
  else if off < 0x200000 then 0
  else if off < 0x400000 then s.readQueue fn off
  else if off < 0x600000 then s.readCtx fn off
  else if off < 0x620000 then s.readShape fn ((off - 0x600000) / 8)
  else if off < 0x800000 then s.readHoard fn off
  else if off < 0xC00000 then s.readSpr fn off
  else if off < 0x1000000 then s.readGut fn off
  else if off < 0x1800000 then s.readFab fn off
  else if off < 0x1C00000 then s.readPwr fn off
  else if off < 0x2000000 then s.readErr fn off
  else if off < 0x2400000 then (if fn = 0 then s.readTrs off else 0)
  else if off < 0x2800000 then (if fn = 0 then s.readInj off else 0)
  else s.readUpd fn off

/-- A 32-bit register of BAR0 at an offset that is a multiple of 4. -/
def State.read32 (s : State) (fn off : Nat) : Nat :=
  let g := s.fn fn
  if 0x10000 ≤ off ∧ off < 0x21000 then s.readMbx fn off
  else match off with
    | 0x400018 => if s.ownCtx fn g.ctxSel.toNat then (s.ctx g.ctxSel.toNat).numflags.toNat else 0
    | 0x620008 => flag g.hoard.deepen
    | 0x1800020 => if fn = 0 then pack [(8, s.pwr.ttrip), (0, s.pwr.tthr)] else 0
    | 0x1C00008 => g.sig.ctl.toNat
    | 0x1C00010 => g.sig.head
    | 0x1C00100 => g.shRate
    | 0x1C00408 => if fn = 0 then s.mem.scrubH.toNat else 0
    | _ => 0

/-- Whether the eight bytes at an offset hold 32-bit registers. -/
def narrow (off : Nat) : Bool :=
  let o := off / 8 * 8
  decide (0x10000 ≤ o ∧ o < 0x21000) || decide (0x100000 ≤ o ∧ o < 0x200000) ||
    [0x400018, 0x620008, 0x1800020, 0x1C00008, 0x1C00010, 0x1C00100, 0x1C00408].contains o

end Sys2Proof.Machine
end

