-- ==== Sys2Proof/Machine/Mmio.lean ====
section
/-! DEFINITION. Writes of registers (R5 to R7, R307): what each register does with a value, split accesses, BAR2 (R306), and
the boot capability in configuration space (R419). -/

namespace Sys2Proof.Machine

/-! ## 32-bit registers -/

/-- A write of a channel's register. -/
def State.writeChan (s : State) (fn ch o : Nat) (v : Word) : State :=
  match slotAt o 0 4 16 with
  | some k => if (s.chan fn ch).opened = 2 then s else s.updChan fn ch (fun m => { m with out := m.out.put k v })
  | none =>
    if o = 0x40 then (if v.getLsbD 1 then s.chanSend fn ch else s)
    else if o = 0xC0 then (if v.getLsbD 0 then s.chanClear fn ch else s)
    else if o = 0xC8 then s.chanOpen fn ch v
    else s

def State.writeMbx (s : State) (fn off : Nat) (v : Word) : State :=
  let ch := chanAt off
  if off < 0x20000 then (if ch < 24 then s.writeChan fn ch (off % 0x100) v else s)
  else if fn = 0 ∧ s.secure.claimed ∧ ch < 32 then s.writeChan fn ch (off % 0x100) v
  else s

/-- A write of CTX_NUMFLAGS clears bits of the selected context's word, and of its record. -/
def State.clearFlags (s : State) (fn : Nat) (v : Word) : State :=
  let n := (s.fn fn).ctxSel.toNat
  if !s.ownCtx fn n ∨ (s.ctx n).st = .free then s
  else (s.updCtx n (fun c => { c with numflags := c.numflags &&& ~~~v })).saveCtx n

/-- A write of PWR_THERM by the PF, ignored if either temperature is out of range. Every course acts on its last sample
with the new limits (DEDUCED). -/
def State.setTherm (s : State) (v : Word) : State :=
  let thr := field v.toNat 7 0
  let trip := field v.toNat 15 8
  if thr < 60 ∨ 105 < thr ∨ trip < thr + 5 ∨ 115 < trip then s
  else
    let s := { s with pwr := { s.pwr with tthr := thr, ttrip := trip } }
    (s.courses.map (·.1)).foldl (fun (s : State) c => s.tempSample c (s.course c).temp (s.course c).mv) s

def State.write32 (s : State) (fn off : Nat) (v : Word) : State :=
  if 0x10000 ≤ off ∧ off < 0x21000 then s.writeMbx fn off v
  else if 0x100000 ≤ off ∧ off < 0x200000 then
    (let q := (off - 0x100000) / 8
     if off % 8 = 0 then s.dbSq fn q v.toNat else s.dbCq fn q v.toNat)
  else match off with
    | 0x400018 => s.clearFlags fn v
    | 0x620008 => s.hrdCtl fn v
    | 0x1800020 => if fn = 0 then s.setTherm v else s
    | 0x1C00008 => s.sigCtl fn v
    | 0x1C00010 => s.updFn fn (fun g => { g with sig := { g.sig with head := v.toNat % 65536 } })
    | 0x1C00100 => s.updFn fn (fun g => { g with shRate := v.toNat % 2048 })
    | 0x1C00408 => s.errCtl fn v
    | _ => s

/-! ## 64-bit registers -/

def State.writeId (s : State) (fn off : Nat) (v : DWord) : State :=
  match slotAt off 0x100 8 64 with
  | some n =>
    let s := if v.getLsbD 6 then s.fnShutdown fn n else s
    if v.getLsbD 7 then s.beginErase fn n else s
  | none => if off = 0x40 then s.devCtl fn v else s

def State.writeQueue (s : State) (fn off : Nat) (v : DWord) : State :=
  let q := (off - 0x200000) / 64
  let cfg (f : Queue → Queue) : State := if (s.queue fn q).en then s else s.updQueue fn q f
  if !s.hasQueue fn q then s
  else match off % 64 with
    | 0x00 => cfg (fun x => { x with sqbase := v })
    | 0x08 => cfg (fun x => { x with cqbase := v })
    | 0x10 => s.writeHqCtl fn q v
    | 0x18 => cfg (fun x => { x with mod := v &&& 0xFFFF00FF })
    | _ => s

def State.writeCtx (s : State) (fn off : Nat) (v : DWord) : State :=
  match off with
  | 0x400008 => s.updFn fn (fun g => { g with ctxSel := v.extractLsb' 0 20 })
  | 0x400020 => s.ctxKill fn v
  | 0x620028 => s.updHoard fn (fun h => { h with mapBase := v &&& 0xFFFFFFFFFFFFF000, mapEn := v.getLsbD 0 })
  | _ => s

def State.writeSpr (s : State) (fn off : Nat) (v : DWord) : State :=
  match off with
  | 0x800000 => s.updSpr fn (fun r => { r with arg0 := v })
  | 0x800008 => s.updSpr fn (fun r => { r with arg1 := v })
  | 0x800010 => s.updSpr fn (fun r => { r with handle := v })
  | 0x800018 => s.sprCmd fn v
  | _ => s

def State.writeGut (s : State) (fn off : Nat) (v : DWord) : State :=
  match off with
  | 0xC00000 => s.updFn fn (fun g => { g with jdaddr := v })
  | 0xC00008 => s.gutJdctl fn v
  | _ => s

/-- A write of the route table by the PF. -/
def State.setRoute (s : State) (fn id : Nat) (hi : Bool) (v : DWord) : State :=
  if fn ≠ 0 then s
  else
    let t := s.fab.routes.upd id { cand := 0, dl := 0 } (fun r => if hi then { r with dl := v } else { r with cand := v })
    { s with fab := { s.fab with routes := t } }

/-- A write of FAB_CFG by the PF. -/
def State.fabCfg (s : State) (fn : Nat) (v : DWord) : State :=
  if fn ≠ 0 then s
  else { s with fab := { s.fab with ttl := field v.toNat 31 24, qthresh := field v.toNat 23 16, rtmo := field v.toNat 15 0 } }

def State.writeFab (s : State) (fn off : Nat) (v : DWord) : State :=
  if off = 0x1000008 then s.fabCfg fn v
  else if 0x1100000 ≤ off ∧ off < 0x1200000 then s.setRoute fn ((off - 0x1100000) / 16) (off % 16 != 0) v
  else if 0x1400000 ≤ off then
    (let j := (off - 0x1400000) / 32
     if off % 32 = 0 then s.winWord0 fn j v else s.winWord fn j (off % 32 / 8) v)
  else match slotAt off 0x1001200 8 64 with
    | some p => s.portCtl fn p v
    | none => s

def State.writePwr (s : State) (fn off : Nat) (v : DWord) : State :=
  match off with
  | 0x1800000 => s.pwrCap fn v
  | 0x1800018 => if fn ≠ 0 then s else { s with pwr := { s.pwr with offdly := field v.toNat 47 32, stby := field v.toNat 15 0 } }
  | 0x1800028 => s.updFn fn (fun g => { g with paceMax := (BitVec.ofNat 32 g.paceMax &&& ~~~(v.extractLsb' 0 32)).toNat })
  | _ => s

/-- Registers of the export paths, the PF's. -/
def State.writeExport (s : State) (fn off : Nat) (v : DWord) : State :=
  if fn ≠ 0 then s
  else match off with
    | 0x1C00020 => { s with board := { s.board with exportCtl := v &&& 0xFFFFFFFFFF00000E } }
    | 0x1C00028 => { s with board := { s.board with collBase := v &&& 0x3FFFFFFFFFFF } }
    | 0x1C00030 => { s with board := { s.board with collCtr := v &&& 0x3FFFFFFFFFFF } }
    | _ => s

def State.writeErr (s : State) (fn off : Nat) (v : DWord) : State :=
  match off with
  | 0x1C00000 => s.sigBase fn v
  | 0x1C00110 => s.updFn fn (fun g => { g with capslots := g.capslots &&& ~~~v })
  | _ => s.writeExport fn off v

/-- Registers of the truss loader, the PF's. Source and length keep their values while a load runs. -/
def State.writeTrs (s : State) (fn off : Nat) (v : DWord) : State :=
  if fn ≠ 0 then s
  else match off with
    | 0x2000000 => if s.truss.busy then s else { s with truss := { s.truss with src := v &&& 0xFFFFFFFFFFFFF000 } }
    | 0x2000008 => if s.truss.busy then s else { s with truss := { s.truss with len := field v.toNat 22 0 } }
    | 0x2000010 => s.trsCtl fn v
    | _ => s

def State.writeInj (s : State) (fn off : Nat) (v : DWord) : State :=
  let p := (off - 0x2400000) / 0x20
  if 64 ≤ p then s
  else match off % 0x20 with
    | 0x00 => s.injCtl fn p v
    | 0x08 => s.injSeed fn p v
    | _ => s

/-- Registers of the update engines. OP 4 of UPD_CKCTL has a command of its own, which brings the buddy's data; a plain
write stores its fields. -/
def State.writeUpd (s : State) (fn off : Nat) (v : DWord) : State :=
  match off with
  | 0x2800008 => s.stepCtl fn v
  | 0x2800200 => s.ckCtl fn (if v.toNat % 8 = 4 then v &&& 0xFFFFFFFFFFFFFFF8 else v) []
  | 0x2800208 => s.updFn fn (fun g => { g with ckaddr := v })
  | _ => s

/-- The effect of a write that reaches a 64-bit register. -/
def State.write64 (s : State) (fn off : Nat) (v : DWord) : State :=
  if off < 0x10000 then s.writeId fn off v
  else if off < 0x200000 then
    (if off = 0x21000 ∧ fn = 0 ∧ !s.secure.claimed then s.claim 0 false v else s)
  else if off < 0x400000 then s.writeQueue fn off v
  else if off < 0x800000 then s.writeCtx fn off v
  else if off < 0xC00000 then s.writeSpr fn off v
  else if off < 0x1000000 then s.writeGut fn off v
  else if off < 0x1800000 then s.writeFab fn off v
  else if off < 0x1C00000 then s.writePwr fn off v
  else if off < 0x2000000 then s.writeErr fn off v
  else if off < 0x2400000 then s.writeTrs fn off v
  else if off < 0x2800000 then s.writeInj fn off v
  else s.writeUpd fn off v

/-! ## Split accesses (R7) -/

/-- The current half that a lone half is applied with: what the register reads, its RW1C bits as 0, since the write does
not carry them (DEDUCED). -/
def State.keep64 (s : State) (fn off : Nat) : Nat := if off = 0x1C00110 ∨ off = 0x1800028 then 0 else s.read64 fn off

/-- A function accesses BAR0: a held low half is applied first, and a latched high half is gone. -/
def State.access (s : State) (fn : Nat) : State :=
  let t := s.updFn fn (fun g => { g with heldLow := none, latched := none })
  match (s.fn fn).heldLow with
  | none => t
  | some (off, lo) => t.write64 fn off (BitVec.ofNat 64 (s.keep64 fn off / 2 ^ 32 * 2 ^ 32 + lo.toNat))

/-- The effect of a write command of one register: a function that does not answer drops it. -/
def State.onReg (s : State) (fn : Nat) (act : State → State) : State := if s.answers fn then act (s.access fn) else s

/-- SPLIT_WRITE_TIMEOUT: nothing followed a held low half for 1 µs. -/
def execSplitWriteTimeout (fn : Nat) (s : State) : Host.Outcome State Fault Refusal :=
  done (.splitWriteTimeout fn) (s.onReg fn id)

/-- Whether the secure block turns a request away; such a request counts (R321). -/
def State.denied (s : State) (rid : BitVec 16) (ide : Bool) (fn off : Nat) : Bool :=
  fn == 0 && decide (0x20000 ≤ off ∧ off < 0x100000) && s.secure.claimed && !s.secure.admits rid ide

/-- What a host read of 32 or 64 bits answers; all ones from a function that does not answer. -/
def State.readReg (s : State) (rid : BitVec 16) (ide : Bool) (fn off : Nat) (wide : Bool) : Nat :=
  let base := off / 8 * 8
  if !s.answers fn then 2 ^ (if wide then 64 else 32) - 1
  else if s.denied rid ide fn off then 0
  else
    let t := s.access fn
    if narrow off then t.read32 fn off + (if wide then t.read32 fn (off + 4) * 2 ^ 32 else 0)
    else if wide then t.read64 fn off
    else if off % 8 = 0 then t.read64 fn off % 2 ^ 32
    else match (s.fn fn).latched with
      | some (o, h) => if o = base then h.toNat else t.read64 fn base / 2 ^ 32
      | none => t.read64 fn base / 2 ^ 32

/-- SPLIT_READ_LOW: a 32-bit read of a low half latches the high half. -/
def State.readLow (s : State) (rid : BitVec 16) (ide : Bool) (fn off : Nat) : State :=
  if s.denied rid ide fn off then s.secureDeny
  else if narrow off then s
  else s.updFn fn (fun g => { g with latched := some (off, BitVec.ofNat 32 (s.read64 fn off / 2 ^ 32)) })

def execSplitReadLow (rid : BitVec 16) (ide : Bool) (fn off : Nat) (s : State) : Host.Outcome State Fault Refusal :=
  done (.splitReadLow rid ide fn off) (if off < barSize then s.onReg fn (fun t => t.readLow rid ide fn off) else s)

/-! ## Register writes -/

/-- A write to BAR0. -/
def State.writeBar0 (s : State) (rid : BitVec 16) (ide : Bool) (fn off : Nat) (wide : Bool) (v : DWord) : State :=
  let lo := v.extractLsb' 0 32
  let base := off / 8 * 8
  if s.denied rid ide fn off then (s.access fn).secureDeny
  else if narrow off then
    (if wide then ((s.access fn).write32 fn off lo).write32 fn (off + 4) (v.extractLsb' 32 32) else (s.access fn).write32 fn off lo)
  else if wide then (s.access fn).write64 fn off v
  else if off % 8 = 0 then (s.access fn).updFn fn (fun g => { g with heldLow := some (off, lo) })
  else match (s.fn fn).heldLow with
    | some (o, h) =>
      if o = base then
        (s.updFn fn (fun g => { g with heldLow := none, latched := none })).write64 fn base (BitVec.ofNat 64 (lo.toNat * 2 ^ 32 + h.toNat))
      else
        let t := s.access fn
        t.write64 fn base (BitVec.ofNat 64 (lo.toNat * 2 ^ 32 + t.keep64 fn base % 2 ^ 32))
    | none =>
      let t := s.access fn
      t.write64 fn base (BitVec.ofNat 64 (lo.toNat * 2 ^ 32 + t.keep64 fn base % 2 ^ 32))

/-- One 32-bit word of the MSI-X table: address low and high, data, and the mask bit (PRESUMED, PCI Express). Unmasking a
vector with its pending bit set fires it. -/
def Vec.write (x : Vec) (k : Nat) (v : Word) : Vec :=
  match k with
  | 0 => { x with addr := (x.addr &&& 0xFFFFFFFF00000000) ||| v.setWidth 64 }
  | 1 => { x with addr := (x.addr &&& 0xFFFFFFFF) ||| (v.setWidth 64 <<< 32) }
  | 2 => { x with data := v }
  | _ =>
    let x := { x with masked := v.getLsbD 0 }
    if !x.masked ∧ x.pending then { x with pending := false, fired := x.fired + 1 } else x

/-- A 32-bit write to BAR2; the pending-bit array is read-only. -/
def State.writeBar2 (s : State) (fn o : Nat) (v : Word) : State :=
  if o < 0x8000 then s.updFn fn (fun g => { g with vecs := g.vecs.upd (o / 16) Vec.idle (fun x => x.write (o % 16 / 4) v) }) else s

/-- A 32-bit write to configuration space: Bus Master Enable in the PF's command register (PRESUMED: bit 2, PCI Express),
and the boot capability. -/
def State.writeCfg (s : State) (fn o : Nat) (v : Word) : State :=
  if fn ≠ 0 then s
  else if o = 0x04 then ({ s with boot := { s.boot with busMaster := v.getLsbD 2 } }).bootServe
  else if o = 0x100C then s.bootCtl v
  else match slotAt o 0x1010 4 16 with
    | some k => { s with boot := { s.boot with words := s.boot.words.put k v } }
    | none => s

/-- A write of a fault-injection register by the PF while a full load is applied: it takes effect after the load (R362). -/
def State.lateInj (s : State) (fn off : Nat) (v : DWord) : State :=
  if fn = 0 ∧ s.truss.applying ∧ s.inApply 0 ∧ 0x2400000 ≤ off ∧ off < 0x2400800 then
    { s with truss := { s.truss with injHeld := s.truss.injHeld ++ [(off, v)] } }
  else s

/-- REGISTER_WRITE. -/
def State.writeReg (s : State) (rid : BitVec 16) (ide : Bool) (fn off : Nat) (wide : Bool) (v : DWord) : State :=
  let lo := v.extractLsb' 0 32
  let hi := v.extractLsb' 32 32
  if off < barSize then (if s.answers fn then s.writeBar0 rid ide fn off wide v else if wide then s.lateInj fn off v else s)
  else
    let o := off - barSize
    let one (s : State) (o : Nat) (v : Word) : State :=
      if o < 0x10000 then (if s.answers fn then s.writeBar2 fn o v else s) else s.writeCfg fn (o - 0x10000) v
    if wide then one (one s o lo) (o + 4) hi else one s o lo

def execRegisterWrite (rid : BitVec 16) (ide : Bool) (fn off : Nat) (wide : Bool) (v : DWord) (s : State) :
    Host.Outcome State Fault Refusal :=
  done (.registerWrite rid ide fn off wide v) (s.writeReg rid ide fn off wide v)

end Sys2Proof.Machine
end

