-- ==== Sys2Proof/Machine/RegRows.lean ====
section
/-! DEFINITION. The register writes that have a row of their own (R7, and the rule of each register): a function that answers
accesses BAR0 with one whole write, whose trigger field the row names; with another value the row does nothing. -/

namespace Sys2Proof.Machine

/-- The write of a row: it takes place when the function answers and the value is the one that the row stands for. -/
def State.onRow (s : State) (fn : Nat) (ok : Bool) (act : State → State) : State := if ok then s.onReg fn act else s

/-- Whether a channel of a row exists to the host: a secure channel once the page is claimed (R321). -/
def State.chanOpenTo (s : State) (ch : Nat) : Bool := decide (ch < 24) || s.secure.claimed

/-! ## Queues and doorbells (R311, R312) -/

def execQueueEnable (fn q : Nat) (v : DWord) (s : State) : Host.Outcome State Fault Refusal :=
  done (.queueEnable fn q v) (s.onRow fn (v.getLsbD 0) (fun t => t.writeHqCtl fn q v))

def execQueueDisable (fn q : Nat) (v : DWord) (s : State) : Host.Outcome State Fault Refusal :=
  done (.queueDisable fn q v) (s.onRow fn (!v.getLsbD 0) (fun t => t.writeHqCtl fn q v))

def execHqDbsq (fn q : Nat) (tail : Word) (s : State) : Host.Outcome State Fault Refusal :=
  done (.hqDbsq fn q tail) (s.onRow fn true (fun t => t.dbSq fn q tail.toNat))

def execHqDbcq (fn q : Nat) (head : Word) (s : State) : Host.Outcome State Fault Refusal :=
  done (.hqDbcq fn q head) (s.onRow fn true (fun t => t.dbCq fn q head.toNat))

/-! ## Mailboxes (R319 to R321) -/

def execMailboxSend (fn ch : Nat) (s : State) : Host.Outcome State Fault Refusal :=
  done (.mailboxSend fn ch) (s.onRow fn (s.chanOpenTo ch) (fun t => t.chanSend fn ch))

def execInboundGoClear (fn ch : Nat) (s : State) : Host.Outcome State Fault Refusal :=
  done (.inboundGoClear fn ch) (s.onRow fn (s.chanOpenTo ch) (fun t => t.chanClear fn ch))

def execChannelOpenWrite (fn ch : Nat) (v : Word) (s : State) : Host.Outcome State Fault Refusal :=
  done (.channelOpenWrite fn ch v) (s.onRow fn (s.chanOpenTo ch) (fun t => t.chanOpen fn ch v))

def execSecureClaim (rid : BitVec 16) (ide : Bool) (v : DWord) (s : State) : Host.Outcome State Fault Refusal :=
  done (.secureClaim rid ide v) (s.onRow 0 true (fun t => t.claim rid ide v))

/-! ## Spar operations (R298 to R302) -/

def execSparCreate (fn : Nat) (v : DWord) (s : State) : Host.Outcome State Fault Refusal :=
  done (.sparCreate fn v) (s.onRow fn (v.toNat % 8 == 1) (fun t => t.sprCmd fn v))

def execSparMap (fn : Nat) (v : DWord) (s : State) : Host.Outcome State Fault Refusal :=
  done (.sparMap fn v) (s.onRow fn (v.toNat % 8 == 2) (fun t => t.sprCmd fn v))

def execSparUnmap (fn : Nat) (v : DWord) (s : State) : Host.Outcome State Fault Refusal :=
  done (.sparUnmap fn v) (s.onRow fn (v.toNat % 8 == 3) (fun t => t.sprCmd fn v))

def execSparDestroy (fn : Nat) (v : DWord) (s : State) : Host.Outcome State Fault Refusal :=
  done (.sparDestroy fn v) (s.onRow fn (v.toNat % 8 == 4) (fun t => t.sprCmd fn v))

def execSparRead (fn : Nat) (v : DWord) (s : State) : Host.Outcome State Fault Refusal :=
  done (.sparRead fn v) (s.onRow fn (v.toNat % 8 == 5) (fun t => t.sprCmd fn v))

def execSparSet (fn : Nat) (v : DWord) (s : State) : Host.Outcome State Fault Refusal :=
  done (.sparSet fn v) (s.onRow fn (v.toNat % 8 == 6) (fun t => t.sprCmd fn v))

/-! ## Job slots (R221, R241, R247, R248) -/

def execJobLoad (fn : Nat) (v : DWord) (s : State) : Host.Outcome State Fault Refusal :=
  done (.jobLoad fn v) (s.onRow fn (v.toNat % 8 == 1) (fun t => t.gutJdctl fn v))

def execJobUnload (fn : Nat) (v : DWord) (s : State) : Host.Outcome State Fault Refusal :=
  done (.jobUnload fn v) (s.onRow fn (v.toNat % 8 == 2) (fun t => t.gutJdctl fn v))

def execForceVoid (fn : Nat) (v : DWord) (s : State) : Host.Outcome State Fault Refusal :=
  done (.forceVoid fn v) (s.onRow fn (v.toNat % 8 == 3) (fun t => t.gutJdctl fn v))

def execMembershipReload (fn : Nat) (v : DWord) (s : State) : Host.Outcome State Fault Refusal :=
  done (.membershipReload fn v) (s.onRow fn (v.toNat % 8 == 4) (fun t => t.gutJdctl fn v))

/-! ## Held steps and checkpoints (R213, R244, R385, R389 to R391) -/

def execReplay (fn : Nat) (v : DWord) (s : State) : Host.Outcome State Fault Refusal :=
  done (.replay fn v) (s.onRow fn (v.toNat % 4 == 1) (fun t => t.stepCtl fn v))

def execSkip (fn : Nat) (v : DWord) (s : State) : Host.Outcome State Fault Refusal :=
  done (.skip fn v) (s.onRow fn (v.toNat % 4 == 2) (fun t => t.stepCtl fn v))

def execCheckpointRegister (fn : Nat) (v : DWord) (s : State) : Host.Outcome State Fault Refusal :=
  done (.checkpointRegister fn v) (s.onRow fn (v.toNat % 8 == 1) (fun t => t.ckCtl fn v []))

def execResume (fn : Nat) (v : DWord) (s : State) : Host.Outcome State Fault Refusal :=
  done (.resume fn v) (s.onRow fn (v.toNat % 8 == 2) (fun t => t.ckCtl fn v []))

def execRestore (fn : Nat) (v : DWord) (s : State) : Host.Outcome State Fault Refusal :=
  done (.restore fn v) (s.onRow fn (v.toNat % 8 == 3) (fun t => t.ckCtl fn v []))

/-- The slot that the buddy returns comes with the command. -/
def execRestoreFromBuddy (fn : Nat) (v : DWord) (body : List CodeWord) (s : State) : Host.Outcome State Fault Refusal :=
  done (.restoreFromBuddy fn v body) (s.onRow fn (v.toNat % 8 == 4) (fun t => t.ckCtl fn v body))

/-! ## Hoard and error counts (R171, R180) -/

def execHoardRelease (fn : Nat) (v : Word) (s : State) : Host.Outcome State Fault Refusal :=
  done (.hoardRelease fn v) (s.onRow fn (v.getLsbD 1) (fun t => t.hrdCtl fn v))

def execErrCodeClear (fn : Nat) (v : Word) (s : State) : Host.Outcome State Fault Refusal :=
  done (.errCodeClear fn v) (s.onRow fn (v.getLsbD 8) (fun t => t.errCtl fn v))

/-! ## Windows and ports (R253, R254, R277, R278) -/

def execWindowEntryEnable (fn index : Nat) (v : DWord) (s : State) : Host.Outcome State Fault Refusal :=
  done (.windowEntryEnable fn index v) (s.onRow fn (v.getLsbD 0) (fun t => t.winWord0 fn index v))

def execWindowEntryInvalidate (fn index : Nat) (v : DWord) (s : State) : Host.Outcome State Fault Refusal :=
  done (.windowEntryInvalidate fn index v) (s.onRow fn (!v.getLsbD 0) (fun t => t.winWord0 fn index v))

def execQuarantineClear (fn port : Nat) (v : DWord) (s : State) : Host.Outcome State Fault Refusal :=
  done (.quarantineClear fn port v) (s.onRow fn (v.getLsbD 7) (fun t => t.portCtl fn port v))

def execRetrain (fn port : Nat) (v : DWord) (s : State) : Host.Outcome State Fault Refusal :=
  done (.retrain fn port v) (s.onRow fn (v.getLsbD 6) (fun t => t.portCtl fn port v))

def execInjPctlWrite (fn port : Nat) (v : DWord) (s : State) : Host.Outcome State Fault Refusal :=
  done (.injPctlWrite fn port v) (if s.answers fn then s.onRow fn true (fun t => t.injCtl fn port v) else s.lateInj fn (0x2400000 + 0x20 * port) v)

def execInjPseedWrite (fn port : Nat) (v : DWord) (s : State) : Host.Outcome State Fault Refusal :=
  done (.injPseedWrite fn port v) (if s.answers fn then s.onRow fn true (fun t => t.injSeed fn port v) else s.lateInj fn (0x2400008 + 0x20 * port) v)

/-! ## Signature ring, cap, contexts, loads (R343, R358, R372, R403) -/

def execSignatureRingEnable (fn : Nat) (v : Word) (s : State) : Host.Outcome State Fault Refusal :=
  done (.signatureRingEnable fn v) (s.onRow fn (v.getLsbD 0) (fun t => t.sigCtl fn v))

def execPowerCapWrite (fn : Nat) (v : DWord) (s : State) : Host.Outcome State Fault Refusal :=
  done (.powerCapWrite fn v) (s.onRow fn true (fun t => t.pwrCap fn v))

def execCtxKill (fn : Nat) (v : DWord) (s : State) : Host.Outcome State Fault Refusal :=
  done (.ctxKill fn v) (s.onRow fn (v.getLsbD 0) (fun t => t.ctxKill fn v))

def execFullLoad (fn : Nat) (v : DWord) (s : State) : Host.Outcome State Fault Refusal :=
  done (.fullLoad fn v) (s.onRow fn (v.toNat % 4 == 1) (fun t => t.trsCtl fn v))

def execPartitionLoad (fn : Nat) (v : DWord) (s : State) : Host.Outcome State Fault Refusal :=
  done (.partitionLoad fn v) (s.onRow fn (v.toNat % 4 == 2) (fun t => t.trsCtl fn v))

/-! ## Functions (R323, R326) -/

def execShutdown (fn target : Nat) (s : State) : Host.Outcome State Fault Refusal :=
  done (.shutdown fn target) (s.onRow fn true (fun t => t.fnShutdown fn target))

def execErase (fn target : Nat) (s : State) : Host.Outcome State Fault Refusal :=
  done (.erase fn target) (s.onRow fn true (fun t => t.beginErase fn target))

def execFullreset (fn : Nat) (v : DWord) (s : State) : Host.Outcome State Fault Refusal :=
  done (.fullreset fn v) (s.onRow fn true (fun t => t.devCtl fn v))

end Sys2Proof.Machine
end

