-- ==== Sys2Proof/Machine/Cxl.lean ====
section
/-! DEFINITION. CXL.mem reads and writes of device memory by the host (R304, R305). -/

namespace Sys2Proof.Machine

/-- A line that the host reads is tracked by the snoop filter of its home die. The filter's least recent line is
back-invalidated when it is full; its sets are taken as one (DESIGN CHOICE). -/
def State.trackLine (s : State) (n : Nat) : State :=
  let die := homeDie (64 * n)
  let l := s.mem.snoop.filter (· != n)
  let l := if 65536 ≤ (l.filter (fun m => homeDie (64 * m) == die)).length then
      (match l.find? (fun m => homeDie (64 * m) == die) with
       | some old => l.filter (· != old)
       | none => l)
    else l
  { s with mem := { s.mem with snoop := l ++ [n] } }

/-- What a read of one 64-byte line answers: its poison mark and its bytes. -/
def State.cxlLine (s : State) (n : Nat) : Bool × List Byte :=
  let a := 64 * n
  if !s.populated a then (true, [])
  else if (s.ownerOfAddr a).isNone then (false, List.replicate 64 0)
  else (!(s.husksIn a 64).isEmpty, s.readBytes a 64)

/-- A read of one line: its answer, the filter, and the husks that leave the device, counted for the owner without a
record (R305). -/
def State.cxlRead (s : State) (n : Nat) : State :=
  let a := 64 * n
  let t := { s with mem := { s.mem with cxlAns := s.mem.cxlAns ++ [(n, s.cxlLine n)] } }
  if !s.populated a then t
  else match s.ownerOfAddr a with
    | none => t
    | some o => ((s.husksIn a 64).foldl (fun (t : State) _ => t.countHusk o) t).trackLine n

/-- The lines that a range of bytes touches. -/
def linesOf (a len : Nat) : List Nat := if len = 0 then [] else (List.range ((a + len - 1) / 64 + 1 - a / 64)).map (· + a / 64)

def execCxlMemRead (dpa len : Nat) (s : State) : Host.Outcome State Fault Refusal :=
  done (.cxlMemRead dpa len) ((linesOf dpa len).foldl (fun (t : State) n => t.cxlRead n) { s with mem := { s.mem with cxlAns := [] } })

/-- Whether the host may write a byte: populated, and owned by a partition. -/
def State.cxlWritable (s : State) (a : Nat) : Bool := s.populated a && (s.ownerOfAddr a).isSome

/-- A write of the bytes of one line. A poisoned one leaves a husk in every code word that it covers (R305); a clean one
that writes a whole word leaves it clean (R170). -/
def State.cxlWrite (s : State) (a : Nat) (bs : List Byte) (poison : Bool) : State :=
  if !s.cxlWritable a then s
  else
    let t := s.pokeList a bs
    (if poison then wordsOf a bs.length else wholeWords a bs.length).foldl (fun (t : State) w => t.pokeHusk w poison) t

/-- Cut a write into the parts that lie in one line. -/
def State.cxlStore (s : State) (poison : Bool) : Nat → Nat → List Byte → State
  | 0, _, _ => s
  | _ + 1, _, [] => s
  | fuel + 1, a, b :: bs =>
    let k := 64 - a % 64
    State.cxlStore (s.cxlWrite a ((b :: bs).take k) poison) poison fuel (a + k) ((b :: bs).drop k)

def execCxlMemWrite (dpa : Nat) (data : List Byte) (poison : Bool) (s : State) : Host.Outcome State Fault Refusal :=
  done (.cxlMemWrite dpa data poison) (s.cxlStore poison (data.length / 64 + 2) dpa data)

end Sys2Proof.Machine
end

