-- ==== Sys2Proof/Machine/Lanes.lean ====
section
/-! DEFINITION. Integer, FP32, compare, predicate and conversion instructions (R114, R116, R129 to R131). -/

namespace Sys2Proof.Machine

/-! ## Forms -/

/-- The k-th operand as a word. -/
def opnd (v : List Nat) (k : Nat) : Word := BitVec.ofNat 32 (v.getD k 0)

/-- One source, Form T. -/
def t1 (xu : Bool) (opc : Nat) (i : Issue) (f : FormT) (legal : Bool) (g : Word → Word) (s : State) : State :=
  s.compute xu false i f.guard (tWord opc f) (legal && f.sb == 0 && f.sc == 0 && f.mod == 0) [regs 1 f.sa] (regs 1 f.dst)
    (fun _ _ v => (g (opnd v 0)).toNat)

/-- Two sources, Form T. -/
def t2 (xu : Bool) (opc : Nat) (i : Issue) (f : FormT) (legal : Bool) (g : Word → Word → Word) (s : State) : State :=
  s.compute xu false i f.guard (tWord opc f) (legal && f.sc == 0 && f.mod == 0) [regs 1 f.sa, regs 1 f.sb] (regs 1 f.dst)
    (fun _ _ v => (g (opnd v 0) (opnd v 1)).toNat)

/-- Three sources, Form T. -/
def t3 (opc : Nat) (i : Issue) (f : FormT) (legal : Bool) (g : Word → Word → Word → Word) (s : State) : State :=
  s.compute false false i f.guard (tWord opc f) (legal && f.mod == 0) [regs 1 f.sa, regs 1 f.sb, regs 1 f.sc] (regs 1 f.dst)
    (fun _ _ v => (g (opnd v 0) (opnd v 1) (opnd v 2)).toNat)

/-- A register and the immediate, Form I. -/
def i1 (opc : Nat) (i : Issue) (f : FormI) (g : Word → Word → Word) (s : State) : State :=
  s.compute false false i f.guard (iWord opc f) (f.type == 0 && f.mod == 0) [regs 1 f.sa] (regs 1 f.dst)
    (fun _ _ v => (g (opnd v 0) f.imm).toNat)

/-- TYPE is 0: the instruction defines no other. -/
def untyped (f : FormT) : Bool := f.type == 0

/-- TYPE is 0 unsigned or 1 signed. -/
def typed (f : FormT) : Bool := decide (f.type.toNat ≤ 1)

def isSigned (f : FormT) : Bool := f.type == 1

/-! ## Integer results (R116) -/

def imulhWord (signed : Bool) (a b : Word) : Word :=
  if signed then BitVec.ofInt 32 ((a.toInt * b.toInt) / 2 ^ 32) else BitVec.ofNat 32 ((a.toNat * b.toNat) / 2 ^ 32)
def iminWord (signed : Bool) (a b : Word) : Word := if icmp signed a b = .gt then b else a
def imaxWord (signed : Bool) (a b : Word) : Word := if icmp signed a b = .lt then b else a
def iabsWord (a : Word) : Word := if a.toInt < 0 then -a else a
def shlWord (a b : Word) : Word := if b.toNat ≥ 32 then 0 else a <<< b.toNat
def shrWord (a b : Word) : Word := if b.toNat ≥ 32 then 0 else a >>> b.toNat
def sarWord (a b : Word) : Word := a.sshiftRight (min b.toNat 32)
def popcWord (a : Word) : Word := BitVec.ofNat 32 (popCount 32 a.toNat)
def clzWord (a : Word) : Word := if a = 0 then 32 else BitVec.ofNat 32 (31 - a.toNat.log2)

/-- BFE: SA bits from SB[4:0], length SC[5:0] capped at 32 - SB[4:0]. -/
def bfeWord (signed : Bool) (a b c : Word) : Word :=
  let p := b.toNat % 32
  let n := min (c.toNat % 64) (32 - p)
  let v := (a.toNat >>> p) % 2 ^ n
  if signed ∧ n ≠ 0 then BitVec.ofInt 32 (signedOf n v) else BitVec.ofNat 32 v

/-- BFI: DST with SC[5:0] low bits of SA inserted at SB[4:0]; bits past bit 31 are lost. -/
def bfiWord (d a b c : Word) : Word :=
  let p := b.toNat % 32
  let n := min (c.toNat % 64) (32 - p)
  let mask : Word := BitVec.ofNat 32 ((2 ^ n - 1) <<< p)
  (d &&& ~~~mask) ||| (BitVec.ofNat 32 (a.toNat <<< p) &&& mask)

def execIadd (i : Issue) (f : FormT) (s : State) : Host.Outcome State Fault Refusal :=
  done (.iadd i f) (t2 false 0x10 i f (untyped f) (fun a b => a + b) s)
def execIsub (i : Issue) (f : FormT) (s : State) : Host.Outcome State Fault Refusal :=
  done (.isub i f) (t2 false 0x11 i f (untyped f) (fun a b => a - b) s)
def execImul (i : Issue) (f : FormT) (s : State) : Host.Outcome State Fault Refusal :=
  done (.imul i f) (t2 false 0x12 i f (untyped f) (fun a b => a * b) s)
def execImulh (i : Issue) (f : FormT) (s : State) : Host.Outcome State Fault Refusal :=
  done (.imulh i f) (t2 false 0x13 i f (typed f) (imulhWord (isSigned f)) s)
def execImad (i : Issue) (f : FormT) (s : State) : Host.Outcome State Fault Refusal :=
  done (.imad i f) (t3 0x14 i f (untyped f) (fun a b c => a * b + c) s)
def execImin (i : Issue) (f : FormT) (s : State) : Host.Outcome State Fault Refusal :=
  done (.imin i f) (t2 false 0x15 i f (typed f) (iminWord (isSigned f)) s)
def execImax (i : Issue) (f : FormT) (s : State) : Host.Outcome State Fault Refusal :=
  done (.imax i f) (t2 false 0x16 i f (typed f) (imaxWord (isSigned f)) s)
def execIabs (i : Issue) (f : FormT) (s : State) : Host.Outcome State Fault Refusal :=
  done (.iabs i f) (t1 false 0x17 i f (untyped f) iabsWord s)
def execAnd (i : Issue) (f : FormT) (s : State) : Host.Outcome State Fault Refusal :=
  done (.and i f) (t2 false 0x18 i f (untyped f) (fun a b => a &&& b) s)
def execOr (i : Issue) (f : FormT) (s : State) : Host.Outcome State Fault Refusal :=
  done (.or i f) (t2 false 0x19 i f (untyped f) (fun a b => a ||| b) s)
def execXor (i : Issue) (f : FormT) (s : State) : Host.Outcome State Fault Refusal :=
  done (.xor i f) (t2 false 0x1A i f (untyped f) (fun a b => a ^^^ b) s)
def execShl (i : Issue) (f : FormT) (s : State) : Host.Outcome State Fault Refusal :=
  done (.shl i f) (t2 false 0x1B i f (untyped f) shlWord s)
def execShr (i : Issue) (f : FormT) (s : State) : Host.Outcome State Fault Refusal :=
  done (.shr i f) (t2 false 0x1C i f (untyped f) shrWord s)
def execSar (i : Issue) (f : FormT) (s : State) : Host.Outcome State Fault Refusal :=
  done (.sar i f) (t2 false 0x1D i f (untyped f) sarWord s)
def execPopc (i : Issue) (f : FormT) (s : State) : Host.Outcome State Fault Refusal :=
  done (.popc i f) (t1 false 0x1E i f (untyped f) popcWord s)
def execClz (i : Issue) (f : FormT) (s : State) : Host.Outcome State Fault Refusal :=
  done (.clz i f) (t1 false 0x1F i f (untyped f) clzWord s)
def execBfe (i : Issue) (f : FormT) (s : State) : Host.Outcome State Fault Refusal :=
  done (.bfe i f) (t3 0x20 i f (typed f) (bfeWord (isSigned f)) s)

/-- BFI reads its destination (R116). -/
def execBfi (i : Issue) (f : FormT) (s : State) : Host.Outcome State Fault Refusal :=
  done (.bfi i f) (s.compute false false i f.guard (tWord 0x21 f) (untyped f && f.mod == 0)
    [regs 1 f.dst, regs 1 f.sa, regs 1 f.sb, regs 1 f.sc] (regs 1 f.dst)
    (fun _ _ v => (bfiWord (opnd v 0) (opnd v 1) (opnd v 2) (opnd v 3)).toNat))

def execIaddi (i : Issue) (f : FormI) (s : State) : Host.Outcome State Fault Refusal :=
  done (.iaddi i f) (i1 0x22 i f (fun a b => a + b) s)
def execImuli (i : Issue) (f : FormI) (s : State) : Host.Outcome State Fault Refusal :=
  done (.imuli i f) (i1 0x23 i f (fun a b => a * b) s)
def execAndi (i : Issue) (f : FormI) (s : State) : Host.Outcome State Fault Refusal :=
  done (.andi i f) (i1 0x24 i f (fun a b => a &&& b) s)
def execOri (i : Issue) (f : FormI) (s : State) : Host.Outcome State Fault Refusal :=
  done (.ori i f) (i1 0x25 i f (fun a b => a ||| b) s)
def execXori (i : Issue) (f : FormI) (s : State) : Host.Outcome State Fault Refusal :=
  done (.xori i f) (i1 0x26 i f (fun a b => a ^^^ b) s)
def execShli (i : Issue) (f : FormI) (s : State) : Host.Outcome State Fault Refusal :=
  done (.shli i f) (i1 0x27 i f shlWord s)
def execShri (i : Issue) (f : FormI) (s : State) : Host.Outcome State Fault Refusal :=
  done (.shri i f) (i1 0x28 i f shrWord s)
def execSari (i : Issue) (f : FormI) (s : State) : Host.Outcome State Fault Refusal :=
  done (.sari i f) (i1 0x29 i f sarWord s)

/-- MOVI writes the immediate; it defines no SA. -/
def execMovi (i : Issue) (f : FormI) (s : State) : Host.Outcome State Fault Refusal :=
  done (.movi i f) (s.compute false false i f.guard (iWord 0x2A f) (f.type == 0 && f.mod == 0 && f.sa == 0) [] (regs 1 f.dst)
    (fun _ _ _ => f.imm.toNat))
def execMov (i : Issue) (f : FormT) (s : State) : Host.Outcome State Fault Refusal :=
  done (.mov i f) (t1 false 0x2B i f (untyped f) (fun a => a) s)

/-- SEL: SA if predicate MOD[2:0] is set, else SB. -/
def execSel (i : Issue) (f : FormT) (s : State) : Host.Outcome State Fault Refusal :=
  done (.sel i f) (s.compute false false i f.guard (tWord 0x2C f) (untyped f && f.sc == 0 && decide (f.mod.toNat < 8))
    [regs 1 f.sa, regs 1 f.sb] (regs 1 f.dst) (fun _ p v => if p.getLsbD f.mod.toNat then v.getD 0 0 else v.getD 1 0))

/-! ## FP32 results (R116) -/

def execFadd (i : Issue) (f : FormT) (s : State) : Host.Outcome State Fault Refusal :=
  done (.fadd i f) (t2 false 0x30 i f (untyped f) fadd32 s)
def execFsub (i : Issue) (f : FormT) (s : State) : Host.Outcome State Fault Refusal :=
  done (.fsub i f) (t2 false 0x31 i f (untyped f) fsub32 s)
def execFmul (i : Issue) (f : FormT) (s : State) : Host.Outcome State Fault Refusal :=
  done (.fmul i f) (t2 false 0x32 i f (untyped f) fmul32 s)
def execFfma (i : Issue) (f : FormT) (s : State) : Host.Outcome State Fault Refusal :=
  done (.ffma i f) (t3 0x33 i f (untyped f) fma32 s)
def execFmin (i : Issue) (f : FormT) (s : State) : Host.Outcome State Fault Refusal :=
  done (.fmin i f) (t2 false 0x34 i f (untyped f) (fminmax false) s)
def execFmax (i : Issue) (f : FormT) (s : State) : Host.Outcome State Fault Refusal :=
  done (.fmax i f) (t2 false 0x35 i f (untyped f) (fminmax true) s)

/-- FABS clears and FNEG inverts the sign; a NaN is kept as it is (R116). -/
def fabsWord (a : Word) : Word := if (ofF32 a).isNan then a else a &&& 0x7FFFFFFF#32
def fnegWord (a : Word) : Word := if (ofF32 a).isNan then a else a ^^^ 0x80000000#32

def execFabs (i : Issue) (f : FormT) (s : State) : Host.Outcome State Fault Refusal :=
  done (.fabs i f) (t1 false 0x36 i f (untyped f) fabsWord s)
def execFneg (i : Issue) (f : FormT) (s : State) : Host.Outcome State Fault Refusal :=
  done (.fneg i f) (t1 false 0x37 i f (untyped f) fnegWord s)
def execFdiv (i : Issue) (f : FormT) (s : State) : Host.Outcome State Fault Refusal :=
  done (.fdiv i f) (t2 true 0x38 i f (untyped f) fdiv32 s)
def execFsqrt (i : Issue) (f : FormT) (s : State) : Host.Outcome State Fault Refusal :=
  done (.fsqrt i f) (t1 true 0x39 i f (untyped f) fsqrt32 s)

/-- A function that the manual bounds by ulps: a NaN argument gives the canonical NaN (R116), every other
result is the free value of the function. -/
def approx (g : Word → Word) (a : Word) : Word := if (ofF32 a).isNan then 0x7FC00000#32 else g a

def execFrcp (i : Issue) (f : FormT) (s : State) : Host.Outcome State Fault Refusal :=
  done (.frcp i f) (t1 true 0x3A i f (untyped f) (approx Config.frcp) s)
def execFrsq (i : Issue) (f : FormT) (s : State) : Host.Outcome State Fault Refusal :=
  done (.frsq i f) (t1 true 0x3B i f (untyped f) (approx Config.frsq) s)
def execFexp2 (i : Issue) (f : FormT) (s : State) : Host.Outcome State Fault Refusal :=
  done (.fexp2 i f) (t1 true 0x3C i f (untyped f) (approx Config.fexp2) s)
def execFlog2 (i : Issue) (f : FormT) (s : State) : Host.Outcome State Fault Refusal :=
  done (.flog2 i f) (t1 true 0x3D i f (untyped f) (approx Config.flog2) s)
def execFtanh (i : Issue) (f : FormT) (s : State) : Host.Outcome State Fault Refusal :=
  done (.ftanh i f) (t1 true 0x3E i f (untyped f) (approx Config.ftanh) s)
def execFmuli (i : Issue) (f : FormI) (s : State) : Host.Outcome State Fault Refusal :=
  done (.fmuli i f) (i1 0x3F i f fmul32 s)
def execFsin (i : Issue) (f : FormT) (s : State) : Host.Outcome State Fault Refusal :=
  done (.fsin i f) (t1 true 0x46 i f (untyped f) (approx Config.fsin) s)
def execFcos (i : Issue) (f : FormT) (s : State) : Host.Outcome State Fault Refusal :=
  done (.fcos i f) (t1 true 0x47 i f (untyped f) (approx Config.fcos) s)

/-! ## Compares and predicates (R116) -/

/-- A compare of SA and SB that writes predicate DST. -/
def compareT (opc : Nat) (i : Issue) (f : FormT) (legal : Bool) (g : Nat → Word → Word → Bool) (s : State) : State :=
  let ra := (regs 1 f.sa).getD []
  let rb := (regs 1 f.sb).getD []
  let e : Enc := { legal := legal && (regs 1 f.sa).isSome && (regs 1 f.sb).isSome && f.sc == 0 &&
                     decide (f.dst.toNat < 8) && decide (f.mod.toNat < 6)
                   bound := ra.any Reg.isU || rb.any Reg.isU
                   reads := ra ++ rb }
  s.issue i f.guard e (tWord opc f) (fun s go on =>
    (s.predWrite i.core f.dst.toNat (fun sl pos =>
      g f.mod.toNat (BitVec.ofNat 32 (sl.readNat pos ra)) (BitVec.ofNat 32 (sl.readNat pos rb))) on).nextPc i.core go)

def execIsetp (i : Issue) (f : FormT) (s : State) : Host.Outcome State Fault Refusal :=
  done (.isetp i f) (compareT 0x40 i f (typed f) (fun c a b => condHolds c (icmp (isSigned f) a b)) s)
def execFsetp (i : Issue) (f : FormT) (s : State) : Host.Outcome State Fault Refusal :=
  done (.fsetp i f) (compareT 0x41 i f (untyped f) fcond s)

/-- PLOP: predicate DST from predicates SA and SB. -/
def execPlop (i : Issue) (f : FormT) (s : State) : Host.Outcome State Fault Refusal :=
  let e : Enc := { legal := untyped f && f.sc == 0 && decide (f.dst.toNat < 8) && decide (f.sa.toNat < 8) &&
                     decide (f.sb.toNat < 8) && decide (f.mod.toNat < 4)
                   bound := false, reads := [] }
  done (.plop i f) (s.issue i f.guard e (tWord 0x42 f) (fun s go on =>
    (s.predWrite i.core f.dst.toNat (fun sl pos =>
      let p := (sl.thread pos).p
      plogic f.mod.toNat (p.getLsbD f.sa.toNat) (p.getLsbD f.sb.toNat)) on).nextPc i.core go))

/-! ## Conversions and random bits (R114, R129 to R131) -/

def execI2f (i : Issue) (f : FormT) (s : State) : Host.Outcome State Fault Refusal :=
  done (.i2f i f) (t1 false 0x43 i f (typed f) (i2f32 (isSigned f)) s)
def execF2i (i : Issue) (f : FormT) (s : State) : Host.Outcome State Fault Refusal :=
  done (.f2i i f) (t1 false 0x44 i f (typed f) (f2i32 (isSigned f)) s)

/-- The encoding of CVT, given whether the control word asks for stochastic rounding. -/
def cvtEnc (f : FormT) (rnd : Bool) : Bool :=
  if rnd then (regs 2 f.sc).isSome && decide (f.mod.toNat < 64) && (uregs 1 (f.mod.setWidth 6)).isSome
  else f.sc == 0x30 && f.mod == 0

/-- CVT: convert SA by the control word in u register SB. Its events are ORed into CTX_NUMFLAGS. A reserved
value in the control word is an illegal operand. -/
def execCvt (i : Issue) (f : FormT) (s : State) : Host.Outcome State Fault Refusal :=
  let ra := (gregs 1 f.sa).getD []
  let rb := (uregs 1 f.sb).getD []
  let rc := (regs 2 f.sc).getD []
  let rt := if f.mod == 0 then [] else (uregs 1 (f.mod.setWidth 6)).getD []
  let d := (regs 1 f.dst).getD []
  let ncw : Word := match s.slot i.core (i.leader / 16) with
    | some sl => BitVec.ofNat 32 (sl.readNat 0 rb)
    | none => 0
  let ctx := s.slotCtx i
  let e : Enc := { legal := untyped f && (gregs 1 f.sa).isSome && (uregs 1 f.sb).isSome && (regs 1 f.dst).isSome &&
                     (regs 2 f.sc).isSome
                   bound := true, reads := ra ++ rb ++ rc ++ rt }
  let val (s : State) (m : Nat) : Nat × Word :=
    match s.slot i.core (m / 16) with
    | some sl => cvtResult ncw
        (s.randOf ctx (BitVec.ofNat 32 (sl.readNat (m % 16) rt)) (BitVec.ofNat 64 (sl.readNat (m % 16) rc)))
        (sl.readNat (m % 16) ra)
    | none => (0, 0)
  done (.cvt i f) (s.issue i f.guard e (tWord 0x45 f) (fun s go on =>
    if !(ncwDefined ncw && cvtEnc f (ncw.getLsbD 12)) then
      (if on.isEmpty then s.nextPc i.core go else s.sheafFault i.core (on.headD 0) shfIllegalOp (tWord 0x45 f) 0)
    else
      let fl := on.foldl (fun fl m => fl ||| (val s m).2) 0
      let t := (writers d on).foldl (fun t m =>
        t.updSlot i.core (m / 16) (fun sl => sl.writeAll (m % 16) d (wordsOfNat 1 (val s m).1))) s
      (t.orFlags ctx fl).nextPc i.core go))

/-- PHILOX: one block of counter quad SA and key pair SB into quad DST, on the XU (R130). -/
def execPhilox (i : Issue) (f : FormT) (s : State) : Host.Outcome State Fault Refusal :=
  done (.philox i f) (s.compute true false i f.guard (tWord 0xA0 f) (untyped f && f.sc == 0 && f.mod == 0)
    [regs 4 f.sa, regs 2 f.sb] (regs 4 f.dst)
    (fun _ _ v =>
      let c := wordsOfNat 4 (v.getD 0 0)
      let k := wordsOfNat 2 (v.getD 1 0)
      let (w0, w1, w2, w3) := philox (c.getD 0 0) (c.getD 1 0) (c.getD 2 0) (c.getD 3 0) (k.getD 0 0) (k.getD 1 0)
      w0.toNat + w1.toNat * 2 ^ 32 + w2.toNat * 2 ^ 64 + w3.toNat * 2 ^ 96))

/-- RNDE: the 16 rounding bits of element pair SA of the tensor in u register SB (R131). -/
def execRnde (i : Issue) (f : FormT) (s : State) : Host.Outcome State Fault Refusal :=
  let ctx := s.slotCtx i
  done (.rnde i f) (s.compute true true i f.guard (tWord 0xA1 f) (untyped f && f.sc == 0 && f.mod == 0)
    [regs 2 f.sa, uregs 1 f.sb] (regs 1 f.dst)
    (fun _ _ v => (s.randOf ctx (opnd v 1) (BitVec.ofNat 64 (v.getD 0 0))).toNat))

end Sys2Proof.Machine
end

