-- ==== Sys2Proof/Machine/Spdm.lean ====
section
/-! DEFINITION. The SPDM responder over the PF's DOE mailbox (R427 to R429). Request, response and error codes, message
layouts and the order of requests are those of SPDM 1.3 (PRESUMED); what SPDM decides and this manual does not is a body
without a value. -/

namespace Sys2Proof.Machine

/-- The bytes of a message: version 1.3, code, two parameters, body. -/
def spdmBytes (code : Nat) (p1 p2 : Byte) (body : List Byte) : List Byte := [0x13, BitVec.ofNat 8 code, p1, p2] ++ body

/-- A response leaves through the mailbox. -/
def State.spdmSend (s : State) (code : Nat) (p1 p2 : Byte) (body : List Byte) : State :=
  { s with spdm := { s.spdm with answered := s.spdm.answered + 1, responses := s.spdm.responses ++ [(code, p1, p2, body)] } }

/-- An ERROR response: 1 InvalidRequest, 4 UnexpectedRequest, 5 Unspecified, 6 DecryptError, 7 UnsupportedRequest,
10 SessionLimitExceeded, 66 ResponseNotReady. No signed response then precedes the next request. -/
def State.spdmError (s : State) (code : Byte) : State := ({ s with spdm := { s.spdm with lastSigned := none } }).spdmSend 0x7F code 0 []

/-- A response to a request that enters the transcript. -/
def State.spdmSay (s : State) (req : Nat) (r : SpdmReq) (p1 p2 : Byte) (body : List Byte) : State :=
  let t := s.spdm.transcript ++ spdmBytes req r.param1 r.param2 r.body ++ spdmBytes (req % 128) p1 p2 body
  ({ s with spdm := { s.spdm with transcript := t, lastSigned := none } }).spdmSend (req % 128) p1 p2 body

/-- The digest of the accepted manifest, on which the alias keys depend (R425). -/
def State.fwDigest (s : State) : List Byte := (s.boot.fw.map (·.digest)).getD []

/-- A response whose RSA signature covers the transcript up to it. -/
def State.spdmSigned (s : State) (req : Nat) (r : SpdmReq) (p1 p2 : Byte) (body : List Byte) : State :=
  let t := s.spdm.transcript ++ spdmBytes req r.param1 r.param2 r.body ++ spdmBytes (req % 128) p1 p2 body
  let h := sha384 t
  let sig := Config.aliasSign false s.fwDigest h
  ({ s with spdm := { s.spdm with transcript := t ++ sig, lastSigned := some h } }).spdmSend (req % 128) p1 p2 (body ++ sig)

/-- A body that SPDM decides. -/
def State.spdmBody (s : State) (req : Nat) (r : SpdmReq) : List Byte := Config.spdmBody req r.param1 r.param2 r.body s.spdm.answered

/-- Whether SPDM accepts what a request carries. -/
def State.spdmAccepts (s : State) (req : Nat) (r : SpdmReq) : Bool := Config.spdmAccepts req r.param1 r.param2 r.body s.spdm.answered

/-- The order in which every request is met (R425, R427): without supply there is no responder; ResponseNotReady until the
identity keys are ready; with IDFAIL, Unspecified to every request after GET_VERSION; then the negotiation must have come
as far as the request needs. -/
def State.spdmServe (s : State) (first : Bool) (phase : Nat) (act : State → State) : State :=
  if !s.pwr.aonUp then s
  else if !s.boot.keysReady ∧ !s.boot.idfail then s.spdmError 0x42
  else if s.boot.idfail ∧ !first then s.spdmError 0x05
  else if s.spdm.phase < phase then s.spdmError 0x04
  else act s

/-! ## Negotiation -/

/-- GET_VERSION starts again: what has been negotiated and every session are gone. -/
def execGetVersion (r : SpdmReq) (s : State) : Host.Outcome State Fault Refusal :=
  done (.getVersion r) (s.spdmServe true 0 (fun s =>
    ({ s with spdm := { s.spdm with phase := 1, transcript := [], handshake := false, session := false } }).spdmSay 0x84 r 0 0 (s.spdmBody 0x84 r)))

def execGetCapabilities (r : SpdmReq) (s : State) : Host.Outcome State Fault Refusal :=
  done (.getCapabilities r) (s.spdmServe false 1 (fun s =>
    let t := s.spdmSay 0xE1 r 0 0 (s.spdmBody 0xE1 r)
    { t with spdm := { t.spdm with phase := max t.spdm.phase 2 } }))

/-- NEGOTIATE_ALGORITHMS: the algorithms of R427, or InvalidRequest where the request offers none of them. -/
def execNegotiateAlgorithms (r : SpdmReq) (s : State) : Host.Outcome State Fault Refusal :=
  done (.negotiateAlgorithms r) (s.spdmServe false 2 (fun s =>
    if s.spdmAccepts 0xE3 r then
      let t := s.spdmSay 0xE3 r 0 0 (s.spdmBody 0xE3 r)
      { t with spdm := { t.spdm with phase := 3 } }
    else s.spdmError 0x01))

/-! ## Certificates and signatures (R426 to R428) -/

/-- GET_DIGESTS: the SHA-384 of both chains; slots 0 and 1 are present. -/
def execGetDigests (r : SpdmReq) (s : State) : Host.Outcome State Fault Refusal :=
  done (.getDigests r) (s.spdmServe false 3 (fun s =>
    s.spdmSay 0x81 r 0 3 (sha384 (Config.certChain 0 s.fwDigest) ++ sha384 (Config.certChain 1 s.fwDigest))))

/-- GET_CERTIFICATE: a part of the chain of slot 0 or 1, and how much of it remains. -/
def execGetCertificate (r : SpdmReq) (s : State) : Host.Outcome State Fault Refusal :=
  done (.getCertificate r) (s.spdmServe false 3 (fun s =>
    let slot := r.param1.toNat % 16
    let chain := Config.certChain slot s.fwDigest
    let off := leAt r.body 0 2
    let part := (chain.drop off).take (leAt r.body 2 2)
    if 1 < slot ∨ chain.length ≤ off then s.spdmError 0x01
    else s.spdmSay 0x82 r (BitVec.ofNat 8 slot) 0 (leBytes 2 part.length ++ leBytes 2 (chain.length - off - part.length) ++ part)))

/-- CHALLENGE: the response carries the RSA alias signature. -/
def execChallenge (r : SpdmReq) (s : State) : Host.Outcome State Fault Refusal :=
  done (.challenge r) (s.spdmServe false 3 (fun s =>
    if 1 < r.param1.toNat % 16 then s.spdmError 0x01
    else s.spdmSigned 0x83 r (r.param1 &&& 0x0F) 3 (s.spdmBody 0x83 r)))

/-! ## Measurements (R429) -/

/-- A measurement block: its index and its value. Blocks 2 to 4 are empty until their stage completes. -/
def State.measurement (s : State) (k : Nat) : List Byte :=
  match k with
  | 1 => Config.romDigest
  | 2 => s.fwDigest
  | 3 => (match s.boot.fw with
    | some f => leBytes 4 s.svnFloor.toNat ++ leBytes 8 f.fwver.toNat
    | none => [])
  | 4 => s.boot.bootImageDigest
  | _ => leBytes 4 s.truss.jcount ++ leBytes 16
      (match s.truss.journal.get? ((s.truss.jcount + 4095) % 4096) with
       | some e => e.digest.toNat
       | none => 0)

/-- A block as GET_MEASUREMENTS returns it: index, DMTF measurement specification, size, value type and value size. Value
types: 0 immutable ROM, 1 mutable firmware, 3 firmware configuration, with bit 7 for a raw value. -/
def State.measBlock (s : State) (k : Nat) : List Byte :=
  let v := s.measurement k
  let type := [0x00, 0x01, 0x83, 0x03, 0x83].getD (k - 1) 0
  [BitVec.ofNat 8 k, 0x01] ++ leBytes 2 (v.length + 3) ++ leBytes 1 type ++ leBytes 2 v.length ++ v

/-- GET_MEASUREMENTS: the number of blocks, one block, or all; signed where the request asks for it. -/
def execGetMeasurements (r : SpdmReq) (s : State) : Host.Outcome State Fault Refusal :=
  done (.getMeasurements r) (s.spdmServe false 3 (fun s =>
    let op := r.param2.toNat
    let ks := if op = 0xFF then [1, 2, 3, 4, 5] else if op = 0 then [] else [op]
    let rec' := ks.flatMap s.measBlock
    let body := leBytes 1 ks.length ++ leBytes 3 rec'.length ++ rec' ++ s.spdmBody 0xE0 r
    let p1 : Byte := if op = 0 then 5 else 0
    if 5 < op ∧ op ≠ 0xFF then s.spdmError 0x01
    else if r.param1.getLsbD 0 then s.spdmSigned 0xE0 r p1 0 body
    else s.spdmSay 0xE0 r p1 0 body))

/-- VENDOR_DEFINED_REQUEST: StandardID PCI-SIG, the Vangey vendor ID and request code 1 return the SLH-DSA alias signature over
the transcript hash that the RSA signature of the preceding signed response covered (R428). -/
def execVendorDefinedRequest (r : SpdmReq) (s : State) : Host.Outcome State Fault Refusal :=
  done (.vendorDefinedRequest r) (s.spdmServe false 3 (fun s =>
    let ours := leAt r.body 0 2 == 3 && leAt r.body 2 1 == 2 && leAt r.body 3 2 == Config.pciVendor.toNat && leAt r.body 7 1 == 1
    if !ours then s.spdmError 0x07
    else match s.spdm.lastSigned with
      | none => s.spdmError 0x04
      | some h =>
        let sig := Config.aliasSign true s.fwDigest h
        s.spdmSend 0x7E 0 0 ((r.body.take 5) ++ leBytes 2 sig.length ++ sig)))

/-! ## Sessions (R427) -/

/-- KEY_EXCHANGE: one session at a time. -/
def execKeyExchange (r : SpdmReq) (s : State) : Host.Outcome State Fault Refusal :=
  done (.keyExchange r) (s.spdmServe false 3 (fun s =>
    if s.spdm.session ∨ s.spdm.handshake then s.spdmError 0x0A
    else
      let t := s.spdmSay 0xE4 r 0 0 (s.spdmBody 0xE4 r)
      { t with spdm := { t.spdm with handshake := true } }))

/-- FINISH: the session stands once SPDM accepts its verification data. -/
def execFinish (r : SpdmReq) (s : State) : Host.Outcome State Fault Refusal :=
  done (.finish r) (s.spdmServe false 3 (fun s =>
    if !s.spdm.handshake then s.spdmError 0x04
    else if s.spdmAccepts 0xE5 r then
      let t := s.spdmSay 0xE5 r 0 0 (s.spdmBody 0xE5 r)
      { t with spdm := { t.spdm with handshake := false, session := true } }
    else ({ s with spdm := { s.spdm with handshake := false } }).spdmError 0x06))

/-- A request that only an open session carries. -/
def State.inSession (s : State) (act : State → State) : State :=
  s.spdmServe false 3 (fun s => if s.spdm.session then act { s with spdm := { s.spdm with lastSigned := none } } else s.spdmError 0x04)

def execHeartbeat (r : SpdmReq) (s : State) : Host.Outcome State Fault Refusal :=
  done (.heartbeat r) (s.inSession (fun s => s.spdmSend 0x68 0 0 []))

def execEndSession (r : SpdmReq) (s : State) : Host.Outcome State Fault Refusal :=
  done (.endSession r) (s.inSession (fun s => ({ s with spdm := { s.spdm with session := false } }).spdmSend 0x6C 0 0 []))

/-- IDE_KM_MESSAGE: a secured message of the session for CXL IDE key management; what it programs lies in the link. -/
def execIdeKmMessage (r : SpdmReq) (s : State) : Host.Outcome State Fault Refusal :=
  .next (s.inSession (fun s => s.spdmSend 0x7E 0 0 (s.spdmBody 0xFE r)))

end Sys2Proof.Machine
end

