-- ==== Sys2Proof/Machine/Pldm.lean ====
section
/-! DEFINITION. The MCTP and PLDM endpoint on the board I3C bus (R374, R376, R403, R412, R442). PLDM's command and completion
codes are PRESUMED; an answer is kept as its command code, its completion code and its value, and what PLDM decides and this
manual does not is a body without a value. -/

namespace Sys2Proof.Machine

/-! ## Events (R374) -/

/-- A command that the endpoint answers; without an address it receives none. -/
def State.bmc (s : State) (act : State → State) : State := if s.board.address.isSome ∧ s.pwr.aonUp then act s else s

/-- The identifier under which a waiting event is acknowledged (DESIGN CHOICE). -/
def Record.eventId (r : Record) : Nat := r.seq % 65535 + 1

/-- POLL_FOR_PLATFORM_EVENT_MESSAGE: the acknowledged event leaves the queue, and the next one is answered. -/
def State.bmcPoll (s : State) (ack : Nat) : State :=
  let q := match s.board.bmcQueue with
    | r :: rs => if r.eventId = ack then rs else r :: rs
    | [] => []
  let s := { s with board := { s.board with bmcQueue := q, ibi := !q.isEmpty } }
  match q with
  | [] => s.bmcSend 0x0B (leBytes 1 0 ++ leBytes 2 0)
  | r :: _ => s.bmcSend 0x0B (leBytes 1 0 ++ leBytes 2 r.eventId ++ 0xFA#8 :: s.eventData r)

def execPollForPlatformEventMessage (ack : Nat) (s : State) : Host.Outcome State Fault Refusal :=
  .next (s.bmc (fun s => s.bmcPoll ack))

/-- SET_EVENT_RECEIVER. -/
def execSetEventReceiver (eid : Byte) (s : State) : Host.Outcome State Fault Refusal :=
  .next (s.bmc (fun s =>
    (({ s with board := { s.board with receiver := some eid } }).bmcSend 0x04 [0x00]).bmcServe))

/-! ## Sensors and effecters (R403, R412) -/

/-- The hottest course of a die, in 1/16 °C. -/
def State.dieTemp (s : State) (d : Nat) : Int :=
  ((List.range 64).map (fun c => (s.course (64 * d + c)).temp)).foldl max (s.course (64 * d)).temp

/-- A sensor's reading; °C, A and J are rounded down (DESIGN CHOICE). -/
def State.sensor (s : State) (id : Nat) : Option Int :=
  let p := s.pwr
  if id = 0x0001 then some p.p1ms
  else if id = 0x0002 then some p.pwin
  else if id = 0x0003 then some p.vinMV
  else if id = 0x0004 then some ((p.iinMA / 1000 : Nat) : Int)
  else if id = 0x0005 then some ((p.edev / 1000 : Nat) : Int)
  else if 0x0010 ≤ id ∧ id < 0x0020 then some (s.dieTemp (id - 0x10) / 16)
  else if 0x0020 ≤ id ∧ id < 0x0040 then some (p.stackTemp.getD (id - 0x20) 0 / 16)
  else if id = 0x0040 then some (p.islandTemp / 16)
  else none

/-- The ids of the repository: a sensor or effecter PDR each. -/
def pdrIds : List Nat :=
  [0x0001, 0x0002, 0x0003, 0x0004, 0x0005] ++ (List.range 16).map (· + 0x10) ++ (List.range 32).map (· + 0x20) ++ [0x0040, 0x0101, 0x0102]

/-- GET_PDR_REPOSITORY_INFO: the number of records. -/
def execGetPdrRepositoryInfo (s : State) : Host.Outcome State Fault Refusal :=
  done .getPdrRepositoryInfo (s.bmc (fun s => s.bmcSend 0x50 (leBytes 1 0 ++ leBytes 4 pdrIds.length)))

/-- GET_PDR: a record by its number from 0; its id, and unit and scaling as PLDM lays them out. -/
def execGetPdr (record : Nat) (s : State) : Host.Outcome State Fault Refusal :=
  done (.getPdr record) (s.bmc (fun s => match pdrIds[record]? with
    | some id => s.bmcSend 0x51 (leBytes 1 0 ++ leBytes 2 id ++ Config.pldmBody 0x51 id)
    | none => s.bmcSend 0x51 [0x82]))

/-- GET_SENSOR_READING. -/
def execGetSensorReading (id : Nat) (s : State) : Host.Outcome State Fault Refusal :=
  .next (s.bmc (fun s => match s.sensor id with
    | some v => s.bmcSend 0x11 (leBytes 1 0 ++ leBytes 4 (codeOf 32 v))
    | none => s.bmcSend 0x11 [0x80]))

/-- GET_NUMERIC_EFFECTER_VALUE. -/
def execGetNumericEffecterValue (id : Nat) (s : State) : Host.Outcome State Fault Refusal :=
  .next (s.bmc (fun s =>
    if id = 0x0101 then s.bmcSend 0x32 (leBytes 1 0 ++ leBytes 4 s.capReg.1)
    else if id = 0x0102 then s.bmcSend 0x32 (leBytes 1 0 ++ leBytes 4 s.capReg.2)
    else s.bmcSend 0x32 [0x80]))

/-- SET_NUMERIC_EFFECTER_VALUE: the cap or the window; a value out of range is ignored (R403). -/
def State.setEffecter (s : State) (id value : Nat) : State :=
  if id = 0x0101 then (if 1000 ≤ value ∧ value ≤ 12000 then (s.setCap value s.capReg.2).bmcSend 0x31 [0x00] else s.bmcSend 0x31 [0x02])
  else if id = 0x0102 then (if 1000 ≤ value ∧ value ≤ 60000 then (s.setCap s.capReg.1 value).bmcSend 0x31 [0x00] else s.bmcSend 0x31 [0x02])
  else s.bmcSend 0x31 [0x80]

def execSetNumericEffecterValue (id value : Nat) (s : State) : Host.Outcome State Fault Refusal :=
  .next (s.bmc (fun s => s.setEffecter id value))

/-! ## The bus and PLDM base (R374, R442) -/

/-- The 48-bit provisional ID: manufacturer in bits 47:33, 0xAF07 in bits 31:16; bits 32 and 15:0 are not given. -/
def i3cManufacturer : Nat := Config.mipiManufacturer.toNat * 2 ^ 33 + 0xAF07 * 2 ^ 16

/-- ENTDAA: the target takes a dynamic address; one that has an address takes no part (PRESUMED, I3C). Events that wait are
signalled and may leave. -/
def execEntdaa (address : BitVec 7) (s : State) : Host.Outcome State Fault Refusal :=
  .next
    (if s.board.address.isSome ∨ !s.pwr.aonUp then s else ({ s with board := { s.board with address := some address } }).bmcServe)

/-- PLDM_BASE_REQUEST: a type 0 request is answered. GetPLDMTypes (command 4) names types 0 and 2; what PLDM decides of the
others is a body without a value. Events that wait may leave after it. -/
def execPldmBaseRequest (cmd : Byte) (body : List Byte) (s : State) : Host.Outcome State Fault Refusal :=
  .next (s.bmc (fun s =>
    (s.bmcSend cmd.toNat (if cmd = 4 then 0x00#8 :: leBytes 8 5 else 0x00#8 :: Config.pldmBody cmd.toNat (ofLe body))).bmcServe))

end Sys2Proof.Machine
end

