-- ==== Sys2Proof/Machine/Tap.lean ====
section
/-! DEFINITION. The test access port (R443, R444). The instruction register holds 0 BYPASS, 1 IDCODE, 2 SAMPLE/PRELOAD,
3 EXTEST, 4 CLAMP, 5 HIGHZ, 6 INSTR_NET; no instruction changes anything else of the device. -/

namespace Sys2Proof.Machine

/-- An instruction enters the instruction register; the three that drive pins act as BYPASS unless TESTMODE = 1. -/
def State.setTap (s : State) (code : Nat) : State :=
  let c := if 3 ≤ code ∧ code ≤ 5 ∧ !s.pwr.testmode then 0 else code
  if s.pwr.aonUp then { s with board := { s.board with tap := c } } else s

/-- What the port shifts out under IDCODE. -/
def tapIdcode : Word := 0x1AF075AB

/-- The IEEE 1687 instruments on the network: 0 course temperature and voltage, 1 HBM stack temperature, 2 lane eye margins;
with TESTMODE = 1 also 3 PHY test patterns, 4 memory self-test, 5 scan. -/
def State.instruments (s : State) : List Nat := if s.pwr.testmode then [0, 1, 2, 3, 4, 5] else [0, 1, 2]

/-- TRST_N low resets the port; its instruction is then IDCODE (PRESUMED, IEEE 1149.1). -/
def execTapReset (s : State) : Host.Outcome State Fault Refusal := done .tapReset (s.setTap 1)
def execBypass (s : State) : Host.Outcome State Fault Refusal := done .bypass (s.setTap 0)
def execIdcode (s : State) : Host.Outcome State Fault Refusal := done .idcode (s.setTap 1)
def execSamplePreload (s : State) : Host.Outcome State Fault Refusal := done .samplePreload (s.setTap 2)
def execExtest (s : State) : Host.Outcome State Fault Refusal := done .extest (s.setTap 3)
def execClamp (s : State) : Host.Outcome State Fault Refusal := done .clamp (s.setTap 4)
def execHighz (s : State) : Host.Outcome State Fault Refusal := done .highz (s.setTap 5)
def execInstrNet (s : State) : Host.Outcome State Fault Refusal := done .instrNet (s.setTap 6)

end Sys2Proof.Machine
end

