-- ==== Sys2Proof/Machine/Dispatch.lean ====
section
/-! DEFINITION. One arm for every command: a direct call of its meaning. -/

namespace Sys2Proof.Machine

def exec (i : Instr) (s : State) : Host.Outcome State Fault Refusal :=
  match i with
  | .nop x f => Sys2Proof.Machine.execNop x f s
  | .bra x f => Sys2Proof.Machine.execBra x f s
  | .brx x f => Sys2Proof.Machine.execBrx x f s
  | .call x f => Sys2Proof.Machine.execCall x f s
  | .exit x f => Sys2Proof.Machine.execExit x f s
  | .bar x f => Sys2Proof.Machine.execBar x f s
  | .rdsr x f => Sys2Proof.Machine.execRdsr x f s
  | .iadd x f => Sys2Proof.Machine.execIadd x f s
  | .isub x f => Sys2Proof.Machine.execIsub x f s
  | .imul x f => Sys2Proof.Machine.execImul x f s
  | .imulh x f => Sys2Proof.Machine.execImulh x f s
  | .imad x f => Sys2Proof.Machine.execImad x f s
  | .imin x f => Sys2Proof.Machine.execImin x f s
  | .imax x f => Sys2Proof.Machine.execImax x f s
  | .iabs x f => Sys2Proof.Machine.execIabs x f s
  | .and x f => Sys2Proof.Machine.execAnd x f s
  | .or x f => Sys2Proof.Machine.execOr x f s
  | .xor x f => Sys2Proof.Machine.execXor x f s
  | .shl x f => Sys2Proof.Machine.execShl x f s
  | .shr x f => Sys2Proof.Machine.execShr x f s
  | .sar x f => Sys2Proof.Machine.execSar x f s
  | .popc x f => Sys2Proof.Machine.execPopc x f s
  | .clz x f => Sys2Proof.Machine.execClz x f s
  | .bfe x f => Sys2Proof.Machine.execBfe x f s
  | .bfi x f => Sys2Proof.Machine.execBfi x f s
  | .iaddi x f => Sys2Proof.Machine.execIaddi x f s
  | .imuli x f => Sys2Proof.Machine.execImuli x f s
  | .andi x f => Sys2Proof.Machine.execAndi x f s
  | .ori x f => Sys2Proof.Machine.execOri x f s
  | .xori x f => Sys2Proof.Machine.execXori x f s
  | .shli x f => Sys2Proof.Machine.execShli x f s
  | .shri x f => Sys2Proof.Machine.execShri x f s
  | .sari x f => Sys2Proof.Machine.execSari x f s
  | .movi x f => Sys2Proof.Machine.execMovi x f s
  | .mov x f => Sys2Proof.Machine.execMov x f s
  | .sel x f => Sys2Proof.Machine.execSel x f s
  | .fadd x f => Sys2Proof.Machine.execFadd x f s
  | .fsub x f => Sys2Proof.Machine.execFsub x f s
  | .fmul x f => Sys2Proof.Machine.execFmul x f s
  | .ffma x f => Sys2Proof.Machine.execFfma x f s
  | .fmin x f => Sys2Proof.Machine.execFmin x f s
  | .fmax x f => Sys2Proof.Machine.execFmax x f s
  | .fabs x f => Sys2Proof.Machine.execFabs x f s
  | .fneg x f => Sys2Proof.Machine.execFneg x f s
  | .fdiv x f => Sys2Proof.Machine.execFdiv x f s
  | .fsqrt x f => Sys2Proof.Machine.execFsqrt x f s
  | .frcp x f => Sys2Proof.Machine.execFrcp x f s
  | .frsq x f => Sys2Proof.Machine.execFrsq x f s
  | .fexp2 x f => Sys2Proof.Machine.execFexp2 x f s
  | .flog2 x f => Sys2Proof.Machine.execFlog2 x f s
  | .ftanh x f => Sys2Proof.Machine.execFtanh x f s
  | .fmuli x f => Sys2Proof.Machine.execFmuli x f s
  | .fsin x f => Sys2Proof.Machine.execFsin x f s
  | .fcos x f => Sys2Proof.Machine.execFcos x f s
  | .isetp x f => Sys2Proof.Machine.execIsetp x f s
  | .fsetp x f => Sys2Proof.Machine.execFsetp x f s
  | .plop x f => Sys2Proof.Machine.execPlop x f s
  | .i2f x f => Sys2Proof.Machine.execI2f x f s
  | .f2i x f => Sys2Proof.Machine.execF2i x f s
  | .cvt x f => Sys2Proof.Machine.execCvt x f s
  | .ld x f => Sys2Proof.Machine.execLd x f s
  | .st x f => Sys2Proof.Machine.execSt x f s
  | .ldl x f => Sys2Proof.Machine.execLdl x f s
  | .stl x f => Sys2Proof.Machine.execStl x f s
  | .atom x f => Sys2Proof.Machine.execAtom x f s
  | .fence x f => Sys2Proof.Machine.execFence x f s
  | .gfeedr x f => Sys2Proof.Machine.execGfeedr x f s
  | .gfeeds x f => Sys2Proof.Machine.execGfeeds x f s
  | .gdrain x f => Sys2Proof.Machine.execGdrain x f s
  | .greshape x f => Sys2Proof.Machine.execGreshape x f s
  | .grelease x f => Sys2Proof.Machine.execGrelease x f s
  | .spadd x f => Sys2Proof.Machine.execSpadd x f s
  | .spwait x f => Sys2Proof.Machine.execSpwait x f s
  | .sparrive x f => Sys2Proof.Machine.execSparrive x f s
  | .spread x f => Sys2Proof.Machine.execSpread x f s
  | .alloc x f => Sys2Proof.Machine.execAlloc x f s
  | .free x f => Sys2Proof.Machine.execFree x f s
  | .hput x f => Sys2Proof.Machine.execHput x f s
  | .hget x f => Sys2Proof.Machine.execHget x f s
  | .philox x f => Sys2Proof.Machine.execPhilox x f s
  | .rnde x f => Sys2Proof.Machine.execRnde x f s
  | .msend x f => Sys2Proof.Machine.execMsend x f s
  | .mrecv x f => Sys2Proof.Machine.execMrecv x f s
  | .pendingWriteLands core slot n => Sys2Proof.Machine.execPendingWriteLands core slot n s
  | .sheafPlace e core => Sys2Proof.Machine.execSheafPlace e core s
  | .sheafSwapOut core slot => Sys2Proof.Machine.execSheafSwapOut core slot s
  | .sheafRestore core n => Sys2Proof.Machine.execSheafRestore core n s
  | .feedAccepted gang side bank => Sys2Proof.Machine.execFeedAccepted gang side bank s
  | .cellFire gang row col => Sys2Proof.Machine.execCellFire gang row col s
  | .elementWisePair gang row x y ncw dcw doff tid elem => Sys2Proof.Machine.execElementWisePair gang row x y ncw dcw doff tid elem s
  | .drainComplete gang core => Sys2Proof.Machine.execDrainComplete gang core s
  | .checkerResult id accs outs => Sys2Proof.Machine.execCheckerResult id accs outs s
  | .arbiterVerdict id accs outs => Sys2Proof.Machine.execArbiterVerdict id accs outs s
  | .rowShift course row => Sys2Proof.Machine.execRowShift course row s
  | .rowShiftDone course row => Sys2Proof.Machine.execRowShiftDone course row s
  | .reshapeComplete tract => Sys2Proof.Machine.execReshapeComplete tract s
  | .gangParityError gang core part => Sys2Proof.Machine.execGangParityError gang core part s
  | .contextAbort ctx => Sys2Proof.Machine.execContextAbort ctx s
  | .homeSliceAccess n => Sys2Proof.Machine.execHomeSliceAccess n s
  | .fillArrives line words => Sys2Proof.Machine.execFillArrives line words s
  | .orderedContribution n => Sys2Proof.Machine.execOrderedContribution n s
  | .orderedRetry n => Sys2Proof.Machine.execOrderedRetry n s
  | .orderedSequenceAbandon addr => Sys2Proof.Machine.execOrderedSequenceAbandon addr s
  | .scrub addr st symbols => Sys2Proof.Machine.execScrub addr st symbols s
  | .sparHomeOperation spar => Sys2Proof.Machine.execSparHomeOperation spar s
  | .agentSparOperation fn jslot which op => Sys2Proof.Machine.execAgentSparOperation fn jslot which op s
  | .chunkStart fn jslot chunk => Sys2Proof.Machine.execChunkStart fn jslot chunk s
  | .contribution port m => Sys2Proof.Machine.execContribution port m s
  | .engineApplyChunk engine => Sys2Proof.Machine.execEngineApplyChunk engine s
  | .preBlockApply fn jslot entry => Sys2Proof.Machine.execPreBlockApply fn jslot entry s
  | .rowCopyDone engine => Sys2Proof.Machine.execRowCopyDone engine s
  | .parameterMessage port m => Sys2Proof.Machine.execParameterMessage port m s
  | .blockStreamStart fn jslot => Sys2Proof.Machine.execBlockStreamStart fn jslot s
  | .blockContribution port m => Sys2Proof.Machine.execBlockContribution port m s
  | .escape port m => Sys2Proof.Machine.execEscape port m s
  | .blockResult port m => Sys2Proof.Machine.execBlockResult port m s
  | .ridgeSend fn jslot => Sys2Proof.Machine.execRidgeSend fn jslot s
  | .ridge port m => Sys2Proof.Machine.execRidge port m s
  | .void port m => Sys2Proof.Machine.execVoid port m s
  | .replayStart fn jslot => Sys2Proof.Machine.execReplayStart fn jslot s
  | .join port m => Sys2Proof.Machine.execJoin port m s
  | .spareTakeover fn jslot t => Sys2Proof.Machine.execSpareTakeover fn jslot t s
  | .ridgeTimeout fn jslot => Sys2Proof.Machine.execRidgeTimeout fn jslot s
  | .ridgeOverdue fn jslot => Sys2Proof.Machine.execRidgeOverdue fn jslot s
  | .checkpointStreamComplete fn jslot buddy => Sys2Proof.Machine.execCheckpointStreamComplete fn jslot buddy s
  | .read port m => Sys2Proof.Machine.execRead port m s
  | .write port m => Sys2Proof.Machine.execWrite port m s
  | .atomic port m => Sys2Proof.Machine.execAtomic port m s
  | .atomicOrd port m => Sys2Proof.Machine.execAtomicOrd port m s
  | .readResp port m => Sys2Proof.Machine.execReadResp port m s
  | .writeAck port m => Sys2Proof.Machine.execWriteAck port m s
  | .atomicResp port m => Sys2Proof.Machine.execAtomicResp port m s
  | .returnMsg port m => Sys2Proof.Machine.execReturnMsg port m s
  | .nak port m => Sys2Proof.Machine.execNak port m s
  | .messageForward port m => Sys2Proof.Machine.execMessageForward port m s
  | .remoteTimeout tag => Sys2Proof.Machine.execRemoteTimeout tag s
  | .flitReceive port flit => Sys2Proof.Machine.execFlitReceive port flit s
  | .retryRequest port next => Sys2Proof.Machine.execRetryRequest port next s
  | .berWindow port errors bits => Sys2Proof.Machine.execBerWindow port errors bits s
  | .portTrainingComplete port lanes peer peerPort => Sys2Proof.Machine.execPortTrainingComplete port lanes peer peerPort s
  | .vcStalled port vc => Sys2Proof.Machine.execVcStalled port vc s
  | .violationScoreDecay => Sys2Proof.Machine.execViolationScoreDecay s
  | .reorderRelease port => Sys2Proof.Machine.execReorderRelease port s
  | .queueNop e => Sys2Proof.Machine.execQueueNop e s
  | .launch e => Sys2Proof.Machine.execLaunch e s
  | .copy e => Sys2Proof.Machine.execCopy e s
  | .fill e => Sys2Proof.Machine.execFill e s
  | .reshape e => Sys2Proof.Machine.execReshape e s
  | .sparadd e => Sys2Proof.Machine.execSparadd e s
  | .ctxcreate e => Sys2Proof.Machine.execCtxcreate e s
  | .ctxdestroy e => Sys2Proof.Machine.execCtxdestroy e s
  | .ctxrecover e => Sys2Proof.Machine.execCtxrecover e s
  | .codeload e => Sys2Proof.Machine.execCodeload e s
  | .codeunload e => Sys2Proof.Machine.execCodeunload e s
  | .oalloc e => Sys2Proof.Machine.execOalloc e s
  | .ofree e => Sys2Proof.Machine.execOfree e s
  | .oshare e => Sys2Proof.Machine.execOshare e s
  | .odrop e => Sys2Proof.Machine.execOdrop e s
  | .ocopy e => Sys2Proof.Machine.execOcopy e s
  | .query e => Sys2Proof.Machine.execQuery e s
  | .entryFetch fn q => Sys2Proof.Machine.execEntryFetch fn q s
  | .entryFinish e => Sys2Proof.Machine.execEntryFinish e s
  | .completionPost fn q => Sys2Proof.Machine.execCompletionPost fn q s
  | .modtimeExpires fn q => Sys2Proof.Machine.execModtimeExpires fn q s
  | .pageIn ctx => Sys2Proof.Machine.execPageIn ctx s
  | .destructionComplete ctx => Sys2Proof.Machine.execDestructionComplete ctx s
  | .hqDbsq fn q tail => Sys2Proof.Machine.execHqDbsq fn q tail s
  | .hqDbcq fn q head => Sys2Proof.Machine.execHqDbcq fn q head s
  | .queueEnable fn q v => Sys2Proof.Machine.execQueueEnable fn q v s
  | .queueDisable fn q v => Sys2Proof.Machine.execQueueDisable fn q v s
  | .mailboxSend fn ch => Sys2Proof.Machine.execMailboxSend fn ch s
  | .inboundGoClear fn ch => Sys2Proof.Machine.execInboundGoClear fn ch s
  | .channelOpenWrite fn ch v => Sys2Proof.Machine.execChannelOpenWrite fn ch v s
  | .mcAccept fn ch => Sys2Proof.Machine.execMcAccept fn ch s
  | .mcAnswer fn ch words => Sys2Proof.Machine.execMcAnswer fn ch words s
  | .secureClaim rid ide v => Sys2Proof.Machine.execSecureClaim rid ide v s
  | .sparCreate fn v => Sys2Proof.Machine.execSparCreate fn v s
  | .sparMap fn v => Sys2Proof.Machine.execSparMap fn v s
  | .sparUnmap fn v => Sys2Proof.Machine.execSparUnmap fn v s
  | .sparDestroy fn v => Sys2Proof.Machine.execSparDestroy fn v s
  | .sparRead fn v => Sys2Proof.Machine.execSparRead fn v s
  | .sparSet fn v => Sys2Proof.Machine.execSparSet fn v s
  | .jobLoad fn v => Sys2Proof.Machine.execJobLoad fn v s
  | .jobUnload fn v => Sys2Proof.Machine.execJobUnload fn v s
  | .forceVoid fn v => Sys2Proof.Machine.execForceVoid fn v s
  | .membershipReload fn v => Sys2Proof.Machine.execMembershipReload fn v s
  | .replay fn v => Sys2Proof.Machine.execReplay fn v s
  | .skip fn v => Sys2Proof.Machine.execSkip fn v s
  | .checkpointRegister fn v => Sys2Proof.Machine.execCheckpointRegister fn v s
  | .resume fn v => Sys2Proof.Machine.execResume fn v s
  | .restore fn v => Sys2Proof.Machine.execRestore fn v s
  | .restoreFromBuddy fn v body => Sys2Proof.Machine.execRestoreFromBuddy fn v body s
  | .hoardRelease fn v => Sys2Proof.Machine.execHoardRelease fn v s
  | .errCodeClear fn v => Sys2Proof.Machine.execErrCodeClear fn v s
  | .windowEntryEnable fn index v => Sys2Proof.Machine.execWindowEntryEnable fn index v s
  | .windowEntryInvalidate fn index v => Sys2Proof.Machine.execWindowEntryInvalidate fn index v s
  | .windowInvalidateDone fn index => Sys2Proof.Machine.execWindowInvalidateDone fn index s
  | .quarantineClear fn port v => Sys2Proof.Machine.execQuarantineClear fn port v s
  | .retrain fn port v => Sys2Proof.Machine.execRetrain fn port v s
  | .injPctlWrite fn port v => Sys2Proof.Machine.execInjPctlWrite fn port v s
  | .injPseedWrite fn port v => Sys2Proof.Machine.execInjPseedWrite fn port v s
  | .signatureRingEnable fn v => Sys2Proof.Machine.execSignatureRingEnable fn v s
  | .powerCapWrite fn v => Sys2Proof.Machine.execPowerCapWrite fn v s
  | .ctxKill fn v => Sys2Proof.Machine.execCtxKill fn v s
  | .fullLoad fn v => Sys2Proof.Machine.execFullLoad fn v s
  | .partitionLoad fn v => Sys2Proof.Machine.execPartitionLoad fn v s
  | .trussApply => Sys2Proof.Machine.execTrussApply s
  | .shutdown fn target => Sys2Proof.Machine.execShutdown fn target s
  | .flr fn => Sys2Proof.Machine.execFlr fn s
  | .vfEnableClear => Sys2Proof.Machine.execVfEnableClear s
  | .shutdownComplete fn us => Sys2Proof.Machine.execShutdownComplete fn us s
  | .functionWedged fn us => Sys2Proof.Machine.execFunctionWedged fn us s
  | .functionEnable fn => Sys2Proof.Machine.execFunctionEnable fn s
  | .erase fn target => Sys2Proof.Machine.execErase fn target s
  | .eraseComplete fn => Sys2Proof.Machine.execEraseComplete fn s
  | .fullreset fn v => Sys2Proof.Machine.execFullreset fn v s
  | .conventionalReset => Sys2Proof.Machine.execConventionalReset s
  | .cxlReset => Sys2Proof.Machine.execCxlReset s
  | .cxlMemRead dpa len => Sys2Proof.Machine.execCxlMemRead dpa len s
  | .cxlMemWrite dpa data poison => Sys2Proof.Machine.execCxlMemWrite dpa data poison s
  | .splitWriteTimeout fn => Sys2Proof.Machine.execSplitWriteTimeout fn s
  | .splitReadLow rid ide fn off => Sys2Proof.Machine.execSplitReadLow rid ide fn off s
  | .registerWrite rid ide fn off wide v => Sys2Proof.Machine.execRegisterWrite rid ide fn off wide v s
  | .bootMailboxSend v => Sys2Proof.Machine.execBootMailboxSend v s
  | .doeBootChunk kind last off total data => Sys2Proof.Machine.execDoeBootChunk kind last off total data s
  | .firmwareVerify => Sys2Proof.Machine.execFirmwareVerify s
  | .bootImageApply => Sys2Proof.Machine.execBootImageApply s
  | .memoryTrainingComplete badUnits channels => Sys2Proof.Machine.execMemoryTrainingComplete badUnits channels s
  | .fabricBringupComplete => Sys2Proof.Machine.execFabricBringupComplete s
  | .identityKeysReady ok => Sys2Proof.Machine.execIdentityKeysReady ok s
  | .getVersion r => Sys2Proof.Machine.execGetVersion r s
  | .getCapabilities r => Sys2Proof.Machine.execGetCapabilities r s
  | .negotiateAlgorithms r => Sys2Proof.Machine.execNegotiateAlgorithms r s
  | .getDigests r => Sys2Proof.Machine.execGetDigests r s
  | .getCertificate r => Sys2Proof.Machine.execGetCertificate r s
  | .challenge r => Sys2Proof.Machine.execChallenge r s
  | .getMeasurements r => Sys2Proof.Machine.execGetMeasurements r s
  | .keyExchange r => Sys2Proof.Machine.execKeyExchange r s
  | .finish r => Sys2Proof.Machine.execFinish r s
  | .heartbeat r => Sys2Proof.Machine.execHeartbeat r s
  | .endSession r => Sys2Proof.Machine.execEndSession r s
  | .vendorDefinedRequest r => Sys2Proof.Machine.execVendorDefinedRequest r s
  | .getPdrRepositoryInfo => Sys2Proof.Machine.execGetPdrRepositoryInfo s
  | .getPdr record => Sys2Proof.Machine.execGetPdr record s
  | .getSensorReading id => Sys2Proof.Machine.execGetSensorReading id s
  | .getNumericEffecterValue id => Sys2Proof.Machine.execGetNumericEffecterValue id s
  | .setNumericEffecterValue id value => Sys2Proof.Machine.execSetNumericEffecterValue id value s
  | .setEventReceiver eid => Sys2Proof.Machine.execSetEventReceiver eid s
  | .pollForPlatformEventMessage ack => Sys2Proof.Machine.execPollForPlatformEventMessage ack s
  | .entdaa address => Sys2Proof.Machine.execEntdaa address s
  | .powerBudgetTick energyUJ demand island => Sys2Proof.Machine.execPowerBudgetTick energyUJ demand island s
  | .courseStandby course => Sys2Proof.Machine.execCourseStandby course s
  | .courseOff course => Sys2Proof.Machine.execCourseOff course s
  | .courseWakeComplete course => Sys2Proof.Machine.execCourseWakeComplete course s
  | .pacingInterval course => Sys2Proof.Machine.execPacingInterval course s
  | .temperatureSample course temp mv => Sys2Proof.Machine.execTemperatureSample course temp mv s
  | .thermalTripTimeout course => Sys2Proof.Machine.execThermalTripTimeout course s
  | .hbmStackTemperature stack temp => Sys2Proof.Machine.execHbmStackTemperature stack temp s
  | .deliverySense powerW currentMA vinMV => Sys2Proof.Machine.execDeliverySense powerW currentMA vinMV s
  | .deliveryThrottleEnd => Sys2Proof.Machine.execDeliveryThrottleEnd s
  | .courseSupplyFault course => Sys2Proof.Machine.execCourseSupplyFault course s
  | .vinMainOutOfLimits mv => Sys2Proof.Machine.execVinMainOutOfLimits mv s
  | .vinMainLoss => Sys2Proof.Machine.execVinMainLoss s
  | .vinMainStable perst => Sys2Proof.Machine.execVinMainStable perst s
  | .vinAonApplied testmode sris => Sys2Proof.Machine.execVinAonApplied testmode sris s
  | .vinAonLoss => Sys2Proof.Machine.execVinAonLoss s
  | .pmbusPoll answers vinMV iinMA status => Sys2Proof.Machine.execPmbusPoll answers vinMV iinMA status s
  | .energySample contexts jobs idle base => Sys2Proof.Machine.execEnergySample contexts jobs idle base s
  | .contextEnergyWriteback ctx => Sys2Proof.Machine.execContextEnergyWriteback ctx s
  | .clockStop => Sys2Proof.Machine.execClockStop s
  | .clockReturn => Sys2Proof.Machine.execClockReturn s
  | .tapReset => Sys2Proof.Machine.execTapReset s
  | .bypass => Sys2Proof.Machine.execBypass s
  | .idcode => Sys2Proof.Machine.execIdcode s
  | .samplePreload => Sys2Proof.Machine.execSamplePreload s
  | .extest => Sys2Proof.Machine.execExtest s
  | .clamp => Sys2Proof.Machine.execClamp s
  | .highz => Sys2Proof.Machine.execHighz s
  | .instrNet => Sys2Proof.Machine.execInstrNet s
  | .vinMainReturnsWithinLimits mv => Sys2Proof.Machine.execVinMainReturnsWithinLimits mv s
  | .pldmBaseRequest cmd body => Sys2Proof.Machine.execPldmBaseRequest cmd body s
  | .ideKmMessage r => Sys2Proof.Machine.execIdeKmMessage r s

end Sys2Proof.Machine
end

