-- ==== Sys2Proof/Machine/Step.lean ====
section
/-! DEFINITION. One step: the command at the front of the queue is executed; with no command waiting,
the block idles and its local time counter counts. -/

namespace Sys2Proof.Machine

/-- DESIGN CHOICE: with no command waiting one period of the 25 MHz always-on clock passes, so the local
time counter counts (R395), unless the island is unpowered or the clock has stopped (R439, R441). -/
def idle (s : State) : State :=
  if s.pwr.aonUp ∧ s.pwr.clockUp then { s with pwr := { s.pwr with time := s.pwr.time + 1 } } else s

/-- Take the command at the front of the queue and execute it with the rest of the queue. -/
def step (s : State) : Host.Outcome State Fault Refusal :=
  match s.pending with
  | [] => .next (idle s)
  | c :: rest => exec c { s with pending := rest }

/-- The state with the command that a word spells in front of its queue; unchanged where the word spells
none. -/
def State.withFetchWord (s : State) (nbits w : Nat) : State :=
  match decodeTableWord nbits w with
  | some c => { s with pending := c :: s.pending }
  | none => s

end Sys2Proof.Machine
end

