-- ==== Sys2Proof/Safety.lean ====
section
/-! DEFINITION. The terms in which claims are made: who issues, what an effect leaves alone, and the
invariants that every step keeps. -/

namespace Sys2Proof.Machine

/-! ## Issue (R88 to R92, R108, R111) -/

/-- The leader exists and can issue: its thread is READY in a running context of a running course (R88, R89). -/
def State.Leads (s : State) (i : Issue) : Prop := i.core < 1048576 ∧ i.leader < 64 ∧ s.canLead i = true

/-- What an instruction's guard, encoding and operands fix of its issue: whether it is slot-bound, and the registers that
it reads. -/
structure Form where
  guard : BitVec 5
  bound : Bool
  reads : List Reg

/-- A member whose guard is true and that reads an awaited register waits for it (R92). -/
def State.heldBack (s : State) (i : Issue) (q : Form) (m : Nat) : Bool :=
  s.guardOn i.core q.guard m && s.mustWait i.core q.reads m

def State.groupOf (s : State) (i : Issue) (q : Form) : List Nat := (s.core i.core).group i.leader q.bound

/-- The members that issue, and those of them whose guard is true, in ascending position. -/
def State.going (s : State) (i : Issue) (q : Form) : List Nat := (s.groupOf i q).filter (fun m => !s.heldBack i q m)
def State.acting (s : State) (i : Issue) (q : Form) : List Nat := (s.going i q).filter (s.guardOn i.core q.guard)

/-- The word in a register of a thread. -/
def State.regOf (s : State) (core m : Nat) (r : Reg) : Word :=
  match s.slot core (m / 16) with
  | some sl => sl.read (m % 16) r
  | none => 0

/-- The word in a u register of a slot. -/
def State.uOf (s : State) (core slot n : Nat) : Word :=
  match s.slot core slot with
  | some sl => sl.u.getD n 0
  | none => 0

/-- A slot without its threads, u registers and pending results. -/
def Slot.rest (sl : Slot) : Slot := { sl with threads := [], u := [], pend := [] }

/-- The pending results of a slot, apart from the marks of overwritten registers (R94). -/
def Slot.pends (sl : Slot) : List Pend := sl.pend.map (fun p => { p with clobber := false })

/-- Of the whole device only a core has changed. -/
def State.OnlyCore (s t : State) (core : Nat) : Prop :=
  t = { s with grid := { s.grid with cores := s.grid.cores.put core (t.core core) } }

/-- Of the whole device only threads, registers and pending results of a core, and its issue pointer, have changed. -/
def State.OnlyThreads (s t : State) (i : Issue) : Prop :=
  s.OnlyCore t i.core ∧
  { t.core i.core with slots := [] } = { s.core i.core with slots := [], ptr := (i.leader + 1) % 64 } ∧
  ∀ j, (t.slot i.core j).map Slot.rest = (s.slot i.core j).map Slot.rest

/-- A thread that waits for the awaited registers among those that it reads. -/
def State.waiting (s : State) (i : Issue) (q : Form) (m : Nat) : Thread :=
  { s.thread i.core m with st := .waitData, waits := (q.reads.filter (fun r => s.mustWait i.core [r] m)).map Reg.code }

/-- A thread that goes on to the next instruction. -/
def Thread.past (th : Thread) : Thread := { th with pc := th.pc + 8 }

/-- The threads of a core after an instruction: `act` for those whose guard is true, the next instruction for the others
that issue, a wait for those held back, and no change elsewhere. -/
def State.Threads (s t : State) (i : Issue) (q : Form) (act : Nat → Thread → Thread) : Prop :=
  ∀ m, t.thread i.core m =
    if m ∈ s.acting i q then act m (s.thread i.core m)
    else if m ∈ s.going i q then (s.thread i.core m).past
    else if m ∈ s.groupOf i q then s.waiting i q m
    else s.thread i.core m

/-- The state in which an instruction acts: the issue pointer has moved, and the members that must wait do. -/
def State.issued (s : State) (i : Issue) (q : Form) : State :=
  (s.updCore i.core (fun c => { c with ptr := (i.leader + 1) % 64 })).waitData i.core q.reads
    ((s.groupOf i q).filter (s.heldBack i q))

/-- An effect in the state in which the instruction acts, after which its group goes on to the next instruction. -/
def State.acts (s : State) (i : Issue) (q : Form) (effect : State → State) : State :=
  (effect (s.issued i q)).nextPc i.core (s.going i q)

/-- Threads of a core after an instruction that touches no register: nothing but them and the issue pointer has changed. -/
def State.Goes (s t : State) (i : Issue) (q : Form) (act : Nat → Thread → Thread) : Prop :=
  s.OnlyThreads t i ∧ s.Threads t i q act ∧
  (∀ j, (t.slot i.core j).map Slot.u = (s.slot i.core j).map Slot.u) ∧
  ∀ j, (t.slot i.core j).map Slot.pend = (s.slot i.core j).map Slot.pend

/-! ## Results of lane instructions (R111, R112) -/

/-- A thread that has received a word in a register of its own. -/
def Thread.got (th : Thread) (r : Reg) (v : Word) : Thread :=
  match r with
  | .g n => { th with g := th.g.put n v }
  | _ => th

/-- A lane instruction: each acting thread receives its result in a g register; a u register receives the result of the
lowest one; ZR discards it. Nothing else changes. -/
def State.LaneResult (s t : State) (i : Issue) (q : Form) (dst : Reg) (val : Nat → Word) : Prop :=
  s.OnlyThreads t i ∧
  s.Threads t i q (fun m th => (th.got dst (val m)).past) ∧
  (∀ j, (t.slot i.core j).map Slot.pends = (s.slot i.core j).map Slot.pends) ∧
  ∀ j n, t.uOf i.core j n =
    match (s.acting i q).head? with
    | some m => if dst = .u n ∧ j = m / 16 then val m else s.uOf i.core j n
    | none => s.uOf i.core j n

/-- A register specifier that names one register; the codes from 0x31 on are reserved (R109). -/
def specifier (c : BitVec 6) : Option Reg :=
  if c.toNat < 0x20 then some (.g c.toNat)
  else if c.toNat < 0x30 then some (.u (c.toNat - 0x20))
  else if c = 0x30 then some .zr
  else none

/-- The source registers of a Form T instruction that reads its first n specifiers; those that it does not define are 0. -/
def sourcesOf (f : FormT) : Nat → Option (List Reg)
  | 1 => if f.sb = 0 ∧ f.sc = 0 then (specifier f.sa).map (fun a => [a]) else none
  | 2 => if f.sc = 0 then (specifier f.sa).bind (fun a => (specifier f.sb).map (fun b => [a, b])) else none
  | 3 => (specifier f.sa).bind (fun a => (specifier f.sb).bind (fun b => (specifier f.sc).map (fun c => [a, b, c])))
  | _ => none

/-- The register, pair or quad that a specifier names: its base is a multiple of the width, ZR stands for the whole (R110). -/
def specifiers (w : Nat) (c : BitVec 6) : Option (List Reg) :=
  if c.toNat < 0x20 then (if c.toNat % w = 0 then some ((List.range w).map (fun k => .g (c.toNat + k))) else none)
  else if c.toNat < 0x30 then (if c.toNat % w = 0 then some ((List.range w).map (fun k => .u (c.toNat - 0x20 + k))) else none)
  else if c = 0x30 then some (List.replicate w .zr)
  else none

/-- The form of an instruction that reads some registers and writes others: a u register makes it slot-bound (R111). -/
def formOf (guard : BitVec 5) (once : Bool) (reads writes : List Reg) : Form :=
  { guard := guard, bound := once || reads.any Reg.isU || writes.any Reg.isU, reads := reads }

/-! ## Results that land later (R92, R113) -/

/-- Which of the acting threads write a destination: all, or the lowest one where it is a u register (R111). -/
def givers (dst : List Reg) (ms : List Nat) : List Nat := if dst.any Reg.isU then ms.take 1 else ms

/-- The pending results of one thread: a register each, ZR none. -/
def pendings (tag pos : Nat) (ready : Bool) : List Reg → List Word → List Pend
  | .g n :: rs, v :: vs => ⟨tag, pos, n, v, ready, false, false⟩ :: pendings tag pos ready rs vs
  | .u n :: rs, v :: vs => ⟨tag, 16, n, v, ready, false, false⟩ :: pendings tag pos ready rs vs
  | .zr :: rs, _ :: vs => pendings tag pos ready rs vs
  | _, _ => []

/-- An instruction whose threads go on while results are pending: the registers keep their words, and slot j gains the pending
results `added j`. -/
def State.PendResult (s t : State) (i : Issue) (q : Form) (added : Nat → List Pend) : Prop :=
  s.OnlyThreads t i ∧
  s.Threads t i q (fun _ th => th.past) ∧
  (∀ j, (t.slot i.core j).map Slot.u = (s.slot i.core j).map Slot.u) ∧
  ∀ j, (t.slot i.core j).map Slot.pend = (s.slot i.core j).map (fun sl => sl.pend ++ added j)

/-- An instruction of the XU: each result is pending, ready to land. -/
def State.XuResult (s t : State) (i : Issue) (q : Form) (dst : List Reg) (val : Nat → List Word) : Prop :=
  s.PendResult t i q (fun j => ((givers dst (s.acting i q)).filter (fun m => m / 16 == j)).flatMap (fun m =>
    pendings 0 (m % 16) true dst (val m)))

/-- The request of a thread's access, the k-th of its group: what every kind of access has in common (R147). -/
def State.accessOf (s : State) (i : Issue) (word size hint : Nat) (kind : MemKind) (addr loc m k : Nat) : MemReq :=
  { tag := s.mem.nextTag + k, core := i.core, slot := m / 16, thread := m % 16, ctx := s.slotCtx i, pc := (s.thread i.core m).pc
    word := word, kind := kind, addr := loc, vaddr := addr, size := size, data := 0, cmp := 0, hint := hint, sext := false
    near := false, ordsc := 0, remote := none }

/-! ## Predicates (R108, R116) -/

/-- A thread that has received a value in a predicate. -/
def Thread.gotP (th : Thread) (n : Nat) (b : Bool) : Thread :=
  { th with p := if b then th.p ||| (1#8 <<< n) else th.p &&& ~~~(1#8 <<< n) }

/-- An instruction that gives each acting thread a predicate and changes nothing else. -/
def State.PredResult (s t : State) (i : Issue) (q : Form) (n : Nat) (val : Nat → Bool) : Prop :=
  s.Goes t i q (fun m th => (th.gotP n (val m)).past)

/-- The 64-bit number in a register pair, low word first (R110). -/
def State.pairOf (s : State) (core m : Nat) (l : List Reg) : DWord :=
  s.regOf core m (l.getD 1 .zr) ++ s.regOf core m (l.getD 0 .zr)

/-! ## Whole-sheaf instructions (R99, R108) -/

/-- The state in which the members that issue have come to a whole-sheaf instruction, those with a false guard masked. -/
def State.come (s : State) (i : Issue) (w : WholeIns) (q : Form) : State :=
  (s.going i q).foldl (fun t m => t.updThread i.core m (fun th =>
      { th with st := .parkWhole, masked := !(s.acting i q).contains m, whole := some w }))
    (s.issued i q)

/-- The sheaf of the leader stands whole at its instruction: every thread that has not exited has come. -/
def State.allCome (s : State) (i : Issue) (w : WholeIns) (q : Form) : Prop :=
  s.going i q ≠ [] ∧ (s.thread i.core i.leader).st ≠ .parkWhole ∧
  match (s.come i w q).slot i.core (i.leader / 16) with
  | some sl => sl.barTest = .whole
  | none => False

/-- A whole-sheaf instruction acts once, and the sheaf goes on after it. -/
def State.actsWhole (s : State) (i : Issue) (w : WholeIns) (q : Form) (effect : State → State) : State :=
  (effect (s.come i w q)).updSlot i.core (i.leader / 16) Slot.releaseWhole

/-! ## Memory (R137, R147, R150) -/

/-- Memory and die cache in canonical form: bytes listed once and in order, and no local line marked as a remote one. -/
def State.memOk (s : State) : Prop :=
  s.mem.mem.wf = true ∧ s.mem.dlines.rising = true ∧
  ∀ x ∈ s.mem.dlines, x.2.dirty.rising = true ∧ x.2.words.rising = true ∧ (∀ d ∈ x.2.dirty, d.1 < 128) ∧ (∀ d ∈ x.2.words, d.1 < 8) ∧
    (x.1 < 2 ^ 39 → x.2.remote = none)

/-- The bytes that every agent of the device sees are those of s, but for a list written at an address. -/
def State.Wrote (s t : State) (addr : Nat) (bs : List Byte) : Prop :=
  ∀ a, a < 2 ^ 46 → t.byteAt a = if addr ≤ a ∧ a < addr + bs.length then bs.getD (a - addr) 0 else s.byteAt a

/-! ## Messages (R225, R226, R235, R274) -/

/-- A message has reached this device on a working port, its header passes every check, and none of its words had an error. -/
def State.Arrived (s : State) (port : Nat) (m : Msg) (op : Nat) : Prop :=
  port < 64 ∧ m.dstdev = s.fab.devid ∧ (s.port port).st.carries = true ∧ hdrLegal m = true ∧ m.op.toNat = op ∧
  ∀ w ∈ m.words, w.st = .clean ∨ w.st = .husk

/-- A gutter message of a type has arrived for a loaded job whose member takes it. -/
def State.GutterIn (s : State) (port : Nat) (m : Msg) (type fn j : Nat) (b : Job) : Prop :=
  s.Arrived port m 0x20 ∧ gutterBad m = false ∧ (gHdrOf m).type = type ∧ s.jobById (gHdrOf m).job = some (fn, j, b) ∧
  s.job fn j = some b ∧ b.st ≠ .expelled ∧ b.me.spare = false

/-- The message has been taken from its port. -/
def State.took (s : State) (port : Nat) (m : Msg) : State := { s with fab := { s.fab with inbox := s.fab.inbox.erase (port, m) } }

/-- A ridge, void or join has been taken, and at its first coming has gone on its way (R239). -/
def State.tookOn (s : State) (port : Nat) (m : Msg) (fn j : Nat) (b : Job) : State :=
  let h := gHdrOf m
  if b.seenMsgs.contains (h.type, h.start, h.step, h.gen) then s.took port m else (s.took port m).spread fn j b h (msgBody m)

/-! ## Submission entries (R313 to R316) -/

/-- An entry whose command is about to start: nothing stands in its way. -/
def State.Starts (s : State) (e : EntryRef) (x : QEntry) (opc : Nat) : Prop :=
  e.ok = true ∧ s.entry e = some x ∧ x.opc = opc ∧ s.gate e x = .go

/-- The state in which a command acts: its entry executes, and its context is the last one used. -/
def State.begun (s : State) (e : EntryRef) (x : QEntry) : State :=
  let u := (s.updEntry e (fun y => { y with st := .running })).tick
  u.updCtx x.ctx (fun c => if c.st = .free then c else { c with stamp := u.tab.stamp })

/-- A queue runs its entries: it is enabled and not in error, and its function is ready and not shutting down. -/
def State.queueRuns (s : State) (e : EntryRef) : Prop :=
  (s.queue e.fn e.q).en = true ∧ (s.queue e.fn e.q).err = false ∧ (s.fn e.fn).tearing = false ∧ (s.fn e.fn).ready = true

/-! ## Register writes (R5 to R7, R307) -/

/-- A function whose registers answer, with no half of a split write held back. -/
def State.Answers (s : State) (fn : Nat) : Prop :=
  fn < fnCount ∧ (s.fn fn).ready = true ∧ (s.fn fn).tearing = false ∧ (s.fn fn).erasing = false ∧ (s.fn fn).heldLow = none

/-- The state in which a whole register write acts: the access has dropped a latched half. -/
def State.reached (s : State) (fn : Nat) : State := s.updFn fn (fun g => { g with heldLow := none, latched := none })

/-! ## Partitions (R357) -/

/-- Two partitions share no course, HBM unit, port, DDR5 memory, die-cache way, context, window or stream slot (R357). -/
def Part.Apart (p q : Part) : Prop :=
  (∀ x ∈ p.courses, x ∉ q.courses) ∧ (∀ x ∈ p.units, x ∉ q.units) ∧ p.ports &&& q.ports = 0 ∧
  ((∃ c, c ∈ p.chans ∧ c ∈ q.chans) → meets (p.ddrBase, p.ddrSize) (q.ddrBase, q.ddrSize) = false) ∧
  (∀ d < 16, p.ways.getD d 0 &&& q.ways.getD d 0 = 0) ∧
  meets (p.ctxBase, p.ctxCount) (q.ctxBase, q.ctxCount) = false ∧ meets (p.winBase, p.winCount) (q.winBase, q.winCount) = false ∧
  meets (p.slotBase, p.slotCnt) (q.slotBase, q.slotCnt) = false

/-- The ranges of a partition lie inside their tables, and it has two ways on every die that homes a unit or channel of it (R357). -/
def Part.Fits (p : Part) : Prop :=
  p.ctxBase + p.ctxCount ≤ 2 ^ 20 ∧ p.winBase + p.winCount ≤ 131072 ∧ p.slotBase + p.slotCnt ≤ 4096 ∧
  ∀ d ∈ p.homeDies, 2 ≤ popCount 16 (p.ways.getD d 0)

/-- A configuration that obeys the rules of R357: partitions in ascending order of their slots, each apart from every other,
each in its tables, and their shares together within the device's. -/
def partsApart (m : Map Part) : Prop :=
  m.rising = true ∧ (∀ n k p q, m.get? n = some p → m.get? k = some q → n ≠ k → p.Apart q) ∧
  (∀ n p, m.get? n = some p → p.Fits) ∧
  (m.map (fun x => x.2.rshare)).sum ≤ 3072 ∧ (m.map (fun x => x.2.qcount)).sum ≤ 65536 ∧ (m.map (fun x => x.2.sparq)).sum ≤ 65536

/-- The partitions in force obey R357, and so does the resulting configuration of an image that waits to be applied: for a
partition image, the new section of its slot together with the current sections of every other slot. -/
def State.Partitioned (s : State) : Prop :=
  partsApart s.truss.parts ∧ ∀ img, s.truss.pending = some img →
    partsApart img.parts ∧ (img.full = false → ∀ n, n ≠ img.slot → img.parts.get? n = s.truss.parts.get? n)

end Sys2Proof.Machine
end

