-- ==== Sys2Proof/Certificates/Slice0/Obligations.lean ====
section
/-! DEFINITION. The statements about the model: what each command does, what it leaves alone, and what every step keeps. -/

namespace Sys2Proof.Claims

open Sys2Proof.Machine

/-! ## The lanes and the XU (R114, R116) -/

/-- A row of the integer and FP32 tables in Form T: its command, the largest TYPE that it defines, how many of its operands it
reads, and its result, given whether TYPE says signed. -/
structure LaneRow where
  cmd : Issue → FormT → Instr
  types : Nat
  reads : Nat
  result : Bool → Word → Word → Word → Word

/-- Integer instructions of Form T (R116). -/
def integerRows : List LaneRow :=
  [ ⟨.iadd, 0, 2, fun _ a b _ => a + b⟩,
    ⟨.isub, 0, 2, fun _ a b _ => a - b⟩,
    ⟨.imul, 0, 2, fun _ a b _ => a * b⟩,
    ⟨.imulh, 1, 2, fun t a b _ => if t then BitVec.ofInt 32 (a.toInt * b.toInt / 2 ^ 32)
      else BitVec.ofNat 32 (a.toNat * b.toNat / 2 ^ 32)⟩,
    ⟨.imad, 0, 3, fun _ a b c => a * b + c⟩,
    ⟨.imin, 1, 2, fun t a b _ => if (if t then b.slt a else b.ult a) then b else a⟩,
    ⟨.imax, 1, 2, fun t a b _ => if (if t then a.slt b else a.ult b) then b else a⟩,
    ⟨.iabs, 0, 1, fun _ a _ _ => if a.toInt < 0 then -a else a⟩,
    ⟨.and, 0, 2, fun _ a b _ => a &&& b⟩,
    ⟨.or, 0, 2, fun _ a b _ => a ||| b⟩,
    ⟨.xor, 0, 2, fun _ a b _ => a ^^^ b⟩,
    ⟨.shl, 0, 2, fun _ a b _ => a <<< b.toNat⟩,
    ⟨.shr, 0, 2, fun _ a b _ => a >>> b.toNat⟩,
    ⟨.sar, 0, 2, fun _ a b _ => a.sshiftRight b.toNat⟩,
    ⟨.mov, 0, 1, fun _ a _ _ => a⟩ ]

/-- Bit counts and bit fields (R116). -/
def bitRows : List LaneRow :=
  [ ⟨.popc, 0, 1, fun _ a _ _ => BitVec.ofNat 32 ((List.range 32).countP a.getLsbD)⟩,
    ⟨.clz, 0, 1, fun _ a _ _ => BitVec.ofNat 32 ((List.range 32).countP (fun k => decide (a.toNat < 2 ^ k)))⟩,
    ⟨.bfe, 1, 3, fun t a b c =>
      let p := b.toNat % 32
      let n := min (c.toNat % 64) (32 - p)
      if t then (a.extractLsb' p n).signExtend 32 else (a.extractLsb' p n).setWidth 32⟩ ]

/-- FP32 instructions of the lanes (R116). -/
def floatRows : List LaneRow :=
  [ ⟨.fadd, 0, 2, fun _ a b _ => fadd32 a b⟩,
    ⟨.fsub, 0, 2, fun _ a b _ => fsub32 a b⟩,
    ⟨.fmul, 0, 2, fun _ a b _ => fmul32 a b⟩,
    ⟨.ffma, 0, 3, fun _ a b c => fma32 a b c⟩,
    ⟨.fmin, 0, 2, fun _ a b _ => fminmax false a b⟩,
    ⟨.fmax, 0, 2, fun _ a b _ => fminmax true a b⟩,
    ⟨.fabs, 0, 1, fun _ a _ _ => if (ofF32 a).isNan then a else a &&& 0x7FFFFFFF#32⟩,
    ⟨.fneg, 0, 1, fun _ a _ _ => if (ofF32 a).isNan then a else a ^^^ 0x80000000#32⟩,
    ⟨.i2f, 1, 1, fun t a _ _ => i2f32 t a⟩,
    ⟨.f2i, 1, 1, fun t a _ _ => f2i32 t a⟩ ]

/-- FP32 instructions of the XU (R113, R116); those that the manual bounds by ulps give a free value, and the canonical NaN for
a NaN. -/
def xuRows : List LaneRow :=
  let bounded (g : Word → Word) : Bool → Word → Word → Word → Word := fun _ a _ _ => if (ofF32 a).isNan then 0x7FC00000#32 else g a
  [ ⟨.fdiv, 0, 2, fun _ a b _ => fdiv32 a b⟩,
    ⟨.fsqrt, 0, 1, fun _ a _ _ => fsqrt32 a⟩,
    ⟨.frcp, 0, 1, bounded Config.frcp⟩,
    ⟨.frsq, 0, 1, bounded Config.frsq⟩,
    ⟨.fexp2, 0, 1, bounded Config.fexp2⟩,
    ⟨.flog2, 0, 1, bounded Config.flog2⟩,
    ⟨.ftanh, 0, 1, bounded Config.ftanh⟩,
    ⟨.fsin, 0, 1, bounded Config.fsin⟩,
    ⟨.fcos, 0, 1, bounded Config.fcos⟩ ]

/-- The result of a row for a thread, from the words in the source registers. -/
def LaneRow.of (r : LaneRow) (s : State) (k : Nat) (f : FormT) (srcs : List Reg) (m : Nat) : Word :=
  r.result (f.type == 1) (s.regOf k m (srcs.getD 0 .zr)) (s.regOf k m (srcs.getD 1 .zr)) (s.regOf k m (srcs.getD 2 .zr))

/-- Instructions of Form I that compute from a register and the immediate (R116). -/
def immediateRows : List ((Issue → FormI → Instr) × (Word → Word → Word)) :=
  [ (.iaddi, fun a b => a + b), (.imuli, fun a b => a * b), (.andi, fun a b => a &&& b), (.ori, fun a b => a ||| b),
    (.xori, fun a b => a ^^^ b), (.shli, fun a b => a <<< b.toNat), (.shri, fun a b => a >>> b.toNat),
    (.sari, fun a b => a.sshiftRight b.toNat), (.fmuli, fmul32) ]

/-- A lane instruction of Form T, at every legal encoding. -/
def lanesComplete (rows : List LaneRow) : Prop :=
  ∀ r ∈ rows, ∀ (s : State) (i : Issue) (f : FormT) (srcs : List Reg) (d : Reg),
    s.Leads i → guardLegal f.guard → f.type.toNat ≤ r.types → f.mod = 0 → sourcesOf f r.reads = some srcs → specifier f.dst = some d →
    ∃ t, exec (r.cmd i f) s = .next t ∧ s.LaneResult t i (formOf f.guard false srcs [d]) d (r.of s i.core f srcs)

end Sys2Proof.Claims

open Sys2Proof Sys2Proof.Machine Sys2Proof.Claims

/-- R116, R111, R112: the integer instructions of Form T. -/
def Sys2Proof.Claims.IntegerLanes : Prop := lanesComplete integerRows

/-- R116: bit counts and bit fields. -/
def Sys2Proof.Claims.BitLanes : Prop := lanesComplete bitRows

/-- R116, R114: the FP32 instructions of the lanes, and I2F and F2I. -/
def Sys2Proof.Claims.FloatLanes : Prop := lanesComplete floatRows

/-- R116: the instructions of Form I, with the immediate in place of SB. -/
def Sys2Proof.Claims.ImmediateLanes : Prop :=
  ∀ r ∈ immediateRows, ∀ (s : State) (i : Issue) (f : FormI) (a d : Reg),
    s.Leads i → guardLegal f.guard → f.type = 0 → f.mod = 0 → specifier f.sa = some a → specifier f.dst = some d →
    ∃ t, exec (r.1 i f) s = .next t ∧
      s.LaneResult t i (formOf f.guard false [a] [d]) d (fun m => r.2 (s.regOf i.core m a) f.imm)

/-- R116, R115: MOVI, BFI, SEL and RDSR, whose operands differ from the other lane instructions'. -/
def Sys2Proof.Claims.MoveSelectSpecial : Prop :=
  (∀ (s : State) (i : Issue) (f : FormI) (d : Reg),
    s.Leads i → guardLegal f.guard → f.type = 0 → f.mod = 0 → f.sa = 0 → specifier f.dst = some d →
    ∃ t, exec (.movi i f) s = .next t ∧ s.LaneResult t i (formOf f.guard false [] [d]) d (fun _ => f.imm)) ∧
  (∀ (s : State) (i : Issue) (f : FormT) (a b c d : Reg),
    s.Leads i → guardLegal f.guard → f.type = 0 → f.mod = 0 → sourcesOf f 3 = some [a, b, c] → specifier f.dst = some d →
    ∃ t, exec (.bfi i f) s = .next t ∧ s.LaneResult t i (formOf f.guard false [d, a, b, c] [d]) d (fun m =>
      let p := (s.regOf i.core m b).toNat % 32
      let n := min ((s.regOf i.core m c).toNat % 64) (32 - p)
      let mask : Word := (BitVec.allOnes n).setWidth 32 <<< p
      (s.regOf i.core m d &&& ~~~mask) ||| ((s.regOf i.core m a <<< p) &&& mask))) ∧
  (∀ (s : State) (i : Issue) (f : FormT) (a b d : Reg),
    s.Leads i → guardLegal f.guard → f.type = 0 → f.mod.toNat < 8 → sourcesOf f 2 = some [a, b] → specifier f.dst = some d →
    ∃ t, exec (.sel i f) s = .next t ∧ s.LaneResult t i (formOf f.guard false [a, b] [d]) d (fun m =>
      if (s.thread i.core m).p.getLsbD f.mod.toNat then s.regOf i.core m a else s.regOf i.core m b)) ∧
  (∀ (s : State) (i : Issue) (f : FormI) (d : Reg),
    s.Leads i → guardLegal f.guard → f.type = 0 → f.mod = 0 → f.sa = 0 → f.imm.toNat < 8 → specifier f.dst = some d →
    ∃ t, exec (.rdsr i f) s = .next t ∧ s.LaneResult t i (formOf f.guard false [] [d]) d (fun m =>
      match f.imm.toNat with
      | 0 => BitVec.ofNat 32 (m % 16)
      | 1 => BitVec.ofNat 32 (m / 16)
      | 2 => BitVec.ofNat 32 i.core
      | 3 => BitVec.ofNat 32 (tractOfCore i.core)
      | 4 => s.pwr.time.setWidth 32
      | 5 => (s.pwr.time >>> 32).setWidth 32
      | 6 => (match s.jobOf (s.slotCtx i) with | some (_, _, b) => BitVec.ofNat 32 b.step | none => 0)
      | _ => BitVec.ofNat 32 (s.slotCtx i)))

/-- R113, R116, R130, R131: the instructions of the XU leave their results pending. -/
def Obligations.XuResults : Prop :=
  (∀ r ∈ xuRows, ∀ (s : State) (i : Issue) (f : FormT) (srcs : List Reg) (d : Reg),
    s.Leads i → guardLegal f.guard → f.type.toNat ≤ r.types → f.mod = 0 → sourcesOf f r.reads = some srcs → specifier f.dst = some d →
    ∃ t, exec (r.cmd i f) s = .next t ∧
      s.XuResult t i (formOf f.guard false srcs [d]) [d] (fun m => [r.of s i.core f srcs m])) ∧
  (∀ (s : State) (i : Issue) (f : FormT) (c k d : List Reg),
    s.Leads i → guardLegal f.guard → f.type = 0 → f.mod = 0 → f.sc = 0 →
    specifiers 4 f.sa = some c → specifiers 2 f.sb = some k → specifiers 4 f.dst = some d →
    ∃ t, exec (.philox i f) s = .next t ∧ s.XuResult t i (formOf f.guard false (c ++ k) d) d (fun m =>
      let r (l : List Reg) (n : Nat) : Word := s.regOf i.core m (l.getD n .zr)
      let (w0, w1, w2, w3) := philox (r c 0) (r c 1) (r c 2) (r c 3) (r k 0) (r k 1)
      [w0, w1, w2, w3])) ∧
  (∀ (s : State) (i : Issue) (f : FormT) (e : List Reg) (tid d : Reg),
    s.Leads i → guardLegal f.guard → f.type = 0 → f.mod = 0 → f.sc = 0 →
    specifiers 2 f.sa = some e → 0x20 ≤ f.sb.toNat → specifier f.sb = some tid → specifier f.dst = some d →
    ∃ t, exec (.rnde i f) s = .next t ∧ s.XuResult t i (formOf f.guard true (e ++ [tid]) [d]) [d] (fun m =>
      let r (n : Nat) : Word := s.regOf i.core m (e.getD n .zr)
      [(roundBits (s.seedOf (s.slotCtx i)).1 (s.regOf i.core m tid) (s.seedOf (s.slotCtx i)).2 (r 1 ++ r 0)).setWidth 32]))

/-- R116: ISETP, FSETP and PLOP write a predicate. -/
def Sys2Proof.Claims.Predicates : Prop :=
  (∀ (s : State) (i : Issue) (f : FormT) (a b : Reg),
    s.Leads i → guardLegal f.guard → f.type.toNat ≤ 1 → f.mod.toNat < 6 → sourcesOf f 2 = some [a, b] → f.dst.toNat < 8 →
    ∃ t, exec (.isetp i f) s = .next t ∧ s.PredResult t i (formOf f.guard false [a, b] []) f.dst.toNat (fun m =>
      let x := s.regOf i.core m a
      let y := s.regOf i.core m b
      let lt := if f.type = 1 then x.slt y else x.ult y
      match f.mod.toNat with
      | 0 => x == y
      | 1 => x != y
      | 2 => lt
      | 3 => lt || x == y
      | 4 => !(lt || x == y)
      | _ => !lt)) ∧
  (∀ (s : State) (i : Issue) (f : FormT) (a b : Reg),
    s.Leads i → guardLegal f.guard → f.type = 0 → f.mod.toNat < 6 → sourcesOf f 2 = some [a, b] → f.dst.toNat < 8 →
    ∃ t, exec (.fsetp i f) s = .next t ∧ s.PredResult t i (formOf f.guard false [a, b] []) f.dst.toNat (fun m =>
      let x := ofF32 (s.regOf i.core m a)
      let y := ofF32 (s.regOf i.core m b)
      if x.isNan ∨ y.isNan then f.mod == 1
      else match f.mod.toNat with
        | 0 => cmpNum x y == .eq
        | 1 => cmpNum x y != .eq
        | 2 => cmpNum x y == .lt
        | 3 => cmpNum x y != .gt
        | 4 => cmpNum x y == .gt
        | _ => cmpNum x y != .lt)) ∧
  (∀ (s : State) (i : Issue) (f : FormT),
    s.Leads i → guardLegal f.guard → f.type = 0 → f.mod.toNat < 4 → f.sc = 0 → f.dst.toNat < 8 → f.sa.toNat < 8 → f.sb.toNat < 8 →
    ∃ t, exec (.plop i f) s = .next t ∧ s.PredResult t i ⟨f.guard, false, []⟩ f.dst.toNat (fun m =>
      let x := (s.thread i.core m).p.getLsbD f.sa.toNat
      let y := (s.thread i.core m).p.getLsbD f.sb.toNat
      match f.mod.toNat with
      | 0 => x && y
      | 1 => x || y
      | 2 => xor x y
      | _ => x && !y))

/-- R129, R52: CVT converts by the control word in SB, and ORs its events into CTX_NUMFLAGS. Without stochastic rounding SC is ZR
and MOD 0; with it pair SC names the element and MOD the tensor. -/
def Sys2Proof.Claims.Conversions : Prop :=
  ∀ (s : State) (i : Issue) (f : FormT) (a n d : Reg) (e : List Reg) (tid : List Reg),
    s.Leads i → guardLegal f.guard → f.type = 0 → a.isU = false → specifier f.sa = some a → 0x20 ≤ f.sb.toNat → specifier f.sb = some n →
    specifier f.dst = some d → specifiers 2 f.sc = some e →
    let q := formOf f.guard true ([a, n] ++ e ++ tid) [d]
    let ncw := s.regOf i.core i.leader n
    let res (m : Nat) : Nat × Word :=
      cvtResult ncw (s.randOf (s.slotCtx i) (s.regOf i.core m (tid.getD 0 .zr)) (s.pairOf i.core m e)) (s.regOf i.core m a).toNat
    ncwDefined ncw →
    (if ncw.getLsbD 12 then f.mod.toNat < 64 ∧ 0x20 ≤ f.mod.toNat ∧ (specifier (f.mod.setWidth 6)).map (fun r => [r]) = some tid
     else f.sc = 0x30 ∧ f.mod = 0 ∧ tid = []) →
    ∃ u, s.LaneResult u i q d (fun m => BitVec.ofNat 32 (res m).1) ∧
      exec (.cvt i f) s = .next (u.orFlags (s.slotCtx i) ((s.acting i q).foldl (fun fl m => fl ||| (res m).2) 0))

/-- R115: NOP goes on; a branch whose targets lie in the context's windows moves the threads whose guard is true; CALL also
writes the link pair. -/
def Sys2Proof.Claims.ControlTransfers : Prop :=
  (∀ (s : State) (i : Issue) (f : FormT), s.Leads i → guardLegal f.guard → f.type = 0 → f.mod = 0 → f.dst = 0 → f.sa = 0 → f.sb = 0 → f.sc = 0 →
    ∃ t, exec (.nop i f) s = .next t ∧ s.Goes t i ⟨f.guard, false, []⟩ (fun _ th => th.past)) ∧
  (∀ (s : State) (i : Issue) (f : FormI),
    let q : Form := ⟨f.guard, false, []⟩
    let target (m : Nat) : DWord := (s.thread i.core m).pc + f.imm.signExtend 64
    s.Leads i → guardLegal f.guard → f.type = 0 → f.mod = 0 → f.dst = 0 → f.sa = 0 →
    (∀ m ∈ s.acting i q, (target m).toNat % 8 = 0 ∧ (s.reach (s.slotCtx i) (target m).toNat 8 .r).isSome) →
    ∃ t, exec (.bra i f) s = .next t ∧ s.Goes t i q (fun m th => { th with pc := target m })) ∧
  (∀ (s : State) (i : Issue) (f : FormT) (a : List Reg),
    let q := formOf f.guard false a []
    s.Leads i → guardLegal f.guard → f.type = 0 → f.mod = 0 → f.dst = 0 → f.sb = 0 → f.sc = 0 → specifiers 2 f.sa = some a →
    (∀ m ∈ s.acting i q, (s.pairOf i.core m a).toNat % 8 = 0 ∧ (s.reach (s.slotCtx i) (s.pairOf i.core m a).toNat 8 .r).isSome) →
    ∃ t, exec (.brx i f) s = .next t ∧ s.Goes t i q (fun m th => { th with pc := s.pairOf i.core m a })) ∧
  (∀ (s : State) (i : Issue) (f : FormI) (lo hi : Reg),
    let q := formOf f.guard false [] [lo, hi]
    let target (m : Nat) : DWord := (s.thread i.core m).pc + f.imm.signExtend 64
    let link (m : Nat) : DWord := (s.thread i.core m).pc + 8
    s.Leads i → guardLegal f.guard → f.type = 0 → f.mod = 0 → f.sa = 0 → specifiers 2 f.dst = some [lo, hi] →
    (∀ m ∈ s.acting i q, (target m).toNat % 8 = 0 ∧ (s.reach (s.slotCtx i) (target m).toNat 8 .r).isSome) →
    ∃ t, exec (.call i f) s = .next t ∧ s.OnlyThreads t i ∧
      s.Threads t i q (fun m th => { (th.got lo ((link m).setWidth 32)).got hi ((link m >>> 32).setWidth 32) with pc := target m }) ∧
      ∀ j n, t.uOf i.core j n =
        match (s.acting i q).head? with
        | some m =>
          if j ≠ m / 16 then s.uOf i.core j n
          else if lo = .u n then (link m).setWidth 32
          else if hi = .u n then (link m >>> 32).setWidth 32
          else s.uOf i.core j n
        | none => s.uOf i.core j n)

/-- R110, R114: an encoding with a reserved code, an odd pair base or an undefined bit faults the context with SHF_ILLEGAL_OP,
and no register of any thread changes. -/
def Sys2Proof.Claims.IllegalEncodings : Prop :=
  ∀ r ∈ integerRows ++ bitRows ++ floatRows ++ xuRows, ∀ (s : State) (i : Issue) (f : FormT),
    s.Leads i → (s.ctx (s.slotCtx i)).st = .defined →
    (guardLegal f.guard = false ∨ r.types < f.type.toNat ∨ f.mod ≠ 0 ∨ sourcesOf f r.reads = none ∨ specifier f.dst = none) →
    ∃ t, exec (r.cmd i f) s = .next t ∧
      (t.ctx (s.slotCtx i)).st = .faulted ∧ (t.ctx (s.slotCtx i)).fault = 0x2001 ∧ i.core ∈ (t.ctx (s.slotCtx i)).stopped ∧
      ∀ j, t.slot i.core j = s.slot i.core j

/-- R98: the threads park at the barrier; when every thread of the sheaf that has not exited stands at it, all go on. -/
def Sys2Proof.Claims.SheafBarrier : Prop :=
  ∀ (s : State) (i : Issue) (f : FormI) (sl : Slot),
    let q : Form := ⟨f.guard, true, []⟩
    let id := f.imm.toNat
    s.Leads i → guardLegal f.guard → f.type = 0 → f.mod = 0 → f.dst = 0 → f.sa = 0 → f.imm.toNat < 8 →
    s.slot i.core (i.leader / 16) = some sl →
    ((∃ p < 16, (sl.thread p).st ∉ [.exited, .parkBar, .parkWhole] ∧ 16 * (i.leader / 16) + p ∉ s.acting i q) →
      ∃ t, exec (.bar i f) s = .next t ∧ s.OnlyCore t i.core ∧
        s.Threads t i q (fun _ th => { th with st := .parkBar, bar := id })) ∧
    (s.acting i q ≠ [] →
     (∀ p < 16, (sl.thread p).st ≠ .exited → 16 * (i.leader / 16) + p ∉ s.acting i q → (sl.thread p).st = .parkBar ∧ (sl.thread p).bar = id) →
      ∃ t, exec (.bar i f) s = .next t ∧ s.OnlyCore t i.core ∧
        ∀ p < 16, (sl.thread p).st ≠ .exited → t.thread i.core (16 * (i.leader / 16) + p) =
          { sl.thread p with st := .ready, pc := (sl.thread p).pc + 8, bar := id })

/-- R86: threads that exit, while others of their sheaves run on; and the end of a sheaf whose last threads exit, which counts for
its launch and frees its slot. -/
def Sys2Proof.Claims.Exit : Prop :=
  ∀ (s : State) (i : Issue) (f : FormT),
    let q : Form := ⟨f.guard, false, []⟩
    s.Leads i → guardLegal f.guard → f.type = 0 → f.mod = 0 → f.dst = 0 → f.sa = 0 → f.sb = 0 → f.sc = 0 →
    (∀ m ∈ s.acting i q, (s.thread i.core m).token = none) →
    ((∀ m ∈ s.acting i q, ∃ p < 16, 16 * (m / 16) + p ∉ s.acting i q ∧
        (s.thread i.core (16 * (m / 16) + p)).st ∉ [.exited, .parkBar, .parkWhole]) →
      ∃ t, exec (.exit i f) s = .next t ∧ s.Goes t i q (fun _ th => { th with st := .exited })) ∧
    (∀ sl, s.slot i.core (i.leader / 16) = some sl → sl.pend = [] → s.acting i q ≠ [] →
      (s.core i.core).slots.rising → (∀ m ∈ s.acting i q, m / 16 = i.leader / 16) →
      (∀ p < 16, (sl.thread p).st = .exited ∨ 16 * (i.leader / 16) + p ∈ s.acting i q) →
      ∃ t, exec (.exit i f) s = .next t ∧ t.slot i.core (i.leader / 16) = none ∧
        (∀ j, j ≠ i.leader / 16 → (t.slot i.core j).isSome = (s.slot i.core j).isSome) ∧
        ∀ e, sl.launch = some e → (t.queue e.fn e.q).entries =
          (s.queue e.fn e.q).entries.map (fun y => if y.n = e.n then { y with ended := y.ended + 1 } else y))

/-- R95, R104, R105, R117: an access of a thread that is misaligned, or that no window of its kind reaches, faults the context: the
first refused thread in position order decides. -/
def Sys2Proof.Claims.AccessFaults : Prop :=
  ∀ (s : State) (i : Issue) (f : FormI) (size : Nat) (sext : Bool) (a d : List Reg),
    let addr (m : Nat) : Nat := (s.pairOf i.core m a + f.imm.signExtend 64).toNat
    s.Leads i → guardLegal f.guard → sizeOfType f.type.toNat = some (size, sext) → f.mod.toNat < 4 → specifiers 2 f.sa = some a →
    specifiers (regWidth size) f.dst = some d → (s.ctx (s.slotCtx i)).st = .defined →
    (∀ m ms, s.acting i (formOf f.guard false a d) = m :: ms → addr m % size ≠ 0 →
      ∃ t, exec (.ld i f) s = .next t ∧ (t.ctx (s.slotCtx i)).st = .faulted ∧ (t.ctx (s.slotCtx i)).fault = shfMisaligned ∧
        t.mem.reqs = s.mem.reqs) ∧
    (∀ m ms, s.acting i (formOf f.guard false a d) = m :: ms → addr m % size = 0 → s.reach (s.slotCtx i) (addr m) size .r = none →
      ∃ t, exec (.ld i f) s = .next t ∧ (t.ctx (s.slotCtx i)).st = .faulted ∧ (t.ctx (s.slotCtx i)).fault = shfWindowFault ∧
        t.mem.reqs = s.mem.reqs)

/-- R117, R147: LD of local memory that the near-core cache does not hold asks the home slices for each thread's data, and the
destination registers are awaited; ST of local memory in native mode hands each thread's data to its home slice. -/
def Sys2Proof.Claims.LoadStoreRequests : Prop :=
  (∀ (s : State) (i : Issue) (f : FormI) (size : Nat) (sext : Bool) (a d : List Reg) (tgt : Nat → Target) (loc : Nat → Nat),
    let q := formOf f.guard false a d
    let addr (m : Nat) : Nat := (s.pairOf i.core m a + f.imm.signExtend 64).toNat
    let ms := (givers d (s.acting i q)).zipIdx
    s.Leads i → guardLegal f.guard → sizeOfType f.type.toNat = some (size, sext) → f.mod.toNat < 4 → specifiers 2 f.sa = some a →
    specifiers (regWidth size) f.dst = some d →
    (∀ m ∈ s.acting i q, addr m % size = 0 ∧ s.reach (s.slotCtx i) (addr m) size .r = some (tgt m) ∧ (tgt m).loc = some (loc m) ∧
      (s.nearHolds (s.slotCtx i) (tgt m) → s.nearHit i.core (loc m) size = none)) →
    ∃ u, s.PendResult u i q (fun j => (ms.filter (fun x => x.1 / 16 == j)).flatMap (fun x =>
        pendings (s.mem.nextTag + x.2) (x.1 % 16) false d (List.replicate d.length 0))) ∧
      exec (.ld i f) s = .next { u with mem := { s.mem with
        nextTag := s.mem.nextTag + ms.length
        reqs := s.mem.reqs ++ ms.map (fun x => { s.accessOf i (iWord 0x50 f) size f.mod.toNat .load (addr x.1) (loc x.1) x.1 x.2 with
          sext := sext, near := s.nearHolds (s.slotCtx i) (tgt x.1) }) } }) ∧
  (∀ (s : State) (i : Issue) (f : FormI) (size : Nat) (a d : List Reg) (tgt : Nat → Target) (loc : Nat → Nat),
    let q := formOf f.guard false (a ++ d) []
    let addr (m : Nat) : Nat := (s.pairOf i.core m a + f.imm.signExtend 64).toNat
    let ms := (s.acting i q).zipIdx
    s.Leads i → guardLegal f.guard → sizeOfType f.type.toNat = some (size, false) → f.mod.toNat < 4 → specifiers 2 f.sa = some a →
    specifiers (regWidth size) f.dst = some d → s.lomcon (s.slotCtx i) = false →
    (∀ m ∈ s.acting i q, addr m % size = 0 ∧ s.reach (s.slotCtx i) (addr m) size .w = some (tgt m) ∧ (tgt m).loc = some (loc m)) →
    ∃ u, s.Goes u i q (fun _ th => th.past) ∧
      exec (.st i f) s = .next { u with mem := { s.mem with
        nextTag := s.mem.nextTag + ms.length
        reqs := s.mem.reqs ++ ms.map (fun x => { s.accessOf i (iWord 0x51 f) size f.mod.toNat .store (addr x.1) (loc x.1) x.1 x.2 with
          data := s.regsNat i.core x.1 d % 2 ^ (8 * size) }) } })

/-- R118, R87: LDL leaves the bytes of the local store pending in its registers; STL writes its data there, and every other byte
of the local store keeps its value. -/
def Sys2Proof.Claims.LocalStore : Prop :=
  ∀ (s : State) (i : Issue) (f : FormI) (size : Nat) (sext : Bool) (a : Reg) (d : List Reg),
    let off (m : Nat) : Nat := ((s.regOf i.core m a).setWidth 64 + f.imm.signExtend 64).toNat
    s.Leads i → guardLegal f.guard → sizeOfType f.type.toNat = some (size, sext) → f.mod = 0 → specifier f.sa = some a →
    specifiers (regWidth size) f.dst = some d →
    ((∀ m ∈ s.acting i (formOf f.guard false [a] d), off m % size = 0 ∧ s.lsOk i.core (s.slotCtx i) (off m) size ∧
        s.lsHusks i.core (off m) size = false) →
      ∃ t, exec (.ldl i f) s = .next t ∧ s.XuResult t i (formOf f.guard false [a] d) d (fun m =>
        wordsOfNat 4 (extendLoad size sext (ofLe ((List.range size).map (fun k => s.lsByte i.core (off m + k))))))) ∧
    (sext = false →
     (s.core i.core).ls.rising →
     (∀ m ∈ s.acting i (formOf f.guard false ([a] ++ d) []), off m % size = 0 ∧ s.lsOk i.core (s.slotCtx i) (off m) size) →
      ∃ t, exec (.stl i f) s = .next t ∧ s.OnlyCore t i.core ∧ s.Threads t i (formOf f.guard false ([a] ++ d) []) (fun _ th => th.past) ∧
        (∀ ms m, s.acting i (formOf f.guard false ([a] ++ d) []) = ms ++ [m] →
          ∀ k < size, t.lsByte i.core (off m + k) = BitVec.ofNat 8 (s.regsNat i.core m d / 2 ^ (8 * k))) ∧
        ∀ x, (∀ m ∈ s.acting i (formOf f.guard false ([a] ++ d) []), x < off m ∨ off m + size ≤ x) →
          t.lsByte i.core x = s.lsByte i.core x)

/-- R119, R152, R154: ATOM at local memory hands each thread's operation to its home slice. The old value is awaited; ZR, the
destination of an ordered contribution, awaits none. -/
def Sys2Proof.Claims.AtomRequests : Prop :=
  ∀ (s : State) (i : Issue) (f : FormT) (a b c d : List Reg) (tgt : Nat → Target) (loc : Nat → Nat),
    let op := f.type.toNat
    let ord := f.mod.getLsbD 2
    let w := if op = 12 then 2 else 1
    let q := formOf f.guard false (a ++ b ++ c) d
    let addr (m : Nat) : Nat := (s.pairOf i.core m a).toNat
    let ms := (s.acting i q).zipIdx
    s.Leads i → guardLegal f.guard → op ≤ 12 → f.mod.toNat < 8 → specifiers 2 f.sa = some a → specifiers w f.sb = some b →
    specifiers w f.dst = some d → (if ord ∨ op = 11 then specifiers 1 f.sc = some c else f.sc = 0 ∧ c = []) →
    (ord = true → op ≤ 2 ∧ f.dst = 0x30) →
    (∀ m ∈ s.acting i q, addr m % atomSize op = 0 ∧ s.reach (s.slotCtx i) (addr m) (atomSize op) .a = some (tgt m) ∧
      (tgt m).loc = some (loc m)) →
    ∃ u, s.PendResult u i q (fun j =>
        (ms.filter (fun x => x.1 / 16 == j && (x.2 == 0 || !d.any Reg.isU))).flatMap (fun x =>
          pendings (s.mem.nextTag + x.2) (x.1 % 16) false d (List.replicate d.length 0))) ∧
      exec (.atom i f) s = .next { u with mem := { s.mem with
        nextTag := s.mem.nextTag + ms.length
        reqs := s.mem.reqs ++ ms.map (fun x =>
          { s.accessOf i (tWord 0x54 f) (atomSize op) (f.mod.toNat % 4) (if ord then .ordered op else .atom op) (addr x.1) (loc x.1) x.1 x.2 with
            data := s.regsNat i.core x.1 b % 2 ^ (8 * atomSize op)
            cmp := if ord then 0 else s.regsNat i.core x.1 c
            ordsc := if ord then BitVec.ofNat 32 (s.regsNat i.core x.1 c) else 0 }) } }

/-- R120, R147: a FENCE of scope 0 goes on at once; one of a wider scope holds the thread until its earlier stores and atomics have
been accepted, in native mode without any other effect. -/
def Sys2Proof.Claims.Fence : Prop :=
  ∀ (s : State) (i : Issue) (f : FormI),
    let q : Form := ⟨f.guard, false, []⟩
    s.Leads i → guardLegal f.guard → f.type = 0 → f.mod = 0 → f.dst = 0 → f.sa = 0 → f.imm.toNat < 4 →
    (f.imm = 0 ∨ (s.lomcon (s.slotCtx i) = false ∧ ∀ m ∈ s.acting i q, s.unaccepted i.core m = false ∧
      s.unverified i.core (s.slotCtx i) = false ∧ (f.imm = 3 → s.unacked i.core m = false)) →
      ∃ t, exec (.fence i f) s = .next t ∧ s.Goes t i q (fun _ th => th.past)) ∧
    (f.imm ≠ 0 → s.lomcon (s.slotCtx i) = false → (∀ m ∈ s.acting i q, s.unaccepted i.core m = true) →
      ∃ t, exec (.fence i f) s = .next t ∧ s.Goes t i q (fun _ th => th)) ∧
    (f.imm ≠ 0 → s.lomcon (s.slotCtx i) = true → s.acting i q ≠ [] →
      ∃ t, exec (.fence i f) s = .next t ∧ (t.core i.core).lines = [])

/-- R99, R108, R122, R61, R80: a GFEEDR to which every thread of its sheaf has come, and that opens a feed, supplies its first four
steps; the feed closes at once where it has no more, and then becomes an edge feed of its core at a gang that it binds. -/
def Sys2Proof.Claims.RegisterFeed : Prop :=
  (∀ (s : State) (i : Issue) (f : FormT) (a n : Reg) (b : List Reg) (sl : Slot),
    let q := formOf f.guard true ([a] ++ b ++ [n]) []
    let fp := feedPair (s.pairOf i.core i.leader b).toNat
    let ncw := s.regOf i.core i.leader n
    s.Leads i → guardLegal f.guard → f.type = 0 → f.dst = 0 → f.mod = 1 → a.isU = false → specifier f.sa = some a →
    0x20 ≤ f.sb.toNat → specifiers 2 f.sb = some b → 0x20 ≤ f.sc.toNat → specifier f.sc = some n →
    s.allCome i (.feed f) q → (s.come i (.feed f) q).slot i.core (i.leader / 16) = some sl → sl.openFeed = none →
    (s.come i (.feed f) q).feedBad i.core (s.slotCtx i) fp ncw = none → sideFmt ncw fp.side ≤ 2 →
    exec (.gfeedr i f) s = .next (s.actsWhole i (.feed f) q (fun t => t.takeFragment i.core (i.leader / 16) (s.slotCtx i) [a]
      { gang := fp.gang, side := fp.side, bank := fp.bank, clr := fp.clr, klen := fp.klen
        pairLo := (s.pairOf i.core i.leader b).setWidth 32, ncw := ncw, count := 0, lanes := [] }))) ∧
  (∀ (s : State) (core slot ctx : Nat) (r : List Reg) (o : OpenFeed) (sl : Slot),
    s.slot core slot = some sl → (feedSteps o.ncw o.klen + 3) / 4 ≤ o.count + 1 →
    let t := s.takeFragment core slot ctx r o
    (t.slot core slot).map Slot.openFeed = some none ∧
    (t.gang o.gang).ctx = some ((s.gang o.gang).ctx.getD ctx) ∧
    ∃ e : EdgeFeed, (t.gang o.gang).edge = (s.gang o.gang).edge ++ [e] ∧ e.core = core ∧ e.side = o.side ∧ e.bank = o.bank ∧
      e.clr = o.clr ∧ e.klen = o.klen ∧ e.ncw = o.ncw ∧ e.steps = feedSteps o.ncw o.klen) ∧
  (∀ (s : State) (core slot ctx : Nat) (r : List Reg) (o : OpenFeed) (sl : Slot),
    s.slot core slot = some sl → o.count + 1 < (feedSteps o.ncw o.klen + 3) / 4 →
    let t := s.takeFragment core slot ctx r o
    t.grid.gangs = s.grid.gangs ∧ ∃ o', (t.slot core slot).map Slot.openFeed = some (some o') ∧ o'.count = o.count + 1 ∧
      o'.gang = o.gang ∧ o'.ncw = o.ncw ∧ o'.klen = o.klen ∧
      ∀ l < 4, o'.lanes.getD l [] = o.lanes.getD l [] ++ sl.fragment r l)

/-- R63, R123: GFEEDS, once for its group, reads its descriptor and issues the core's edge feed from operands of this device; the
gang's context is bound and the expansions' events are recorded; lines read from memory enter their slices by the descriptor's hint, and
a dead hint drops them. -/
def Sys2Proof.Claims.StreamFeed : Prop :=
  ∀ (s : State) (i : Issue) (f : FormT) (a n : Reg) (b : List Reg) (m : Nat) (ms : List Nat) (lanes : List (List Opnd)) (fl : Word),
    let q := formOf f.guard true ([a] ++ b ++ [n]) []
    let x := s.issued i q
    let ctx := s.slotCtx i
    let off := (s.regOf i.core m a).toNat
    let fp := feedPair (s.pairOf i.core m b).toNat
    let ncw := s.regOf i.core m n
    let d := x.lsNat i.core off 32
    let fmt := sideFmt ncw fp.side
    s.Leads i → guardLegal f.guard → f.type = 0 → f.dst = 0 → f.mod = 0 → 0x20 ≤ f.sa.toNat → specifier f.sa = some a →
    0x20 ≤ f.sb.toNat → specifiers 2 f.sb = some b → 0x20 ≤ f.sc.toNat → specifier f.sc = some n →
    s.acting i q = m :: ms → off % 32 = 0 → x.lsOk i.core ctx off 32 → x.lsHusks i.core off 32 = false →
    x.feedBad i.core ctx fp ncw = none → descBad d fmt = false → x.remoteLines ctx d fmt = [] →
    (x.streamBring ctx d fmt).streamLanes i.core ctx d ncw fp.side fp.bank [] = .ok (lanes, fl) →
    exec (.gfeeds i f) s = .next (s.acts i q (fun t => (((t.streamBring ctx d fmt).updGang fp.gang (fun g => { g with
      ctx := some (g.ctx.getD ctx)
      edge := g.edge ++ [{ core := i.core, side := fp.side, bank := fp.bank, clr := fp.clr, klen := dsKlen d, ncw := ncw
                           steps := feedSteps ncw (dsKlen d), lanes := lanes, wait := none }] })).orFlags ctx fl).streamDead ctx d fmt))

/-- R70, R94, R124: GDRAIN whose checks pass is pending at its gang until the steps accepted so far into its bank have fired; with
DEST 0 register DST is awaited in every thread of the target slot. It acts once; a sheaf that drains into itself acts whole. -/
def Sys2Proof.Claims.DrainIssue : Prop :=
  (∀ (s : State) (i : Issue) (f : FormT) (a : Reg) (b r : List Reg) (m : Nat) (ms : List Nat),
    let rq := f.mod.toNat / 2 ^ 15 % 64
    let q := formOf f.guard true ([a] ++ b ++ r) []
    let x := s.issued i q
    let slot := f.mod.toNat / 2 ^ 21 % 4
    let live := match x.slot i.core slot with
      | some sl => (List.range 16).filter (fun p => (sl.thread p).st != .exited)
      | none => []
    let dr := x.drainOf i.core m (s.slotCtx i) f [a] b r live
    s.Leads i → guardLegal f.guard → f.type = 0 → f.sc = 0 → f.mod.getLsbD 14 = false → 0x20 ≤ f.sa.toNat → specifier f.sa = some a →
    0x20 ≤ f.sb.toNat → specifiers 4 f.sb = some b → (gregs 1 f.dst).isSome →
    (if rq = 0 then r = [] else 0x20 ≤ rq ∧ specifiers 4 (BitVec.ofNat 6 rq) = some r) →
    ¬(dcDest (BitVec.ofNat 64 (s.regsNat i.core i.leader b)) = 0 ∧ slot = i.leader / 16) →
    s.acting i q = m :: ms → rqLegal rq dr.2 = true → x.drainBad i.core (s.slotCtx i) dr.1 dr.2 = none →
    exec (.gdrain i f) s = .next (s.acts i q (fun t => t.addDrain dr.1 dr.2))) ∧
  (∀ (s : State) (i : Issue) (f : FormT) (a : Reg) (b r : List Reg) (sl : Slot),
    let rq := f.mod.toNat / 2 ^ 15 % 64
    let q := formOf f.guard true ([a] ++ b ++ r) []
    let x := s.come i (.drain f) q
    let dr := x.drainOf i.core (16 * (i.leader / 16) + sl.wholeOn.headD 0) (s.slotCtx i) f [a] b r sl.wholeOn
    s.Leads i → guardLegal f.guard → f.type = 0 → f.sc = 0 → f.mod.getLsbD 14 = false → 0x20 ≤ f.sa.toNat → specifier f.sa = some a →
    0x20 ≤ f.sb.toNat → specifiers 4 f.sb = some b → (gregs 1 f.dst).isSome →
    (if rq = 0 then r = [] else 0x20 ≤ rq ∧ specifiers 4 (BitVec.ofNat 6 rq) = some r) →
    dcDest (BitVec.ofNat 64 (s.regsNat i.core i.leader b)) = 0 → f.mod.toNat / 2 ^ 21 % 4 = i.leader / 16 →
    s.allCome i (.drain f) q → x.slot i.core (i.leader / 16) = some sl → sl.wholeOn ≠ [] → rqLegal rq dr.2 = true →
    x.drainBad i.core (s.slotCtx i) dr.1 dr.2 = none →
    exec (.gdrain i f) s = .next (s.actsWhole i (.drain f) q (fun t => t.addDrain dr.1 dr.2))) ∧
  (∀ (s : State) (gid : Nat) (dr : Drain),
    let g := s.gang gid
    let t := s.addDrain gid dr
    let need := max (pick g.acceptedA (dcBank dr.dcw)) (pick g.acceptedB (dcBank dr.dcw))
    (t.gang gid).drains = g.drains ++ [{ dr with need := need, tag := s.mem.nextTag }] ∧
    (dcDest dr.dcw = 0 → dr.dst ≠ 0x30 → ∀ sl, s.slot dr.core dr.tslot = some sl →
      (t.slot dr.core dr.tslot).map Slot.pends = some (sl.pends ++ (List.range 16).map (fun p =>
        ⟨s.mem.nextTag, p, dr.dst.toNat, 0, false, true, false⟩))))

/-- R125, R77, R78, R80: GRESHAPE submits its shape word and awaits its status in DST; GRELEASE unbinds an idle gang of its context
at once, and a busy one once its work completes; an unbound gang is left alone. -/
def Sys2Proof.Claims.ReshapeRelease : Prop :=
  (∀ (s : State) (i : Issue) (f : FormT) (a : List Reg) (d : Reg) (m : Nat) (ms : List Nat),
    let q := formOf f.guard true a [d]
    let x := s.issued i q
    let r : Reshape := { tract := tractOfCore i.core, running := false, ctx := s.slotCtx i, word := s.pairOf i.core m a
                         fn := (s.ctx (s.slotCtx i)).fn, sheaf := true, core := i.core, slot := m / 16, tag := s.mem.nextTag, entry := none }
    s.Leads i → guardLegal f.guard → f.type = 0 → f.mod = 0 → f.sb = 0 → f.sc = 0 → 0x20 ≤ f.sa.toNat → specifiers 2 f.sa = some a →
    specifier f.dst = some d → s.acting i q = m :: ms →
    (x.regionGangs r.tract r.word).any (fun g => g.2.ctx == some (s.slotCtx i) && !g.2.idleNow) = false →
    exec (.greshape i f) s = .next (s.acts i q (fun t =>
      ((givers [d] (m :: ms)).foldl (fun t k => t.await i.core k s.mem.nextTag [d]) t).newTag.startReshape r))) ∧
  (∀ (s : State) (r : Reshape),
    s.grid.reshapes.any (fun p => p.tract == r.tract) = false → s.grid.retires.any (fun p => p.tract == r.tract) = false →
    s.reshapeBad r = none →
    (s.startReshape r).grid.reshapes = s.grid.reshapes ++ [{ r with running := true }] ∧ (s.startReshape r).grid.shapes = s.grid.shapes) ∧
  (∀ (s : State) (i : Issue) (f : FormT) (a : Reg) (m : Nat) (ms : List Nat),
    let q := formOf f.guard true [a] []
    let gid := (s.regOf i.core m a).toNat % 2 ^ 20
    s.Leads i → guardLegal f.guard → f.type = 0 → f.mod = 0 → f.sb = 0 → f.sc = 0 → f.dst = 0 → 0x20 ≤ f.sa.toNat →
    specifier f.sa = some a → s.acting i q = m :: ms →
    ((s.gang gid).ctx = none → exec (.grelease i f) s = .next (s.acts i q (fun t => t))) ∧
    ((s.gang gid).ctx = some (s.slotCtx i) → (s.gang gid).idleNow = true →
      exec (.grelease i f) s = .next (s.acts i q (fun t => t.updGang gid (fun g => { g with ctx := none, releasing := false })))) ∧
    ((s.gang gid).ctx = some (s.slotCtx i) → (s.gang gid).idleNow = false →
      exec (.grelease i f) s = .next (s.acts i q (fun t => t.updGang gid (fun g => { g with releasing := true })))))

/-- What a spar instruction sends to the home unit of the spar that its local id names. -/
def Sys2Proof.Claims.sparOp (s : State) (i : Issue) (word : Nat) (id : Reg) (gen : Nat → Nat) (act : Nat → SparAct) (m tag : Nat) : SparOp :=
  { core := i.core, slot := m / 16, thread := m % 16, ctx := s.slotCtx i, lid := (s.regOf i.core m id).toNat, gen := gen m, tag := tag
    pc := (s.thread i.core m).pc, word := word, act := act m }

/-- R126, R284, R286: a spar instruction whose local ids translate sends each thread's operation to the home unit of its spar; the
thread goes on while its result is awaited, and SPWAIT parks it. -/
def Obligations.SparInstructions : Prop :=
  ∀ (s : State) (i : Issue) (f : FormT) (a : Reg) (b d : List Reg) (spar gen : Nat → Nat),
    let known (q : Form) : Prop := ∀ m ∈ s.acting i q, (s.regOf i.core m a).toNat < 65536 ∧
      s.translateSpar (s.slotCtx i) (s.regOf i.core m a).toNat = .ok (spar m, gen m)
    -- the operations that arrive at the spars, with the tags of their results
    let sends (q : Form) (t : State) (opc : Nat) (act : Nat → SparAct) : Prop := ∀ p, (t.spar p).ops = (s.spar p).ops ++
      ((s.acting i q).zipIdx.filter (fun x => spar x.1 == p)).map (fun x => sparOp s i (tWord opc f) a gen act x.1 (s.mem.nextTag + x.2))
    s.Leads i → guardLegal f.guard → f.mod = 0 → f.sc = 0 → specifier f.sa = some a →
    ((f.type = 0 ∧ specifiers 1 f.sb = some b ∧ specifiers 2 f.dst = some d ∧ known (formOf f.guard false ([a] ++ b) d)) →
      ∃ t, exec (.spadd i f) s = .next t ∧ s.Threads t i (formOf f.guard false ([a] ++ b) d) (fun _ th => th.past) ∧
        sends (formOf f.guard false ([a] ++ b) d) t 0x70 (fun m => .add ((s.regOf i.core m (b.getD 0 .zr)).signExtend 64)) ∧
        t.fns = s.fns ∧ t.mem.mem = s.mem.mem) ∧
    ((f.type = 0 ∧ f.sb = 0 ∧ specifiers 2 f.dst = some d ∧ known (formOf f.guard false [a] d)) →
      ∃ t, exec (.spread i f) s = .next t ∧ s.Threads t i (formOf f.guard false [a] d) (fun _ th => th.past) ∧
        sends (formOf f.guard false [a] d) t 0x73 (fun _ => .read) ∧ t.fns = s.fns ∧ t.mem.mem = s.mem.mem) ∧
    ((f.type = 0 ∧ f.sb = 0 ∧ specifiers 1 f.dst = some d ∧ known (formOf f.guard false [a] d)) →
      ∃ t, exec (.sparrive i f) s = .next t ∧ s.Threads t i (formOf f.guard false [a] d) (fun _ th => th.past) ∧
        sends (formOf f.guard false [a] d) t 0x72 (fun _ => .arrive) ∧ t.fns = s.fns ∧ t.mem.mem = s.mem.mem) ∧
    ((f.type.toNat ≤ 2 ∧ specifiers 2 f.sb = some b ∧ specifiers 1 f.dst = some d ∧ known (formOf f.guard false ([a] ++ b) d)) →
      ∃ t, exec (.spwait i f) s = .next t ∧
        s.Threads t i (formOf f.guard false ([a] ++ b) d) (fun m th => { th with
          pc := th.pc + 8, st := .parkSpar
          wait := some { lid := (s.regOf i.core m a).toNat, phys := spar m, cond := f.type.toNat, thresh := s.pairOf i.core m b
                         dst := ((if d.any Reg.isU && some m != (s.acting i (formOf f.guard false ([a] ++ b) d)).head? then .zr
                           else d.headD .zr) : Reg).code
                         code := 0 } }) ∧
        (∀ p, (t.spar p).ops = (s.spar p).ops ++
          ((s.acting i (formOf f.guard false ([a] ++ b) d)).filter (fun m => spar m == p)).map (fun m =>
            sparOp s i (tWord 0x71 f) a gen (fun m => .wait f.type.toNat (s.pairOf i.core m b)) m s.mem.nextTag)) ∧
        t.fns = s.fns ∧ t.mem = s.mem)

/-- R127, R338, R340: ALLOC allocates for each acting thread in position order and leaves handle and base, or the status of the
failure, pending in DST; FREE frees each thread's object when every handle is live. -/
def Sys2Proof.Claims.AllocFree : Prop :=
  (∀ (s : State) (i : Issue) (f : FormT) (a d : List Reg),
    let q := formOf f.guard false a d
    s.Leads i → guardLegal f.guard → f.type.toNat ≤ 1 → f.mod.toNat ≤ 30 → f.sb = 0 → f.sc = 0 → specifiers 2 f.sa = some a →
    specifiers 4 f.dst = some d →
    exec (.alloc i f) s = .next (s.acts i q (fun x => (s.acting i q).foldl (fun t m =>
      let to' := if d.any Reg.isU && some m != (s.acting i q).head? then [] else d
      match t.alloc (s.slotCtx i) (s.pairOf i.core m a).toNat (f.type == 1) f.mod.toNat false with
      | .ok (h, b, t') => t'.result' i.core m to' (wordsOfNat 4 (h + b * 2 ^ 64))
      | .error st => t.result' i.core m to' [0, 0, st.setWidth 32, 0]) x))) ∧
  (∀ (s t : State) (ctx size alog h b : Nat) (ddr zero : Bool),
    s.alloc ctx size ddr alog zero = .ok (h, b, t) →
    let fn := (s.ctx ctx).fn
    ∃ (p : Part) (idx : Nat) (o : Obj), s.part fn = some p ∧ h = handleOf fn ((s.objTab fn).gen idx) idx ∧
      (s.objTab fn).objs.get? idx = none ∧ (t.objTab fn).objs.get? idx = some o ∧
      o.ddr = ddr ∧ o.owner = ctx ∧ o.holders = [ctx] ∧ o.size % 256 = 0 ∧ size ≤ o.size ∧ o.off % 2 ^ max 8 alog = 0 ∧
      o.off + o.size ≤ (if ddr then p.ddrHeap.2 else p.hbmHeap.2) ∧
      (∀ x ∈ s.heapUse fn, x.ddr = ddr → o.off + o.size ≤ x.off ∨ x.off + x.size ≤ o.off) ∧
      (t.ctx ctx).objs = (s.ctx ctx).objs + 1 ∧
      (if ddr then (t.ctx ctx).ddrCh = (s.ctx ctx).ddrCh + o.size ∧ (t.ctx ctx).ddrCh ≤ (s.ctx ctx).ddrLim
       else (t.ctx ctx).hbmCh = (s.ctx ctx).hbmCh + o.size ∧ (t.ctx ctx).hbmCh ≤ (s.ctx ctx).hbmLim)) ∧
  (∀ (s : State) (i : Issue) (f : FormT) (a : List Reg),
    let q := formOf f.guard false a []
    let fn := (s.ctx (s.slotCtx i)).fn
    s.Leads i → guardLegal f.guard → f.type = 0 → f.mod = 0 → f.sb = 0 → f.sc = 0 → f.dst = 0 → specifiers 2 f.sa = some a →
    ((s.issued i q).freeAll i.core fn (tWord 0x81 f) a (s.acting i q)).2 = true →
    exec (.free i f) s = .next (s.acts i q (fun x => (x.freeAll i.core fn (tWord 0x81 f) a (s.acting i q)).1))) ∧
  (∀ (s : State) (fn h idx : Nat) (o : Obj), s.handle fn h = .ok (idx, o) → (s.objTab fn).objs.rising →
    (s.freeObj fn idx).handle fn h = .error alcStaleHandle ∧ ((s.freeObj fn idx).objTab fn).objs.get? idx = none)

/-- R128, R179, R182, R184: HPUT and HGET act once on a range that their context reaches. A block put for the first time that fits
in the HBM region is kept there with its bytes; a block already put is a duplicate and nothing changes; HGET copies a kept
block, says where it lies, and names the nearest earlier block for an absent one. -/
def Sys2Proof.Claims.Hoard : Prop :=
  (∀ (s : State) (i : Issue) (f : FormT) (a n : Reg) (b d : List Reg) (m : Nat) (ms : List Nat) (ps : List (Nat × Nat)),
    let q := formOf f.guard true ([a] ++ b ++ [n]) d
    let x := s.issued i q
    let block := (s.regOf i.core m a).toNat
    let addr := (s.pairOf i.core m b).toNat
    let len := (s.regOf i.core m n).toNat
    s.Leads i → guardLegal f.guard → f.type = 0 → f.mod = 0 → 0x20 ≤ f.sa.toNat → specifier f.sa = some a →
    0x20 ≤ f.sb.toNat → specifiers 2 f.sb = some b → 0x20 ≤ f.sc.toNat → specifier f.sc = some n →
    s.acting i q = m :: ms → block < 0xFFFF → len % 32 = 0 →
    (specifiers 1 f.dst = some d → x.ctxPieces (s.slotCtx i) .r addr len = some ps →
      exec (.hput i f) s = .next (s.acts i q (fun x =>
        (givers d (m :: ms)).foldl (fun t k => t.result' i.core k d (wordsOfNat 1 (x.hput (s.slotCtx i) block len ps).1))
          (x.hput (s.slotCtx i) block len ps).2))) ∧
    (specifiers 2 f.dst = some d → x.ctxPieces (s.slotCtx i) .w addr len = some ps →
      exec (.hget i f) s = .next (s.acts i q (fun x =>
        let r := x.hget (s.slotCtx i) block len ps
        (givers d (m :: ms)).foldl (fun t k => t.result' i.core k d (wordsOfNat 2 (r.1 + r.2.1.toNat * 2 ^ 32))) r.2.2)))) ∧
  (∀ (s : State) (ctx block len : Nat) (ps : List (Nat × Nat)) (p : Part),
    let fn := (s.ctx ctx).fn
    let (job, step) := s.hoardKey ctx
    let h := s.hoard fn
    s.part fn = some p → h.mapEn = false → h.job = job → h.step = step → (h.jobs.get? job).map (·.step) = some step →
    (∀ x, h.find job block = some x → s.hput ctx block len ps = (hrdDuplicate.toNat + x.disp * 2 ^ 16, s.updHoard fn (fun h => h))) ∧
    (h.find job block = none → (h.jobs.getD job HJob.idle).deep = none → h.use 0 + granules len ≤ p.hbmGr →
      (s.hput ctx block len ps).1 = 0 ∧
      ∃ e, ((s.hput ctx block len ps).2.hoard fn).entries = h.entries ++ [e] ∧ e.job = job ∧ e.block = block ∧ e.disp = 0 ∧
        e.len = len ∧ e.data = s.readPieces ps)) ∧
  (∀ (s : State) (ctx block len : Nat) (ps : List (Nat × Nat)),
    let fn := (s.ctx ctx).fn
    let (job, step) := s.hoardKey ctx
    let h := s.hoard fn
    (h.jobs.get? job).map (·.step) = some step →
    (h.find job block = none → (s.hget ctx block len ps).1 = hrdNotFound.toNat ∧ (s.hget ctx block len ps).2.2.mem = s.mem) ∧
    (∀ e, h.find job block = some e →
      (e.disp = 2 → s.hget ctx block len ps = (2 * 2 ^ 16, BitVec.ofNat 32 (h.near job block), s)) ∧
      (e.disp ≠ 2 → len < e.len →
        (s.hget ctx block len ps).1 = hrdTooLong.toNat + e.disp * 2 ^ 16 ∧ (s.hget ctx block len ps).2.2.mem = s.mem) ∧
      (e.disp ≠ 2 → e.len ≤ len → (s.hget ctx block len ps).1 = e.disp * 2 ^ 16 ∧
        (s.hget ctx block len ps).2.2.mem = (s.writeHusked (cutPieces e.len ps) e.data e.husks).mem)))

/-- R132, R319, R320: MSEND writes the 16 words and sets outbound GO; MRECV copies the 16 words and clears inbound GO; while the
channel is not ready the threads park, or with TRY are told so at once. -/
def Sys2Proof.Claims.MailboxInstructions : Prop :=
  ∀ (s : State) (i : Issue) (f : FormT) (a b : Reg) (d : Reg) (m : Nat) (ms : List Nat),
    let q := formOf f.guard true [a, b] [d]
    let x := s.issued i q
    let fn := (s.ctx (s.slotCtx i)).fn
    let ch := (s.regOf i.core m a).toNat
    let off := (s.regOf i.core m b).toNat
    let park (send : Bool) : MbxPark :=
      { send := send, core := i.core, slot := m / 16, ctx := s.slotCtx i, threads := (m :: ms).map (· % 16), off := off, dst := d.code
        pc := (s.thread i.core m).pc, word := tWord (if send then 0xB0 else 0xB1) f }
    let parked (send : Bool) : State :=
      ((m :: ms).foldl (fun t k => t.updThread i.core k (fun th => { th with st := .parkMbx }))
        (x.nextPc i.core ((s.going i q).filter (fun k => !(m :: ms).contains k)))).updMbx fn ch
          (fun c => { c with parked := c.parked ++ [park send] })
    s.Leads i → guardLegal f.guard → f.type = 0 → f.sc = 0 → f.mod.toNat < 2 → 0x20 ≤ f.sa.toNat → specifier f.sa = some a →
    0x20 ≤ f.sb.toNat → specifier f.sb = some b → specifier f.dst = some d → s.acting i q = m :: ms → ch < 24 →
    (s.mbx fn ch).opened = 2 → off % 64 = 0 → x.lsOk i.core (s.slotCtx i) off 64 →
    (x.lsHusks i.core off 64 = false →
      ((s.mbx fn ch).outGo = false → exec (.msend i f) s = .next (s.acts i q (fun t =>
        (t.updMbx fn ch (fun c => { c with
          out := (List.range 16).map (fun k => (k, BitVec.ofNat 32 (x.lsNat i.core (off + 4 * k) 4))), outGo := true })).mbxReply
            (park true) 0))) ∧
      ((s.mbx fn ch).outGo = true → f.mod = 1 → exec (.msend i f) s = .next (s.acts i q (fun t => t.mbxReply (park true) mbnBusy))) ∧
      ((s.mbx fn ch).outGo = true → f.mod = 0 → exec (.msend i f) s = .next (parked true))) ∧
    ((s.mbx fn ch).inGo = true → exec (.mrecv i f) s = .next (s.acts i q (fun t =>
      ((t.lsWrite i.core off ((List.range 16).flatMap (fun k => leBytes 4 ((s.mbx fn ch).inw.getD k 0).toNat))).updMbx fn ch
        (fun c => { c with inGo := false })).mbxReply (park false) 0))) ∧
    ((s.mbx fn ch).inGo = false → f.mod = 1 → exec (.mrecv i f) s = .next (s.acts i q (fun t => t.mbxReply (park false) mbnEmpty))) ∧
    ((s.mbx fn ch).inGo = false → f.mod = 0 → exec (.mrecv i f) s = .next (parked false))

/-- R86, R92: a result that has its value lands in its register once every earlier result for that register has, where no later
write or drain of the register intervenes; a thread that no
longer awaits any register of its instruction becomes READY. The last result to land in a slot whose threads have all exited
frees it. -/
def Sys2Proof.Claims.ResultsLand : Prop :=
  ∀ (s : State) (core slot n : Nat) (sl : Slot) (p : Pend),
    let rest := sl.pend.eraseIdx n
    core < 1048576 → slot < 4 → s.slot core slot = some sl → sl.pend[n]? = some p → p.ready = true → p.drain = false → p.clobber = false → p.reg < 32 →
    (∀ q ∈ sl.pend, q ∈ sl.pend.take n ∨ q.drain = true → ¬(q.thread = p.thread ∧ q.reg = p.reg)) →
    ((∃ k < 16, (sl.thread k).st ≠ .exited) →
      ∃ t sl', exec (.pendingWriteLands core slot n) s = .next t ∧ s.OnlyCore t core ∧
        t.core core = { s.core core with slots := (s.core core).slots.put slot sl' } ∧
        { sl' with threads := [], u := [] } = { sl with threads := [], u := [], pend := rest } ∧
        (∀ k, sl'.u.getD k 0 = if p.thread = 16 ∧ p.reg = k then p.val else sl.u.getD k 0) ∧
        ∀ m < 16, sl'.thread m =
          let th := if p.thread = m then { sl.thread m with g := (sl.thread m).g.put p.reg p.val } else sl.thread m
          if th.st = .waitData ∧ ∀ c ∈ th.waits, Slot.awaits { sl with pend := rest } m (Reg.ofNat c) = false
          then { th with st := .ready, waits := [] } else th) ∧
    (sl.pend = [p] → p.thread ≤ 16 → (∀ k < 16, (sl.thread k).st = .exited) → (s.core core).slots.rising →
      ∃ t, exec (.pendingWriteLands core slot n) s = .next t ∧ t.slot core slot = none)

/-- R85, R87, R314: the queue engine places the next sheaf of a running launch in the lowest free slot of a core, in the state that
R85 gives; the context's first sheaf on the core sets its local-store window. -/
def Sys2Proof.Claims.SheafPlacement : Prop :=
  ∀ (s : State) (e : EntryRef) (core k b : Nat) (x : QEntry),
    let p := x.placed.getD core 0
    let index := x.lPer * (core - x.lCore0) + p
    e.ok = true → core < 1048576 → s.entry e = some x → x.toPlace core = true → s.ctxRuns x.ctx = true → s.seated x.ctx = true →
    s.withheld e.fn (tractOfCore core) x = false → (s.course (courseOfCore core)).power = .run →
    k < 4 → s.slot core k = none → (∀ j < k, s.slot core j ≠ none) → s.freeBlock x.ctx = some b →
    ∃ t sl, exec (.sheafPlace e core) s = .next t ∧ t.slot core k = some sl ∧ sl.ctx = x.ctx ∧ sl.launch = some e ∧ sl.index = index ∧
      sl.block = b ∧ sl.pend = [] ∧ sl.openFeed = none ∧
      (∀ m < 16, sl.thread m = { Thread.idle with g := [(0, BitVec.ofNat 32 m)], pc := BitVec.ofNat 64 x.lEntry }) ∧
      (∀ n, sl.u.getD n 0 = match n with
        | 0 => BitVec.ofNat 32 x.lArg
        | 1 => BitVec.ofNat 32 (x.lArg / 2 ^ 32)
        | 2 => BitVec.ofNat 32 index
        | 3 => BitVec.ofNat 32 core
        | 4 => BitVec.ofNat 32 k
        | _ => 0) ∧
      (∀ j, j ≠ k → t.slot core j = s.slot core j) ∧ (∀ c, c ≠ core → t.core c = s.core c) ∧
      (t.core core).ls = (s.core core).ls ∧ (t.core core).lsHusk = (s.core core).lsHusk ∧
      (t.core core).lsWin.get? x.ctx = some ((s.core core).lsWin.getD x.ctx (x.lBase, x.lSize)) ∧
      (t.entry e).map QEntry.placed = some (x.placed.put core (p + 1)) ∧ t.mem = s.mem ∧ t.tab = s.tab

/-- R102: the save writes a parked sheaf's registers into its save area and frees its slot; a saved sheaf whose wait has ended is
placed again as it stands. The local-store window stays. -/
def Sys2Proof.Claims.SheafSwap : Prop :=
  (∀ (s : State) (core slot : Nat) (sl : Slot),
    core < 1048576 → slot < 4 → s.slot core slot = some sl → sl.parked = true → s.sheafReady core = true → s.ctxRuns sl.ctx = true →
    (s.core core).slots.rising →
    ∃ t, exec (.sheafSwapOut core slot) s = .next t ∧ t.slot core slot = none ∧ (∀ j, j ≠ slot → t.slot core j = s.slot core j) ∧
      (t.core core).lsWin = (s.core core).lsWin ∧ (t.core core).ls = (s.core core).ls ∧
      (t.ctx sl.ctx).saved = (s.ctx sl.ctx).saved ++ [{ core := core, area := sl.block, slot := sl }] ∧
      t.mem = (s.writeBytes ((s.ctx sl.ctx).save + 2304 * sl.block) (saveArea sl)).mem ∧
      ∀ p, (t.spar p).waiters = (s.spar p).waiters.map (fun w => match w with
        | .thread c k m => if c = core ∧ k = slot then .saved sl.ctx sl.block m else w
        | _ => w)) ∧
  (∀ (s : State) (core n k ctx : Nat) (v : Saved),
    core < 1048576 → (s.savedOn core)[n]? = some (ctx, v) → (∃ m < 16, (v.slot.thread m).st = .ready) → s.ctxRuns ctx = true →
    s.seated ctx = true → (s.course (courseOfCore core)).power = .run → k < 4 → s.slot core k = none → (∀ j < k, s.slot core j ≠ none) →
    ∃ t, exec (.sheafRestore core n) s = .next t ∧ t.slot core k = some v.slot ∧ (∀ j, j ≠ k → t.slot core j = s.slot core j) ∧
      (t.core core).lsWin = (s.core core).lsWin ∧ (t.core core).ls = (s.core core).ls ∧
      (t.ctx ctx).saved = (s.ctx ctx).saved.filter (fun u => u.area != v.area) ∧ t.mem = s.mem ∧
      ∀ p, (t.spar p).waiters = (s.spar p).waiters.map (fun w => match w with
        | .saved c a m => if c = ctx ∧ a = v.area then .thread core k m else w
        | _ => w)) ∧
  (∀ sl : Slot, (saveArea sl).length = 2304 ∧
    (∀ m < 16, ∀ n < 32, ofLe (((saveArea sl).drop (128 * m + 4 * n)).take 4) = ((sl.thread m).g.getD n 0).toNat) ∧
    (∀ m < 16, ofLe (((saveArea sl).drop (0x800 + 8 * m)).take 8) = (sl.thread m).pc.toNat) ∧
    (∀ n < 16, ofLe (((saveArea sl).drop (0x880 + 4 * n)).take 4) = (sl.u.getD n 0).toNat))

/-- R61, R62, R64, R65: a feed that every edge core has issued alike enters its gang behind the feeds before it; edge feeds that
disagree fault the context with GNG_FEED_MISMATCH and clear the bank, and a feed beyond 2^32 steps does not start. -/
def Sys2Proof.Claims.FeedsAccepted : Prop :=
  ∀ (s : State) (gid rows cols ctx : Nat) (side bank : Bool) (ef : Nat → EdgeFeed),
    let g := s.gang gid
    let cores := edgeCores gid rows cols side
    let e0 := ef (cores.headD 0)
    let acc := if side then g.acceptedB else g.acceptedA
    let same := ∀ c ∈ cores, (ef c).clr = e0.clr ∧ (ef c).klen = e0.klen ∧ (ef c).ncw = e0.ncw
    let count := if e0.clr then 0 else g.count (gangCores gid rows cols) side bank
    gid < 2 ^ 20 → s.gangDims gid = some (rows, cols) → 0 < rows → 0 < cols → g.ctx = some ctx → (s.ctx ctx).st = .defined →
    (∀ c ∈ cores, g.edgeOf side bank c = some (ef c) ∧ (ef c).wait = none) →
    (¬same → ∃ t, exec (.feedAccepted gid side bank) s = .next t ∧ (t.ctx ctx).st = .faulted ∧ (t.ctx ctx).fault = gngFeedMismatch ∧
      ∀ k, ((t.gang gid).cells.getD k Cell.idle).acc bank = 0) ∧
    (same → count + e0.steps > 2 ^ 32 → ∃ t, exec (.feedAccepted gid side bank) s = .next t ∧ (t.ctx ctx).st = .faulted ∧
      (t.ctx ctx).fault = gngKLimit ∧ (t.gang gid).cells = g.cells ∧ (t.gang gid).rows = g.rows ∧ (t.gang gid).cols = g.cols) ∧
    (same → count + e0.steps ≤ 2 ^ 32 → 0 < e0.steps → ∃ t, exec (.feedAccepted gid side bank) s = .next t ∧
      (∀ n l, l < 4 → (h : n < cores.length) →
        (if side then (t.gang gid).cols else (t.gang gid).rows).getD (4 * n + l) [] =
          (if side then g.cols else g.rows).getD (4 * n + l) [] ++
            acceptLane (pick acc bank) (ef cores[n]).clr ((ef cores[n]).lanes.getD l [])) ∧
      (if side then (t.gang gid).rows = g.rows ∧ (t.gang gid).acceptedA = g.acceptedA
       else (t.gang gid).cols = g.cols ∧ (t.gang gid).acceptedB = g.acceptedB) ∧
      (if side then (t.gang gid).acceptedB else (t.gang gid).acceptedA) = putPick acc bank (pick acc bank + e0.steps) ∧
      (t.gang gid).cells = g.cells ∧ (t.gang gid).drains = g.drains ∧ (t.gang gid).ctx = some ctx ∧
      t.mem = s.mem ∧ t.tab = s.tab ∧ t.fns = s.fns)

/-- R54, R55, R56, R69: a cell that holds both operands of its next step, with room in the skids beyond it, adds the product to the
accumulator of the step's bank (from zero where the step clears) and passes each operand on; no other accumulator changes, and
the events of the sum reach CTX_NUMFLAGS. -/
def Sys2Proof.Claims.CellsFire : Prop :=
  ∀ (s : State) (gid rows cols row col ctx : Nat) (a b : Opnd),
    let g := s.gang gid
    let here := cellKey row col
    let c := g.cell row col
    let r := cellAdd (if a.clr || b.clr then 0 else c.acc a.bank) a b
    gid < 2 ^ 20 → row < 256 → col < 256 → s.gangDims gid = some (rows, cols) → row < 4 * rows → col < 4 * cols → g.held = false →
    g.releasing = false → g.ctx = some ctx → (s.course (courseOfCore gid)).power = .run →
    g.ready (gangCore gid rows cols (row / 4) (col / 4)) row col = some (a, b) →
    (col + 1 < 4 * cols → (g.cell row (col + 1)).aq.length < skidA rows cols (col + 1)) →
    (row + 1 < 4 * rows → (g.cell (row + 1) col).bq.length < skidB (row + 1)) →
    ∃ t, exec (.cellFire gid row col) s = .next t ∧
      (((t.gang gid).cell row col).acc a.bank = r.1 ∧ ((t.gang gid).cell row col).acc (!a.bank) = c.acc (!a.bank) ∧
        ((t.gang gid).cell row col).fired a.bank = c.fired a.bank + 1) ∧
      (∀ k, k ≠ here → ((t.gang gid).cells.getD k Cell.idle).acc0 = (g.cells.getD k Cell.idle).acc0 ∧
        ((t.gang gid).cells.getD k Cell.idle).acc1 = (g.cells.getD k Cell.idle).acc1) ∧
      (col + 1 < 4 * cols → ((t.gang gid).cell row (col + 1)).aq = (g.cell row (col + 1)).aq ++ [a]) ∧
      (row + 1 < 4 * rows → ((t.gang gid).cell (row + 1) col).bq = (g.cell (row + 1) col).bq ++ [b]) ∧
      (t.ctx ctx).numflags = (s.ctx ctx).numflags ||| r.2 ∧ (t.gang gid).drains = g.drains ∧ t.mem = s.mem ∧ t.fns = s.fns

/-- R70 to R74: the first drain of a core whose 16 cells have fired every step it waits for. It fuses and converts each
accumulator of its bank, writes the elements to local store or to the awaiting registers, or discards them; it clears the bank
unless KEEP is set, and ORs its events into CTX_NUMFLAGS. (No shadow sampling, no release that waits.) -/
def Sys2Proof.Claims.DrainsComplete : Prop :=
  ∀ (s : State) (gid core rows cols gr gc : Nat) (d : Drain),
    let g := s.gang gid
    let bank := dcBank d.dcw
    let keys := patchKeys gr gc
    let useT := dcEop d.dcw ≠ 0 ∧ dcDest d.dcw ≠ 2
    let useZ := dcDeriv d.dcw ≠ 0 ∧ dcDest d.dcw ≠ 2
    let acc (k : Nat) : Word := (g.cells.getD (keys.getD k 0) Cell.idle).acc bank
    let t (k : Nat) : Word := if useT then s.tileElem core d.tOff (dcTfmt d.dcw) k else 0
    let z (k : Nat) : Word := if useZ then s.tileElem core d.zOff (dcZfmt d.dcw) k else 0
    let out (k : Nat) : Nat × Word := convertOut d.ncw (some (s.randOf d.ctx d.tid (roundIndex d.base d.pitch k)))
      (ofF32 (drainElem d.dcw (acc k) (t k) (z k)))
    let events := (List.range 16).foldl (fun f k => f ||| (out k).2) (0 : Word)
    gid < 2 ^ 20 → core < 1048576 → s.gangDims gid = some (rows, cols) → gangPos gid rows cols core = some (gr, gc) →
    g.drains.find? (fun e => e.core == core) = some d → g.drainReady gr gc d = true → g.releasing = false →
    (s.course (courseOfCore core)).power = .run → (s.fn (s.ctx d.ctx).fn).shRate = 0 →
    (useT → s.lsHusks core d.tOff (16 * ofmtBytes (dcTfmt d.dcw)) = false) →
    (useZ → s.lsHusks core d.zOff (16 * ofmtBytes (dcZfmt d.dcw)) = false) →
    ∃ u : State, exec (.drainComplete gid core) s = .next u ∧
      (u.gang gid).drains = g.drains.eraseP (fun e => e.core == core) ∧
      (∀ k, ((u.gang gid).cells.getD k Cell.idle).acc bank =
        if k ∈ keys ∧ dcKeep d.dcw = false then 0 else (g.cells.getD k Cell.idle).acc bank) ∧
      (∀ k, ((u.gang gid).cells.getD k Cell.idle).acc (!bank) = (g.cells.getD k Cell.idle).acc (!bank)) ∧
      (u.ctx d.ctx).numflags = (if dcDest d.dcw = 2 then (s.ctx d.ctx).numflags else (s.ctx d.ctx).numflags ||| events) ∧
      (dcDest d.dcw ≠ 0 → u.mem = s.mem) ∧
      (dcDest d.dcw ≠ 1 → (u.core core).ls = (s.core core).ls) ∧
      (dcDest d.dcw = 1 → (u.core core).ls = putList (s.core core).ls d.dOff
        ((List.range 16).flatMap (fun k => leBytes (ofmtBytes (field d.ncw.toNat 11 9)) (out k).1))) ∧
      (dcDest d.dcw ≠ 0 → ∀ j, u.slot core j = s.slot core j) ∧
      (dcDest d.dcw = 0 → ∀ sl, s.slot core d.tslot = some sl → (∃ m < 16, (sl.thread m).st ≠ .exited) →
        (∀ p ∈ sl.pend, p.tag = d.tag → p.drain = true → p.clobber = false ∧ p.thread < 16 ∧ p.reg < 32) →
        ∃ sl', u.slot core d.tslot = some sl' ∧ sl'.pend = sl.pend.filter (fun p => !(p.tag == d.tag && p.drain)) ∧
          u.mem = s.mem ∧ ∀ m < 16, ∀ n, (sl'.thread m).g.getD n 0 =
            if m ∈ d.takers ∧ (∃ p ∈ sl.pend, p.tag = d.tag ∧ p.drain = true ∧ p.thread = m ∧ p.reg = n)
            then BitVec.ofNat 32 (out m).1 else (sl.thread m).g.getD n 0)

/-- R71, R73: one element of a drain before conversion: the companion is added or multiplied, then the derivative multiplies;
codes 1, 2, 6, 7 and 9 are exact functions of the argument. -/
def Sys2Proof.Claims.DrainElements : Prop :=
  (∀ (dcw : DWord) (c t z : Word),
    let fused := if dcEop dcw = 1 then fadd32 c t else if dcEop dcw = 2 then fmul32 c t else c
    (dcDeriv dcw = 0 → drainElem dcw c t z = fused) ∧
    (dcDeriv dcw ≠ 0 → drainElem dcw c t z =
      toF32 (mulNum (ofF32 fused) (fprime (dcDeriv dcw) (BitVec.ofNat 32 (dcAlpha dcw * 2 ^ 16)) z)))) ∧
  (∀ (alpha z : Word) (neg : Bool) (mant : Nat) (exp : Int), ofF32 z = .fin neg mant exp →
    let x : Machine.Num := .fin neg mant exp
    let positive := neg = false ∧ 0 < mant
    (positive → fprime 1 alpha z = .one ∧ fprime 2 alpha z = .one ∧ fprime 9 alpha z = mulNum (.fin false 2 0) x) ∧
    (¬positive → fprime 1 alpha z = .zero ∧ fprime 2 alpha z = ofF32 alpha ∧ fprime 9 alpha z = .zero) ∧
    fprime 6 alpha z = mulNum x (addNum .one x.negate) ∧ fprime 7 alpha z = addNum .one (mulNum x x).negate) ∧
  (∀ (code : Nat) (alpha z : Word), (ofF32 z).isNan = true → (fprime code alpha z).isNan = true)

/-- R75: an element pair passes the drain pipeline with c = x and T = Z = y into the local store of the row's east-edge core; the
first pair of a run waits as an array start (R400), and a DEST other than local store faults. -/
def Sys2Proof.Claims.ElementWise : Prop :=
  ∀ (s : State) (gid row ctx : Nat) (x y ncw : Word) (dcw : DWord) (doff : Nat) (tid : Word) (elem : DWord),
    let core := gangCore gid 8 8 (row / 4) 7
    let n := ofmtBytes (field ncw.toNat 11 9)
    let out := convertOut ncw (some (s.randOf ctx tid elem)) (ofF32 (drainElem dcw x y y))
    gid < 2 ^ 20 → row < 32 → s.gangDims gid = some (8, 8) → (s.gang gid).ctx = some ctx → (s.gang gid).held = false →
    (s.course (courseOfCore gid)).power = .run → (s.ctx ctx).st = .defined →
    ((s.gang gid).ew = true → dcReserved dcw = false → ncwReserved ncw = false → dcDest dcw = 1 → doff % n = 0 →
      s.lsOk core ctx doff n = true →
      exec (.elementWisePair gid row x y ncw dcw doff tid elem) s =
        .next ((s.lsWrite core doff (leBytes n out.1)).orFlags ctx out.2)) ∧
    ((s.gang gid).ew = true → dcDest dcw ≠ 1 →
      ∃ t, exec (.elementWisePair gid row x y ncw dcw doff tid elem) s = .next t ∧ (t.ctx ctx).st = .faulted ∧
        (t.ctx ctx).fault = gngDescInvalid) ∧
    ((s.gang gid).ew = false →
      ∃ t, exec (.elementWisePair gid row x y ncw dcw doff tid elem) s = .next t ∧ (t.gang gid).held = true ∧ (t.gang gid).ew = true ∧
        (t.course (courseOfCore gid)).queue.length = (s.course (courseOfCore gid)).queue.length + 1)

/-- R378, R380, R171: checker 1's agreement ends the check; its difference waits for the arbiter, whose verdict against the spare
fails it, and whose verdict against the drain of a context without a job faults the context; only a guilty core is retired. -/
def Sys2Proof.Claims.ShadowVerdicts : Prop :=
  ∀ (s : State) (id : Nat) (accs outs : List Word) (v : Shadow),
    let fn := (s.ctx v.ctx).fn
    s.grid.shadows.find? (fun x => x.id == id) = some v → v.verdict = none →
    (v.checker1 = none → accs = v.accs → outs = v.outs →
      ∃ t, exec (.checkerResult id accs outs) s = .next t ∧ t.grid.shadows = s.grid.shadows.filter (fun x => x.id != id) ∧
        (t.fn fn).samples = sat 24 ((s.fn fn).samples + 1) ∧ t.mem = s.mem ∧ t.tab = s.tab ∧ t.board = s.board) ∧
    (v.checker1 = none → ¬(accs = v.accs ∧ outs = v.outs) →
      ∃ t, exec (.checkerResult id accs outs) s = .next t ∧
        t.grid.shadows = s.grid.shadows.map (fun x => if x.id = id then { x with checker1 := some (accs, outs) } else x) ∧
        t.fns = s.fns ∧ t.tab.ctxs = s.tab.ctxs) ∧
    (∀ c1, v.checker1 = some c1 → ¬(c1 = (v.accs, v.outs)) → v.step = none → (s.ctx v.ctx).st = .defined →
      ((accs, outs) = (v.accs, v.outs) →
        ∃ t, exec (.arbiterVerdict id accs outs) s = .next t ∧ t.grid.shadows = s.grid.shadows.filter (fun x => x.id != id) ∧
          (t.course (courseOfCore v.core)).retired.get? v.rows.1 = some 32 ∧ (t.ctx v.ctx).st = .defined ∧
          t.truss.jcount = s.truss.jcount + 1 ∧ (t.truss.journal.get? (s.truss.jcount % 4096)).map JEntry.kind = some 8) ∧
      ((accs, outs) = c1 → s.grid.retires = [] → ((s.course (courseOfCore v.core)).retired.get? (coreRow v.core)).isNone →
        ∃ t, exec (.arbiterVerdict id accs outs) s = .next t ∧ t.grid.shadows = s.grid.shadows.filter (fun x => x.id != id) ∧
          (t.ctx v.ctx).st = .faulted ∧ (t.ctx v.ctx).fault = gngShadowMismatch ∧
          t.grid.retires.map (fun r => (r.core, r.due)) = [(v.core, true)]) ∧
      (¬((accs, outs) = (v.accs, v.outs)) → ¬((accs, outs) = c1) →
        ∃ t, exec (.arbiterVerdict id accs outs) s = .next t ∧ t.grid.shadows = s.grid.shadows.filter (fun x => x.id != id) ∧
          (t.ctx v.ctx).st = .faulted ∧ (t.ctx v.ctx).fault = gngShadowUnresolved ∧ t.grid.retires = s.grid.retires))

/-- R21, R23, R364: the row shift of a due retirement sets the row's retired column and leaves the cores from that column on with
empty local stores, near-core caches and registers; when it is done the retirement is over. -/
def Sys2Proof.Claims.RowShift : Prop :=
  ∀ (s : State) (course row : Nat) (r : Retire), course < 1024 → row < 256 →
    (s.grid.retires.find? (fun r => r.course == course && r.row == row && r.due && !r.shifting) = some r →
      (s.course course).power ≠ .off → row < 32 → r.col < 32 →
      ∃ t, exec (.rowShift course row) s = .next t ∧ (t.course course).retired = (s.course course).retired.put row r.col ∧
        (t.course course).fence = (s.course course).fence ∧
        (∀ col < 32, r.col ≤ col → (t.core (coreAt course row col)).ls = [] ∧ (t.core (coreAt course row col)).lines = [] ∧
          ∀ j sl, t.slot (coreAt course row col) j = some sl → ∀ m, (sl.thread m).g = [] ∧ sl.u = []) ∧
        (∀ col < r.col, t.core (coreAt course row col) = s.core (coreAt course row col)) ∧
        t.grid.retires = s.grid.retires.map (fun x => if x = r then { x with shifting := true } else x) ∧
        t.truss.jcount = s.truss.jcount + 1 ∧ (t.truss.journal.get? (s.truss.jcount % 4096)).map (fun j => (j.src, j.kind, j.detail)) =
          some (2, 5, r.core)) ∧
    (s.grid.retires.find? (fun r => r.course == course && r.row == row && r.shifting) = some r →
      s.grid.reshapes.any (fun q => q.tract == r.tract) = false →
      exec (.rowShiftDone course row) s = .next { s with grid := { s.grid with retires := s.grid.retires.filter (fun x => x != r) } })

/-- R78, R364: a running reshape whose tract has no further request ends: the region's gangs are cleared and unbound, GNG_SHAPE shows
the new word, the journal gets one entry, and the request completes with success. -/
def Sys2Proof.Claims.ReshapeCompletes : Prop :=
  ∀ (s : State) (tract : Nat) (r : Reshape),
    tract < 16384 → s.grid.reshapes.find? (fun q => q.tract == tract && q.running) = some r →
    (s.course (tract / 16)).power = .run → (∀ q ∈ s.grid.reshapes, q ≠ r → q.tract ≠ tract) → s.grid.gangs.rising →
    ∃ t, exec (.reshapeComplete tract) s = .next t ∧ t.grid.shapes = s.grid.shapes.put tract r.word ∧
      t.grid.reshapes = s.grid.reshapes.filter (fun q => q != r) ∧
      (∀ gid, (tractOfCore gid = tract ∧ quadOf gid ∈ affectedQuads (s.shape tract) r.word → t.gang gid = Gang.idle) ∧
        (¬(tractOfCore gid = tract ∧ quadOf gid ∈ affectedQuads (s.shape tract) r.word) → t.gang gid = s.gang gid)) ∧
      t.truss.jcount = s.truss.jcount + 1 ∧ (t.truss.journal.get? (s.truss.jcount % 4096)).map (fun j => (j.kind, j.detail)) =
        some (4, tract) ∧
      (r.sheaf = true → ∀ sl, s.slot r.core r.slot = some sl → (t.slot r.core r.slot).map Slot.pend =
        some (sl.pend.map (fun p => if p.tag = r.tag && !p.ready then { p with val := 0, ready := true } else p))) ∧
      t.mem = s.mem ∧ t.tab = s.tab

/-- R82: a parity error discards the gang's accepted feeds, clears both banks and faults its context. -/
def Sys2Proof.Claims.GangParity : Prop :=
  ∀ (s : State) (gid core part rows cols ctx : Nat),
    gid < 2 ^ 20 → core < 1048576 → part < 4 → s.gangDims gid = some (rows, cols) → (gangPos gid rows cols core).isSome →
    (s.gang gid).ctx = some ctx → (s.ctx ctx).st = .defined →
    ∃ t, exec (.gangParityError gid core part) s = .next t ∧
      t.gang gid = { s.gang gid with
        edge := [], rows := [], cols := [], cells := [], acceptedA := (0, 0), acceptedB := (0, 0), cleared := (0, 0), coreClear := [] } ∧
      (∀ k, k ≠ gid → t.gang k = s.gang k) ∧ (t.ctx ctx).st = .faulted ∧ (t.ctx ctx).fault = gngParity ∧
      (∀ c, c ≠ ctx → t.ctx c = s.ctx c)

/-- R83, R105, R106: the abort of a faulted context frees its slots and unbinds its gangs, and ends its outstanding commands with the
first fault's code; then the attempt of its job voids. Slots and gangs of other contexts stay bound. -/
def Sys2Proof.Claims.ContextAbort : Prop :=
  (∀ (s : State) (ctx : Nat),
    ctx < 1048576 → (s.ctx ctx).aborting = true → (s.ctx ctx).st = .faulted → s.grid.cores.rising → s.grid.gangs.rising →
    (∀ c, (s.core c).slots.rising) →
    ∃ u : State, exec (.contextAbort ctx) s = .next (u.abortVoid ctx) ∧ (u.ctx ctx).aborting = false ∧ (u.ctx ctx).st = .faulted ∧
      (u.ctx ctx).fault = (s.ctx ctx).fault ∧ (∀ c j sl, u.slot c j = some sl → sl.ctx ≠ ctx) ∧ (∀ g, (u.gang g).ctx ≠ some ctx) ∧
      (∀ g, (s.gang g).ctx ≠ some ctx → (u.gang g).ctx = (s.gang g).ctx)) ∧
  (∀ (s : State) (ctx : Nat), s.jobOf ctx = none → s.abortVoid ctx = s)

/-- R147, R148, R152, R169, R170: an access at its home slice. A store is visible to every agent at once and changes no other byte; a
load or atomic that the slice holds takes the bytes as they stand; a miss starts a fill or joins the one outstanding; a load of
a husk faults its context. -/
def Sys2Proof.Claims.HomeSlices : Prop :=
  ∀ (s : State) (n : Nat) (r : MemReq),
    let line := r.addr / 128
    let rest := s.mem.reqs.eraseIdx n
    s.memOk → s.mem.reqs[n]? = some r → blockedBy (s.mem.reqs.take n) r = false → r.addr < 2 ^ 45 → s.openAt r.addr r.size = [] →
    (r.kind = .store → s.mem.misses.get? line = none →
      ∃ t, exec (.homeSliceAccess n) s = .next t ∧ t.mem.reqs = rest ∧ s.Wrote t r.addr (leBytes r.size r.data) ∧
        t.grid = s.grid ∧ t.fns = s.fns ∧ t.tab.ctxs = s.tab.ctxs) ∧
    (r.kind = .load → s.mem.misses.get? line = none → s.lineHas r.addr r.size = true → r.near = false → r.hint < 3 →
      s.husksIn r.addr r.size = [] →
      ∃ t, exec (.homeSliceAccess n) s = .next t ∧ t.mem.reqs = rest ∧ s.Wrote t 0 [] ∧
        t.grid = (s.updSlot r.core r.slot (fun sl =>
          sl.settle r.tag (wordsOfNat 4 (extendLoad r.size r.sext (s.readNat r.addr r.size))))).grid) ∧
    (r.kind = .load → s.mem.misses.get? line = none → s.lineHas r.addr r.size = true → r.near = false → r.hint < 3 →
      s.husksIn r.addr r.size ≠ [] → (s.ctx r.ctx).st = .defined →
      ∃ t, exec (.homeSliceAccess n) s = .next t ∧ t.mem.reqs = rest ∧ (t.ctx r.ctx).st = .faulted ∧
        (t.ctx r.ctx).fault = memHuskConsumed ∧ ∀ c j, t.slot c j = s.slot c j) ∧
    (∀ op, r.kind = .atom op → s.mem.misses.get? line = none → s.lineHas r.addr r.size = true → r.size = atomSize op →
      ∃ t, exec (.homeSliceAccess n) s = .next t ∧ t.mem.reqs = rest ∧
        s.Wrote t r.addr (leBytes r.size (atomNew op (s.readNat r.addr r.size) r.data r.cmp)) ∧
        t.grid = (s.updSlot r.core r.slot (fun sl =>
          sl.settle r.tag (wordsOfNat 4 (extendLoad r.size r.sext (s.readNat r.addr r.size))))).grid) ∧
    ((∀ op, r.kind ≠ .ordered op) → ∀ q, s.mem.misses.get? line = some q →
      exec (.homeSliceAccess n) s = .next { s with mem := { s.mem with reqs := rest, misses := s.mem.misses.put line (q ++ [r]) } }) ∧
    ((∀ op, r.kind ≠ .ordered op) → r.kind ≠ .store → s.mem.misses.get? line = none → s.lineHas r.addr r.size = false →
      s.fillsAt line < 256 →
      exec (.homeSliceAccess n) s = .next { s with mem := { s.mem with reqs := rest, misses := s.mem.misses.put line [r] } })

/-- R148, R166, R168, R171: a fill ends its miss and answers the load that waited for it with the bytes of the line; a word read as
uncorrectable becomes a husk at its home, with a count and a record of its level. A scrub corrects and counts, and does the
same with an uncorrectable word. -/
def Sys2Proof.Claims.FillsAndScrub : Prop :=
  (∀ (s : State) (line : Nat) (r : MemReq),
    s.memOk → s.mem.misses.rising → s.mem.misses.get? line = some [r] → r.addr / 128 = line → r.addr < 2 ^ 45 → r.kind = .load →
    r.near = false → r.hint < 3 → r.addr % 128 + r.size ≤ 128 → s.husksIn r.addr r.size = [] → (∀ k < 8, s.memHusk (8 * line + k) = false) →
    ∃ t, exec (.fillArrives line (List.replicate 8 .clean)) s = .next t ∧ t.mem.misses.get? line = none ∧ s.Wrote t 0 [] ∧
      t.mem.reqs = s.mem.reqs ∧
      t.grid = (s.updSlot r.core r.slot (fun sl =>
        sl.settle r.tag (wordsOfNat 4 (extendLoad r.size r.sext (s.readNat r.addr r.size))))).grid) ∧
  (∀ (s : State) (addr fn : Nat) (symbols : Word) (syn : BitVec 16),
    let w := addr / 16
    s.mem.scrubH ≠ 0 → s.populated addr = true → s.virginWord w = false → s.ownerOfAddr (16 * w) = some fn →
    (exec (.scrub addr .clean symbols) s = .next s) ∧
    (exec (.scrub addr .single symbols) s = .next (s.updFn fn (fun g => { g with corr := sat 32 (g.corr + 1) }))) ∧
    (exec (.scrub addr (.bad syn) symbols) s = .next
      (({ s with mem := { s.mem with mem := s.mem.mem.setHusk w true } }.updFn fn (fun g => { g with uncorr := sat 16 (g.uncorr + 1) })).record
        (Report.plain (if isDdr (16 * w) then 0x07 else 0x06) memUncorrectable (memLoc (16 * w))
          (leBytes 8 (16 * w) ++ leBytes 2 syn.toNat ++ leBytes 2 0 ++ leBytes 4 symbols.toNat))))) ∧
  (∀ (m : Memory) (w : Nat), (m.setHusk w true).husks.contains w = true)

/-- R154 to R157: an element's contributions take effect in index order whatever their order of arrival: the next one is added at once
and the last one closes the sequence; one up to 15 ahead is buffered, one further ahead goes back for retry, and a repeated or
impossible index faults its context. An abandoned sequence leaves a husk and a record. -/
def Obligations.OrderedAccumulation : Prop :=
  (∀ (s : State) (n op : Nat) (r : MemReq) (q : OrdSeq),
    let i := r.ordsc.toNat % 2 ^ 16
    let p := r.ordsc.toNat / 2 ^ 16
    let rest := s.mem.reqs.eraseIdx n
    s.memOk → s.mem.seqs.rising → s.mem.reqs[n]? = some r → blockedBy (s.mem.reqs.take n) r = false → s.mem.misses.get? (r.addr / 128) = none → r.kind = .ordered op →
    r.remote = none → r.addr < 2 ^ 45 → s.mem.seqs.get? r.addr = some q → q.next < q.count → (∀ x ∈ q.buf, q.next < x.1) → q.buf.rising →
    (p = q.count → i = q.next → q.buf.get? (i + 1) = none →
      ∃ t, exec (.orderedContribution n) s = .next t ∧ t.mem.reqs = rest ∧
        s.Wrote t r.addr (leBytes (atomSize op) (atomNew op (s.readNat r.addr (atomSize op)) r.data 0)) ∧
        t.mem.seqs.get? r.addr = if i + 1 = p then none else some { q with next := i + 1 }) ∧
    (p = q.count → q.next < i → i < p → i ≤ q.next + 15 → q.buf.get? i = none → s.buffered (r.addr / 128) < 16 →
      ∃ t, exec (.orderedContribution n) s = .next t ∧ t.mem.reqs = rest ∧ s.Wrote t 0 [] ∧
        t.mem.seqs.get? r.addr = some { q with buf := q.buf.put i (op, r.data) }) ∧
    (p = q.count → q.next + 15 < i → i < p → q.buf.get? i = none →
      exec (.orderedContribution n) s = .next { s with mem := { s.mem with reqs := rest, retries := s.mem.retries ++ [r] } }) ∧
    (p ≠ q.count ∨ i < q.next ∨ p ≤ i → (s.ctx r.ctx).st = .defined →
      ∃ t, exec (.orderedContribution n) s = .next t ∧ (t.ctx r.ctx).st = .faulted ∧ (t.ctx r.ctx).fault = memOrderIndex ∧
        t.mem.seqs = s.mem.seqs)) ∧
  (∀ (s : State) (n op : Nat) (r : MemReq),
    let p := r.ordsc.toNat / 2 ^ 16
    s.memOk → s.mem.reqs[n]? = some r → blockedBy (s.mem.reqs.take n) r = false → s.mem.misses.get? (r.addr / 128) = none →
    r.kind = .ordered op → r.remote = none →
    r.addr < 2 ^ 45 → s.mem.seqs.get? r.addr = none → r.ordsc.toNat % 2 ^ 16 = 0 → 1 < p →
    (s.canPin (r.addr / 128) = true →
      ∃ t, exec (.orderedContribution n) s = .next t ∧
        s.Wrote t r.addr (leBytes (atomSize op) (atomNew op (s.readNat r.addr (atomSize op)) r.data 0)) ∧
        t.mem.seqs.get? r.addr = some { size := atomSize op, next := 1, count := p, buf := [] }) ∧
    (s.canPin (r.addr / 128) = false →
      exec (.orderedContribution n) s =
        .next { s with mem := { s.mem with reqs := s.mem.reqs.eraseIdx n, retries := s.mem.retries ++ [r] } })) ∧
  (∀ (s : State) (n : Nat) (r : MemReq), s.mem.retries[n]? = some r → r.addr < 2 ^ 62 →
    exec (.orderedRetry n) s = .next { s with mem := { s.mem with retries := s.mem.retries.eraseIdx n, reqs := s.mem.reqs ++ [r] } }) ∧
  (∀ (s : State) (addr : Nat) (q : OrdSeq), s.mem.seqs.get? addr = some q → s.mem.seqs.rising →
    ∃ u : State, u.mem.seqs.get? addr = none ∧ u.huskAt (addr / 16) = true ∧ u.pinned (addr / 128) =
        (s.mem.seqs.del addr).any (fun x => x.1 / 128 == addr / 128) ∧
      exec (.orderedSequenceAbandon addr) s = .next (u.record (Report.plain 0x05 memOrderAbandoned (32 * homeDie addr + homeSlice addr)
        (leBytes 8 addr ++ leBytes 2 q.next ++ leBytes 2 q.count))))

/-- R367, R373: a fault signature record takes the next sequence number and the time, and enters the always-on store of 256 records. -/
def Sys2Proof.Claims.Records : Prop :=
  ∀ (s : State) (rep : Report),
    (s.record rep).board.recSeq = s.board.recSeq + 1 ∧ (s.record rep).board.aoCount = s.board.aoCount + 1 ∧
    ∃ r, (s.record rep).board.aoStore.get? (s.board.aoCount % 256) = some r ∧ r.unit = rep.unit ∧ r.status = rep.status ∧
      r.seq = s.board.recSeq ∧ r.time = s.pwr.time ∧ r.fn = rep.fn ∧ r.ctx = rep.ctx

/-- R286 to R288, R291, R292, R294: one operation at the home unit of a spar in use, with no thread waiting on it. -/
def Sys2Proof.Claims.SparHome : Prop :=
  ∀ (s : State) (p : Nat) (o : SparOp) (rest : List SparOp) (sl : Slot),
    let x := s.spar p
    let th := sl.thread o.thread
    let reply (v : DWord) : State := (s.updSpar p (fun x => { x with ops := rest })).updSlot o.core o.slot (fun sl =>
      sl.settle o.tag (wordsOfNat 2 v.toNat))
    let bit := if x.value.getLsbD 0 then 1 else 0
    p < 65536 → x.ops = o :: rest → o.gen = x.gen → x.waiters = [] → s.slot o.core o.slot = some sl → o.thread < 16 →
    (∀ delta, o.act = .add delta → x.aband = false → x.kind ≠ 2 →
      (x.kind = 1 → 0 ≤ (x.value.toNat : Int) + delta.toInt ∧ (x.value.toNat : Int) + delta.toInt ≤ x.param.toNat) →
      exec (.sparHomeOperation p) s = .next ((reply x.value).updSpar p (fun x => { x with value := x.value + delta }))) ∧
    (∀ delta, o.act = .add delta → x.aband = false → x.kind = 1 → (s.ctx o.ctx).st = .defined →
      ((x.value.toNat : Int) + delta.toInt < 0 → ∃ t, exec (.sparHomeOperation p) s = .next t ∧ (t.spar p).value = x.value ∧
        (t.ctx o.ctx).st = .faulted ∧ (t.ctx o.ctx).fault = sprUnderflow) ∧
      ((x.value.toNat : Int) + delta.toInt > x.param.toNat → ∃ t, exec (.sparHomeOperation p) s = .next t ∧ (t.spar p).value = x.value ∧
        (t.ctx o.ctx).st = .faulted ∧ (t.ctx o.ctx).fault = sprOverflow)) ∧
    (o.act = .read → exec (.sparHomeOperation p) s = .next (reply x.value)) ∧
    (x.aband = true → (∀ delta, o.act = .add delta → exec (.sparHomeOperation p) s = .next (reply x.value)) ∧
      (o.act = .arrive → exec (.sparHomeOperation p) s = .next (reply bit))) ∧
    (∀ cond thresh, o.act = .wait cond thresh → x.aband = false → sparHolds cond thresh x.value = false →
      ∃ t, exec (.sparHomeOperation p) s = .next t ∧ t.spar p = { x with ops := rest, waiters := [.thread o.core o.slot o.thread] } ∧
        t.thread o.core (16 * o.slot + o.thread) = { th with wait := th.wait.map (fun w => { w with code := 1 }) }) ∧
    (∀ cond thresh w, o.act = .wait cond thresh → x.aband = false → sparHolds cond thresh x.value = true → th.wait = some w →
      th.token = none → w.dst < 32 →
      ∃ t, exec (.sparHomeOperation p) s = .next t ∧ t.spar p = { x with ops := rest } ∧
        t.thread o.core (16 * o.slot + o.thread) =
          { th with g := th.g.put w.dst 0, st := .ready, wait := some { w with code := 2 } }) ∧
    (∀ cond thresh w, o.act = .wait cond thresh → x.aband = true → th.wait = some w → w.dst < 32 →
      ∃ t, exec (.sparHomeOperation p) s = .next t ∧ t.spar p = { x with ops := rest } ∧
        t.thread o.core (16 * o.slot + o.thread) =
          { th with g := th.g.put w.dst (sprAbandoned.setWidth 32), st := .ready, wait := some { w with code := 3 } }) ∧
    (o.act = .arrive → x.aband = false → x.kind = 2 → th.token = none → th.st ≠ .exited → x.arr < x.count →
      ∃ t, exec (.sparHomeOperation p) s = .next t ∧
        (t.thread o.core (16 * o.slot + o.thread)).token = some { lid := o.lid, phys := p, gen := x.gen, phase := x.value.getLsbD 0 } ∧
        t.spar p = (if x.arr + 1 = x.count ∧ x.dep = x.count then
          { x with ops := rest, value := x.value + 1, arr := 0, dep := 0, tokens := x.tokens ++ [.thread o.core o.slot o.thread] }
          else { x with ops := rest, arr := x.arr + 1, tokens := x.tokens ++ [.thread o.core o.slot o.thread] }))

/-- R285: an operation with a stale generation faults; R288: a value that meets the condition of a parked thread satisfies it, whatever
value follows. -/
def Sys2Proof.Claims.SparWaiters : Prop :=
  (∀ (s : State) (p : Nat) (o : SparOp) (rest : List SparOp),
    p < 65536 → (s.spar p).ops = o :: rest → o.gen ≠ (s.spar p).gen → (s.ctx o.ctx).st = .defined →
    ∃ t, exec (.sparHomeOperation p) s = .next t ∧ t.spar p = { s.spar p with ops := rest } ∧ (t.ctx o.ctx).st = .faulted ∧
      (t.ctx o.ctx).fault = sprStaleGen ∧ o.core ∈ (t.ctx o.ctx).stopped) ∧
  (∀ (s : State) (p core slot m : Nat) (o : SparOp) (rest : List SparOp) (delta : DWord) (sl : Slot) (w : SparWait),
    let x := s.spar p
    p < 65536 → x.ops = o :: rest → o.gen = x.gen → o.act = .add delta → x.aband = false → x.kind = 0 →
    x.waiters = [.thread core slot m] → m < 16 → s.slot core slot = some sl → (sl.thread m).wait = some w → (sl.thread m).token = none →
    w.dst < 32 →
    ∃ t, exec (.sparHomeOperation p) s = .next t ∧ (t.spar p).value = x.value + delta ∧
      (sparHolds w.cond w.thresh (x.value + delta) = true → (t.spar p).waiters = [] ∧
        t.thread core (16 * slot + m) = { sl.thread m with g := (sl.thread m).g.put w.dst 0, st := .ready, wait := some { w with code := 2 } }) ∧
      (sparHolds w.cond w.thresh (x.value + delta) = false → (t.spar p).waiters = x.waiters ∧
        t.thread core (16 * slot + m) = sl.thread m))

/-- R296: an agent's add follows the rules of SPADD and its clear those of SET; through an id that was not valid, on a barrier spar or
with a stale generation it is discarded, and on an abandoned spar it is counted. -/
def Sys2Proof.Claims.AgentSpars : Prop :=
  ∀ (s : State) (fn jslot key unit : Nat) (b : Job) (which : AgentSpar) (sp : Option AgSpar),
    fn < 64 → jslot < 16 → s.job fn jslot = some b → s.agentOf fn b which = (key, unit, sp) →
    (∀ a, sp = some a → a.gen = (s.spar a.phys).gen → (s.spar a.phys).aband = false → (s.spar a.phys).kind = 0 →
      (s.spar a.phys).waiters = [] →
      (∀ d, exec (.agentSparOperation fn jslot which (.add d)) s =
        .next (s.updSpar a.phys (fun x => { x with value := x.value + d }))) ∧
      exec (.agentSparOperation fn jslot which .setZero) s = .next (s.updSpar a.phys (fun x => { x with value := 0, init := 0 })) ∧
      ∀ k, exec (.agentSparOperation fn jslot which (.watch k)) s = .next s) ∧
    (∀ a op, sp = some a → a.gen = (s.spar a.phys).gen → (s.spar a.phys).aband = true →
      exec (.agentSparOperation fn jslot which op) s =
        .next (s.updFn fn (fun g => { g with spr := { g.spr with agentDrop := sat 16 (g.spr.agentDrop + 1) } }))) ∧
    (∀ op, (sp = none ∨ ∃ a, sp = some a ∧ a.gen = (s.spar a.phys).gen ∧ (s.spar a.phys).aband = false ∧ (s.spar a.phys).kind = 2) →
      ∃ t, exec (.agentSparOperation fn jslot which op) s = .next t ∧ t.tab = s.tab)

/-- R217, R218, R222, R224, R225, R227, R228, R235: the replica after a chunk's owner starts it with its own contribution and tally; a
contribution of the current attempt has this member's share added, value by value, and goes on: to the owner's update engine, or
to the next replica. One of the next step waits in the hold buffer, a stale one is counted. -/
def Sys2Proof.Claims.Contributions : Prop :=
  (∀ (s : State) (fn jslot chunk o : Nat) (b : Job) (own : Member),
    fn < 64 → jslot < 16 → s.job fn jslot = some b → b.owner b.me.group chunk = some (o, own) → s.shareReady b chunk = true →
    b.me.spare = false → b.me.ridx = (own.ridx + 1) % b.size b.me.group →
    exec (.chunkStart fn jslot chunk) s = .next ((s.takeShare b chunk).2.passChunk fn jslot b (s.takeShare b chunk).1)) ∧
  (∀ (s : State) (port : Nat) (m : Msg) (fn j : Nat) (b : Job),
    let h := gHdrOf m
    s.GutterIn port m 1 fn j b →
    (b.age h = .current → s.shareReady b h.chunk = true →
      let r := (s.took port m).takeShare b h.chunk
      exec (.contribution port m) s = .next (r.2.passChunk fn j b ((sumOf m).add r.1))) ∧
    (b.age h = .ahead → b.hold = [] →
      ∃ t b', exec (.contribution port m) s = .next t ∧ t.job fn j = some b' ∧ b'.hold = [(port, m)] ∧ b'.sent = b.sent ∧ t.mem = s.mem) ∧
    (b.age h = .stale →
      ∃ t b', exec (.contribution port m) s = .next t ∧ t.job fn j = some b' ∧ b'.stale = sat 16 (b.stale + 1) ∧ b'.sent = b.sent)) ∧
  (∀ (s : State) (b : Job) (c : Nat),
    let k := c - b.groupFirst b.me.group
    let a := (if b.step % 2 = 0 then b.grad0 else b.grad1) + 4096 * k
    let x := (s.takeShare b c).1
    x.chunk = c ∧ x.start = b.myidx ∧ x.hops = 0 ∧ x.ovf = false ∧ x.vals.length = 1024 ∧
    (∀ i < 1024, x.vals.getD i 0 = BitVec.ofNat 32 (s.readNat (a + 4 * i) 4)) ∧
    x.sigma = x.vals.foldl (fun (a : DWord) v => toF64 (addNum (ofF64 a) (ofF32 v))) 0 ∧
    x.amag = x.vals.foldl (fun (a : Word) v => toF32 (addNum (ofF32 a) (ofF32 v).abs)) 0) ∧
  (∀ x own : Sum, x.vals.length = 1024 → own.vals.length = 1024 →
    (x.add own).hops = x.hops + 1 ∧ (∀ i < 1024, (x.add own).vals.getD i 0 = fadd32 (x.vals.getD i 0) (own.vals.getD i 0)) ∧
    (x.add own).amag = fadd32 x.amag own.amag ∧ (x.add own).mask = (x.mask ||| own.mask) ∧ (x.add own).start = x.start) ∧
  (∀ (s : State) (fn j : Nat) (b : Job) (x : Sum) (own : Member) (i : Nat) (e : UpdEntry),
    s.job fn j = some b → b.owner b.me.group x.chunk = some (b.myidx, own) → b.updOf x.chunk = some (i, e) →
    ∃ q k, ((s.passChunk fn j b x).engine q).chunks = (s.engine q).chunks ++ [k] ∧ k.chunk = x.chunk ∧ k.vals = x.vals ∧ k.hops = x.hops ∧
      k.sigma = x.sigma ∧ k.amag = x.amag ∧ k.husk = !x.husks.isEmpty ∧ (s.passChunk fn j b x).mem = s.mem ∧
      (s.passChunk fn j b x).fab = s.fab ∧ ∃ b', (s.passChunk fn j b x).job fn j = some b' ∧ b'.sent = x.chunk :: b.sent)

/-- R192, R212, R228, R229: an engine takes the chunk that has waited longest. A husk voids the step with MEM_HUSK_CONSUMED and a failed
tally test with GUT_TALLY_MISMATCH; a chunk whose entry has not started passes with its header alone; one of an attempt that has
voided is dropped. -/
def Sys2Proof.Claims.EngineChunks : Prop :=
  (∀ (s : State) (q : Nat) (x : EChunk) (b : Job),
    let u := s.updEngine q (fun g => { g with chunks := g.chunks.erase x })
    q < 32 → (s.engine q).chunks.find? (fun x => s.takes x) = some x → s.job x.fn x.jslot = some b →
    (x.gen ≠ b.gen ∨ x.step ≠ b.step → exec (.engineApplyChunk q) s = .next u) ∧
    (x.gen = b.gen → x.step = b.step → ∀ i e, b.updOf x.chunk = some (i, e) →
      let o := u.openAttempt q x.fn x.jslot b
      let test := tallyFails x.vals x.sigma x.ovf b.tauOf (b.size b.me.group - 1) (innerA x.amag)
      let counted := o.updEngine q (fun g => { g with
        applied := Map.put g.applied (jobKey x.fn x.jslot) (Map.getD g.applied (jobKey x.fn x.jslot) 0 + 1) })
      let sched := Map.getD (o.engine q).sched (jobKey x.fn x.jslot) (one32, one32)
      (x.husk = true → exec (.engineApplyChunk q) s = .next (((o.countHusk x.fn).record
        { Report.plain 0x08 memHuskConsumed q (leBytes 8 x.chunk) with job := some (x.fn, x.jslot), fn := x.fn }).raiseVoid
          x.fn x.jslot memHuskConsumed)) ∧
      (∀ sum tol, x.husk = false → test = some (sum, tol) → ∃ v : State, exec (.engineApplyChunk q) s =
        .next (v.raiseVoid x.fn x.jslot gutTallyMismatch) ∧ (v.job x.fn x.jslot).map Job.tallyf =
          (o.job x.fn x.jslot).map (fun b => sat 16 (b.tallyf + 1))) ∧
      (x.husk = false → test = none → b.step < e.start →
        exec (.engineApplyChunk q) s = .next (counted.shareParams x.fn x.jslot b x.chunk 0 none)) ∧
      (x.husk = false → test = none → e.start ≤ b.step → e.rule ≠ 3 → (e.emb = true → e.runs x.mask.toNat ≠ []) →
        exec (.engineApplyChunk q) s = .next (counted.applyRule q x.fn x.jslot b i e x sched.1 sched.2)))) ∧
  (∀ (vals : List Word) (sigma : DWord) (ovf : Bool) (tau hops : Nat) (inner : DWord),
    let sum := vals.foldl (fun (a : DWord) v => toF64 (addNum (ofF64 a) (ofF32 v))) 0
    let tol := toF64 (mulNum (.fin false (tau * (hops + 1)) 0) (ofF64 inner))
    let diff := (ofF64 (toF64 (addNum (ofF64 sum) (ofF64 sigma).negate))).abs
    ((ovf = true ∨ (ofF64 sigma).isFinite = false ∨ (ofF64 sum).isFinite = false) → tallyFails vals sigma ovf tau hops inner = none) ∧
    (ovf = false → (ofF64 sigma).isFinite = true → (ofF64 sum).isFinite = true → (ofF64 tol).isFinite = true →
      tallyFails vals sigma ovf tau hops inner = if cmpNum diff (ofF64 tol) = .gt then some (sum, tol) else none))

/-- R198 to R201, R207, R212: one element under the rules 0 to 3, each operation rounded in the order written; an element that leaves
the finite numbers is reported by what it is, and a sound one is rounded stochastically to its stored weight. -/
def Sys2Proof.Claims.UpdateRules : Prop :=
  (∀ (e : UpdEntry) (k : Coef) (w m v g : Word) (rest : List Word),
    let one : Word := 0x3F800000#32
    let decay (d : Word) : Word := fsub32 w (fmul32 k.eta (fadd32 d (fmul32 k.lambda w)))
    (e.rule = 0 → ruleStep e k w (m :: rest) g =
      let m' := fadd32 (fmul32 e.beta1 m) g
      (decay (if e.nest then fadd32 g (fmul32 e.beta1 m') else m'), [m'])) ∧
    (e.rule = 1 → ruleStep e k w (m :: v :: rest) g =
      let m' := fadd32 (fmul32 e.beta1 m) (fmul32 (fsub32 one e.beta1) g)
      let v' := fadd32 (fmul32 e.beta2 v) (fmul32 (fsub32 one e.beta2) (fmul32 g g))
      (decay (fdiv32 (fdiv32 m' k.c1) (fadd32 (fsqrt32 (fdiv32 v' k.c2)) e.eps)), [m', v'])) ∧
    (e.rule = 2 → ruleStep e k w (m :: rest) g =
      (decay (sign32 (fadd32 (fmul32 e.beta1 m) (fmul32 (fsub32 one e.beta1) g))),
        [fadd32 (fmul32 e.beta2 m) (fmul32 (fsub32 one e.beta2) g)])) ∧
    (e.rule = 3 → ruleStep e k w (m :: rest) g =
      let m' := fadd32 (fmul32 e.beta1 m) g
      (decay m', [m']))) ∧
  (∀ (s : State) (b : Job) (e : UpdEntry) (kf : Coef) (set c k idle : Nat) (g : Word) (x : Elem),
    s.updateElem b e kf set c k idle g = .ok x → (ofF32 g).isFinite = true ∧ (decodeFmt bf16 x.w).isFinite = true ∧ x.k = k ∧
      x.old = s.readNat (s.bufAddr e set 0 + 2 * (1024 * (c - e.first) + k)) 2) ∧
  (∀ (s : State) (b : Job) (e : UpdEntry) (kf : Coef) (set c k idle : Nat) (g : Word),
    (ofF32 g).isFinite = false → s.updateElem b e kf set c k idle g = .error 0)

/-- R201, R208: the one block of a PRE entry whose ready word holds the step is applied; a row copy after a seal copies the row's
weights from the sealed set into the provisional one. -/
def Sys2Proof.Claims.PreBlocksAndRows : Prop :=
  (∀ (s : State) (fn jslot entry : Nat) (b : Job) (e : UpdEntry),
    let p := s.preBlock e.aux
    fn < 64 → jslot < 16 → s.job fn jslot = some b → b.upd[entry]? = some e → e.rule = 3 → b.flows = true → b.rewinding = false →
    e.start ≤ b.step → p.blocks = 1 → b.preDone.contains (entry, 0) = false → s.readNat (p.staged 0) 4 = b.step % 2 ^ 32 →
    s.readNat (p.ready 0) 4 = b.step % 2 ^ 32 →
    exec (.preBlockApply fn jslot entry) s = .next (s.applyBlock fn jslot b entry e p 0)) ∧
  (∀ (s : State) (fn j i k : Nat) (b : Job) (e : UpdEntry) (p : PreBlock) (xs : List Elem),
    let set := s.sel e
    let q := engineOf (s.bufAddr e (1 - set) 0)
    s.job fn j = some b → (p.elems k).all (fun y => (s.husksIn (p.stage + 4 * y) 4).isEmpty && !s.elemHusks e set e.first y 1) = true →
    s.updateElems b e (s.coef e b.step (Map.getD (s.engine q).sched (jobKey fn j) (s.schedule b.hdr b.step)).1) set e.first 0
      (fun y => BitVec.ofNat 32 (s.readNat (p.stage + 4 * y) 4)) (p.elems k) = .ok xs →
    ∃ b', (s.applyBlock fn j b i e p k).job fn j = some b' ∧ b'.preDone = b.preDone ++ [(i, k)]) ∧
  (∀ (s : State) (q fn j i row : Nat) (b : Job) (e : UpdEntry),
    q < 32 → (s.engine q).rows.head? = some (fn, j, i, row) → s.job fn j = some b → b.ckruns = [] → b.upd[i]? = some e →
    exec (.rowCopyDone q) s =
      .next ((s.updEngine q (fun g => { g with rows := g.rows.erase (fn, j, i, row) })).copyRow e row)) ∧
  (∀ (s : State) (src dst len : Nat), s.memOk → dst + len ≤ 2 ^ 45 → s.Wrote (s.copyBytes src dst len) dst (s.readBytes src len))

/-- R210, R237: a parameter chunk of the current attempt is written into the provisional buffer set, hashed into the held digest and
passed on unless the next replica owns it. -/
def Sys2Proof.Claims.ParameterMessages : Prop :=
  ∀ (s : State) (port : Nat) (m : Msg) (fn j i o : Nat) (b : Job) (e : UpdEntry) (own : Member),
    let h := gHdrOf m
    let w := s.bufAddr e (1 - s.sel e) 0 + 2048 * (h.chunk - e.first)
    s.GutterIn port m 2 fn j b → b.age h = .current → b.updOf h.chunk = some (i, e) → b.owner b.me.group h.chunk = some (o, own) →
    b.flows = true → b.reduces h.chunk = true → o ≠ b.myidx → b.paramHeld.contains h.chunk = false → b.ckruns = [] → e.emb = false →
    (msgBody m).length = 128 → s.memOk → w + 2048 ≤ 2 ^ 45 → (e.view + 104 ≤ w ∨ w + 2048 ≤ e.view) → e.view + 104 ≤ 2 ^ 45 →
    ∃ (u : State) (b' : Job), s.Wrote u w (wordBytes (msgBody m)) ∧ u.job fn j = some b' ∧ b'.paramHeld = h.chunk :: b.paramHeld ∧
      b'.digest = (b.digest + (digest16 (leBytes 8 h.chunk ++ leBytes 4 b.step ++ wordBytes (msgBody m))).toNat) % 2 ^ 128 ∧
      exec (.parameterMessage port m) s = .next (match b.next with
        | some (n, dest) => if n = o then u else u.gutterSend fn j b (some (b.ringOf h.chunk)) dest h (msgBody m)
        | none => u)

/-- R230 to R233: a submitted descriptor takes a stream slot; a block chunk of the current attempt has this member's share added block
by block and goes on, or is finished by the owner of its segment; the escape of a block waits for its chunk; a result is written
to DST. A block keeps its exponent plus the fewest lifts that let every mantissa fit in 16 bits, and escapes to FP32 otherwise. -/
def Obligations.BlockStreams : Prop :=
  (∀ (s : State) (fn jslot : Nat) (b : Job) (t : BStream),
    fn < 64 → jslot < 16 → s.job fn jslot = some b → b.flows = true → b.rewinding = false → b.me.spare = false →
    b.bsStarted < s.agentValue b.bsSp → b.nring + b.streams.length < b.slotcnt → b.streams = [] →
    (s.updJob fn jslot (fun b => { b with bsStarted := b.bsStarted + 1 })).streamOf fn b b.bsStarted = some t → 0 < t.count →
    (∀ k < t.count, (t.ownerPos k + 1) % (t.rlen + 1) ≠ t.mypos) → t.chunks = [] → t.over = false → t.complete = false →
    ∃ u b', exec (.blockStreamStart fn jslot) s = .next u ∧ u.job fn jslot = some b' ∧ b'.bsStarted = b.bsStarted + 1 ∧
      b'.streams = [t] ∧ u.mem = s.mem) ∧
  (∀ (s : State) (port : Nat) (m : Msg) (fn j : Nat) (b : Job) (t : BStream),
    let h := gHdrOf m
    let x := bsumOf m (fun k => t.escape h.chunk k)
    b.age h = .current → b.streams.find? (fun t => t.seq == h.seq && t.step == h.step) = some t →
    (s.GutterIn port m 3 fn j b → h.chunk < t.count → t.chunks.contains (2 * h.chunk) = false → t.escaped? x = true →
      let r := ((s.took port m).useEscapes fn j t.n h.chunk).hopBlocks fn j t x false
      exec (.blockContribution port m) s = .next
        (if t.ownerPos h.chunk = t.mypos then r.2.finishBlocks fn j b t r.1
         else (r.2.sendBlocks fn j b t 3 r.1).streamMark fn j t.n [2 * h.chunk])) ∧
    (s.GutterIn port m 5 fn j b →
      exec (.escape port m) s = .next ((s.took port m).updJob fn j (fun b => { b with streams := b.streams.map (fun u =>
        if u.n = t.n then { u with escapes := u.escapes.put (64 * h.chunk + h.blk) (msgBody m) } else u) }))) ∧
    (s.GutterIn port m 4 fn j b → h.chunk < t.count → t.chunks.contains (2 * h.chunk + 1) = false → t.escaped? x = true →
      let u := ((s.took port m).useEscapes fn j t.n h.chunk).writeResult b t x
      exec (.blockResult port m) s = .next
        ((if (t.mypos + 1) % (t.rlen + 1) = t.ownerPos h.chunk then u else u.sendBlocks fn j b t 4 x).streamMark fn j t.n
          [2 * h.chunk + 1]))) ∧
  (∀ (y : Blk) (x : List Word), y.esc = false → (∀ v ∈ x, (ofF32 v).isFinite = true) →
    let sum (i : Nat) : Machine.Num := addNum (y.value i) (ofF32 (x.getD i 0))
    let fits (a : Nat) : Prop := ∀ i < 32, (rneInt (scaleNum (sum i) (142 - y.e - a))).natAbs ≤ 32767
    (∀ a, y.l + a < 8 → y.e + a ≤ 254 → fits a → (∀ k < a, ¬fits k) →
      ∃ z, y.hop x = (z, a, false, false) ∧ z.e = y.e + a ∧ z.l = y.l + a ∧ z.esc = false ∧
        ∀ i < 32, z.m.getD i 0 = rneInt (scaleNum (sum i) (142 - (y.e + a)))) ∧
    ((∀ a, y.l + a < 8 → ¬fits a) → ∃ z ov, y.hop x = (z, 0, true, ov) ∧ z.esc = true ∧ ∀ i < 32, z.f.getD i 0 = toF32 (sum i)))

/-- R238 to R240, R211, R245: a member whose conditions hold sends its ridge; a ridge is counted and passed on at its first coming, and
one of step s + 1 is kept; with every ridge held the step seals, SEL toggles in every view block and the next step begins. -/
def Obligations.Ridges : Prop :=
  (∀ (s : State) (fn jslot : Nat) (b : Job),
    fn < 64 → jslot < 16 → s.job fn jslot = some b → b.ridgeReady = true →
    ∃ (u : State) (b' : Job), exec (.ridgeSend fn jslot) s = .next (u.trySeal fn jslot) ∧ u.job fn jslot = some b' ∧ b'.ridgeSent = true ∧
      b'.timerRunning = false ∧ b'.rcvd = insSet b.rcvd b.myidx ∧ b'.step = b.step ∧ b'.gen = b.gen ∧
      b'.digSeal = (if b.digestStep then b.digest else b.digSeal)) ∧
  (∀ (s : State) (port : Nat) (m : Msg) (fn j : Nat) (b : Job),
    let h := gHdrOf m
    s.GutterIn port m 6 fn j b → b.numbered.any (fun x => x.1 == h.start && x.2.active) = true →
    b.seenMsgs.contains (6, h.start, h.step, h.gen) = false →
    (b.age h = .current → ∃ (u : State) (b' : Job), exec (.ridge port m) s = .next (u.trySeal fn j) ∧ u.job fn j = some b' ∧
      b'.rcvd = insSet b.rcvd h.start ∧ b'.ridgeSent = b.ridgeSent ∧ b'.step = b.step ∧ (6, h.start, h.step, h.gen) ∈ b'.seenMsgs) ∧
    (b.age h = .ahead → ∃ (u : State) (b' : Job), exec (.ridge port m) s = .next u ∧ u.job fn j = some b' ∧
      b'.rcvdNext = insSet b.rcvdNext h.start ∧ b'.rcvd = b.rcvd ∧ b'.step = b.step)) ∧
  (∀ (s : State) (fn j : Nat) (b : Job), s.job fn j = some b →
    (b.ridgeSent = false ∨ b.numbered.all (fun m => !m.2.active || b.rcvd.contains m.1) = false → s.trySeal fn j = s) ∧
    (b.ridgeSent = true → b.numbered.all (fun m => !m.2.active || b.rcvd.contains m.1) = true → b.st = .running → b.digestStep = false →
      b.ckint = 0 → b.pendingVoid = none → s.grid.shadows = [] →
      ∃ b', (s.trySeal fn j).job fn j = some b' ∧ b'.step = (b.step + 1) % 2 ^ 32 ∧ b'.gen = b.gen ∧ b'.st = .running ∧
        b'.rcvd = b.rcvdNext ∧ b'.ridgeSent = false ∧ b'.voids = 0 ∧ b'.sent = [] ∧ b'.digest = 0)) ∧
  (∀ (s : State) (b : Job) (a : Nat), s.memOk → b.upd.map UpdEntry.view = [a] → a + 8 ≤ 2 ^ 45 →
    s.Wrote (s.toggleViews b) a (leBytes 8 (1 - s.readNat a 8 % 2)))

/-- R31, R158, R241 to R244, R246, R297: a void message of the current attempt voids it here too; the void takes a new generation, drops
what the attempt held and rewinds; a timer that expires voids with GUT_RIDGE_TIMEOUT, and one that expires after the ridge only marks
the member; the replay starts when the attempt's accesses are accepted. -/
def Sys2Proof.Claims.Voids : Prop :=
  (∀ (s : State) (port : Nat) (m : Msg) (fn j : Nat) (b : Job),
    let h := gHdrOf m
    s.GutterIn port m 7 fn j b → b.age h = .current →
    exec (.void port m) s = .next ((s.tookOn port m fn j b).voidJob fn j (BitVec.ofNat 16 h.cause) h.start false
      (BitVec.ofNat 16 h.cause == jobRetryLimit))) ∧
  (∀ (s : State) (fn j : Nat) (b : Job) (cause : Status) (origin : Nat) (own halt : Bool), s.job fn j = some b → b.voids + 1 ≤ b.limit →
    ∃ b', (s.voidJob fn j cause origin own halt).job fn j = some b' ∧ b'.gen = (b.gen + 1) % 256 ∧ b'.step = b.step ∧
      b'.voids = b.voids + 1 ∧ b'.cause = cause ∧ b'.origin = origin ∧ b'.rewinding = true ∧ b'.rcvd = [] ∧ b'.ridgeSent = false ∧
      b'.sent = [] ∧ b'.digest = 0 ∧ (holdCause cause halt = true → b'.st = .held)) ∧
  (∀ (s : State) (fn jslot : Nat) (b : Job), fn < 64 → jslot < 16 → s.job fn jslot = some b → b.st = .running →
    (b.timerRunning = true → b.ridgeSent = false →
      ∃ u : State, u.job fn jslot = some b ∧ exec (.ridgeTimeout fn jslot) s =
        .next (u.voidJob fn jslot gutRidgeTimeout b.myidx true false)) ∧
    (b.ridgeSent = true → ∃ t, exec (.ridgeOverdue fn jslot) s = .next t ∧ t.job fn jslot = some { b with st := .ridgeOverdue }) ∧
    (b.rewinding = true → s.settled fn jslot = true → s.grid.retires = [] → b.pendingVoid = none →
      ∃ t b', exec (.replayStart fn jslot) s = .next t ∧ t.job fn jslot = some b' ∧ b'.rewinding = false ∧ b'.gen = b.gen ∧
        b'.step = b.step)) ∧
  (∀ (s : State) (p : Nat), ((s.restoreSpar p).spar p).value = (s.spar p).init ∧ ((s.restoreSpar p).spar p).waiters = [] ∧
    ((s.restoreSpar p).spar p).tokens = [] ∧ ((s.restoreSpar p).spar p).arr = 0)

/-- R246, R247, R388: the join of the spare that is awaited returns a member to running; a spare takes the expelled member's place and
joins with the step it copied sealed. -/
def Sys2Proof.Claims.SparesJoin : Prop :=
  (∀ (s : State) (port : Nat) (m : Msg) (fn j e : Nat) (b : Job),
    let h := gHdrOf m
    s.GutterIn port m 8 fn j b → b.age h = .current → b.awaits = [(e, some h.start)] → b.st = .awaitSpare →
    exec (.join port m) s = .next ((s.tookOn port m fn j b).updJob fn j (fun b => { b with awaits := [], st := .running }))) ∧
  (∀ (s : State) (fn jslot : Nat) (b : Job) (t : Takeover),
    let e := b.member t.expelled
    fn < 64 → jslot < 16 → s.job fn jslot = some b → b.me.spare = true → b.me.expelled = false → t.expelled ≠ b.myidx →
    t.expelled < b.members.length → b.myidx < b.members.length → e.group = b.me.group → e.spare = false →
    ∃ u b', exec (.spareTakeover fn jslot t) s = .next u ∧ u.job fn jslot = some b' ∧ b'.step = (t.step.toNat + 1) % 2 ^ 32 ∧
      b'.gen = t.gen.toNat ∧ b'.st = .running ∧ b'.me = { b.me with ridx := e.ridx, first := e.first, nchunk := e.nchunk, spare := false } ∧
      (b'.member t.expelled).expelled = true)

/-- R386, R387: a local checkpoint stream that is done has its body and then its header, with COMPLETE, in its slot; the buddy stream
is done when every line it wrote has been acknowledged. -/
def Sys2Proof.Claims.CheckpointStreams : Prop :=
  (∀ (s : State) (fn jslot : Nat) (b : Job) (d : CkDesc) (r : CkRun),
    let a := d.localA + r.slot * d.slotsz
    fn < 64 → jslot < 16 → s.job fn jslot = some b → b.ckdesc = some d → b.ckruns = [r] →
    (r.localDone = false → s.memOk → a + 4096 + r.body.length ≤ 2 ^ 45 →
      ∃ (u : State) (b' : Job), exec (.checkpointStreamComplete fn jslot false) s = .next (u.endRuns fn jslot) ∧
        u.job fn jslot = some b' ∧ b'.ckLastStep = r.step ∧ b'.ckLastSlot = r.slot ∧ b'.ckruns = [{ r with localDone := true }] ∧
        s.Wrote u a (ckHeader b r true ++ r.body)) ∧
    (r.buddyDone = false → s.fab.remotes.any (fun e => e.why == .buddy fn jslot) = true →
      exec (.checkpointStreamComplete fn jslot true) s = .next s)) ∧
  (∀ (b : Job) (r : CkRun), (ckHeader b r true).length = 4096 ∧ ofLe ((ckHeader b r true).take 4) = 0xAF07C4C7 ∧
    (r.step < 2 ^ 32 → ofLe (((ckHeader b r true).drop 8).take 4) = r.step) ∧ ofLe (((ckHeader b r true).drop 12).take 4) = 1)

/-- R251, R257, R258, R260, R274: a remote request whose hall tag the target memory admits is served at its home slice: a READ returns
the code words as they stand, a WRITE changes the bytes of its mask, an atomic returns the old value, an ordered contribution
joins those that wait. A refused one changes no memory and is answered with its wire code. -/
def Obligations.RemoteTargets : Prop :=
  ∀ (s : State) (port : Nat) (m : Msg),
    let a := m.addr.toNat % 2 ^ 46
    let sp := readSpan m
    let wp := writeSpan m
    let n := atomSize m.atype.toNat
    let free (x len : Nat) : Prop := s.refuses m.htag x = none ∧ s.refuses m.htag (x + len - 1) = none
    let sound (x : Nat) : Prop := ∀ k < 8, s.memHusk (8 * (x / 128) + k) = false
    s.memOk → s.lineBusy port m = false →
    (s.Arrived port m 0x01 → sizeLegal m.atype.toNat = true → free sp.1 sp.2 → sound sp.1 → m.hint ≠ 3 →
      ∃ u : State, s.Wrote u 0 [] ∧ exec (.read port m) s = .next (u.respond m 0x11 1 ((List.range (sp.2 / 16)).map (fun k =>
        let w := sp.1 / 16 + k
        ⟨BitVec.ofNat 128 (s.readNat (16 * w) 16), if s.huskAt w then .husk else .clean⟩)))) ∧
    (∀ w, s.Arrived port m 0x01 → sizeLegal m.atype.toNat = true → s.refuses m.htag sp.1 = some w →
      exec (.read port m) s = .next ((s.took port m).violate port m w)) ∧
    (s.Arrived port m 0x02 → sizeLegal m.atype.toNat = true → wp.1 % 128 + wp.2 ≤ 128 → free wp.1 wp.2 → s.openAt wp.1 wp.2 = [] →
      ∃ u : State, exec (.write port m) s = .next (u.respond m 0x12 1 []) ∧ ∀ x, x < 2 ^ 46 → u.byteAt x =
        if wp.1 ≤ x ∧ x < wp.1 + wp.2 ∧ (m.words.length = 1 → m.ordsc.getLsbD (x - wp.1) = true)
        then (wordBytes m.words).getD (x - wp.1) 0 else s.byteAt x) ∧
    (s.Arrived port m 0x03 → m.atype.toNat ≤ 12 → free a n → sound a → s.openAt a n = [] →
      ∃ u : State, s.Wrote u a (leBytes n (atomNew m.atype.toNat (s.readNat a n) (atomArg m).1 (atomArg m).2)) ∧
        exec (.atomic port m) s = .next (u.respond m 0x13 1 [cleanWord (s.readNat a n)])) ∧
    (s.Arrived port m 0x04 → m.atype.toNat ≤ 2 → free a n →
      ∃ t r, exec (.atomicOrd port m) s = .next t ∧ t.mem = { s.mem with nextTag := s.mem.nextTag + 1, reqs := s.mem.reqs ++ [r] } ∧
        r.kind = .ordered m.atype.toNat ∧ r.addr = a ∧ r.data = (atomArg m).1 ∧ r.ordsc = m.ordsc ∧ r.remote = some m)

/-- R155, R257 to R261, R275: an answer is matched to its request, which is then no longer outstanding. Load data and old values enter
the registers that await them, an acknowledgement ends a store, a returned contribution waits to be resent; a NAK or the lapse
of RTMO faults the context. An answer to no request counts as late. -/
def Obligations.RemoteAnswers : Prop :=
  ∀ (s : State) (port : Nat) (m : Msg) (e : Remote) (r : MemReq),
    let gone : State := { s.took port m with fab := { (s.took port m).fab with remotes := s.fab.remotes.erase e } }
    let late (t : State) : State := t.updPort port (fun p => { p with late := sat 16 (p.late + 1) })
    let value := ofLe (wordBytes m.words)
    let low := ((m.words.getD 0 (cleanWord 0)).data).toNat % 2 ^ (8 * r.size)
    e.why = .thread r → r.slot < 4 →
    (s.remoteOf m = some e →
      (s.Arrived port m 0x11 → r.kind = .load → r.near = false → (∀ w ∈ m.words, w.st = .clean) →
        exec (.readResp port m) s = .next (gone.deliver r ((value >>> (8 * (e.gaddr.toNat % 16))) % 2 ^ (8 * r.size)))) ∧
      (s.Arrived port m 0x12 → exec (.writeAck port m) s = .next gone) ∧
      (∀ op, s.Arrived port m 0x13 → r.kind = .atom op → exec (.atomicResp port m) s = .next (gone.deliver r low)) ∧
      (s.Arrived port m 0x14 → exec (.returnMsg port m) s =
        .next { gone with mem := { s.mem with retries := s.mem.retries ++ [{ r with addr := e.gaddr.toNat }] } })) ∧
    (s.remoteOf m = none → s.Arrived port m 0x11 → exec (.readResp port m) s = .next (late (s.took port m))) ∧
    (s.Arrived port m 0x30 → m.cls ≠ 3 → 1 ≤ m.nak.toNat → m.nak.toNat ≤ 9 → s.refused m = some e → (s.ctx r.ctx).st = .defined →
      ∃ t, exec (.nak port m) s = .next t ∧ (t.ctx r.ctx).st = .faulted ∧ (t.ctx r.ctx).fault = BitVec.ofNat 16 (0x3000 + m.nak.toNat)) ∧
    (s.fab.remotes.find? (fun x => x.tag == e.tag) = some e → (s.ctx r.ctx).st = .defined →
      ∃ t, exec (.remoteTimeout e.tag) s = .next t ∧ (t.ctx r.ctx).st = .faulted ∧ (t.ctx r.ctx).fault = fabRemoteTimeout)

/-- R264, R271 to R273, R276: a flit in sequence is delivered once and one that fails its CRC or comes out of sequence is dropped and
asked for; a retry request has every flit from the named one resent; a high error ratio makes the port retrain; training brings
the port up, on 8 lanes or degraded on a whole half, or leaves it down. -/
def Sys2Proof.Claims.LinkLayer : Prop :=
  ∀ (s : State) (port : Nat), port < 64 →
    let p := s.port port
    (∀ (f : Flit) (m : Msg), p.linked = true → f.fecOk = true → p.injMode = 0 → f.ftype = 0 → p.replay = [] → p.held = [] →
      (f.crcOk = true → f.fseq = p.rxSeq → f.msgs = [m] → s.occupied port f.vc.toNat < Config.vcDepth →
        ∃ t, exec (.flitReceive port f) s = .next t ∧ t.fab.inbox = s.fab.inbox ++ [(port, m)] ∧ (t.port port).rxSeq = p.rxSeq + 1 ∧
          (t.port port).asks = p.asks) ∧
      (f.crcOk = false ∨ f.fseq ≠ p.rxSeq →
        ∃ t, exec (.flitReceive port f) s = .next t ∧ t.fab.inbox = s.fab.inbox ∧ (t.port port).rxSeq = p.rxSeq ∧
          (t.port port).asks = p.asks ++ [p.rxSeq])) ∧
    (∀ (pre post : List (BitVec 12 × Msg × Nat)) (n : BitVec 12) (x : Msg × Nat), p.linked = true → p.replay = pre ++ (n, x) :: post →
      (∀ y ∈ pre, y.1 ≠ n) → (∀ y ∈ (n, x) :: post, y.2.2 < 8) →
      ∃ t, exec (.retryRequest port n) s = .next t ∧ t.fab.out = s.fab.out ++ ((n, x) :: post).map (fun y => (port, y.2.1)) ∧
        (t.port port).replay = pre ++ ((n, x) :: post).map (fun y => (y.1, y.2.1, y.2.2 + 1)) ∧
        (t.port port).retry = sat 16 (p.retry + (post.length + 1)) ∧ (t.port port).st = p.st) ∧
    (∀ errors bits, (24 * bits < 100000 * errors → p.st = .up → exec (.berWindow port errors bits) s =
        .next (s.updPort port (fun p => { p with st := .retraining }))) ∧
      (100000 * errors ≤ 24 * bits → exec (.berWindow port errors bits) s = .next s)) ∧
    (∀ (lanes : Byte) (peer : BitVec 16) (peerPort : BitVec 6), p.st = .training → p.waiting = [] →
      (usableLanes lanes ≠ 0 → ∃ t, exec (.portTrainingComplete port lanes peer peerPort) s = .next t ∧
        (t.port port).st = (if lanes = 0xFF then .up else .degraded) ∧ (t.port port).lanes = usableLanes lanes ∧
        (t.port port).peerDev = peer ∧ (t.port port).peerPort = peerPort) ∧
      (usableLanes lanes = 0 → ∃ t, exec (.portTrainingComplete port lanes peer peerPort) s = .next t ∧ (t.port port).st = .down)) ∧
    (∀ vc, vc < 8 → p.stalled.contains vc = false → p.waiting.any (fun m => channelOf m == vc) = true →
      ∃ t, exec (.vcStalled port vc) s = .next t ∧ (t.port port).stalled.contains vc = true ∧ t.board.recSeq = s.board.recSeq + 1)

/-- R265 to R267, R275, R277, R280: a message in transit goes on with one hop fewer, or is refused with wire code 8 where its hop limit
ends or no port remains; a violation scores on its port, is logged, and quarantines the port at the threshold; the score decays;
a message held by injection is released, the oldest first. -/
def Sys2Proof.Claims.TransitAndScore : Prop :=
  (∀ (s : State) (port : Nat) (m : Msg),
    port < 64 → m.dstdev ≠ s.fab.devid → (s.port port).st.carries = true → hdrLegal m = true →
    (s.fab.inbox.takeWhile (fun x => x != (port, m))).any (fun x => x.1 == port && x.2.dstdev != s.fab.devid && channelOf x.2 == channelOf m)
      = false →
    (∀ q, 1 < m.ttl.toNat → s.route (m.addr.toNat % 2 ^ 46) m.dstdev.toNat m.srcdev.toNat none = some q →
      exec (.messageForward port m) s = .next ((s.took port m).sendOn q { m with ttl := m.ttl - 1 })) ∧
    (m.ttl.toNat ≤ 1 ∨ s.route (m.addr.toNat % 2 ^ 46) m.dstdev.toNat m.srcdev.toNat none = none →
      exec (.messageForward port m) s = .next ((s.took port m).sendNak m 8))) ∧
  (∀ (s : State) (port : Nat) (m : Msg) (wire : Nat), m.op ≠ 0x30 →
    let v := min 255 ((s.port port).vcnt + nakWeight wire)
    let t := s.violate port m wire
    t.fab.vlogCount = s.fab.vlogCount + 1 ∧ (t.port port).vcnt = v ∧ (t.port port).viol = sat 16 ((s.port port).viol + 1) ∧
    (s.fab.qthresh ≠ 0 → s.fab.qthresh ≤ v → (t.port port).st = .quarantined) ∧
    ((s.fab.qthresh = 0 ∨ v < s.fab.qthresh) → (t.port port).st = (s.port port).st)) ∧
  (nakWeight 1 = 1 ∧ nakWeight 2 = 0 ∧ nakWeight 3 = 4 ∧ nakWeight 4 = 4 ∧ nakWeight 5 = 1 ∧ nakWeight 6 = 0 ∧ nakWeight 7 = 0 ∧
    nakWeight 9 = 0) ∧
  (∀ s : State, ∃ t, exec .violationScoreDecay s = .next t ∧ (∀ p, t.port p = { s.port p with vcnt := (s.port p).vcnt - 1 }) ∧
    t.mem = s.mem ∧ t.fns = s.fns) ∧
  (∀ (s : State) (port : Nat) (l : List Msg) (m : Msg), port < 64 → (s.port port).held = l ++ [m] →
    ∃ t, exec (.reorderRelease port) s = .next t ∧ t.fab.inbox = s.fab.inbox ++ [(port, m)] ∧ t.port port = { s.port port with held := l })

/-- R315, R316, R328, R333, R334: whether a waiting entry starts. Its queue runs, its turn and its step have come, its context is
DEFINED and resident, and the spar it waits on has reached its threshold: then the command acts. An entry of a context that
accepts no work, or that waits on an abandoned spar, completes without running; any other waits and nothing changes. -/
def Sys2Proof.Claims.EntryGate : Prop :=
  (∀ (s : State) (e : EntryRef) (x : QEntry),
    let c := s.ctx x.ctx
    let open' := s.queueRuns e ∧ (s.queue e.fn e.q).turn x = true ∧ s.stepRuns e.fn x = true ∧ x.st = .waiting ∧ c.aborting = false
    x.opc ≠ 0x10 → x.opc ≠ 0x12 → x.opc ≠ 0x1A →
    (¬open' → s.gate e x = .stay) ∧
    (open' → c.st = .free → s.gate e x = .refuse ctxNotDefined) ∧
    (open' → c.st = .faulted → s.gate e x = .refuse ctxFaulted) ∧
    (open' → c.st = .destroying → s.gate e x = .refuse ctxDestroyed) ∧
    (open' → c.st = .defined → s.needsSlot e.fn x = true → s.seated x.ctx = false → s.gate e x = .stay) ∧
    (open' → c.st = .defined → s.seated x.ctx = true →
      (x.waitEn = false → s.gate e x = .go) ∧
      (∀ p h, x.waitEn = true → s.translateSpar x.ctx (x.hdr 111 96) = .ok (p, h) →
        ((s.spar p).aband = true → s.gate e x = .refuse sprAbandoned) ∧
        ((s.spar p).aband = false → s.gate e x = if x.hdr 191 128 ≤ (s.spar p).value.toNat then .go else .stay)))) ∧
  (∀ (s : State) (e : EntryRef) (x : QEntry),
    ∀ r ∈ [(Instr.queueNop, 0x00), (.launch, 0x01), (.copy, 0x02), (.fill, 0x03), (.reshape, 0x04), (.sparadd, 0x05), (.ctxcreate, 0x10),
      (.ctxrecover, 0x12), (.codeload, 0x13), (.oalloc, 0x15), (.ofree, 0x16), (.oshare, 0x17), (.odrop, 0x18), (.ocopy, 0x19),
      (.query, 0x1A)],
    e.ok = true → s.entry e = some x → x.opc = r.2 →
    (s.gate e x = .stay → exec (r.1 e) s = .next s) ∧
    ∀ st, s.gate e x = .refuse st → ∃ t, exec (r.1 e) s = .next t ∧ t.mem = s.mem ∧ t.tab = s.tab ∧ t.grid = s.grid ∧
      ∀ y, t.entry e = some y → y.st = .done st 0 ∧ y.signalled = true)

/-- R77, R313, R314: NOP ends at once; a LAUNCH that keeps the rules executes and places no sheaf yet, one that breaks a rule ends with
HQ_LAUNCH_INVALID; RESHAPE asks for the j-th tract of the partition; SPARADD adds as SPADD and gives the low half of the old value. -/
def Sys2Proof.Claims.RunCommands : Prop :=
  ∀ (s : State) (e : EntryRef) (x : QEntry),
    let b := s.begun e x
    (s.Starts e x 0x00 → exec (.queueNop e) s = .next (b.ran e statusOk 0)) ∧
    (∀ p : Part, s.Starts e x 0x01 → s.part e.fn = some p →
      let good := (∀ n, x.lCore0 ≤ n → n < x.lCore0 + x.lCores → courseOfCore n ∈ p.courses ∧ s.fenced (tractOfCore n) = false ∧
          ∀ w, (s.core n).lsWin.get? x.ctx = some w → w = (x.lBase, x.lSize)) ∧
        0 < x.lSize ∧ x.lBase + x.lSize ≤ 64 ∧ ∃ k ∈ (s.ctx x.ctx).kernels, k.entry.toNat = x.lEntry
      (good → exec (.launch e) s = .next b) ∧ (¬good → exec (.launch e) s = .next (b.ran e hqLaunchInvalid 0))) ∧
    (∀ p : Part, s.Starts e x 0x04 → s.part e.fn = some p →
      (∀ k, p.tracts[x.pay 255 240]? = some k → exec (.reshape e) s = .next (b.startReshape
        { tract := k, running := false, ctx := x.ctx, word := BitVec.ofNat 64 (x.pay 319 256), fn := e.fn, sheaf := false
          core := 0, slot := 0, tag := 0, entry := some e })) ∧
      (p.tracts.length ≤ x.pay 255 240 → exec (.reshape e) s = .next (b.ran e hqCmdInvalid 0))) ∧
    (∀ p h old t, s.Starts e x 0x05 → b.translateSpar x.ctx (x.pay 255 240) = .ok (p, h) →
      b.addSpar p (BitVec.ofNat 64 (x.pay 319 256)) = .ok (old, t) →
      exec (.sparadd e) s = .next (t.ran e statusOk (old.toNat % 2 ^ 32)))

/-- R305, R313: COPY moves bytes between memory of this device and the host, FILL repeats its value over the range; an access outside
the context's windows faults the context. -/
def Sys2Proof.Claims.CopyCommands : Prop :=
  ∀ (s : State) (e : EntryRef) (x : QEntry),
    let b := s.begun e x
    let len := x.pay 191 128
    let src := x.pay 319 256
    let dst := x.pay 255 192
    s.memOk →
    (∀ d, s.Starts e x 0x03 → b.spans x.ctx .w src dst = some [⟨none, d, dst⟩] → 0 < dst → dst % 4 = 0 → dst ≤ 4096 → d < 2 ^ 45 →
      ∃ u : State, s.Wrote u d ((List.replicate (dst / 4) (leBytes 4 (x.pay 191 160))).flatten) ∧ exec (.fill e) s = .next (u.ran e statusOk 0)) ∧
    (∀ a d, s.Starts e x 0x02 → x.pay 127 127 = 0 → x.pay 126 126 = 0 → x.pay 125 124 ≠ 3 → len ≤ 4096 → d < 2 ^ 45 →
      b.spans x.ctx .r src len = some [⟨none, a, len⟩] → b.spans x.ctx .w dst len = some [⟨none, d, len⟩] →
      ∃ u : State, s.Wrote u d (s.readBytes a len) ∧ exec (.copy e) s = .next (u.ran e statusOk 0)) ∧
    (∀ d, s.Starts e x 0x02 → x.pay 127 127 = 1 → x.pay 126 126 = 0 → len ≤ 4096 → d < 2 ^ 45 →
      b.spans x.ctx .w dst len = some [⟨none, d, len⟩] →
      ∃ u : State, s.Wrote u d (s.hostRead src len) ∧ exec (.copy e) s = .next (u.ran e statusOk 0)) ∧
    (∀ a, s.Starts e x 0x02 → x.pay 127 127 = 0 → x.pay 126 126 = 1 → x.pay 125 124 ≠ 3 → len ≤ 4096 →
      b.spans x.ctx .r src len = some [⟨none, a, len⟩] → s.husksIn a len = [] →
      ∃ u : State, (∀ k, u.hostByte k = if dst ≤ k ∧ k < dst + len then s.byteAt (a + (k - dst)) else s.hostByte k) ∧
        exec (.copy e) s = .next (u.ran e statusOk 0)) ∧
    (s.Starts e x 0x03 → b.spans x.ctx .w src dst = none → (s.ctx x.ctx).st = .defined →
      ∃ t, exec (.fill e) s = .next t ∧ (t.ctx x.ctx).st = .faulted ∧ (t.ctx x.ctx).fault = shfWindowFault) ∧
    (s.Starts e x 0x02 → x.pay 127 127 = 0 → b.spans x.ctx .r src len = none → (s.ctx x.ctx).st = .defined →
      ∃ t, exec (.copy e) s = .next t ∧ (t.ctx x.ctx).st = .faulted ∧ (t.ctx x.ctx).fault = shfWindowFault)

/-- R327 to R331, R335, R343: CTXCREATE defines a FREE number of the function's range from a sound record and refuses the others in
order; CTXRECOVER makes a FAULTED context DEFINED with no fault; CTXDESTROY acts at once on a context that is DEFINED or
FAULTED, and never on the default context; when the destruction is over the number is FREE and nothing of it is left. -/
def Sys2Proof.Claims.ContextCommands : Prop :=
  (∀ (s : State) (e : EntryRef) (x : QEntry),
    let b := s.begun e x
    let c := s.ctx x.ctx
    let mine := ∃ p, s.part e.fn = some p ∧ p.ctxBase ≤ x.ctx ∧ x.ctx < p.ctxBase + p.ctxCount
    let a := x.pay 319 256
    (s.Starts e x 0x10 → ¬mine → exec (.ctxcreate e) s = .next (b.ran e ctxForeign 0)) ∧
    (s.Starts e x 0x10 → mine → c.st ≠ .free → exec (.ctxcreate e) s = .next (b.ran e ctxNotFree 0)) ∧
    (s.Starts e x 0x10 → mine → c.st = .free → b.recordBad e.fn a = true →
      exec (.ctxcreate e) s = .next (b.ran e ctxRecordInvalid 0)) ∧
    (s.Starts e x 0x10 → mine → c.st = .free → b.recordBad e.fn a = false →
      ∃ t : State, exec (.ctxcreate e) s = .next (t.ran e statusOk 0) ∧ t.ctx x.ctx = { b.readRecord e.fn a with jobsl := x.jslot } ∧
        (∀ n, n ≠ x.ctx → t.ctx n = s.ctx n) ∧ t.grid = s.grid ∧ t.tab.spars = s.tab.spars) ∧
    (s.Starts e x 0x12 → c.st = .faulted → ∃ t : State, exec (.ctxrecover e) s = .next (t.ran e statusOk 0) ∧
      t.ctx x.ctx = { b.ctx x.ctx with st := .defined, fault := 0 } ∧ (∀ n, n ≠ x.ctx → t.ctx n = s.ctx n) ∧ t.grid = s.grid) ∧
    (s.Starts e x 0x12 → c.st = .defined → exec (.ctxrecover e) s = .next (b.ran e statusOk 0)) ∧
    (s.Starts e x 0x12 → c.st = .free ∨ c.st = .destroying → exec (.ctxrecover e) s = .next (b.ran e ctxNotDefined 0))) ∧
  (∀ (s : State) (e : EntryRef) (x : QEntry) (p : Part),
    let c := s.ctx x.ctx
    e.ok = true → s.entry e = some x → x.opc = 0x11 → x.st = .waiting → s.queueRuns e → s.part e.fn = some p →
    (x.ctx = p.ctxBase → exec (.ctxdestroy e) s = .next (s.endUnrun e hqCmdInvalid)) ∧
    (x.ctx ≠ p.ctxBase → c.st = .free → exec (.ctxdestroy e) s = .next (s.endUnrun e ctxNotDefined)) ∧
    (x.ctx ≠ p.ctxBase → c.st = .destroying → exec (.ctxdestroy e) s = .next (s.endUnrun e ctxDestroyed)) ∧
    (x.ctx ≠ p.ctxBase → c.st = .defined ∨ c.st = .faulted → x.waitEn = false → x.jslot = none → c.jobsl = none →
      ∃ t, exec (.ctxdestroy e) s = .next t ∧ (t.ctx x.ctx).st = .destroying ∧ ∀ n, n ≠ x.ctx → t.ctx n = s.ctx n)) ∧
  (∀ (s : State) (ctx : Nat), ctx < 2 ^ 20 → (s.ctx ctx).st = .destroying → s.tab.ctxs.rising = true → s.grid.gangs.rising = true →
    s.grid.cores.rising = true → (∀ c, (s.core c).slots.rising = true) →
    ∃ t, exec (.destructionComplete ctx) s = .next t ∧ (t.ctx ctx).st = .free ∧ t.slotsWhere (fun sl => sl.ctx == ctx) = [] ∧
      (∀ g, (t.gang g).ctx ≠ some ctx) ∧
      ((s.fn (s.ctx ctx).fn).killBusy = some ctx → (t.fn (s.ctx ctx).fn).killBusy = none ∧ (t.fn (s.ctx ctx).fn).killStatus = statusOk))

/-- R133 to R136, R335, R336: CODELOAD reads an image and loads it where it keeps the rules, or refuses it and changes nothing;
CODEUNLOAD removes the kernels of its load once no launch uses them. -/
def Sys2Proof.Claims.CodeCommands : Prop :=
  (∀ (s : State) (e : EntryRef) (x : QEntry) (a : Nat),
    let b := s.begun e x
    let len := x.pay 255 192
    let dst := x.pay 191 128
    let img := s.readBytes a len
    s.Starts e x 0x13 → b.spans x.ctx .r (x.pay 319 256) len = some [⟨none, a, len⟩] → s.husksIn a len = [] → len ≤ 4096 →
    (loadImage img (s.lomcon x.ctx) dst = none → exec (.codeload e) s = .next (b.ran e ctxCodeInvalid 0)) ∧
    (∀ im, loadImage img (s.lomcon x.ctx) dst = some im →
      ((s.ctx x.ctx).ncode < (s.ctx x.ctx).kernels.length + im.kernels.length ∨ x.pay 127 64 < im.size →
        exec (.codeload e) s = .next (b.ran e ctxCodeInvalid 0)) ∧
      ((s.ctx x.ctx).kernels.length + im.kernels.length ≤ (s.ctx x.ctx).ncode → im.size ≤ x.pay 127 64 →
        (b.ctxPieces x.ctx .r dst im.size).isSome → ∃ t : State, exec (.codeload e) s = .next (t.ran e statusOk im.kernels.length) ∧
          t.ctx x.ctx = { b.ctx x.ctx with kernels := (s.ctx x.ctx).kernels ++ im.kernels } ∧ t.grid = s.grid ∧
          ∀ n, n ≠ x.ctx → t.ctx n = s.ctx n))) ∧
  (∀ (img : List Byte) (lomcon : Bool) (dst : Nat) (im : CodeImg), loadImage img lomcon dst = some im →
    64 ≤ img.length ∧ leAt img 0 4 = 0x464C457F ∧ leAt img 0x12 2 = 0xA7F1 ∧
    ∀ k ∈ im.kernels, k.dst = BitVec.ofNat 64 dst) ∧
  (∀ (s : State) (e : EntryRef) (x : QEntry),
    let b := s.begun e x
    let dst := x.pay 319 256
    let gone := (s.ctx x.ctx).kernels.filter (fun k => k.dst.toNat == dst)
    s.Starts e x 0x14 →
    (b.codeInUse e.fn x.ctx gone = true → exec (.codeunload e) s = .next b) ∧
    (b.codeInUse e.fn x.ctx gone = false → ∃ t : State, exec (.codeunload e) s = .next (t.ran e statusOk gone.length) ∧
      t.ctx x.ctx = { b.ctx x.ctx with kernels := (s.ctx x.ctx).kernels.filter (fun k => !(k.dst.toNat == dst)) } ∧ t.grid = s.grid ∧
      ∀ n, n ≠ x.ctx → t.ctx n = s.ctx n))

/-- R337 to R341: the allocator's commands. OALLOC writes handle and base, or zero and the status of the failure, at RES; OFREE frees an
object by a handle of the current generation; OSHARE and ODROP add and remove a holder, and the last hold frees; OCOPY copies
between objects when it finishes. A stale or foreign handle faults the entry's context and touches no object. -/
def Sys2Proof.Claims.ObjectCommands : Prop :=
  ∀ (s : State) (e : EntryRef) (x : QEntry),
    let b := s.begun e x
    let h := x.pay 319 256
    let objs (t : State) := (t.objTab e.fn).objs
    (∀ d hd base t, s.Starts e x 0x15 → x.pay 191 191 = 0 → b.spans x.ctx .w (x.pay 255 192) 16 = some [⟨none, d, 16⟩] → s.memOk →
      d < 2 ^ 45 → b.alloc x.ctx h (x.pay 190 188 == 1) (x.pay 187 183) (x.pay 182 182 == 1) = .ok (hd, base, t) → t.memOk →
      ∃ u : State, t.Wrote u d (leBytes 8 hd ++ leBytes 8 base) ∧ exec (.oalloc e) s = .next (u.ran e statusOk 0)) ∧
    (∀ d st, s.Starts e x 0x15 → x.pay 191 191 = 0 → b.spans x.ctx .w (x.pay 255 192) 16 = some [⟨none, d, 16⟩] → s.memOk →
      d < 2 ^ 45 → b.alloc x.ctx h (x.pay 190 188 == 1) (x.pay 187 183) (x.pay 182 182 == 1) = .error st →
      ∃ u : State, s.Wrote u d (leBytes 8 0 ++ leBytes 4 st.toNat ++ leBytes 4 0) ∧ exec (.oalloc e) s = .next (u.ran e st st.toNat)) ∧
    (∀ i o, s.handle e.fn h = .ok (i, o) →
      (s.Starts e x 0x16 → exec (.ofree e) s = .next ((b.freeObj e.fn i).ran e statusOk 0)) ∧
      (s.Starts e x 0x17 → s.ownCtx e.fn (x.pay 255 236) = true →
        (s.ctx (x.pay 255 236)).st = .defined ∨ (s.ctx (x.pay 255 236)).st = .faulted →
        x.pay 255 236 ∉ o.holders → o.holders.length < 255 →
        exec (.oshare e) s = .next ((b.updObjTab e.fn (fun t => { t with
          objs := t.objs.put i { o with holders := o.holders ++ [x.pay 255 236] } })).ran e statusOk (o.holders.length + 1))) ∧
      (s.Starts e x 0x18 → x.ctx ∈ o.holders → ∃ (t : State) (n : Nat), exec (.odrop e) s = .next (t.ran e statusOk n) ∧
        n = (o.holders.filter (· != x.ctx)).length ∧
        if n = 0 then t = b.freeObj e.fn i
        else t = b.updObjTab e.fn (fun t => { t with objs := t.objs.put i { o with holders := o.holders.filter (· != x.ctx) } })) ∧
      (s.Starts e x 0x18 → x.ctx ∉ o.holders → exec (.odrop e) s = .next (b.ran e statusOk o.holders.length))) ∧
    (∀ i o j d, s.Starts e x 0x19 → s.handle e.fn h = .ok (i, o) → s.handle e.fn (x.pay 191 128) = .ok (j, d) →
      exec (.ocopy e) s = .next (if o.size < x.pay 255 192 + x.pay 63 0 ∨ d.size < x.pay 127 64 + x.pay 63 0
        then b.ran e hqCmdInvalid 0 else b)) ∧
    (∀ st, s.handle e.fn h = .error st → (s.ctx x.ctx).st = .defined →
      ∀ r ∈ [(Instr.ofree, 0x16), (.oshare, 0x17), (.odrop, 0x18), (.ocopy, 0x19)], s.Starts e x r.2 →
        ∃ t, exec (r.1 e) s = .next t ∧ (t.ctx x.ctx).st = .faulted ∧ (t.ctx x.ctx).fault = st ∧ objs t = objs s)

/-- R346: a QUERY writes its header of 16 bytes and the body; LEN too small gives HQ_CMD_INVALID with the bytes needed and writes nothing. -/
def Sys2Proof.Claims.Queries : Prop :=
  ∀ (s : State) (e : EntryRef) (x : QEntry) (p : Part) (body : List Byte),
    let b := s.begun e x
    let dst := x.pay 319 256
    let out := leBytes 4 (x.pay 191 176) ++ leBytes 4 body.length ++ leBytes 8 s.pwr.time.toNat ++ body
    s.Starts e x 0x1A → s.part e.fn = some p → b.queryBody e.fn p (x.pay 191 176) (x.pay 175 156) = .ok body →
    (x.pay 255 192 < out.length → exec (.query e) s = .next (b.ran e hqCmdInvalid out.length)) ∧
    (out.length ≤ x.pay 255 192 → x.pay 155 155 = 1 → ∃ u : State,
      (∀ k, u.hostByte k = if dst ≤ k ∧ k < dst + out.length then out.getD (k - dst) 0 else s.hostByte k) ∧
      exec (.query e) s = .next (u.ran e statusOk out.length)) ∧
    (∀ d, out.length ≤ x.pay 255 192 → x.pay 155 155 = 0 → s.memOk → d < 2 ^ 45 →
      b.spans x.ctx .w dst out.length = some [⟨none, d, out.length⟩] →
      ∃ u : State, s.Wrote u d out ∧ exec (.query e) s = .next (u.ran e statusOk out.length))

/-- R310, R313, R317, R327, R451: fetching reads the next 64 bytes of the ring. The first check that fails, in the order opcode, format,
context, step, ends the entry at once with its status and a completion; an entry that passes waits. A bad ring read stops the
queue with HQ_RING_FAULT. -/
def Sys2Proof.Claims.EntryFetches : Prop :=
  (∀ (s : State) (fn n : Nat),
    let q := s.queue fn n
    let a := q.sqbase.toNat + 64 * (q.fetched % q.sqSize)
    let x := (s.readEntry fn n (s.ringRead q.loc a 64)).1
    fn < fnCount → n < queueMax → s.hasQueue fn n = true → s.queueRuns ⟨fn, n, 0⟩ → q.fetched % q.sqSize ≠ q.sqtail →
    (q.loc = false → s.hostPoisoned a 64 = true → ∃ t, exec (.entryFetch fn n) s = .next t ∧ (t.queue fn n).err = true ∧
      (t.queue fn n).status = hqRingFault ∧ (t.queue fn n).entries = q.entries ∧ t.mem = s.mem) ∧
    (q.loc = false → s.hostPoisoned a 64 = false →
      (s.fetchCheck fn x = none → ∃ t, exec (.entryFetch fn n) s = .next t ∧ (t.queue fn n).entries = q.entries ++ [x] ∧
        (t.queue fn n).fetched = q.fetched + 1 ∧ (t.queue fn n).posts = q.posts ∧ x.st = .waiting ∧ x.bits = BitVec.ofNat 512 (ofLe (s.hostRead a 64))) ∧
      (∀ st, s.fetchCheck fn x = some st → q.entries = [] → ∃ t c, exec (.entryFetch fn n) s = .next t ∧
        (t.queue fn n).entries = [] ∧ (t.queue fn n).fetched = q.fetched + 1 ∧ (t.queue fn n).posts = q.posts ++ [c] ∧
        c.status = st ∧ c.cid = BitVec.ofNat 16 x.cid ∧ (t.queue fn n).sqhead = (q.fetched + 1) % q.sqSize ∧ t.tab = s.tab))) ∧
  (∀ (s : State) (fn : Nat) (x : QEntry) (p : Part), s.part fn = some p → p.courses ≠ [] →
    (x.opc ∉ [0, 1, 2, 3, 4, 5, 0x10, 0x11, 0x12, 0x13, 0x14, 0x15, 0x16, 0x17, 0x18, 0x19, 0x1A] → s.fetchCheck fn x = some hqBadOpcode) ∧
    (x.opc ∈ [0, 1, 2, 3, 4, 5, 0x10, 0x11, 0x12, 0x13, 0x14, 0x15, 0x16, 0x17, 0x18, 0x19, 0x1A] →
      (x.hdr 11 8 ≠ 0 ∨ x.hdr 20 16 ≠ 0 ∨ x.hdr 95 62 ≠ 0 ∨ (16 ≤ x.jobsl ∧ x.jobsl ≠ 31) → s.fetchCheck fn x = some hqCmdInvalid) ∧
      (∀ r, reservedPay x.opc = some r → s.formatBad fn x r = false → x.opc ≠ 0x10 →
        (x.ctx < p.ctxBase ∨ p.ctxBase + p.ctxCount ≤ x.ctx → s.fetchCheck fn x = some ctxForeign) ∧
        (p.ctxBase ≤ x.ctx → x.ctx < p.ctxBase + p.ctxCount → x.opc ≤ 5 →
          ((s.ctx x.ctx).st = .free → s.fetchCheck fn x = some ctxNotDefined) ∧
          ((s.ctx x.ctx).st = .faulted → s.fetchCheck fn x = some ctxFaulted) ∧
          ((s.ctx x.ctx).st = .destroying → s.fetchCheck fn x = some ctxDestroyed) ∧
          ((s.ctx x.ctx).st = .defined → x.jslot = none → s.fetchCheck fn x = none)))))

/-- R313, R315 to R318: an entry that has run gives its signal and then posts; a completion is written to the ring with the phase of its
pass and the tail moves on; the vector fires for a failure or once the moderation count is reached, and when its time is over. -/
def Sys2Proof.Claims.Completions : Prop :=
  (∀ (s : State) (e : EntryRef) (x : QEntry) (st : Status) (res : Word),
    let q := s.queue e.fn e.q
    e.ok = true → q.entries = [x] → x.n = e.n → x.st = .done st res → x.signalled = false → x.posted = false → x.sigEn = false →
    x.jslot = none → q.closing = false →
    ∃ t, exec (.entryFinish e) s = .next t ∧ (t.queue e.fn e.q).entries = [] ∧ (t.queue e.fn e.q).sqhead = q.fetched % q.sqSize ∧
      (t.queue e.fn e.q).posts = q.posts ++ [{ cid := BitVec.ofNat 16 x.cid, status := st, step := 0, result := res
                                               attempt := BitVec.ofNat 8 (min x.attempt 255), sqhead := BitVec.ofNat 16 (q.fetched % q.sqSize) }] ∧
      t.mem = s.mem ∧ t.tab = s.tab ∧ t.grid = s.grid) ∧
  (∀ (s : State) (e : EntryRef) (x : QEntry) (st : Status) (res : Word) (p h : Nat) (old : DWord) (t : State),
    e.ok = true → s.entry e = some x → x.st = .done st res → x.signalled = false → x.sigEn = true →
    s.translateSpar x.ctx (x.hdr 127 112) = .ok (p, h) → s.addSpar p 1 = .ok (old, t) →
    ∃ u, exec (.entryFinish e) s = .next u ∧ u.tab = t.tab) ∧
  (∀ (s : State) (fn n : Nat) (c : Compl) (rest : List Compl),
    let q := s.queue fn n
    let next := (q.cqtail + 1) % q.cqSize
    let loud := statusClass c.status ≠ 0 ∨ max 1 (field q.mod.toNat 7 0) ≤ q.unsignalled + 1
    fn < fnCount → n < queueMax → q.posts = c :: rest → q.en = true → (s.fn fn).tearing = false → q.loc = false →
    (next = q.cqhead → exec (.completionPost fn n) s = .next s) ∧
    (next ≠ q.cqhead → ∃ t, exec (.completionPost fn n) s = .next t ∧
      (∀ k, t.hostByte k = if q.cqbase.toNat + 16 * q.cqtail ≤ k ∧ k < q.cqbase.toNat + 16 * q.cqtail + 16
        then (c.bytes q.phase).getD (k - (q.cqbase.toNat + 16 * q.cqtail)) 0 else s.hostByte k) ∧
      t.queue fn n = { q with posts := rest, cqtail := next, phase := if next = 0 then !q.phase else q.phase
                              unsignalled := if loud then 0 else q.unsignalled + 1 } ∧
      (¬loud → (t.fn fn).vecs = (s.fn fn).vecs) ∧
      (loud → (t.fn fn).vecs = ((s.fireVec fn (n + 1)).fn fn).vecs))) ∧
  (∀ (s : State) (fn n : Nat),
    let q := s.queue fn n
    fn < fnCount → n < queueMax → 0 < q.unsignalled → field q.mod.toNat 31 16 ≠ 0 →
    exec (.modtimeExpires fn n) s = .next ((s.updQueue fn n (fun q => { q with unsignalled := 0 })).fireVec fn (n + 1))) ∧
  (∀ (s : State) (fn v : Nat),
    let x := (s.fn fn).vecs.getD v Vec.idle
    ((s.fireVec fn v).fn fn).vecs.getD v Vec.idle =
      if x.masked = true ∨ (s.fn fn).tearing = true then { x with pending := true } else { x with fired := x.fired + 1 })

/-- R330, R332 to R334: a context that work waits for takes a free slot of its partition's share, or that of the context used least
recently among those that can leave; a record whose CRC does not fit faults it with CTX_RECORD_CORRUPT. -/
def Sys2Proof.Claims.Residency : Prop :=
  ∀ (s : State) (ctx : Nat) (p : Part),
    let c := s.ctx ctx
    ctx < 2 ^ 20 → s.tab.ctxs.rising = true → s.part c.fn = some p → c.st = .defined → c.aborting = false → c.resident = false → s.wantsSlot ctx = true →
    (s.fn c.fn).tearing = false →
    ((s.residents c.fn).length < p.rshare → s.recordCrc c.record = c.crc →
      ∃ t, exec (.pageIn ctx) s = .next t ∧ t.ctx ctx = { c with resident := true, stamp := s.tab.stamp + 1 } ∧
        (∀ n, n ≠ ctx → t.ctx n = s.ctx n) ∧ (t.fn c.fn).pageins = sat 16 ((s.fn c.fn).pageins + 1)) ∧
    ((s.residents c.fn).length < p.rshare → s.recordCrc c.record ≠ c.crc →
      ∃ t, exec (.pageIn ctx) s = .next t ∧ (t.ctx ctx).st = .faulted ∧ (t.ctx ctx).fault = ctxRecordCorrupt ∧ (t.ctx ctx).resident = false) ∧
    (∀ v, p.rshare ≤ (s.residents c.fn).length → 0 < p.rshare → s.pageVictim c.fn = some v → s.recordCrc c.record = c.crc → v ≠ ctx →
      ∃ t, exec (.pageIn ctx) s = .next t ∧ (t.ctx ctx).resident = true ∧ (t.ctx v).resident = false ∧
        ∀ n, n ≠ ctx → n ≠ v → t.ctx n = s.ctx n) ∧
    (∀ v, s.pageVictim c.fn = some v → s.evictable v = true ∧ (s.ctx v).resident = true ∧ (s.ctx v).fn = c.fn)

/-- R7, R307, R308: a function that is not ready, that is shutting down or that is being erased drops every write of its registers;
only the fault-injection registers of the PF keep theirs, while a full load is applied. -/
def Sys2Proof.Claims.SilentFunctions : Prop :=
  ∀ (s : State) (fn q ch index port target : Nat) (v : DWord) (x : Word) (rid : BitVec 16) (ide : Bool) (body : List CodeWord),
    fn < fnCount → q < queueMax → ch < 24 → index < 131072 → port < 64 → target < fnCount →
    ((s.fn fn).ready = false ∨ (s.fn fn).tearing = true ∨ (s.fn fn).erasing = true) →
    (∀ c ∈ [Instr.queueEnable fn q v, .queueDisable fn q v, .hqDbsq fn q x, .hqDbcq fn q x, .mailboxSend fn ch, .inboundGoClear fn ch,
      .channelOpenWrite fn ch x, .sparCreate fn v, .sparMap fn v, .sparUnmap fn v, .sparDestroy fn v, .sparRead fn v, .sparSet fn v,
      .jobLoad fn v, .jobUnload fn v, .forceVoid fn v, .membershipReload fn v, .replay fn v, .skip fn v, .checkpointRegister fn v,
      .resume fn v, .restore fn v, .restoreFromBuddy fn v body, .hoardRelease fn x, .errCodeClear fn x], exec c s = .next s) ∧
    (∀ c ∈ [Instr.windowEntryEnable fn index v, .windowEntryInvalidate fn index v, .quarantineClear fn port v, .retrain fn port v,
      .signatureRingEnable fn x, .powerCapWrite fn v, .ctxKill fn v, .fullLoad fn v, .partitionLoad fn v, .shutdown fn target,
      .erase fn target, .fullreset fn v, .splitWriteTimeout fn], exec c s = .next s) ∧
    (fn = 0 → exec (.secureClaim rid ide v) s = .next s) ∧
    (fn = 0 → s.truss.applying = true → s.inApply 0 = true →
      exec (.injPctlWrite fn port v) s = .next { s with truss := { s.truss with injHeld := s.truss.injHeld ++ [(0x2400000 + 0x20 * port, v)] } }) ∧
    (fn ≠ 0 → exec (.injPctlWrite fn port v) s = .next s ∧ exec (.injPseedWrite fn port v) s = .next s)

/-- R310 to R312, R316, R317: enabling a queue checks its configuration, and starts it empty with its cursors at the loaded jobs' last
sealed steps; a disable of a queue that executes is refused with HQ_QUEUE_BUSY, otherwise, with no formed completion
waiting, the queue is off and every unposted entry is dropped. A doorbell inside the ring moves tail or head; one outside stops the queue with HQ_DB_RANGE. -/
def Sys2Proof.Claims.QueueRegistersEach : Prop :=
  ∀ (s : State) (fn n : Nat) (v : DWord) (x : Word),
    let q := s.queue fn n
    let w := s.reached fn
    let ctl := v &&& (if fn = 0 then 0xFF00000007 else 0xFF00000003)
    let sound := field v.toNat 35 32 ≤ 12 ∧ field v.toNat 39 36 ≤ 12 ∧ q.sqbase.toNat % 64 = 0 ∧ q.cqbase.toNat % 16 = 0 ∧
      (v.getLsbD 1 = true → s.inPart fn q.sqbase.toNat 64 = true ∧ s.inPart fn q.cqbase.toNat 16 = true)
    s.Answers fn → n < queueMax → s.hasQueue fn n = true →
    (v.getLsbD 0 = true → q.en = false → sound → exec (.queueEnable fn n v) s = .next (w.updQueue fn n (fun _ =>
      { Queue.idle with sqbase := q.sqbase, cqbase := q.cqbase, mod := q.mod, ctl := ctl, cursor := s.cursors fn }))) ∧
    (v.getLsbD 0 = true → q.en = false → ¬sound → exec (.queueEnable fn n v) s = .next (w.updQueue fn n (fun q =>
      { q with ctl := ctl &&& ~~~(1 : DWord), status := hqCmdInvalid }))) ∧
    (v.getLsbD 0 = true → q.en = true → exec (.queueEnable fn n v) s = .next w) ∧
    (v.getLsbD 0 = false → q.en = true → q.err = false → q.run = true →
      exec (.queueDisable fn n v) s = .next (w.updQueue fn n (fun q => { q with status := hqQueueBusy }))) ∧
    (v.getLsbD 0 = false → q.en = true → q.err = false → q.run = false → q.posts = [] →
      exec (.queueDisable fn n v) s = .next (w.updQueue fn n (fun q => { q with
        ctl := q.ctl &&& ~~~(1 : DWord), err := false, entries := [], posts := [], unsignalled := 0, closing := false, status := statusOk }))) ∧
    (q.en = true → q.err = false →
      (x.toNat < q.sqSize → ringDist q.sqSize q.sqhead q.sqtail ≤ ringDist q.sqSize q.sqhead x.toNat →
        exec (.hqDbsq fn n x) s = .next (w.updQueue fn n (fun q => { q with sqtail := x.toNat }))) ∧
      (q.sqSize ≤ x.toNat → ∃ t, exec (.hqDbsq fn n x) s = .next t ∧ t.queue fn n = { q with err := true, status := hqDbRange }) ∧
      (x.toNat < q.cqSize → ringDist q.cqSize q.cqhead x.toNat ≤ ringDist q.cqSize q.cqhead q.cqtail →
        exec (.hqDbcq fn n x) s = .next (w.updQueue fn n (fun q => { q with cqhead := x.toNat }))) ∧
      (q.cqSize ≤ x.toNat → ∃ t, exec (.hqDbcq fn n x) s = .next t ∧ t.queue fn n = { q with err := true, status := hqDbRange })) ∧
    (q.en = false → exec (.hqDbsq fn n x) s = .next w ∧ exec (.hqDbcq fn n x) s = .next w)

/-- R319 to R321: SEND sets outbound GO and CLEAR clears inbound GO; OPEN changes only while both are clear. The MC accepts an outbound
message, and answers only where no inbound one waits; each raises vector 0 where IEN is set. The first claim takes the secure
page; a request of another requester is then only counted. -/
def Sys2Proof.Claims.Mailboxes : Prop :=
  (∀ (s : State) (fn ch : Nat) (x : Word),
    let m := s.chan fn ch
    s.Answers fn → (ch < 24 ∨ (fn = 0 ∧ ch < 32 ∧ s.secure.claimed = true)) →
    (m.opened ≠ 2 → ∃ t, exec (.mailboxSend fn ch) s = .next t ∧ t.chan fn ch = { m with outGo := true } ∧ t.mem = s.mem ∧
      ∀ k, k ≠ ch → t.chan fn k = s.chan fn k) ∧
    (m.opened = 2 → exec (.mailboxSend fn ch) s = .next (s.reached fn)) ∧
    (∃ t, exec (.inboundGoClear fn ch) s = .next t ∧ t.chan fn ch = { m with inGo := false } ∧ ∀ k, k ≠ ch → t.chan fn k = s.chan fn k) ∧
    (ch < 24 → m.outGo = false → m.inGo = false → x.extractLsb' 0 2 ≠ 3 → m.parked = [] →
      ∃ t, exec (.channelOpenWrite fn ch x) s = .next t ∧ t.chan fn ch = { m with opened := x.extractLsb' 0 2, ien := x.getLsbD 2 }) ∧
    (m.outGo = true ∨ m.inGo = true ∨ 24 ≤ ch →
      ∃ t, exec (.channelOpenWrite fn ch x) s = .next t ∧ t.chan fn ch = { m with ien := x.getLsbD 2 })) ∧
  (∀ (s : State) (fn ch : Nat) (ws : List Word),
    let m := s.chan fn ch
    fn < fnCount → (ch < 24 ∨ (fn = 0 ∧ ch < 32)) → m.opened ≠ 0 → m.parked = [] →
    (m.outGo = true → ∃ t, exec (.mcAccept fn ch) s = .next t ∧ t.chan fn ch = { m with outGo := false } ∧
      (t.fn fn).vecs = if m.ien = true then ((s.fireVec fn 0).fn fn).vecs else (s.fn fn).vecs) ∧
    (m.outGo = false → exec (.mcAccept fn ch) s = .next s) ∧
    (m.inGo = false → ∃ t, exec (.mcAnswer fn ch ws) s = .next t ∧ (t.chan fn ch).inGo = true ∧
      (∀ k < 16, (t.chan fn ch).inw.getD k 0 = ws.getD k 0) ∧ (t.chan fn ch).out = m.out ∧ (t.chan fn ch).outGo = m.outGo ∧
      (t.fn fn).vecs = if m.ien = true then ((s.fireVec fn 0).fn fn).vecs else (s.fn fn).vecs) ∧
    (m.inGo = true → exec (.mcAnswer fn ch ws) s = .next s)) ∧
  (∀ (s : State) (rid : BitVec 16) (ide : Bool) (v : DWord), s.Answers 0 →
    (s.secure.claimed = false → exec (.secureClaim rid ide v) s = .next { s.reached 0 with
      secure := { s.secure with rid := v.extractLsb' 0 16, ide := v.getLsbD 17, claimed := v.getLsbD 16 } }) ∧
    (s.secure.claimed = true → (s.secure.rid ≠ rid ∨ (s.secure.ide = true ∧ ide = false)) →
      exec (.secureClaim rid ide v) s = .next { s.reached 0 with secure := { s.secure with deny := sat 16 (s.secure.deny + 1) } }))

/-- R284, R285, R294, R298 to R302: the spar operations of the host. CREATE takes a free spar of the die for an owner context; MAP gives
it to another context of the partition; READ and SET see its value; DESTROY abandons it, UNMAP of an owner too. A refused
operation leaves its status alone. -/
def Obligations.SparOperations : Prop :=
  ∀ (s : State) (fn p lid ctx : Nat) (v : DWord) (q : Part),
    let r := (s.fn fn).spr
    let w := (s.reached fn).sprFields fn v
    let own := p + 2 ^ 24 * (s.spar p).gen + 2 ^ 38 * fn
    let entry (o : Nat) := 2 ^ 31 + o * 2 ^ 30 + (s.spar p).gen * 2 ^ 16 + p
    s.Answers fn → s.part fn = some q → lid = (v.extractLsb' 6 16).toNat → ctx = (v.extractLsb' 22 20).toNat → s.memOk →
    (s.ctx ctx).mapAddr + 4 * lid + 4 ≤ 2 ^ 45 →
    (v.toNat % 8 = 1 → (v.extractLsb' 42 5).toNat < 16 → p / 4096 = (v.extractLsb' 42 5).toNat → (s.spar p).used = false →
      (∀ k < p, k / 4096 = p / 4096 → (s.spar k).used = true) → s.sprCtx fn ctx = true → (v.extractLsb' 3 2).toNat < 3 →
      kindBad (v.extractLsb' 3 2).toNat r.arg0 r.arg1 = false → s.mapFree ctx lid = true → s.sparsUsed fn < q.sparq →
      ∃ t, exec (.sparCreate fn v) s = .next t ∧ (t.fn fn).spr.status = statusOk ∧ (t.fn fn).spr.handle = BitVec.ofNat 64 own ∧
        (t.spar p).used = true ∧ (t.spar p).value = r.arg0 ∧ (t.spar p).init = r.arg0 ∧ (t.spar p).param = r.arg1 ∧
        (t.spar p).kind = (v.extractLsb' 3 2).toNat ∧ (t.spar p).owner = ctx ∧ (t.spar p).maps = [(ctx, lid)] ∧
        s.Wrote t ((s.ctx ctx).mapAddr + 4 * lid) (leBytes 4 (entry 1)) ∧ ∀ k, k ≠ p → t.spar k = s.spar k) ∧
    (v.toNat % 8 = 2 → s.sprCtx fn ctx = true → s.sprHandle fn r.handle = .ok p →
      (s.mapFree ctx lid = true → ∃ t, exec (.sparMap fn v) s = .next t ∧ (t.fn fn).spr.status = statusOk ∧
        t.spar p = { s.spar p with maps := (s.spar p).maps ++ [(ctx, lid)] } ∧
        s.Wrote t ((s.ctx ctx).mapAddr + 4 * lid) (leBytes 4 (entry 0)) ∧ ∀ k, k ≠ p → t.spar k = s.spar k) ∧
      (s.mapFree ctx lid = false → exec (.sparMap fn v) s = .next (w.sprDone fn sprIdInvalid))) ∧
    (v.toNat % 8 = 3 → s.sprCtx fn ctx = true → lid < (s.ctx ctx).mapLen → bitOf (s.mapWord ctx lid) 31 = true → bitOf (s.mapWord ctx lid) 30 = false →
      s.mapWord ctx lid % 65536 = p → (s.spar p).waiters = [] → (s.spar p).tokens = [] → (s.spar p).ops = [] → (s.spar p).aband = false →
      ∃ t, exec (.sparUnmap fn v) s = .next t ∧ (t.fn fn).spr.status = statusOk ∧
        (t.spar p).maps = (s.spar p).maps.filter (· != (ctx, lid)) ∧ (t.spar p).value = (s.spar p).value ∧
        s.Wrote t ((s.ctx ctx).mapAddr + 4 * lid) (leBytes 4 0)) ∧
    (v.toNat % 8 = 4 → s.sprHandle fn r.handle = .ok p → (s.spar p).aband = false → (s.spar p).maps ≠ [] → (s.spar p).waiters = [] →
      (s.spar p).tokens = [] → ∃ t, exec (.sparDestroy fn v) s = .next t ∧ (t.fn fn).spr.status = statusOk ∧ t.spar p = { s.spar p with aband := true } ∧
        t.mem = s.mem) ∧
    (v.toNat % 8 = 5 → s.sprHandle fn r.handle = .ok p → exec (.sparRead fn v) s = .next (w.updSpr fn (fun r => { r with
      arg0 := (s.spar p).value, arg1 := if (s.spar p).kind = 0 then r.arg1 else (s.spar p).param, state := (s.spar p).state, status := statusOk }))) ∧
    (v.toNat % 8 = 6 → s.sprHandle fn r.handle = .ok p → (s.spar p).kind = 0 → (s.spar p).aband = false → (s.spar p).waiters = [] →
      ∃ t, exec (.sparSet fn v) s = .next t ∧ (t.fn fn).spr.status = statusOk ∧ (t.spar p).value = r.arg0 ∧ (t.spar p).init = r.arg0 ∧
        ∀ k, k ≠ p → t.spar k = s.spar k) ∧
    (∀ st, s.sprHandle fn r.handle = .error st → (v.toNat % 8 = 4 → exec (.sparDestroy fn v) s = .next (w.sprDone fn st)) ∧
      (v.toNat % 8 = 5 → exec (.sparRead fn v) s = .next (w.sprDone fn st)) ∧
      (v.toNat % 8 = 6 → exec (.sparSet fn v) s = .next (w.sprDone fn st)))

/-- R213, R219 to R221, R243, R247, R248: loading a job puts it in its slot with every queue's cursor before its step, or reports the first
check that fails; unloading takes it out; a force void voids the running attempt; a held job that waits for a spare adopts a
grown table; REPLAY and SKIP release a held job. -/
def Obligations.JobRegisters : Prop :=
  ∀ (s : State) (fn : Nat) (v : DWord) (p : Part),
    let j := field v.toNat 7 4
    let w := (s.reached fn).updFn fn (fun g => { g with jdSlot := BitVec.ofNat 4 j })
    let status (t : State) (st : Status) : State := t.updFn fn (fun g => { g with jdStatus := st })
    s.Answers fn → s.part fn = some p →
    (∀ st, v.toNat % 8 = 1 → w.jobCheck fn j (s.fn fn).jdaddr.toNat = .error st → exec (.jobLoad fn v) s = .next (status w st)) ∧
    (∀ b, v.toNat % 8 = 1 → w.jobCheck fn j (s.fn fn).jdaddr.toNat = .ok b →
      ∃ t b', exec (.jobLoad fn v) s = .next t ∧ (t.fn fn).jdStatus = statusOk ∧ t.job fn j = some b' ∧ b'.job = b.job ∧ b'.step = b.step ∧
        b'.gen = b.gen ∧ b'.members = b.members ∧ b'.upd = b.upd ∧ b'.st = .running ∧
        ∀ n < p.qcount, (t.queue fn n).cursor.get? j = some ((b.step + 2 ^ 32 - 1) % 2 ^ 32)) ∧
    ((s.job fn j).isSome → w.jobCheck fn j (s.fn fn).jdaddr.toNat = .error gutJobBusy) ∧
    (s.job fn j = none → s.inPart fn (s.fn fn).jdaddr.toNat 128 = false → w.jobCheck fn j (s.fn fn).jdaddr.toNat = .error gutJobInvalid) ∧
    (s.job fn j = none →
      (v.toNat % 8 = 2 → exec (.jobUnload fn v) s = .next (status w gutJobInvalid)) ∧
      (v.toNat % 8 = 3 → exec (.forceVoid fn v) s = .next (status w gutJobInvalid)) ∧
      (v.toNat % 8 = 4 → exec (.membershipReload fn v) s = .next (status w gutJobInvalid))) ∧
    (∀ b, s.job fn j = some b →
      (v.toNat % 8 = 2 → (s.fn fn).jobs.rising = true →
        ∃ t, exec (.jobUnload fn v) s = .next t ∧ (t.fn fn).jdStatus = statusOk ∧ t.job fn j = none ∧ ∀ c, (t.ctx c).fn = fn → (t.ctx c).st ≠ .free →
          (t.ctx c).jobsl ≠ some j) ∧
      (v.toNat % 8 = 3 → b.st = .running → b.rewinding = false → b.me.spare = false →
        ∃ u : State, u.job fn j = some b ∧ exec (.forceVoid fn v) s = .next (status (u.voidJob fn j gutForceVoid b.myidx (!b.ridgeSent) false) statusOk)) ∧
      (v.toNat % 8 = 4 → b.st ≠ .held → exec (.membershipReload fn v) s = .next (status w gutJobInvalid)) ∧
      (∀ t, v.toNat % 8 = 4 → w.jobReload fn j = (statusOk, t) → exec (.membershipReload fn v) s = .next (status t statusOk) ∧
        ∃ b', t.job fn j = some b' ∧ b'.st = .awaitSpare ∧ b.members.length < b'.members.length ∧ b'.step = b.step)) ∧
    (∀ k b, (k, b) ∈ (s.fn fn).jobs → (∀ y ∈ (s.fn fn).jobs, y.2.job = b.job → y = (k, b)) → (s.fn fn).jobs.rising = true → b.st = .held →
      b.awaits.all (fun a => a.2.isSome) = true → field v.toNat 63 48 = b.job → field v.toNat 47 16 = b.step →
      let x := (s.reached fn).updFn fn (fun g => { g with updJob := BitVec.ofNat 16 b.job, updStep := BitVec.ofNat 32 b.step })
      (v.toNat % 4 = 1 → exec (.replay fn v) s = .next (x.updJob fn k (fun b => { b with voids := 0, st := if b.awaits.isEmpty then .running else .awaitSpare }))) ∧
      (v.toNat % 4 = 2 → ∃ t b', exec (.skip fn v) s = .next t ∧ t.job fn k = some b' ∧ b'.voids = 0 ∧ b'.step = b.step ∧
        ∀ n q, (s.fn fn).queues.get? n = some q → t.queue fn n = q.skip k b.step)) ∧
    (∀ (q : Queue) (i step : Nat), ∀ y ∈ (q.skip i step).entries, ∃ z ∈ q.entries, y.n = z.n ∧
      (z.jslot = some i → z.posted = false → z.step = step → y.posted = true))

/-- R385, R389, R390: the checkpoint registers. OP 1 registers a sound descriptor; RESUME and the RESTOREs act on a registered one and
report what they find; a slot whose body fails its CRC changes nothing. -/
def Sys2Proof.Claims.CheckpointRegisters : Prop :=
  ∀ (s : State) (fn : Nat) (v : DWord) (body : List CodeWord),
    let j := field v.toNat 7 4
    let w := (s.reached fn).updFn fn (fun g => { g with ckSlot := v.getLsbD 8, ckJslot := BitVec.ofNat 4 j })
    let status (t : State) (st : Status) : State := t.updFn fn (fun g => { g with ckStatus := st })
    s.Answers fn →
    (s.job fn j = none → (v.toNat % 8 = 1 → exec (.checkpointRegister fn v) s = .next (status w updCkptInvalid)) ∧
      (v.toNat % 8 = 2 → exec (.resume fn v) s = .next (status w updCkptInvalid)) ∧
      (v.toNat % 8 = 3 → exec (.restore fn v) s = .next (status w updCkptInvalid)) ∧
      (v.toNat % 8 = 4 → exec (.restoreFromBuddy fn v body) s = .next (status w updCkptInvalid))) ∧
    (∀ b, s.job fn j = some b →
      (∀ st t, v.toNat % 8 = 1 → w.ckRegister fn j = (st, t) → exec (.checkpointRegister fn v) s = .next (status t st) ∧
        (st ≠ statusOk → t = w) ∧ (st = statusOk → ∃ d, t.job fn j = some { b with ckdesc := some d } ∧ d.localA % 4096 = 0 ∧ d.slotsz % 4096 = 0 ∧
          s.inPart fn d.localA (max 1 (2 * d.slotsz)) = true ∧ d.jdepth ≠ 0)) ∧
      (∀ d, b.ckdesc = some d →
        (∀ step o selp, w.newestStep d = some (step, o, selp) →
          (step ≠ (b.step + 2 ^ 32 - 1) % 2 ^ 32 → v.toNat % 8 = 2 → exec (.resume fn v) s = .next (status w updCkptInvalid)) ∧
          (step = (b.step + 2 ^ 32 - 1) % 2 ^ 32 → v.toNat % 8 = 2 → ∃ t, exec (.resume fn v) s = .next t ∧ (t.fn fn).ckStatus = statusOk ∧
            (∀ e ∈ b.upd, s.memOk → e.view + 8 ≤ 2 ^ 45 → b.upd = [e] → e.emb = false → e.rule ≠ 3 → 0 < o → t.readNat e.view 8 = selp))) ∧
        (∀ raw, raw = w.readParts [{ kind := 4, addr := d.localA + (if v.getLsbD 8 then d.slotsz else 0), len := d.slotsz }] →
          v.toNat % 8 = 3 → ∃ st t, w.restoreFrom b d raw = (st, t) ∧ exec (.restore fn v) s = .next (status t st)) ∧
        (v.toNat % 8 = 4 → ∃ st t, w.restoreFrom b d (markedBytes body) = (st, t) ∧ exec (.restoreFromBuddy fn v body) s = .next (status t st)) ∧
        (∀ (slot : List (Byte × Bool)), let raw := slot.map (·.1)
          let data := raw.drop 4096
          (leAt raw 0 4 ≠ 0xAF07C4C7 ∨ leAt raw 12 4 % 2 = 0 ∨ (leAt raw 32 8 ≤ data.length ∧ leAt raw 40 4 ≠ (crc32c (data.take (leAt raw 32 8))).toNat)) →
            w.restoreFrom b d slot = (updCkptCorrupt, w))))

/-- R171, R180, R185, R343, R372, R403: RELEASE empties the hoard, CLEAR zeroes the function's counts, the signature ring starts where its
size and place are sound, a cap in its range acts from the next millisecond, and CTX_KILL destroys a context as CTXDESTROY does. -/
def Obligations.SmallRegisters : Prop :=
  ∀ (s : State) (fn : Nat) (x : Word) (v : DWord),
    let w := s.reached fn
    let n := (s.fn fn).ctxSel.toNat
    s.Answers fn →
    (x.getLsbD 1 = true → (s.hoard fn).mapEn = false → exec (.hoardRelease fn x) s = .next (w.updHoard fn (fun h => { h with
      deepen := x.getLsbD 0, entries := [], jobs := [] }))) ∧
    (x.getLsbD 8 = true → fn ≠ 0 → exec (.errCodeClear fn x) s = .next (w.updFn fn (fun g => { g with corr := 0, uncorr := 0, huskuse := 0 }))) ∧
    (x.getLsbD 8 = true → fn = 0 → exec (.errCodeClear fn x) s = .next ({ w with mem := { s.mem with scrubH := x.extractLsb' 0 8 } }.updFn fn
      (fun g => { g with corr := 0, uncorr := 0, huskuse := 0 }))) ∧
    (x.getLsbD 0 = true → (s.fn fn).sig.ctl.getLsbD 0 = false → field x.toNat 11 8 ≤ 10 →
      (x.getLsbD 12 = true → s.inPart fn (s.fn fn).sig.base.toNat (128 * 2 ^ (field x.toNat 11 8 + 6)) = true) →
      exec (.signatureRingEnable fn x) s = .next (w.updFn fn (fun f => { f with sig := { f.sig with ctl := (x &&& 0xDF00) ||| 1 } }))) ∧
    (x.getLsbD 0 = true → (s.fn fn).sig.ctl.getLsbD 0 = false → 10 < field x.toNat 11 8 →
      exec (.signatureRingEnable fn x) s = .next (w.updFn fn (fun f => { f with sig := { f.sig with ctl := x &&& 0xDF00 } }))) ∧
    (fn = 0 → let cap := field v.toNat 15 0
      let win := field v.toNat 47 32
      exec (.powerCapWrite fn v) s = .next (if 1000 ≤ cap ∧ cap ≤ 12000 ∧ 1000 ≤ win ∧ win ≤ 60000
        then { w with pwr := { s.pwr with capNext := some (cap, win) } } else w)) ∧
    (fn ≠ 0 → exec (.powerCapWrite fn v) s = .next w) ∧
    (∀ p, v.getLsbD 0 = true → (s.fn fn).killBusy = none → s.part fn = some p →
      let status (st : Status) : State := w.updFn fn (fun g => { g with killStatus := st })
      (n < p.ctxBase ∨ p.ctxBase + p.ctxCount ≤ n → exec (.ctxKill fn v) s = .next (status ctxForeign)) ∧
      (n = p.ctxBase → 0 < p.ctxCount → exec (.ctxKill fn v) s = .next (status hqCmdInvalid)) ∧
      (p.ctxBase < n → n < p.ctxBase + p.ctxCount → (s.ctx n).st = .free → exec (.ctxKill fn v) s = .next (status ctxNotDefined)) ∧
      (p.ctxBase < n → n < p.ctxBase + p.ctxCount → (s.ctx n).st = .defined ∨ (s.ctx n).st = .faulted → (s.ctx n).jobsl = none →
        ∃ t, exec (.ctxKill fn v) s = .next t ∧ (t.ctx n).st = .destroying ∧ (t.fn fn).killBusy = some n ∧ ∀ k, k ≠ n → t.ctx k = s.ctx k))

/-- R252 to R254, R277, R278, R280, R281: a window entry becomes valid only where it keeps the rules and overlaps no other; its
invalidation completes when its cached lines are gone. QCLR lifts a quarantine, RETRAIN retrains, and the injection registers
are the PF's and leave a journal entry. -/
def Obligations.WindowsAndPorts : Prop :=
  (∀ (s : State) (fn k : Nat) (v : DWord) (p : Part),
    let n := p.winBase + k
    let e := s.fab.windows.getD n Window.idle
    let w := s.reached fn
    s.Answers fn → s.part fn = some p → k < p.winCount → k < 131072 → e.closing = false →
    (v.getLsbD 0 = true → e.w0.getLsbD 0 = false →
      (w.winBad fn p n { e with w0 := v } = false → exec (.windowEntryEnable fn k v) s =
        .next ((w.updWindow n (fun x => { x with w0 := v })).updFn fn (fun g => { g with winStatus := statusOk, winIndex := k }))) ∧
      (w.winBad fn p n { e with w0 := v } = true → exec (.windowEntryEnable fn k v) s =
        .next (w.updFn fn (fun g => { g with winStatus := winEntryInvalid, winIndex := k })))) ∧
    (v.getLsbD 0 = true → e.w0.getLsbD 0 = true → exec (.windowEntryEnable fn k v) s = .next w) ∧
    (v.getLsbD 0 = false → e.w0.getLsbD 0 = true → ∃ t, exec (.windowEntryInvalidate fn k v) s = .next t ∧
      t.fab.windows.getD n Window.idle = { e with w0 := v, closing := true } ∧ (∀ a, (t.fab.windows.getD n Window.idle).covers a = false) ∧
      ∀ i, i ≠ n → t.fab.windows.getD i Window.idle = s.fab.windows.getD i Window.idle) ∧
    (2 ^ 30 < 2 ^ field v.toNat 9 5 ∨ 2 ^ field v.toNat 9 5 < 2 ^ 21 ∨ e.w1 ≠ 0 ∨ e.w3.toNat % 2 ^ field v.toNat 9 5 ≠ 0 →
      w.winBad fn p n { e with w0 := v } = true)) ∧
  (∀ (s : State) (fn k : Nat) (p : Part),
    let n := p.winBase + k
    fn < fnCount → s.part fn = some p → k < p.winCount → k < 131072 →
    ((s.fab.windows.getD n Window.idle).closing = true → ∃ t, exec (.windowInvalidateDone fn k) s = .next t ∧
      t.fab.windows.getD n Window.idle = { s.fab.windows.getD n Window.idle with closing := false } ∧
      (∀ l ∈ t.mem.dlines, ¬(l.2.part = fn ∧ ∃ r, l.2.remote = some r ∧ r.1 = k)) ∧ t.mem.mem = s.mem.mem) ∧
    ((s.fab.windows.getD n Window.idle).closing = false → exec (.windowInvalidateDone fn k) s = .next s)) ∧
  (∀ (s : State) (port : Nat) (v : DWord),
    let x := s.port port
    let w := s.reached 0
    s.Answers 0 → port < 64 → v.getLsbD 4 = true → x.enable = true → x.st ≠ .disabled → x.link ≠ .disabled →
    (v.getLsbD 7 = true → v.getLsbD 6 = false → x.st = .quarantined → ∃ t, exec (.quarantineClear 0 port v) s = .next t ∧
      t.port port = { x with rateNext := v.getLsbD 5, vcnt := 0, st := x.linkUp }) ∧
    (v.getLsbD 7 = false → v.getLsbD 6 = true → x.st = .up ∨ x.st = .degraded → ∃ t, exec (.retrain 0 port v) s = .next t ∧
      t.port port = { x with rateNext := v.getLsbD 5, st := .retraining }) ∧
    (∀ fn, fn ≠ 0 → s.Answers fn → (v.getLsbD 7 = true → exec (.quarantineClear fn port v) s = .next (s.reached fn)) ∧
      (v.getLsbD 6 = true → exec (.retrain fn port v) s = .next (s.reached fn))) ∧
    exec (.injPctlWrite 0 port v) s = .next ((w.updPort port (fun p => { p with
      injRate := v.extractLsb' 32 32, injCmask := v.extractLsb' 16 4, injSym := v.extractLsb' 8 2
      injMode := if (v.extractLsb' 0 4).toNat ≤ 4 then v.extractLsb' 0 4 else 0, injState := if p.injSeed = 0 then 1 else p.injSeed
      injCount := 0 })).journal 0 0 7 port (BitVec.ofNat 128 v.toNat)) ∧
    exec (.injPseedWrite 0 port v) s = .next ((w.updPort port (fun p => { p with injSeed := v })).journal 0 0 7 (port + 256)
      (BitVec.ofNat 128 v.toNat)))

/-- R348, R357 to R360, R365: a load reads the image from host memory and checks it in order. A poisoned or failing image changes
nothing but the loader's registers and one journal entry; an accepted one waits for its apply. A busy loader ignores a load,
and so do the registers of a VF. -/
def Sys2Proof.Claims.TrussLoads : Prop :=
  (∀ (s : State) (fn : Nat) (v : DWord) (full : Bool),
    let slot := field v.toNat 7 2
    let w := s.reached fn
    let u : State := { w with truss := { s.truss with pslot := BitVec.ofNat 6 slot } }
    let cmd := if full then Instr.fullLoad fn v else Instr.partitionLoad fn v
    let to' := if full then none else some slot
    let bs := s.hostRead s.truss.src.toNat s.truss.len
    s.Answers fn → v.toNat % 4 = (if full then 1 else 2) →
    (fn ≠ 0 ∨ s.truss.busy = true → exec cmd s = .next w) ∧
    (fn = 0 → s.truss.busy = false →
      (∀ o, s.firstPoison s.truss.src.toNat s.truss.len = some o → exec cmd s = .next (u.loadRefused (poisonItem bs o) 0)) ∧
      (s.firstPoison s.truss.src.toNat s.truss.len = none →
        (∀ r, u.imgCheck bs to' = .error r → exec cmd s = .next (u.loadRefused r (digest16 bs))) ∧
        (∀ es img, u.imgCheck bs to' = .ok (es, img) → u.shortCheck es = none → u.spareCheck es img = none → u.quiesceCheck es to' = none →
          exec cmd s = .next { u with truss := { u.truss with busy := true, pending := some img } }) ∧
        (∀ es img r, u.imgCheck bs to' = .ok (es, img) → u.shortCheck es = none → u.spareCheck es img = none → u.quiesceCheck es to' = some r →
          r.status = trsNotQuiesced ∧ exec cmd s = .next (u.loadRefused r (digest16 bs)))))) ∧
  (∀ (s : State) (r : Refused) (d : BitVec 128),
    let t := s.loadRefused r d
    t.truss.status = r.status ∧ t.truss.busy = false ∧ t.truss.pending = none ∧ t.truss.parts = s.truss.parts ∧
    t.truss.jcount = s.truss.jcount + 1 ∧ t.mem = s.mem ∧ t.grid = s.grid ∧ t.fns = s.fns ∧ t.tab = s.tab ∧ t.fab = s.fab) ∧
  (∀ (s : State) (bs : List Byte) (slot : Option Nat) (es : List DirE) (img : TrussImg), s.imgCheck bs slot = .ok (es, img) →
    leAt bs 0 4 = 0xAF077255 ∧ leAt bs 52 4 = bs.length ∧ leAt bs 4 4 = (crc32c ((bs.drop 8).take (56 + 16 * leAt bs 50 2))).toNat ∧
    (∀ e ∈ es, e.crc = (crc32c e.body).toNat) ∧ img.full = slot.isNone ∧ img.digest = digest16 bs ∧
    (partsApart s.truss.parts → partsApart img.parts))

/-- R360 to R363: the apply begins by silencing the functions that it affects, after a last check; it ends with the partitions of the
image in force, the loader free with status 0, and a journal entry. -/
def Sys2Proof.Claims.TrussApplies : Prop :=
  ∀ (s : State) (img : TrussImg),
    (s.truss.pending = none → exec .trussApply s = .next s) ∧
    (s.truss.pending = some img → s.truss.applying = false → s.spareConflict img.spares = none →
      s.quiesceCheck [] (if img.full then none else some img.slot) = none →
      ∃ t, exec .trussApply s = .next t ∧ t.truss = { s.truss with applying := true } ∧ t.mem = s.mem ∧ t.grid = s.grid ∧
        (∀ n ∈ affected (if img.full then none else some img.slot), (t.fn n).ready = false) ∧
        ∀ n, n ∉ affected (if img.full then none else some img.slot) → t.fn n = s.fn n) ∧
    (s.truss.pending = some img → s.truss.applying = true → ∃ t, exec .trussApply s = .next t ∧ t.truss.parts = img.parts ∧
      t.truss.pending = none ∧ t.truss.busy = false ∧ t.truss.applying = false ∧ t.truss.status = statusOk ∧
      t.truss.ownCourse = ownersOf img.parts Part.courses ∧ t.truss.ownUnit = ownersOf img.parts Part.units ∧
      s.truss.jcount < t.truss.jcount)

/-- R323 to R325, R431: a shut-down stops the function at once: it is not ready, its queues hold nothing, its jobs leave; when it is over
its contexts, spars and objects are gone and READY = ENABLED. One that takes longer than 4 ms wedges the function. An erase
clears the memory, courses and key of a quiesced partition. -/
def Obligations.ShutDowns : Prop :=
  (∀ (s : State) (n : Nat), n < fnCount → (s.fn n).wedged = false → (s.fn n).tearing = false → (s.fn n).jobs = [] → n ≠ 0 →
    let t := s.beginShutdown n
    (s.Answers 0 → exec (.shutdown 0 n) s = .next ((s.reached 0).beginShutdown n)) ∧
    (s.vfEnable = true → exec (.flr n) s = .next t) ∧
    (t.fn n).tearing = true ∧ (t.fn n).ready = false ∧ (t.fn n).enlatch = false ∧ (∀ q, (t.queue n q).entries = [] ∧ (t.queue n q).posts = []) ∧
    t.truss.parts = s.truss.parts ∧ ∀ k, k ≠ n → (t.fn k).ready = (s.fn k).ready) ∧
  (∀ (s : State) (fn n : Nat), s.Answers fn → fn ≠ 0 → n < fnCount → exec (.shutdown fn n) s = .next (s.reached fn) ∧
    exec (.erase fn n) s = .next (s.reached fn)) ∧
  (∀ s : State, exec (.flr 0) s = .next (s.clearVfs.beginShutdown 0) ∧ exec .vfEnableClear s = .next s.clearVfs ∧
    (s.vfEnable = false → s.clearVfs = s) ∧
    (s.vfEnable = true → s.clearVfs.vfEnable = false ∧ ∀ n, 0 < n → n < fnCount → (s.clearVfs.fn n).enabled = false ∧
      ((s.fn n).wedged = false → (s.clearVfs.fn n).tearing = true))) ∧
  (∀ (s : State) (n us : Nat), n < fnCount → (s.fn n).tearing = true → (s.fn n).wedged = false →
    (us ≤ 4000 → s.truss.applying = false → ∃ t, exec (.shutdownComplete n us) s = .next t ∧ (t.fn n).tearing = false ∧
      (t.fn n).tearus = us ∧ (t.fn n).jobs = [] ∧ (t.fn n).queues = [] ∧ (∀ p, (t.spar p).used = true → (t.spar p).part = n → False) ∧
      (t.fn n).ready = ((s.fn n).enabled && !(s.fn n).erasing && !(s.fn n).memShort && s.boot.stage == 7)) ∧
    (4000 < us → exec (.shutdownComplete n us) s = .next s ∧
      ∃ t, exec (.functionWedged n us) s = .next t ∧ (t.fn n).wedged = true ∧ (t.fn n).ready = false ∧ t.board.recSeq = s.board.recSeq + 1)) ∧
  (∀ (s : State) (n : Nat), n < fnCount → s.truss.applying = false → (s.fn n).tearing = false → (s.fn n).ready = false →
    ∃ t, exec (.functionEnable n) s = .next t ∧ (t.fn n).enabled = true ∧ (0 < n → t.vfEnable = true) ∧
      (t.fn n).ready = (!(s.fn n).erasing && !(s.fn n).wedged && !(s.fn n).memShort && s.boot.stage == 7)) ∧
  (∀ (s : State) (n : Nat), n < fnCount → (s.fn n).tearing = true → (s.fn n).wedged = false → ∃ t, exec (.functionEnable n) s = .next t ∧
    (t.fn n).enabled = true ∧ (t.fn n).enlatch = true ∧ (t.fn n).ready = (s.fn n).ready) ∧
  (∀ (s : State) (n : Nat), n < fnCount → s.Answers 0 → (s.fn n).tearing = false → (s.fn n).erasing = false → (s.fn n).wedged = false →
    (s.quiesced n = true → ∃ t, exec (.erase 0 n) s = .next t ∧ (t.fn n).erasing = true ∧ (t.fn n).ready = false ∧ t.mem = s.mem) ∧
    (s.quiesced n = false → exec (.erase 0 n) s = .next (s.reached 0))) ∧
  (∀ (s : State) (n : Nat) (p : Part), n < fnCount → s.part n = some p → (s.fn n).erasing = true → (s.fn n).enabled = false →
    ∃ t, exec (.eraseComplete n) s = .next t ∧ (t.fn n).erasing = false ∧ (t.fn n).corr = 0 ∧
      t.boot.epochAdv.getD n 0 = s.boot.epochAdv.getD n 0 + 1 ∧ (∀ l ∈ t.mem.dlines, l.2.part ≠ n) ∧
      (∀ c ∈ t.mem.mem.cells, isDdr c.1 = true ∨ unitOf c.1 ∉ p.units) ∧ ∀ k, courseOfCore k ∈ p.courses → t.grid.cores.get? k = none)

/-- R326, R363, R374, R389, R415: a full reset by the key, a conventional reset or a CXL Reset: the boot begins again with the cause,
nothing of contexts, spars, jobs and partitions is left, and memory, local stores, course retirements, the journal and the
collector's count stay. -/
def Sys2Proof.Claims.FullResets : Prop :=
  (∀ s : State, exec .conventionalReset s = .next (s.fullReset 1) ∧ exec .cxlReset s = .next (s.fullReset 2)) ∧
  (∀ (s : State) (fn : Nat) (v : DWord), s.Answers fn →
    exec (.fullreset fn v) s = .next (if fn = 0 ∧ v.getLsbD 0 = true ∧ v.extractLsb' 8 8 = 0xA5#8 then (s.reached fn).fullReset 3 else s.reached fn)) ∧
  (∀ (s : State) (cause : Nat), s.truss.pending = none →
    let t := s.fullReset cause
    t.tab.ctxs = [] ∧ t.tab.spars = [] ∧ t.truss.parts = [] ∧ t.boot.rstCause = cause ∧
    t.boot.stage = (if s.pwr.mainStable = true ∧ s.pwr.testmode = false then 1 else 0) ∧ t.truss.journal = s.truss.journal ∧
    t.truss.jcount = s.truss.jcount ∧ t.board.aoCount = s.board.aoCount ∧ t.boot.svnAon = s.boot.svnAon ∧
    (∀ n, (t.fn n).ready = false ∧ (t.fn n).jobs = [] ∧ (t.fn n).queues = []) ∧ t.pending = s.pending ∧
    (∀ c, (t.course c).retired = (s.course c).retired ∧ (t.course c).fence = (s.course c).fence) ∧
    (∀ k, (t.core k).slots = [] ∧ (t.core k).ls = (s.core k).ls))

/-- R304, R305: a CXL read answers each line: poison where there is no memory or a husk, zero where nobody owns it; a CXL write changes
exactly its bytes of owned memory, and poison leaves husks. -/
def Sys2Proof.Claims.CxlMemory : Prop :=
  (∀ (s : State) (n : Nat), let a := 64 * n
    (s.populated a = false → s.cxlLine n = (true, [])) ∧
    (s.populated a = true → s.ownerOfAddr a = none → s.cxlLine n = (false, List.replicate 64 0)) ∧
    (s.populated a = true → (s.ownerOfAddr a).isSome → s.cxlLine n = (!(s.husksIn a 64).isEmpty, s.readBytes a 64)) ∧
    ∃ t, exec (.cxlMemRead a 64) s = .next t ∧ t.mem.cxlAns = [(n, s.cxlLine n)] ∧ t.grid = s.grid ∧ ∀ x, t.byteAt x = s.byteAt x) ∧
  (∀ (s : State) (a : Nat) (bs : List Byte) (poison : Bool), s.memOk → bs ≠ [] → a % 64 + bs.length ≤ 64 → a < 2 ^ 45 →
    (s.cxlWritable a = true → ∃ t, exec (.cxlMemWrite a bs poison) s = .next t ∧ s.Wrote t a bs ∧ t.grid = s.grid ∧ t.tab = s.tab ∧
      (poison = true → ∀ w ∈ wordsOf a bs.length, t.huskAt w = true)) ∧
    (s.cxlWritable a = false → exec (.cxlMemWrite a bs poison) s = .next s))

/-- R5 to R7: a 64-bit register takes one whole write, or a low half held back and completed by its high half; a held low half alone is
applied when its time is over or another access comes. A read of a low half latches the high half. -/
def Sys2Proof.Claims.SplitAccesses : Prop :=
  ∀ (s : State) (rid : BitVec 16) (ide : Bool) (fn off : Nat) (v : DWord),
    s.Answers fn → off % 8 = 0 → off < barSize → narrow off = false → s.denied rid ide fn off = false → s.denied rid ide fn (off + 4) = false →
    narrow (off + 4) = false →
    (exec (.registerWrite rid ide fn off true v) s = .next ((s.reached fn).write64 fn off v)) ∧
    (exec (.registerWrite rid ide fn off false v) s = .next ((s.reached fn).updFn fn (fun g => { g with heldLow := some (off, v.extractLsb' 0 32) }))) ∧
    (∀ lo : Word, let h := s.updFn fn (fun g => { g with heldLow := some (off, lo) })
      exec (.registerWrite rid ide fn (off + 4) false v) h = .next ((h.reached fn).write64 fn off
        (BitVec.ofNat 64 ((v.extractLsb' 0 32).toNat * 2 ^ 32 + lo.toNat))) ∧
      exec (.splitWriteTimeout fn) h = .next ((h.reached fn).write64 fn off
        (BitVec.ofNat 64 (h.keep64 fn off / 2 ^ 32 * 2 ^ 32 + lo.toNat)))) ∧
    (exec (.splitReadLow rid ide fn off) s = .next ((s.reached fn).updFn fn (fun g => { g with
      latched := some (off, BitVec.ofNat 32 ((s.reached fn).read64 fn off / 2 ^ 32)) }))) ∧
    (exec (.splitWriteTimeout fn) s = .next (s.reached fn))

/-- R415, R416, R418 to R424: firmware and then a boot image come through the boot mailbox or in DOE chunks of one contiguous object. The
ROM starts firmware only where both signatures, the keys, the body and the SVN floor agree, and then raises both copies of the
floor; anything else is counted, recorded and waited for again. -/
def Obligations.BootDeliveries : Prop :=
  (∀ (s : State) (v : Word), v.getLsbD 1 = true →
    let kind := s.bootWord 0 % 256
    let a := s.bootWord 2 + s.bootWord 3 * 2 ^ 32
    let len := s.bootWord 4 + s.bootWord 5 * 2 ^ 32
    (s.boot.busMaster = false ∨ s.boot.stage = 0 ∨ s.boot.halted = true →
      exec (.bootMailboxSend v) s = .next { s with boot := { s.boot with go := true } }) ∧
    (s.boot.busMaster = true → s.boot.stage ≠ 0 → s.boot.halted = false →
      ((s.due kind = false ∨ (if kind = 1 then s.boot.fwChan else s.boot.imgChan) = some true) → exec (.bootMailboxSend v) s =
        .next { s with boot := { s.boot with go := false, status := hqCmdInvalid } }) ∧
      (s.due kind = true → (if kind = 1 then s.boot.fwChan else s.boot.imgChan) ≠ some true → len ≤ 0x400000 → s.firstPoison a len = none →
        ∃ t, exec (.bootMailboxSend v) s = .next t ∧ t.boot.image = s.hostRead a len ∧ t.boot.stage = s.boot.stage + 1 ∧
          t.boot.go = false ∧ t.boot.status = statusOk ∧ t.mem = s.mem))) ∧
  (∀ (s : State) (v : Word), v.getLsbD 1 = false → exec (.bootMailboxSend v) s = .next s) ∧
  (∀ (s : State) (kind : Byte) (last : Bool) (off total : Word) (data : List Byte),
    let fits := off.toNat = s.boot.doeBuf.length ∧ data.length ≤ 0x40000 ∧ off.toNat + data.length ≤ total.toNat ∧
      (∀ t, s.boot.doeTotal.get? kind.toNat = some t → t = total.toNat)
    s.boot.halted = false →
    (s.due kind.toNat = true → fits → last = false → ∃ t, exec (.doeBootChunk kind last off total data) s = .next t ∧
      t.boot.doeBuf = s.boot.doeBuf ++ data ∧ t.boot.stage = s.boot.stage ∧ t.boot.doeStatus = s.boot.doeStatus ++ [statusOk]) ∧
    (s.due kind.toNat = true → fits → last = true → off.toNat + data.length = total.toNat →
      ∃ t, exec (.doeBootChunk kind last off total data) s = .next t ∧ t.boot.image = s.boot.doeBuf ++ data ∧
        t.boot.stage = s.boot.stage + 1 ∧ t.boot.doeStatus = s.boot.doeStatus ++ [statusOk]) ∧
    (s.due kind.toNat = false ∨ ¬fits → ∃ t, exec (.doeBootChunk kind last off total data) s = .next t ∧ t.boot.stage = s.boot.stage ∧
      t.boot.image = s.boot.image ∧ t.boot.status = hqCmdInvalid ∧ t.boot.doeStatus = s.boot.doeStatus ++ [hqCmdInvalid])) ∧
  (∀ s : State, let img := s.boot.image
    let svn := BitVec.ofNat 32 (leAt img 16 4)
    s.boot.stage = 2 → s.boot.halted = false → s.boot.go = false →
    (fwOk img s.svnFloor = true → ∃ t, exec .firmwareVerify s = .next t ∧ t.boot.stage = 3 ∧ t.boot.status = statusOk ∧
      t.boot.fw = some { fwver := BitVec.ofNat 64 (leAt img 8 8), svn := svn, digest := sha384 (img.take 128) } ∧
      (t.boot.svnAon = if s.svnFloor.toNat < svn.toNat then svn else s.boot.svnAon) ∧
      (t.boot.svnFlash = if s.svnFloor.toNat < svn.toNat then svn else s.boot.svnFlash) ∧ t.boot.attempts = s.boot.attempts) ∧
    (fwOk img s.svnFloor = false → ∃ t, exec .firmwareVerify s = .next t ∧ t.boot.stage = 1 ∧ t.boot.status = bootFwRejected ∧
      t.boot.fw = s.boot.fw ∧ t.boot.svnAon = s.boot.svnAon ∧ t.boot.attempts = sat 8 (s.boot.attempts + 1) ∧ t.board.recSeq = s.board.recSeq + 1)) ∧
  (∀ (img : List Byte) (floor : Word), fwOk img floor = true → floor.toNat ≤ leAt img 16 4 ∧ leAt img 0 4 = 0xAF07F1A0 ∧
    img.length = 0x4400 + leAt img 24 8 ∧ Config.rsaPssVerify ((img.drop 0x80).take 384) ((img.drop 0x200).take 4) ((img.drop 0x240).take 384) (img.take 128) = true ∧
    Config.slhVerify ((img.drop 0x204).take 48) ((img.drop 0x3C0).take 16224) (img.take 128) = true ∧
    sha384 ((img.drop 0x4400).take (leAt img 24 8)) = (img.drop 32).take 48)

/-- R161, R358, R361, R362, R415 to R417, R425: a sound boot image is applied and memory training follows; after it the ports train, and
with the fabric up every enabled function whose memory is there becomes ready. The identity keys become ready, or the identity fails. -/
def Obligations.BootProgress : Prop :=
  (∀ s : State, s.boot.halted = false →
    (s.boot.stage ≠ 4 → exec .bootImageApply s = .next s) ∧
    (∀ r, s.boot.stage = 4 → s.boot.go = false → s.imgCheck s.boot.image none = .error r → ∃ t, exec .bootImageApply s = .next t ∧ t.boot.stage = 3 ∧
      t.boot.status = r.status ∧ t.truss.parts = s.truss.parts ∧ t.truss.status = r.status ∧ t.truss.jcount = s.truss.jcount + 1) ∧
    (∀ es img, s.boot.stage = 4 → s.imgCheck s.boot.image none = .ok (es, img) → s.spareCheck es img = none →
      ∃ t, exec .bootImageApply s = .next t ∧ t.boot.stage = 5 ∧ t.boot.status = statusOk ∧ t.truss.parts = img.parts ∧
        t.fab.devid = img.devid ∧ t.boot.bootImageDigest = sha384 s.boot.image ∧ s.truss.jcount < t.truss.jcount) ∧
    (∀ bad chans, s.boot.stage ≠ 5 → exec (.memoryTrainingComplete bad chans) s = .next s) ∧
    (∀ bad chans, s.boot.stage = 5 → ∃ t, exec (.memoryTrainingComplete bad chans) s = .next t ∧ t.boot.stage = 6 ∧
      t.pwr.ddrSelfRefresh = false ∧ (∀ u, u ∈ t.mem.badUnits ↔ u ∈ bad) ∧ t.mem.mem = s.mem.mem ∧
      ∀ p, p < 64 → (s.port p).enable = true → (s.port p).st = .down → (t.port p).st = .training) ∧
    (s.boot.stage ≠ 6 → exec .fabricBringupComplete s = .next s) ∧
    (s.boot.stage = 6 → s.truss.applying = false → ∃ t, exec .fabricBringupComplete s = .next t ∧ t.boot.stage = 7 ∧ ∀ n, n < fnCount →
      (t.fn n).ready = ((s.fn n).enabled && !(s.fn n).tearing && !(s.fn n).erasing && !(s.fn n).wedged && !(s.fn n).memShort))) ∧
  (∀ s : State, s.pwr.testmode = false → s.boot.keysReady = false → s.boot.idfail = false →
    exec (.identityKeysReady true) s = .next { s with boot := { s.boot with keysReady := true, seed := 0 } } ∧
    ∃ t, exec (.identityKeysReady false) s = .next t ∧ t.boot.idfail = true ∧ t.boot.keysReady = false ∧ t.boot.seed ≠ 0 ∧
      t.boot.seed = s.boot.draws + 1)

/-- R425 to R429: the SPDM responder. Without the identity keys every request is answered ResponseNotReady, with IDFAIL every request
after GET_VERSION Unspecified; out of order, UnexpectedRequest. Otherwise the negotiation goes on step by step; certificates,
measurements and signatures are those of this device; and a session is opened, kept alive and ended. Nothing but the
responder's own state changes. -/
def Obligations.Attestation : Prop :=
  let rows : List ((SpdmReq → Instr) × Nat) := [(.getCapabilities, 1), (.negotiateAlgorithms, 2), (.getDigests, 3), (.getCertificate, 3), (.challenge, 3),
    (.getMeasurements, 3), (.vendorDefinedRequest, 3), (.keyExchange, 3), (.finish, 3), (.heartbeat, 3), (.endSession, 3), (.ideKmMessage, 3)]
  (∀ (s : State) (r : SpdmReq), ∀ c ∈ (Instr.getVersion, 0) :: rows, ∃ t, exec (c.1 r) s = .next t ∧ t = { s with spdm := t.spdm } ∧
    (s.pwr.aonUp = true → t.spdm.responses.length = s.spdm.responses.length + 1) ∧ (s.pwr.aonUp = false → t = s)) ∧
  (∀ (s : State) (r : SpdmReq), s.pwr.aonUp = true → ∀ c ∈ rows,
    (s.boot.keysReady = false → s.boot.idfail = false → exec (c.1 r) s = .next (s.spdmError 0x42)) ∧
    (s.boot.idfail = true → exec (c.1 r) s = .next (s.spdmError 0x05)) ∧
    (s.boot.keysReady = true → s.boot.idfail = false → s.spdm.phase < c.2 → exec (c.1 r) s = .next (s.spdmError 0x04))) ∧
  (∀ (s : State) (r : SpdmReq), s.pwr.aonUp = true → s.boot.keysReady = true →
    (∃ t, exec (.getVersion r) s = .next t ∧ t.spdm.phase = 1 ∧ t.spdm.session = false ∧ t.spdm.handshake = false ∧ t.spdm.lastSigned = none) ∧
    (s.boot.idfail = false →
      (s.spdm.phase = 1 → ∃ t, exec (.getCapabilities r) s = .next t ∧ t.spdm.phase = 2) ∧
      (s.spdm.phase = 2 → s.spdmAccepts 0xE3 r = true → ∃ t, exec (.negotiateAlgorithms r) s = .next t ∧ t.spdm.phase = 3) ∧
      (s.spdm.phase = 3 →
        exec (.getDigests r) s = .next (s.spdmSay 0x81 r 0 3 (sha384 (Config.certChain 0 s.fwDigest) ++ sha384 (Config.certChain 1 s.fwDigest))) ∧
        (∀ chain off part, chain = Config.certChain (r.param1.toNat % 16) s.fwDigest → off = leAt r.body 0 2 → part = (chain.drop off).take (leAt r.body 2 2) →
          r.param1.toNat % 16 ≤ 1 → off < chain.length → exec (.getCertificate r) s = .next (s.spdmSay 0x82 r (BitVec.ofNat 8 (r.param1.toNat % 16)) 0
            (leBytes 2 part.length ++ leBytes 2 (chain.length - off - part.length) ++ part))) ∧
        (r.param1.toNat % 16 ≤ 1 → exec (.challenge r) s = .next (s.spdmSigned 0x83 r (r.param1 &&& 0x0F) 3 (s.spdmBody 0x83 r))) ∧
        (r.param2 = 0xFF → r.param1.getLsbD 0 = true → let all := [1, 2, 3, 4, 5].flatMap s.measBlock
          exec (.getMeasurements r) s = .next (s.spdmSigned 0xE0 r 0 0 (leBytes 1 5 ++ leBytes 3 all.length ++ all ++ s.spdmBody 0xE0 r))) ∧
        (∀ h, s.spdm.lastSigned = some h → leAt r.body 0 2 = 3 → leAt r.body 2 1 = 2 → leAt r.body 3 2 = Config.pciVendor.toNat → leAt r.body 7 1 = 1 →
          exec (.vendorDefinedRequest r) s = .next (s.spdmSend 0x7E 0 0 (r.body.take 5 ++ leBytes 2 (Config.aliasSign true s.fwDigest h).length ++
            Config.aliasSign true s.fwDigest h))) ∧
        (s.spdm.session = false → s.spdm.handshake = false → ∃ t, exec (.keyExchange r) s = .next t ∧ t.spdm.handshake = true ∧ t.spdm.session = false) ∧
        (s.spdm.session = true → exec (.keyExchange r) s = .next (s.spdmError 0x0A)) ∧
        (s.spdm.handshake = true → s.spdmAccepts 0xE5 r = true → ∃ t, exec (.finish r) s = .next t ∧ t.spdm.session = true ∧ t.spdm.handshake = false) ∧
        (s.spdm.session = true →
          (∃ t, exec (.heartbeat r) s = .next t ∧ t.spdm.session = true ∧ t.spdm.responses = s.spdm.responses ++ [(0x68, 0, 0, [])]) ∧
          (∃ t, exec (.endSession r) s = .next t ∧ t.spdm.session = false ∧ t.spdm.responses = s.spdm.responses ++ [(0x6C, 0, 0, [])]) ∧
          (∃ t, exec (.ideKmMessage r) s = .next t ∧ t.spdm.session = true)) ∧
        (s.spdm.session = false → exec (.heartbeat r) s = .next (s.spdmError 0x04))))) ∧
  (∀ s : State, s.measurement 1 = Config.romDigest ∧ s.measurement 2 = (s.boot.fw.map (·.digest)).getD [] ∧ s.measurement 4 = s.boot.bootImageDigest)

/-- R374, R376, R403, R412, R442: the endpoint on the board bus answers once it has an address: sensors, the cap and window, the records
that wait, one at a time and until each is acknowledged. Without an address it takes part in nothing but ENTDAA. -/
def Sys2Proof.Claims.BoardEndpoint : Prop :=
  (∀ (s : State) (record ack id value : Nat) (eid cmd : Byte) (body : List Byte), s.board.address = none ∨ s.pwr.aonUp = false →
    ∀ c ∈ [Instr.getPdrRepositoryInfo, .getPdr record, .getSensorReading id, .getNumericEffecterValue id, .setNumericEffecterValue id value,
      .setEventReceiver eid, .pollForPlatformEventMessage ack, .pldmBaseRequest cmd body], exec c s = .next s) ∧
  (∀ (s : State) (a : BitVec 7), (s.board.address.isSome → exec (.entdaa a) s = .next s) ∧
    (s.board.address = none → s.pwr.aonUp = true → ∃ t, exec (.entdaa a) s = .next t ∧ t.board.address = some a ∧
      (s.board.receiver = none → t.board.bmcQueue = s.board.bmcQueue))) ∧
  (∀ s : State, s.board.address.isSome → s.pwr.aonUp = true →
    let say (cmd : Nat) (bs : List Byte) : State := { s with board := { s.board with sent := s.board.sent ++ [(cmd, bs)] } }
    exec .getPdrRepositoryInfo s = .next (say 0x50 (leBytes 1 0 ++ leBytes 4 56)) ∧
    (∀ record, (record < 56 → ∃ bs, exec (.getPdr record) s = .next (say 0x51 (leBytes 1 0 ++ bs))) ∧
      (56 ≤ record → exec (.getPdr record) s = .next (say 0x51 [0x82]))) ∧
    (exec (.getSensorReading 1) s = .next (say 0x11 (leBytes 1 0 ++ leBytes 4 (codeOf 32 s.pwr.p1ms))) ∧
      exec (.getSensorReading 2) s = .next (say 0x11 (leBytes 1 0 ++ leBytes 4 (codeOf 32 s.pwr.pwin))) ∧
      exec (.getSensorReading 3) s = .next (say 0x11 (leBytes 1 0 ++ leBytes 4 (codeOf 32 s.pwr.vinMV))) ∧
      exec (.getSensorReading 0x101) s = .next (say 0x11 [0x80]) ∧
      ∀ d < 16, exec (.getSensorReading (0x10 + d)) s = .next (say 0x11 (leBytes 1 0 ++ leBytes 4 (codeOf 32 (s.dieTemp d / 16))))) ∧
    (exec (.getNumericEffecterValue 0x101) s = .next (say 0x32 (leBytes 1 0 ++ leBytes 4 s.capReg.1)) ∧
      exec (.getNumericEffecterValue 0x102) s = .next (say 0x32 (leBytes 1 0 ++ leBytes 4 s.capReg.2)) ∧
      ∀ id, id ≠ 0x101 → id ≠ 0x102 → exec (.getNumericEffecterValue id) s = .next (say 0x32 [0x80])) ∧
    (∀ value, (1000 ≤ value → value ≤ 12000 → 1000 ≤ s.capReg.2 → s.capReg.2 ≤ 60000 → ∃ t, exec (.setNumericEffecterValue 0x101 value) s = .next t ∧
        t.pwr = { s.pwr with capNext := some (value, s.capReg.2) } ∧ t.board.sent = s.board.sent ++ [(0x31, [0x00])]) ∧
      (value < 1000 ∨ 12000 < value → exec (.setNumericEffecterValue 0x101 value) s = .next (say 0x31 [0x02]))) ∧
    (∀ eid, ∃ t, exec (.setEventReceiver eid) s = .next t ∧ t.board.receiver = some eid ∧ t.mem = s.mem) ∧
    (∀ ack, s.board.bmcQueue = [] → ∃ t, exec (.pollForPlatformEventMessage ack) s = .next t ∧
      t.board.sent = s.board.sent ++ [(0x0B, leBytes 1 0 ++ leBytes 2 0)] ∧ t.board.bmcQueue = []) ∧
    (∀ ack r rs, s.board.bmcQueue = r :: rs →
      (r.eventId = ack → ∃ t, exec (.pollForPlatformEventMessage ack) s = .next t ∧ t.board.bmcQueue = rs) ∧
      (r.eventId ≠ ack → ∃ t, exec (.pollForPlatformEventMessage ack) s = .next t ∧ t.board.bmcQueue = r :: rs ∧
        t.board.sent = s.board.sent ++ [(0x0B, leBytes 1 0 ++ leBytes 2 r.eventId ++ 0xFA#8 :: s.eventData r)])) ∧
    (∀ body, s.board.receiver = none → exec (.pldmBaseRequest 4 body) s = .next (say 4 (0x00#8 :: leBytes 8 5))))

/-- R443, R444: the test port. Its reset selects IDCODE; each instruction enters the register, and EXTEST, CLAMP and HIGHZ act as BYPASS
unless TESTMODE = 1. Without the always-on supply nothing happens. -/
def Sys2Proof.Claims.TestPort : Prop :=
  (∀ s : State, s.pwr.aonUp = true →
    (∀ c ∈ [(Instr.tapReset, 1), (.bypass, 0), (.idcode, 1), (.samplePreload, 2), (.instrNet, 6)],
      exec c.1 s = .next { s with board := { s.board with tap := c.2 } }) ∧
    (∀ c ∈ [(Instr.extest, 3), (.clamp, 4), (.highz, 5)],
      exec c.1 s = .next { s with board := { s.board with tap := if s.pwr.testmode = true then c.2 else 0 } })) ∧
  (∀ s : State, s.pwr.aonUp = false →
    ∀ c ∈ [Instr.tapReset, .bypass, .idcode, .samplePreload, .extest, .clamp, .highz, .instrNet], exec c s = .next s) ∧
  tapIdcode = 0x1AF075AB

/-- R397 to R400: an idle course stops its clock, and after OFFDLY ms in STANDBY its rails; a woken one runs again. The pacing timer adds
credit and lets the head of the queue fire while its credit lasts. -/
def Obligations.CourseStates : Prop :=
  (∀ (s : State) (c : Nat), c < 1024 →
    let x := s.course c
    (x.power = .run → s.courseIdle c = true → exec (.courseStandby c) s = .next (s.updCourse c (fun x => { x with power := .standby }))) ∧
    (x.power ≠ .run ∨ s.courseIdle c = false → exec (.courseStandby c) s = .next s) ∧
    (x.power = .standby → x.waking = false → s.pwr.offdly ≠ 0 → (∀ g ∈ s.grid.gangs, courseOfCore g.1 = c → g.2.ctx = none) →
      ∃ t, exec (.courseOff c) s = .next t ∧ (t.course c).power = .off ∧ (∀ k, courseOfCore k = c → (t.core k).lines = []) ∧
        (∀ k, (t.core k).ls = (s.core k).ls) ∧ t.mem = s.mem ∧ ∀ d, d ≠ c → t.course d = s.course d) ∧
    (x.power ≠ .standby ∨ x.waking = true ∨ s.pwr.offdly = 0 ∨ (∃ g ∈ s.grid.gangs, courseOfCore g.1 = c ∧ g.2.ctx.isSome) →
      exec (.courseOff c) s = .next s) ∧
    (x.waking = true → x.power = .standby ∨ x.power = .off → exec (.courseWakeComplete c) s = .next (s.updCourse c (fun x =>
      { x with power := .run, waking := false, sampler := if s.pwr.time = 0 then 1 else s.pwr.time }))) ∧
    (x.power = .run → x.queue ≠ [] → ∃ t, exec (.pacingInterval c) s = .next t ∧
      (t.course c).queue.length + (admitted (x.credit + s.admitOf) x.queue).2.1.length = x.queue.length ∧
      (∀ y ∈ (admitted (x.credit + s.admitOf) x.queue).2.1, (t.gang y.gang).held = false) ∧
      ((t.course c).queue = [] → (t.course c).credit = 0)) ∧
    (x.power ≠ .run ∨ x.queue = [] → exec (.pacingInterval c) s = .next s)) ∧
  (∀ (cr : Nat) (l : List Start), let a := admitted cr l
    (∃ rest, l = a.2.1 ++ rest ∧ rest = a.2.2) ∧ a.1 + (a.2.1.map Start.cores).foldl (· + ·) 0 = cr ∧
    ∀ y, a.2.2.head? = some y → a.1 < y.cores)

/-- R403 to R406, R414: every millisecond the cap written last comes into force and the budget is the least of what one millisecond may
draw, twice the cap less the window's average, and what is left of the window; no course runs below step 5 or above 20, and none
above its throttle. -/
def Sys2Proof.Claims.PowerBudget : Prop :=
  (∀ (s : State) (energy : Nat) (demand : List (Nat × Nat × Nat)) (island : Int × Nat),
    let cap := (s.pwr.capNext.getD (s.pwr.cap, s.pwr.window)).1
    let window := (s.pwr.capNext.getD (s.pwr.cap, s.pwr.window)).2
    let past := (energy :: s.pwr.history).take 60000
    ∃ t, exec (.powerBudgetTick energy demand island) s = .next t ∧ t.pwr.cap = cap ∧ t.pwr.window = window ∧ t.pwr.capNext = none ∧
      t.pwr.history = past ∧ t.pwr.budget = budget 12000000 (1000 * cap) window past ∧ t.pwr.islandTemp = island.1 ∧ t.pwr.islandMv = island.2 ∧
      (∀ c ∈ t.courses, 5 ≤ c.2.step ∧ (t.pwr.throttled = true → c.2.step = 5) ∧ c.2.step ≤ max 5 c.2.heat) ∧ t.mem = s.mem ∧ t.grid = s.grid) ∧
  (∀ (top cap window : Nat) (past : List Nat), let b := budget top cap window past
    b ≤ top ∧ b ≤ 2 * cap - (((past.take window).foldl (· + ·) 0 / window : Nat) : Int) ∧
    b ≤ cap * window - (((past.take (window - 1)).foldl (· + ·) 0 : Nat) : Int) ∧
    (b = top ∨ b = 2 * cap - (((past.take window).foldl (· + ·) 0 / window : Nat) : Int) ∨
      b = cap * window - (((past.take (window - 1)).foldl (· + ·) 0 : Nat) : Int)))

/-- R407, R446, R447: a course at or above TTRIP trips with a record, and wakes again below TTHR - 5; still tripped after 1 s its contexts
abort with PWR_THERMAL_TRIP. A stack doubles refresh above 85 °C and slows at 100; 125 °C anywhere asserts THERMTRIP_N. -/
def Sys2Proof.Claims.Heat : Prop :=
  (∀ (s : State) (c : Nat) (temp : Int) (mv : Nat), c < 1024 → temp < 2000 →
    let x := s.course c
    ((x.power = .run ∨ x.power = .standby) → 16 * (s.pwr.ttrip : Int) ≤ temp → ∃ t, exec (.temperatureSample c temp mv) s = .next t ∧
      t.course c = { x with temp := temp, mv := mv, power := .tripped } ∧ t.board.recSeq = s.board.recSeq + 1 ∧ ∀ d, d ≠ c → t.course d = s.course d) ∧
    (x.power = .tripped → temp < 16 * ((s.pwr.tthr : Int) - 5) → exec (.temperatureSample c temp mv) s = .next (s.updCourse c (fun x =>
      { x with temp := temp, mv := mv, power := .standby, waking := true, heat := 5, step := 5 }))) ∧
    ((x.power = .run ∨ x.power = .standby) → temp < 16 * (s.pwr.ttrip : Int) → exec (.temperatureSample c temp mv) s =
      .next (s.updCourse c (fun x => { x with temp := temp, mv := mv }))) ∧
    (x.power ≠ .tripped → exec (.thermalTripTimeout c) s = .next s) ∧
    (x.power = .tripped → ∃ t, exec (.thermalTripTimeout c) s = .next t ∧ ∀ n ∈ s.ctxsOnCourse c, (s.ctx n).st = .defined →
      (t.ctx n).st = .faulted ∧ (t.ctx n).fault = pwrThermalTrip)) ∧
  (∀ (s : State) (c : Nat) (temp : Int) (mv : Nat), c < 1024 → 2000 ≤ temp →
    ∃ t, exec (.temperatureSample c temp mv) s = .next t ∧ t.pwr.thermtrip = true) ∧
  (∀ (s : State) (k : Nat) (temp : Int), k < 32 → ∃ t, exec (.hbmStackTemperature k temp) s = .next t ∧
    t.pwr.stackTemp.getD k 0 = temp ∧ (k ∈ t.pwr.stackRefresh ↔ 1360 < temp) ∧ (1600 ≤ temp → k ∈ t.pwr.stackSlow) ∧
    (temp < 1520 → k ∉ t.pwr.stackSlow) ∧ (1520 ≤ temp → temp < 1600 → (k ∈ t.pwr.stackSlow ↔ k ∈ s.pwr.stackSlow)) ∧
    (2000 ≤ temp → t.pwr.thermtrip = true) ∧ t.grid = s.grid)

/-- R408, R409, R413: more than 13,500 W or 1,200 A brings every course to step 5 and leaves a record until the throttle ends; VIN_MAIN out
of its limits, and a fault status of the board stage, do the same while they last; a course whose rails fail stands in FAULT,
fenced and empty. -/
def Sys2Proof.Claims.Delivery : Prop :=
  (∀ (s : State) (power current vin : Nat), s.pwr.delivery = false →
    (13500 < power ∨ 1200000 < current → ∃ t, exec (.deliverySense power current vin) s = .next t ∧ t.pwr.delivery = true ∧
      t.pwr.vinMV = vin ∧ t.pwr.iinMA = current ∧ (∀ c ∈ t.courses, c.2.step = 5) ∧ t.board.recSeq = s.board.recSeq + 1) ∧
    (power ≤ 13500 → current ≤ 1200000 → exec (.deliverySense power current vin) s =
      .next { s with pwr := { s.pwr with vinMV := vin, iinMA := current } })) ∧
  (∀ s : State, ∃ t, exec .deliveryThrottleEnd s = .next t ∧ t.pwr = { s.pwr with delivery := false } ∧ t.mem = s.mem ∧ t.grid = s.grid ∧
    (s.pwr.supply = false → s.pwr.pmFault = false → ∀ c ∈ t.courses, c.2.step = max 5 (min c.2.grant c.2.heat))) ∧
  (∀ (s : State) (mv : Nat),
    (10800 ≤ mv → mv < 11400 ∨ 12600 < mv → ∃ t, exec (.vinMainOutOfLimits mv) s = .next t ∧ t.pwr.supply = true ∧ t.pwr.vinMV = mv ∧
      (∀ c ∈ t.courses, c.2.step = 5) ∧ t.board.recSeq = s.board.recSeq + (if s.pwr.supply = true then 0 else 1)) ∧
    (11400 ≤ mv → mv ≤ 12600 → ∃ t, exec (.vinMainReturnsWithinLimits mv) s = .next t ∧ t.pwr = { s.pwr with vinMV := mv, supply := false } ∧
      t.grid = s.grid)) ∧
  (∀ (s : State) (vin iin : Nat) (status : BitVec 16),
    (∃ t, exec (.pmbusPoll false vin iin status) s = .next t ∧ t.pwr.pmFault = false ∧ t.pwr.pmbusBad = 0) ∧
    (status &&& 0xE004 ≠ 0 → ∃ t, exec (.pmbusPoll true vin iin status) s = .next t ∧ t.pwr.pmFault = true ∧ ∀ c ∈ t.courses, c.2.step = 5) ∧
    (status &&& 0xE004 = 0 → vin * iin / 1000000 = s.pwr.p1ms → ∃ t, exec (.pmbusPoll true vin iin status) s = .next t ∧ t.pwr.pmFault = false ∧
      t.pwr.pmbusBad = 0 ∧ t.board = s.board)) ∧
  (∀ (s : State) (c : Nat), c < 1024 →
    ((s.course c).power = .fault → exec (.courseSupplyFault c) s = .next s) ∧
    ((s.course c).power ≠ .fault → ∃ t, exec (.courseSupplyFault c) s = .next t ∧ (t.course c).power = .fault ∧ (t.course c).queue = [] ∧
      (∀ k, courseOfCore k = c → t.grid.cores.get? k = none) ∧ (∀ g ∈ t.grid.gangs, courseOfCore g.1 ≠ c) ∧
      ∀ n ∈ s.ctxsOnCourse c, (s.ctx n).st = .defined → (t.ctx n).st = .faulted ∧ (t.ctx n).fault = pwrSupplyFault))

/-- R410, R411: measured energy is charged once to the device, to the partition, and to the context and its job; what belongs to nobody
goes to the base. A resident context's energy is written into its record. -/
def Sys2Proof.Claims.Energy : Prop :=
  (∀ (s : State) (ctx e base : Nat),
    let c := s.ctx ctx
    c.st ≠ .free → c.jobsl = none → ∃ t, exec (.energySample [(ctx, e)] [] [] base) s = .next t ∧
      t.ctx ctx = { c with energy := c.energy + e } ∧ (t.fn c.fn).epart = (s.fn c.fn).epart + e ∧
      t.pwr.edev = s.pwr.edev + e + base ∧ t.pwr.ebase = s.pwr.ebase + base ∧ t.mem = s.mem) ∧
  (∀ (s : State) (fn j e base : Nat) (b : Job), s.job fn j = some b → ∃ t, exec (.energySample [] [(fn, j, e)] [] base) s = .next t ∧
    t.job fn j = some { b with energy := b.energy + e } ∧ (t.fn fn).epart = (s.fn fn).epart + e ∧ t.pwr.edev = s.pwr.edev + e + base) ∧
  (∀ (s : State) (contexts : List (Nat × Nat)) (jobs : List (Nat × Nat × Nat)) (idle : List (Nat × Nat)) (base : Nat),
    ∃ t, exec (.energySample contexts jobs idle base) s = .next t ∧ t.pwr.edev = s.pwr.edev + (contexts.map (·.2)).foldl (· + ·) 0 +
      (jobs.map (fun x => x.2.2)).foldl (· + ·) 0 + (idle.map (·.2)).foldl (· + ·) 0 + base) ∧
  (∀ (s : State) (ctx : Nat), ctx < 2 ^ 20 →
    ((s.ctx ctx).resident = false → exec (.contextEnergyWriteback ctx) s = .next s) ∧
    ((s.ctx ctx).resident = true → s.memOk → (s.ctx ctx).record + 256 ≤ 2 ^ 45 → ∃ t, exec (.contextEnergyWriteback ctx) s = .next t ∧
      t.readBytes ((s.ctx ctx).record + 0x80) 8 = leBytes 8 (s.ctx ctx).energy ∧ t.tab.ctxs = s.tab.ctxs ∧ t.grid = s.grid))

/-- R409, R415, R425, R439, R441: supplies and clock. VIN_MAIN lost resets the device with cause 4 and its HBM is gone; VIN_AON applied starts
the always-on island, VIN_AON lost stops the device; VIN_MAIN stable lets the boot leave its first stage. Without the clock no
function answers and THERMTRIP_N is low; its return is a full reset. -/
def Sys2Proof.Claims.Supplies : Prop :=
  (∀ s : State, ∃ t, exec .vinMainLoss s = .next t ∧ t.boot.rstCause = 4 ∧ t.pwr.mainStable = false ∧ t.grid.cores = [] ∧
    (∀ c ∈ t.mem.mem.cells, isDdr c.1 = true) ∧ t.truss.unitsLost = true ∧ t.pwr.ddrSelfRefresh = true ∧ t.tab.ctxs = []) ∧
  (∀ (s : State) (perst : Bool),
    (s.pwr.aonUp = false → exec (.vinMainStable perst) s = .next s) ∧
    (s.pwr.aonUp = true → perst = true → s.boot.stage = 0 → s.pwr.testmode = false → s.pwr.clockUp = true → s.boot.halted = false → s.boot.go = false →
      ∃ t, exec (.vinMainStable perst) s = .next t ∧ t.boot.stage = 1 ∧ t.pwr.mainStable = true) ∧
    (s.pwr.aonUp = true → perst = false → exec (.vinMainStable perst) s = .next { s with pwr := { s.pwr with mainStable := true } })) ∧
  (∀ (s : State) (testmode sris : Bool),
    (s.pwr.aonUp = true → exec (.vinAonApplied testmode sris) s = .next s) ∧
    (s.pwr.aonUp = false → ∃ t, exec (.vinAonApplied testmode sris) s = .next t ∧ t.pwr.aonUp = true ∧ t.pwr.time = 0 ∧ t.pwr.testmode = testmode ∧
      t.boot.idfail = testmode ∧ t.boot.svnFlash = s.boot.svnFlash ∧ t.boot.powerOns = s.boot.powerOns + (if testmode then 0 else 1) ∧
      t.mem.mem = s.mem.mem ∧ t.pending = s.pending)) ∧
  (∀ s : State, (s.pwr.aonUp = true → ∃ t, exec .vinAonLoss s = .next t ∧ t.pwr.aonUp = false ∧ t.boot.rstCause = 4 ∧
      ∀ c ∈ t.courses, c.2.power ≠ .run) ∧ (s.pwr.aonUp = false → exec .vinAonLoss s = .next s)) ∧
  (∀ s : State, (s.pwr.clockUp = true → ∃ t, exec .clockStop s = .next t ∧ t.pwr.clockUp = false ∧ t.pwr.thermtrip = true ∧ t.pwr.ddrSelfRefresh = true ∧
      (∀ c ∈ t.courses, c.2.power ≠ .run) ∧ (∀ n, (t.fn n).ready = false) ∧ t.mem = s.mem) ∧
    (s.pwr.clockUp = false → exec .clockStop s = .next s ∧ ∃ t, exec .clockReturn s = .next t ∧ t.pwr.clockUp = true ∧ t.boot.rstCause = 4) ∧
    (s.pwr.clockUp = true → exec .clockReturn s = .next s))

/-- The queue of commands is first in, first out: a step runs the command at its front with the rest left waiting. With no command
waiting one period of the always-on clock passes, so that only the local time counter of R395 counts (a DESIGN CHOICE: log
entry 4). -/
def Obligations.StepRunsTheFront : Prop :=
  (∀ (c : Instr) (rest : List Instr) (s : State), step { s with pending := c :: rest } = exec c { s with pending := rest }) ∧
  ∀ s : State, s.pending = [] → step s =
    .next (if s.pwr.aonUp = true ∧ s.pwr.clockUp = true then { s with pwr := { s.pwr with time := s.pwr.time + 1 } } else s)

/-- What reset leaves (R34, R363, R395 to R407, R415): no image and no function ready, no partition, context, spar, link or gang, each course
in STANDBY, memory and its die caches in canonical form, the settings of power and heat, and one journal entry. That every register of a core
reads 0 is the model's choice (log entry 2). -/
def Obligations.ResetState : Prop :=
  State.reset.pending = [] ∧ State.reset.boot.stage = 0 ∧ State.reset.boot.rstCause = 4 ∧ State.reset.vfEnable = false ∧
  (∀ n, (State.reset.fn n).ready = false ∧ (State.reset.fn n).enabled = decide (n = 0) ∧ (State.reset.fn n).queues = [] ∧ (State.reset.fn n).jobs = []) ∧
  State.reset.truss.parts = [] ∧ State.reset.Partitioned ∧ State.reset.tab.ctxs = [] ∧ State.reset.tab.spars = [] ∧
  (∀ k, (State.reset.core k).slots = [] ∧ ∀ i r, State.reset.regOf k i r = 0) ∧ State.reset.grid.gangs = [] ∧ State.reset.grid.streams = [] ∧
  (∀ c, (State.reset.course c).power = .standby ∧ (State.reset.course c).fence = 0 ∧ (State.reset.course c).retired = []) ∧
  (∀ p, (State.reset.port p).st = .down ∧ (State.reset.port p).enable = false) ∧
  State.reset.mem.mem.wf = true ∧ State.reset.memOk ∧ (∀ a, isDdr a = false → State.reset.byteAt a = 0) ∧
  State.reset.pwr.cap = 10000 ∧ State.reset.pwr.window = 10000 ∧ State.reset.pwr.tthr = 95 ∧ State.reset.pwr.ttrip = 110 ∧
  State.reset.pwr.stby = 4096 ∧ State.reset.pwr.offdly = 10 ∧ State.reset.fab.ttl = 64 ∧
  State.reset.truss.jcount = 1 ∧ (State.reset.truss.journal.map (fun e => (e.2.seq, e.2.kind))) = [(0, 0)]

/-- Every command that names units the device has completes, in every state: no state makes a command stop. A command that names a unit the
device does not have cannot be given to it, and stops. -/
def Obligations.CommandsComplete : Prop :=
  ∀ (c : Instr) (s : State),
    (c.wellFormed = true → ∃ t, exec c s = .next t) ∧ (c.wellFormed = false → exec c s = .fault .noSuchUnit)

/-- No command touches the queue of commands that wait. With no half of a split write held back, only the apply of a load, the
boot image and a reset of the device change the partitions in force (R361, R417, R425). -/
def Obligations.QueueAndConfiguration : Prop :=
  (∀ (c : Instr) (s t : State), exec c s = .next t → t.pending = s.pending) ∧
  ∀ (c : Instr) (s t : State), (s.fn 0).heldLow = none → exec c s = .next t → t.truss.parts ≠ s.truss.parts →
    c = .trussApply ∨ c = .bootImageApply ∨ c = .conventionalReset ∨ c = .cxlReset ∨ c = .vinMainLoss ∨ c = .vinAonLoss ∨ c = .clockReturn ∨
      (∃ a b, c = .vinAonApplied a b) ∨ (∃ v, c = .fullreset 0 v) ∨ (∃ rid ide off wide v, c = .registerWrite rid ide 0 off wide v)

/-- R357 as an invariant: in the configuration in force, and in the one that an accepted image will give, no two partitions share a course,
HBM unit, port, DDR5 memory, die-cache way, context, window or stream slot; each stays in its tables; and their resident shares, queues
and spars fit the device together. Every step keeps this. -/
def Obligations.PartitionsKept : Prop :=
  ∀ s t : State, s.Partitioned → step s = .next t → t.Partitioned

/-- R147, R170: a write of the device changes exactly the bytes it names, as every agent sees them, leaves the memory and the die caches in their
canonical form, and makes each code word that it writes whole clean. Other words of HBM stay husks or stay clean. -/
def Obligations.MemoryWrites : Prop :=
  ∀ (s : State) (a : Nat) (bs : List Byte), s.memOk → a + bs.length ≤ 2 ^ 46 →
    let t := s.writeBytes a bs
    s.Wrote t a bs ∧ t.memOk ∧ t.grid = s.grid ∧ t.tab = s.tab ∧ t.mem.reqs = s.mem.reqs ∧
    (∀ w ∈ wholeWords a bs.length, t.huskAt w = false) ∧
    ∀ w, w < 2 ^ 42 → isDdr (16 * w) = false → w ∉ wholeWords a bs.length → t.huskAt w = s.huskAt w

/-- R157: the slice abandons an open sequence. Its buffered contributions are gone, the code word of the element is a husk, the line is no
longer pinned for it, and a record from unit 0x05 with MEM_ORDER_ABANDONED names the address, next and P. No context faults for it. -/
def Obligations.AbandonedSequences : Prop :=
  ∀ (s : State) (addr : Nat) (q : OrdSeq), s.mem.seqs.rising → s.mem.seqs.get? addr = some q →
    ∃ u : State,
      exec (.orderedSequenceAbandon addr) s = .next (u.record (Report.plain 0x05 memOrderAbandoned (32 * homeDie addr + homeSlice addr)
        (leBytes 8 addr ++ leBytes 2 q.next ++ leBytes 2 q.count))) ∧
      u.mem.seqs.get? addr = none ∧ (∀ a, a ≠ addr → u.mem.seqs.get? a = s.mem.seqs.get? a) ∧
      u.huskAt (addr / 16) = true ∧
      ((∀ a, a ≠ addr → a / 128 = addr / 128 → s.mem.seqs.get? a = none) → u.pinned (addr / 128) = false) ∧
      (∀ n, ((u.record (Report.plain 0x05 memOrderAbandoned (32 * homeDie addr + homeSlice addr)
        (leBytes 8 addr ++ leBytes 2 q.next ++ leBytes 2 q.count))).ctx n).st = (s.ctx n).st)

/-- R287: an SPADD that would take a bounded spar below 0 faults its context with SPR_UNDERFLOW, one that would take it above BOUND with
SPR_OVERFLOW. The spar keeps its value, and no waiter resumes; the context's abort begins, and the core issues nothing more for it. -/
def Obligations.SparBounds : Prop :=
  ∀ (s : State) (p : Nat) (o : SparOp) (rest : List SparOp) (delta : DWord),
    let x := s.spar p
    let v : Int := x.value.toNat + delta.toInt
    p < 65536 → x.ops = o :: rest → o.gen = x.gen → o.act = .add delta → x.aband = false → x.kind = 1 → (s.ctx o.ctx).st = .defined →
    v < 0 ∨ v > x.param.toNat →
    ∃ t, exec (.sparHomeOperation p) s = .next t ∧ t.spar p = { x with ops := rest } ∧ (∀ k m, t.thread k m = s.thread k m) ∧
      (t.ctx o.ctx).st = .faulted ∧ (t.ctx o.ctx).fault = (if v < 0 then sprUnderflow else sprOverflow) ∧
      (t.ctx o.ctx).aborting = true ∧ o.core ∈ (t.ctx o.ctx).stopped

/-- Integer, bit and immediate instructions write their result to each acting thread and change nothing else: IntegerLanes, BitLanes, ImmediateLanes. -/
def Obligations.IntegerResults : Prop :=
  Sys2Proof.Claims.IntegerLanes ∧ Sys2Proof.Claims.BitLanes ∧ Sys2Proof.Claims.ImmediateLanes

/-- FP32 lane instructions and conversions write their result to each acting thread and change nothing else: FloatLanes, Conversions. -/
def Obligations.FloatResults : Prop :=
  Sys2Proof.Claims.FloatLanes ∧ Sys2Proof.Claims.Conversions

/-- BFI, SEL, RDSR, reductions, compares and predicate instructions: MoveSelectSpecial, Predicates. -/
def Obligations.MovesAndPredicates : Prop :=
  Sys2Proof.Claims.MoveSelectSpecial ∧ Sys2Proof.Claims.Predicates

/-- Branches, calls, returns, the sheaf barrier and EXIT: ControlTransfers, SheafBarrier, Exit. -/
def Obligations.ControlAndBarriers : Prop :=
  Sys2Proof.Claims.ControlTransfers ∧ Sys2Proof.Claims.SheafBarrier ∧ Sys2Proof.Claims.Exit

/-- Illegal encodings and refused addresses fault the context and have no effect: IllegalEncodings, AccessFaults. -/
def Obligations.IllegalAndFaultingForms : Prop :=
  Sys2Proof.Claims.IllegalEncodings ∧ Sys2Proof.Claims.AccessFaults

/-- Loads, stores and atomics send one request per acting thread to the home slices: LoadStoreRequests, AtomRequests. -/
def Obligations.AccessRequests : Prop :=
  Sys2Proof.Claims.LoadStoreRequests ∧ Sys2Proof.Claims.AtomRequests

/-- Local-store accesses and FENCE: LocalStore, Fence. -/
def Obligations.LocalStoreAndFence : Prop :=
  Sys2Proof.Claims.LocalStore ∧ Sys2Proof.Claims.Fence

/-- Register feeds and stream feeds queue their lanes at the gang: RegisterFeed, StreamFeed. -/
def Obligations.Feeds : Prop :=
  Sys2Proof.Claims.RegisterFeed ∧ Sys2Proof.Claims.StreamFeed

/-- Drains, reshapes and releases at their issue: DrainIssue, ReshapeRelease. -/
def Obligations.DrainAndReshape : Prop :=
  Sys2Proof.Claims.DrainIssue ∧ Sys2Proof.Claims.ReshapeRelease

/-- ALLOC, FREE, HPUT and HGET: AllocFree, Hoard. -/
def Obligations.ObjectsAndHoard : Prop :=
  Sys2Proof.Claims.AllocFree ∧ Sys2Proof.Claims.Hoard

/-- Mailbox instructions and mailbox registers: Mailboxes, MailboxInstructions. -/
def Obligations.Mail : Prop :=
  Sys2Proof.Claims.Mailboxes ∧ Sys2Proof.Claims.MailboxInstructions

/-- Results land, sheaves are placed, swapped out, placed again, and end: ResultsLand, SheafPlacement, SheafSwap. -/
def Obligations.SheafLife : Prop :=
  Sys2Proof.Claims.ResultsLand ∧ Sys2Proof.Claims.SheafPlacement ∧ Sys2Proof.Claims.SheafSwap

/-- An idle gang accepts feeds, and a step adds one product in every cell: FeedsAccepted, CellsFire. -/
def Obligations.Cells : Prop :=
  Sys2Proof.Claims.FeedsAccepted ∧ Sys2Proof.Claims.CellsFire

/-- A drain converts each element and lands it in registers or memory: DrainsComplete, DrainElements. -/
def Obligations.Drains : Prop :=
  Sys2Proof.Claims.DrainsComplete ∧ Sys2Proof.Claims.DrainElements

/-- Element-wise drain operations, and the verdicts of shadow checks: ElementWise, ShadowVerdicts. -/
def Obligations.Checks : Prop :=
  Sys2Proof.Claims.ElementWise ∧ Sys2Proof.Claims.ShadowVerdicts

/-- Row shifts, reshapes and parity faults of a gang: RowShift, ReshapeCompletes, GangParity. -/
def Obligations.GridRepair : Prop :=
  Sys2Proof.Claims.RowShift ∧ Sys2Proof.Claims.ReshapeCompletes ∧ Sys2Proof.Claims.GangParity

/-- Accesses accepted at a home slice, lines that arrive from memory, and scrubbing: HomeSlices, FillsAndScrub. -/
def Obligations.HomesAndFills : Prop :=
  Sys2Proof.Claims.HomeSlices ∧ Sys2Proof.Claims.FillsAndScrub

/-- Fault signature records, and the abort of a faulted context: Records, ContextAbort. -/
def Obligations.RecordsAndAborts : Prop :=
  Sys2Proof.Claims.Records ∧ Sys2Proof.Claims.ContextAbort

/-- The home unit of a spar applies operations one at a time, and wakes the threads that wait: SparHome, SparWaiters, AgentSpars. -/
def Obligations.Spars : Prop :=
  Sys2Proof.Claims.SparHome ∧ Sys2Proof.Claims.SparWaiters ∧ Sys2Proof.Claims.AgentSpars

/-- Contributions and parameter messages: Contributions, ParameterMessages. -/
def Obligations.GutterMessages : Prop :=
  Sys2Proof.Claims.Contributions ∧ Sys2Proof.Claims.ParameterMessages

/-- Update engines apply their rules to the chunks of a step: EngineChunks, UpdateRules, PreBlocksAndRows. -/
def Obligations.Engines : Prop :=
  Sys2Proof.Claims.EngineChunks ∧ Sys2Proof.Claims.UpdateRules ∧ Sys2Proof.Claims.PreBlocksAndRows

/-- Voids, and joins of spares: Voids, SparesJoin. -/
def Obligations.VoidsAndJoins : Prop :=
  Sys2Proof.Claims.Voids ∧ Sys2Proof.Claims.SparesJoin

/-- Flits, retry, training, transit and the violation score: LinkLayer, TransitAndScore. -/
def Obligations.LinksAndTransit : Prop :=
  Sys2Proof.Claims.LinkLayer ∧ Sys2Proof.Claims.TransitAndScore

/-- When an entry may start, and the commands RUN, SIGNAL and WAIT: EntryGate, RunCommands. -/
def Obligations.EntriesRun : Prop :=
  Sys2Proof.Claims.EntryGate ∧ Sys2Proof.Claims.RunCommands

/-- Commands that copy and fill memory, and queries: CopyCommands, Queries. -/
def Obligations.CopiesAndQueries : Prop :=
  Sys2Proof.Claims.CopyCommands ∧ Sys2Proof.Claims.Queries

/-- Contexts are created, destroyed, recovered, paged in and out: ContextCommands, Residency. -/
def Obligations.Contexts : Prop :=
  Sys2Proof.Claims.ContextCommands ∧ Sys2Proof.Claims.Residency

/-- Commands that load code, and commands of the allocator: CodeCommands, ObjectCommands. -/
def Obligations.CodeAndObjects : Prop :=
  Sys2Proof.Claims.CodeCommands ∧ Sys2Proof.Claims.ObjectCommands

/-- Entries are fetched and completions posted in order: EntryFetches, Completions. -/
def Obligations.QueueEngine : Prop :=
  Sys2Proof.Claims.EntryFetches ∧ Sys2Proof.Claims.Completions

/-- Functions that do not answer, and the registers of the queues: SilentFunctions, QueueRegistersEach. -/
def Obligations.QueueRegisters : Prop :=
  Sys2Proof.Claims.SilentFunctions ∧ Sys2Proof.Claims.QueueRegistersEach

/-- Checkpoints and their restore: CheckpointRegisters, CheckpointStreams. -/
def Obligations.Checkpoints : Prop :=
  Sys2Proof.Claims.CheckpointRegisters ∧ Sys2Proof.Claims.CheckpointStreams

/-- Truss images are loaded, checked and applied: TrussLoads, TrussApplies. -/
def Obligations.TrussImages : Prop :=
  Sys2Proof.Claims.TrussLoads ∧ Sys2Proof.Claims.TrussApplies

/-- Full resets, supplies and the clock: FullResets, Supplies. -/
def Obligations.ResetsAndSupplies : Prop :=
  Sys2Proof.Claims.FullResets ∧ Sys2Proof.Claims.Supplies

/-- CXL memory accesses, and split register accesses: CxlMemory, SplitAccesses. -/
def Obligations.HostAccesses : Prop :=
  Sys2Proof.Claims.CxlMemory ∧ Sys2Proof.Claims.SplitAccesses

/-- PLDM requests, records to the board, and the test port: BoardEndpoint, TestPort. -/
def Obligations.BoardAndTest : Prop :=
  Sys2Proof.Claims.BoardEndpoint ∧ Sys2Proof.Claims.TestPort

/-- The power budget and the energy counters: PowerBudget, Energy. -/
def Obligations.PowerAndEnergy : Prop :=
  Sys2Proof.Claims.PowerBudget ∧ Sys2Proof.Claims.Energy

/-- Temperatures, throttles and the supplies: Heat, Delivery. -/
def Obligations.HeatAndDelivery : Prop :=
  Sys2Proof.Claims.Heat ∧ Sys2Proof.Claims.Delivery
end

