-- ==== Sys2Proof/Laws/Map.lean ====
section
/-! SUPPORT. The laws of the sparse maps: reading after writing, writing twice, the rising order. -/

namespace Sys2Proof

variable {α : Type}

@[simp] theorem Map.get?_nil (n : Nat) : Map.get? ([] : Map α) n = none := rfl

theorem Map.get?_put (m : Map α) (n k : Nat) (a : α) : (Map.put m n a).get? k = if k = n then some a else Map.get? m k := by
  induction m with
  | nil => by_cases h : n = k <;> simp [Map.put, Map.get?, h, eq_comm]
  | cons x m ih =>
    obtain ⟨l, b⟩ := x
    by_cases h1 : n < l
    · by_cases h : k = n
      · simp [Map.put, Map.get?, h1, h]
      · simp [Map.put, Map.get?, h1, h, Ne.symm h]
    · by_cases h2 : n = l
      · subst h2
        by_cases h : k = n
        · simp [Map.put, Map.get?, h]
        · simp [Map.put, Map.get?, h, Ne.symm h]
      · by_cases h : l = k
        · subst h; simp [Map.put, Map.get?, h1, h2, Ne.symm h2]
        · simp [Map.put, Map.get?, h1, h2, h, ih]

@[simp] theorem Map.get?_put_self (m : Map α) (n : Nat) (a : α) : (Map.put m n a).get? n = some a := by
  simp [Map.get?_put]

theorem Map.get?_put_of_ne (m : Map α) {n k : Nat} (a : α) (h : k ≠ n) : (Map.put m n a).get? k = Map.get? m k := by
  simp [Map.get?_put, h]

theorem Map.getD_put (m : Map α) (n k : Nat) (a d : α) :
    (Map.put m n a).getD k d = if k = n then a else Map.getD m k d := by
  by_cases h : k = n <;> simp [Map.getD, Map.get?_put, h]

@[simp] theorem Map.getD_put_self (m : Map α) (n : Nat) (a d : α) : (Map.put m n a).getD n d = a := by
  simp [Map.getD_put]

theorem Map.put_put (m : Map α) (n : Nat) (a b : α) : (Map.put m n a).put n b = Map.put m n b := by
  induction m with
  | nil => simp [Map.put]
  | cons x m ih =>
    obtain ⟨l, c⟩ := x
    by_cases h1 : n < l
    · simp [Map.put, h1]
    · by_cases h2 : n = l
      · subst h2; simp [Map.put]
      · simp [Map.put, h1, h2, ih]

theorem Map.getD_upd (m : Map α) (n k : Nat) (d : α) (f : α → α) :
    (Map.upd m n d f).getD k d = if k = n then f (Map.getD m n d) else Map.getD m k d := by
  simp [Map.upd, Map.getD_put]

theorem Map.get?_upd (m : Map α) (n k : Nat) (d : α) (f : α → α) :
    (Map.upd m n d f).get? k = if k = n then some (f (Map.getD m n d)) else Map.get? m k := by
  simp [Map.upd, Map.get?_put]

theorem Map.get?_del_of_ne (m : Map α) {n k : Nat} (h : k ≠ n) : (Map.del m n).get? k = Map.get? m k := by
  induction m with
  | nil => rfl
  | cons x m ih =>
    obtain ⟨l, b⟩ := x
    by_cases h1 : l = n
    · subst h1; simp [Map.del, Map.get?, Ne.symm h]
    · by_cases h2 : l = k
      · subst h2; simp [Map.del, Map.get?, h1]
      · simp [Map.del, Map.get?, h1, h2, ih]

/-- The first key of a rising map lies below every key after it. -/
theorem Map.rising_cons {k : Nat} {a : α} {m : Map α} (h : Map.rising ((k, a) :: m) = true) :
    Map.rising m = true ∧ ∀ x ∈ m, k < x.1 := by
  induction m generalizing k a with
  | nil => simp [Map.rising]
  | cons x m ih =>
    obtain ⟨l, b⟩ := x
    simp only [Map.rising, Bool.and_eq_true, decide_eq_true_eq] at h
    refine ⟨h.2, fun y hy => ?_⟩
    rcases List.mem_cons.1 hy with rfl | hy
    · exact h.1
    · exact Nat.lt_trans h.1 ((ih h.2).2 y hy)

theorem Map.rising_of_lt {k : Nat} {a : α} {m : Map α} (h : Map.rising m = true) (hk : ∀ x ∈ m, k < x.1) :
    Map.rising ((k, a) :: m) = true := by
  cases m with
  | nil => rfl
  | cons x m =>
    obtain ⟨l, b⟩ := x
    simp only [Map.rising, Bool.and_eq_true, decide_eq_true_eq]
    exact ⟨hk _ (List.mem_cons_self ..), h⟩

theorem Map.mem_put {m : Map α} {n : Nat} {a : α} {x : Nat × α} (h : x ∈ Map.put m n a) : x = (n, a) ∨ x ∈ m := by
  induction m with
  | nil => simpa [Map.put] using h
  | cons y m ih =>
    obtain ⟨l, b⟩ := y
    grind [Map.put]

theorem Map.put_rising {m : Map α} (h : Map.rising m = true) (n : Nat) (a : α) : Map.rising (Map.put m n a) = true := by
  induction m with
  | nil => rfl
  | cons y m ih =>
    obtain ⟨l, b⟩ := y
    obtain ⟨hm, hl⟩ := Map.rising_cons h
    by_cases h1 : n < l
    · simp only [Map.put, h1, if_true]
      refine Map.rising_of_lt h (fun x hx => ?_)
      rcases List.mem_cons.1 hx with rfl | hx
      · exact h1
      · exact Nat.lt_trans h1 (hl x hx)
    · by_cases h2 : n = l
      · subst h2
        simp only [Map.put, Nat.lt_irrefl, if_true, if_false]
        exact Map.rising_of_lt hm hl
      · simp only [Map.put, h1, h2, if_false]
        refine Map.rising_of_lt (ih hm) (fun x hx => ?_)
        rcases Map.mem_put hx with rfl | hx
        · exact Nat.lt_of_le_of_ne (Nat.le_of_not_lt h1) (Ne.symm h2)
        · exact hl x hx

theorem Map.mem_of_mem_del {m : Map α} {n : Nat} {x : Nat × α} (h : x ∈ Map.del m n) : x ∈ m := by
  induction m with
  | nil => exact h
  | cons y m ih =>
    obtain ⟨l, b⟩ := y
    by_cases h1 : l = n
    · simp only [Map.del, h1, if_true] at h; exact List.mem_cons_of_mem _ h
    · simp only [Map.del, h1, if_false, List.mem_cons] at h ⊢
      exact h.imp id ih

theorem Map.del_rising {m : Map α} (h : Map.rising m = true) (n : Nat) : Map.rising (Map.del m n) = true := by
  induction m with
  | nil => rfl
  | cons y m ih =>
    obtain ⟨l, b⟩ := y
    obtain ⟨hm, hl⟩ := Map.rising_cons h
    by_cases h1 : l = n
    · simpa [Map.del, h1] using hm
    · simp only [Map.del, h1, if_false]
      exact Map.rising_of_lt (ih hm) (fun x hx => hl x (Map.mem_of_mem_del hx))

theorem Map.get?_eq_none_of_lt {m : Map α} {n : Nat} (h : ∀ x ∈ m, n < x.1) : Map.get? m n = none := by
  induction m with
  | nil => rfl
  | cons y m ih =>
    obtain ⟨l, b⟩ := y
    have := h (l, b) (List.mem_cons_self ..)
    have hne : l ≠ n := by simpa using Nat.ne_of_gt this
    simp only [Map.get?, hne, if_false]
    exact ih (fun x hx => h x (List.mem_cons_of_mem _ hx))

theorem Map.get?_del_self {m : Map α} (h : Map.rising m = true) (n : Nat) : (Map.del m n).get? n = none := by
  induction m with
  | nil => rfl
  | cons y m ih =>
    obtain ⟨l, b⟩ := y
    obtain ⟨hm, hl⟩ := Map.rising_cons h
    by_cases h1 : l = n
    · subst h1; simp only [Map.del, if_true]; exact Map.get?_eq_none_of_lt hl
    · simp [Map.del, Map.get?, h1, ih hm]

theorem Map.mem_of_get? {m : Map α} {n : Nat} {a : α} (h : Map.get? m n = some a) : (n, a) ∈ m := by
  induction m with
  | nil => simp at h
  | cons y m ih =>
    obtain ⟨l, b⟩ := y
    by_cases h1 : l = n
    · simp only [Map.get?, h1, if_true, Option.some.injEq] at h; simp [h1, h]
    · simp only [Map.get?, h1, if_false] at h; exact List.mem_cons_of_mem _ (ih h)

end Sys2Proof
end

