-- ==== Sys2Proof/Laws/Issue.lean ====
section
/-! SUPPORT. What issuing an instruction does, shared operation by shared operation. -/

namespace Sys2Proof.Machine

/-! ## Cores, slots and threads -/

@[simp] theorem State.core_updCore (s : State) (k n : Nat) (f : Core → Core) :
    (s.updCore k f).core n = if n = k then f (s.core k) else s.core n := by
  simp [State.core, State.updCore, Map.getD_upd]

/-- A change of a core is a change of nothing else. -/
theorem State.updCore_only (s : State) (k : Nat) (f : Core → Core) : s.OnlyCore (s.updCore k f) k := by
  simp [State.OnlyCore, State.updCore, State.core, Map.upd]

theorem State.OnlyCore.trans {s t u : State} {k : Nat} (h : s.OnlyCore t k) (h' : t.OnlyCore u k) : s.OnlyCore u k := by
  unfold State.OnlyCore at h h' ⊢
  rw [h] at h'
  simpa [Map.put_put] using h'

@[simp] theorem State.ctx_updCore (s : State) (k n : Nat) (f : Core → Core) : (s.updCore k f).ctx n = s.ctx n := rfl

theorem State.slot_updSlot (s : State) (k j c n : Nat) (f : Slot → Slot) :
    (s.updSlot k j f).slot c n = if c = k ∧ n = j then (s.slot k j).map f else s.slot c n := by
  unfold State.updSlot
  split
  · rename_i b h
    by_cases hc : c = k
    · subst hc
      by_cases hn : n = j
      · subst hn; rw [h]; simp [State.slot]
      · simp [State.slot, Map.get?_put, hn]
    · simp [State.slot, hc]
  · rename_i h
    by_cases hc : c = k ∧ n = j
    · obtain ⟨rfl, rfl⟩ := hc; simp [h]
    · simp [hc]

theorem State.updSlot_only (s : State) (k j : Nat) (f : Slot → Slot) (h : (s.slot k j).isSome) : s.OnlyCore (s.updSlot k j f) k := by
  unfold State.updSlot
  split
  · exact s.updCore_only k _
  · simp_all

theorem State.core_updSlot (s : State) (k j : Nat) (f : Slot → Slot) :
    { (s.updSlot k j f).core k with slots := [] } = { s.core k with slots := [] } := by
  unfold State.updSlot
  split <;> simp

/-- The thread at a position after a change of a slot. -/
theorem State.thread_updSlot (s : State) (k j n : Nat) (f : Slot → Slot) (h : (s.slot k j).isSome) :
    (s.updSlot k j f).thread k n =
      if n / 16 = j then ((s.slot k j).map (fun sl => (f sl).thread (n % 16))).getD Thread.idle else s.thread k n := by
  obtain ⟨sl, hs⟩ := Option.isSome_iff_exists.1 h
  by_cases hn : n / 16 = j
  · simp [State.thread, State.slot_updSlot, hn, hs]
  · simp [State.thread, State.slot_updSlot, hn]

@[simp] theorem Slot.thread_updThread (sl : Slot) (p n : Nat) (f : Thread → Thread) :
    (sl.updThread p f).thread n = if n = p then f (sl.thread p) else sl.thread n := by
  simp [Slot.thread, Slot.updThread, Map.getD_upd]

theorem State.thread_updThread (s : State) (k m n : Nat) (f : Thread → Thread) (h : (s.slot k (m / 16)).isSome) :
    (s.updThread k m f).thread k n = if n = m then f (s.thread k m) else s.thread k n := by
  obtain ⟨sl, hs⟩ := Option.isSome_iff_exists.1 h
  unfold State.updThread
  rw [State.thread_updSlot _ _ _ _ _ h]
  by_cases hm : n = m
  · simp [hm, hs, State.thread]
  · by_cases hn : n / 16 = m / 16
    · have : n % 16 ≠ m % 16 := by omega
      simp [hm, hn, hs, this, State.thread]
    · simp [hm, hn]

/-! ## Register writes -/

theorem Slot.thread_write (sl : Slot) (p n : Nat) (r : Reg) (v : Word) :
    (sl.write p r v).thread n =
      if n = p then (sl.thread p).got r v else sl.thread n := by
  cases r <;> by_cases h : n = p <;> simp [Slot.write, Slot.thread, Map.getD_upd, h, Thread.got]

@[simp] theorem Slot.rest_write (sl : Slot) (p : Nat) (r : Reg) (v : Word) : (sl.write p r v).rest = sl.rest := by
  cases r <;> rfl

@[simp] theorem Slot.pends_write (sl : Slot) (p : Nat) (r : Reg) (v : Word) : (sl.write p r v).pends = sl.pends := by
  cases r <;> simp [Slot.write, Slot.pends, Slot.overwritten] <;> (intro a _; split <;> simp)

@[simp] theorem Slot.u_write_g (sl : Slot) (p n : Nat) (v : Word) : (sl.write p (.g n) v).u = sl.u := rfl

/-! ## Changes of threads, registers and pending results only -/

def State.InLanes (s t : State) (k : Nat) : Prop :=
  s.OnlyCore t k ∧ { t.core k with slots := [] } = { s.core k with slots := [] } ∧
  ∀ j, (t.slot k j).map Slot.rest = (s.slot k j).map Slot.rest

theorem State.InLanes.trans {s t u : State} {k : Nat} (h : s.InLanes t k) (h' : t.InLanes u k) : s.InLanes u k :=
  ⟨h.1.trans h'.1, h'.2.1.trans h.2.1, fun j => (h'.2.2 j).trans (h.2.2 j)⟩

theorem State.InLanes.isSome {s t : State} {k : Nat} (h : s.InLanes t k) (j : Nat) : (t.slot k j).isSome = (s.slot k j).isSome := by
  have := congrArg Option.isSome (h.2.2 j); simpa using this

theorem State.updSlot_inLanes (s : State) (k j : Nat) (f : Slot → Slot) (h : (s.slot k j).isSome)
    (hf : ∀ sl, (f sl).rest = sl.rest) : s.InLanes (s.updSlot k j f) k := by
  refine ⟨s.updSlot_only k j f h, s.core_updSlot k j f, fun n => ?_⟩
  rw [State.slot_updSlot]
  by_cases hn : n = j
  · subst hn; cases s.slot k n <;> simp [hf]
  · simp [hn]

theorem State.updThread_inLanes (s : State) (k m : Nat) (f : Thread → Thread) (h : (s.slot k (m / 16)).isSome) :
    s.InLanes (s.updThread k m f) k := s.updSlot_inLanes k _ _ h (fun _ => rfl)

theorem State.slot_updThread_u (s : State) (k m j : Nat) (f : Thread → Thread) :
    ((s.updThread k m f).slot k j).map Slot.u = (s.slot k j).map Slot.u := by
  unfold State.updThread
  rw [State.slot_updSlot]
  by_cases hn : j = m / 16
  · subst hn; cases s.slot k (m / 16) <;> simp [Slot.updThread]
  · simp [hn]

theorem State.slot_updThread_pend (s : State) (k m j : Nat) (f : Thread → Thread) :
    ((s.updThread k m f).slot k j).map Slot.pend = (s.slot k j).map Slot.pend := by
  unfold State.updThread
  rw [State.slot_updSlot]
  by_cases hn : j = m / 16
  · subst hn; cases s.slot k (m / 16) <;> simp [Slot.updThread]
  · simp [hn]

/-! ## The next instruction -/

theorem State.nextPc_spec (s : State) (k : Nat) (ms : List Nat) (hs : ∀ m ∈ ms, (s.slot k (m / 16)).isSome) (hn : ms.Nodup) :
    (∀ s0 : State, s0.InLanes s k → s0.InLanes (s.nextPc k ms) k) ∧
    (∀ n, (s.nextPc k ms).thread k n = if n ∈ ms then (s.thread k n).past else s.thread k n) ∧
    (∀ j, ((s.nextPc k ms).slot k j).map Slot.u = (s.slot k j).map Slot.u) ∧
    (∀ j, ((s.nextPc k ms).slot k j).map Slot.pend = (s.slot k j).map Slot.pend) := by
  induction ms generalizing s with
  | nil => simp [State.nextPc]
  | cons m ms ih =>
    have hm := hs m (List.mem_cons_self ..)
    have hl := s.updThread_inLanes k m (fun t => { t with pc := t.pc + 8 }) hm
    have := ih (s.updThread k m (fun t => { t with pc := t.pc + 8 }))
      (fun n hn => by rw [hl.isSome]; exact hs n (List.mem_cons_of_mem _ hn)) (List.nodup_cons.1 hn).2
    have hnm := (List.nodup_cons.1 hn).1
    refine ⟨fun s0 h0 => this.1 s0 (h0.trans hl), fun n => ?_, fun j => (this.2.2.1 j).trans (s.slot_updThread_u ..),
      fun j => (this.2.2.2 j).trans (s.slot_updThread_pend ..)⟩
    have h2 := this.2.1 n
    rw [State.thread_updThread _ _ _ _ _ hm] at h2
    simp only [State.nextPc, List.foldl_cons] at h2 ⊢
    rw [h2]
    by_cases h : n = m
    · subst h; simp [hnm, Thread.past]
    · simp [h]

/-! ## Waiting for awaited registers -/

theorem State.mustWait_congr {s t : State} {k m : Nat} {rs : List Reg}
    (h : (t.slot k (m / 16)).map Slot.pend = (s.slot k (m / 16)).map Slot.pend) : t.mustWait k rs m = s.mustWait k rs m := by
  unfold State.mustWait
  cases h1 : t.slot k (m / 16) <;> cases h2 : s.slot k (m / 16) <;> simp_all
  congr 1; funext r; cases r <;> simp [Slot.awaits, h]

/-- A thread that waits for those of some registers that it awaits. -/
def State.waiter (s : State) (k : Nat) (reads : List Reg) (m : Nat) : Thread :=
  { s.thread k m with st := .waitData, waits := (reads.filter (fun r => s.mustWait k [r] m)).map Reg.code }

theorem State.waitData_spec (s : State) (k : Nat) (reads : List Reg) (ms : List Nat)
    (hw : ∀ m ∈ ms, s.mustWait k reads m = true) (hn : ms.Nodup) :
    (∀ s0 : State, s0.InLanes s k → s0.InLanes (s.waitData k reads ms) k) ∧
    (∀ n, (s.waitData k reads ms).thread k n = if n ∈ ms then s.waiter k reads n else s.thread k n) ∧
    (∀ j, ((s.waitData k reads ms).slot k j).map Slot.u = (s.slot k j).map Slot.u) ∧
    (∀ j, ((s.waitData k reads ms).slot k j).map Slot.pend = (s.slot k j).map Slot.pend) := by
  induction ms generalizing s with
  | nil => simp [State.waitData]
  | cons m ms ih =>
    have hm := hw m (List.mem_cons_self ..)
    obtain ⟨sl, hsl⟩ : ∃ sl, s.slot k (m / 16) = some sl := by
      unfold State.mustWait at hm; split at hm
      · exact ⟨_, by assumption⟩
      · cases hm
    have hne : (reads.filter (sl.awaits (m % 16))).isEmpty = false := by
      simp only [State.mustWait, hsl, List.any_eq_true] at hm
      obtain ⟨r, hr, ha⟩ := hm
      rw [List.isEmpty_eq_false_iff_exists_mem]
      exact ⟨r, List.mem_filter.2 ⟨hr, ha⟩⟩
    have hsome : (s.slot k (m / 16)).isSome := by simp [hsl]
    have hst : s.waitData k reads (m :: ms) = (s.updThread k m (fun t => { t with
        st := .waitData, waits := (reads.filter (sl.awaits (m % 16))).map Reg.code })).waitData k reads ms := by
      simp [State.waitData, hsl, hne]
    have hl := s.updThread_inLanes k m (fun t => { t with
        st := .waitData, waits := (reads.filter (sl.awaits (m % 16))).map Reg.code }) hsome
    have hp := s.slot_updThread_pend k m (f := fun t => { t with
        st := .waitData, waits := (reads.filter (sl.awaits (m % 16))).map Reg.code })
    have hu := s.slot_updThread_u k m (f := fun t => { t with
        st := .waitData, waits := (reads.filter (sl.awaits (m % 16))).map Reg.code })
    have ht := fun n => s.thread_updThread k m n (fun t => { t with
        st := .waitData, waits := (reads.filter (sl.awaits (m % 16))).map Reg.code }) hsome
    rw [hst]
    generalize s.updThread k m (fun t => { t with
        st := .waitData, waits := (reads.filter (sl.awaits (m % 16))).map Reg.code }) = t at *
    have := ih t (fun n hn => by rw [State.mustWait_congr (hp _)]; exact hw n (List.mem_cons_of_mem _ hn)) (List.nodup_cons.1 hn).2
    have hnm := (List.nodup_cons.1 hn).1
    refine ⟨fun s0 h0 => this.1 s0 (h0.trans hl), fun n => ?_, fun j => (this.2.2.1 j).trans (hu j),
      fun j => (this.2.2.2 j).trans (hp j)⟩
    rw [this.2.1 n]
    have hwt : ∀ n, n ∈ ms → t.waiter k reads n = s.waiter k reads n := by
      intro n hn
      have hne : n ≠ m := fun h => hnm (h ▸ hn)
      simp [State.waiter, State.mustWait_congr (hp _), ht, hne]
    by_cases h : n = m
    · subst h
      simp [hnm, ht, State.waiter, State.mustWait, hsl]
    · by_cases h' : n ∈ ms
      · simp [h', hwt]
      · simp [h, h', ht]

/-! ## The group (R89) -/

theorem Core.mem_group {c : Core} {l : Nat} {b : Bool} {m : Nat} (h : m ∈ c.group l b) : (c.slots.get? (m / 16)).isSome := by
  unfold Core.group at h
  split at h
  · cases h
  · rename_i sl hsl
    obtain ⟨pos, hp, hm⟩ := List.mem_filterMap.1 h
    split at hm
    · cases hm; simp [hsl]
    · obtain ⟨k, hk, rfl⟩ := Option.map_eq_some_iff.1 hm
      have := List.find?_some hk
      have hpos : pos < 16 := List.mem_range.1 hp
      rw [show (16 * k + pos) / 16 = k by omega]
      split at this
      · simp_all
      · cases this

theorem Core.group_pos {c : Core} {l : Nat} {b : Bool} {pos m : Nat} (h : pos ∈ List.range 16)
    (hm : (match c.slots.get? (l / 16) with
      | none => none
      | some sl => if pos = l % 16 then some l else
          c.joiner sl.ctx (sl.thread (l % 16)).pc (if b then [l / 16] else [0, 1, 2, 3]) pos) = some m) : m % 16 = pos := by
  have hp := List.mem_range.1 h
  split at hm
  · cases hm
  · split at hm
    · cases hm; omega
    · obtain ⟨k, _, rfl⟩ := Option.map_eq_some_iff.1 hm
      omega

theorem Core.group_nodup (c : Core) (l : Nat) (b : Bool) : (c.group l b).Nodup := by
  unfold Core.group
  split
  · exact List.nodup_nil
  · rename_i sl hsl
    rw [List.nodup_iff_pairwise_ne, List.pairwise_filterMap]
    refine List.Pairwise.imp_of_mem (R := (· ≠ ·)) ?_ (List.nodup_iff_pairwise_ne.1 List.nodup_range)
    intro p p' hp hp' hne m hm m' hm' heq
    subst heq
    refine hne ?_
    rw [← Core.group_pos (c := c) (l := l) (b := b) hp (m := m) (by simpa [hsl] using hm)]
    exact Core.group_pos (c := c) (l := l) (b := b) hp' (by simpa [hsl] using hm')

/-! ## Issue -/

theorem State.slot_moved (s : State) (k p j : Nat) : (s.updCore k (fun c => { c with ptr := p })).slot k j = s.slot k j := by
  simp [State.slot]

theorem State.thread_moved (s : State) (k p m : Nat) : (s.updCore k (fun c => { c with ptr := p })).thread k m = s.thread k m := by
  simp [State.thread, State.slot_moved]

theorem State.issue_eq (s : State) (i : Issue) (q : Form) (w : Nat) (act : State → List Nat → List Nat → State)
    (hl : s.Leads i) (hg : guardLegal q.guard) :
    s.issue i q.guard ⟨true, q.bound, q.reads⟩ w act =
      act (s.issued i q) (s.going i q) ((s.going i q).filter ((s.issued i q).guardOn i.core q.guard)) := by
  have hgo : ∀ m, (s.updCore i.core (fun c => { c with ptr := (i.leader + 1) % 64 })).guardOn i.core q.guard m =
      s.guardOn i.core q.guard m := fun m => by simp [State.guardOn, State.thread_moved]
  have hmw : ∀ m, (s.updCore i.core (fun c => { c with ptr := (i.leader + 1) % 64 })).mustWait i.core q.reads m =
      s.mustWait i.core q.reads m := fun m => by simp [State.mustWait, State.slot_moved]
  have hh : ((s.core i.core).group i.leader q.bound).filter (fun m =>
      (s.updCore i.core (fun c => { c with ptr := (i.leader + 1) % 64 })).guardOn i.core q.guard m &&
      (s.updCore i.core (fun c => { c with ptr := (i.leader + 1) % 64 })).mustWait i.core q.reads m) =
      (s.groupOf i q).filter (s.heldBack i q) := by
    simp only [hgo, hmw]; rfl
  have hf : ((s.core i.core).group i.leader q.bound).filter (fun m =>
      !((s.groupOf i q).filter (s.heldBack i q)).contains m) = s.going i q := by
    refine List.filter_congr (fun m hm => ?_)
    have hm' : m ∈ s.groupOf i q := hm
    simp [List.mem_filter, hm']
  unfold State.issue
  rw [if_neg (by simp [hl.2.2])]
  simp only [hg, Bool.and_true, Bool.not_true, Bool.false_eq_true, if_false]
  rw [hh, hf]
  rfl

theorem State.mem_groupOf {s : State} {i : Issue} {q : Form} {m : Nat} (h : m ∈ s.groupOf i q) :
    (s.slot i.core (m / 16)).isSome := Core.mem_group h

theorem State.going_nodup (s : State) (i : Issue) (q : Form) : (s.going i q).Nodup :=
  (Core.group_nodup ..).filter _

theorem State.acting_nodup (s : State) (i : Issue) (q : Form) : (s.acting i q).Nodup := (s.going_nodup i q).filter _

theorem State.mem_going {s : State} {i : Issue} {q : Form} {m : Nat} : m ∈ s.going i q ↔ m ∈ s.groupOf i q ∧ s.heldBack i q m = false := by
  simp [State.going, List.mem_filter]

/-- What holds of the state in which an instruction acts. -/
theorem State.issued_spec (s : State) (i : Issue) (q : Form) :
    s.OnlyThreads (s.issued i q) i ∧ (s.issued i q).OnlyCore (s.issued i q) i.core ∧
    (∀ m, (s.issued i q).thread i.core m =
      if m ∈ s.groupOf i q ∧ s.heldBack i q m = true then s.waiting i q m else s.thread i.core m) ∧
    (∀ j, ((s.issued i q).slot i.core j).map Slot.u = (s.slot i.core j).map Slot.u) ∧
    (∀ j, ((s.issued i q).slot i.core j).map Slot.pend = (s.slot i.core j).map Slot.pend) := by
  have hs := fun j => s.slot_moved i.core ((i.leader + 1) % 64) j
  have ht := fun j => s.thread_moved i.core ((i.leader + 1) % 64) j
  have hc : (s.updCore i.core (fun c => { c with ptr := (i.leader + 1) % 64 })).core i.core =
      { s.core i.core with ptr := (i.leader + 1) % 64 } := by simp
  have hself : (s.updCore i.core (fun c => { c with ptr := (i.leader + 1) % 64 })).InLanes
      (s.updCore i.core (fun c => { c with ptr := (i.leader + 1) % 64 })) i.core := by
    refine ⟨?_, rfl, fun _ => rfl⟩
    simp [State.OnlyCore, State.updCore, State.core, Map.upd, Map.put_put]
  have honly := s.updCore_only i.core (fun c => { c with ptr := (i.leader + 1) % 64 })
  unfold State.issued
  generalize s.updCore i.core (fun c => { c with ptr := (i.leader + 1) % 64 }) = s0 at *
  have hmw : ∀ rs m, s0.mustWait i.core rs m = s.mustWait i.core rs m := fun rs m => by
    simp only [State.mustWait, hs]
  have hwt : ∀ m, s0.waiter i.core q.reads m = s.waiting i q m := fun m => by
    simp [State.waiter, State.waiting, hmw, ht]
  have key := State.waitData_spec s0 i.core q.reads ((s.groupOf i q).filter (s.heldBack i q))
    (fun m hm => by
      have := (List.mem_filter.1 hm).2
      simp only [State.heldBack, Bool.and_eq_true] at this
      rw [hmw]; exact this.2)
    ((Core.group_nodup ..).filter _)
  have h1 := key.1 s0 hself
  generalize s0.waitData i.core q.reads _ = t at *
  refine ⟨⟨honly.trans h1.1, ?_, fun j => ?_⟩, ?_, fun m => ?_, fun j => ?_, fun j => ?_⟩
  · rw [h1.2.1, hc]
  · rw [h1.2.2 j, hs]
  · have := h1.1
    unfold State.OnlyCore at this ⊢
    rw [this]
    simp [State.core, Map.put_put]
  · rw [key.2.1 m, hwt]
    simp [List.mem_filter, ht]
  · rw [key.2.2.1 j, hs]
  · rw [key.2.2.2 j, hs]

end Sys2Proof.Machine
end

