-- ==== Sys2Proof/Laws/Lanes.lean ====
section
/-! SUPPORT. What an instruction that computes in the lanes does (R111, R112, R116). -/

namespace Sys2Proof.Machine

theorem Slot.read_congr {a b : Slot} {p : Nat} (hg : (a.thread p).g = (b.thread p).g) (hu : a.u = b.u) (r : Reg) :
    a.read p r = b.read p r := by
  cases r with
  | g n => simpa [Slot.read, Slot.thread] using congrArg (fun g => Map.getD g n 0) hg
  | u n => simp [Slot.read, hu]
  | zr => rfl

theorem Slot.readNat_congr {a b : Slot} {p : Nat} (hg : (a.thread p).g = (b.thread p).g) (hu : a.u = b.u) (rs : List Reg) :
    a.readNat p rs = b.readNat p rs := by
  induction rs with
  | nil => rfl
  | cons r rs ih => simp [Slot.readNat, ih, Slot.read_congr hg hu]

theorem State.result_congr {s t : State} {k m : Nat} (srcs : List (List Reg)) (f : LaneFn)
    (hg : (t.thread k m).g = (s.thread k m).g) (hp : (t.thread k m).p = (s.thread k m).p)
    (hu : (t.slot k (m / 16)).map Slot.u = (s.slot k (m / 16)).map Slot.u) : t.result k m srcs f = s.result k m srcs f := by
  unfold State.result
  unfold State.thread at hg hp
  cases h1 : t.slot k (m / 16) <;> cases h2 : s.slot k (m / 16) <;> simp only [h1, h2, Option.map_none, Option.map_some,
    Option.some.injEq, reduceCtorEq] at hu hg hp ⊢
  rw [hp]
  congr 1
  exact List.map_congr_left (fun rs _ => Slot.readNat_congr hg hu rs)

/-- A register write changes the thread, the u register or nothing, as the register says. -/
theorem State.thread_write (s : State) (k m n : Nat) (r : Reg) (v : Word) (h : (s.slot k (m / 16)).isSome) :
    (s.updSlot k (m / 16) (fun sl => sl.write (m % 16) r v)).thread k n =
      if n = m then (s.thread k m).got r v else s.thread k n := by
  rw [State.thread_updSlot _ _ _ _ _ h]
  obtain ⟨sl, hs⟩ := Option.isSome_iff_exists.1 h
  by_cases hn : n / 16 = m / 16
  · by_cases hm : n = m
    · subst hm; simp [hs, Slot.thread_write, State.thread]
    · have : n % 16 ≠ m % 16 := by omega
      simp [hs, hn, hm, Slot.thread_write, State.thread, this]
  · have hm : n ≠ m := fun h => hn (by rw [h])
    simp [hn, hm]

theorem State.slot_updSlot_map {β : Type} (s : State) (k j n : Nat) (f : Slot → Slot) (g : Slot → β) (h : ∀ sl, g (f sl) = g sl) :
    ((s.updSlot k j f).slot k n).map g = (s.slot k n).map g := by
  rw [State.slot_updSlot]
  by_cases hn : n = j
  · subst hn; cases s.slot k n <;> simp [h]
  · simp [hn]

theorem Slot.write_not_u {sl : Slot} {p : Nat} {r : Reg} {v : Word} (h : r.isU = false) : (sl.write p r v).u = sl.u := by
  cases r <;> simp_all [Reg.isU, Slot.write]

theorem State.laneWrite_cons (s : State) (k : Nat) (srcs : List (List Reg)) (r : Reg) (f : LaneFn) (m : Nat) (ms : List Nat) :
    s.laneWrite k srcs [r] f (m :: ms) =
      (s.updSlot k (m / 16) (fun sl => sl.write (m % 16) r (BitVec.ofNat 32 (s.result k m srcs f)))).laneWrite k srcs [r] f ms := by
  simp [State.laneWrite, wordsOfNat, Slot.writeAll]

/-- Results in a register of each thread. -/
theorem State.laneWrite_spec (s : State) (k : Nat) (srcs : List (List Reg)) (r : Reg) (f : LaneFn) (ms : List Nat)
    (hs : ∀ m ∈ ms, (s.slot k (m / 16)).isSome) (hn : ms.Nodup) (hr : r.isU = false) :
    (∀ s0 : State, s0.InLanes s k → s0.InLanes (s.laneWrite k srcs [r] f ms) k) ∧
    (∀ n, (s.laneWrite k srcs [r] f ms).thread k n =
      if n ∈ ms then (s.thread k n).got r (BitVec.ofNat 32 (s.result k n srcs f)) else s.thread k n) ∧
    (∀ j, ((s.laneWrite k srcs [r] f ms).slot k j).map Slot.u = (s.slot k j).map Slot.u) ∧
    (∀ j, ((s.laneWrite k srcs [r] f ms).slot k j).map Slot.pends = (s.slot k j).map Slot.pends) := by
  induction ms generalizing s with
  | nil => simp [State.laneWrite]
  | cons m ms ih =>
    have hm := hs m (List.mem_cons_self ..)
    have hnm := (List.nodup_cons.1 hn).1
    rw [State.laneWrite_cons]
    have hl := s.updSlot_inLanes k (m / 16) (fun sl => sl.write (m % 16) r (BitVec.ofNat 32 (s.result k m srcs f))) hm (fun sl => by simp)
    have ht := fun n => s.thread_write k m n r (BitVec.ofNat 32 (s.result k m srcs f)) hm
    have hu := fun n => s.slot_updSlot_map k (m / 16) n (fun sl => sl.write (m % 16) r (BitVec.ofNat 32 (s.result k m srcs f))) Slot.u
      (fun sl => Slot.write_not_u hr)
    have hp := fun n => s.slot_updSlot_map k (m / 16) n (fun sl => sl.write (m % 16) r (BitVec.ofNat 32 (s.result k m srcs f))) Slot.pends
      (fun sl => by simp)
    generalize hv : BitVec.ofNat 32 (s.result k m srcs f) = v at *
    generalize s.updSlot k (m / 16) (fun sl => sl.write (m % 16) r v) = t at *
    have := ih t (fun n hn => by rw [hl.isSome]; exact hs n (List.mem_cons_of_mem _ hn)) (List.nodup_cons.1 hn).2
    have hres : ∀ n, n ∈ ms → t.result k n srcs f = s.result k n srcs f := by
      intro n hn
      have hne : n ≠ m := fun h => hnm (h ▸ hn)
      exact State.result_congr srcs f (by simp [ht, hne]) (by simp [ht, hne]) (hu _)
    refine ⟨fun s0 h0 => this.1 s0 (h0.trans hl), fun n => ?_, fun j => (this.2.2.1 j).trans (hu j),
      fun j => (this.2.2.2 j).trans (hp j)⟩
    rw [this.2.1 n]
    by_cases h : n = m
    · subst h; simp [hnm, ht, hv]
    · by_cases h' : n ∈ ms
      · simp [h', h, hres, ht]
      · simp [h, h', ht]

/-- A result in a u register. -/
theorem State.laneWrite_u (s : State) (k : Nat) (srcs : List (List Reg)) (c : Nat) (f : LaneFn) (m : Nat)
    (hm : (s.slot k (m / 16)).isSome) :
    (∀ s0 : State, s0.InLanes s k → s0.InLanes (s.laneWrite k srcs [.u c] f [m]) k) ∧
    (∀ n, (s.laneWrite k srcs [.u c] f [m]).thread k n = s.thread k n) ∧
    (∀ j, ((s.laneWrite k srcs [.u c] f [m]).slot k j).map Slot.u =
      if j = m / 16 then (s.slot k j).map (fun sl => sl.u.put c (BitVec.ofNat 32 (s.result k m srcs f))) else (s.slot k j).map Slot.u) ∧
    (∀ j, ((s.laneWrite k srcs [.u c] f [m]).slot k j).map Slot.pends = (s.slot k j).map Slot.pends) := by
  rw [State.laneWrite_cons]
  simp only [State.laneWrite]
  refine ⟨fun s0 h0 => h0.trans (s.updSlot_inLanes k (m / 16) _ hm (fun sl => by simp)), fun n => ?_, fun j => ?_, fun j => ?_⟩
  · rw [State.thread_write _ _ _ _ _ _ hm]; by_cases h : n = m <;> simp [h, Thread.got]
  · rw [State.slot_updSlot]
    by_cases hj : j = m / 16
    · subst hj; cases s.slot k (m / 16) <;> simp [Slot.write]
    · simp [hj]
  · exact s.slot_updSlot_map k _ _ _ _ (fun sl => by simp)

theorem allRegs_some (l : List (List Reg)) : allRegs (l.map some) = some l := by
  induction l with
  | nil => rfl
  | cons r l ih => simp [allRegs, ih]

/-! ## The whole instruction -/

theorem State.acting_eq (s : State) (i : Issue) (q : Form) :
    (s.going i q).filter ((s.issued i q).guardOn i.core q.guard) = s.acting i q := by
  refine List.filter_congr (fun m hm => ?_)
  have := (s.issued_spec i q).2.2.1 m
  have hb := (State.mem_going.1 hm).2
  simp only [hb, Bool.false_eq_true, and_false, if_false] at this
  simp [State.guardOn, this]

/-- An instruction whose encoding is legal acts on its group in the state in which it is issued. -/
theorem State.issue_acts (s : State) (i : Issue) (q : Form) (w : Nat) (act : State → List Nat → List Nat → State)
    (hl : s.Leads i) (hg : guardLegal q.guard) :
    s.issue i q.guard ⟨true, q.bound, q.reads⟩ w act = act (s.issued i q) (s.going i q) (s.acting i q) := by
  rw [State.issue_eq s i q w act hl hg, State.acting_eq]

theorem State.mem_acting {s : State} {i : Issue} {q : Form} {m : Nat} (h : m ∈ s.acting i q) : m ∈ s.going i q :=
  (List.mem_filter.1 h).1

theorem State.issued_thread {s : State} {i : Issue} {q : Form} {m : Nat} (h : m ∈ s.going i q) :
    (s.issued i q).thread i.core m = s.thread i.core m := by
  rw [(s.issued_spec i q).2.2.1 m]; simp [(State.mem_going.1 h).2]

theorem State.OnlyThreads.inLanes {s u : State} {i : Issue} {k : Nat} {t : State} (hk : k = i.core) (h : s.OnlyThreads u i)
    (h' : u.InLanes t k) : s.OnlyThreads t i := by
  subst hk
  exact ⟨h.1.trans h'.1, h'.2.1.trans h.2.1, fun j => (h'.2.2 j).trans (h.2.2 j)⟩

/-- The threads after an instruction from those after its effect and before the program counters move. -/
theorem State.Threads.of_act {s u t : State} {i : Issue} {q : Form} {act : Nat → Thread → Thread}
    (hu : ∀ n, u.thread i.core n = if n ∈ s.acting i q then act n (s.thread i.core n) else (s.issued i q).thread i.core n)
    (ht : ∀ n, t.thread i.core n = if n ∈ s.going i q then (u.thread i.core n).past else u.thread i.core n) :
    s.Threads t i q (fun m th => (act m th).past) := by
  intro m
  rw [ht, hu]
  by_cases ha : m ∈ s.acting i q
  · simp [ha, State.mem_acting ha]
  · by_cases hg : m ∈ s.going i q
    · simp [ha, hg, State.issued_thread hg]
    · rw [(s.issued_spec i q).2.2.1 m]
      by_cases hm : m ∈ s.groupOf i q
      · have : s.heldBack i q m = true := by
          cases hb : s.heldBack i q m with
          | true => rfl
          | false => exact absurd (State.mem_going.2 ⟨hm, hb⟩) hg
        simp [ha, hg, hm, this]
      · simp [ha, hg, hm]

theorem State.uOf_of_map {s t : State} {k j : Nat} (h : (t.slot k j).map Slot.u = (s.slot k j).map Slot.u) (n : Nat) :
    t.uOf k j n = s.uOf k j n := by
  unfold State.uOf
  cases h1 : t.slot k j <;> cases h2 : s.slot k j <;> simp_all

theorem Slot.pends_of_pend {a b : Option Slot} (h : a.map Slot.pend = b.map Slot.pend) : a.map Slot.pends = b.map Slot.pends := by
  have : (Slot.pends : Slot → List Pend) = (fun l => l.map (fun p => { p with clobber := false })) ∘ Slot.pend := rfl
  rw [this, ← Option.map_map, ← Option.map_map, h]

theorem State.compute_lane (s : State) (i : Issue) (g : BitVec 5) (w : Nat) (b : Bool) (srcs : List (List Reg)) (r : Reg) (f : LaneFn)
    (hl : s.Leads i) (hg : guardLegal g) :
    s.LaneResult (s.compute false b i g w true (srcs.map some) (some [r]) f) i
      ⟨g, b || srcs.any (·.any Reg.isU) || [r].any Reg.isU, srcs.flatten⟩ r
      (fun m => BitVec.ofNat 32 (s.result i.core m srcs f)) := by
  generalize hq : (⟨g, b || srcs.any (·.any Reg.isU) || [r].any Reg.isU, srcs.flatten⟩ : Form) = q
  have hcomp : s.compute false b i g w true (srcs.map some) (some [r]) f =
      ((s.issued i q).laneWrite i.core srcs [r] f (writers [r] (s.acting i q))).nextPc i.core (s.going i q) := by
    have := State.issue_acts s i q w
      (fun s go on => (s.laneWrite i.core srcs [r] f (writers [r] on)).nextPc i.core go) hl (by rw [← hq]; exact hg)
    rw [← hq] at this
    unfold State.compute
    simp only [allRegs_some, Option.getD_some, Option.isSome_some, Bool.and_true, Bool.false_eq_true, if_false]
    rw [this, hq]
  rw [hcomp]
  obtain ⟨h1, h2, h3, h4, h5⟩ := s.issued_spec i q
  have hsome : ∀ m ∈ s.going i q, ((s.issued i q).slot i.core (m / 16)).isSome := by
    intro m hm
    have := congrArg Option.isSome (h1.2.2 (m / 16))
    simp only [Option.isSome_map] at this
    rw [this]; exact State.mem_groupOf (State.mem_going.1 hm).1
  have hself : (s.issued i q).InLanes (s.issued i q) i.core := ⟨h2, rfl, fun _ => rfl⟩
  have hres : ∀ m ∈ s.acting i q, (s.issued i q).result i.core m srcs f = s.result i.core m srcs f := fun m hm =>
    State.result_congr srcs f (by rw [State.issued_thread (State.mem_acting hm)]) (by rw [State.issued_thread (State.mem_acting hm)]) (h4 _)
  by_cases hr : r.isU = false
  · have hw : writers [r] (s.acting i q) = s.acting i q := by simp [writers, hr]
    rw [hw]
    obtain ⟨k1, k2, k3, k4⟩ := (s.issued i q).laneWrite_spec i.core srcs r f (s.acting i q)
      (fun m hm => hsome m (State.mem_acting hm)) (s.acting_nodup i q) hr
    have k1' := k1 _ hself
    have hsome' : ∀ m ∈ s.going i q, (((s.issued i q).laneWrite i.core srcs [r] f (s.acting i q)).slot i.core (m / 16)).isSome :=
      fun m hm => by rw [k1'.isSome]; exact hsome m hm
    obtain ⟨n1, n2, n3, n4⟩ := State.nextPc_spec _ i.core (s.going i q) hsome' (s.going_nodup i q)
    refine ⟨h1.inLanes rfl (n1 _ k1'), ?_, fun j => ?_, fun j n => ?_⟩
    · refine State.Threads.of_act (u := (s.issued i q).laneWrite i.core srcs [r] f (s.acting i q))
        (act := fun m th => th.got r (BitVec.ofNat 32 (s.result i.core m srcs f))) (fun n => ?_) n2
      rw [k2]
      by_cases ha : n ∈ s.acting i q
      · simp [ha, hres n ha, State.issued_thread (State.mem_acting ha)]
      · simp [ha]
    · exact (Slot.pends_of_pend (n4 j)).trans ((k4 j).trans (Slot.pends_of_pend (h5 j)))
    · rw [State.uOf_of_map ((n3 j).trans ((k3 j).trans (h4 j)))]
      have : r ≠ .u n := fun h => by simp [h, Reg.isU] at hr
      cases (s.acting i q).head? <;> simp [this]
  · obtain ⟨c, rfl⟩ : ∃ c, r = .u c := by cases r <;> simp_all [Reg.isU]
    cases ha : s.acting i q with
    | nil =>
      simp only [writers, List.any_cons, Reg.isU, List.any_nil, Bool.or_false, if_true, List.take_nil, State.laneWrite]
      obtain ⟨n1, n2, n3, n4⟩ := State.nextPc_spec _ i.core (s.going i q) hsome (s.going_nodup i q)
      refine ⟨h1.inLanes rfl (n1 _ hself), ?_, fun j => ?_, fun j n => ?_⟩
      · exact State.Threads.of_act (u := s.issued i q) (act := fun m th => th.got (.u c) (BitVec.ofNat 32 (s.result i.core m srcs f)))
          (fun n => by simp [ha]) n2
      · exact (Slot.pends_of_pend (n4 j)).trans (Slot.pends_of_pend (h5 j))
      · rw [State.uOf_of_map ((n3 j).trans (h4 j))]; simp [ha]
    | cons m0 ms =>
      have hm0 : m0 ∈ s.acting i q := by simp [ha]
      simp only [writers, List.any_cons, Reg.isU, List.any_nil, Bool.or_false, if_true, List.take_succ_cons, List.take_zero]
      obtain ⟨k1, k2, k3, k4⟩ := (s.issued i q).laneWrite_u i.core srcs c f m0 (hsome m0 (State.mem_acting hm0))
      have k1' := k1 _ hself
      have hsome' : ∀ m ∈ s.going i q, (((s.issued i q).laneWrite i.core srcs [.u c] f [m0]).slot i.core (m / 16)).isSome :=
        fun m hm => by rw [k1'.isSome]; exact hsome m hm
      obtain ⟨n1, n2, n3, n4⟩ := State.nextPc_spec _ i.core (s.going i q) hsome' (s.going_nodup i q)
      refine ⟨h1.inLanes rfl (n1 _ k1'), ?_, fun j => ?_, fun j n => ?_⟩
      · refine State.Threads.of_act (u := (s.issued i q).laneWrite i.core srcs [.u c] f [m0])
          (act := fun m th => th.got (.u c) (BitVec.ofNat 32 (s.result i.core m srcs f))) (fun n => ?_) n2
        rw [k2]
        by_cases hn : n ∈ s.acting i q
        · simp [hn, Thread.got, State.issued_thread (State.mem_acting hn)]
        · simp [hn]
      · exact (Slot.pends_of_pend (n4 j)).trans ((k4 j).trans (Slot.pends_of_pend (h5 j)))
      · have hj := (n3 j).trans (k3 j)
        simp only [ha, List.head?_cons]
        have hu := h4 j
        simp only [State.uOf]
        by_cases hjm : j = m0 / 16
        · rw [if_pos hjm] at hj
          cases e1 : (((s.issued i q).laneWrite i.core srcs [.u c] f [m0]).nextPc i.core (s.going i q)).slot i.core j <;>
            cases e2 : (s.issued i q).slot i.core j <;> cases e3 : s.slot i.core j <;>
            simp only [e1, e2, e3, Option.map_none, Option.map_some, Option.some.injEq, reduceCtorEq] at hj hu ⊢
          · exact absurd (hsome m0 (State.mem_acting hm0)) (by rw [← hjm, e2]; simp)
          · rw [hj, Map.getD_put, hu, hres m0 hm0]
            by_cases hc : n = c
            · subst hc; simp [hjm]
            · have : c ≠ n := fun h => hc h.symm
              simp [hc, this]
        · rw [if_neg hjm] at hj
          have := hj.trans hu
          have := State.uOf_of_map this n
          simp only [State.uOf] at this
          rw [this]; simp [hjm]

/-! ## Operands -/

theorem regs_specifiers {w : Nat} {c : BitVec 6} {l : List Reg} (h : specifiers w c = some l) : regs w c = some l := by
  unfold specifiers at h
  unfold regs
  by_cases h30 : c = 0x30
  · subst h30; simpa using h
  · have : c.toNat ≠ 0x30 := fun h => h30 (BitVec.eq_of_toNat_eq (by simpa using h))
    simp only [this, if_false]
    split at h
    · simp_all
    · rename_i hlt
      simp only [hlt, if_false]
      split at h <;> simp_all

theorem specifiers_one {c : BitVec 6} {r : Reg} (h : specifier c = some r) : specifiers 1 c = some [r] := by
  unfold specifier at h
  unfold specifiers
  split at h
  · cases h; simp_all [Nat.mod_one]
  · split at h
    · cases h; simp_all [Nat.mod_one]
    · split at h
      · cases h; simp_all
      · cases h

theorem regs_specifier {c : BitVec 6} {r : Reg} (h : specifier c = some r) : regs 1 c = some [r] :=
  regs_specifiers (specifiers_one h)

theorem State.LaneResult.congr {s t : State} {i : Issue} {q : Form} {d : Reg} {v v' : Nat → Word}
    (h : s.LaneResult t i q d v) (hv : ∀ m ∈ s.acting i q, v m = v' m) : s.LaneResult t i q d v' := by
  obtain ⟨h1, h2, h3, h4⟩ := h
  refine ⟨h1, fun m => ?_, h3, fun j n => ?_⟩
  · rw [h2 m]; by_cases hm : m ∈ s.acting i q <;> simp [hm, hv]
  · rw [h4 j n]
    cases hh : (s.acting i q).head? with
    | none => rfl
    | some m => simp [hv m (List.mem_of_head? hh)]

theorem State.regOf_slot {s : State} {k m : Nat} {sl : Slot} (h : s.slot k (m / 16) = some sl) (r : Reg) :
    s.regOf k m r = sl.read (m % 16) r := by simp [State.regOf, h]

theorem State.acting_slot {s : State} {i : Issue} {q : Form} {m : Nat} (h : m ∈ s.acting i q) :
    ∃ sl, s.slot i.core (m / 16) = some sl :=
  Option.isSome_iff_exists.1 (State.mem_groupOf (State.mem_going.1 (State.mem_acting h)).1)

@[simp] theorem Slot.readNat_one (sl : Slot) (p : Nat) (r : Reg) : sl.readNat p [r] = (sl.read p r).toNat := by
  simp [Slot.readNat]

/-- A lane instruction whose fields are legal, and its result thread by thread. -/
theorem State.compute_lane_val (s : State) (i : Issue) (g : BitVec 5) (w : Nat) (legal b : Bool) (so : List (Option (List Reg)))
    (srcs : List (List Reg)) (dst : Option (List Reg)) (r : Reg) (f : LaneFn) (v : Nat → Word) (q : Form) (hl : s.Leads i) (hg : guardLegal g)
    (hleg : legal = true) (hso : so = srcs.map some) (hd : dst = some [r]) (hq : q = ⟨g, b || srcs.any (·.any Reg.isU) || [r].any Reg.isU, srcs.flatten⟩)
    (hv : ∀ m ∈ s.acting i q, ∀ sl, s.slot i.core (m / 16) = some sl →
      BitVec.ofNat 32 (f m (sl.thread (m % 16)).p (srcs.map (sl.readNat (m % 16)))) = v m) :
    s.LaneResult (s.compute false b i g w legal so dst f) i q r v := by
  subst hleg hso hd hq
  refine (State.compute_lane s i g w b srcs r f hl hg).congr (fun m hm => ?_)
  obtain ⟨sl, hs⟩ := State.acting_slot hm
  rw [← hv m hm sl hs]
  simp [State.result, hs]

theorem done_next {c : Instr} {t : State} (h : c.wellFormed = true) : done c t = .next t := by simp [done, doneIf, h]

theorem State.Leads.ok {s : State} {i : Issue} (h : s.Leads i) : i.ok = true := by
  simp [Issue.ok, coreCount, h.1, h.2.1]

end Sys2Proof.Machine
end

