-- ==== Sys2Proof/Laws/State.lean ====
section
/-! SUPPORT. What each update of the state leaves alone, one field at a time, and what it leaves in the unit that it updates. -/

namespace Sys2Proof.Machine

/-! ## State.updFn -/

@[simp] theorem State.updFn_pending (s : State) (n : Nat) (f : Fn → Fn) : (s.updFn n f).pending = s.pending := rfl
@[simp] theorem State.updFn_grid (s : State) (n : Nat) (f : Fn → Fn) : (s.updFn n f).grid = s.grid := rfl
@[simp] theorem State.updFn_courses (s : State) (n : Nat) (f : Fn → Fn) : (s.updFn n f).courses = s.courses := rfl
@[simp] theorem State.updFn_mem (s : State) (n : Nat) (f : Fn → Fn) : (s.updFn n f).mem = s.mem := rfl
@[simp] theorem State.updFn_tab (s : State) (n : Nat) (f : Fn → Fn) : (s.updFn n f).tab = s.tab := rfl
@[simp] theorem State.updFn_engines (s : State) (n : Nat) (f : Fn → Fn) : (s.updFn n f).engines = s.engines := rfl
@[simp] theorem State.updFn_fab (s : State) (n : Nat) (f : Fn → Fn) : (s.updFn n f).fab = s.fab := rfl
@[simp] theorem State.updFn_truss (s : State) (n : Nat) (f : Fn → Fn) : (s.updFn n f).truss = s.truss := rfl
@[simp] theorem State.updFn_pwr (s : State) (n : Nat) (f : Fn → Fn) : (s.updFn n f).pwr = s.pwr := rfl
@[simp] theorem State.updFn_boot (s : State) (n : Nat) (f : Fn → Fn) : (s.updFn n f).boot = s.boot := rfl
@[simp] theorem State.updFn_spdm (s : State) (n : Nat) (f : Fn → Fn) : (s.updFn n f).spdm = s.spdm := rfl
@[simp] theorem State.updFn_board (s : State) (n : Nat) (f : Fn → Fn) : (s.updFn n f).board = s.board := rfl
@[simp] theorem State.updFn_secure (s : State) (n : Nat) (f : Fn → Fn) : (s.updFn n f).secure = s.secure := rfl
@[simp] theorem State.updFn_free (s : State) (n : Nat) (f : Fn → Fn) : (s.updFn n f).free = s.free := rfl
@[simp] theorem State.updFn_vfEnable (s : State) (n : Nat) (f : Fn → Fn) : (s.updFn n f).vfEnable = s.vfEnable := rfl

/-! ## State.updCourse -/

@[simp] theorem State.updCourse_pending (s : State) (n : Nat) (f : Course → Course) : (s.updCourse n f).pending = s.pending := rfl
@[simp] theorem State.updCourse_grid (s : State) (n : Nat) (f : Course → Course) : (s.updCourse n f).grid = s.grid := rfl
@[simp] theorem State.updCourse_mem (s : State) (n : Nat) (f : Course → Course) : (s.updCourse n f).mem = s.mem := rfl
@[simp] theorem State.updCourse_tab (s : State) (n : Nat) (f : Course → Course) : (s.updCourse n f).tab = s.tab := rfl
@[simp] theorem State.updCourse_fns (s : State) (n : Nat) (f : Course → Course) : (s.updCourse n f).fns = s.fns := rfl
@[simp] theorem State.updCourse_engines (s : State) (n : Nat) (f : Course → Course) : (s.updCourse n f).engines = s.engines := rfl
@[simp] theorem State.updCourse_fab (s : State) (n : Nat) (f : Course → Course) : (s.updCourse n f).fab = s.fab := rfl
@[simp] theorem State.updCourse_truss (s : State) (n : Nat) (f : Course → Course) : (s.updCourse n f).truss = s.truss := rfl
@[simp] theorem State.updCourse_pwr (s : State) (n : Nat) (f : Course → Course) : (s.updCourse n f).pwr = s.pwr := rfl
@[simp] theorem State.updCourse_boot (s : State) (n : Nat) (f : Course → Course) : (s.updCourse n f).boot = s.boot := rfl
@[simp] theorem State.updCourse_spdm (s : State) (n : Nat) (f : Course → Course) : (s.updCourse n f).spdm = s.spdm := rfl
@[simp] theorem State.updCourse_board (s : State) (n : Nat) (f : Course → Course) : (s.updCourse n f).board = s.board := rfl
@[simp] theorem State.updCourse_secure (s : State) (n : Nat) (f : Course → Course) : (s.updCourse n f).secure = s.secure := rfl
@[simp] theorem State.updCourse_free (s : State) (n : Nat) (f : Course → Course) : (s.updCourse n f).free = s.free := rfl
@[simp] theorem State.updCourse_vfEnable (s : State) (n : Nat) (f : Course → Course) : (s.updCourse n f).vfEnable = s.vfEnable := rfl

/-! ## State.updCtx -/

@[simp] theorem State.updCtx_pending (s : State) (n : Nat) (f : Ctx → Ctx) : (s.updCtx n f).pending = s.pending := rfl
@[simp] theorem State.updCtx_grid (s : State) (n : Nat) (f : Ctx → Ctx) : (s.updCtx n f).grid = s.grid := rfl
@[simp] theorem State.updCtx_courses (s : State) (n : Nat) (f : Ctx → Ctx) : (s.updCtx n f).courses = s.courses := rfl
@[simp] theorem State.updCtx_mem (s : State) (n : Nat) (f : Ctx → Ctx) : (s.updCtx n f).mem = s.mem := rfl
@[simp] theorem State.updCtx_tab_spars (s : State) (n : Nat) (f : Ctx → Ctx) : (s.updCtx n f).tab.spars = s.tab.spars := rfl
@[simp] theorem State.updCtx_tab_stamp (s : State) (n : Nat) (f : Ctx → Ctx) : (s.updCtx n f).tab.stamp = s.tab.stamp := rfl
@[simp] theorem State.updCtx_fns (s : State) (n : Nat) (f : Ctx → Ctx) : (s.updCtx n f).fns = s.fns := rfl
@[simp] theorem State.updCtx_engines (s : State) (n : Nat) (f : Ctx → Ctx) : (s.updCtx n f).engines = s.engines := rfl
@[simp] theorem State.updCtx_fab (s : State) (n : Nat) (f : Ctx → Ctx) : (s.updCtx n f).fab = s.fab := rfl
@[simp] theorem State.updCtx_truss (s : State) (n : Nat) (f : Ctx → Ctx) : (s.updCtx n f).truss = s.truss := rfl
@[simp] theorem State.updCtx_pwr (s : State) (n : Nat) (f : Ctx → Ctx) : (s.updCtx n f).pwr = s.pwr := rfl
@[simp] theorem State.updCtx_boot (s : State) (n : Nat) (f : Ctx → Ctx) : (s.updCtx n f).boot = s.boot := rfl
@[simp] theorem State.updCtx_spdm (s : State) (n : Nat) (f : Ctx → Ctx) : (s.updCtx n f).spdm = s.spdm := rfl
@[simp] theorem State.updCtx_board (s : State) (n : Nat) (f : Ctx → Ctx) : (s.updCtx n f).board = s.board := rfl
@[simp] theorem State.updCtx_secure (s : State) (n : Nat) (f : Ctx → Ctx) : (s.updCtx n f).secure = s.secure := rfl
@[simp] theorem State.updCtx_free (s : State) (n : Nat) (f : Ctx → Ctx) : (s.updCtx n f).free = s.free := rfl
@[simp] theorem State.updCtx_vfEnable (s : State) (n : Nat) (f : Ctx → Ctx) : (s.updCtx n f).vfEnable = s.vfEnable := rfl

/-! ## State.updCore -/

@[simp] theorem State.updCore_pending (s : State) (n : Nat) (f : Core → Core) : (s.updCore n f).pending = s.pending := rfl
@[simp] theorem State.updCore_grid_gangs (s : State) (n : Nat) (f : Core → Core) : (s.updCore n f).grid.gangs = s.grid.gangs := rfl
@[simp] theorem State.updCore_grid_shapes (s : State) (n : Nat) (f : Core → Core) : (s.updCore n f).grid.shapes = s.grid.shapes := rfl
@[simp] theorem State.updCore_grid_reshapes (s : State) (n : Nat) (f : Core → Core) : (s.updCore n f).grid.reshapes = s.grid.reshapes := rfl
@[simp] theorem State.updCore_grid_streams (s : State) (n : Nat) (f : Core → Core) : (s.updCore n f).grid.streams = s.grid.streams := rfl
@[simp] theorem State.updCore_grid_nextStream (s : State) (n : Nat) (f : Core → Core) : (s.updCore n f).grid.nextStream = s.grid.nextStream := rfl
@[simp] theorem State.updCore_grid_shadows (s : State) (n : Nat) (f : Core → Core) : (s.updCore n f).grid.shadows = s.grid.shadows := rfl
@[simp] theorem State.updCore_grid_nextShadow (s : State) (n : Nat) (f : Core → Core) : (s.updCore n f).grid.nextShadow = s.grid.nextShadow := rfl
@[simp] theorem State.updCore_grid_retires (s : State) (n : Nat) (f : Core → Core) : (s.updCore n f).grid.retires = s.grid.retires := rfl
@[simp] theorem State.updCore_grid_shadowStopped (s : State) (n : Nat) (f : Core → Core) : (s.updCore n f).grid.shadowStopped = s.grid.shadowStopped := rfl
@[simp] theorem State.updCore_courses (s : State) (n : Nat) (f : Core → Core) : (s.updCore n f).courses = s.courses := rfl
@[simp] theorem State.updCore_mem (s : State) (n : Nat) (f : Core → Core) : (s.updCore n f).mem = s.mem := rfl
@[simp] theorem State.updCore_tab (s : State) (n : Nat) (f : Core → Core) : (s.updCore n f).tab = s.tab := rfl
@[simp] theorem State.updCore_fns (s : State) (n : Nat) (f : Core → Core) : (s.updCore n f).fns = s.fns := rfl
@[simp] theorem State.updCore_engines (s : State) (n : Nat) (f : Core → Core) : (s.updCore n f).engines = s.engines := rfl
@[simp] theorem State.updCore_fab (s : State) (n : Nat) (f : Core → Core) : (s.updCore n f).fab = s.fab := rfl
@[simp] theorem State.updCore_truss (s : State) (n : Nat) (f : Core → Core) : (s.updCore n f).truss = s.truss := rfl
@[simp] theorem State.updCore_pwr (s : State) (n : Nat) (f : Core → Core) : (s.updCore n f).pwr = s.pwr := rfl
@[simp] theorem State.updCore_boot (s : State) (n : Nat) (f : Core → Core) : (s.updCore n f).boot = s.boot := rfl
@[simp] theorem State.updCore_spdm (s : State) (n : Nat) (f : Core → Core) : (s.updCore n f).spdm = s.spdm := rfl
@[simp] theorem State.updCore_board (s : State) (n : Nat) (f : Core → Core) : (s.updCore n f).board = s.board := rfl
@[simp] theorem State.updCore_secure (s : State) (n : Nat) (f : Core → Core) : (s.updCore n f).secure = s.secure := rfl
@[simp] theorem State.updCore_free (s : State) (n : Nat) (f : Core → Core) : (s.updCore n f).free = s.free := rfl
@[simp] theorem State.updCore_vfEnable (s : State) (n : Nat) (f : Core → Core) : (s.updCore n f).vfEnable = s.vfEnable := rfl

/-! ## State.updGang -/

@[simp] theorem State.updGang_pending (s : State) (n : Nat) (f : Gang → Gang) : (s.updGang n f).pending = s.pending := rfl
@[simp] theorem State.updGang_grid_cores (s : State) (n : Nat) (f : Gang → Gang) : (s.updGang n f).grid.cores = s.grid.cores := rfl
@[simp] theorem State.updGang_grid_shapes (s : State) (n : Nat) (f : Gang → Gang) : (s.updGang n f).grid.shapes = s.grid.shapes := rfl
@[simp] theorem State.updGang_grid_reshapes (s : State) (n : Nat) (f : Gang → Gang) : (s.updGang n f).grid.reshapes = s.grid.reshapes := rfl
@[simp] theorem State.updGang_grid_streams (s : State) (n : Nat) (f : Gang → Gang) : (s.updGang n f).grid.streams = s.grid.streams := rfl
@[simp] theorem State.updGang_grid_nextStream (s : State) (n : Nat) (f : Gang → Gang) : (s.updGang n f).grid.nextStream = s.grid.nextStream := rfl
@[simp] theorem State.updGang_grid_shadows (s : State) (n : Nat) (f : Gang → Gang) : (s.updGang n f).grid.shadows = s.grid.shadows := rfl
@[simp] theorem State.updGang_grid_nextShadow (s : State) (n : Nat) (f : Gang → Gang) : (s.updGang n f).grid.nextShadow = s.grid.nextShadow := rfl
@[simp] theorem State.updGang_grid_retires (s : State) (n : Nat) (f : Gang → Gang) : (s.updGang n f).grid.retires = s.grid.retires := rfl
@[simp] theorem State.updGang_grid_shadowStopped (s : State) (n : Nat) (f : Gang → Gang) : (s.updGang n f).grid.shadowStopped = s.grid.shadowStopped := rfl
@[simp] theorem State.updGang_courses (s : State) (n : Nat) (f : Gang → Gang) : (s.updGang n f).courses = s.courses := rfl
@[simp] theorem State.updGang_mem (s : State) (n : Nat) (f : Gang → Gang) : (s.updGang n f).mem = s.mem := rfl
@[simp] theorem State.updGang_tab (s : State) (n : Nat) (f : Gang → Gang) : (s.updGang n f).tab = s.tab := rfl
@[simp] theorem State.updGang_fns (s : State) (n : Nat) (f : Gang → Gang) : (s.updGang n f).fns = s.fns := rfl
@[simp] theorem State.updGang_engines (s : State) (n : Nat) (f : Gang → Gang) : (s.updGang n f).engines = s.engines := rfl
@[simp] theorem State.updGang_fab (s : State) (n : Nat) (f : Gang → Gang) : (s.updGang n f).fab = s.fab := rfl
@[simp] theorem State.updGang_truss (s : State) (n : Nat) (f : Gang → Gang) : (s.updGang n f).truss = s.truss := rfl
@[simp] theorem State.updGang_pwr (s : State) (n : Nat) (f : Gang → Gang) : (s.updGang n f).pwr = s.pwr := rfl
@[simp] theorem State.updGang_boot (s : State) (n : Nat) (f : Gang → Gang) : (s.updGang n f).boot = s.boot := rfl
@[simp] theorem State.updGang_spdm (s : State) (n : Nat) (f : Gang → Gang) : (s.updGang n f).spdm = s.spdm := rfl
@[simp] theorem State.updGang_board (s : State) (n : Nat) (f : Gang → Gang) : (s.updGang n f).board = s.board := rfl
@[simp] theorem State.updGang_secure (s : State) (n : Nat) (f : Gang → Gang) : (s.updGang n f).secure = s.secure := rfl
@[simp] theorem State.updGang_free (s : State) (n : Nat) (f : Gang → Gang) : (s.updGang n f).free = s.free := rfl
@[simp] theorem State.updGang_vfEnable (s : State) (n : Nat) (f : Gang → Gang) : (s.updGang n f).vfEnable = s.vfEnable := rfl

/-! ## State.updSpar -/

@[simp] theorem State.updSpar_pending (s : State) (n : Nat) (f : Spar → Spar) : (s.updSpar n f).pending = s.pending := rfl
@[simp] theorem State.updSpar_grid (s : State) (n : Nat) (f : Spar → Spar) : (s.updSpar n f).grid = s.grid := rfl
@[simp] theorem State.updSpar_courses (s : State) (n : Nat) (f : Spar → Spar) : (s.updSpar n f).courses = s.courses := rfl
@[simp] theorem State.updSpar_mem (s : State) (n : Nat) (f : Spar → Spar) : (s.updSpar n f).mem = s.mem := rfl
@[simp] theorem State.updSpar_tab_ctxs (s : State) (n : Nat) (f : Spar → Spar) : (s.updSpar n f).tab.ctxs = s.tab.ctxs := rfl
@[simp] theorem State.updSpar_tab_stamp (s : State) (n : Nat) (f : Spar → Spar) : (s.updSpar n f).tab.stamp = s.tab.stamp := rfl
@[simp] theorem State.updSpar_fns (s : State) (n : Nat) (f : Spar → Spar) : (s.updSpar n f).fns = s.fns := rfl
@[simp] theorem State.updSpar_engines (s : State) (n : Nat) (f : Spar → Spar) : (s.updSpar n f).engines = s.engines := rfl
@[simp] theorem State.updSpar_fab (s : State) (n : Nat) (f : Spar → Spar) : (s.updSpar n f).fab = s.fab := rfl
@[simp] theorem State.updSpar_truss (s : State) (n : Nat) (f : Spar → Spar) : (s.updSpar n f).truss = s.truss := rfl
@[simp] theorem State.updSpar_pwr (s : State) (n : Nat) (f : Spar → Spar) : (s.updSpar n f).pwr = s.pwr := rfl
@[simp] theorem State.updSpar_boot (s : State) (n : Nat) (f : Spar → Spar) : (s.updSpar n f).boot = s.boot := rfl
@[simp] theorem State.updSpar_spdm (s : State) (n : Nat) (f : Spar → Spar) : (s.updSpar n f).spdm = s.spdm := rfl
@[simp] theorem State.updSpar_board (s : State) (n : Nat) (f : Spar → Spar) : (s.updSpar n f).board = s.board := rfl
@[simp] theorem State.updSpar_secure (s : State) (n : Nat) (f : Spar → Spar) : (s.updSpar n f).secure = s.secure := rfl
@[simp] theorem State.updSpar_free (s : State) (n : Nat) (f : Spar → Spar) : (s.updSpar n f).free = s.free := rfl
@[simp] theorem State.updSpar_vfEnable (s : State) (n : Nat) (f : Spar → Spar) : (s.updSpar n f).vfEnable = s.vfEnable := rfl

/-! ## State.updPort -/

@[simp] theorem State.updPort_pending (s : State) (n : Nat) (f : Port → Port) : (s.updPort n f).pending = s.pending := rfl
@[simp] theorem State.updPort_grid (s : State) (n : Nat) (f : Port → Port) : (s.updPort n f).grid = s.grid := rfl
@[simp] theorem State.updPort_courses (s : State) (n : Nat) (f : Port → Port) : (s.updPort n f).courses = s.courses := rfl
@[simp] theorem State.updPort_mem (s : State) (n : Nat) (f : Port → Port) : (s.updPort n f).mem = s.mem := rfl
@[simp] theorem State.updPort_tab (s : State) (n : Nat) (f : Port → Port) : (s.updPort n f).tab = s.tab := rfl
@[simp] theorem State.updPort_fns (s : State) (n : Nat) (f : Port → Port) : (s.updPort n f).fns = s.fns := rfl
@[simp] theorem State.updPort_engines (s : State) (n : Nat) (f : Port → Port) : (s.updPort n f).engines = s.engines := rfl
@[simp] theorem State.updPort_fab_devid (s : State) (n : Nat) (f : Port → Port) : (s.updPort n f).fab.devid = s.fab.devid := rfl
@[simp] theorem State.updPort_fab_ttl (s : State) (n : Nat) (f : Port → Port) : (s.updPort n f).fab.ttl = s.fab.ttl := rfl
@[simp] theorem State.updPort_fab_qthresh (s : State) (n : Nat) (f : Port → Port) : (s.updPort n f).fab.qthresh = s.fab.qthresh := rfl
@[simp] theorem State.updPort_fab_rtmo (s : State) (n : Nat) (f : Port → Port) : (s.updPort n f).fab.rtmo = s.fab.rtmo := rfl
@[simp] theorem State.updPort_fab_routes (s : State) (n : Nat) (f : Port → Port) : (s.updPort n f).fab.routes = s.fab.routes := rfl
@[simp] theorem State.updPort_fab_windows (s : State) (n : Nat) (f : Port → Port) : (s.updPort n f).fab.windows = s.fab.windows := rfl
@[simp] theorem State.updPort_fab_vlogCount (s : State) (n : Nat) (f : Port → Port) : (s.updPort n f).fab.vlogCount = s.fab.vlogCount := rfl
@[simp] theorem State.updPort_fab_vlog (s : State) (n : Nat) (f : Port → Port) : (s.updPort n f).fab.vlog = s.fab.vlog := rfl
@[simp] theorem State.updPort_fab_remotes (s : State) (n : Nat) (f : Port → Port) : (s.updPort n f).fab.remotes = s.fab.remotes := rfl
@[simp] theorem State.updPort_fab_nextTag (s : State) (n : Nat) (f : Port → Port) : (s.updPort n f).fab.nextTag = s.fab.nextTag := rfl
@[simp] theorem State.updPort_fab_out (s : State) (n : Nat) (f : Port → Port) : (s.updPort n f).fab.out = s.fab.out := rfl
@[simp] theorem State.updPort_fab_inbox (s : State) (n : Nat) (f : Port → Port) : (s.updPort n f).fab.inbox = s.fab.inbox := rfl
@[simp] theorem State.updPort_truss (s : State) (n : Nat) (f : Port → Port) : (s.updPort n f).truss = s.truss := rfl
@[simp] theorem State.updPort_pwr (s : State) (n : Nat) (f : Port → Port) : (s.updPort n f).pwr = s.pwr := rfl
@[simp] theorem State.updPort_boot (s : State) (n : Nat) (f : Port → Port) : (s.updPort n f).boot = s.boot := rfl
@[simp] theorem State.updPort_spdm (s : State) (n : Nat) (f : Port → Port) : (s.updPort n f).spdm = s.spdm := rfl
@[simp] theorem State.updPort_board (s : State) (n : Nat) (f : Port → Port) : (s.updPort n f).board = s.board := rfl
@[simp] theorem State.updPort_secure (s : State) (n : Nat) (f : Port → Port) : (s.updPort n f).secure = s.secure := rfl
@[simp] theorem State.updPort_free (s : State) (n : Nat) (f : Port → Port) : (s.updPort n f).free = s.free := rfl
@[simp] theorem State.updPort_vfEnable (s : State) (n : Nat) (f : Port → Port) : (s.updPort n f).vfEnable = s.vfEnable := rfl

/-! ## State.updEngine -/

@[simp] theorem State.updEngine_pending (s : State) (n : Nat) (f : Engine → Engine) : (s.updEngine n f).pending = s.pending := rfl
@[simp] theorem State.updEngine_grid (s : State) (n : Nat) (f : Engine → Engine) : (s.updEngine n f).grid = s.grid := rfl
@[simp] theorem State.updEngine_courses (s : State) (n : Nat) (f : Engine → Engine) : (s.updEngine n f).courses = s.courses := rfl
@[simp] theorem State.updEngine_mem (s : State) (n : Nat) (f : Engine → Engine) : (s.updEngine n f).mem = s.mem := rfl
@[simp] theorem State.updEngine_tab (s : State) (n : Nat) (f : Engine → Engine) : (s.updEngine n f).tab = s.tab := rfl
@[simp] theorem State.updEngine_fns (s : State) (n : Nat) (f : Engine → Engine) : (s.updEngine n f).fns = s.fns := rfl
@[simp] theorem State.updEngine_fab (s : State) (n : Nat) (f : Engine → Engine) : (s.updEngine n f).fab = s.fab := rfl
@[simp] theorem State.updEngine_truss (s : State) (n : Nat) (f : Engine → Engine) : (s.updEngine n f).truss = s.truss := rfl
@[simp] theorem State.updEngine_pwr (s : State) (n : Nat) (f : Engine → Engine) : (s.updEngine n f).pwr = s.pwr := rfl
@[simp] theorem State.updEngine_boot (s : State) (n : Nat) (f : Engine → Engine) : (s.updEngine n f).boot = s.boot := rfl
@[simp] theorem State.updEngine_spdm (s : State) (n : Nat) (f : Engine → Engine) : (s.updEngine n f).spdm = s.spdm := rfl
@[simp] theorem State.updEngine_board (s : State) (n : Nat) (f : Engine → Engine) : (s.updEngine n f).board = s.board := rfl
@[simp] theorem State.updEngine_secure (s : State) (n : Nat) (f : Engine → Engine) : (s.updEngine n f).secure = s.secure := rfl
@[simp] theorem State.updEngine_free (s : State) (n : Nat) (f : Engine → Engine) : (s.updEngine n f).free = s.free := rfl
@[simp] theorem State.updEngine_vfEnable (s : State) (n : Nat) (f : Engine → Engine) : (s.updEngine n f).vfEnable = s.vfEnable := rfl

/-! ## State.updQueue -/

@[simp] theorem State.updQueue_pending (s : State) (n q : Nat) (f : Queue → Queue) : (s.updQueue n q f).pending = s.pending := rfl
@[simp] theorem State.updQueue_grid (s : State) (n q : Nat) (f : Queue → Queue) : (s.updQueue n q f).grid = s.grid := rfl
@[simp] theorem State.updQueue_courses (s : State) (n q : Nat) (f : Queue → Queue) : (s.updQueue n q f).courses = s.courses := rfl
@[simp] theorem State.updQueue_mem (s : State) (n q : Nat) (f : Queue → Queue) : (s.updQueue n q f).mem = s.mem := rfl
@[simp] theorem State.updQueue_tab (s : State) (n q : Nat) (f : Queue → Queue) : (s.updQueue n q f).tab = s.tab := rfl
@[simp] theorem State.updQueue_engines (s : State) (n q : Nat) (f : Queue → Queue) : (s.updQueue n q f).engines = s.engines := rfl
@[simp] theorem State.updQueue_fab (s : State) (n q : Nat) (f : Queue → Queue) : (s.updQueue n q f).fab = s.fab := rfl
@[simp] theorem State.updQueue_truss (s : State) (n q : Nat) (f : Queue → Queue) : (s.updQueue n q f).truss = s.truss := rfl
@[simp] theorem State.updQueue_pwr (s : State) (n q : Nat) (f : Queue → Queue) : (s.updQueue n q f).pwr = s.pwr := rfl
@[simp] theorem State.updQueue_boot (s : State) (n q : Nat) (f : Queue → Queue) : (s.updQueue n q f).boot = s.boot := rfl
@[simp] theorem State.updQueue_spdm (s : State) (n q : Nat) (f : Queue → Queue) : (s.updQueue n q f).spdm = s.spdm := rfl
@[simp] theorem State.updQueue_board (s : State) (n q : Nat) (f : Queue → Queue) : (s.updQueue n q f).board = s.board := rfl
@[simp] theorem State.updQueue_secure (s : State) (n q : Nat) (f : Queue → Queue) : (s.updQueue n q f).secure = s.secure := rfl
@[simp] theorem State.updQueue_free (s : State) (n q : Nat) (f : Queue → Queue) : (s.updQueue n q f).free = s.free := rfl
@[simp] theorem State.updQueue_vfEnable (s : State) (n q : Nat) (f : Queue → Queue) : (s.updQueue n q f).vfEnable = s.vfEnable := rfl

/-! ## State.updMbx -/

@[simp] theorem State.updMbx_pending (s : State) (n c : Nat) (f : Mbx → Mbx) : (s.updMbx n c f).pending = s.pending := rfl
@[simp] theorem State.updMbx_grid (s : State) (n c : Nat) (f : Mbx → Mbx) : (s.updMbx n c f).grid = s.grid := rfl
@[simp] theorem State.updMbx_courses (s : State) (n c : Nat) (f : Mbx → Mbx) : (s.updMbx n c f).courses = s.courses := rfl
@[simp] theorem State.updMbx_mem (s : State) (n c : Nat) (f : Mbx → Mbx) : (s.updMbx n c f).mem = s.mem := rfl
@[simp] theorem State.updMbx_tab (s : State) (n c : Nat) (f : Mbx → Mbx) : (s.updMbx n c f).tab = s.tab := rfl
@[simp] theorem State.updMbx_engines (s : State) (n c : Nat) (f : Mbx → Mbx) : (s.updMbx n c f).engines = s.engines := rfl
@[simp] theorem State.updMbx_fab (s : State) (n c : Nat) (f : Mbx → Mbx) : (s.updMbx n c f).fab = s.fab := rfl
@[simp] theorem State.updMbx_truss (s : State) (n c : Nat) (f : Mbx → Mbx) : (s.updMbx n c f).truss = s.truss := rfl
@[simp] theorem State.updMbx_pwr (s : State) (n c : Nat) (f : Mbx → Mbx) : (s.updMbx n c f).pwr = s.pwr := rfl
@[simp] theorem State.updMbx_boot (s : State) (n c : Nat) (f : Mbx → Mbx) : (s.updMbx n c f).boot = s.boot := rfl
@[simp] theorem State.updMbx_spdm (s : State) (n c : Nat) (f : Mbx → Mbx) : (s.updMbx n c f).spdm = s.spdm := rfl
@[simp] theorem State.updMbx_board (s : State) (n c : Nat) (f : Mbx → Mbx) : (s.updMbx n c f).board = s.board := rfl
@[simp] theorem State.updMbx_secure (s : State) (n c : Nat) (f : Mbx → Mbx) : (s.updMbx n c f).secure = s.secure := rfl
@[simp] theorem State.updMbx_free (s : State) (n c : Nat) (f : Mbx → Mbx) : (s.updMbx n c f).free = s.free := rfl
@[simp] theorem State.updMbx_vfEnable (s : State) (n c : Nat) (f : Mbx → Mbx) : (s.updMbx n c f).vfEnable = s.vfEnable := rfl

/-! ## State.updJob -/

@[simp] theorem State.updJob_pending (s : State) (n j : Nat) (f : Job → Job) : (s.updJob n j f).pending = s.pending := by
  unfold State.updJob; cases s.job n j <;> rfl
@[simp] theorem State.updJob_grid (s : State) (n j : Nat) (f : Job → Job) : (s.updJob n j f).grid = s.grid := by
  unfold State.updJob; cases s.job n j <;> rfl
@[simp] theorem State.updJob_courses (s : State) (n j : Nat) (f : Job → Job) : (s.updJob n j f).courses = s.courses := by
  unfold State.updJob; cases s.job n j <;> rfl
@[simp] theorem State.updJob_mem (s : State) (n j : Nat) (f : Job → Job) : (s.updJob n j f).mem = s.mem := by
  unfold State.updJob; cases s.job n j <;> rfl
@[simp] theorem State.updJob_tab (s : State) (n j : Nat) (f : Job → Job) : (s.updJob n j f).tab = s.tab := by
  unfold State.updJob; cases s.job n j <;> rfl
@[simp] theorem State.updJob_engines (s : State) (n j : Nat) (f : Job → Job) : (s.updJob n j f).engines = s.engines := by
  unfold State.updJob; cases s.job n j <;> rfl
@[simp] theorem State.updJob_fab (s : State) (n j : Nat) (f : Job → Job) : (s.updJob n j f).fab = s.fab := by
  unfold State.updJob; cases s.job n j <;> rfl
@[simp] theorem State.updJob_truss (s : State) (n j : Nat) (f : Job → Job) : (s.updJob n j f).truss = s.truss := by
  unfold State.updJob; cases s.job n j <;> rfl
@[simp] theorem State.updJob_pwr (s : State) (n j : Nat) (f : Job → Job) : (s.updJob n j f).pwr = s.pwr := by
  unfold State.updJob; cases s.job n j <;> rfl
@[simp] theorem State.updJob_boot (s : State) (n j : Nat) (f : Job → Job) : (s.updJob n j f).boot = s.boot := by
  unfold State.updJob; cases s.job n j <;> rfl
@[simp] theorem State.updJob_spdm (s : State) (n j : Nat) (f : Job → Job) : (s.updJob n j f).spdm = s.spdm := by
  unfold State.updJob; cases s.job n j <;> rfl
@[simp] theorem State.updJob_board (s : State) (n j : Nat) (f : Job → Job) : (s.updJob n j f).board = s.board := by
  unfold State.updJob; cases s.job n j <;> rfl
@[simp] theorem State.updJob_secure (s : State) (n j : Nat) (f : Job → Job) : (s.updJob n j f).secure = s.secure := by
  unfold State.updJob; cases s.job n j <;> rfl
@[simp] theorem State.updJob_free (s : State) (n j : Nat) (f : Job → Job) : (s.updJob n j f).free = s.free := by
  unfold State.updJob; cases s.job n j <;> rfl
@[simp] theorem State.updJob_vfEnable (s : State) (n j : Nat) (f : Job → Job) : (s.updJob n j f).vfEnable = s.vfEnable := by
  unfold State.updJob; cases s.job n j <;> rfl

/-! ## State.updSlot -/

@[simp] theorem State.updSlot_pending (s : State) (n j : Nat) (f : Slot → Slot) : (s.updSlot n j f).pending = s.pending := by
  unfold State.updSlot; cases s.slot n j <;> rfl
@[simp] theorem State.updSlot_grid_gangs (s : State) (n j : Nat) (f : Slot → Slot) : (s.updSlot n j f).grid.gangs = s.grid.gangs := by
  unfold State.updSlot; cases s.slot n j <;> rfl
@[simp] theorem State.updSlot_grid_shapes (s : State) (n j : Nat) (f : Slot → Slot) : (s.updSlot n j f).grid.shapes = s.grid.shapes := by
  unfold State.updSlot; cases s.slot n j <;> rfl
@[simp] theorem State.updSlot_grid_reshapes (s : State) (n j : Nat) (f : Slot → Slot) : (s.updSlot n j f).grid.reshapes = s.grid.reshapes := by
  unfold State.updSlot; cases s.slot n j <;> rfl
@[simp] theorem State.updSlot_grid_streams (s : State) (n j : Nat) (f : Slot → Slot) : (s.updSlot n j f).grid.streams = s.grid.streams := by
  unfold State.updSlot; cases s.slot n j <;> rfl
@[simp] theorem State.updSlot_grid_nextStream (s : State) (n j : Nat) (f : Slot → Slot) : (s.updSlot n j f).grid.nextStream = s.grid.nextStream := by
  unfold State.updSlot; cases s.slot n j <;> rfl
@[simp] theorem State.updSlot_grid_shadows (s : State) (n j : Nat) (f : Slot → Slot) : (s.updSlot n j f).grid.shadows = s.grid.shadows := by
  unfold State.updSlot; cases s.slot n j <;> rfl
@[simp] theorem State.updSlot_grid_nextShadow (s : State) (n j : Nat) (f : Slot → Slot) : (s.updSlot n j f).grid.nextShadow = s.grid.nextShadow := by
  unfold State.updSlot; cases s.slot n j <;> rfl
@[simp] theorem State.updSlot_grid_retires (s : State) (n j : Nat) (f : Slot → Slot) : (s.updSlot n j f).grid.retires = s.grid.retires := by
  unfold State.updSlot; cases s.slot n j <;> rfl
@[simp] theorem State.updSlot_grid_shadowStopped (s : State) (n j : Nat) (f : Slot → Slot) : (s.updSlot n j f).grid.shadowStopped = s.grid.shadowStopped := by
  unfold State.updSlot; cases s.slot n j <;> rfl
@[simp] theorem State.updSlot_courses (s : State) (n j : Nat) (f : Slot → Slot) : (s.updSlot n j f).courses = s.courses := by
  unfold State.updSlot; cases s.slot n j <;> rfl
@[simp] theorem State.updSlot_mem (s : State) (n j : Nat) (f : Slot → Slot) : (s.updSlot n j f).mem = s.mem := by
  unfold State.updSlot; cases s.slot n j <;> rfl
@[simp] theorem State.updSlot_tab (s : State) (n j : Nat) (f : Slot → Slot) : (s.updSlot n j f).tab = s.tab := by
  unfold State.updSlot; cases s.slot n j <;> rfl
@[simp] theorem State.updSlot_fns (s : State) (n j : Nat) (f : Slot → Slot) : (s.updSlot n j f).fns = s.fns := by
  unfold State.updSlot; cases s.slot n j <;> rfl
@[simp] theorem State.updSlot_engines (s : State) (n j : Nat) (f : Slot → Slot) : (s.updSlot n j f).engines = s.engines := by
  unfold State.updSlot; cases s.slot n j <;> rfl
@[simp] theorem State.updSlot_fab (s : State) (n j : Nat) (f : Slot → Slot) : (s.updSlot n j f).fab = s.fab := by
  unfold State.updSlot; cases s.slot n j <;> rfl
@[simp] theorem State.updSlot_truss (s : State) (n j : Nat) (f : Slot → Slot) : (s.updSlot n j f).truss = s.truss := by
  unfold State.updSlot; cases s.slot n j <;> rfl
@[simp] theorem State.updSlot_pwr (s : State) (n j : Nat) (f : Slot → Slot) : (s.updSlot n j f).pwr = s.pwr := by
  unfold State.updSlot; cases s.slot n j <;> rfl
@[simp] theorem State.updSlot_boot (s : State) (n j : Nat) (f : Slot → Slot) : (s.updSlot n j f).boot = s.boot := by
  unfold State.updSlot; cases s.slot n j <;> rfl
@[simp] theorem State.updSlot_spdm (s : State) (n j : Nat) (f : Slot → Slot) : (s.updSlot n j f).spdm = s.spdm := by
  unfold State.updSlot; cases s.slot n j <;> rfl
@[simp] theorem State.updSlot_board (s : State) (n j : Nat) (f : Slot → Slot) : (s.updSlot n j f).board = s.board := by
  unfold State.updSlot; cases s.slot n j <;> rfl
@[simp] theorem State.updSlot_secure (s : State) (n j : Nat) (f : Slot → Slot) : (s.updSlot n j f).secure = s.secure := by
  unfold State.updSlot; cases s.slot n j <;> rfl
@[simp] theorem State.updSlot_free (s : State) (n j : Nat) (f : Slot → Slot) : (s.updSlot n j f).free = s.free := by
  unfold State.updSlot; cases s.slot n j <;> rfl
@[simp] theorem State.updSlot_vfEnable (s : State) (n j : Nat) (f : Slot → Slot) : (s.updSlot n j f).vfEnable = s.vfEnable := by
  unfold State.updSlot; cases s.slot n j <;> rfl

/-! ## State.tick -/

@[simp] theorem State.tick_pending (s : State) : s.tick.pending = s.pending := rfl
@[simp] theorem State.tick_grid (s : State) : s.tick.grid = s.grid := rfl
@[simp] theorem State.tick_courses (s : State) : s.tick.courses = s.courses := rfl
@[simp] theorem State.tick_mem (s : State) : s.tick.mem = s.mem := rfl
@[simp] theorem State.tick_tab_spars (s : State) : s.tick.tab.spars = s.tab.spars := rfl
@[simp] theorem State.tick_tab_ctxs (s : State) : s.tick.tab.ctxs = s.tab.ctxs := rfl
@[simp] theorem State.tick_fns (s : State) : s.tick.fns = s.fns := rfl
@[simp] theorem State.tick_engines (s : State) : s.tick.engines = s.engines := rfl
@[simp] theorem State.tick_fab (s : State) : s.tick.fab = s.fab := rfl
@[simp] theorem State.tick_truss (s : State) : s.tick.truss = s.truss := rfl
@[simp] theorem State.tick_pwr (s : State) : s.tick.pwr = s.pwr := rfl
@[simp] theorem State.tick_boot (s : State) : s.tick.boot = s.boot := rfl
@[simp] theorem State.tick_spdm (s : State) : s.tick.spdm = s.spdm := rfl
@[simp] theorem State.tick_board (s : State) : s.tick.board = s.board := rfl
@[simp] theorem State.tick_secure (s : State) : s.tick.secure = s.secure := rfl
@[simp] theorem State.tick_free (s : State) : s.tick.free = s.free := rfl
@[simp] theorem State.tick_vfEnable (s : State) : s.tick.vfEnable = s.vfEnable := rfl

/-! ## State.setMem -/

@[simp] theorem State.setMem_pending (s : State) (m : Memory) : (s.setMem m).pending = s.pending := rfl
@[simp] theorem State.setMem_grid (s : State) (m : Memory) : (s.setMem m).grid = s.grid := rfl
@[simp] theorem State.setMem_courses (s : State) (m : Memory) : (s.setMem m).courses = s.courses := rfl
@[simp] theorem State.setMem_mem_dlines (s : State) (m : Memory) : (s.setMem m).mem.dlines = s.mem.dlines := rfl
@[simp] theorem State.setMem_mem_misses (s : State) (m : Memory) : (s.setMem m).mem.misses = s.mem.misses := rfl
@[simp] theorem State.setMem_mem_seqs (s : State) (m : Memory) : (s.setMem m).mem.seqs = s.mem.seqs := rfl
@[simp] theorem State.setMem_mem_reqs (s : State) (m : Memory) : (s.setMem m).mem.reqs = s.mem.reqs := rfl
@[simp] theorem State.setMem_mem_retries (s : State) (m : Memory) : (s.setMem m).mem.retries = s.mem.retries := rfl
@[simp] theorem State.setMem_mem_nextTag (s : State) (m : Memory) : (s.setMem m).mem.nextTag = s.mem.nextTag := rfl
@[simp] theorem State.setMem_mem_chanCap (s : State) (m : Memory) : (s.setMem m).mem.chanCap = s.mem.chanCap := rfl
@[simp] theorem State.setMem_mem_badUnits (s : State) (m : Memory) : (s.setMem m).mem.badUnits = s.mem.badUnits := rfl
@[simp] theorem State.setMem_mem_scrubH (s : State) (m : Memory) : (s.setMem m).mem.scrubH = s.mem.scrubH := rfl
@[simp] theorem State.setMem_mem_snoop (s : State) (m : Memory) : (s.setMem m).mem.snoop = s.mem.snoop := rfl
@[simp] theorem State.setMem_mem_cxlAns (s : State) (m : Memory) : (s.setMem m).mem.cxlAns = s.mem.cxlAns := rfl
@[simp] theorem State.setMem_mem_hostCells (s : State) (m : Memory) : (s.setMem m).mem.hostCells = s.mem.hostCells := rfl
@[simp] theorem State.setMem_mem_hostPoison (s : State) (m : Memory) : (s.setMem m).mem.hostPoison = s.mem.hostPoison := rfl
@[simp] theorem State.setMem_mem_stackGB (s : State) (m : Memory) : (s.setMem m).mem.stackGB = s.mem.stackGB := rfl
@[simp] theorem State.setMem_tab (s : State) (m : Memory) : (s.setMem m).tab = s.tab := rfl
@[simp] theorem State.setMem_fns (s : State) (m : Memory) : (s.setMem m).fns = s.fns := rfl
@[simp] theorem State.setMem_engines (s : State) (m : Memory) : (s.setMem m).engines = s.engines := rfl
@[simp] theorem State.setMem_fab (s : State) (m : Memory) : (s.setMem m).fab = s.fab := rfl
@[simp] theorem State.setMem_truss (s : State) (m : Memory) : (s.setMem m).truss = s.truss := rfl
@[simp] theorem State.setMem_pwr (s : State) (m : Memory) : (s.setMem m).pwr = s.pwr := rfl
@[simp] theorem State.setMem_boot (s : State) (m : Memory) : (s.setMem m).boot = s.boot := rfl
@[simp] theorem State.setMem_spdm (s : State) (m : Memory) : (s.setMem m).spdm = s.spdm := rfl
@[simp] theorem State.setMem_board (s : State) (m : Memory) : (s.setMem m).board = s.board := rfl
@[simp] theorem State.setMem_secure (s : State) (m : Memory) : (s.setMem m).secure = s.secure := rfl
@[simp] theorem State.setMem_free (s : State) (m : Memory) : (s.setMem m).free = s.free := rfl
@[simp] theorem State.setMem_vfEnable (s : State) (m : Memory) : (s.setMem m).vfEnable = s.vfEnable := rfl

/-! ## State.setLine -/

@[simp] theorem State.setLine_pending (s : State) (n : Nat) (l : DLine) : (s.setLine n l).pending = s.pending := rfl
@[simp] theorem State.setLine_grid (s : State) (n : Nat) (l : DLine) : (s.setLine n l).grid = s.grid := rfl
@[simp] theorem State.setLine_courses (s : State) (n : Nat) (l : DLine) : (s.setLine n l).courses = s.courses := rfl
@[simp] theorem State.setLine_mem_mem (s : State) (n : Nat) (l : DLine) : (s.setLine n l).mem.mem = s.mem.mem := rfl
@[simp] theorem State.setLine_mem_misses (s : State) (n : Nat) (l : DLine) : (s.setLine n l).mem.misses = s.mem.misses := rfl
@[simp] theorem State.setLine_mem_seqs (s : State) (n : Nat) (l : DLine) : (s.setLine n l).mem.seqs = s.mem.seqs := rfl
@[simp] theorem State.setLine_mem_reqs (s : State) (n : Nat) (l : DLine) : (s.setLine n l).mem.reqs = s.mem.reqs := rfl
@[simp] theorem State.setLine_mem_retries (s : State) (n : Nat) (l : DLine) : (s.setLine n l).mem.retries = s.mem.retries := rfl
@[simp] theorem State.setLine_mem_nextTag (s : State) (n : Nat) (l : DLine) : (s.setLine n l).mem.nextTag = s.mem.nextTag := rfl
@[simp] theorem State.setLine_mem_chanCap (s : State) (n : Nat) (l : DLine) : (s.setLine n l).mem.chanCap = s.mem.chanCap := rfl
@[simp] theorem State.setLine_mem_badUnits (s : State) (n : Nat) (l : DLine) : (s.setLine n l).mem.badUnits = s.mem.badUnits := rfl
@[simp] theorem State.setLine_mem_scrubH (s : State) (n : Nat) (l : DLine) : (s.setLine n l).mem.scrubH = s.mem.scrubH := rfl
@[simp] theorem State.setLine_mem_snoop (s : State) (n : Nat) (l : DLine) : (s.setLine n l).mem.snoop = s.mem.snoop := rfl
@[simp] theorem State.setLine_mem_cxlAns (s : State) (n : Nat) (l : DLine) : (s.setLine n l).mem.cxlAns = s.mem.cxlAns := rfl
@[simp] theorem State.setLine_mem_hostCells (s : State) (n : Nat) (l : DLine) : (s.setLine n l).mem.hostCells = s.mem.hostCells := rfl
@[simp] theorem State.setLine_mem_hostPoison (s : State) (n : Nat) (l : DLine) : (s.setLine n l).mem.hostPoison = s.mem.hostPoison := rfl
@[simp] theorem State.setLine_mem_stackGB (s : State) (n : Nat) (l : DLine) : (s.setLine n l).mem.stackGB = s.mem.stackGB := rfl
@[simp] theorem State.setLine_tab (s : State) (n : Nat) (l : DLine) : (s.setLine n l).tab = s.tab := rfl
@[simp] theorem State.setLine_fns (s : State) (n : Nat) (l : DLine) : (s.setLine n l).fns = s.fns := rfl
@[simp] theorem State.setLine_engines (s : State) (n : Nat) (l : DLine) : (s.setLine n l).engines = s.engines := rfl
@[simp] theorem State.setLine_fab (s : State) (n : Nat) (l : DLine) : (s.setLine n l).fab = s.fab := rfl
@[simp] theorem State.setLine_truss (s : State) (n : Nat) (l : DLine) : (s.setLine n l).truss = s.truss := rfl
@[simp] theorem State.setLine_pwr (s : State) (n : Nat) (l : DLine) : (s.setLine n l).pwr = s.pwr := rfl
@[simp] theorem State.setLine_boot (s : State) (n : Nat) (l : DLine) : (s.setLine n l).boot = s.boot := rfl
@[simp] theorem State.setLine_spdm (s : State) (n : Nat) (l : DLine) : (s.setLine n l).spdm = s.spdm := rfl
@[simp] theorem State.setLine_board (s : State) (n : Nat) (l : DLine) : (s.setLine n l).board = s.board := rfl
@[simp] theorem State.setLine_secure (s : State) (n : Nat) (l : DLine) : (s.setLine n l).secure = s.secure := rfl
@[simp] theorem State.setLine_free (s : State) (n : Nat) (l : DLine) : (s.setLine n l).free = s.free := rfl
@[simp] theorem State.setLine_vfEnable (s : State) (n : Nat) (l : DLine) : (s.setLine n l).vfEnable = s.vfEnable := rfl

/-! ## State.dropLine -/

@[simp] theorem State.dropLine_pending (s : State) (n : Nat) : (s.dropLine n).pending = s.pending := rfl
@[simp] theorem State.dropLine_grid (s : State) (n : Nat) : (s.dropLine n).grid = s.grid := rfl
@[simp] theorem State.dropLine_courses (s : State) (n : Nat) : (s.dropLine n).courses = s.courses := rfl
@[simp] theorem State.dropLine_mem_mem (s : State) (n : Nat) : (s.dropLine n).mem.mem = s.mem.mem := rfl
@[simp] theorem State.dropLine_mem_misses (s : State) (n : Nat) : (s.dropLine n).mem.misses = s.mem.misses := rfl
@[simp] theorem State.dropLine_mem_seqs (s : State) (n : Nat) : (s.dropLine n).mem.seqs = s.mem.seqs := rfl
@[simp] theorem State.dropLine_mem_reqs (s : State) (n : Nat) : (s.dropLine n).mem.reqs = s.mem.reqs := rfl
@[simp] theorem State.dropLine_mem_retries (s : State) (n : Nat) : (s.dropLine n).mem.retries = s.mem.retries := rfl
@[simp] theorem State.dropLine_mem_nextTag (s : State) (n : Nat) : (s.dropLine n).mem.nextTag = s.mem.nextTag := rfl
@[simp] theorem State.dropLine_mem_chanCap (s : State) (n : Nat) : (s.dropLine n).mem.chanCap = s.mem.chanCap := rfl
@[simp] theorem State.dropLine_mem_badUnits (s : State) (n : Nat) : (s.dropLine n).mem.badUnits = s.mem.badUnits := rfl
@[simp] theorem State.dropLine_mem_scrubH (s : State) (n : Nat) : (s.dropLine n).mem.scrubH = s.mem.scrubH := rfl
@[simp] theorem State.dropLine_mem_snoop (s : State) (n : Nat) : (s.dropLine n).mem.snoop = s.mem.snoop := rfl
@[simp] theorem State.dropLine_mem_cxlAns (s : State) (n : Nat) : (s.dropLine n).mem.cxlAns = s.mem.cxlAns := rfl
@[simp] theorem State.dropLine_mem_hostCells (s : State) (n : Nat) : (s.dropLine n).mem.hostCells = s.mem.hostCells := rfl
@[simp] theorem State.dropLine_mem_hostPoison (s : State) (n : Nat) : (s.dropLine n).mem.hostPoison = s.mem.hostPoison := rfl
@[simp] theorem State.dropLine_mem_stackGB (s : State) (n : Nat) : (s.dropLine n).mem.stackGB = s.mem.stackGB := rfl
@[simp] theorem State.dropLine_tab (s : State) (n : Nat) : (s.dropLine n).tab = s.tab := rfl
@[simp] theorem State.dropLine_fns (s : State) (n : Nat) : (s.dropLine n).fns = s.fns := rfl
@[simp] theorem State.dropLine_engines (s : State) (n : Nat) : (s.dropLine n).engines = s.engines := rfl
@[simp] theorem State.dropLine_fab (s : State) (n : Nat) : (s.dropLine n).fab = s.fab := rfl
@[simp] theorem State.dropLine_truss (s : State) (n : Nat) : (s.dropLine n).truss = s.truss := rfl
@[simp] theorem State.dropLine_pwr (s : State) (n : Nat) : (s.dropLine n).pwr = s.pwr := rfl
@[simp] theorem State.dropLine_boot (s : State) (n : Nat) : (s.dropLine n).boot = s.boot := rfl
@[simp] theorem State.dropLine_spdm (s : State) (n : Nat) : (s.dropLine n).spdm = s.spdm := rfl
@[simp] theorem State.dropLine_board (s : State) (n : Nat) : (s.dropLine n).board = s.board := rfl
@[simp] theorem State.dropLine_secure (s : State) (n : Nat) : (s.dropLine n).secure = s.secure := rfl
@[simp] theorem State.dropLine_free (s : State) (n : Nat) : (s.dropLine n).free = s.free := rfl
@[simp] theorem State.dropLine_vfEnable (s : State) (n : Nat) : (s.dropLine n).vfEnable = s.vfEnable := rfl

/-! ## State.setHusks -/

@[simp] theorem State.setHusks_pending (s : State) (ws : List Nat) (h : Bool) : (s.setHusks ws h).pending = s.pending := rfl
@[simp] theorem State.setHusks_grid (s : State) (ws : List Nat) (h : Bool) : (s.setHusks ws h).grid = s.grid := rfl
@[simp] theorem State.setHusks_courses (s : State) (ws : List Nat) (h : Bool) : (s.setHusks ws h).courses = s.courses := rfl
@[simp] theorem State.setHusks_mem_dlines (s : State) (ws : List Nat) (h : Bool) : (s.setHusks ws h).mem.dlines = s.mem.dlines := rfl
@[simp] theorem State.setHusks_mem_misses (s : State) (ws : List Nat) (h : Bool) : (s.setHusks ws h).mem.misses = s.mem.misses := rfl
@[simp] theorem State.setHusks_mem_seqs (s : State) (ws : List Nat) (h : Bool) : (s.setHusks ws h).mem.seqs = s.mem.seqs := rfl
@[simp] theorem State.setHusks_mem_reqs (s : State) (ws : List Nat) (h : Bool) : (s.setHusks ws h).mem.reqs = s.mem.reqs := rfl
@[simp] theorem State.setHusks_mem_retries (s : State) (ws : List Nat) (h : Bool) : (s.setHusks ws h).mem.retries = s.mem.retries := rfl
@[simp] theorem State.setHusks_mem_nextTag (s : State) (ws : List Nat) (h : Bool) : (s.setHusks ws h).mem.nextTag = s.mem.nextTag := rfl
@[simp] theorem State.setHusks_mem_chanCap (s : State) (ws : List Nat) (h : Bool) : (s.setHusks ws h).mem.chanCap = s.mem.chanCap := rfl
@[simp] theorem State.setHusks_mem_badUnits (s : State) (ws : List Nat) (h : Bool) : (s.setHusks ws h).mem.badUnits = s.mem.badUnits := rfl
@[simp] theorem State.setHusks_mem_scrubH (s : State) (ws : List Nat) (h : Bool) : (s.setHusks ws h).mem.scrubH = s.mem.scrubH := rfl
@[simp] theorem State.setHusks_mem_snoop (s : State) (ws : List Nat) (h : Bool) : (s.setHusks ws h).mem.snoop = s.mem.snoop := rfl
@[simp] theorem State.setHusks_mem_cxlAns (s : State) (ws : List Nat) (h : Bool) : (s.setHusks ws h).mem.cxlAns = s.mem.cxlAns := rfl
@[simp] theorem State.setHusks_mem_hostCells (s : State) (ws : List Nat) (h : Bool) : (s.setHusks ws h).mem.hostCells = s.mem.hostCells := rfl
@[simp] theorem State.setHusks_mem_hostPoison (s : State) (ws : List Nat) (h : Bool) : (s.setHusks ws h).mem.hostPoison = s.mem.hostPoison := rfl
@[simp] theorem State.setHusks_mem_stackGB (s : State) (ws : List Nat) (h : Bool) : (s.setHusks ws h).mem.stackGB = s.mem.stackGB := rfl
@[simp] theorem State.setHusks_tab (s : State) (ws : List Nat) (h : Bool) : (s.setHusks ws h).tab = s.tab := rfl
@[simp] theorem State.setHusks_fns (s : State) (ws : List Nat) (h : Bool) : (s.setHusks ws h).fns = s.fns := rfl
@[simp] theorem State.setHusks_engines (s : State) (ws : List Nat) (h : Bool) : (s.setHusks ws h).engines = s.engines := rfl
@[simp] theorem State.setHusks_fab (s : State) (ws : List Nat) (h : Bool) : (s.setHusks ws h).fab = s.fab := rfl
@[simp] theorem State.setHusks_truss (s : State) (ws : List Nat) (h : Bool) : (s.setHusks ws h).truss = s.truss := rfl
@[simp] theorem State.setHusks_pwr (s : State) (ws : List Nat) (h : Bool) : (s.setHusks ws h).pwr = s.pwr := rfl
@[simp] theorem State.setHusks_boot (s : State) (ws : List Nat) (h : Bool) : (s.setHusks ws h).boot = s.boot := rfl
@[simp] theorem State.setHusks_spdm (s : State) (ws : List Nat) (h : Bool) : (s.setHusks ws h).spdm = s.spdm := rfl
@[simp] theorem State.setHusks_board (s : State) (ws : List Nat) (h : Bool) : (s.setHusks ws h).board = s.board := rfl
@[simp] theorem State.setHusks_secure (s : State) (ws : List Nat) (h : Bool) : (s.setHusks ws h).secure = s.secure := rfl
@[simp] theorem State.setHusks_free (s : State) (ws : List Nat) (h : Bool) : (s.setHusks ws h).free = s.free := rfl
@[simp] theorem State.setHusks_vfEnable (s : State) (ws : List Nat) (h : Bool) : (s.setHusks ws h).vfEnable = s.vfEnable := rfl

/-! ## State.unsnoop -/

@[simp] theorem State.unsnoop_pending (s : State) (a len : Nat) : (s.unsnoop a len).pending = s.pending := rfl
@[simp] theorem State.unsnoop_grid (s : State) (a len : Nat) : (s.unsnoop a len).grid = s.grid := rfl
@[simp] theorem State.unsnoop_courses (s : State) (a len : Nat) : (s.unsnoop a len).courses = s.courses := rfl
@[simp] theorem State.unsnoop_mem_mem (s : State) (a len : Nat) : (s.unsnoop a len).mem.mem = s.mem.mem := rfl
@[simp] theorem State.unsnoop_mem_dlines (s : State) (a len : Nat) : (s.unsnoop a len).mem.dlines = s.mem.dlines := rfl
@[simp] theorem State.unsnoop_mem_misses (s : State) (a len : Nat) : (s.unsnoop a len).mem.misses = s.mem.misses := rfl
@[simp] theorem State.unsnoop_mem_seqs (s : State) (a len : Nat) : (s.unsnoop a len).mem.seqs = s.mem.seqs := rfl
@[simp] theorem State.unsnoop_mem_reqs (s : State) (a len : Nat) : (s.unsnoop a len).mem.reqs = s.mem.reqs := rfl
@[simp] theorem State.unsnoop_mem_retries (s : State) (a len : Nat) : (s.unsnoop a len).mem.retries = s.mem.retries := rfl
@[simp] theorem State.unsnoop_mem_nextTag (s : State) (a len : Nat) : (s.unsnoop a len).mem.nextTag = s.mem.nextTag := rfl
@[simp] theorem State.unsnoop_mem_chanCap (s : State) (a len : Nat) : (s.unsnoop a len).mem.chanCap = s.mem.chanCap := rfl
@[simp] theorem State.unsnoop_mem_badUnits (s : State) (a len : Nat) : (s.unsnoop a len).mem.badUnits = s.mem.badUnits := rfl
@[simp] theorem State.unsnoop_mem_scrubH (s : State) (a len : Nat) : (s.unsnoop a len).mem.scrubH = s.mem.scrubH := rfl
@[simp] theorem State.unsnoop_mem_cxlAns (s : State) (a len : Nat) : (s.unsnoop a len).mem.cxlAns = s.mem.cxlAns := rfl
@[simp] theorem State.unsnoop_mem_hostCells (s : State) (a len : Nat) : (s.unsnoop a len).mem.hostCells = s.mem.hostCells := rfl
@[simp] theorem State.unsnoop_mem_hostPoison (s : State) (a len : Nat) : (s.unsnoop a len).mem.hostPoison = s.mem.hostPoison := rfl
@[simp] theorem State.unsnoop_mem_stackGB (s : State) (a len : Nat) : (s.unsnoop a len).mem.stackGB = s.mem.stackGB := rfl
@[simp] theorem State.unsnoop_tab (s : State) (a len : Nat) : (s.unsnoop a len).tab = s.tab := rfl
@[simp] theorem State.unsnoop_fns (s : State) (a len : Nat) : (s.unsnoop a len).fns = s.fns := rfl
@[simp] theorem State.unsnoop_engines (s : State) (a len : Nat) : (s.unsnoop a len).engines = s.engines := rfl
@[simp] theorem State.unsnoop_fab (s : State) (a len : Nat) : (s.unsnoop a len).fab = s.fab := rfl
@[simp] theorem State.unsnoop_truss (s : State) (a len : Nat) : (s.unsnoop a len).truss = s.truss := rfl
@[simp] theorem State.unsnoop_pwr (s : State) (a len : Nat) : (s.unsnoop a len).pwr = s.pwr := rfl
@[simp] theorem State.unsnoop_boot (s : State) (a len : Nat) : (s.unsnoop a len).boot = s.boot := rfl
@[simp] theorem State.unsnoop_spdm (s : State) (a len : Nat) : (s.unsnoop a len).spdm = s.spdm := rfl
@[simp] theorem State.unsnoop_board (s : State) (a len : Nat) : (s.unsnoop a len).board = s.board := rfl
@[simp] theorem State.unsnoop_secure (s : State) (a len : Nat) : (s.unsnoop a len).secure = s.secure := rfl
@[simp] theorem State.unsnoop_free (s : State) (a len : Nat) : (s.unsnoop a len).free = s.free := rfl
@[simp] theorem State.unsnoop_vfEnable (s : State) (a len : Nat) : (s.unsnoop a len).vfEnable = s.vfEnable := rfl

/-! ## The unit that an update changes -/

theorem State.fn_updFn (s : State) (n k : Nat) (f : Fn → Fn) : (s.updFn n f).fn k = if k = n then f (s.fn n) else s.fn k := by
  unfold State.updFn State.fn; exact Map.getD_upd _ _ _ _ _
@[simp] theorem State.fn_updFn_self (s : State) (n : Nat) (f : Fn → Fn) : (s.updFn n f).fn n = f (s.fn n) := by
  rw [State.fn_updFn, if_pos rfl]
theorem State.course_updCourse (s : State) (n k : Nat) (f : Course → Course) : (s.updCourse n f).course k = if k = n then f (s.course n) else s.course k := by
  unfold State.updCourse State.course; exact Map.getD_upd _ _ _ _ _
@[simp] theorem State.course_updCourse_self (s : State) (n : Nat) (f : Course → Course) : (s.updCourse n f).course n = f (s.course n) := by
  rw [State.course_updCourse, if_pos rfl]
theorem State.ctx_updCtx (s : State) (n k : Nat) (f : Ctx → Ctx) : (s.updCtx n f).ctx k = if k = n then f (s.ctx n) else s.ctx k := by
  unfold State.updCtx State.ctx; exact Map.getD_upd _ _ _ _ _
@[simp] theorem State.ctx_updCtx_self (s : State) (n : Nat) (f : Ctx → Ctx) : (s.updCtx n f).ctx n = f (s.ctx n) := by
  rw [State.ctx_updCtx, if_pos rfl]
theorem State.gang_updGang (s : State) (n k : Nat) (f : Gang → Gang) : (s.updGang n f).gang k = if k = n then f (s.gang n) else s.gang k := by
  unfold State.updGang State.gang; exact Map.getD_upd _ _ _ _ _
@[simp] theorem State.gang_updGang_self (s : State) (n : Nat) (f : Gang → Gang) : (s.updGang n f).gang n = f (s.gang n) := by
  rw [State.gang_updGang, if_pos rfl]
theorem State.spar_updSpar (s : State) (n k : Nat) (f : Spar → Spar) : (s.updSpar n f).spar k = if k = n then f (s.spar n) else s.spar k := by
  unfold State.updSpar State.spar; exact Map.getD_upd _ _ _ _ _
@[simp] theorem State.spar_updSpar_self (s : State) (n : Nat) (f : Spar → Spar) : (s.updSpar n f).spar n = f (s.spar n) := by
  rw [State.spar_updSpar, if_pos rfl]
theorem State.port_updPort (s : State) (n k : Nat) (f : Port → Port) : (s.updPort n f).port k = if k = n then f (s.port n) else s.port k := by
  unfold State.updPort State.port; exact Map.getD_upd _ _ _ _ _
@[simp] theorem State.port_updPort_self (s : State) (n : Nat) (f : Port → Port) : (s.updPort n f).port n = f (s.port n) := by
  rw [State.port_updPort, if_pos rfl]
theorem State.engine_updEngine (s : State) (n k : Nat) (f : Engine → Engine) : (s.updEngine n f).engine k = if k = n then f (s.engine n) else s.engine k := by
  unfold State.updEngine State.engine; exact Map.getD_upd _ _ _ _ _
@[simp] theorem State.engine_updEngine_self (s : State) (n : Nat) (f : Engine → Engine) : (s.updEngine n f).engine n = f (s.engine n) := by
  rw [State.engine_updEngine, if_pos rfl]

end Sys2Proof.Machine
end

