-- ==== Sys2Proof/Laws/Memory.lean ====
section
/-! SUPPORT. Every operation over memory keeps its canonical form, and reset has it. -/

namespace Sys2Proof.Machine

/-! ## Rising sets and maps -/

theorem risingSet_iff (l : List Nat) : risingSet l = true ↔ l.Pairwise (· < ·) := by
  induction l with
  | nil => simp [risingSet]
  | cons a l ih =>
    cases l with
    | nil => simp [risingSet]
    | cons b l =>
      simp only [risingSet, Bool.and_eq_true, decide_eq_true_eq, ih]
      constructor
      · rintro ⟨h, hl⟩
        refine List.pairwise_cons.2 ⟨fun x hx => ?_, hl⟩
        rcases List.mem_cons.1 hx with rfl | hx
        · exact h
        · exact Nat.lt_trans h ((List.pairwise_cons.1 hl).1 x hx)
      · intro h
        obtain ⟨ha, hl⟩ := List.pairwise_cons.1 h
        exact ⟨ha b (List.mem_cons_self ..), hl⟩

theorem rising_iff {α : Type} (m : Map α) : Map.rising m = true ↔ m.Pairwise (fun x y => x.1 < y.1) := by
  induction m with
  | nil => simp [Map.rising]
  | cons x m ih =>
    obtain ⟨k, a⟩ := x
    constructor
    · intro h
      obtain ⟨hm, hl⟩ := Map.rising_cons h
      exact List.pairwise_cons.2 ⟨hl, ih.1 hm⟩
    · intro h
      obtain ⟨ha, hl⟩ := List.pairwise_cons.1 h
      exact Map.rising_of_lt (ih.2 hl) ha

theorem rising_filter {α : Type} {m : Map α} (h : Map.rising m = true) (p : Nat × α → Bool) : Map.rising (m.filter p) = true :=
  (rising_iff _).2 (((rising_iff _).1 h).filter p)

theorem risingSet_filter {l : List Nat} (h : risingSet l = true) (p : Nat → Bool) : risingSet (l.filter p) = true :=
  (risingSet_iff _).2 (((risingSet_iff _).1 h).filter p)

theorem mem_insSet {l : List Nat} {n x : Nat} : x ∈ insSet l n ↔ x = n ∨ x ∈ l := by
  induction l with
  | nil => simp [insSet]
  | cons k l ih => grind [insSet]

theorem risingSet_insSet {l : List Nat} (h : risingSet l = true) (n : Nat) : risingSet (insSet l n) = true := by
  rw [risingSet_iff] at *
  induction l with
  | nil => simp [insSet]
  | cons k l ih =>
    obtain ⟨hk, hl⟩ := List.pairwise_cons.1 h
    unfold insSet
    split
    · refine List.pairwise_cons.2 ⟨fun x hx => ?_, h⟩
      rcases List.mem_cons.1 hx with rfl | hx
      · assumption
      · exact Nat.lt_trans (by assumption) (hk x hx)
    · split
      · exact h
      · refine List.pairwise_cons.2 ⟨fun x hx => ?_, ih hl⟩
        rcases mem_insSet.1 hx with rfl | hx
        · omega
        · exact hk x hx

/-! ## Memory -/

/-- The canonical form, field by field. -/
theorem Memory.wf_iff (m : Memory) : m.wf = true ↔
    Map.rising m.cells = true ∧ (∀ c ∈ m.cells, isDdr c.1 = true ∨ c.2 ≠ 0) ∧ risingSet m.husks = true ∧ Map.rising m.metas = true := by
  simp [Memory.wf, and_assoc]

theorem Memory.put_wf {m : Memory} (h : m.wf = true) (a : Nat) (b : Byte) : (m.put a b).wf = true := by
  obtain ⟨hc, hz, hh, hm⟩ := (Memory.wf_iff _).1 h
  refine (Memory.wf_iff _).2 ⟨?_, ?_, hh, hm⟩
  · simp only [Memory.put]; split
    · exact Map.put_rising hc _ _
    · exact Map.del_rising hc _
  · intro c hx
    simp only [Memory.put] at hx
    split at hx
    · rename_i hb
      rcases Map.mem_put hx with rfl | hx
      · simpa using hb
      · exact hz c hx
    · exact hz c (Map.mem_of_mem_del hx)

theorem Memory.forget_wf {m : Memory} (h : m.wf = true) (a n : Nat) : (m.forget a n).wf = true := by
  induction n generalizing m a with
  | zero => exact h
  | succ n ih =>
    obtain ⟨hc, hz, hh, hm⟩ := (Memory.wf_iff _).1 h
    have hw : Memory.wf { m with cells := Map.del m.cells a } = true :=
      (Memory.wf_iff _).2 ⟨Map.del_rising hc a, fun c hx => hz c (Map.mem_of_mem_del hx), hh, hm⟩
    exact ih hw _

theorem Memory.setHusk_wf {m : Memory} (h : m.wf = true) (w : Nat) (b : Bool) : (m.setHusk w b).wf = true := by
  obtain ⟨hc, hz, hh, hm⟩ := (Memory.wf_iff _).1 h
  refine (Memory.wf_iff _).2 ⟨hc, hz, ?_, hm⟩
  simp only [Memory.setHusk]; split
  · exact risingSet_insSet hh _
  · exact risingSet_filter hh _

/-- Memory of which some bytes, husks and bursts are gone. -/
theorem Memory.filter_wf {m : Memory} (h : m.wf = true) (p : Host.Cell → Bool) (q : Nat → Bool) :
    Memory.wf { m with cells := m.cells.filter p, husks := m.husks.filter q } = true := by
  obtain ⟨hc, hz, hh, hm⟩ := (Memory.wf_iff _).1 h
  exact (Memory.wf_iff _).2 ⟨rising_filter hc p, fun c hx => hz c (List.mem_filter.1 hx).1, risingSet_filter hh q, hm⟩

theorem State.burst_wf {s : State} (h : s.mem.mem.wf = true) (a : Nat) (gp : Option (Nat × Nat)) : (s.burst a gp).mem.mem.wf = true := by
  unfold State.burst
  split
  · have hf : (if s.keyFits a then s.mem.mem else s.mem.mem.forget (a / 64 * 64) 64).wf = true := by
      split
      · exact h
      · exact Memory.forget_wf h _ _
    obtain ⟨hc, hz, hh, hm⟩ := (Memory.wf_iff _).1 hf
    exact (Memory.wf_iff _).2 ⟨hc, hz, hh, Map.put_rising hm _ _⟩
  · exact h

theorem State.memPut_wf {s : State} (h : s.mem.mem.wf = true) (a : Nat) (b : Byte) (gp : Option (Nat × Nat)) :
    (s.memPut a b gp).mem.mem.wf = true := Memory.setHusk_wf (Memory.put_wf (State.burst_wf h _ _) _ _) _ _

theorem State.memPutList_wf {s : State} (h : s.mem.mem.wf = true) (gp : Option (Nat × Nat)) (a : Nat) (bs : List Byte) :
    (s.memPutList gp a bs).mem.mem.wf = true := by
  induction bs generalizing s a with
  | nil => exact h
  | cons b bs ih => exact ih (State.memPut_wf h _ _ _) _

theorem State.setHusks_wf {s : State} (h : s.mem.mem.wf = true) (ws : List Nat) (b : Bool) : (s.setHusks ws b).mem.mem.wf = true := by
  show (ws.foldl (fun m w => m.setHusk w b) s.mem.mem).wf = true
  generalize s.mem.mem = m at h
  induction ws generalizing m with
  | nil => exact h
  | cons w ws ih => exact ih _ (Memory.setHusk_wf h _ _)

theorem State.memWrite_wf {s : State} (h : s.mem.mem.wf = true) (a : Nat) (bs : List Byte) (gp : Option (Nat × Nat)) :
    (s.memWrite a bs gp).mem.mem.wf = true := State.setHusks_wf (State.memPutList_wf h _ _ _) _ _

/-- A fold of operations that each keep the canonical form keeps it. -/
theorem State.foldl_wf {α : Type} (f : State → α → State) (hf : ∀ t x, t.mem.mem.wf = true → (f t x).mem.mem.wf = true)
    (l : List α) {s : State} (h : s.mem.mem.wf = true) : (l.foldl f s).mem.mem.wf = true := by
  induction l generalizing s with
  | nil => exact h
  | cons x l ih => exact ih (hf _ _ h)

theorem State.writeBack_wf {s : State} (h : s.mem.mem.wf = true) (n : Nat) : (s.writeBack n).mem.mem.wf = true := by
  unfold State.writeBack
  split
  · exact h
  · split
    · exact h
    · exact State.foldl_wf _ (fun _ _ h => State.setHusks_wf h _ _) _ (State.foldl_wf _ (fun _ _ h => State.memPut_wf h _ _ _) _ h)

theorem State.enterLine_wf {s : State} (h : s.mem.mem.wf = true) (part n hint : Nat) (r : Option (Nat × Nat)) :
    (s.enterLine part n hint r).mem.mem.wf = true := by
  simp only [State.enterLine]
  split
  · exact h
  · split
    · exact h
    · split
      · exact h
      · split
        · exact State.writeBack_wf h _
        · exact h

theorem State.poke_wf {s : State} (h : s.mem.mem.wf = true) (a : Nat) (b : Byte) : (s.poke a b).mem.mem.wf = true := by
  unfold State.poke
  split
  · exact h
  · exact State.memPut_wf h _ _ _

theorem State.pokeList_wf {s : State} (h : s.mem.mem.wf = true) (a : Nat) (bs : List Byte) : (s.pokeList a bs).mem.mem.wf = true := by
  induction bs generalizing s a with
  | nil => exact h
  | cons b bs ih => exact ih (State.poke_wf h _ _) _

theorem State.pokeHusk_wf {s : State} (h : s.mem.mem.wf = true) (w : Nat) (b : Bool) : (s.pokeHusk w b).mem.mem.wf = true := by
  unfold State.pokeHusk
  split
  · exact h
  · exact State.setHusks_wf h _ _

theorem State.writeBytes_wf {s : State} (h : s.mem.mem.wf = true) (a : Nat) (bs : List Byte) : (s.writeBytes a bs).mem.mem.wf = true :=
  State.foldl_wf _ (fun _ _ h => State.pokeHusk_wf h _ _) _ (State.pokeList_wf (s := s.unsnoop a bs.length) h _ _)

theorem State.writeObj_wf {s : State} (h : s.mem.mem.wf = true) (a : Nat) (bs : List Byte) (part gen : Nat) :
    (s.writeObj a bs part gen).mem.mem.wf = true :=
  State.foldl_wf _ (fun _ _ h => State.burst_wf h _ _) _
    (State.foldl_wf _ (fun _ _ h => State.writeBack_wf h _) _ (State.writeBytes_wf h _ _))

theorem State.zeroObj_wf {s : State} (h : s.mem.mem.wf = true) (part gen a n : Nat) : (s.zeroObj part gen a n).mem.mem.wf = true := by
  induction n generalizing s a with
  | zero => exact h
  | succ n ih => exact ih (State.writeObj_wf h _ _ _ _) _

theorem State.copyBytes_wf {s : State} (h : s.mem.mem.wf = true) (src dst len : Nat) : (s.copyBytes src dst len).mem.mem.wf = true :=
  State.foldl_wf _ (fun _ _ h => State.pokeHusk_wf h _ _) _ (State.writeBytes_wf h _ _)

theorem State.writeCode_wf {s : State} (h : s.mem.mem.wf = true) (a : Nat) (ws : List CodeWord) : (s.writeCode a ws).mem.mem.wf = true :=
  State.foldl_wf _ (fun _ _ h => State.foldl_wf _ (fun _ _ h => State.pokeHusk_wf h _ _) _ h) _ (State.writeBytes_wf h _ _)

theorem State.spoil_wf {s : State} (h : s.mem.mem.wf = true) (l : List (Nat × OrdSeq)) : (s.spoil l).mem.mem.wf = true := by
  induction l generalizing s with
  | nil => exact h
  | cons x l ih => exact ih (State.pokeList_wf (s := { s with free := s.free + 1 }) h _ _)

theorem State.clearUnit_wf {s : State} (h : s.mem.mem.wf = true) (u : Nat) : (s.clearUnit u).mem.mem.wf = true := Memory.filter_wf h _ _

/-! ## Reading after writing -/

/-- A byte just written reads back, whatever the address. -/
theorem Memory.get?_put_self {m : Memory} (h : m.wf = true) (a : Nat) (b : Byte) :
    Map.get? (m.put a b).cells a = if isDdr a || b != 0 then some b else none := by
  simp only [Memory.put]
  split
  · exact Map.get?_put_self _ _ _
  · exact Map.get?_del_self ((Memory.wf_iff _).1 h).1 _

/-- Writing a byte leaves the other bytes as they are. -/
theorem Memory.get?_put_of_ne (m : Memory) {a x : Nat} (b : Byte) (h : x ≠ a) : Map.get? (m.put a b).cells x = Map.get? m.cells x := by
  simp only [Memory.put]
  split
  · exact Map.get?_put_of_ne _ _ h
  · exact Map.get?_del_of_ne _ h

/-- Reset lists nothing. -/
theorem reset_memory_wf : State.reset.mem.mem.wf = true := by decide

end Sys2Proof.Machine
end

