-- ==== Sys2Proof/Laws/Pending.lean ====
section
/-! SUPPORT. What the instructions of the XU and those that write predicates do (R92, R113, R116). -/

namespace Sys2Proof.Machine

@[simp] theorem Slot.rest_pendAll (sl : Slot) (tag p : Nat) (rs : List Reg) (vs : List Word) (b : Bool) :
    (sl.pendAll tag p rs vs b).rest = sl.rest := by
  induction rs generalizing sl vs with
  | nil => cases vs <;> rfl
  | cons r rs ih =>
    cases vs with
    | nil => rfl
    | cons v vs => rw [Slot.pendAll, ih]; cases r <;> rfl

@[simp] theorem Slot.u_pendAll (sl : Slot) (tag p : Nat) (rs : List Reg) (vs : List Word) (b : Bool) :
    (sl.pendAll tag p rs vs b).u = sl.u := by
  induction rs generalizing sl vs with
  | nil => cases vs <;> rfl
  | cons r rs ih =>
    cases vs with
    | nil => rfl
    | cons v vs => rw [Slot.pendAll, ih]; cases r <;> rfl

@[simp] theorem Slot.threads_pendAll (sl : Slot) (tag p : Nat) (rs : List Reg) (vs : List Word) (b : Bool) :
    (sl.pendAll tag p rs vs b).threads = sl.threads := by
  induction rs generalizing sl vs with
  | nil => cases vs <;> rfl
  | cons r rs ih =>
    cases vs with
    | nil => rfl
    | cons v vs => rw [Slot.pendAll, ih]; cases r <;> rfl

@[simp] theorem Slot.thread_pendAll (sl : Slot) (tag p n : Nat) (rs : List Reg) (vs : List Word) (b : Bool) :
    (sl.pendAll tag p rs vs b).thread n = sl.thread n := by simp [Slot.thread]

theorem Slot.pend_pendAll (sl : Slot) (tag p : Nat) (rs : List Reg) (vs : List Word) (b : Bool) :
    (sl.pendAll tag p rs vs b).pend = sl.pend ++ pendings tag p b rs vs := by
  induction rs generalizing sl vs with
  | nil => cases vs <;> simp [Slot.pendAll, pendings]
  | cons r rs ih =>
    cases vs with
    | nil => cases r <;> simp [Slot.pendAll, pendings]
    | cons v vs => rw [Slot.pendAll, ih]; cases r <;> simp [Slot.pendOne, pendings]

theorem State.thread_pendAll (s : State) (k j n : Nat) (f : Slot → Slot) (h : (s.slot k j).isSome) (hf : ∀ sl p, (f sl).thread p = sl.thread p) :
    (s.updSlot k j f).thread k n = s.thread k n := by
  obtain ⟨sl, hs⟩ := Option.isSome_iff_exists.1 h
  rw [State.thread_updSlot _ _ _ _ _ h]
  by_cases hn : n / 16 = j
  · subst hn; simp [hs, hf, State.thread]
  · simp [hn]

/-- Results that are pending in registers of each thread of a list. -/
theorem State.lanePend_spec (s : State) (k : Nat) (srcs : List (List Reg)) (d : List Reg) (f : LaneFn) (ms : List Nat)
    (hs : ∀ m ∈ ms, (s.slot k (m / 16)).isSome) :
    (∀ s0 : State, s0.InLanes s k → s0.InLanes (s.lanePend k srcs d f ms) k) ∧
    (∀ n, (s.lanePend k srcs d f ms).thread k n = s.thread k n) ∧
    (∀ j, ((s.lanePend k srcs d f ms).slot k j).map Slot.u = (s.slot k j).map Slot.u) ∧
    (∀ j, ((s.lanePend k srcs d f ms).slot k j).map Slot.pend = (s.slot k j).map (fun sl => sl.pend ++
      (ms.filter (fun m => m / 16 == j)).flatMap (fun m =>
        pendings 0 (m % 16) true d (wordsOfNat d.length (s.result k m srcs f))))) := by
  induction ms generalizing s with
  | nil => simp [State.lanePend]
  | cons m ms ih =>
    have hm := hs m (List.mem_cons_self ..)
    simp only [State.lanePend]
    have hl := s.updSlot_inLanes k (m / 16) (fun sl => sl.pendAll 0 (m % 16) d (wordsOfNat d.length (s.result k m srcs f)) true) hm
      (fun sl => by simp)
    have ht := fun n => s.thread_pendAll k (m / 16) n (fun sl => sl.pendAll 0 (m % 16) d (wordsOfNat d.length (s.result k m srcs f)) true) hm
      (fun sl p => by simp)
    have hu := fun n => s.slot_updSlot_map k (m / 16) n (fun sl => sl.pendAll 0 (m % 16) d (wordsOfNat d.length (s.result k m srcs f)) true)
      Slot.u (fun sl => by simp)
    have hp := fun j => s.slot_updSlot k (m / 16) k j (fun sl => sl.pendAll 0 (m % 16) d (wordsOfNat d.length (s.result k m srcs f)) true)
    generalize hv : wordsOfNat d.length (s.result k m srcs f) = v at *
    generalize s.updSlot k (m / 16) (fun sl => sl.pendAll 0 (m % 16) d v true) = t at *
    have := ih t (fun n hn => by rw [hl.isSome]; exact hs n (List.mem_cons_of_mem _ hn))
    have hres : ∀ n, t.result k n srcs f = s.result k n srcs f := fun n =>
      State.result_congr srcs f (by simp [ht]) (by simp [ht]) (hu _)
    refine ⟨fun s0 h0 => this.1 s0 (h0.trans hl), fun n => (this.2.1 n).trans (ht n), fun j => (this.2.2.1 j).trans (hu j), fun j => ?_⟩
    rw [this.2.2.2 j, hp]
    simp only [hres]
    by_cases hj : j = m / 16
    · subst hj
      cases s.slot k (m / 16) <;> simp [Slot.pend_pendAll, hv]
    · have : (m / 16 == j) = false := by simpa using Ne.symm hj
      simp [hj, this]

/-- An instruction of the XU whose fields are legal, and its pending results thread by thread. -/
theorem State.compute_xu_val (s : State) (i : Issue) (g : BitVec 5) (w : Nat) (legal b : Bool) (so : List (Option (List Reg)))
    (srcs : List (List Reg)) (dst : Option (List Reg)) (d : List Reg) (f : LaneFn) (v : Nat → List Word) (q : Form) (hl : s.Leads i)
    (hg : guardLegal g) (hleg : legal = true) (hso : so = srcs.map some) (hd : dst = some d)
    (hq : q = ⟨g, b || srcs.any (·.any Reg.isU) || d.any Reg.isU, srcs.flatten⟩)
    (hv : ∀ m ∈ s.acting i q, ∀ sl, s.slot i.core (m / 16) = some sl →
      wordsOfNat d.length (f m (sl.thread (m % 16)).p (srcs.map (sl.readNat (m % 16)))) = v m) :
    s.XuResult (s.compute true b i g w legal so dst f) i q d v := by
  subst hleg hso hd
  have hcomp : s.compute true b i g w true (srcs.map some) (some d) f =
      ((s.issued i q).lanePend i.core srcs d f (writers d (s.acting i q))).nextPc i.core (s.going i q) := by
    have := State.issue_acts s i q w
      (fun s go on => (s.lanePend i.core srcs d f (writers d on)).nextPc i.core go) hl (by rw [hq]; exact hg)
    rw [hq] at this
    unfold State.compute
    simp only [allRegs_some, Option.getD_some, Option.isSome_some, Bool.and_true, if_true]
    rw [this, hq]
  rw [hcomp]
  obtain ⟨h1, h2, h3, h4, h5⟩ := s.issued_spec i q
  have hsome : ∀ m ∈ s.going i q, ((s.issued i q).slot i.core (m / 16)).isSome := by
    intro m hm
    have := congrArg Option.isSome (h1.2.2 (m / 16))
    simp only [Option.isSome_map] at this
    rw [this]; exact State.mem_groupOf (State.mem_going.1 hm).1
  have hself : (s.issued i q).InLanes (s.issued i q) i.core := ⟨h2, rfl, fun _ => rfl⟩
  have hsub : ∀ m ∈ writers d (s.acting i q), m ∈ s.acting i q := fun m hm => by
    unfold writers at hm; split at hm
    · exact List.mem_of_mem_take hm
    · exact hm
  obtain ⟨k1, k2, k3, k4⟩ := (s.issued i q).lanePend_spec i.core srcs d f (writers d (s.acting i q))
    (fun m hm => hsome m (State.mem_acting (hsub m hm)))
  have k1' := k1 _ hself
  have hsome' : ∀ m ∈ s.going i q, (((s.issued i q).lanePend i.core srcs d f (writers d (s.acting i q))).slot i.core (m / 16)).isSome :=
    fun m hm => by rw [k1'.isSome]; exact hsome m hm
  obtain ⟨n1, n2, n3, n4⟩ := State.nextPc_spec _ i.core (s.going i q) hsome' (s.going_nodup i q)
  refine ⟨h1.inLanes rfl (n1 _ k1'), ?_, fun j => (n3 j).trans ((k3 j).trans (h4 j)), fun j => ?_⟩
  · refine State.Threads.of_act (u := (s.issued i q).lanePend i.core srcs d f (writers d (s.acting i q)))
      (act := fun _ th => th) (fun n => ?_) n2
    rw [k2]
    by_cases ha : n ∈ s.acting i q
    · simp [ha, State.issued_thread (State.mem_acting ha)]
    · simp [ha]
  · rw [n4 j, k4 j]
    have hval : ∀ m ∈ writers d (s.acting i q), wordsOfNat d.length ((s.issued i q).result i.core m srcs f) = v m := by
      intro m hm
      have ha := hsub m hm
      obtain ⟨sl, hs⟩ := State.acting_slot ha
      rw [State.result_congr srcs f (by rw [State.issued_thread (State.mem_acting ha)]) (by rw [State.issued_thread (State.mem_acting ha)])
        (h4 _), ← hv m ha sl hs]
      simp [State.result, hs]
    have hfl : ((writers d (s.acting i q)).filter (fun m => m / 16 == j)).flatMap (fun m =>
        pendings 0 (m % 16) true d (wordsOfNat d.length ((s.issued i q).result i.core m srcs f))) =
        ((givers d (s.acting i q)).filter (fun m => m / 16 == j)).flatMap (fun m => pendings 0 (m % 16) true d (v m)) := by
      unfold List.flatMap
      congr 1
      exact List.map_congr_left (fun m hm => by rw [hval m (List.mem_filter.1 hm).1])
    have h5j := h5 j
    cases e1 : (s.issued i q).slot i.core j <;> cases e2 : s.slot i.core j <;>
      simp only [e1, e2, Option.map_none, Option.map_some, Option.some.injEq, reduceCtorEq] at h5j ⊢
    rw [h5j, hfl]

/-! ## Predicates -/

/-- A predicate of each thread of a list. -/
theorem State.predWrite_spec (s : State) (k n : Nat) (f : Slot → Nat → Bool) (ms : List Nat) (v : Nat → Bool)
    (hs : ∀ m ∈ ms, (s.slot k (m / 16)).isSome) (hn : ms.Nodup)
    (hv : ∀ t : State, ∀ m ∈ ms, t.thread k m = s.thread k m → (t.slot k (m / 16)).map Slot.u = (s.slot k (m / 16)).map Slot.u →
      ∀ sl, t.slot k (m / 16) = some sl → f sl (m % 16) = v m) :
    (∀ s0 : State, s0.InLanes s k → s0.InLanes (s.predWrite k n f ms) k) ∧
    (∀ m, (s.predWrite k n f ms).thread k m = if m ∈ ms then (s.thread k m).gotP n (v m) else s.thread k m) ∧
    (∀ j, ((s.predWrite k n f ms).slot k j).map Slot.u = (s.slot k j).map Slot.u) ∧
    (∀ j, ((s.predWrite k n f ms).slot k j).map Slot.pend = (s.slot k j).map Slot.pend) := by
  induction ms generalizing s with
  | nil => simp [State.predWrite]
  | cons m ms ih =>
    have hm := hs m (List.mem_cons_self ..)
    have hnm := (List.nodup_cons.1 hn).1
    obtain ⟨sl, hsl⟩ := Option.isSome_iff_exists.1 hm
    simp only [State.predWrite, hsl]
    have hval : f sl (m % 16) = v m := hv s m (List.mem_cons_self ..) rfl rfl sl hsl
    rw [hval]
    have hl := s.updThread_inLanes k m (fun t => { t with p := setPred t.p n (v m) }) hm
    have ht := fun j => s.thread_updThread k m j (fun t => { t with p := setPred t.p n (v m) }) hm
    have hu := fun j => s.slot_updThread_u k m j (fun t => { t with p := setPred t.p n (v m) })
    have hp := fun j => s.slot_updThread_pend k m j (fun t => { t with p := setPred t.p n (v m) })
    generalize s.updThread k m (fun t => { t with p := setPred t.p n (v m) }) = t at *
    have := ih t (fun j hj => by rw [hl.isSome]; exact hs j (List.mem_cons_of_mem _ hj)) (List.nodup_cons.1 hn).2
      (fun t' j hj h1 h2 => hv t' j (List.mem_cons_of_mem _ hj)
        (by rw [h1, ht]; have : j ≠ m := fun h => hnm (h ▸ hj); simp [this]) (h2.trans (hu _)))
    refine ⟨fun s0 h0 => this.1 s0 (h0.trans hl), fun j => ?_, fun j => (this.2.2.1 j).trans (hu j), fun j => (this.2.2.2 j).trans (hp j)⟩
    rw [this.2.1 j, ht]
    by_cases h : j = m
    · subst h; simp [hnm, Thread.gotP, setPred]
    · by_cases h' : j ∈ ms <;> simp [h', h]

/-- An instruction that writes predicates. -/
theorem State.issue_pred (s : State) (i : Issue) (q : Form) (w n : Nat) (f : Slot → Nat → Bool) (v : Nat → Bool)
    (hl : s.Leads i) (hg : guardLegal q.guard)
    (hv : ∀ t : State, ∀ m ∈ s.acting i q, t.thread i.core m = s.thread i.core m →
      (t.slot i.core (m / 16)).map Slot.u = (s.slot i.core (m / 16)).map Slot.u →
      ∀ sl, t.slot i.core (m / 16) = some sl → f sl (m % 16) = v m) :
    s.PredResult (s.issue i q.guard ⟨true, q.bound, q.reads⟩ w (fun s go on => (s.predWrite i.core n f on).nextPc i.core go)) i q n v := by
  rw [State.issue_acts s i q w _ hl hg]
  obtain ⟨h1, h2, h3, h4, h5⟩ := s.issued_spec i q
  have hsome : ∀ m ∈ s.going i q, ((s.issued i q).slot i.core (m / 16)).isSome := by
    intro m hm
    have := congrArg Option.isSome (h1.2.2 (m / 16))
    simp only [Option.isSome_map] at this
    rw [this]; exact State.mem_groupOf (State.mem_going.1 hm).1
  have hself : (s.issued i q).InLanes (s.issued i q) i.core := ⟨h2, rfl, fun _ => rfl⟩
  obtain ⟨k1, k2, k3, k4⟩ := (s.issued i q).predWrite_spec i.core n f (s.acting i q) v
    (fun m hm => hsome m (State.mem_acting hm)) (s.acting_nodup i q)
    (fun t m hm e1 e2 => hv t m hm (e1.trans (State.issued_thread (State.mem_acting hm))) (e2.trans (h4 _)))
  have k1' := k1 _ hself
  have hsome' : ∀ m ∈ s.going i q, (((s.issued i q).predWrite i.core n f (s.acting i q)).slot i.core (m / 16)).isSome :=
    fun m hm => by rw [k1'.isSome]; exact hsome m hm
  obtain ⟨n1, n2, n3, n4⟩ := State.nextPc_spec _ i.core (s.going i q) hsome' (s.going_nodup i q)
  refine ⟨h1.inLanes rfl (n1 _ k1'), ?_, fun j => (n3 j).trans ((k3 j).trans (h4 j)), fun j => (n4 j).trans ((k4 j).trans (h5 j))⟩
  refine State.Threads.of_act (u := (s.issued i q).predWrite i.core n f (s.acting i q)) (act := fun m th => th.gotP n (v m)) (fun m => ?_) n2
  rw [k2]
  by_cases ha : m ∈ s.acting i q
  · simp [ha, State.issued_thread (State.mem_acting ha)]
  · simp [ha]

end Sys2Proof.Machine
end

