-- ==== Sys2Proof/Tests/Slice0.lean ====
section
/-! SUPPORT. The model's own tests, each about one step on a small state: ill-formed commands are refused, worked examples of the manual, and
for each statement concrete states and operands that meet its hypotheses, clause by clause. -/

namespace Sys2Proof.Tests

open Sys2Proof Sys2Proof.Machine Sys2Proof.Claims

set_option Elab.async false

/-! ## A small device -/

/-- A partition in slot 1 with course 0, HBM unit 0, DDR5 channel 0 and ports 0 and 1. -/
def part1 : Part :=
  { lomcon := false, htag := 7, qcount := 4, ctxBase := 16, ctxCount := 16, rshare := 64, winBase := 0, winCount := 64, slotBase := 0, slotCnt := 16
    sparq := 64, objq := 64, ddrBase := 0, ddrSize := 0x100000, hbmHeap := (0x100000, 0x100000), ddrHeap := (0, 0x80000)
    alloc := (0x300000, 0x110000), hoardHbm := 0x500000, hoardT2 := 0x80000, hbmGr := 16, t2Gr := 16, ports := 3
    ways := List.replicate 16 3, courses := [0], units := [0], chans := [0], shapes := [], power := 0 }

/-- Context 17 of slot 1, with three windows and a spar map of 8 entries. -/
def ctx17 : Ctx :=
  { Ctx.idle with st := .defined, fn := 1, record := 0x400000, winCount := 8, mapAddr := 0x8000, mapLen := 8, maxShf := 64, maxObj := 8
                  hbmLim := 0x10000, ddrLim := 0x10000, resident := true }

/-- 64 KiB of the partition's HBM, 64 KiB of device 5, and 64 KiB that may only be read. -/
def windows1 : Map Window :=
  [(0, { w0 := 0x20F, w1 := 0, w2 := 0x100000, w3 := 0, closing := false }),
   (1, { w0 := 0x20F, w1 := 0, w2 := 0x200000, w3 := 0x4001400000000000, closing := false }),
   (2, { w0 := 0x203, w1 := 0, w2 := 0x300000, w3 := 0x10000, closing := false })]

/-- A function that is ready. -/
def fn1 : Fn := { Fn.idle with ready := true, enabled := true }

/-- The device with the partition, its context and its function, course 0 running, and no sheaf. -/
def base : State :=
  { State.reset with
    courses := [(0, { Course.idle with power := .run })]
    mem := { Mem.reset with chanCap := [(0, 0x8000000)] }
    tab := { spars := [], ctxs := [(17, ctx17)], stamp := 5 }
    fns := [(0, fn1), (1, fn1)]
    fab := { Fabric.reset with devid := 2, windows := windows1 }
    truss := { Truss.reset with parts := [(1, part1)], unitsLost := false }
    boot := { Boot.reset with stage := 7 } }

/-- Thread state: its program counter, and registers g0 = 7, g1 = 3 and the address 0x100000 in pair g2. -/
def runner : Thread := { Thread.idle with pc := 0x100100, g := [(0, 7), (1, 3), (2, 0x100000)] }
def gone : Thread := { Thread.idle with st := .exited }

/-- Sixteen threads of which the first n run. -/
def threads (n : Nat) (t : Thread) : Map Thread := (List.range 16).map (fun p => (p, if p < n then t else gone))

def slotWith (ts : Map Thread) (u : Map Word) : Slot :=
  { ctx := 17, threads := ts, u := u, barId := 0, barMask := 0, openFeed := none, pend := [], launch := none, index := 0, block := 0 }

/-- The device with a sheaf in slot 0 of core 0. -/
def withSlot (sl : Slot) : State :=
  { base with grid := { Grid.reset with
      cores := [(0, { Core.idle with slots := [(0, sl)], lsWin := [(17, (0, 4))], ls := [(0, 9)] })]
      shapes := [(0, 0)] } }

/-- Two threads run. -/
def two : State := withSlot (slotWith (threads 2 runner) [])

def i0 : Issue := { core := 0, leader := 0 }
def formT (dst sa sb sc : BitVec 6) (type : BitVec 4) (mod : BitVec 23) : FormT :=
  { guard := 0, dst := dst, type := type, sa := sa, sb := sb, sc := sc, mod := mod }
def formI (dst sa : BitVec 6) (type : BitVec 4) (mod : BitVec 3) (imm : Word) : FormI :=
  { guard := 0, dst := dst, type := type, sa := sa, mod := mod, imm := imm }

/-! ## Instructions: the hypotheses of the statements can be met -/

theorem met_lanes : two.Leads i0 ∧ guardLegal 0 ∧ sourcesOf (formT 0x1F 0 0x2F 0 0 0) 2 = some [.g 0, .u 15] ∧
    sourcesOf (formT 0 0x1F 1 0x30 1 0) 3 = some [.g 31, .g 1, .zr] ∧ sourcesOf (formT 5 0x30 0 0 0 0) 1 = some [.zr] ∧
    specifier 0x1F = some (.g 31) ∧ specifier 0x20 = some (.u 0) ∧ specifier 0x30 = some .zr := by unfold State.Leads; decide +kernel

theorem met_moves : two.Leads i0 ∧ specifier (formI 9 0 0 0 7).dst = some (.g 9) ∧ (formI 9 0 0 0 7).imm.toNat < 8 ∧
    sourcesOf (formT 9 1 2 3 0 0) 3 = some [.g 1, .g 2, .g 3] ∧ sourcesOf (formT 9 1 2 0 0 7) 2 = some [.g 1, .g 2] ∧
    (formT 9 1 2 0 0 7).mod.toNat < 8 := by unfold State.Leads; decide +kernel

theorem met_xu : two.Leads i0 ∧ specifiers 4 (formT 8 4 0x22 0 0 0).sa = some [.g 4, .g 5, .g 6, .g 7] ∧
    specifiers 2 (formT 8 4 0x22 0 0 0).sb = some [.u 2, .u 3] ∧ specifiers 4 0x30 = some [.zr, .zr, .zr, .zr] ∧
    specifiers 2 (formT 8 4 0x22 0 0 0).sa = some [.g 4, .g 5] ∧ 0x20 ≤ (formT 8 4 0x22 0 0 0).sb.toNat ∧
    specifier (formT 8 4 0x22 0 0 0).sb = some (.u 2) := by unfold State.Leads; decide +kernel

theorem met_predicates : two.Leads i0 ∧ sourcesOf (formT 7 1 0x2F 0 1 5) 2 = some [.g 1, .u 15] ∧ (formT 7 1 0x2F 0 1 5).mod.toNat < 6 ∧
    (formT 7 7 7 0 0 3).mod.toNat < 4 ∧ (formT 7 7 7 0 0 3).sa.toNat < 8 := by unfold State.Leads; decide +kernel

/-- Stochastic rounding to BF16 in u0, and nearest in u1. -/
def converting : State := withSlot (slotWith (threads 2 runner) [(0, 0x1000#32 ||| (0 : Word)), (1, 0)])
theorem met_conversions : converting.Leads i0 ∧ ncwDefined (converting.regOf 0 0 (.u 0)) ∧ (converting.regOf 0 0 (.u 0)).getLsbD 12 = true ∧
    (formT 8 1 0x20 2 0 0x23).mod.toNat < 64 ∧ 0x20 ≤ (formT 8 1 0x20 2 0 0x23).mod.toNat ∧
    specifier ((formT 8 1 0x20 2 0 0x23).mod.setWidth 6) = some (.u 3) ∧ specifiers 2 (formT 8 1 0x20 2 0 0x23).sc = some [.g 2, .g 3] ∧
    ncwDefined (converting.regOf 0 0 (.u 1)) ∧ (converting.regOf 0 0 (.u 1)).getLsbD 12 = false ∧
    specifiers 2 (formT 8 1 0x21 0x30 0 0).sc = some [.zr, .zr] := by unfold State.Leads; decide +kernel

/-- Targets of a branch, a call and an indirect branch lie in window 0. -/
theorem met_control : two.Leads i0 ∧
    (∀ m ∈ two.acting i0 ⟨0, false, []⟩, ((two.thread 0 m).pc + (formI 0 0 0 0 16).imm.signExtend 64).toNat % 8 = 0 ∧
      (two.reach (two.slotCtx i0) ((two.thread 0 m).pc + (formI 0 0 0 0 16).imm.signExtend 64).toNat 8 .r).isSome) ∧
    two.acting i0 ⟨0, false, []⟩ = [0, 1] ∧
    (∀ m ∈ two.acting i0 (formOf 0 false [.g 2, .g 3] []), (two.pairOf 0 m [.g 2, .g 3]).toNat % 8 = 0 ∧
      (two.reach (two.slotCtx i0) (two.pairOf 0 m [.g 2, .g 3]).toNat 8 .r).isSome) ∧
    specifiers 2 (formI 0x10 0 0 0 16).dst = some [.g 16, .g 17] ∧
    (∀ m ∈ two.acting i0 (formOf 0 false [] [.g 16, .g 17]), ((two.thread 0 m).pc + (16 : DWord)).toNat % 8 = 0 ∧
      (two.reach (two.slotCtx i0) ((two.thread 0 m).pc + (16 : DWord)).toNat 8 .r).isSome) := by unfold State.Leads; decide +kernel

theorem met_illegal : two.Leads i0 ∧ (two.ctx (two.slotCtx i0)).st = .defined ∧ guardLegal 1 = false ∧ sourcesOf (formT 0 0x31 0 0 0 0) 2 = none ∧
    sourcesOf (formT 0 0 0 1 0 0) 2 = none ∧ specifier 0x31 = none ∧ specifier 0x3F = none := by unfold State.Leads; decide +kernel

/-- One thread at the barrier while another runs elsewhere; and one whose last fellow stands there already. -/
def apart : State := withSlot (slotWith ((0, runner) :: (1, { runner with pc := 0x100200 }) :: (threads 0 runner).drop 2) [])
def last : State := withSlot (slotWith ((0, runner) :: (1, { runner with st := .parkBar, bar := 3 }) :: (threads 0 runner).drop 2) [])
theorem met_barrier : apart.Leads i0 ∧ apart.acting i0 ⟨0, true, []⟩ = [0] ∧
    (∃ p, p < 16 ∧ ((slotWith ((0, runner) :: (1, { runner with pc := 0x100200 }) :: (threads 0 runner).drop 2) []).thread p).st ∉
      [TState.exited, .parkBar, .parkWhole] ∧ 16 * (i0.leader / 16) + p ∉ apart.acting i0 ⟨0, true, []⟩) ∧
    last.Leads i0 ∧ last.acting i0 ⟨0, true, []⟩ ≠ [] ∧
    (∀ p, p < 16 → (last.thread 0 p).st ≠ .exited → p ∉ last.acting i0 ⟨0, true, []⟩ → (last.thread 0 p).st = .parkBar ∧ (last.thread 0 p).bar = 3) := by
  unfold State.Leads; decide +kernel

theorem met_exit : apart.Leads i0 ∧ (∀ m ∈ apart.acting i0 ⟨0, false, []⟩, (apart.thread 0 m).token = none) ∧
    (∀ m ∈ apart.acting i0 ⟨0, false, []⟩, ∃ p, p < 16 ∧ 16 * (m / 16) + p ∉ apart.acting i0 ⟨0, false, []⟩ ∧
      (apart.thread 0 (16 * (m / 16) + p)).st ∉ [TState.exited, .parkBar, .parkWhole]) ∧
    two.Leads i0 ∧ two.acting i0 ⟨0, false, []⟩ ≠ [] ∧ (two.core 0).slots.rising = true ∧
    (∀ m ∈ two.acting i0 ⟨0, false, []⟩, m / 16 = i0.leader / 16) ∧
    (∀ p, p < 16 → (two.thread 0 p).st = .exited ∨ 16 * (i0.leader / 16) + p ∈ two.acting i0 ⟨0, false, []⟩) := by
  unfold State.Leads; decide +kernel

/-- A target of window 0 and its place in memory. -/
def tgt0 (a : Nat) : Target := { index := 0, win := { w0 := 0x20F, w1 := 0, w2 := 0x100000, w3 := 0, closing := false }, loc := some (a - 0x100000), gaddr := a - 0x100000 }

theorem met_access_faults : two.Leads i0 ∧ sizeOfType (formI 8 2 4 0 1).type.toNat = some (4, false) ∧ specifiers 2 (formI 8 2 4 0 1).sa = some [.g 2, .g 3] ∧
    specifiers (regWidth 4) (formI 8 2 4 0 1).dst = some [.g 8] ∧ two.acting i0 (formOf 0 false [.g 2, .g 3] [.g 8]) = [0, 1] ∧
    (two.pairOf 0 0 [.g 2, .g 3] + (1#32).signExtend 64).toNat % 4 ≠ 0 ∧
    (two.pairOf 0 0 [.g 2, .g 3] + (0xFFFFFFFC#32).signExtend 64).toNat % 4 = 0 ∧
    two.reach 17 (two.pairOf 0 0 [.g 2, .g 3] + (0xFFFFFFFC#32).signExtend 64).toNat 4 .r = none := by unfold State.Leads; decide +kernel

theorem met_load_store : two.Leads i0 ∧ sizeOfType (formI 8 2 5 0 0).type.toNat = some (8, false) ∧ specifiers (regWidth 8) (formI 8 2 5 0 0).dst = some [.g 8, .g 9] ∧
    (∀ m ∈ two.acting i0 (formOf 0 false [.g 2, .g 3] [.g 8, .g 9]), (two.pairOf 0 m [.g 2, .g 3]).toNat % 8 = 0 ∧
      two.reach 17 (two.pairOf 0 m [.g 2, .g 3]).toNat 8 .r = some (tgt0 0x100000) ∧ (tgt0 0x100000).loc = some 0 ∧
      (two.nearHolds 17 (tgt0 0x100000) = true → two.nearHit 0 0 8 = none)) ∧
    two.lomcon 17 = false ∧ two.acting i0 (formOf 0 false [.g 2, .g 3, .g 8, .g 9] []) = [0, 1] ∧
    (∀ m ∈ [0, 1], two.reach 17 (two.pairOf 0 m [.g 2, .g 3]).toNat 8 .w = some (tgt0 0x100000)) := by unfold State.Leads; decide +kernel

theorem met_local_store : two.Leads i0 ∧ sizeOfType (formI 8 4 6 0 0x3F0).type.toNat = some (16, false) ∧
    specifiers (regWidth 16) (formI 8 4 6 0 0x3F0).dst = some [.g 8, .g 9, .g 10, .g 11] ∧
    (∀ m ∈ two.acting i0 (formOf 0 false [.g 4] [.g 8, .g 9, .g 10, .g 11]),
      ((two.regOf 0 m (.g 4)).setWidth 64 + (0x3F0#32).signExtend 64).toNat % 16 = 0 ∧
      two.lsOk 0 17 ((two.regOf 0 m (.g 4)).setWidth 64 + (0x3F0#32).signExtend 64).toNat 16 = true ∧
      two.lsHusks 0 ((two.regOf 0 m (.g 4)).setWidth 64 + (0x3F0#32).signExtend 64).toNat 16 = false) ∧
    (two.core 0).ls.rising = true ∧ two.acting i0 (formOf 0 false [.g 4, .g 8, .g 9, .g 10, .g 11] []) = [0, 1] := by
  unfold State.Leads; decide +kernel

/-- A compare-and-swap; an ordered contribution. -/
theorem met_atom : two.Leads i0 ∧ (formT 8 2 0 1 11 0).type.toNat = 11 ∧ specifiers 1 (formT 8 2 0 1 11 0).sc = some [.g 1] ∧
    (∀ m ∈ two.acting i0 (formOf 0 false [.g 2, .g 3, .g 0, .g 1] [.g 8]), (two.pairOf 0 m [.g 2, .g 3]).toNat % atomSize 11 = 0 ∧
      two.reach 17 (two.pairOf 0 m [.g 2, .g 3]).toNat (atomSize 11) .a = some (tgt0 0x100000) ∧ (tgt0 0x100000).loc = some 0) ∧
    (formT 0x30 2 0 1 2 4).mod.getLsbD 2 = true ∧ specifiers 1 (formT 0x30 2 0 1 2 4).dst = some [.zr] ∧
    (∀ m ∈ two.acting i0 (formOf 0 false [.g 2, .g 3, .g 0, .g 1] [.zr]),
      two.reach 17 (two.pairOf 0 m [.g 2, .g 3]).toNat (atomSize 2) .a = some (tgt0 0x100000)) := by unfold State.Leads; decide +kernel

/-- A store of thread 0 that no home slice has accepted yet; and a partition in Lomcon mode. -/
def storing : State := { two with mem := { two.mem with reqs := [0, 1].map (fun m => two.accessOf i0 0 4 0 .store 0x100000 0 m 0) } }
def lomcon : State := { two with truss := { two.truss with parts := [(1, { part1 with lomcon := true })] } }
theorem met_fence : two.Leads i0 ∧ two.lomcon (two.slotCtx i0) = false ∧
    (∀ m ∈ two.acting i0 ⟨0, false, []⟩, two.unaccepted 0 m = false ∧ two.unverified 0 17 = false ∧ two.unacked 0 m = false) ∧
    storing.Leads i0 ∧ storing.lomcon (storing.slotCtx i0) = false ∧ (∀ m ∈ storing.acting i0 ⟨0, false, []⟩, storing.unaccepted 0 m = true) ∧
    lomcon.Leads i0 ∧ lomcon.lomcon (lomcon.slotCtx i0) = true ∧ lomcon.acting i0 ⟨0, false, []⟩ ≠ [] := by unfold State.Leads; decide +kernel

/-- Thread 0 alone runs, at a sheaf whose u0 and u1 describe a BF16 feed of gang 0 of 8 steps, and u2 a numeric control word. -/
def feeding : State := withSlot (slotWith (threads 1 runner) [(0, 0), (1, 8), (2, 0)])
def feedSlot : Slot := ((feeding.come i0 (.feed (formT 0 0 0x20 0x22 0 1)) (formOf 0 true [.g 0, .u 0, .u 1, .u 2] [])).slot 0 0).getD (slotWith [] [])
theorem met_register_feed : feeding.Leads i0 ∧ specifiers 2 (formT 0 0 0x20 0x22 0 1).sb = some [.u 0, .u 1] ∧
    ((feeding.come i0 (.feed (formT 0 0 0x20 0x22 0 1)) (formOf 0 true [.g 0, .u 0, .u 1, .u 2] [])).slot 0 0).map Slot.barTest = some .whole ∧
    feeding.going i0 (formOf 0 true [.g 0, .u 0, .u 1, .u 2] []) ≠ [] ∧ (feeding.thread 0 0).st ≠ .parkWhole ∧
    feedSlot.openFeed = none ∧
    (feeding.come i0 (.feed (formT 0 0 0x20 0x22 0 1)) (formOf 0 true [.g 0, .u 0, .u 1, .u 2] [])).feedBad 0 17 (feedPair (feeding.pairOf 0 0 [.u 0, .u 1]).toNat)
      (feeding.regOf 0 0 (.u 2)) = none ∧ sideFmt (feeding.regOf 0 0 (.u 2)) false ≤ 2 ∧
    -- a feed of 4 steps closes with its first fragment, one of 8 stays open
    (feedSteps 0 4 + 3) / 4 ≤ 0 + 1 ∧ 0 + 1 < (feedSteps 0 8 + 3) / 4 := by unfold State.Leads; decide +kernel

/-- A descriptor at 0x100 of the local store: a BF16 tile at 0x200 with K 8 and a row pitch of 16 bytes. -/
def streaming : State :=
  let s := withSlot (slotWith (threads 1 runner) [(0, 0x100), (2, 0), (3, 8), (4, 0)])
  s.updCore 0 (fun c => { c with ls := putList [] 0x100 (leBytes 32 (0x200 + 8 * 2 ^ 128 + 16 * 2 ^ 160)) })
theorem met_stream_feed : streaming.Leads i0 ∧ streaming.acting i0 (formOf 0 true [.u 0, .u 2, .u 3, .u 4] []) = [0] ∧
    (streaming.regOf 0 0 (.u 0)).toNat % 32 = 0 ∧
    (streaming.issued i0 (formOf 0 true [.u 0, .u 2, .u 3, .u 4] [])).lsOk 0 17 0x100 32 = true ∧
    (streaming.issued i0 (formOf 0 true [.u 0, .u 2, .u 3, .u 4] [])).lsHusks 0 0x100 32 = false ∧
    (streaming.issued i0 (formOf 0 true [.u 0, .u 2, .u 3, .u 4] [])).feedBad 0 17 (feedPair (streaming.pairOf 0 0 [.u 2, .u 3]).toNat) 0 = none ∧
    descBad (streaming.lsNat 0 0x100 32) 0 = false ∧ streaming.remoteLines 17 (streaming.lsNat 0 0x100 32) 0 = [] ∧
    ((streaming.issued i0 (formOf 0 true [.u 0, .u 2, .u 3, .u 4] [])).streamLanes 0 17 (streaming.lsNat 0 0x100 32) 0 false false []).isOk = true := by
  unfold State.Leads; decide +kernel

/-- Gang 0 drains to memory, and to register g8 of slot 1 or of the sheaf itself. -/
def draining (dcw : Nat) : State :=
  let s := withSlot (slotWith (threads 1 runner) [(0, 0), (4, BitVec.ofNat 32 dcw), (5, BitVec.ofNat 32 (dcw / 2 ^ 32)), (6, 0), (7, 0)])
  s.updCore 0 (fun c => { c with slots := c.slots.put 1 (slotWith (threads 1 runner) []) })

theorem met_drain :
    -- DEST 1: a tile at 0 of the local store
    (draining 0x1000000).Leads i0 ∧ (draining 0x1000000).acting i0 (formOf 0 true [.u 0, .u 4, .u 5, .u 6, .u 7] []) = [0] ∧
    ¬(dcDest (BitVec.ofNat 64 ((draining 0x1000000).regsNat 0 0 [.u 4, .u 5, .u 6, .u 7])) = 0) ∧
    rqLegal 0 (((draining 0x1000000).issued i0 (formOf 0 true [.u 0, .u 4, .u 5, .u 6, .u 7] [])).drainOf 0 0 17 (formT 8 0x20 0x24 0 0 0)
      [.u 0] [.u 4, .u 5, .u 6, .u 7] [] [0]).2 = true ∧
    (let x := (draining 0x1000000).issued i0 (formOf 0 true [.u 0, .u 4, .u 5, .u 6, .u 7] [])
     let dr := x.drainOf 0 0 17 (formT 8 0x20 0x24 0 0 0) [.u 0] [.u 4, .u 5, .u 6, .u 7] [] [0]
     x.drainBad 0 17 dr.1 dr.2 = none) ∧ (gregs 1 (formT 8 0x20 0x24 0 0 0).dst).isSome = true ∧
    -- DEST 0 into the sheaf itself
    (draining 0).Leads i0 ∧ dcDest (BitVec.ofNat 64 ((draining 0).regsNat 0 0 [.u 4, .u 5, .u 6, .u 7])) = 0 ∧
    (((draining 0).come i0 (.drain (formT 8 0x20 0x24 0 0 0)) (formOf 0 true [.u 0, .u 4, .u 5, .u 6, .u 7] [])).slot 0 0).map Slot.barTest = some .whole ∧
    (((draining 0).come i0 (.drain (formT 8 0x20 0x24 0 0 0)) (formOf 0 true [.u 0, .u 4, .u 5, .u 6, .u 7] [])).slot 0 0).map Slot.wholeOn = some [0] ∧
    (let x := (draining 0).come i0 (.drain (formT 8 0x20 0x24 0 0 0)) (formOf 0 true [.u 0, .u 4, .u 5, .u 6, .u 7] [])
     let dr := x.drainOf 0 0 17 (formT 8 0x20 0x24 0 0 0) [.u 0] [.u 4, .u 5, .u 6, .u 7] [] [0]
     x.drainBad 0 17 dr.1 dr.2 = none ∧ rqLegal 0 dr.2 = true ∧ dcDest dr.2.dcw = 0 ∧ dr.2.dst ≠ 0x30 ∧ (x.slot dr.2.core dr.2.tslot).isSome = true) := by
  unfold State.Leads; decide +kernel

def bound (g : Gang) : State := { (withSlot (slotWith (threads 1 runner) [])) with
  grid := { (withSlot (slotWith (threads 1 runner) [])).grid with gangs := [(0, { g with ctx := some 17 })] } }
theorem met_reshape : two.Leads i0 ∧ two.acting i0 (formOf 0 true [.u 0, .u 1] [.g 8]) = [0, 1] ∧
    ((two.issued i0 (formOf 0 true [.u 0, .u 1] [.g 8])).regionGangs 0 0).any (fun g => g.2.ctx == some 17 && !g.2.idleNow) = false ∧
    two.grid.reshapes.any (fun p => p.tract == 0) = false ∧ two.grid.retires.any (fun p => p.tract == 0) = false ∧
    two.reshapeBad { tract := 0, running := false, ctx := 17, word := 0, fn := 1, sheaf := true, core := 0, slot := 0, tag := 0, entry := none } = none ∧
    two.acting i0 (formOf 0 true [.u 0] []) = [0, 1] ∧ (two.gang 0).ctx = none ∧
    (bound Gang.idle).Leads i0 ∧ ((bound Gang.idle).gang 0).ctx = some ((bound Gang.idle).slotCtx i0) ∧ ((bound Gang.idle).gang 0).idleNow = true ∧
    ((bound { Gang.idle with rows := [(0, [⟨false, 0, true, .fin false 1 0, none, false, 0⟩])] }).gang 0).idleNow = false := by
  unfold State.Leads; decide +kernel

/-- Entry 3 of the spar map names spar 40, generation 9. -/
def sparred : State :=
  ({ two with tab := { two.tab with spars := [(40, { Spar.idle with used := true, gen := 9, owner := 17, part := 1, maps := [(17, 3)] })] } }).writeNat 0x800C 4
    (2 ^ 31 + 9 * 2 ^ 16 + 40)
theorem met_spar_instructions : sparred.Leads i0 ∧ specifier (formT 8 1 0 0 0 0).sa = some (.g 1) ∧
    (∀ m ∈ sparred.acting i0 (formOf 0 false [.g 1, .g 0] [.g 8, .g 9]), (sparred.regOf 0 m (.g 1)).toNat < 65536 ∧
      (sparred.translateSpar (sparred.slotCtx i0) (sparred.regOf 0 m (.g 1)).toNat |>.toOption) = some (40, 9)) ∧
    sparred.acting i0 (formOf 0 false [.g 1, .g 0] [.g 8, .g 9]) = [0, 1] ∧
    sparred.acting i0 (formOf 0 false [.g 1, .g 2, .g 3] [.g 8]) = [0, 1] ∧ sparred.acting i0 (formOf 0 false [.g 1] [.g 8]) = [0, 1] ∧
    (formT 8 1 2 0 2 0).type.toNat ≤ 2 := by unfold State.Leads; decide +kernel

/-- An object of 256 bytes in HBM: its handle, its base, and the state after. -/
def allocated : Nat × Nat × State :=
  match two.alloc 17 200 false 8 false with
  | .ok r => r
  | .error _ => (0, 0, two)
def holding : State := allocated.2.2.updThread 0 0 (fun t => { t with g := [(4, BitVec.ofNat 32 allocated.1), (5, BitVec.ofNat 32 (allocated.1 / 2 ^ 32))] })
theorem met_alloc_free : two.Leads i0 ∧ specifiers 4 (formT 8 2 0 0 1 8).dst = some [.g 8, .g 9, .g 10, .g 11] ∧ (formT 8 2 0 0 1 8).mod.toNat ≤ 30 ∧
    (two.alloc 17 200 false 8 false).isOk = true ∧ (two.alloc 17 200 true 12 false).isOk = true ∧
    ((({ holding with free := 0 }).updThread 0 1 (fun _ => gone)).Leads i0) ∧
    ((holding.updThread 0 1 (fun _ => gone)).issued i0 (formOf 0 false [.g 4, .g 5] [])).acting i0 (formOf 0 false [.g 4, .g 5] []) = [0] ∧
    (((holding.updThread 0 1 (fun _ => gone)).issued i0 (formOf 0 false [.g 4, .g 5] [])).freeAll 0 1 0 [.g 4, .g 5] [0]).2 = true ∧
    (holding.handle 1 allocated.1).isOk = true ∧ (holding.objTab 1).objs.rising = true := by unfold State.Leads; decide +kernel

/-- Block 4 is put from 64 bytes at the start of window 0. -/
def putting (entries : List HEntry) : State :=
  (withSlot (slotWith (threads 1 runner) [(0, 4), (2, 0x100000), (4, 64)])).updHoard 1 (fun h => { h with jobs := [(0xFFFF, HJob.idle)], entries := entries })
def kept (disp len : Nat) : HEntry := { job := 0xFFFF, block := 4, disp := disp, len := len, data := List.replicate len 1, husks := [] }
theorem met_hoard : (putting []).Leads i0 ∧ (putting []).acting i0 (formOf 0 true [.u 0, .u 2, .u 3, .u 4] [.g 8]) = [0] ∧
    ((putting []).regOf 0 0 (.u 0)).toNat < 0xFFFF ∧ ((putting []).regOf 0 0 (.u 4)).toNat % 32 = 0 ∧
    ((putting []).issued i0 (formOf 0 true [.u 0, .u 2, .u 3, .u 4] [.g 8])).ctxPieces 17 .r 0x100000 64 = some [(0, 64)] ∧
    ((putting []).issued i0 (formOf 0 true [.u 0, .u 2, .u 3, .u 4] [.g 8, .g 9])).ctxPieces 17 .w 0x100000 64 = some [(0, 64)] ∧
    (putting []).part 1 = some part1 ∧ (putting []).hoardKey 17 = (0xFFFF, 0) ∧ ((putting []).hoard 1).mapEn = false ∧
    ((putting []).hoard 1).job = 0xFFFF ∧ ((putting []).hoard 1).step = 0 ∧ (((putting []).hoard 1).jobs.get? 0xFFFF).map (·.step) = some 0 ∧
    ((putting []).hoard 1).find 0xFFFF 4 = none ∧ (((putting []).hoard 1).jobs.getD 0xFFFF HJob.idle).deep = none ∧
    ((putting []).hoard 1).use 0 + granules 64 ≤ part1.hbmGr ∧
    ((putting [kept 0 64]).hoard 1).find 0xFFFF 4 = some (kept 0 64) ∧ ((putting [kept 2 64]).hoard 1).find 0xFFFF 4 = some (kept 2 64) ∧
    (kept 1 64).disp ≠ 2 ∧ 32 < (kept 1 64).len ∧ (kept 1 64).len ≤ 64 := by unfold State.Leads; decide +kernel

/-- Channel 3 is open; its words lie at 0x40 of the local store. -/
def mailing (out inb : Bool) : State :=
  (withSlot (slotWith (threads 1 runner) [(0, 3), (1, 0x40)])).updMbx 1 3 (fun c => { c with opened := 2, outGo := out, inGo := inb })
theorem met_mail : (mailing true false).Leads i0 ∧ (mailing true false).acting i0 (formOf 0 true [.u 0, .u 1] [.g 8]) = [0] ∧
    ((mailing true false).regOf 0 0 (.u 0)).toNat < 24 ∧ ((mailing true false).mbx 1 3).opened = 2 ∧ ((mailing true false).mbx 1 3).outGo = true ∧
    ((mailing true false).regOf 0 0 (.u 1)).toNat % 64 = 0 ∧
    ((mailing true false).issued i0 (formOf 0 true [.u 0, .u 1] [.g 8])).lsOk 0 17 0x40 64 = true ∧
    ((mailing true false).issued i0 (formOf 0 true [.u 0, .u 1] [.g 8])).lsHusks 0 0x40 64 = false ∧ ((mailing true false).mbx 1 3).inGo = false ∧
    ((mailing false true).mbx 1 3).outGo = false ∧ ((mailing false true).mbx 1 3).inGo = true := by unfold State.Leads; decide +kernel

/-! ## The grid -/

/-- A result for g3 of thread 0. -/
def landing (ts : Map Thread) : State :=
  withSlot { slotWith ts [] with pend := [{ tag := 5, thread := 0, reg := 3, val := 9, ready := true, drain := false, clobber := false }] }
theorem met_results_land :
    ((landing (threads 2 runner)).slot 0 0).map (fun sl => (sl.pend.map (fun p => (p.ready, p.drain, p.reg, p.thread)),
      (List.range 16).any (fun k => decide ((sl.thread k).st ≠ .exited)))) = some ([(true, false, 3, 0)], true) ∧
    ((landing (threads 0 runner)).slot 0 0).map (fun sl => (sl.pend.length, (List.range 16).all (fun k => decide ((sl.thread k).st = .exited)))) =
      some (1, true) ∧ ((landing (threads 0 runner)).core 0).slots.rising = true := by decide +kernel

/-- A running launch of context 17: one sheaf on core 0, entry address 0x100100, a window of 1 KiB at 0. -/
def launchWord : BitVec 512 := BitVec.ofNat 512 (1 + 17 * 2 ^ 21 + 2 ^ 192 * (4 * 2 ^ 136 + 0x100100 * 2 ^ 256))
def entryOf (n : Nat) (bits : BitVec 512) (st : EState) : QEntry :=
  { n := n, bits := bits, jslot := none, step := 0, attempt := 0, st := st, posted := false, placed := [], ended := 0, waited := false
    signalled := false, aborted := false, remote := none }
def withEntries (s : State) (es : List QEntry) : State :=
  { s with fns := [(0, fn1), (1, { fn1 with queues := [(2, { Queue.idle with ctl := 1, entries := es })] })] }
def e7 : EntryRef := { fn := 1, q := 2, n := 7 }
def launching : State := withEntries base [entryOf 7 launchWord .running]
theorem met_sheaf_placement : e7.ok = true ∧ launching.entry e7 = some (entryOf 7 launchWord .running) ∧
    (entryOf 7 launchWord .running).toPlace 0 = true ∧ launching.ctxRuns 17 = true ∧ (entryOf 7 launchWord .running).ctx = 17 ∧
    launching.seated 17 = true ∧ launching.withheld 1 (tractOfCore 0) (entryOf 7 launchWord .running) = false ∧
    (launching.course (courseOfCore 0)).power = .run ∧ launching.slot 0 0 = none ∧ launching.freeBlock 17 = some 0 ∧
    -- with a sheaf in slot 0, slot 1 is the lowest free one
    two.slot 0 0 ≠ none ∧ two.slot 0 1 = none ∧ two.freeBlock 17 = some 1 := by decide +kernel

/-- Sixteen parked threads give way to a launch; a sheaf saved in block 1 may come back. -/
def parkedThread : Thread :=
  { Thread.idle with st := .parkSpar, wait := some { lid := 3, phys := 40, cond := 0, thresh := 1, dst := 8, code := 1 } }
def swapping : State := withEntries (withSlot (slotWith (threads 16 parkedThread) [])) [entryOf 7 launchWord .running]
def savedSheaf : Saved := { core := 0, area := 1, slot := { slotWith (threads 2 runner) [] with block := 1 } }
def restoring : State := base.updCtx 17 (fun c => { c with saved := [savedSheaf] })
theorem met_sheaf_swap : (swapping.slot 0 0).map Slot.parked = some true ∧ swapping.sheafReady 0 = true ∧ swapping.ctxRuns 17 = true ∧
    (swapping.core 0).slots.rising = true ∧
    (restoring.savedOn 0)[0]? = some (17, savedSheaf) ∧ (∃ m, m < 16 ∧ (savedSheaf.slot.thread m).st = .ready) ∧ restoring.ctxRuns 17 = true ∧
    restoring.seated 17 = true ∧ (restoring.course (courseOfCore 0)).power = .run ∧ restoring.slot 0 0 = none := by decide +kernel

def one : Opnd := { bank := false, seq := 0, clr := true, v0 := .fin false 1 0, v1 := none, low := false, raw := 0x3F80 }
def feedOf (core steps : Nat) (ncw : Word) : EdgeFeed :=
  { core := core, side := false, bank := false, clr := false, klen := steps, ncw := ncw, steps := steps, lanes := List.replicate 4 [one], wait := none }
def fedGang (f : Nat → EdgeFeed) (acc : Nat × Nat) : Gang :=
  { Gang.idle with ctx := some 17, acceptedA := acc, edge := (edgeCores 0 8 8 false).map f }
/-- Gang 0 holds an edge feed of each of its west edge cores. -/
def fedBy (f : Nat → EdgeFeed) (acc : Nat × Nat) : State :=
  { two with grid := { two.grid with shapes := [(0, 1)], gangs := [(0, fedGang f acc)] } }
theorem met_feeds :
    (fedBy (fun c => feedOf c 4 0) (0, 0)).gangDims 0 = some (8, 8) ∧
    ((fedBy (fun c => feedOf c 4 0) (0, 0)).gang 0).ctx = some 17 ∧ ((fedBy (fun c => feedOf c 4 0) (0, 0)).ctx 17).st = .defined ∧
    (∀ c ∈ edgeCores 0 8 8 false, ((fedBy (fun c => feedOf c 4 0) (0, 0)).gang 0).edgeOf false false c = some (feedOf c 4 0)) ∧
    0 + 4 ≤ 2 ^ 32 ∧
    -- cores that disagree on the numeric control word
    (∀ c ∈ edgeCores 0 8 8 false, ((fedBy (fun c => feedOf c 4 (if c = 0 then 0 else 1)) (0, 0)).gang 0).edgeOf false false c =
      some (feedOf c 4 (if c = 0 then 0 else 1))) ∧
    ¬(∀ c ∈ edgeCores 0 8 8 false, (feedOf c 4 (if c = 0 then 0 else 1)).ncw = (feedOf 0 4 0).ncw) ∧
    -- 2^32 − 4 steps and four more are allowed, 2^32 − 3 and four more are not
    ((fedBy (fun c => feedOf c 4 0) (2 ^ 32 - 4, 0)).gang 0).count (gangCores 0 8 8) false false + 4 = 2 ^ 32 ∧
    ((fedBy (fun c => feedOf c 4 0) (2 ^ 32 - 3, 0)).gang 0).count (gangCores 0 8 8) false false + 4 > 2 ^ 32 := by decide +kernel

/-- Gang 0 with an operand for cell (0, 0) on each side. -/
def firing : State :=
  { two with grid := { two.grid with shapes := [(0, 1)], gangs := [(0, { Gang.idle with ctx := some 17, rows := [(0, [one])], cols := [(0, [one])] })] } }
theorem met_cells : firing.gangDims 0 = some (8, 8) ∧ (firing.gang 0).held = false ∧ (firing.gang 0).releasing = false ∧
    (firing.gang 0).ctx = some 17 ∧ (firing.course (courseOfCore 0)).power = .run ∧
    (firing.gang 0).ready (gangCore 0 8 8 0 0) 0 0 = some (one, one) ∧
    ((firing.gang 0).cell 0 1).aq.length < skidA 8 8 1 ∧ ((firing.gang 0).cell 1 0).bq.length < skidB 1 := by decide +kernel

/-- A drain of core 0 that waits for one step of bank 0: to local store with companions, discarding, or to registers. -/
def drainOf (dcw : DWord) : Drain :=
  { core := 0, slot := 0, ctx := 17, dcw := dcw, ncw := 0, tOff := 0, zOff := 64, dOff := 128, dst := 8, tslot := 0, tid := 0, base := 0, pitch := 4
    need := 1, takers := [0], tag := 5 }
def doneGang (dcw : DWord) : Gang :=
  { Gang.idle with
    ctx := some 17, drains := [drainOf dcw], cells := (patchKeys 0 0).map (fun k => (k, { Cell.idle with done0 := 1, acc0 := 0x3F800000 })) }
def ending (dcw : DWord) (sl : Slot) : State :=
  let s := (withSlot sl).updFn 1 (fun f => { f with shRate := 0 })
  { s with grid := { s.grid with shapes := [(0, 1)], gangs := [(0, doneGang dcw)] } }
def takerSlot : Slot :=
  { slotWith (threads 2 runner) [] with pend := [{ tag := 5, thread := 0, reg := 8, val := 0, ready := false, drain := true, clobber := false }] }
theorem met_drains :
    (ending 0 takerSlot).gangDims 0 = some (8, 8) ∧ gangPos 0 8 8 0 = some (0, 0) ∧
    ((ending 0 takerSlot).gang 0).drains.find? (fun e => e.core == 0) = some (drainOf 0) ∧
    ((ending 0 takerSlot).gang 0).drainReady 0 0 (drainOf 0) = true ∧ ((ending 0 takerSlot).course 0).power = .run ∧
    ((ending 0 takerSlot).fn ((ending 0 takerSlot).ctx 17).fn).shRate = 0 ∧ dcDest 0 = 0 ∧
    (ending 0 takerSlot).slot 0 0 = some takerSlot ∧ (∃ m, m < 16 ∧ (takerSlot.thread m).st ≠ .exited) ∧
    -- a product with T, a derivative, local store as destination
    (let w : DWord := 0x1000000
     dcDest w ≠ 0 ∧ ((ending w takerSlot).gang 0).drains.find? (fun e => e.core == 0) = some (drainOf w) ∧
     (ending w takerSlot).lsHusks 0 0 64 = false ∧ (ending w takerSlot).lsHusks 0 64 64 = false) := by decide +kernel

theorem met_drain_elements : dcEop 0 = 0 ∧ dcDeriv 0 = 0 ∧ ofF32 0x3F800000 = .fin false 0x800000 (-23) ∧ ofF32 0 = .fin false 0 (-149) ∧
    (ofF32 0x7FC00000).isNan = true := by decide +kernel

/-- Gang 0, an 8 by 8 gang of context 17, at rest. -/
def wide (ew held : Bool) : State :=
  { two with grid := { two.grid with shapes := [(0, 1)], gangs := [(0, { Gang.idle with ctx := some 17, ew := ew, held := held })] } }
theorem met_element_wise : (wide true false).gangDims 0 = some (8, 8) ∧ ((wide true false).gang 0).ctx = some 17 ∧
    ((wide true false).gang 0).held = false ∧ ((wide true false).course 0).power = .run ∧ ((wide true false).ctx 17).st = .defined ∧
    ((wide true false).gang 0).ew = true ∧ dcReserved 0x1000000 = false ∧ ncwReserved 0 = false ∧ dcDest 0x1000000 = 1 ∧
    -- the last element that the window of 1 KiB holds, in the core at the east edge of row 31
    gangCore 0 8 8 (31 / 4) 7 < 1048576 ∧ dcDest 0 ≠ 1 ∧ ((wide false false).gang 0).ew = false := by decide +kernel
def widened : State := (wide true false).updCore (gangCore 0 8 8 0 7) (fun c => { c with lsWin := [(17, (0, 4))] })
theorem met_element_place : widened.lsOk (gangCore 0 8 8 0 7) 17 1020 4 = true ∧ widened.lsOk (gangCore 0 8 8 0 7) 17 1024 4 = false ∧
    1020 % ofmtBytes (field (0 : Word).toNat 11 9) = 0 := by decide +kernel

/-- A sample of core 0 that checker 1 found otherwise, and one that it has yet to check. -/
def sample (c1 : Option (List Word × List Word)) : Shadow :=
  { id := 3, core := 0, gang := 0, ctx := 17, drain := drainOf 0, window := 1, before := [], opA := [], opB := [], countBefore := 0, accs := [1], outs := [2]
    tile := [], rand := [], checker1 := c1, rows := (8, 9), capture := none, step := none, verdict := none }
def sampled (c1 : Option (List Word × List Word)) : State := { two with grid := { two.grid with shadows := [sample c1] } }
theorem met_shadow : (sampled none).grid.shadows.find? (fun x => x.id == 3) = some (sample none) ∧ (sample none).verdict = none ∧
    (sampled (some ([1], [5]))).grid.shadows.find? (fun x => x.id == 3) = some (sample (some ([1], [5]))) ∧
    ¬(([1], [5]) = ((sample none).accs, (sample none).outs)) ∧ (sample none).step = none ∧ ((sampled none).ctx 17).st = .defined ∧
    (sampled none).grid.retires = [] ∧ (((sampled none).course 0).retired.get? (coreRow 0)).isNone = true ∧
    ¬((([1], [6]) : List Nat × List Nat) = ([1], [5])) := by decide +kernel

def retire (shifting : Bool) : Retire :=
  { course := 0, row := 31, col := 31, core := coreAt 0 31 31, tract := 15, cause := gngShadowMismatch, due := true, shifting := shifting, fn := 1, jslot := none }
def retiring (shifting : Bool) : State := { base with grid := { base.grid with retires := [retire shifting] } }
theorem met_row_shift :
    (retiring false).grid.retires.find? (fun r => r.course == 0 && r.row == 31 && r.due && !r.shifting) = some (retire false) ∧
    ((retiring false).course 0).power ≠ .off ∧ (retire false).col < 32 ∧
    (retiring true).grid.retires.find? (fun r => r.course == 0 && r.row == 31 && r.shifting) = some (retire true) ∧
    (retiring true).grid.reshapes.any (fun q => q.tract == 15) = false := by decide +kernel

def reshape (sheaf : Bool) : Reshape :=
  { tract := 0, running := true, ctx := 17, word := 1, fn := 1, sheaf := sheaf, core := 0, slot := 0, tag := 5, entry := none }
def reshaping (sheaf : Bool) : State := { two with grid := { two.grid with shapes := [(0, 0)], gangs := [(0, Gang.idle)], reshapes := [reshape sheaf] } }
theorem met_reshape_completes : (reshaping true).grid.reshapes.find? (fun q => q.tract == 0 && q.running) = some (reshape true) ∧
    ((reshaping true).course 0).power = .run ∧ (∀ q ∈ (reshaping true).grid.reshapes, q ≠ reshape true → q.tract ≠ 0) ∧
    (reshaping true).grid.gangs.rising = true ∧ ((reshaping true).slot 0 0).isSome = true ∧
    quadOf 0 ∈ affectedQuads ((reshaping true).shape 0) 1 := by decide +kernel

theorem met_gang_parity : (wide true false).gangDims 0 = some (8, 8) ∧ (gangPos 0 8 8 0).isSome = true ∧ ((wide true false).gang 0).ctx = some 17 ∧
    ((wide true false).ctx 17).st = .defined := by decide +kernel

def aborting : State := two.updCtx 17 (fun c => { c with st := .faulted, fault := gngParity, aborting := true })
theorem met_context_abort : (aborting.ctx 17).aborting = true ∧ (aborting.ctx 17).st = .faulted ∧ aborting.grid.cores.rising = true ∧
    aborting.grid.gangs.rising = true ∧ aborting.jobOf 17 = none := by decide +kernel
theorem met_context_abort_slots (c : Nat) : (aborting.core c).slots.rising = true := by
  by_cases h : c = 0
  · subst h; decide +kernel
  · have : aborting.core c = Core.idle := by
      show (Map.getD [(0, _)] c Core.idle) = _
      simp [Map.getD, Map.get?, Ne.symm h]
    rw [this]; decide +kernel

/-! ## Memory -/

def kib (a : Nat) (k : MemKind) (i : Issue) : MemReq := two.accessOf i 0 4 0 k 0x100000 a 0 0
/-- One access at address 0, and the same behind a miss; and with a husk in word 0. -/
def slice (k : MemKind) (lines : Map DLine) (misses : Map (List MemReq)) : State :=
  { two with mem := { two.mem with reqs := [kib 0 k i0], dlines := lines, misses := misses } }
def heldLine : Map DLine := [(0, { part := 1, stamp := 1, cls := 0, valid := [0, 1, 2, 3], dirty := [], words := [], remote := none })]
def husked (s : State) : State := { s with mem := { s.mem with mem := { s.mem.mem with husks := [0] } } }
theorem met_home_slices :
    (slice .store [] []).memOk ∧ (slice .load heldLine []).memOk ∧ (husked (slice .load heldLine [])).memOk ∧
    blockedBy ((slice .store [] []).mem.reqs.take 0) (kib 0 .store i0) = false ∧ (kib 0 .load i0).addr = 0 ∧ (kib 0 .load i0).size = 4 ∧
    (slice .store [] []).openAt 0 4 = [] ∧
    (slice .load heldLine []).lineHas 0 4 = true ∧ (kib 0 .load i0).near = false ∧ (kib 0 .load i0).hint < 3 ∧
    (slice .load heldLine []).husksIn 0 4 = [] ∧ (husked (slice .load heldLine [])).husksIn 0 4 ≠ [] ∧ ((slice .load heldLine []).ctx 17).st = .defined ∧
    (kib 0 (.atom 0) i0).size = atomSize 0 ∧ ((slice .load [] [(0, [])]).mem.misses.get? 0).isSome = true ∧
    (slice .load [] []).lineHas 0 4 = false ∧ (slice .load [] []).fillsAt 0 < 256 := by unfold State.memOk; decide +kernel

theorem met_fills : (slice .load [] [(0, [kib 0 .load i0])]).memOk ∧ (slice .load [] [(0, [kib 0 .load i0])]).mem.misses.rising = true ∧
    (kib 0 .load i0).addr % 128 + (kib 0 .load i0).size ≤ 128 ∧ (kib 124 .load i0).addr % 128 + (kib 124 .load i0).size = 128 ∧
    (∀ k, k < 8 → (slice .load [] [(0, [kib 0 .load i0])]).memHusk (8 * 0 + k) = false) ∧
    -- scrubbing of the first and the last word of the partition's HBM unit
    two.mem.scrubH ≠ 0 ∧ two.populated 0 = true ∧ two.virginWord 0 = false ∧ two.ownerOfAddr 0 = some 1 := by unfold State.memOk; decide +kernel

/-- Contribution i of p to the element at 0x200, of which the next two are due. -/
def contrib (i p : Nat) : MemReq := { kib 0x200 (.ordered 2) i0 with ordsc := BitVec.ofNat 32 (p * 2 ^ 16 + i) }
def ordered (r : MemReq) (seqs : Map OrdSeq) : State := { two with mem := { two.mem with reqs := [r], seqs := seqs } }
def seq2 : Map OrdSeq := [(0x200, { size := 4, next := 2, count := 30, buf := [] })]
theorem met_ordered :
    (ordered (contrib 2 30) seq2).memOk ∧ (ordered (contrib 2 30) seq2).mem.seqs.rising = true ∧ (contrib 2 30).ordsc.toNat = 30 * 2 ^ 16 + 2 ∧
    (contrib 2 30).remote = none ∧ (contrib 2 30).kind = .ordered 2 ∧
    -- the index due, 15 ahead, 16 ahead, one already taken, one that the sequence does not have
    (contrib 17 30).ordsc.toNat % 2 ^ 16 ≤ 2 + 15 ∧ (ordered (contrib 17 30) seq2).buffered (0x200 / 128) < 16 ∧ 2 + 15 < (contrib 18 30).ordsc.toNat % 2 ^ 16 ∧
    (contrib 1 30).ordsc.toNat % 2 ^ 16 < 2 ∧ (contrib 30 30).ordsc.toNat / 2 ^ 16 ≤ (contrib 30 30).ordsc.toNat % 2 ^ 16 ∧
    ((ordered (contrib 2 30) seq2).ctx 17).st = .defined ∧
    -- an element with no sequence, whose line can be pinned, or not where the set has two ways and one pinned line already
    (ordered (contrib 0 2) []).canPin (0x200 / 128) = true ∧ (ordered (contrib 0 2) []).mem.seqs.get? 0x200 = none ∧
    (contrib 0 2).ordsc.toNat % 2 ^ 16 = 0 ∧ 1 < (contrib 0 2).ordsc.toNat / 2 ^ 16 ∧
    ({ two with mem := { two.mem with retries := [contrib 18 30] } }.mem.retries[0]?) = some (contrib 18 30) := by
  unfold State.memOk; decide +kernel

/-- A partition without a way in its home slices can pin no line. -/
def wayless : State :=
  { ordered (contrib 0 2) [] with truss := { two.truss with parts := [(1, { part1 with ways := List.replicate 16 0 })] } }
theorem met_no_pin : wayless.memOk ∧ wayless.canPin (0x200 / 128) = false := by unfold State.memOk; decide +kernel

/-! ## Spars -/

def sparOp (act : SparAct) : SparOp :=
  { core := 0, slot := 0, thread := 0, ctx := 17, lid := 3, gen := 9, tag := 5, pc := 0x100100, word := 0, act := act }
def spar40 (kind : Nat) (value param : DWord) (aband : Bool) (act : SparAct) : Spar :=
  { Spar.idle with used := true, kind := kind, value := value, param := param, gen := 9, owner := 17, part := 1, aband := aband, ops := [sparOp act] }
def waitingThread : Thread := { runner with st := .parkSpar, wait := some { lid := 3, phys := 40, cond := 0, thresh := 5, dst := 8, code := 0 } }
def atHome (t : Thread) (sp : Spar) : State :=
  { withSlot (slotWith (threads 2 t) []) with tab := { base.tab with spars := [(40, sp)] } }
theorem met_spar_home :
    -- a semaphore of capacity 4: up to 4 inside, 5 outside, and below 0 with −4
    (((spar40 1 3 4 false (.add 1)).value.toNat : Int) + (1 : DWord).toInt ≤ 4) ∧ ((spar40 1 3 4 false (.add 2)).value.toNat : Int) + (2 : DWord).toInt > 4 ∧
    (spar40 1 3 4 false (.add (-3))).value = 3 ∧
    ((atHome runner (spar40 0 3 0 false (.add 1))).spar 40).ops = [sparOp (.add 1)] ∧
    ((atHome runner (spar40 0 3 0 false (.add 1))).slot 0 0).isSome = true ∧ ((atHome runner (spar40 0 3 0 false (.add 1))).ctx 17).st = .defined ∧
    -- waits: with codes 0 to 3 over a value of 5 that meets the threshold or not
    sparHolds 0 6 5 = false ∧ sparHolds 0 5 5 = true ∧ ((atHome waitingThread (spar40 0 5 0 false (.wait 0 5))).thread 0 0).wait.isSome = true ∧
    ((atHome waitingThread (spar40 0 5 0 true (.wait 0 5))).thread 0 0).token = none ∧ ((spar40 0 5 0 true .arrive).aband = true) ∧
    -- an arrival of a barrier for one, and for two
    ((atHome runner (spar40 2 0 1 false .arrive)).spar 40).arr < (spar40 2 0 1 false .arrive).count ∧
    ((atHome runner (spar40 2 0 2 false .arrive)).spar 40).arr + 1 < (spar40 2 0 2 false .arrive).count := by decide +kernel

theorem met_spar_waiters :
    (sparOp (.add 1)).gen ≠ ({ spar40 0 3 0 false (.add 1) with gen := 10 } : Spar).gen ∧
    ((atHome waitingThread { spar40 0 3 0 false (.add 1) with waiters := [.thread 0 0 1] }).thread 0 1).wait.isSome = true ∧
    sparHolds 0 5 (4 + 1) = true ∧ sparHolds 0 5 (3 + 1) = false := by decide +kernel

theorem met_semaphore_adds : (3 : Int) + (-3 : DWord).toInt = 0 ∧ (3 : Int) + (-4 : DWord).toInt < 0 := by
  constructor <;> simp [BitVec.toInt]

/-! ## Jobs

A job of two replicas and a spare. The device is replica 0; chunk 0 is its own and chunk 1 the other's. -/

def memberAt (first nchunk : Nat) (dev : BitVec 16) (ridx : Nat) (spare : Bool) : Member :=
  { first := first, nchunk := nchunk, devid := dev, group := 0, ridx := ridx, spare := spare, expelled := false }
def updAt (rule start aux : Nat) : UpdEntry :=
  { first := 0, nchunk := 2, rule := rule, nest := false, bc := false, emb := false, stbf16 := false, cord := false, csign := false, cden := 0, ns := 0
    rowlog := 0, layer := 0, tid := 7, start := start, eta := 0x3C23D70A, lambda := 0, beta1 := 0x3F666666, beta2 := 0x3F7FBE77, eps := 0x322BCC77
    view := 0x3000, ctlen := 0, aux := aux }
def job1 : Job :=
  { job := 9, desc := 0x4000, gen := 4, step := 20, tau := 8, k := 0, rtmo := 1000, nring := 1, vretry := 0, spec := true, order := false, portmask := 3
    memb := 0x4100, members := [memberAt 0 1 2 0 false, memberAt 1 1 3 1 false, memberAt 0 0 4 0 true], myidx := 0, buddy := 1, readyLid := 0, spctx := 17
    bsspar := 0, slotbase := 0, slotcnt := 4, grad0 := 0x40000, grad1 := 0x50000, tmask := 255, roles := [], ckint := 0
    hdr := { seed := 1, table := 0x4300, sched := 0, schlen := 0, schbase := 0, ntbase := 0x4400, ntdepth := 1, ntlayers := 0, dgbase := 0, dgdepth := 0 }
    upd := [updAt 0 0 0], bsq := 0x8800, readySp0 := some { phys := 40, gen := 9 }, readySp1 := some { phys := 40, gen := 9 }, bsSp := some { phys := 40, gen := 9 }
    preSp := [], st := .running, voids := 0, rcvd := [], rcvdNext := [], ridgeSent := false, digests := [], digest := 0, devDigest := 0, hashed := 0
    digSeal := 0, digSealStep := 0, splitBefore := false, cause := 0, origin := 0, causeStep := 0, tallyf := 0, stale := 0, lifts := 0, escapes := 0
    ownDone := [], paramHeld := [], sent := [], staged := [], preDone := [], verify := false, pendingVoid := none, rewinding := false
    hold := [], holdGen := [], staleLogged := false, nakSeen := [], agentLogged := [], seenMsgs := [], timerRunning := true, streams := [], bsStarted := 0
    bsSeen := (0, []), awaits := [], ckdesc := some { localA := 0x60000, slotsz := 0x2000, peer := 0, jrnl := 0x70000, jdepth := 16 }, ckruns := []
    ckLastStep := 0, ckLastSlot := 0, ckBuddyOk := true, attempts := 1, energy := 0 }

def readySpar (kind : Nat) (aband : Bool) : Spar :=
  { Spar.idle with used := true, kind := kind, value := 2, gen := 9, owner := 17, part := 1, aband := aband }

/-- The job in slot 3 of function 1; the view block's two sets of a weight and a state buffer. -/
def working (b : Job) (sp : Spar) : State :=
  ({ base with
    fns := [(0, fn1), (1, { fn1 with jobs := [(3, b)] })]
    tab := { base.tab with spars := [(40, sp)] }
    fab := { base.fab with ports := [(0, { Port.idle with st := .up, enable := true })] } }).writeBytes 0x3008
      (leBytes 8 0x10000 ++ leBytes 8 0x12000 ++ List.replicate 32 0 ++ leBytes 8 0x14000 ++ leBytes 8 0x16000)
def training : State := working job1 (readySpar 0 false)

theorem met_agent_spars : training.job 1 3 = some job1 ∧ training.agentOf 1 job1 .readyEven = (0, 0x09, some ⟨40, 9⟩) ∧
    (training.spar 40).gen = 9 ∧ (training.spar 40).aband = false ∧ (training.spar 40).kind = 0 ∧ (training.spar 40).waiters = [] ∧
    ((working job1 (readySpar 0 true)).spar 40).aband = true ∧ ((working job1 (readySpar 2 false)).spar 40).kind = 2 ∧
    (training.agentOf 1 { job1 with readySp0 := none } .readyEven).2.2 = none := by decide +kernel

/-- A gutter message of a type for the job, of a step and generation, about a chunk, from member 1. -/
def gut (type step gen chunk extra : Nat) (body : List CodeWord) : Msg :=
  let v := type + 9 * 2 ^ 8 + gen * 2 ^ 24 + step * 2 ^ 32 + chunk * 2 ^ 64 + 2 ^ 104 + extra
  { addr := 0, dstdev := 2, srcdev := 3, htag := 0, tag := 0, op := 0x20, ttl := 64, len := BitVec.ofNat 9 (2 + body.length), cls := if type ≤ 5 then 2 else 3
    dlh := true, rsv := false, nak := 0, atype := 0, ordsc := 0, hint := 0, words := [cleanWord v, cleanWord (v / 2 ^ 128)] ++ body }
def blank (n : Nat) : List CodeWord := List.replicate n (cleanWord 0)

theorem met_contributions :
    -- chunk 1 is the other replica's, so this one starts it; chunk 0 is its own
    job1.owner job1.me.group 1 = some (1, memberAt 1 1 3 1 false) ∧ training.shareReady job1 1 = true ∧ job1.me.spare = false ∧
    job1.me.ridx = (1 + 1) % job1.size job1.me.group ∧ job1.owner job1.me.group 0 = some (0, memberAt 0 1 2 0 false) ∧ job1.updOf 0 = some (0, updAt 0 0 0) := by decide +kernel
theorem met_contribution_messages :
    training.GutterIn 0 (gut 1 20 4 0 0 (blank 257)) 1 1 3 job1 ∧ job1.age (gHdrOf (gut 1 20 4 0 0 (blank 257))) = .current ∧
    training.shareReady job1 0 = true ∧ job1.age (gHdrOf (gut 1 21 4 0 0 (blank 257))) = .ahead ∧
    training.GutterIn 0 (gut 1 21 4 0 0 (blank 257)) 1 1 3 job1 ∧ job1.hold = [] ∧
    training.GutterIn 0 (gut 1 20 3 0 0 (blank 257)) 1 1 3 job1 ∧ job1.age (gHdrOf (gut 1 20 3 0 0 (blank 257))) = .stale := by
  and_intros <;> decide +kernel

/-- A chunk of ones that waits in engine 0, with its true sum or a wrong one. -/
def waitingChunk (gen : Nat) (sigma : DWord) (husk : Bool) : EChunk :=
  { fn := 1, jslot := 3, gen := gen, step := 20, chunk := 0, ring := 0, startIdx := 1, hops := 1, ovf := false, mask := 0, sigma := sigma, amag := 0
    vals := List.replicate 1024 0x3F800000, husk := husk }
def queued (x : EChunk) : State := { training with engines := [(0, { Engine.idle with chunks := [x] })] }
theorem met_engine : ((queued (waitingChunk 4 0 true)).engine 0).chunks.find? (fun x => (queued (waitingChunk 4 0 true)).takes x) = some (waitingChunk 4 0 true) ∧
    (queued (waitingChunk 4 0 true)).job 1 3 = some job1 ∧ (waitingChunk 3 0 false).gen ≠ job1.gen ∧ (waitingChunk 4 0 false).gen = job1.gen ∧
    job1.updOf (waitingChunk 4 0 false).chunk = some (0, updAt 0 0 0) ∧ job1.step < (updAt 0 21 0).start ∧ (updAt 0 20 0).start ≤ job1.step ∧
    (updAt 0 20 0).rule ≠ 3 ∧ (updAt 0 20 0).emb = false := by decide +kernel
/-- A single value of 1: its sum is 1.0, and a sum of 0 fails with a tolerance of 0. -/
theorem met_tally : (tallyFails [0x3F800000] 0x3FF0000000000000 false 8 1 0).isNone = true ∧ (tallyFails [0x3F800000] 0 false 8 1 0).isSome = true ∧
    (ofF64 0x3FF0000000000000).isFinite = true ∧ (ofF64 (toF64 (mulNum (.fin false 16 0) (ofF64 0)))).isFinite = true ∧
    (ofF64 0x7FF0000000000000).isFinite = false := by decide +kernel

theorem met_rules : (training.updateElem job1 (updAt 0 0 0) (training.coef (updAt 0 0 0) 20 one32) 0 0 1023 0 0x3F800000).isOk = true ∧
    (ofF32 0x7F800000).isFinite = false := by decide +kernel

/-- The PRE entry: one block of one element staged at 0x20000, whose staged and ready words hold step 20. -/
def preJob : Job := { job1 with upd := [updAt 3 0 0x3400] }
def preReady : State :=
  (working preJob (readySpar 0 false)).writeBytes 0x3400 (leBytes 64 (0x20000 * 2 ^ 448 + 2 ^ 416 + 2 ^ 384 + 2 ^ 354 + 2 ^ 364 + 2 ^ 320))
    |>.writeBytes 0x20004 (leBytes 4 20 ++ leBytes 4 20)
theorem met_pre : preReady.job 1 3 = some preJob ∧ preJob.upd[0]? = some (updAt 3 0 0x3400) ∧ preJob.flows = true ∧ preJob.rewinding = false ∧
    (preReady.preBlock 0x3400).blocks = 1 ∧ preJob.preDone.contains (0, 0) = false ∧ preReady.readNat ((preReady.preBlock 0x3400).staged 0) 4 = 20 % 2 ^ 32 ∧
    preReady.readNat ((preReady.preBlock 0x3400).ready 0) 4 = 20 % 2 ^ 32 ∧
    ((preReady.preBlock 0x3400).elems 0).all (fun y => (preReady.husksIn ((preReady.preBlock 0x3400).stage + 4 * y) 4).isEmpty &&
      !preReady.elemHusks (updAt 3 0 0x3400) (preReady.sel (updAt 3 0 0x3400)) 0 y 1) = true ∧
    (preReady.updateElems preJob (updAt 3 0 0x3400) (preReady.coef (updAt 3 0 0x3400) 20 (preReady.schedule preJob.hdr 20).1) 0 0 0
      (fun y => BitVec.ofNat 32 (preReady.readNat ((preReady.preBlock 0x3400).stage + 4 * y) 4)) ((preReady.preBlock 0x3400).elems 0)).isOk = true := by
  decide +kernel
def copying : State := { training with engines := [(0, { Engine.idle with rows := [(1, 3, 0, 5)] })] }
theorem met_rows : (copying.engine 0).rows.head? = some (1, 3, 0, 5) ∧ copying.job 1 3 = some job1 ∧ job1.ckruns = [] ∧ job1.upd[0]? = some (updAt 0 0 0) ∧
    copying.memOk := by unfold State.memOk; decide +kernel

theorem met_parameters : training.GutterIn 0 (gut 2 20 4 1 0 (blank 128)) 2 1 3 job1 ∧ job1.age (gHdrOf (gut 2 20 4 1 0 (blank 128))) = .current ∧
    job1.updOf 1 = some (0, updAt 0 0 0) ∧ job1.owner 0 1 = some (1, memberAt 1 1 3 1 false) ∧ job1.flows = true ∧ job1.reduces 1 = true ∧
    (1 ≠ job1.myidx) ∧ job1.paramHeld.contains 1 = false ∧ (msgBody (gut 2 20 4 1 0 (blank 128))).length = 128 ∧ training.memOk ∧
    training.bufAddr (updAt 0 0 0) (1 - training.sel (updAt 0 0 0)) 0 + 2048 * (1 - 0) = 0x14800 ∧ (updAt 0 0 0).view + 104 ≤ 0x14800 := by
  unfold State.GutterIn State.Arrived State.memOk; decide +kernel

/-- A descriptor of 100 elements in a ring of two, of which this member is position 0. -/
def submitting : State :=
  training.writeBytes 0x8800 (leBytes 64 (0x90000 + 0xA0000 * 2 ^ 64 + 0xB0000 * 2 ^ 128 + 100 * 2 ^ 192 + 127 * 2 ^ 224 + 2 ^ 232 + 2 ^ 248))
def noStream : BStream :=
  { n := 0, seq := 0, step := 20, done := 0, doneSp := none, allg := true, mypos := 0, rlen := 1, e0 := 127, nelem := 0, ring := [], dst := 0
    src := 0, chunks := [], escapes := [], lifted := false, escaped := false }
def stream1 : BStream := (submitting.streamOf 1 job1 0).getD noStream
theorem met_block_start : (submitting.streamOf 1 job1 0).isSome = true ∧ job1.flows = true ∧ job1.bsStarted < submitting.agentValue job1.bsSp ∧
    job1.nring + job1.streams.length < job1.slotcnt ∧ stream1.count = 1 ∧ (∀ k, k < stream1.count → (stream1.ownerPos k + 1) % (stream1.rlen + 1) ≠ stream1.mypos) ∧
    stream1.chunks = [] ∧ stream1.over = false ∧ stream1.complete = false := by decide +kernel

/-- The stream runs, and messages about its chunk arrive. -/
def streamJob : Job := { job1 with streams := [stream1] }
def streamsOn : State := working streamJob (readySpar 0 false)
def blk (type : Nat) : Msg := gut type 20 4 0 0 (blank (if type = 5 then 8 else 256))
theorem met_block_messages : streamJob.age (gHdrOf (blk 3)) = .current ∧
    streamJob.streams.find? (fun t => t.seq == (gHdrOf (blk 3)).seq && t.step == (gHdrOf (blk 3)).step) = some stream1 ∧
    streamsOn.GutterIn 0 (blk 3) 3 1 3 streamJob ∧ streamsOn.GutterIn 0 (blk 4) 4 1 3 streamJob ∧ streamsOn.GutterIn 0 (blk 5) 5 1 3 streamJob ∧
    stream1.escaped? (bsumOf (blk 3) (fun k => stream1.escape 0 k)) = true := by
  and_intros <;> decide +kernel

/-- A block of zeros to which 1.0 is added: at exponent 127 it needs one lift; at 128 it fits at once; at 60 no lift suffices. -/
def blkAt (e : Nat) : Blk := { e := e, l := 0, esc := false, m := List.replicate 32 0, f := [], husk := false }
def fitsAt (e a : Nat) (w : Word) : Bool :=
  (List.range 32).all (fun i => decide ((rneInt (scaleNum (addNum ((blkAt e).value i) (ofF32 w)) (142 - e - a))).natAbs ≤ 32767))
theorem met_blocks : (ofF32 0x3F800000).isFinite = true ∧ fitsAt 127 0 0x3F800000 = false ∧ fitsAt 127 1 0x3F800000 = true ∧ fitsAt 128 0 0x3F800000 = true ∧
    (List.range 8).all (fun a => !fitsAt 60 a 0x3F800000) = true := by decide +kernel

/-- Every chunk is done; member 1's ridge; all ridges held. -/
def readyJob : Job := { job1 with ownDone := [0], paramHeld := [1] }
def sealing : Job := { readyJob with ridgeSent := true, rcvd := [0, 1] }
theorem met_ridges : readyJob.ridgeReady = true ∧ job1.numbered.any (fun x => x.1 == (gHdrOf (gut 6 20 4 0 0 [])).start && x.2.active) = true ∧
    training.GutterIn 0 (gut 6 20 4 0 0 []) 6 1 3 job1 ∧ training.GutterIn 0 (gut 6 21 4 0 0 []) 6 1 3 job1 ∧
    job1.age (gHdrOf (gut 6 20 4 0 0 [])) = .current ∧ job1.age (gHdrOf (gut 6 21 4 0 0 [])) = .ahead ∧
    job1.seenMsgs = [] ∧ job1.ridgeSent = false ∧ sealing.ridgeSent = true ∧
    sealing.numbered.all (fun m => !m.2.active || sealing.rcvd.contains m.1) = true ∧ sealing.digestStep = false ∧ sealing.pendingVoid = none ∧
    (working sealing (readySpar 0 false)).grid.shadows = [] ∧ job1.upd.map UpdEntry.view = [0x3000] := by
  and_intros <;> decide +kernel

def rewinding : Job := { job1 with rewinding := true }
theorem met_voids : training.GutterIn 0 (gut 7 20 4 0 (0x4001 * 2 ^ 160) []) 7 1 3 job1 ∧ job1.age (gHdrOf (gut 7 20 4 0 (0x4001 * 2 ^ 160) [])) = .current ∧
    ({ job1 with voids := 2 } : Job).voids + 1 ≤ ({ job1 with voids := 2 } : Job).limit ∧ job1.timerRunning = true ∧
    (working rewinding (readySpar 0 false)).settled 1 3 = true ∧ rewinding.pendingVoid = none ∧ (working rewinding (readySpar 0 false)).grid.retires = [] := by
  and_intros <;> decide +kernel

/-- Member 1 is out and member 1's join — sent under its own number — is awaited; the device as the spare of the group. -/
def awaiting : Job := { job1 with st := .awaitSpare, awaits := [(2, some 1)] }
def spareJob : Job := { job1 with myidx := 2 }
theorem met_spares : (working awaiting (readySpar 0 false)).GutterIn 0 (gut 8 20 4 0 0 []) 8 1 3 awaiting ∧ awaiting.age (gHdrOf (gut 8 20 4 0 0 [])) = .current ∧
    awaiting.awaits = [(2, some (gHdrOf (gut 8 20 4 0 0 [])).start)] ∧ spareJob.me.spare = true ∧ spareJob.me.expelled = false ∧ 1 ≠ spareJob.myidx ∧
    1 < spareJob.members.length ∧ (spareJob.member 1).group = spareJob.me.group ∧ (spareJob.member 1).spare = false := by
  and_intros <;> decide +kernel

def ckrun : CkRun := { step := 19, slot := 1, body := List.replicate 16 5, husks := [], localDone := false, buddyDone := false, abandoned := false }
def ckJob : Job := { job1 with ckruns := [ckrun] }
def ckState : State := working ckJob (readySpar 0 false)
def bursting : State := { ckState with fab := { ckState.fab with remotes := [{ tag := 1, port := 0, window := 0, gaddr := 0, dev := 3, why := .buddy 1 3 }] } }
theorem met_checkpoints : job1.ckdesc.isSome = true ∧ ckState.job 1 3 = some ckJob ∧ ckState.memOk ∧ 0x60000 + 1 * 0x2000 + 4096 + ckrun.body.length ≤ 2 ^ 45 ∧
    bursting.job 1 3 = some ckJob ∧ ckrun.buddyDone = false ∧ bursting.fab.remotes.any (fun e => e.why == .buddy 1 3) = true ∧ ckrun.step < 2 ^ 32 := by
  unfold State.memOk; decide +kernel

/-! ## The fabric -/

def port0 (st : PortSt) : Port := { Port.idle with st := st, linkUp := st, enable := true }
def fabbed (p : Port) (remotes : List Remote) : State :=
  { two with fab := { two.fab with ports := [(0, p)], remotes := remotes, routes := [(5, { cand := 1, dl := 0 })] } }
def linked0 : State := fabbed (port0 .up) []
/-- A message of an opcode from device 3 with hall tag 7 to local address a. -/
def fabMsg (op cls atype : Nat) (a : Nat) (words : List CodeWord) : Msg :=
  { addr := BitVec.ofNat 64 (2 ^ 62 + 2 * 2 ^ 46 + a), dstdev := 2, srcdev := 3, htag := 7, tag := 1, op := BitVec.ofNat 8 op, ttl := 64
    len := BitVec.ofNat 9 words.length, cls := BitVec.ofNat 2 cls, dlh := false, rsv := false, nak := 4, atype := BitVec.ofNat 8 atype, ordsc := 0, hint := 0
    words := words }
theorem met_remote_targets : linked0.memOk ∧ linked0.lineBusy 0 (fabMsg 1 0 9 0x180 []) = false ∧
    -- a READ of the line at 0x180, of atype 9 and no other
    linked0.Arrived 0 (fabMsg 1 0 9 0x180 []) 0x01 ∧ sizeLegal 9 = true ∧ readSpan (fabMsg 1 0 9 0x180 []) = (0x180, 128) ∧
    linked0.refuses 7 0x180 = none ∧ linked0.refuses 7 (0x180 + 127) = none ∧ (∀ k, k < 8 → linked0.memHusk (8 * (0x180 / 128) + k) = false) ∧
    linked0.refuses 8 0x180 = some 6 ∧ linked0.refuses 7 0x800000000 = some 6 := by
  and_intros <;> decide +kernel
theorem met_remote_writes :
    linked0.Arrived 0 (fabMsg 2 0 8 0x1E0 (blank 2)) 0x02 ∧ writeSpan (fabMsg 2 0 8 0x1E0 (blank 2)) = (0x1E0, 32) ∧ 0x1E0 % 128 + 32 ≤ 128 ∧
    linked0.openAt 0x1E0 32 = [] ∧ linked0.Arrived 0 (fabMsg 3 0 12 0x180 (blank 1)) 0x03 ∧ linked0.Arrived 0 (fabMsg 4 0 2 0x180 (blank 1)) 0x04 := by
  and_intros <;> decide +kernel

/-- An access of thread 0 to device 3 that is not yet answered. -/
def remoteOf (k : MemKind) : Remote := { tag := 1, port := 0, window := 1, gaddr := BitVec.ofNat 64 (2 ^ 62 + 3 * 2 ^ 46), dev := 3, why := .thread (kib 0 k i0) }
def asked (k : MemKind) : State := fabbed (port0 .up) [remoteOf k]
def nakMsg : Msg :=
  fabMsg 0x30 1 0 0 [cleanWord 0, cleanWord (3 * 2 ^ 48)]
theorem met_remote_answers : (asked .load).remoteOf (fabMsg 0x11 1 0 0 (blank 1)) = some (remoteOf .load) ∧
    (asked .load).Arrived 0 (fabMsg 0x11 1 0 0 (blank 1)) 0x11 ∧ (∀ w ∈ (fabMsg 0x11 1 0 0 (blank 1)).words, w.st = .clean) ∧
    (asked .store).Arrived 0 (fabMsg 0x12 1 0 0 []) 0x12 ∧ (asked (.atom 0)).Arrived 0 (fabMsg 0x13 1 0 0 (blank 1)) 0x13 ∧
    (asked (.ordered 0)).Arrived 0 (fabMsg 0x14 1 0 0 (blank 1)) 0x14 ∧ linked0.remoteOf (fabMsg 0x11 1 0 0 (blank 1)) = none ∧
    linked0.Arrived 0 (fabMsg 0x11 1 0 0 (blank 1)) 0x11 := by
  and_intros <;> decide +kernel
theorem met_naks : (asked .load).Arrived 0 nakMsg 0x30 ∧ nakMsg.cls ≠ 3 ∧ 1 ≤ nakMsg.nak.toNat ∧ nakMsg.nak.toNat ≤ 9 ∧
    (asked .load).refused nakMsg = some (remoteOf .load) ∧ ((asked .load).ctx 17).st = .defined ∧
    (asked .load).fab.remotes.find? (fun x => x.tag == 1) = some (remoteOf .load) := by
  and_intros <;> decide +kernel

def flit0 (crc : Bool) (n : BitVec 12) : Flit :=
  { fseq := n, ackseq := 0, ftype := 0, cred := 0, vc := 0, crcOk := crc, fecOk := true, corr := 0, msgs := [fabMsg 1 0 9 0x180 []] }
def resendPort : Port := { port0 .up with replay := [(6, fabMsg 1 0 9 0 [], 0), (7, fabMsg 1 0 9 128 [], 7)] }
theorem met_link : (port0 .up).linked = true ∧ (flit0 true 0).fecOk = true ∧ (port0 .up).injMode = 0 ∧ (port0 .up).replay = [] ∧ (port0 .up).held = [] ∧
    (flit0 true 0).fseq = (port0 .up).rxSeq ∧ linked0.occupied 0 0 = 0 ∧ (flit0 true 1).fseq ≠ (port0 .up).rxSeq ∧
    resendPort.replay = [(6, fabMsg 1 0 9 0 [], 0)] ++ (7, fabMsg 1 0 9 128 [], 7) :: [] ∧ resendPort.linked = true ∧
    24 * 100000 < 100000 * 25 ∧ 100000 * 24 ≤ 24 * 100000 ∧ (port0 .training).st = .training ∧ usableLanes 0xFF = 0xFF ∧ usableLanes 0xEF = 0x0F ∧ usableLanes 0xF7 = 0xF0 ∧
    usableLanes 0x77 = 0 ∧ ({ port0 .up with waiting := [fabMsg 1 0 9 0 []] } : Port).waiting.any (fun m => channelOf m == 0) = true := by decide +kernel
/-- A channel has room for a flit, whatever its depth. -/
theorem met_room : linked0.occupied 0 0 < Config.vcDepth := by
  rw [show linked0.occupied 0 0 = 0 by decide +kernel]; exact Nat.succ_pos _

/-- A message on its way from device 3 to device 5. -/
def through (ttl : BitVec 8) (dst : BitVec 16) : Msg := { fabMsg 0x12 1 0 0 [] with dstdev := dst, ttl := ttl }
theorem met_transit : (through 2 5).dstdev ≠ linked0.fab.devid ∧ (linked0.port 0).st.carries = true ∧ hdrLegal (through 2 5) = true ∧
    (linked0.fab.inbox.takeWhile (fun x => x != (0, through 2 5))).any (fun x => x.1 == 0 && x.2.dstdev != linked0.fab.devid &&
      channelOf x.2 == channelOf (through 2 5)) = false ∧ 1 < (through 2 5).ttl.toNat ∧
    linked0.route ((through 2 5).addr.toNat % 2 ^ 46) 5 3 none = some 0 ∧ (through 1 5).ttl.toNat ≤ 1 ∧
    linked0.route ((through 2 6).addr.toNat % 2 ^ 46) 6 3 none = none ∧ (through 2 5).op ≠ 0x30 ∧
    ({ port0 .up with held := [through 2 5] } : Port).held = [] ++ [through 2 5] := by decide +kernel

/-! ## The whole machine -/

theorem met_abandoned : (ordered (contrib 2 30) seq2).mem.seqs.rising = true ∧
    (ordered (contrib 2 30) seq2).mem.seqs.get? 0x200 = some { size := 4, next := 2, count := 30, buf := [] } := by decide +kernel

theorem met_spar_bounds : ((atHome runner (spar40 1 3 4 false (.add 2))).spar 40).ops = sparOp (.add 2) :: [] ∧ (sparOp (.add 2)).gen = 9 ∧
    (spar40 1 3 4 false (.add 2)).aband = false ∧ (spar40 1 3 4 false (.add 2)).kind = 1 ∧ ((atHome runner (spar40 1 3 4 false (.add 2))).ctx 17).st = .defined ∧
    ((3 : Nat) : Int) + (2 : DWord).toInt > ((4 : DWord).toNat : Int) := by decide +kernel

/-- The partition is a configuration that obeys R357, and an empty device is one too. -/
theorem met_partitions : base.Partitioned := by
  refine ⟨⟨by decide +kernel, ?_, ?_, by decide +kernel, by decide +kernel, by decide +kernel⟩, fun img h => ?_⟩
  · intro n k p q hn hk hne
    have hn' : (if 1 = n then some part1 else none) = some p := hn
    have hk' : (if 1 = k then some part1 else none) = some q := hk
    split at hn' <;> split at hk' <;> simp_all
  · intro n p hn
    have hn' : (if 1 = n then some part1 else none) = some p := hn
    split at hn'
    · injection hn' with e; subst e; unfold Part.Fits; decide +kernel
    · cases hn'
  · exact absurd (show (none : Option TrussImg) = some img from h) (by simp)

theorem met_memory_writes : two.memOk ∧ 0x100 + [(1 : Byte), 2].length ≤ 2 ^ 46 := by unfold State.memOk; decide +kernel

def outcome (o : Host.Outcome State Fault Refusal) : State := match o with | .next t => t | _ => base
theorem met_configuration : (base.fn 0).heldLow = none ∧ (outcome (exec .conventionalReset base)).truss.parts ≠ base.truss.parts := by decide +kernel

/-! ## Submission entries -/

/-- A waiting entry of context c with an opcode and payload, its header's other bits in `more`. -/
def cmd (opc c more pay : Nat) : QEntry := entryOf 7 (BitVec.ofNat 512 (opc + c * 2 ^ 21 + 31 * 2 ^ 57 + more + 2 ^ 192 * pay)) .waiting
def queueing (s : State) (x : QEntry) : State := { s with fns := (withEntries s [x]).fns }
def starts (s : State) (opc c pay : Nat) : Prop := (queueing s (cmd opc c 0 pay)).Starts e7 (cmd opc c 0 pay) opc
def asCtx (f : Ctx → Ctx) : State := sparred.updCtx 17 f

theorem met_gate :
    (queueing two (cmd 1 17 0 0)).queueRuns e7 ∧ ((queueing two (cmd 1 17 0 0)).queue 1 2).turn (cmd 1 17 0 0) = true ∧
    (queueing two (cmd 1 17 0 0)).stepRuns 1 (cmd 1 17 0 0) = true ∧ ((queueing two (cmd 1 17 0 0)).ctx 17).aborting = false ∧
    (queueing two (cmd 1 17 0 0)).gate e7 (cmd 1 17 0 0) = .go ∧
    (queueing (asCtx (fun c => { c with st := .faulted })) (cmd 1 17 0 0)).gate e7 (cmd 1 17 0 0) = .refuse ctxFaulted ∧
    (queueing (asCtx (fun c => { c with resident := false })) (cmd 1 17 0 0)).gate e7 (cmd 1 17 0 0) = .stay ∧
    -- a wait on spar 3, which is 40 of value 0, for 0 and for 1
    (sparred.translateSpar 17 3).toOption = some (40, 9) ∧ (cmd 1 17 (2 ^ 14 + 3 * 2 ^ 96) 0).waitEn = true ∧ (cmd 1 17 (2 ^ 14 + 3 * 2 ^ 96) 0).hdr 111 96 = 3 ∧
    (queueing sparred (cmd 1 17 (2 ^ 14 + 3 * 2 ^ 96) 0)).gate e7 (cmd 1 17 (2 ^ 14 + 3 * 2 ^ 96) 0) = .go ∧
    (queueing sparred (cmd 1 17 (2 ^ 14 + 3 * 2 ^ 96 + 2 ^ 128) 0)).gate e7 (cmd 1 17 (2 ^ 14 + 3 * 2 ^ 96 + 2 ^ 128) 0) = .stay := by
  unfold State.queueRuns; decide +kernel
theorem met_gate_ends : ∀ p ∈ [(CtxSt.free, ctxNotDefined), (.faulted, ctxFaulted), (.destroying, ctxDestroyed)],
    (queueing (asCtx (fun c => { c with st := p.1 })) (cmd 1 17 0 0)).gate e7 (cmd 1 17 0 0) = .refuse p.2 := by decide +kernel

def kern : Kernel := { entry := 0x100100, win := 0, spars := 0, dst := 0x100000 }
theorem met_run_commands : starts two 0x00 17 0 ∧
    -- a launch on core 0 with the window that the context has there, at a known kernel
    starts (two.updCtx 17 (fun c => { c with kernels := [kern] })) 0x01 17 (4 * 2 ^ 136 + 0x100100 * 2 ^ 256) ∧ courseOfCore 0 ∈ part1.courses ∧
    two.fenced (tractOfCore 0) = false ∧ (two.core 0).lsWin.get? 17 = some (0, 4) ∧ 0 + 4 ≤ 64 ∧
    starts two 0x04 17 (15 * 2 ^ 240) ∧ part1.tracts[15]? = some 15 ∧ part1.tracts.length ≤ 16 ∧
    starts sparred 0x05 17 (3 * 2 ^ 240 + 5 * 2 ^ 256) ∧ (sparred.addSpar 40 5).isOk = true := by
  and_intros <;> decide +kernel

theorem met_copies : two.memOk ∧
    -- 4096 bytes filled at the start of window 0; a copy inside it, from the host and to it
    starts two 0x03 17 (0x100000 * 2 ^ 256 + 4096 * 2 ^ 192 + 9 * 2 ^ 160) ∧ (two.spans 17 .w 0x100000 4096).map List.length = some 1 ∧
    starts two 0x02 17 (0x100000 * 2 ^ 256 + 0x101000 * 2 ^ 192 + 64 * 2 ^ 128) ∧ (two.spans 17 .r 0x100000 64).map List.length = some 1 ∧
    starts two 0x02 17 (0x8000 * 2 ^ 256 + 0x101000 * 2 ^ 192 + 64 * 2 ^ 128 + 2 ^ 127) ∧
    starts two 0x02 17 (0x100000 * 2 ^ 256 + 0x8000 * 2 ^ 192 + 64 * 2 ^ 128 + 2 ^ 126) ∧ two.husksIn 0 64 = [] ∧
    -- outside the windows
    starts two 0x03 17 (0x900000 * 2 ^ 256 + 64 * 2 ^ 192) ∧ two.spans 17 .w 0x900000 64 = none ∧ (two.ctx 17).st = .defined := by
  and_intros <;> decide +kernel

/-- A sound context record at 0x2000: one window, and nothing else. -/
def recorded : State := two.writeBytes 0x200C (leBytes 4 1)
theorem met_contexts : starts recorded 0x10 40 0 ∧ starts recorded 0x10 17 0 ∧ starts recorded 0x10 18 0x2001 ∧ recorded.recordBad 1 0x2001 = true ∧
    (recorded.ctx 18).st = .free ∧ recorded.recordBad 1 0x2000 = false ∧ part1.ctxBase ≤ 31 ∧ 31 < part1.ctxBase + part1.ctxCount ∧ ¬(32 < part1.ctxBase + part1.ctxCount) ∧
    starts (asCtx (fun c => { c with st := .faulted })) 0x12 17 0 ∧ starts two 0x12 17 0 ∧ starts two 0x12 18 0 := by
  and_intros <;> decide +kernel
def killing : State := (asCtx (fun c => { c with st := .destroying })).updFn 1 (fun f => { f with killBusy := some 17 })
theorem met_destroys : (cmd 0x11 17 0 0).opc = 0x11 ∧ (queueing two (cmd 0x11 17 0 0)).queueRuns e7 ∧ part1.ctxBase = 16 ∧ (cmd 0x11 17 0 0).jslot = none ∧
    (two.ctx 17).jobsl = none ∧ (cmd 0x11 17 0 0).waitEn = false ∧ (killing.ctx 17).st = .destroying ∧ killing.tab.ctxs.rising = true ∧
    killing.grid.gangs.rising = true ∧ killing.grid.cores.rising = true ∧ (killing.fn (killing.ctx 17).fn).killBusy = some 17 := by
  unfold State.queueRuns; decide +kernel

/-- An image with 8 bytes of text, one kernel and four section headers (R133, R134). -/
def elfSect (name type flags off size align : Nat) : List Byte :=
  leBytes 4 name ++ leBytes 4 type ++ leBytes 8 flags ++ leBytes 8 0 ++ leBytes 8 off ++ leBytes 8 size ++ leBytes 8 0 ++ leBytes 8 align ++ leBytes 8 0
def elf : List Byte :=
  leBytes 4 0x464C457F ++ [2, 1, 1, 0] ++ leBytes 8 0 ++ leBytes 2 1 ++ leBytes 2 0xA7F1 ++ leBytes 4 1 ++ leBytes 8 0 ++ leBytes 8 0 ++ leBytes 8 128 ++
  leBytes 4 1 ++ leBytes 2 64 ++ leBytes 2 0 ++ leBytes 2 0 ++ leBytes 2 64 ++ leBytes 2 4 ++ leBytes 2 3 ++
  leBytes 8 5 ++ (leBytes 8 0 ++ leBytes 4 3 ++ leBytes 4 2 ++ leBytes 16 0) ++
  (0 :: asciiBytes ".text") ++ (0 :: asciiBytes ".af7.kdesc") ++ List.replicate 7 0 ++
  elfSect 0 0 0 0 0 0 ++ elfSect 1 1 6 64 8 8 ++ elfSect 7 1 0 72 32 8 ++ elfSect 0 3 0 104 18 1
theorem test_elf : elf.length = 384 ∧ loadImage elf false 0x104000 = some { size := 8, writes := [(0, leBytes 8 5)], kernels := [⟨0x104000, 3, 2, 0x104000⟩] } ∧ loadImage (elf.set 7 1) false 0x104000 = none := by decide +kernel
def imaged : State := (two.updCtx 17 (fun c => { c with ncode := 1, code := 0x7000 })).writeBytes 0 elf
theorem met_code : starts imaged 0x13 17 (0x100000 * 2 ^ 256 + 384 * 2 ^ 192 + 0x104000 * 2 ^ 128 + 8 * 2 ^ 64) ∧ imaged.readBytes 0 384 = elf ∧
    imaged.husksIn 0 384 = [] ∧ (imaged.ctx 17).kernels.length + 1 ≤ (imaged.ctx 17).ncode ∧ (imaged.ctxPieces 17 .r 0x104000 8).isSome = true ∧
    (two.ctx 17).ncode < (two.ctx 17).kernels.length + 1 ∧ starts two 0x14 17 (0x104000 * 2 ^ 256) ∧ two.codeInUse 1 17 [] = false := by
  and_intros <;> decide +kernel

/-- Object 0 of 4096 bytes, held by context 17, and a small one. -/
def obj (size : Nat) (holders : List Nat) : Obj := { ddr := false, off := 0, size := size, owner := 17, holders := holders }
def objects : State := two.updObjTab 1 (fun t => { t with objs := [(0, obj 4096 [17]), (1, obj 256 [18])] })
def hnd (i : Nat) : Nat := 2 ^ 38 + (objects.objTab 1).gen i * 2 ^ 24 + i
theorem met_objects : starts two 0x15 17 (200 * 2 ^ 256 + 0x100000 * 2 ^ 192 + 8 * 2 ^ 183) ∧ (two.spans 17 .w 0x100000 16).map List.length = some 1 ∧
    (two.alloc 17 200 false 8 false).isOk = true ∧ (two.alloc 17 (2 ^ 40) false 8 false).isOk = false ∧
    (objects.handle 1 (hnd 0)).toOption.map (·.1) = some 0 ∧ starts objects 0x16 17 (hnd 0 * 2 ^ 256) ∧ starts objects 0x17 17 (hnd 0 * 2 ^ 256 + 16 * 2 ^ 236) ∧
    objects.ownCtx 1 17 = true ∧ 17 ∈ (obj 4096 [17]).holders ∧ 17 ∉ (obj 256 [18]).holders ∧ starts objects 0x18 17 (hnd 0 * 2 ^ 256) ∧
    starts objects 0x19 17 (hnd 0 * 2 ^ 256 + hnd 1 * 2 ^ 128 + 256) ∧ 256 < 0 + 257 ∧ (objects.handle 1 (hnd 2)).isOk = false := by
  and_intros <;> decide +kernel

theorem met_queries : starts two 0x1A 17 (0x100000 * 2 ^ 256 + 40 * 2 ^ 192) ∧ two.part 1 = some part1 ∧ (two.queryBody 1 part1 0 0).isOk = true ∧
    ((two.queryBody 1 part1 0 0).toOption.map List.length) = some 24 ∧ starts two 0x1A 17 (0x8000 * 2 ^ 256 + 40 * 2 ^ 192 + 2 ^ 155) ∧
    (two.spans 17 .w 0x100000 40).map List.length = some 1 := by and_intros <;> decide +kernel

/-- A host ring of 16 entries at 0x8000 with one entry, a NOP of a context. -/
def ringOf (c : Nat) (poison : List Nat) : State :=
  let q : Queue := { Queue.idle with ctl := 1, sqbase := 0x8000, cqbase := 0x9000, sqtail := 1 }
  { two with
    fns := [(0, fn1), (1, { fn1 with queues := [(2, q)] })]
    mem := { two.mem with hostCells := (List.range 64).map (fun k => (0x8000 + k, BitVec.ofNat 8 ((c * 2 ^ 21 + 31 * 2 ^ 57) / 256 ^ k))), hostPoison := poison } }
def fetched (c : Nat) : QEntry := ((ringOf c []).readEntry 1 2 ((ringOf c []).ringRead false 0x8000 64)).1
theorem met_fetch : (ringOf 17 []).hasQueue 1 2 = true ∧ (ringOf 17 []).queueRuns ⟨1, 2, 0⟩ ∧ ((ringOf 17 []).queue 1 2).fetched % 16 ≠ ((ringOf 17 []).queue 1 2).sqtail ∧
    (ringOf 17 [0x200]).hostPoisoned 0x8000 64 = true ∧ (ringOf 17 []).hostPoisoned 0x8000 64 = false ∧ (ringOf 17 []).fetchCheck 1 (fetched 17) = none ∧
    (ringOf 40 []).fetchCheck 1 (fetched 40) = some ctxForeign ∧ (ringOf 18 []).fetchCheck 1 (fetched 18) = some ctxNotDefined := by
  unfold State.queueRuns; decide +kernel
theorem met_fetch_checks : part1.courses ≠ [] ∧ (cmd 0x20 17 0 0).opc ∉ [0, 1, 2, 3, 4, 5, 0x10, 0x11, 0x12, 0x13, 0x14, 0x15, 0x16, 0x17, 0x18, 0x19, 0x1A] ∧
    (cmd 0 17 (2 ^ 8) 0).hdr 11 8 ≠ 0 ∧ (cmd 0 17 (2 ^ 62) 0).hdr 95 62 ≠ 0 ∧ reservedPay 5 = some (239, 0) ∧ two.formatBad 1 (cmd 5 17 0 0) (239, 0) = false ∧
    (cmd 5 15 0 0).ctx < part1.ctxBase ∧ part1.ctxBase + part1.ctxCount ≤ (cmd 5 32 0 0).ctx ∧ (cmd 5 17 0 0).opc ≤ 5 := by decide +kernel

def ended : QEntry := entryOf 7 (BitVec.ofNat 512 (17 * 2 ^ 21 + 31 * 2 ^ 57)) (.done statusOk 0)
def endedSig : QEntry := entryOf 7 (BitVec.ofNat 512 (17 * 2 ^ 21 + 31 * 2 ^ 57 + 2 ^ 15 + 3 * 2 ^ 112)) (.done statusOk 0)
def compl (st : Status) : Compl := { cid := 5, status := st, step := 0, result := 0, attempt := 0, sqhead := 1 }
def posting (st : Status) (head : Nat) : State :=
  { two with fns := [(0, fn1), (1, { fn1 with queues := [(2, { Queue.idle with ctl := 1, cqbase := 0x9000, cqhead := head, mod := 0x10002, posts := [compl st] })] })] }
theorem met_completions : (queueing two ended).entry e7 = some ended ∧ ended.signalled = false ∧ ended.posted = false ∧ ended.sigEn = false ∧ ended.jslot = none ∧
    (queueing sparred endedSig).entry e7 = some endedSig ∧ endedSig.sigEn = true ∧ endedSig.hdr 127 112 = 3 ∧
    ((queueing sparred endedSig).translateSpar 17 3).isOk = true ∧ ((queueing sparred endedSig).addSpar 40 1).isOk = true ∧
    ((posting statusOk 0).queue 1 2).posts = [compl statusOk] ∧ ((posting statusOk 0).queue 1 2).en = true ∧ ((posting statusOk 0).queue 1 2).loc = false ∧
    (((posting statusOk 1).queue 1 2).cqtail + 1) % 16 = ((posting statusOk 1).queue 1 2).cqhead ∧ statusClass statusOk = 0 ∧
    ¬(max 1 (field ((posting statusOk 0).queue 1 2).mod.toNat 7 0) ≤ 0 + 1) ∧ statusClass hqCmdInvalid ≠ 0 ∧
    field ((posting statusOk 0).queue 1 2).mod.toNat 31 16 ≠ 0 := by decide +kernel

/-- Context 18 has work and no slot; the partition's share is 2, or it is 1 and context 17, idle, has it. -/
def absent (share : Nat) (crc : Word) : State :=
  let s := { base with
    tab := { base.tab with ctxs := [(17, ctx17), (18, { ctx17 with record := 0x400100, resident := false, crc := crc })] }
    truss := { base.truss with parts := [(1, { part1 with rshare := share })] } }
  withEntries s [cmd 1 18 0 0]
theorem met_residency : (absent 2 0).tab.ctxs.rising = true ∧ ((absent 2 0).ctx 18).st = .defined ∧ ((absent 2 0).ctx 18).resident = false ∧
    (absent 2 0).wantsSlot 18 = true ∧ ((absent 2 0).residents 1).length < 2 ∧ 1 ≤ ((absent 1 0).residents 1).length ∧ (absent 1 0).pageVictim 1 = some 17 := by decide +kernel
/-- The record's CRC does not depend on the one that the context keeps, so that one may fit or not. -/
theorem met_record (c d : Word) : (absent 2 c).recordCrc 0x400100 = (absent 2 d).recordCrc 0x400100 := by
  unfold State.recordCrc
  exact congrArg crc32c (List.map_congr_left (fun k _ => rfl))

/-! ## CRC-32C, evaluated strictly -/

def strict {α : Type} (n : Nat) (f : Nat → α) : α := match n with
  | 0 => f 0
  | k + 1 => f (k + 1)
theorem strict_eq {α : Type} (n : Nat) (f : Nat → α) : strict n f = f n := by cases n <;> rfl
def shifts : Nat → Nat → Nat
  | 0, c => c
  | n + 1, c => strict (if c % 2 = 1 then (c >>> 1) ^^^ 0x82F63B78 else c >>> 1) (shifts n)
def crcFrom : Nat → List Byte → Nat
  | c, [] => c
  | c, b :: bs => strict (shifts 8 (c ^^^ b.toNat)) (fun c => crcFrom c bs)
def crcOf (bs : List Byte) : Word := BitVec.ofNat 32 (crcFrom 0xFFFFFFFF bs) ^^^ 0xFFFFFFFF#32

theorem shifts_eq (n : Nat) (c : Word) : (crcShift n c).toNat = shifts n c.toNat := by
  induction n generalizing c with
  | zero => rfl
  | succ n ih =>
    rw [crcShift, ih, shifts, strict_eq]
    congr 1
    have : c.getLsbD 0 = decide (c.toNat % 2 = 1) := by simp [BitVec.getLsbD, Nat.testBit_zero]
    rw [this]
    by_cases h : c.toNat % 2 = 1 <;> simp [h]
theorem crcFrom_eq (bs : List Byte) (c : Word) :
    (bs.foldl (fun c b => crcShift 8 (c ^^^ b.setWidth 32)) c).toNat = crcFrom c.toNat bs := by
  induction bs generalizing c with
  | nil => rfl
  | cons b bs ih =>
    rw [List.foldl_cons, ih, crcFrom, strict_eq, shifts_eq]
    congr 2
theorem crcOf_eq (bs : List Byte) : crc32c bs = crcOf bs := by
  unfold crc32c crcOf
  congr 1
  rw [show (0xFFFFFFFF : Nat) = (0xFFFFFFFF#32 : Word).toNat from rfl, ← crcFrom_eq]
  simp
/-- The check value of CRC-32C over the ASCII digits 1 to 9. -/
theorem test_crc : crc32c (asciiBytes "123456789") = 0xE3069283#32 := by rw [crcOf_eq]; decide +kernel

/-! ## Registers of the host -/

/-- Function 1 with a queue, or as a change makes it. -/
def host (f : Fn → Fn) : State := two.updFn 1 f
def queueAt (q : Queue) : State := host (fun f => { f with queues := [(2, q)] })
def onQueue : Queue := { Queue.idle with ctl := 1, sqbase := 0x8000, cqbase := 0x9000, sqtail := 4, cqtail := 3 }
theorem met_silent : two.Answers 1 ∧ ((host (fun f => { f with ready := false })).fn 1).ready = false ∧ ((host (fun f => { f with tearing := true })).fn 1).tearing = true := by
  unfold State.Answers; decide +kernel
theorem met_queue_registers : two.Answers 1 ∧ two.hasQueue 1 2 = true ∧ two.hasQueue 1 4 = false ∧ (1 : DWord).getLsbD 0 = true ∧
    field (0xCC00000001 : DWord).toNat 35 32 = 12 ∧ field (0xCC00000001 : DWord).toNat 39 36 = 12 ∧ field (0xD00000001 : DWord).toNat 35 32 = 13 ∧
    two.inPart 1 0x8000 64 = true ∧ ((queueAt onQueue).queue 1 2).en = true ∧ ((queueAt onQueue).queue 1 2).run = false ∧ ((queueAt onQueue).queue 1 2).posts = [] ∧
    ((queueAt { onQueue with entries := [entryOf 0 0 .running] }).queue 1 2).run = true ∧
    -- tail 15 lies ahead of 4; 16 lies outside the ring; head 3 of the completion ring is the last that may be taken
    15 < onQueue.sqSize ∧ ringDist onQueue.sqSize 0 4 ≤ ringDist onQueue.sqSize 0 15 ∧ onQueue.sqSize ≤ 16 ∧
    ringDist onQueue.cqSize 0 3 ≤ ringDist onQueue.cqSize 0 onQueue.cqtail ∧ ¬(ringDist onQueue.cqSize 0 4 ≤ ringDist onQueue.cqSize 0 onQueue.cqtail) := by
  unfold State.Answers; decide +kernel
def claimed : State := { two with secure := { two.secure with claimed := true, rid := 0x100, ide := true } }
theorem met_mailboxes : two.Answers 1 ∧ claimed.Answers 0 ∧ claimed.secure.claimed = true ∧ (two.chan 1 3).opened ≠ 2 ∧ ((mailing true false).chan 1 3).opened = 2 ∧
    ((mailing true false).chan 1 3).outGo = true ∧ ((mailing false true).chan 1 3).inGo = true ∧ (two.chan 1 3).parked = [] ∧ (two.chan 0 31).opened ≠ 0 ∧
    (2 : Word).extractLsb' 0 2 ≠ 3 ∧ claimed.secure.rid ≠ 0x101 ∧ claimed.secure.ide = true := by unfold State.Answers; decide +kernel

/-- The word of a spar operation: op, kind, logical id, context. -/
def sprOp (op kind lid ctx die : Nat) : DWord := BitVec.ofNat 64 (op + kind * 8 + lid * 2 ^ 6 + ctx * 2 ^ 22 + die * 2 ^ 42)
def sprHandle : DWord := BitVec.ofNat 64 (40 + 9 * 2 ^ 24 + 2 ^ 38)
def sprs (sp : Spar) : State :=
  ({ two with tab := { two.tab with spars := [(40, sp)] } }.updFn 1 (fun f => { f with spr := { f.spr with handle := sprHandle, arg0 := 3, arg1 := 4 } })).writeNat
    0x800C 4 (2 ^ 31 + 2 ^ 30 * 0 + 9 * 2 ^ 16 + 40)
def heldSpar : Spar := { Spar.idle with used := true, gen := 9, owner := 17, part := 1, maps := [(17, 3)] }
theorem met_spar_create : (sprs heldSpar).Answers 1 ∧ (sprs heldSpar).memOk ∧ (sprOp 1 1 5 17 15).toNat % 8 = 1 ∧ ((sprOp 1 1 5 17 15).extractLsb' 6 16).toNat = 5 ∧
    ((sprOp 1 1 5 17 15).extractLsb' 22 20).toNat = 17 ∧ ((sprOp 1 1 5 17 15).extractLsb' 42 5).toNat = 15 ∧ 61440 / 4096 = 15 ∧
    ((sprs heldSpar).spar 61440).used = false ∧ (sprs heldSpar).sprCtx 1 17 = true ∧ kindBad 1 3 4 = false ∧ kindBad 1 5 4 = true ∧ (sprs heldSpar).mapFree 17 5 = true ∧
    (sprs heldSpar).sparsUsed 1 < part1.sparq := by unfold State.Answers State.memOk; decide +kernel
/-- The first spar of a die has none before it. -/
theorem met_first_spar : ∀ k, k < 61440 → k / 4096 = 61440 / 4096 → ((sprs heldSpar).spar k).used = true := by
  intro k hk h; omega
theorem met_spar_operations : ((sprs heldSpar).sprHandle 1 sprHandle).toOption = some 40 ∧ (sprs heldSpar).mapFree 17 3 = false ∧
    bitOf ((sprs heldSpar).mapWord 17 3) 31 = true ∧ bitOf ((sprs heldSpar).mapWord 17 3) 30 = false ∧ (sprs heldSpar).mapWord 17 3 % 65536 = 40 ∧
    3 < ((sprs heldSpar).ctx 17).mapLen ∧ heldSpar.waiters = [] ∧ heldSpar.tokens = [] ∧ heldSpar.ops = [] ∧ heldSpar.aband = false ∧ heldSpar.maps ≠ [] ∧
    heldSpar.kind = 0 ∧ ((sprs { heldSpar with gen := 10 }).sprHandle 1 sprHandle).isOk = false ∧ (sprOp 6 0 0 0 0).toNat % 8 = 6 := by decide +kernel

/-- A descriptor at 0x4000 of a job of one member, its membership at 0x4100, its update header at 0x4200 and one entry at 0x4300. -/
def jobBytes : Nat := 20 + 4 * 2 ^ 32 + 9 * 2 ^ 40 + 2 ^ 128 + 0x4100 * 2 ^ 192 + 4 * 2 ^ 356 + 0x40000 * 2 ^ 384 + 0x50000 * 2 ^ 448 + 0x4800 * 2 ^ 512 +
  0x4200 * 2 ^ 704 + 0x8800 * 2 ^ 768
def hdrBytes : Nat := 2 ^ 48 + 0x4400 * 2 ^ 64 + 2 ^ 128 + 2 ^ 144 + 0x5000 * 2 ^ 160 + 0x4400 * 2 ^ 288 + 2 ^ 352 + 0x4300 * 2 ^ 384 + 2 ^ 448
def described (n : Nat) (ms : List Nat) : State :=
  (((base.updFn 1 (fun f => { f with jdaddr := 0x4000 })).writeBytes 0x4000 (leBytes 128 (jobBytes + (n - 1) * 2 ^ 256))).writeBytes 0x4100
    (ms.flatMap (leBytes 32))).writeBytes 0x4200 (leBytes 64 hdrBytes)
def m0 : Nat := 2 ^ 40 + 2 * 2 ^ 80
def entryBytes : Nat := 2 ^ 40 + 0x3000 * 2 ^ 384
def loading : State := ((described 1 [m0]).writeBytes 0x4300 (leBytes 128 entryBytes)).writeBytes 0x3008
  (leBytes 8 0x10000 ++ leBytes 8 0x12000 ++ List.replicate 32 0 ++ leBytes 8 0x14000 ++ leBytes 8 0x16000)
theorem met_job_load : loading.Answers 1 ∧ (loading.jobCheck 1 3 0x4000).isOk = true ∧ loading.job 1 3 = none ∧
    (loading.jobCheck 1 3 0x800000000).isOk = false ∧ loading.inPart 1 0x800000000 128 = false ∧ (training.job 1 3).isSome = true ∧ training.Answers 1 := by
  unfold State.Answers; decide +kernel

/-- Member 1 is out and has no spare; the new table has one more member, a spare of its group. -/
def heldJob : Job :=
  { job1 with st := .held, members := [memberAt 0 1 2 0 false, { memberAt 1 1 3 1 false with expelled := true }], awaits := [(1, none)] }
def held (b : Job) : State :=
  (described 3 [m0, 1 + 2 ^ 40 + 3 * 2 ^ 80 + 2 ^ 112 + 2 ^ 129, 4 * 2 ^ 80 + 2 ^ 128]).updFn 1 (fun f => { f with jobs := [(3, b)] })
theorem met_job_registers : (held heldJob).job 1 3 = some heldJob ∧ ((held heldJob).jobReload 1 3).1 = statusOk ∧ (held heldJob).Answers 1 ∧
    ((held heldJob).fn 1).jobs.rising = true ∧ job1.st = .running ∧ job1.rewinding = false ∧ job1.me.spare = false ∧
    (3, heldJob) ∈ ((held heldJob).fn 1).jobs ∧ ({ heldJob with awaits := [(1, some 2)] } : Job).awaits.all (fun a => a.2.isSome) = true ∧
    field (BitVec.ofNat 64 (1 + 20 * 2 ^ 16 + 9 * 2 ^ 48) : DWord).toNat 63 48 = heldJob.job ∧
    field (BitVec.ofNat 64 (1 + 20 * 2 ^ 16 + 9 * 2 ^ 48) : DWord).toNat 47 16 = heldJob.step := by unfold State.Answers; decide +kernel

/-- A descriptor at 0x6000 with its slots in DDR5, and a journal of 16 records of which record 3 names step 19. -/
def ckBytes : Nat := 0x100000000000 * 2 ^ 448 + 0x2000 * 2 ^ 384 + 0x6100 * 2 ^ 320 + 0x70000 * 2 ^ 256 + 16 * 2 ^ 240
def ckd : CkDesc := { localA := 0x100000000000, slotsz := 0x2000, peer := 0x6100, jrnl := 0x70000, jdepth := 16 }
def ckJob2 : Job := { job1 with ckdesc := some ckd }
def registering : State :=
  (((working ckJob2 (readySpar 0 false)).updFn 1 (fun f => { f with ckaddr := 0x6000 })).writeBytes 0x6000 (leBytes 64 ckBytes)).writeBytes 0x70060
    (leBytes 32 (19 + 2 ^ 40))
theorem met_checkpoint_registers : registering.job 1 3 = some ckJob2 ∧ (registering.ckRegister 1 3).1 = statusOk ∧ registering.newestStep ckd = some (19, 1, 0) ∧
    19 = (ckJob2.step + 2 ^ 32 - 1) % 2 ^ 32 ∧ registering.Answers 1 ∧ base.job 1 3 = none ∧
    leAt (leBytes 4 0xAF07C4C7 ++ leBytes 12 (2 ^ 64)) 0 4 = 0xAF07C4C7 ∧ leAt (leBytes 4 0xAF07C4C7 ++ leBytes 12 (2 ^ 64)) 12 4 % 2 = 1 := by
  unfold State.Answers; decide +kernel

theorem met_small_registers : two.Answers 0 ∧ two.Answers 1 ∧ (2 : Word).getLsbD 1 = true ∧ (two.hoard 1).mapEn = false ∧ (0x100 : Word).getLsbD 8 = true ∧
    (two.fn 1).sig.ctl.getLsbD 0 = false ∧ field (0xA01 : Word).toNat 11 8 = 10 ∧ field (0xB01 : Word).toNat 11 8 = 11 ∧ (0x1001 : Word).getLsbD 12 = true ∧
    two.inPart 1 (two.fn 1).sig.base.toNat (128 * 2 ^ 6) = true ∧ (two.fn 1).killBusy = none ∧ part1.ctxBase < ((two.updFn 1 (fun f => { f with ctxSel := 17 })).fn 1).ctxSel.toNat ∧
    (two.ctx 17).st = .defined ∧ (two.ctx 18).st = .free ∧ (two.ctx 17).jobsl = none := by unfold State.Answers; decide +kernel

/-- Window 3 of the partition, of 2 MiB, is free and may be enabled; window 1 is closing. -/
def mapping : State := two.updWindow 3 (fun _ => { w0 := 0, w1 := 0, w2 := 0x800000, w3 := 0x200000, closing := false })
def opening (size : Nat) : DWord := BitVec.ofNat 64 (1 + 2 + size * 2 ^ 5)
theorem met_windows : mapping.Answers 1 ∧ (mapping.fab.windows.getD 3 Window.idle).closing = false ∧
    mapping.winBad 1 part1 3 { (mapping.fab.windows.getD 3 Window.idle) with w0 := opening 21 } = false ∧ mapping.winBad 1 part1 3
      { (mapping.fab.windows.getD 3 Window.idle) with w0 := opening 20 } = true ∧ 2 ^ field (opening 20).toNat 9 5 < 2 ^ 21 ∧ 3 < part1.winCount ∧
    (mapping.fab.windows.getD 0 Window.idle).w0.getLsbD 0 = true ∧
    ((two.updWindow 1 (fun w => { w with closing := true })).fab.windows.getD 1 Window.idle).closing = true := by unfold State.Answers; decide +kernel
theorem met_ports : linked0.Answers 0 ∧ linked0.Answers 1 ∧ (0x90 : DWord).getLsbD 4 = true ∧ (0x90 : DWord).getLsbD 7 = true ∧ (0x90 : DWord).getLsbD 6 = false ∧
    (0x50 : DWord).getLsbD 6 = true ∧ (linked0.port 0).enable = true ∧ (linked0.port 0).st = .up ∧ ((fabbed (port0 .quarantined) []).port 0).st = .quarantined ∧
    ({ port0 .quarantined with linkUp := .up } : Port).link ≠ .disabled := by unfold State.Answers; decide +kernel

/-! ## The image, shut-downs and resets -/

/-- A full image with a DEVICE and a POWER section and no partition. -/
def deviceSect : List Byte := leBytes 24 0 ++ leBytes 2 2 ++ leBytes 6 0
def powerSect : List Byte := leBytes 8 (2 ^ 8 * (0 + 4 * 1 + 16 * 2) + 1024 * 2 ^ 32 + 2600 * 2 ^ 48) ++ leBytes 136 0
def dirEntry (typ off len : Nat) (body : List Byte) : List Byte := leBytes 1 typ ++ leBytes 3 0 ++ leBytes 4 off ++ leBytes 4 len ++ leBytes 4 (crcOf body).toNat
def imageTail : List Byte :=
  leBytes 38 0 ++ leBytes 1 1 ++ leBytes 3 0 ++ leBytes 2 2 ++ leBytes 4 384 ++ leBytes 8 0 ++ dirEntry 1 128 32 deviceSect ++ dirEntry 2 192 144 powerSect
def image : List Byte := leBytes 4 0xAF077255 ++ leBytes 4 (crcOf imageTail).toNat ++ imageTail ++ leBytes 32 0 ++ deviceSect ++ leBytes 32 0 ++ powerSect ++ leBytes 48 0
/-- The boot image of R349 to R351 with the least that it may hold is accepted, at boot and as a full load. -/
theorem test_image : (base.imgCheck image none).isOk = true := by
  simp only [State.imgCheck, crcOf_eq]; decide +kernel
/-- A device at rest: no context but the default one, and no work; and the same with a load that waits. -/
def calm : State := { base with tab := { base.tab with ctxs := [] } }
def img1 : TrussImg :=
  { full := true, slot := 0, nsect := 2, digest := 0, devid := 2, porten := 0, portrate := 0, parts := [], power := (0, 0), inject := [], spares := [] }
def applying (go : Bool) : State := { calm with truss := { calm.truss with pending := some img1, applying := go } }
theorem met_truss : base.Answers 0 ∧ base.truss.busy = false ∧ (1 : DWord).toNat % 4 = 1 ∧ (6 : DWord).toNat % 4 = 2 ∧ field (6 : DWord).toNat 7 2 = 1 ∧
    ({ base with mem := { base.mem with hostPoison := [0] } }.firstPoison 0 64).isSome = true ∧ base.firstPoison 0 384 = none ∧
    (base.imgCheck (image.set 0 0) none).isOk = false ∧ base.shortCheck [] = none ∧ base.spareCheck [] img1 = none ∧
    (base.quiesceCheck [] none).isSome = true ∧ calm.quiesceCheck [] none = none ∧ (applying false).truss.pending = some img1 ∧
    (applying false).truss.applying = false ∧ (applying false).spareConflict img1.spares = none ∧ (applying true).truss.applying = true := by
  unfold State.Answers; decide +kernel

def stopping : State := base.updFn 1 (fun f => { f with tearing := true, ready := false })
theorem met_shutdowns : (base.fn 1).wedged = false ∧ (base.fn 1).tearing = false ∧ (base.fn 1).jobs = [] ∧ base.Answers 0 ∧
    ({ base with vfEnable := true } : State).vfEnable = true ∧ (stopping.fn 1).tearing = true ∧ stopping.truss.applying = false ∧
    ((base.updFn 1 (fun f => { f with ready := false })).fn 1).ready = false ∧ calm.quiesced 1 = true ∧ base.quiesced 1 = false ∧
    ((base.updFn 1 (fun f => { f with erasing := true, enabled := false })).fn 1).erasing = true ∧ base.part 1 = some part1 := by
  unfold State.Answers; decide +kernel
theorem met_resets : base.Answers 0 ∧ (0xA501 : DWord).getLsbD 0 = true ∧ (0xA501 : DWord).extractLsb' 8 8 = 0xA5#8 ∧ base.truss.pending = none ∧
    base.pwr.testmode = false := by unfold State.Answers; decide +kernel
theorem met_cxl : base.populated (64 * 0) = true ∧ (base.ownerOfAddr (64 * 0)).isSome = true ∧ base.populated (64 * 2 ^ 36) = false ∧
    base.populated 0x800000000 = true ∧ base.ownerOfAddr 0x800000000 = none ∧ base.memOk ∧ 48 % 64 + [(1 : Byte)].length ≤ 64 ∧
    base.cxlWritable 48 = true ∧ base.cxlWritable 0x800000000 = false := by unfold State.memOk; decide +kernel
theorem met_split : base.Answers 1 ∧ 0x600000 % 8 = 0 ∧ 0x600000 < barSize ∧ narrow 0x600000 = false ∧ narrow (0x600000 + 4) = false ∧
    base.denied 0 false 1 0x600000 = false ∧ base.denied 0 false 1 (0x600000 + 4) = false := by unfold State.Answers; decide +kernel

/-! ## Boot -/

def booting (stage : Nat) (f : Boot → Boot) : State := { base with boot := f { base.boot with stage := stage, busMaster := true } }
def offered (kind : Word) : Boot → Boot := fun b => { b with words := [(0, kind), (2, 0x8000), (4, 128)] }
theorem met_deliveries : (2 : Word).getLsbD 1 = true ∧ (booting 1 (offered 1)).bootWord 0 % 256 = 1 ∧ (booting 1 (offered 1)).bootWord 2 = 0x8000 ∧
    (booting 1 (offered 1)).bootWord 4 ≤ 0x400000 ∧ (booting 1 (offered 1)).due 1 = true ∧ (booting 3 (offered 2)).due 2 = true ∧
    (booting 1 (offered 2)).due 2 = false ∧ (booting 1 (offered 1)).boot.fwChan ≠ some true ∧ (booting 1 (offered 1)).firstPoison 0x8000 128 = none ∧
    (booting 1 id).boot.halted = false ∧ (booting 1 id).boot.doeBuf.length = (0 : Word).toNat ∧ 0 + [(1 : Byte)].length ≤ (2 : Word).toNat ∧
    0 + [(1 : Byte), 2].length = (2 : Word).toNat ∧ (booting 2 id).boot.stage = 2 ∧ (booting 2 id).boot.go = false ∧
    fwOk [] (booting 2 id).svnFloor = false := by decide +kernel
theorem met_boot : (booting 4 id).boot.stage = 4 ∧ (booting 4 id).boot.go = false ∧ ((booting 4 id).imgCheck [] none).isOk = false ∧
    (booting 5 id).boot.stage = 5 ∧ (booting 6 id).boot.stage = 6 ∧ (booting 6 id).truss.applying = false ∧ (booting 6 id).boot.keysReady = false ∧
    (booting 6 id).boot.idfail = false ∧ (booting 6 id).pwr.testmode = false ∧ (booting 4 id).boot.halted = false := by decide +kernel
theorem met_boot_image : ((booting 4 (fun b => { b with image := image })).imgCheck (booting 4 (fun b => { b with image := image })).boot.image none).isOk = true := by
  simp only [State.imgCheck, crcOf_eq]; decide +kernel

def speaking (phase : Nat) (hand sess : Bool) : State :=
  { base with boot := { base.boot with keysReady := true }, spdm := { base.spdm with phase := phase, handshake := hand, session := sess } }
theorem met_attestation : base.pwr.aonUp = true ∧ base.boot.keysReady = false ∧ base.boot.idfail = false ∧ (speaking 3 false false).boot.keysReady = true ∧
    (speaking 2 false false).spdm.phase < 3 ∧ (speaking 3 true false).spdm.handshake = true ∧ (speaking 3 false true).spdm.session = true ∧
    (1 : Byte).toNat % 16 ≤ 1 ∧ ({ base with spdm := { base.spdm with lastSigned := some [] } } : State).spdm.lastSigned = some [] ∧
    ({ base with pwr := { base.pwr with aonUp := false } } : State).pwr.aonUp = false := by decide +kernel
def endpoint : State := { base with board := { base.board with address := some 8 } }
theorem met_endpoint : base.board.address = none ∧ endpoint.board.address.isSome = true ∧ endpoint.pwr.aonUp = true ∧ endpoint.board.receiver = none ∧
    endpoint.board.bmcQueue = [] ∧ 1000 ≤ endpoint.capReg.2 ∧ endpoint.capReg.2 ≤ 60000 := by decide +kernel

/-! ## Power and heat -/

def course0 (f : Course → Course) : State := base.updCourse 0 f
theorem met_courses : (base.course 0).power = .run ∧ base.courseIdle 0 = true ∧ two.courseIdle 0 = false ∧
    ((course0 (fun c => { c with power := .standby })).course 0).power = .standby ∧ (base.course 0).waking = false ∧ base.pwr.offdly ≠ 0 ∧ base.grid.gangs = [] ∧
    ((course0 (fun c => { c with queue := [⟨0, 4, 0, true⟩] })).course 0).queue ≠ [] ∧
    ((course0 (fun c => { c with power := .off, waking := true })).course 0).waking = true := by decide +kernel
/-- The limits of R407: 110 °C trips, 89 15/16 °C wakes, 125 °C asserts THERMTRIP_N. -/
theorem met_heat : 16 * (base.pwr.ttrip : Int) ≤ 1760 ∧ (1760 : Int) < 2000 ∧ ((course0 (fun c => { c with power := .tripped })).course 0).power = .tripped ∧
    (1439 : Int) < 16 * ((base.pwr.tthr : Int) - 5) ∧ (1759 : Int) < 16 * (base.pwr.ttrip : Int) := by decide +kernel
theorem met_delivery : base.pwr.delivery = false ∧ base.pwr.supply = false ∧ base.pwr.pmFault = false ∧ (0x8000 : BitVec 16) &&& 0xE004 ≠ 0 ∧
    (0x0002 : BitVec 16) &&& 0xE004 = 0 ∧ 0 * 0 / 1000000 = base.pwr.p1ms ∧ ((course0 (fun c => { c with power := .fault })).course 0).power = .fault ∧
    (base.course 0).power ≠ .fault := by decide +kernel
theorem met_energy : (base.ctx 17).st ≠ .free ∧ (base.ctx 17).jobsl = none ∧ training.job 1 3 = some job1 ∧ (base.ctx 17).resident = true ∧ base.memOk ∧
    (base.ctx 17).record + 256 ≤ 2 ^ 45 ∧ (base.ctx 18).resident = false := by unfold State.memOk; decide +kernel
def unlit : State := { base with pwr := { base.pwr with aonUp := false, clockUp := false } }
theorem met_supplies : base.pwr.aonUp = true ∧ State.reset.boot.stage = 0 ∧ base.pwr.testmode = false ∧ base.pwr.clockUp = true ∧ State.reset.boot.halted = false ∧
    State.reset.boot.go = false ∧ unlit.pwr.aonUp = false ∧ unlit.pwr.clockUp = false := by decide +kernel

/-! ## Ill-formed commands -/

/-- One command for each check of `Instr.wellFormed`, just outside its range; each stops as `noSuchUnit`. -/
def stops (c : Instr) : Bool := match exec c base with
  | .fault .noSuchUnit => !c.wellFormed
  | _ => false
theorem test_ill_formed : [Instr.nop ⟨1048576, 0⟩ (formT 0 0 0 0 0 0), .nop ⟨0, 64⟩ (formT 0 0 0 0 0 0), .pendingWriteLands 1048576 0 0, .pendingWriteLands 0 4 0, .sheafPlace ⟨64, 0, 0⟩ 0,
   .sheafPlace ⟨0, 2047, 0⟩ 0, .sheafPlace ⟨0, 0, 0⟩ 1048576, .feedAccepted (2 ^ 20) true true, .cellFire 0 256 0, .cellFire 0 0 256, .rowShift 1024 0,
   .rowShift 0 256, .reshapeComplete 16384, .gangParityError 0 0 4, .contextAbort 1048576, .sparHomeOperation 65536, .chunkStart 64 0 0, .chunkStart 0 16 0,
   .reorderRelease 64, .engineApplyChunk 32, .vcStalled 0 8, .launch ⟨64, 0, 0⟩, .entryFetch 64 0, .entryFetch 0 2047, .hqDbsq 64 0 0, .sparRead 64 0,
   .courseOff 1024, .flr 64].all stops = true := by decide +kernel
theorem test_last_units : [Instr.nop ⟨1048575, 63⟩ (formT 0 0 0 0 0 0), .pendingWriteLands 1048575 3 0, .sheafPlace ⟨63, 2046, 0⟩ 1048575, .cellFire (2 ^ 20 - 1) 255 255,
   .rowShift 1023 255, .reshapeComplete 16383, .sparHomeOperation 65535, .chunkStart 63 15 0, .reorderRelease 63, .engineApplyChunk 31, .vcStalled 63 7].all
   Instr.wellFormed = true := by decide +kernel

/-! ## Worked examples of the manual -/

/-- R18: die 9, course (5, 2), row 13, column 22. -/
theorem test_core_number : coreAt (64 * 9 + 21) 13 22 = 611798 ∧ tractOfCore 611798 = 9558 ∧ coreRow 611798 = 13 ∧ coreCol 611798 = 22 := by decide +kernel

/-- R36: expansions under several scale bytes. -/
theorem test_expansions :
    ([(false, 7, 0x85), (false, 0xB, 0x85), (true, 7, 0x85), (false, 7, 0x86), (true, 8, 0x86), (false, 3, 0x75), (false, 2, 0x75), (false, 1, 0x75)].map
      (fun x => (expand4 x.1 false x.2.1 x.2.2).1)) = [0x7C, 0xEC, 0x7E, 0x7E, 0xFE, 0x01, 0, 0] ∧
    (expand4 false true 7 0x86).1 = 0x7F ∧ (expand4 true true 8 0x86).1 = 0xFF := by decide +kernel

/-- R39: the pieces of 0x40490FDB. -/
theorem test_pieces : pieceOf true (ofF32 0x40490FDB) .h = .fin false 0xC9 (-6) ∧ pieceOf true (ofF32 0x40490FDB) .m = .fin false 254 (-18) ∧
    pieceOf true (ofF32 0x40490FDB) .l = .fin true 5 (-22) := by decide +kernel

/-- R47: values near the top of E4M3 and E5M2, saturating and IEEE-like. -/
theorem test_top_codes :
    ([432, 455, 464, 470].map (fun v => ((convertOut 0x2600 none (.fin false v 0)).1, (convertOut 0x4600 none (.fin false v 0)).1))) =
      [(0x7E, 0x7E), (0x7E, 0x7E), (0x7E, 0x7E), (0x7E, 0x7F)] ∧
    ([60000, 61440].map (fun v => ((convertOut 0x2800 none (.fin false v 0)).1, (convertOut 0x4800 none (.fin false v 0)).1))) = [(0x7B, 0x7B), (0x7B, 0x7C)] := by
  decide +kernel

/-- R48: 1 + 3·2⁻¹⁰ to BF16 with r = 0x9E01 and with r = 0xA000. -/
theorem test_stochastic : (convertOut 0x1200 (some 0x9E01) (.fin false 1027 (-10))).1 = 0x3F80 ∧ (convertOut 0x1200 (some 0xA000) (.fin false 1027 (-10))).1 = 0x3F81 := by
  decide +kernel

/-- R60: the word 0xBC100 gives a tract of 34 gangs. -/
theorem test_shape : shapeValid 0xBC100 = true ∧
    ((List.range 64).filter (fun k => (shapeGang 0xBC100 (k / 8) (k % 8)).isSome)).length = 34 ∧ shapeGang 0xBC100 0 0 = some (4, 4) ∧
    shapeGang 0xBC100 2 6 = some (2, 2) := by decide +kernel

/-- R130: PHILOX with counter and key 0. -/
theorem test_philox : philox 0 0 0 0 0 0 = (0x6627E8D5, 0xE169C58D, 0xBC57AC4C, 0x9B00DBD8) := by decide +kernel

/-- R205: element 1,000,003 of tensor 0x1207 in step 41,207. -/
theorem test_round_bits : roundBits 0x5EED0000000000A7 0x1207 41207 1000003 = (philox 0x1E848 0 0xA0F7 0 0xA7 0x5EED1207).2.1.extractLsb' 16 16 := by decide +kernel

/-- R138, R140: an offset of a partition of units 40, 41, 56 and 57. -/
theorem test_home : ({ part1 with units := [40, 41, 56, 57] } : Part).hbmLocal 0x123456780 = 0x1C048D15780 ∧ homeDie 0x1C048D15780 = 7 ∧
    homeSlice 0x1C048D15780 = 18 := by decide +kernel

/-- R266: the port of an access of device 0x2A17. -/
theorem test_route : portHash 0x1C052345680 0x2A17 = 19 ∧ [5, 21, 37, 53][19 % 4]? = some 53 := by decide +kernel

/-- R154: contributions 1, 2⁻²⁴, 2⁻²⁴ and −1 in index order. -/
theorem test_ordered_sum : [0x3F800000, 0x33800000, 0x33800000, 0xBF800000].foldl (fun old c => atomNew 1 old c 0) 0 = 0 := by decide +kernel

/-- R228: Σx = 0.6171875 and A = 48.0 over 7 hops with τ = 4 pass a sum of 0.6172142, and fail one that a flip moved by 2⁻⁶. -/
theorem test_tally : (tallyFails [0x3F1E01C0] 0x3FE3C00000000000 false 4 7 (innerA 0x42400000)).isNone = true ∧
    (tallyFails [0x3F1A01C0] 0x3FE3C00000000000 false 4 7 (innerA 0x42400000)).isSome = true := by decide +kernel

/-- R232: E 130, L 2, mantissas 30,000 and −5, with 1.5 and 0 added. -/
theorem test_block_hop : (let x : List Word := 0x3FC00000 :: List.replicate 31 0
    let r := ({ e := 130, l := 2, esc := false, m := [30000, -5] ++ List.replicate 30 0, f := [], husk := false } : Blk).hop x
    (r.1.e, r.1.l, r.1.m.take 2, r.2.1)) = (131, 3, [18072, -2], 1) := by decide +kernel

/-- R337: the handle of object 0x2A5C, generation 0x123, of function 7. -/
theorem test_handle : handleOf 7 0x123 0x2A5C = 0x1C123002A5C := by decide +kernel

/-! ## One step -/

/-- Register g n of thread 0 after a command. -/
def after (s : State) (c : Instr) (n : Nat) : Word := (outcome (exec c s)).regOf 0 0 (.g n)
/-- g0 = 7 and g1 = 3 (R116). -/
theorem test_integer_lanes : ([Instr.iadd i0 (formT 5 0 1 0 0 0), .isub i0 (formT 5 1 0 0 0 0), .imul i0 (formT 5 0 1 0 0 0), .shl i0 (formT 5 0 1 0 0 0),
    .and i0 (formT 5 0 1 0 0 0), .xor i0 (formT 5 0 1 0 0 0), .popc i0 (formT 5 0 0 0 0 0), .clz i0 (formT 5 0 0 0 0 0)].map (fun c => after two c 5)) =
    [10, 0xFFFFFFFC, 21, 56, 3, 4, 3, 29] := by decide +kernel
theorem test_result_in_source : after two (.iadd i0 (formT 0 0 1 0 0 0)) 0 = 10 ∧ after two (.iaddi i0 (formI 1 1 0 0 0xFFFFFFFF)) 1 = 2 ∧
    after two (.iadd i0 (formT 0x30 0 1 0 0 0)) 0 = 7 := by decide +kernel
/-- Both threads that run move on by 8, and the others stay (R86, R108). -/
theorem test_pc : ((outcome (exec (.nop i0 (formT 0 0 0 0 0 0)) two)).thread 0 1).pc = 0x100108 ∧
    ((outcome (exec (.nop i0 (formT 0 0 0 0 0 0)) two)).thread 0 2).pc = (two.thread 0 2).pc := by decide +kernel

end Sys2Proof.Tests
end

/-! SUPPORT. A fault signature record leaves the context and spar tables alone (R369 to R375), what marking a code word as a husk
does, and the abandonment of an ordered sequence (R157). -/

namespace Sys2Proof

/-- In a rising map every listed pair is found by its key. -/
theorem Map.get?_of_mem {α : Type} {m : Map α} (h : Map.rising m = true) {x : Nat × α} (hx : x ∈ m) : m.get? x.1 = some x.2 := by
  induction m with
  | nil => cases hx
  | cons y m ih =>
    obtain ⟨k, b⟩ := y
    obtain ⟨hm, hlt⟩ := Map.rising_cons h
    rcases List.mem_cons.1 hx with rfl | hx
    · simp [Map.get?]
    · simp [Map.get?, Nat.ne_of_lt (hlt x hx), ih hm hx]

end Sys2Proof

namespace Sys2Proof.Machine

/-! ## Memory writes leave the tables alone -/

/-- A fold of operations that each leave the tables alone leaves them alone. -/
theorem State.foldl_tab {α : Type} (f : State → α → State) (hf : ∀ t x, (f t x).tab = t.tab) (l : List α) (s : State) :
    (l.foldl f s).tab = s.tab := by
  induction l generalizing s with
  | nil => rfl
  | cons x l ih => rw [List.foldl_cons, ih, hf]

@[simp] theorem State.burst_tab (s : State) (a : Nat) (gp : Option (Nat × Nat)) : (s.burst a gp).tab = s.tab := by
  unfold State.burst; split <;> rfl

@[simp] theorem State.memPut_tab (s : State) (a : Nat) (b : Byte) (gp : Option (Nat × Nat)) : (s.memPut a b gp).tab = s.tab := by
  simp [State.memPut]

@[simp] theorem State.poke_tab (s : State) (a : Nat) (b : Byte) : (s.poke a b).tab = s.tab := by
  unfold State.poke; split <;> simp

@[simp] theorem State.pokeList_tab (s : State) (a : Nat) (bs : List Byte) : (s.pokeList a bs).tab = s.tab := by
  induction bs generalizing s a with
  | nil => rfl
  | cons b bs ih => rw [State.pokeList, ih, State.poke_tab]

@[simp] theorem State.pokeHusk_tab (s : State) (w : Nat) (h : Bool) : (s.pokeHusk w h).tab = s.tab := by
  unfold State.pokeHusk; split <;> simp

@[simp] theorem State.writeBytes_tab (s : State) (a : Nat) (bs : List Byte) : (s.writeBytes a bs).tab = s.tab := by
  simp [State.writeBytes, State.foldl_tab]

@[simp] theorem State.writeNat_tab (s : State) (a len v : Nat) : (s.writeNat a len v).tab = s.tab := State.writeBytes_tab ..

@[simp] theorem State.cleanPoison_tab (s : State) (ls : List Nat) : (s.cleanPoison ls).tab = s.tab := by
  induction ls generalizing s with
  | nil => rfl
  | cons l ls ih => rw [State.cleanPoison, ih]; split <;> rfl

@[simp] theorem State.hostWrite_tab (s : State) (a : Nat) (bs : List Byte) : (s.hostWrite a bs).tab = s.tab :=
  State.cleanPoison_tab ..

@[simp] theorem State.ringWrite_tab (s : State) (loc : Bool) (a : Nat) (bs : List Byte) : (s.ringWrite loc a bs).tab = s.tab := by
  cases loc <;> simp [State.ringWrite]

/-! ## Messages leave the tables alone -/

@[simp] theorem State.sendOn_tab (s : State) (p : Nat) (m : Msg) : (s.sendOn p m).tab = s.tab := by
  simp only [State.sendOn]; split <;> rfl

theorem State.send_tab {s t : State} {m : Msg} {origin : Option Nat} (h : s.send m origin = some t) : t.tab = s.tab := by
  simp only [State.send] at h
  split at h
  · obtain rfl := Option.some.inj h
    exact State.sendOn_tab ..
  · cases h

theorem State.request_tab {s t : State} {fn window g : Nat} {m : Msg} {why : RemoteWhy} (h : s.request fn m window g why = some t) :
    t.tab = s.tab := by
  obtain ⟨u, hu, rfl⟩ := Option.map_eq_some_iff.1 h
  exact State.send_tab (t := u) hu

theorem State.collSend_tab {s t : State} {m : Msg} {why : RemoteWhy} (h : s.collSend m why = some t) : t.tab = s.tab :=
  State.request_tab h

/-! ## Records leave the tables alone (R369 to R375) -/

@[simp] theorem State.fireVec_tab (s : State) (n v : Nat) : (s.fireVec n v).tab = s.tab := rfl

@[simp] theorem State.ringDeliver_tab (s : State) (n : Nat) (r : Record) : (s.ringDeliver n r).tab = s.tab := by
  simp only [State.ringDeliver]; split <;> split <;> simp

@[simp] theorem State.bmcServe_tab (s : State) : s.bmcServe.tab = s.tab := by
  unfold State.bmcServe
  split
  · rfl
  · exact State.foldl_tab (fun t r => t.bmcSend 0x0A (0xFA#8 :: s.eventData r)) (fun _ _ => rfl) _ _

@[simp] theorem State.collAsk_tab (s : State) (fuel : Nat) : (s.collAsk fuel).tab = s.tab := by
  induction fuel generalizing s with
  | zero => rfl
  | succ fuel ih =>
    unfold State.collAsk
    split
    · rfl
    · next r rest _ =>
      dsimp only
      split
      · split
        · exact ih _
        · simp [ih]
      · split
        · next t ht => exact State.collSend_tab ht
        · exact ih _

@[simp] theorem State.deviceDeliver_tab (s : State) (r : Record) : (s.deviceDeliver r).tab = s.tab := by
  unfold State.deviceDeliver
  extract_lets _ _ _ served _ _ queued
  have hserved : served.tab = s.tab := State.bmcServe_tab _
  split
  · split
    · exact (State.collAsk_tab queued 1).trans hserved
    · exact hserved
  · exact hserved

@[simp] theorem State.record_tab (s : State) (rep : Report) : (s.record rep).tab = s.tab := by
  simp only [State.record, apply_ite State.tab, State.deviceDeliver_tab, State.ringDeliver_tab, ite_self]

@[simp] theorem State.ctx_record (s : State) (rep : Report) (n : Nat) : (s.record rep).ctx n = s.ctx n := by
  simp [State.ctx]

/-! ## Marking a code word (R170) -/

@[simp] theorem State.pokeHusk_seqs (s : State) (w : Nat) (h : Bool) : (s.pokeHusk w h).mem.seqs = s.mem.seqs := by
  unfold State.pokeHusk; split <;> simp

/-- A code word set to a husk reads as one, in the die cache and in memory. -/
theorem State.huskAt_pokeHusk_self (s : State) (w : Nat) : (s.pokeHusk w true).huskAt w = true := by
  unfold State.pokeHusk
  split
  · simp [State.huskAt, State.setLine]
  · next hline => simp [State.huskAt, hline, State.memHusk, State.setHusks, State.setMem, Memory.setHusk, mem_insSet]

/-! ## Abandoned sequences (R156, R157) -/

/-- A line on which no element has an open sequence is not pinned. -/
theorem State.pinned_eq_false {s : State} {n : Nat} (hr : s.mem.seqs.rising = true)
    (h : ∀ a, a / 128 = n → s.mem.seqs.get? a = none) : s.pinned n = false := by
  refine List.any_eq_false.2 fun x hx hn => ?_
  have hget := Map.get?_of_mem hr hx
  simp [h x.1 (beq_iff_eq.1 hn)] at hget

/-- The state in which a slice has closed the sequence of an element and husked its code word, before the record. -/
def State.abandonSeq (s : State) (addr : Nat) : State :=
  State.pokeHusk { s with mem := { s.mem with seqs := s.mem.seqs.del addr } } (addr / 16) true

@[simp] theorem State.abandonSeq_seqs (s : State) (addr : Nat) : (s.abandonSeq addr).mem.seqs = s.mem.seqs.del addr :=
  State.pokeHusk_seqs ..

@[simp] theorem State.ctx_abandonSeq (s : State) (addr n : Nat) : (s.abandonSeq addr).ctx n = s.ctx n := by
  simp [State.ctx, State.abandonSeq]

theorem exec_orderedSequenceAbandon {s : State} {addr : Nat} {q : OrdSeq} (h : s.mem.seqs.get? addr = some q) :
    exec (.orderedSequenceAbandon addr) s = .next ((s.abandonSeq addr).record
      (Report.plain 0x05 memOrderAbandoned (32 * homeDie addr + homeSlice addr)
        (leBytes 8 addr ++ leBytes 2 q.next ++ leBytes 2 q.count))) := by
  show execOrderedSequenceAbandon addr s = _
  rw [execOrderedSequenceAbandon, h]
  rfl

/-- Settles O21: the state before the record is that of `State.abandonSeq`; the record changes no context. -/
theorem abandonedSequences : Obligations.AbandonedSequences := by
  unfold Obligations.AbandonedSequences
  intro s addr q hr hq
  have hclosed : (s.mem.seqs.del addr).get? addr = none := Map.get?_del_self hr addr
  refine ⟨s.abandonSeq addr, exec_orderedSequenceAbandon hq, ?_, fun a ha => ?_, ?_, fun hothers => ?_, fun n => ?_⟩
  · rwa [State.abandonSeq_seqs]
  · rw [State.abandonSeq_seqs, Map.get?_del_of_ne _ ha]
  · exact State.huskAt_pokeHusk_self ..
  · refine State.pinned_eq_false ?_ fun a hline => ?_
    · rw [State.abandonSeq_seqs]; exact Map.del_rising hr addr
    · rw [State.abandonSeq_seqs]
      by_cases ha : a = addr
      · rwa [ha]
      · rw [Map.get?_del_of_ne _ ha, hothers a ha hline]
  · rw [State.ctx_record, State.ctx_abandonSeq]

end Sys2Proof.Machine

/-! SUPPORT. The units that a fault signature record can change (R366 to R375), the state in which a context faults (R105), and the
home unit's refusal of an SPADD that leaves the bounds of its spar (R287). -/

namespace Sys2Proof.Machine

/-! ## The units that a record can change -/

/-- At most the memory, the functions, the fabric, the board and the count of drawn free values differ. -/
def State.OnlyReporting (s t : State) : Prop :=
  ∃ mem fns fab board free, t = { s with mem := mem, fns := fns, fab := fab, board := board, free := free }

theorem State.OnlyReporting.refl (s : State) : s.OnlyReporting s := ⟨_, _, _, _, _, rfl⟩

theorem State.OnlyReporting.trans {s t u : State} (h : s.OnlyReporting t) (h' : t.OnlyReporting u) : s.OnlyReporting u := by
  obtain ⟨_, _, _, _, _, rfl⟩ := h
  obtain ⟨_, _, _, _, _, rfl⟩ := h'
  exact ⟨_, _, _, _, _, rfl⟩

theorem State.OnlyReporting.ite {s t u : State} {c : Prop} [Decidable c] (ht : s.OnlyReporting t) (hu : s.OnlyReporting u) :
    s.OnlyReporting (if c then t else u) := by
  split <;> assumption

theorem State.OnlyReporting.foldl {α : Type} {f : State → α → State} (hf : ∀ (t : State) x, t.OnlyReporting (f t x)) (l : List α) (s : State) :
    s.OnlyReporting (l.foldl f s) := by
  induction l generalizing s with
  | nil => exact .refl s
  | cons x l ih => exact (hf s x).trans (ih _)

theorem State.OnlyReporting.grid {s t : State} (h : s.OnlyReporting t) : t.grid = s.grid := by
  obtain ⟨_, _, _, _, _, rfl⟩ := h; rfl

theorem State.onlyReporting_updFn (s : State) (n : Nat) (f : Fn → Fn) : s.OnlyReporting (s.updFn n f) := ⟨_, _, _, _, _, rfl⟩

theorem State.onlyReporting_setMem (s : State) (m : Memory) : s.OnlyReporting (s.setMem m) := ⟨_, _, _, _, _, rfl⟩

theorem State.onlyReporting_setLine (s : State) (n : Nat) (l : DLine) : s.OnlyReporting (s.setLine n l) := ⟨_, _, _, _, _, rfl⟩

theorem State.onlyReporting_memPut (s : State) (a : Nat) (b : Byte) (gp : Option (Nat × Nat)) : s.OnlyReporting (s.memPut a b gp) := by
  have hburst : s.OnlyReporting (s.burst a gp) := .ite (s.onlyReporting_setMem _) (.refl s)
  exact hburst.trans (State.onlyReporting_setMem ..)

theorem State.onlyReporting_pokeList (s : State) (a : Nat) (bs : List Byte) : s.OnlyReporting (s.pokeList a bs) := by
  induction bs generalizing s a with
  | nil => exact .refl s
  | cons b bs ih =>
    have hpoke : s.OnlyReporting (s.poke a b) := by
      unfold State.poke
      split
      · exact s.onlyReporting_setLine ..
      · exact s.onlyReporting_memPut ..
    exact hpoke.trans (ih ..)

theorem State.onlyReporting_pokeHusk (s : State) (w : Nat) (h : Bool) : s.OnlyReporting (s.pokeHusk w h) := by
  unfold State.pokeHusk
  split
  · exact s.onlyReporting_setLine ..
  · exact ⟨_, _, _, _, _, rfl⟩

theorem State.onlyReporting_writeBytes (s : State) (a : Nat) (bs : List Byte) : s.OnlyReporting (s.writeBytes a bs) := by
  have hbytes : s.OnlyReporting ((s.unsnoop a bs.length).pokeList a bs) :=
    .trans ⟨_, _, _, _, _, rfl⟩ (State.onlyReporting_pokeList ..)
  exact hbytes.trans (.foldl (fun t w => t.onlyReporting_pokeHusk w false) _ _)

theorem State.onlyReporting_cleanPoison (s : State) (ls : List Nat) : s.OnlyReporting (s.cleanPoison ls) := by
  induction ls generalizing s with
  | nil => exact .refl s
  | cons l ls ih => exact .trans (.ite ⟨_, _, _, _, _, rfl⟩ ⟨_, _, _, _, _, rfl⟩) (ih _)

theorem State.onlyReporting_ringWrite (s : State) (loc : Bool) (a : Nat) (bs : List Byte) : s.OnlyReporting (s.ringWrite loc a bs) :=
  .ite (s.onlyReporting_writeBytes a bs) (.trans ⟨_, _, _, _, _, rfl⟩ (State.onlyReporting_cleanPoison ..))

theorem State.onlyReporting_ringDeliver (s : State) (n : Nat) (r : Record) : s.OnlyReporting (s.ringDeliver n r) := by
  unfold State.ringDeliver
  extract_lets g next written t
  have ht : s.OnlyReporting t :=
    .ite (s.onlyReporting_updFn ..) ((s.onlyReporting_ringWrite ..).trans (written.onlyReporting_updFn ..))
  exact .ite (ht.trans (t.onlyReporting_updFn ..)) ht

theorem State.onlyReporting_bmcServe (s : State) : s.OnlyReporting s.bmcServe :=
  .ite (.refl s) (.trans (.foldl (fun _ _ => ⟨_, _, _, _, _, rfl⟩) _ _) ⟨_, _, _, _, _, rfl⟩)

theorem State.onlyReporting_collSend {s t : State} {m : Msg} {why : RemoteWhy} (h : s.collSend m why = some t) : s.OnlyReporting t := by
  obtain ⟨u, hu, rfl⟩ := Option.map_eq_some_iff.1 h
  simp only [State.send] at hu
  split at hu
  · obtain rfl := Option.some.inj hu
    exact .trans (.ite ⟨_, _, _, _, _, rfl⟩ ⟨_, _, _, _, _, rfl⟩) ⟨_, _, _, _, _, rfl⟩
  · cases hu

theorem State.onlyReporting_collAsk (s : State) (fuel : Nat) : s.OnlyReporting (s.collAsk fuel) := by
  induction fuel generalizing s with
  | zero => exact .refl s
  | succ fuel ih =>
    have hlose : s.OnlyReporting (s.collLose.collAsk fuel) := .trans ⟨_, _, _, _, _, rfl⟩ (ih _)
    unfold State.collAsk
    split
    · exact .refl s
    · refine .ite (.ite hlose (.trans ?_ (ih _))) ?_
      · exact ((s.onlyReporting_writeBytes ..).trans (State.onlyReporting_writeBytes ..)).trans ⟨_, _, _, _, _, rfl⟩
      · split
        · next t ht => exact State.onlyReporting_collSend ht
        · exact hlose

theorem State.onlyReporting_deviceDeliver (s : State) (r : Record) : s.OnlyReporting (s.deviceDeliver r) := by
  unfold State.deviceDeliver
  extract_lets _ _ _ served b first queued
  have hserved : s.OnlyReporting served := .trans ⟨_, _, _, _, _, rfl⟩ (State.onlyReporting_bmcServe _)
  have hqueued : s.OnlyReporting queued := hserved.trans ⟨_, _, _, _, _, rfl⟩
  exact .ite (.ite (hqueued.trans (queued.onlyReporting_collAsk 1)) hqueued) hserved

theorem State.onlyReporting_record (s : State) (rep : Report) : s.OnlyReporting (s.record rep) := by
  unfold State.record
  extract_lets _ _ counted _ _ t t'
  have ht : s.OnlyReporting t := .trans ⟨_, _, _, _, _, rfl⟩ (State.onlyReporting_ringDeliver ..)
  have ht' : s.OnlyReporting t' := .ite ht (ht.trans (t.onlyReporting_ringDeliver ..))
  exact ht'.trans (State.onlyReporting_deviceDeliver ..)

@[simp] theorem State.record_grid (s : State) (rep : Report) : (s.record rep).grid = s.grid := (s.onlyReporting_record rep).grid

@[simp] theorem State.spar_record (s : State) (rep : Report) (p : Nat) : (s.record rep).spar p = s.spar p := by
  simp [State.spar]

/-! ## Threads and contexts after updates of other units -/

/-- The threads of a state are part of its grid. -/
theorem State.thread_of_grid {s t : State} (h : t.grid = s.grid) (k m : Nat) : t.thread k m = s.thread k m := by
  simp [State.thread, State.slot, State.core, h]

@[simp] theorem State.spar_updCtx (s : State) (n p : Nat) (f : Ctx → Ctx) : (s.updCtx n f).spar p = s.spar p := rfl

/-! ## The first fault of a context (R105) -/

/-- A context with its first fault: its abort begins, and the core that found the fault issues nothing more for it. -/
def Ctx.firstFault (c : Ctx) (st : Status) (core : Nat) : Ctx :=
  { c with st := .faulted, fault := st, aborting := true, stopped := insSet c.stopped core }

theorem State.faultCtx_of_defined {s : State} {n : Nat} (h : (s.ctx n).st = .defined) (rep : Report) (core : Nat) :
    s.faultCtx n rep (some core) =
      (s.record { rep with ctx := some n, fn := (s.ctx n).fn }).updCtx n (fun c => c.firstFault rep.status core) := by
  simp only [State.faultCtx, h]
  rfl

section
variable {s : State} {o : SparOp}

theorem State.ctx_sparFault_of_defined (h : (s.ctx o.ctx).st = .defined) (st : Status) :
    (s.sparFault o st).ctx o.ctx = (s.ctx o.ctx).firstFault st o.core := by
  rw [State.sparFault, State.faultCtx_of_defined h, State.ctx_updCtx_self, State.ctx_record]
  rfl

theorem State.spar_sparFault_of_defined (h : (s.ctx o.ctx).st = .defined) (st : Status) (p : Nat) :
    (s.sparFault o st).spar p = s.spar p := by
  rw [State.sparFault, State.faultCtx_of_defined h, State.spar_updCtx, State.spar_record]

theorem State.thread_sparFault_of_defined (h : (s.ctx o.ctx).st = .defined) (st : Status) (k m : Nat) :
    (s.sparFault o st).thread k m = s.thread k m := by
  refine State.thread_of_grid ?_ k m
  rw [State.sparFault, State.faultCtx_of_defined h, State.updCtx_grid, State.record_grid]

end

/-! ## The home unit (R286, R287) -/

/-- The state in which the home unit has taken the oldest operation on a spar from its queue. -/
def State.takeOp (s : State) (p : Nat) (rest : List SparOp) : State := s.updSpar p (fun x => { x with ops := rest })

@[simp] theorem State.spar_takeOp (s : State) (p : Nat) (rest : List SparOp) :
    (s.takeOp p rest).spar p = { s.spar p with ops := rest } :=
  State.spar_updSpar_self ..

@[simp] theorem State.ctx_takeOp (s : State) (p n : Nat) (rest : List SparOp) : (s.takeOp p rest).ctx n = s.ctx n := rfl

@[simp] theorem State.thread_takeOp (s : State) (p k m : Nat) (rest : List SparOp) : (s.takeOp p rest).thread k m = s.thread k m := rfl

theorem exec_sparHomeOperation {s : State} {p : Nat} {o : SparOp} {rest : List SparOp} (hp : p < 65536)
    (hops : (s.spar p).ops = o :: rest) :
    exec (.sparHomeOperation p) s = .next ((s.takeOp p rest).applySpar p o) := by
  have hwf : (Instr.sparHomeOperation p).wellFormed = true := decide_eq_true hp
  show execSparHomeOperation p s = _
  rw [execSparHomeOperation, hops, done_next hwf]
  rfl

/-- The fault of an SPADD that leaves the bounds of its spar, by the side on which it leaves them (R287). -/
theorem State.addSpar_out_of_bounds {s : State} {p : Nat} {delta : DWord} (haband : (s.spar p).aband = false)
    (hkind : (s.spar p).kind = 1)
    (hout : ((s.spar p).value.toNat : Int) + delta.toInt < 0 ∨ ((s.spar p).value.toNat : Int) + delta.toInt > (s.spar p).param.toNat) :
    s.addSpar p delta = .error (if ((s.spar p).value.toNat : Int) + delta.toInt < 0 then sprUnderflow else sprOverflow) := by
  by_cases hneg : ((s.spar p).value.toNat : Int) + delta.toInt < 0
  · simp [State.addSpar, haband, hkind, hneg]
  · have hover := hout.resolve_left hneg
    simp [State.addSpar, haband, hkind, hneg, hover]

/-- An SPADD with the spar's generation that its rules refuse does nothing but fault its context. -/
theorem State.applySpar_add_refused {s : State} {p : Nat} {o : SparOp} {delta : DWord} {st : Status} (hgen : o.gen = (s.spar p).gen)
    (hact : o.act = .add delta) (herr : s.addSpar p delta = .error st) : s.applySpar p o = s.sparFault o st := by
  simp [State.applySpar, hgen, hact, herr]

/-- Settles O24: the home unit takes the operation from its queue and finds its sum out of bounds, so all that follows is the first
fault of its context, which leaves every spar and every thread as they are. -/
theorem sparBounds : Obligations.SparBounds := by
  unfold Obligations.SparBounds
  intro s p o rest delta x v hp hops hgen hact haband hkind hst hout
  have hspar : (s.takeOp p rest).spar p = { x with ops := rest } := s.spar_takeOp p rest
  have hrefused : (s.takeOp p rest).addSpar p delta = .error (if v < 0 then sprUnderflow else sprOverflow) := by
    rw [State.addSpar_out_of_bounds] <;> rw [hspar] <;> assumption
  have hdefined : ((s.takeOp p rest).ctx o.ctx).st = .defined := by rwa [State.ctx_takeOp]
  refine ⟨_, exec_sparHomeOperation hp hops, ?_⟩
  rw [State.applySpar_add_refused (by rwa [hspar]) hact hrefused]
  refine ⟨?_, fun k m => ?_, ?_⟩
  · rw [State.spar_sparFault_of_defined hdefined, hspar]
  · rw [State.thread_sparFault_of_defined hdefined, State.thread_takeOp]
  · rw [State.ctx_sparFault_of_defined hdefined]
    exact ⟨rfl, rfl, rfl, mem_insSet.2 (.inl rfl)⟩

end Sys2Proof.Machine

/-! SUPPORT. What leaves the configuration in force, and the accepted image that waits, alone (R357 to R361): one lemma for each
operation of the model, in the order of the model's files. Each says that the operation's state has the configuration of the state
it starts from, so that simp carries the fact along a chain of operations; an operation that runs an effect asks it of the effect. -/

namespace Sys2Proof.Machine

/-- The configuration in force and the accepted image that waits for its apply (R359, R361). -/
def State.config (s : State) : Map Part × Option TrussImg := (s.truss.parts, s.truss.pending)

@[simp] theorem State.config_mk (pending : List Instr) (grid : Grid) (courses : Map Course) (mem : Mem) (tab : Tables) (fns : Map Fn)
    (engines : Map Engine) (fab : Fabric) (truss : Truss) (pwr : PowerCtl) (boot : Boot) (spdm : Spdm) (board : Board) (secure : Secure)
    (free : Nat) (vfEnable : Bool) :
    (State.mk pending grid courses mem tab fns engines fab truss pwr boot spdm board secure free vfEnable).config =
      (truss.parts, truss.pending) := rfl

@[simp] theorem State.config_fold (s : State) : (s.truss.parts, s.truss.pending) = s.config := rfl

@[simp] theorem State.config_ite (c : Prop) [Decidable c] (s t : State) : (if c then s else t).config = if c then s.config else t.config :=
  apply_ite ..

/-- A fold keeps the configuration of the state that it carries if each step does. -/
theorem foldl_config {α β : Type} (state : β → State) {f : β → α → β} (hf : ∀ b x, (state (f b x)).config = (state b).config)
    (l : List α) (b : β) : (state (l.foldl f b)).config = (state b).config := by
  induction l generalizing b with
  | nil => rfl
  | cons x l ih => rw [List.foldl_cons, ih, hf]

@[simp] theorem State.config_foldl {α : Type} {f : State → α → State} (hf : ∀ t x, (f t x).config = t.config) (l : List α) (s : State) :
    (l.foldl f s).config = s.config := foldl_config id hf l s

theorem State.OnlyReporting.config {s t : State} (h : s.OnlyReporting t) : t.config = s.config := by
  obtain ⟨_, _, _, _, _, rfl⟩ := h; rfl

@[simp] theorem State.drawWord_eq (s : State) : s.drawWord = (Config.freeWord s.free, { s with free := s.free + 1 }) := rfl

@[simp] theorem State.drawBool_eq (s : State) : s.drawBool = (Config.freeBool s.free, { s with free := s.free + 1 }) := rfl

/-! ## Units, memory and die caches (R136 to R171) -/

@[simp] theorem State.updFn_config (s : State) (n : Nat) (f : Fn → Fn) : (s.updFn n f).config = s.config := by simp [State.updFn]

@[simp] theorem State.updCourse_config (s : State) (n : Nat) (f : Course → Course) : (s.updCourse n f).config = s.config := by
  simp [State.updCourse]

@[simp] theorem State.updCtx_config (s : State) (n : Nat) (f : Ctx → Ctx) : (s.updCtx n f).config = s.config := by simp [State.updCtx]

@[simp] theorem State.updCore_config (s : State) (n : Nat) (f : Core → Core) : (s.updCore n f).config = s.config := by
  simp [State.updCore]

@[simp] theorem State.updGang_config (s : State) (n : Nat) (f : Gang → Gang) : (s.updGang n f).config = s.config := by
  simp [State.updGang]

@[simp] theorem State.updSpar_config (s : State) (n : Nat) (f : Spar → Spar) : (s.updSpar n f).config = s.config := by
  simp [State.updSpar]

@[simp] theorem State.updPort_config (s : State) (n : Nat) (f : Port → Port) : (s.updPort n f).config = s.config := by
  simp [State.updPort]

@[simp] theorem State.updEngine_config (s : State) (n : Nat) (f : Engine → Engine) : (s.updEngine n f).config = s.config := by
  simp [State.updEngine]

@[simp] theorem State.updQueue_config (s : State) (fn q : Nat) (f : Queue → Queue) : (s.updQueue fn q f).config = s.config := by
  simp [State.updQueue]

@[simp] theorem State.updMbx_config (s : State) (fn ch : Nat) (f : Mbx → Mbx) : (s.updMbx fn ch f).config = s.config := by
  simp [State.updMbx]

@[simp] theorem State.updJob_config (s : State) (fn j : Nat) (f : Job → Job) : (s.updJob fn j f).config = s.config := by
  unfold State.updJob; split <;> simp

@[simp] theorem State.updSlot_config (s : State) (core slot : Nat) (f : Slot → Slot) :
    (s.updSlot core slot f).config = s.config := by
  unfold State.updSlot; split <;> simp

@[simp] theorem State.tick_config (s : State) : s.tick.config = s.config := by simp [State.tick]

@[simp] theorem State.setMem_config (s : State) (m : Memory) : (s.setMem m).config = s.config := by simp [State.setMem]

@[simp] theorem State.burst_config (s : State) (a : Nat) (gp : Option (Nat × Nat)) : (s.burst a gp).config = s.config := by
  simp [State.burst]

@[simp] theorem State.memPut_config (s : State) (a : Nat) (b : Byte) (gp : Option (Nat × Nat)) : (s.memPut a b gp).config = s.config :=
  (s.onlyReporting_memPut ..).config

@[simp] theorem State.setHusks_config (s : State) (ws : List Nat) (h : Bool) : (s.setHusks ws h).config = s.config := by
  simp [State.setHusks]

@[simp] theorem State.setLine_config (s : State) (n : Nat) (l : DLine) : (s.setLine n l).config = s.config := by simp [State.setLine]

@[simp] theorem State.dropLine_config (s : State) (n : Nat) : (s.dropLine n).config = s.config := by simp [State.dropLine]

@[simp] theorem State.writeBack_config (s : State) (n : Nat) : (s.writeBack n).config = s.config := by
  unfold State.writeBack; split <;> simp

@[simp] theorem State.enterLine_config (s : State) (part n hint : Nat) (remote : Option (Nat × Nat)) :
    (s.enterLine part n hint remote).config = s.config := by
  unfold State.enterLine
  repeat' split
  all_goals simp

@[simp] theorem State.unsnoop_config (s : State) (a len : Nat) : (s.unsnoop a len).config = s.config := by simp [State.unsnoop]

@[simp] theorem State.poke_config (s : State) (a : Nat) (b : Byte) : (s.poke a b).config = s.config := by
  unfold State.poke; split <;> simp

@[simp] theorem State.pokeList_config (s : State) (a : Nat) (bs : List Byte) : (s.pokeList a bs).config = s.config :=
  (s.onlyReporting_pokeList ..).config

@[simp] theorem State.pokeHusk_config (s : State) (w : Nat) (h : Bool) : (s.pokeHusk w h).config = s.config :=
  (s.onlyReporting_pokeHusk ..).config

@[simp] theorem State.writeBytes_config (s : State) (a : Nat) (bs : List Byte) : (s.writeBytes a bs).config = s.config :=
  (s.onlyReporting_writeBytes ..).config

@[simp] theorem State.writeNat_config (s : State) (a len v : Nat) : (s.writeNat a len v).config = s.config := by simp [State.writeNat]

@[simp] theorem State.writeObj_config (s : State) (a : Nat) (bs : List Byte) (part gen : Nat) :
    (s.writeObj a bs part gen).config = s.config := by simp [State.writeObj]

@[simp] theorem State.copyBytes_config (s : State) (src dst len : Nat) : (s.copyBytes src dst len).config = s.config := by
  simp [State.copyBytes]

@[simp] theorem State.lsWrite_config (s : State) (core off : Nat) (bs : List Byte) :
    (s.lsWrite core off bs).config = s.config := by simp [State.lsWrite]

@[simp] theorem State.cleanPoison_config (s : State) (ls : List Nat) : (s.cleanPoison ls).config = s.config :=
  (s.onlyReporting_cleanPoison ..).config

@[simp] theorem State.hostWrite_config (s : State) (a : Nat) (bs : List Byte) : (s.hostWrite a bs).config = s.config := by
  simp [State.hostWrite]

@[simp] theorem State.writePieces_config (s : State) (ps : List (Nat × Nat)) (bs : List Byte) : (s.writePieces ps bs).config = s.config := by
  induction ps generalizing s bs with
  | nil => rfl
  | cons p ps ih => rw [State.writePieces, ih, State.writeBytes_config]

@[simp] theorem State.ringWrite_config (s : State) (loc : Bool) (a : Nat) (bs : List Byte) : (s.ringWrite loc a bs).config = s.config :=
  (s.onlyReporting_ringWrite ..).config

/-! ## Messages, records and context faults (R104, R263, R366 to R375) -/

@[simp] theorem State.fireVec_config (s : State) (n v : Nat) : (s.fireVec n v).config = s.config := by simp [State.fireVec]

@[simp] theorem State.journal_config (s : State) (fn src kind detail : Nat) (digest : BitVec 128) :
    (s.journal fn src kind detail digest).config = s.config := by simp [State.journal]

@[simp] theorem State.sendOn_config (s : State) (p : Nat) (m : Msg) : (s.sendOn p m).config = s.config := by simp [State.sendOn]

theorem State.send_config {s t : State} {m : Msg} {origin : Option Nat} (h : s.send m origin = some t) : t.config = s.config := by
  simp only [State.send] at h
  split at h
  · obtain rfl := Option.some.inj h
    simp
  · cases h

@[simp] theorem State.sendOr_config (s : State) (m : Msg) (origin : Option Nat) : (s.sendOr m origin).config = s.config := by
  unfold State.sendOr
  cases h : s.send m origin with
  | none => rfl
  | some t => exact State.send_config h

@[simp] theorem State.sendNak_config (s : State) (m : Msg) (wire : Nat) : (s.sendNak m wire).config = s.config := by simp [State.sendNak]

@[simp] theorem State.collLose_config (s : State) : s.collLose.config = s.config := by simp [State.collLose]

theorem State.request_config {s t : State} {fn window g : Nat} {m : Msg} {why : RemoteWhy}
    (h : s.request fn m window g why = some t) : t.config = s.config := by
  obtain ⟨u, hu, rfl⟩ := Option.map_eq_some_iff.1 h
  exact State.send_config (t := u) hu

@[simp] theorem State.collAsk_config (s : State) (fuel : Nat) : (s.collAsk fuel).config = s.config :=
  (s.onlyReporting_collAsk ..).config

@[simp] theorem State.bmcSend_config (s : State) (cmd : Nat) (bs : List Byte) : (s.bmcSend cmd bs).config = s.config := by
  simp [State.bmcSend]

@[simp] theorem State.bmcServe_config (s : State) : (s.bmcServe).config = s.config :=
  (s.onlyReporting_bmcServe ..).config

@[simp] theorem State.record_config (s : State) (rep : Report) : (s.record rep).config = s.config :=
  (s.onlyReporting_record ..).config

@[simp] theorem State.violate_config (s : State) (port : Nat) (m : Msg) (wire : Nat) :
    (s.violate port m wire).config = s.config := by simp [State.violate]

@[simp] theorem State.saveCtx_config (s : State) (n : Nat) : (s.saveCtx n).config = s.config := by simp [State.saveCtx]

@[simp] theorem State.faultCtx_config (s : State) (n : Nat) (rep : Report) (core : Option Nat) :
    (s.faultCtx n rep core).config = s.config := by
  simp only [State.faultCtx]; split <;> simp

@[simp] theorem State.countHusk_config (s : State) (n : Nat) : (s.countHusk n).config = s.config := by simp [State.countHusk]

/-! ## Issue and register writes (R88 to R92, R107 to R112) -/

@[simp] theorem State.updThread_config (s : State) (core idx : Nat) (f : Thread → Thread) :
    (s.updThread core idx f).config = s.config := by simp [State.updThread]

@[simp] theorem State.waitData_config (s : State) (core : Nat) (reads : List Reg) (ms : List Nat) :
    (s.waitData core reads ms).config = s.config := by
  induction ms generalizing s with
  | nil => rfl
  | cons m ms ih => rw [State.waitData, ih]; split <;> simp

@[simp] theorem State.sheafFault_config (s : State) (core m : Nat) (st : Status) (word addr : Nat) :
    (s.sheafFault core m st word addr).config = s.config := by
  unfold State.sheafFault; split <;> simp

/-- Issue changes the configuration only as far as the instruction's own effect does. -/
@[simp] theorem State.issue_config {s : State} {i : Issue} {guard : BitVec 5} {e : Enc} {word : Nat} {act : State → List Nat → List Nat → State}
    (hact : ∀ t go on, (act t go on).config = t.config) : (s.issue i guard e word act).config = s.config := by
  simp [State.issue, hact]

@[simp] theorem State.nextPc_config (s : State) (core : Nat) (ms : List Nat) : (s.nextPc core ms).config = s.config := by
  simp [State.nextPc]

@[simp] theorem State.laneWrite_config (s : State) (core : Nat) (srcs : List (List Reg)) (dst : List Reg) (f : LaneFn) (ms : List Nat) :
    (s.laneWrite core srcs dst f ms).config = s.config := by
  induction ms generalizing s with
  | nil => rfl
  | cons m ms ih => rw [State.laneWrite, ih, State.updSlot_config]

@[simp] theorem State.lanePend_config (s : State) (core : Nat) (srcs : List (List Reg)) (dst : List Reg) (f : LaneFn) (ms : List Nat) :
    (s.lanePend core srcs dst f ms).config = s.config := by
  induction ms generalizing s with
  | nil => rfl
  | cons m ms ih => rw [State.lanePend, ih, State.updSlot_config]

@[simp] theorem State.compute_config (s : State) (xu bound : Bool) (i : Issue) (guard : BitVec 5) (word : Nat) (legal : Bool)
    (srcs : List (Option (List Reg))) (dst : Option (List Reg)) (f : LaneFn) :
    (s.compute xu bound i guard word legal srcs dst f).config = s.config := by simp [State.compute]

/-! ## Numeric flags and predicates (R52, R108) -/

@[simp] theorem State.orFlags_config (s : State) (ctx : Nat) (fl : Word) : (s.orFlags ctx fl).config = s.config := by simp [State.orFlags]

@[simp] theorem State.predWrite_config (s : State) (core n : Nat) (f : Slot → Nat → Bool) (ms : List Nat) :
    (s.predWrite core n f ms).config = s.config := by
  induction ms generalizing s with
  | nil => rfl
  | cons m ms ih => rw [State.predWrite, ih]; split <;> simp

/-! ## Control transfers, exit and barriers (R86, R98 to R100) -/

@[simp] theorem State.writeBackNear_config (s : State) (core : Nat) : (s.writeBackNear core).config = s.config := by
  simp [State.writeBackNear]

@[simp] theorem State.flushNear_config (s : State) (core : Nat) : (s.flushNear core).config = s.config := by simp [State.flushNear]

@[simp] theorem State.dropClean_config (s : State) (core : Nat) : (s.dropClean core).config = s.config := by simp [State.dropClean]

@[simp] theorem State.freeSlot_config (s : State) (core slot ctx : Nat) : (s.freeSlot core slot ctx).config = s.config := by
  simp [State.freeSlot]

@[simp] theorem State.updEntry_config (s : State) (e : EntryRef) (f : QEntry → QEntry) : (s.updEntry e f).config = s.config := by
  simp [State.updEntry]

@[simp] theorem State.endSheaf_config (s : State) (core slot : Nat) : (s.endSheaf core slot).config = s.config := by
  unfold State.endSheaf
  repeat' split
  all_goals simp

@[simp] theorem State.testBar_config (s : State) (core slot m word : Nat) : (s.testBar core slot m word).config = s.config := by
  unfold State.testBar
  repeat' split
  all_goals simp

@[simp] theorem State.branch_config {s : State} {core ctx : Nat} {go on : List Nat} {word : Nat} {target : Nat → DWord} {link : State → State}
    (hlink : ∀ t, (link t).config = t.config) : (s.branch core ctx go on word target link).config = s.config := by
  unfold State.branch; split <;> simp [hlink]

/-! ## Loads, stores, atomics and fences (R117 to R120, R142 to R147) -/

@[simp] theorem State.nearRoom_config (s : State) (core line : Nat) : (s.nearRoom core line).config = s.config := by simp [State.nearRoom]

@[simp] theorem State.nearFill_config (s : State) (core a : Nat) : (s.nearFill core a).config = s.config := by simp [State.nearFill]

@[simp] theorem State.nearStore_config (s : State) (core a : Nat) (bs : List Byte) :
    (s.nearStore core a bs).config = s.config := by simp [State.nearStore]

@[simp] theorem State.issueRemote_config (s : State) (r : MemReq) (window g : Nat) : (s.issueRemote r window g).config = s.config := by
  unfold State.issueRemote
  split
  · next t h => exact State.request_config h
  · simp

@[simp] theorem State.huskFault_config (s : State) (core slot thread ctx : Nat) (pc : DWord) (word addr : Nat) :
    (s.huskFault core slot thread ctx pc word addr).config = s.config := by simp [State.huskFault]

@[simp] theorem State.deliver_config (s : State) (r : MemReq) (v : Nat) : (s.deliver r v).config = s.config := by simp [State.deliver]

@[simp] theorem State.newTag_config (s : State) : s.newTag.config = s.config := by simp [State.newTag]

@[simp] theorem State.await_config (s : State) (core m tag : Nat) (d : List Reg) : (s.await core m tag d).config = s.config := by
  simp [State.await]

@[simp] theorem State.loadOne_config (s : State) (core ctx m a size : Nat) (sext : Bool) (hint word : Nat) (d : List Reg) :
    (s.loadOne core ctx m a size sext hint word d).config = s.config := by
  simp only [State.loadOne]
  repeat' split
  all_goals simp

@[simp] theorem State.storeOne_config (s : State) (core ctx m a size v hint word : Nat) :
    (s.storeOne core ctx m a size v hint word).config = s.config := by
  unfold State.storeOne
  repeat' split
  all_goals simp

/-! ## Home slices, ordered accumulation and scrub (R147 to R157, R171) -/

@[simp] theorem State.countCode_config (s : State) (a : Nat) (f : Fn → Fn) : (s.countCode a f).config = s.config := by
  unfold State.countCode; split <;> simp

@[simp] theorem State.readWord_config (s : State) (w : Nat) (st : WordState) (symbols : Nat) :
    (s.readWord w st symbols).config = s.config := by
  cases st with
  | bad syn => exact (State.record_config ..).trans ((State.countCode_config ..).trans (State.setHusks_config ..))
  | husk => exact State.setHusks_config ..
  | clean | single =>
    unfold State.readWord
    dsimp only
    rw [State.config_ite]
    simp

@[simp] theorem State.spoil_config (s : State) (qs : List (Nat × OrdSeq)) : (s.spoil qs).config = s.config := by
  induction qs generalizing s with
  | nil => rfl
  | cons q qs ih => rw [State.spoil, ih]; simp

@[simp] theorem State.acceptStore_config (s : State) (a size v hint : Nat) : (s.acceptStore a size v hint).config = s.config := by
  simp [State.acceptStore]

@[simp] theorem State.acceptAtom_config (s : State) (op a v cmp hint : Nat) :
    (s.acceptAtom op a v cmp hint).2.config = s.config := by simp [State.acceptAtom]

@[simp] theorem State.serve_config (s : State) (r : MemReq) : (s.serve r).config = s.config := by
  unfold State.serve; split <;> simp

@[simp] theorem State.bring_config (s : State) (line hint : Nat) : (s.bring line hint).config = s.config := by
  simp only [State.bring]
  repeat' split
  all_goals simp

@[simp] theorem State.homeAccess_config (s : State) (n : Nat) : (s.homeAccess n).config = s.config := by
  simp only [State.homeAccess]
  repeat' split
  all_goals simp

@[simp] theorem State.fill_config (s : State) (line : Nat) (words : List WordState) : (s.fill line words).config = s.config := by
  simp only [State.fill]
  repeat' split
  all_goals simp

@[simp] theorem State.addTo_config (s : State) (op addr v : Nat) : (s.addTo op addr v).config = s.config := by simp [State.addTo]

@[simp] theorem State.drainSeq_config (s : State) (addr fuel : Nat) : (s.drainSeq addr fuel).config = s.config := by
  induction fuel generalizing s with
  | zero => rfl
  | succ fuel ih =>
    unfold State.drainSeq
    repeat' split
    all_goals simp [ih]

@[simp] theorem State.closeSeq_config (s : State) (addr : Nat) : (s.closeSeq addr).config = s.config := by
  unfold State.closeSeq; split <;> simp

@[simp] theorem State.respond_config (s : State) (m : Msg) (op cls : Nat) (words : List CodeWord) :
    (s.respond m op cls words).config = s.config := by simp [State.respond]

@[simp] theorem State.ordered_config (s : State) (n : Nat) : (s.ordered n).config = s.config := by
  simp only [State.ordered]
  repeat' split
  all_goals simp

@[simp] theorem State.resend_config (s : State) (r : MemReq) : (s.resend r).config = s.config := by simp [State.resend]

/-! ## Feeds, drains, reshapes and releases at issue (R61 to R80) -/

@[simp] theorem State.gridFault_config (s : State) (core m : Nat) (st : Status) (word : Nat) :
    (s.gridFault core m st word).config = s.config := by simp [State.gridFault]

@[simp] theorem State.addEdge_config (s : State) (gid ctx : Nat) (e : EdgeFeed) : (s.addEdge gid ctx e).config = s.config := by
  simp [State.addEdge]

@[simp] theorem State.whole_config {s : State} {i : Issue} {ins : WholeIns} {guard : BitVec 5} {e : Enc} {word : Nat} {act : State → State}
    (hact : ∀ t, (act t).config = t.config) : (s.whole i ins guard e word act).config = s.config := by
  unfold State.whole
  extract_lets slot fire
  have hfire : ∀ t, (fire t).config = t.config := fun t => by
    unfold fire; split <;> simp [hact]
  simp [hfire]

@[simp] theorem State.closeFeed_config (s : State) (core slot ctx : Nat) (o : OpenFeed) :
    (s.closeFeed core slot ctx o).config = s.config := by simp [State.closeFeed]

@[simp] theorem State.takeFragment_config (s : State) (core slot ctx : Nat) (r : List Reg) (o : OpenFeed) :
    (s.takeFragment core slot ctx r o).config = s.config := by
  unfold State.takeFragment; split <;> simp

@[simp] theorem State.feedrAct_config (s : State) (core m ctx : Nat) (f : FormT) :
    (s.feedrAct core m ctx f).config = s.config := by
  simp only [State.feedrAct]
  repeat' split
  all_goals simp

@[simp] theorem State.streamBring_config (s : State) (ctx d fmt : Nat) : (s.streamBring ctx d fmt).config = s.config := by
  simp [State.streamBring]

@[simp] theorem State.streamDead_config (s : State) (ctx d fmt : Nat) : (s.streamDead ctx d fmt).config = s.config := by
  simp [State.streamDead]

@[simp] theorem State.streamFault_config (s : State) (core ctx m : Nat) (pc : DWord) (st : Status) (word addr : Nat) :
    (s.streamFault core ctx m pc st word addr).config = s.config := by simp [State.streamFault]

@[simp] theorem State.askLines_config (s : State) (ctx id hint : Nat) (lines : List Nat) : (s.askLines ctx id hint lines).config = s.config := by
  induction lines generalizing s with
  | nil => rfl
  | cons line r ih =>
    simp only [State.askLines]
    split
    · next t h => rw [ih, State.request_config h]
    · simp

@[simp] theorem State.addDrain_config (s : State) (gid : Nat) (dr : Drain) : (s.addDrain gid dr).config = s.config := by
  simp [State.addDrain]

@[simp] theorem State.drainGo_config (s : State) (core m ctx : Nat) (f : FormT) (takers : List Nat) :
    (s.drainGo core m ctx f takers).config = s.config := by
  simp only [State.drainGo]
  repeat' split
  all_goals simp

@[simp] theorem State.drainAct_config (s : State) (core slot ctx : Nat) (f : FormT) :
    (s.drainAct core slot ctx f).config = s.config := by
  unfold State.drainAct; split <;> simp

@[simp] theorem State.wholeIssue_config (s : State) (core slot : Nat) : (s.wholeIssue core slot).config = s.config := by
  simp only [State.wholeIssue]
  repeat' split
  all_goals simp

@[simp] theorem State.reshapeStatus_config (s : State) (r : Reshape) (st : Status) :
    (s.reshapeStatus r st).config = s.config := by
  unfold State.reshapeStatus
  repeat' split
  all_goals simp

@[simp] theorem State.startReshape_config (s : State) (r : Reshape) : (s.startReshape r).config = s.config := by
  unfold State.startReshape
  repeat' split
  all_goals simp

@[simp] theorem State.settleRelease_config (s : State) (gid : Nat) : (s.settleRelease gid).config = s.config := by
  simp [State.settleRelease]

/-! ## The grid (R53 to R83) -/

@[simp] theorem State.settleSlot_config (s : State) (core slot : Nat) : (s.settleSlot core slot).config = s.config := by
  simp [State.settleSlot]

@[simp] theorem State.arrayStart_config (s : State) (gid rows cols : Nat) : (s.arrayStart gid rows cols).config = s.config := by
  simp [State.arrayStart]

@[simp] theorem State.acceptFeed_config (s : State) (gid : Nat) (side bank : Bool) :
    (s.acceptFeed gid side bank).config = s.config := by
  simp only [State.acceptFeed]
  repeat' split
  all_goals simp

@[simp] theorem State.cellFire_config (s : State) (gid row col : Nat) : (s.cellFire gid row col).config = s.config := by
  simp only [State.cellFire]
  repeat' split
  all_goals simp

@[simp] theorem State.rangeWrite_config (s : State) (p : Part) (fuel x : Nat) (bs : List Byte) :
    (s.rangeWrite p fuel x bs).config = s.config := by
  induction fuel generalizing s x bs with
  | zero => rfl
  | succ fuel ih => simp [State.rangeWrite, ih]

@[simp] theorem State.saveCapture_config (s : State) (v : Shadow) (c1 c2 : List Word × List Word) :
    (s.saveCapture v c1 c2).config = s.config := by
  unfold State.saveCapture; split <;> simp

@[simp] theorem State.sample_config (s : State) (v : Shadow) (fn : Nat) : (s.sample v fn).config = s.config := by
  simp only [State.sample]
  repeat' split
  all_goals simp

@[simp] theorem State.landDrain_config (s : State) (core slot tag : Nat) (takers outs : List Nat) :
    (s.landDrain core slot tag takers outs).config = s.config := by
  unfold State.landDrain; split <;> simp

@[simp] theorem State.completeDrain_config (s : State) (gid core : Nat) : (s.completeDrain gid core).config = s.config := by
  simp only [State.completeDrain]
  repeat' split
  all_goals simp

@[simp] theorem State.elementWise_config (s : State) (gid row : Nat) (x y ncw : Word) (dcw : DWord) (doff : Nat) (tid : Word) (elem : DWord) :
    (s.elementWise gid row x y ncw dcw doff tid elem).config = s.config := by
  unfold State.elementWise; split <;> simp

@[simp] theorem State.nextReshape_config (s : State) (tract : Nat) : (s.nextReshape tract).config = s.config := by
  unfold State.nextReshape; split <;> simp

@[simp] theorem State.nextReshapes_config (s : State) (tract fuel : Nat) : (s.nextReshapes tract fuel).config = s.config := by
  induction fuel generalizing s with
  | zero => rfl
  | succ fuel ih => rw [State.nextReshapes, ih, State.nextReshape_config]

@[simp] theorem State.completeReshape_config (s : State) (tract : Nat) : (s.completeReshape tract).config = s.config := by
  unfold State.completeReshape; split <;> simp

/-! ## Spars (R282 to R302) -/

@[simp] theorem State.updWaiter_config (s : State) (w : Waiter) (f : Slot → Slot) : (s.updWaiter w f).config = s.config := by
  unfold State.updWaiter; split <;> simp

@[simp] theorem State.saveWait_config (s : State) (w : Waiter) : (s.saveWait w).config = s.config := by
  unfold State.saveWait; split <;> simp

@[simp] theorem State.updWait_config (s : State) (w : Waiter) (f : Thread → Thread) : (s.updWait w f).config = s.config := by
  simp [State.updWait]

@[simp] theorem State.resume_config (s : State) (w : Waiter) (status : Word) (code : Nat) :
    (s.resume w status code).config = s.config := by simp [State.resume]

@[simp] theorem State.depart_config (s : State) (p : Nat) (w : Waiter) : (s.depart p w).config = s.config := by simp [State.depart]

@[simp] theorem State.evaluate_config (s : State) (p fuel : Nat) : (s.evaluate p fuel).config = s.config := by
  induction fuel generalizing s with
  | zero => rfl
  | succ fuel ih => simp [State.evaluate, ih]

@[simp] theorem State.afterOp_config (s : State) (p : Nat) : (s.afterOp p).config = s.config := by simp [State.afterOp]

theorem State.addSpar_config {s t : State} {p : Nat} {delta old : DWord} (h : s.addSpar p delta = .ok (old, t)) : t.config = s.config := by
  simp only [State.addSpar] at h
  split at h
  · obtain ⟨-, rfl⟩ := Prod.mk.inj (Except.ok.inj h); rfl
  · split at h
    · cases h
    · split at h
      · cases h
      · split at h
        · cases h
        · obtain ⟨-, rfl⟩ := Prod.mk.inj (Except.ok.inj h); simp

@[simp] theorem State.tryFreeSpar_config (s : State) (p : Nat) : (s.tryFreeSpar p).config = s.config := by simp [State.tryFreeSpar]

@[simp] theorem State.abandon_config (s : State) (p : Nat) : (s.abandon p).config = s.config := by simp [State.abandon]

@[simp] theorem State.withdraw_config (s : State) (p ctx : Nat) : (s.withdraw p ctx).config = s.config := by simp [State.withdraw]

@[simp] theorem State.sparStop_config (s : State) (ctx : Nat) : (s.sparStop ctx).config = s.config := by
  simp [State.sparStop]

@[simp] theorem State.clearMap_config (s : State) (p ctx lid : Nat) : (s.clearMap p ctx lid).config = s.config := by simp [State.clearMap]

@[simp] theorem State.clearMaps_config (s : State) (ctx : Nat) : (s.clearMaps ctx).config = s.config := by simp [State.clearMaps]

@[simp] theorem State.restoreSpar_config (s : State) (p : Nat) : (s.restoreSpar p).config = s.config := by simp [State.restoreSpar]

@[simp] theorem State.sparFault_config (s : State) (o : SparOp) (st : Status) : (s.sparFault o st).config = s.config := by
  simp [State.sparFault]

@[simp] theorem State.sparReply_config (s : State) (o : SparOp) (v : DWord) : (s.sparReply o v).config = s.config := by
  simp [State.sparReply]

@[simp] theorem State.arrive_config (s : State) (p : Nat) (o : SparOp) :
    (s.arrive p o).config = s.config := by
  simp only [State.arrive]
  split
  · simp
  · split
    · simp
    · split <;> simp

@[simp] theorem State.applySpar_config (s : State) (p : Nat) (o : SparOp) : (s.applySpar p o).config = s.config := by
  unfold State.applySpar
  dsimp only
  split
  · simp
  · split
    · split
      · next h => simp [State.addSpar_config h]
      · simp
    · simp
    · simp
    · simp

@[simp] theorem State.sparIssue_config (s : State) (i : Issue) (f : FormT) (opc : Nat) (e : Enc) (ra rb d : List Reg) (park : Option Nat)
    (act : DWord → SparAct) : (s.sparIssue i f opc e ra rb d park act).config = s.config := by
  refine State.issue_config fun t go on => ?_
  split
  · simp
  · refine (State.nextPc_config ..).trans (State.config_foldl (fun u m => ?_) _ _)
    dsimp only
    repeat' split
    all_goals simp

@[simp] theorem State.exitToken_config (s : State) (core m : Nat) : (s.exitToken core m).config = s.config := by
  unfold State.exitToken; split <;> simp

/-! ## Objects, hoard and mailboxes of sheaves (R127, R128, R132, R179 to R187, R337 to R342) -/

@[simp] theorem State.updObjTab_config (s : State) (fn : Nat) (f : ObjTab → ObjTab) : (s.updObjTab fn f).config = s.config := by
  simp [State.updObjTab]

@[simp] theorem State.zeroHeap_config (s : State) (p : Part) (ddr : Bool) (part gen x n : Nat) :
    (s.zeroHeap p ddr part gen x n).config = s.config := by
  induction n generalizing s x with
  | zero => rfl
  | succ n ih => rw [State.zeroHeap, ih, State.writeObj_config]

theorem State.alloc_config {s t : State} {ctx size alog h b : Nat} {ddr zero : Bool} (ht : s.alloc ctx size ddr alog zero = .ok (h, b, t)) :
    t.config = s.config := by
  simp only [State.alloc] at ht
  repeat' split at ht
  all_goals cases ht
  all_goals simp

@[simp] theorem State.freeObj_config (s : State) (fn idx : Nat) : (s.freeObj fn idx).config = s.config := by
  unfold State.freeObj; split <;> simp

@[simp] theorem State.dropHold_config (s : State) (fn idx ctx : Nat) : (s.dropHold fn idx ctx).2.config = s.config := by
  simp only [State.dropHold]
  repeat' split
  all_goals simp

@[simp] theorem State.dropHolds_config (s : State) (ctx : Nat) : (s.dropHolds ctx).config = s.config := by simp [State.dropHolds]

@[simp] theorem State.result'_config (s : State) (core m : Nat) (d : List Reg) (vs : List Word) :
    (s.result' core m d vs).config = s.config := by simp [State.result']

@[simp] theorem State.freeAll_config (s : State) (core fn word : Nat) (ra : List Reg) (ms : List Nat) :
    (s.freeAll core fn word ra ms).1.config = s.config := by
  induction ms generalizing s with
  | nil => rfl
  | cons m ms ih =>
    unfold State.freeAll
    split
    · rw [ih, State.freeObj_config]
    · exact State.sheafFault_config ..

@[simp] theorem State.updHoard_config (s : State) (fn : Nat) (f : Hoard → Hoard) : (s.updHoard fn f).config = s.config := by
  simp [State.updHoard]

@[simp] theorem State.mapWrite_config (s : State) (fn off : Nat) (bs : List Byte) : (s.mapWrite fn off bs).config = s.config := by
  unfold State.mapWrite
  repeat' split
  all_goals simp

@[simp] theorem State.mapPut_config (s : State) (fn job block disp : Nat) : (s.mapPut fn job block disp).config = s.config := by
  unfold State.mapPut
  repeat' split
  all_goals simp

@[simp] theorem State.hoardLog_config (s : State) (fn ctx : Nat) (st : Status) (block : Nat) (exhaust : Bool) :
    (s.hoardLog fn ctx st block exhaust).config = s.config := by simp [State.hoardLog]

@[simp] theorem State.hoardStep_config (s : State) (fn job step : Nat) : (s.hoardStep fn job step).config = s.config := by
  simp only [State.hoardStep, State.config_ite, State.mapWrite_config, State.updHoard_config, ite_self]

@[simp] theorem State.spill_config (s : State) (fn ctx need hbm t2 fuel : Nat) : (s.spill fn ctx need hbm t2 fuel).config = s.config := by
  induction fuel generalizing s with
  | zero => rfl
  | succ fuel ih =>
    simp only [State.spill]
    split
    · rfl
    · split
      · simp [ih]
      · rfl

@[simp] theorem State.shed_config (s : State) (fn job d need hbm fuel : Nat) : (s.shed fn job d need hbm fuel).config = s.config := by
  induction fuel generalizing s with
  | zero => rfl
  | succ fuel ih =>
    simp only [State.shed]
    split
    · rfl
    · split <;> simp [ih]

@[simp] theorem State.hoardPlace_config (s : State) (fn ctx job block need : Nat) :
    (s.hoardPlace fn ctx job block need).2.config = s.config := by
  simp only [State.hoardPlace]
  repeat' split
  all_goals simp

@[simp] theorem State.hput_config (s : State) (ctx block len : Nat) (ps : List (Nat × Nat)) :
    (s.hput ctx block len ps).2.config = s.config := by
  simp only [State.hput]; split <;> simp

@[simp] theorem State.writeHusked_config (s : State) (ps : List (Nat × Nat)) (bs : List Byte) (bad : List Nat) :
    (s.writeHusked ps bs bad).config = s.config := by
  unfold State.writeHusked
  exact (foldl_config Prod.snd (fun _ _ => by simp) ps _).trans (by simp)

@[simp] theorem State.hget_config (s : State) (ctx block len : Nat) (ps : List (Nat × Nat)) :
    (s.hget ctx block len ps).2.2.config = s.config := by
  simp only [State.hget]
  split
  · simp
  · split
    · rfl
    · split <;> simp

@[simp] theorem State.hoardIssue_config {s : State} {i : Issue} {f : FormT} {opc w : Nat} {k : Acc}
    {act : State → Nat → Nat → Nat → List (Nat × Nat) → Nat × State}
    (hact : ∀ t ctx block len ps, (act t ctx block len ps).2.config = t.config) :
    (s.hoardIssue i f opc w k act).config = s.config := by
  refine State.issue_config fun t go on => ?_
  dsimp only
  repeat' split
  all_goals simp [hact]

@[simp] theorem State.mbxReply_config (s : State) (q : MbxPark) (st : Status) : (s.mbxReply q st).config = s.config := by
  simp [State.mbxReply]

@[simp] theorem State.mbxWake_config (s : State) (q : MbxPark) : (s.mbxWake q).config = s.config := by simp [State.mbxWake]

@[simp] theorem State.mbxSend_config (s : State) (fn ch : Nat) (q : MbxPark) : (s.mbxSend fn ch q).config = s.config := by
  simp [State.mbxSend]

@[simp] theorem State.mbxRecv_config (s : State) (fn ch : Nat) (q : MbxPark) : (s.mbxRecv fn ch q).config = s.config := by
  simp [State.mbxRecv]

@[simp] theorem State.mbxServe_config (s : State) (fn ch : Nat) : (s.mbxServe fn ch).config = s.config := by
  simp only [State.mbxServe]; split <;> simp

@[simp] theorem State.mbxIssue_config (s : State) (i : Issue) (f : FormT) (opc : Nat) (send : Bool) :
    (s.mbxIssue i f opc send).config = s.config := by
  refine State.issue_config fun t go on => ?_
  split <;> simp

/-! ## Submission entries and completions (R313 to R318) -/

@[simp] theorem State.queueError_config (s : State) (fn q : Nat) (st : Status) : (s.queueError fn q st).config = s.config := by
  simp [State.queueError]

@[simp] theorem State.completionPost_config (s : State) (fn q : Nat) : (s.completionPost fn q).config = s.config := by
  simp only [State.completionPost]; split <;> simp

@[simp] theorem State.flushPosts_config (s : State) (fn q : Nat) : (s.flushPosts fn q).config = s.config := by simp [State.flushPosts]

@[simp] theorem State.settleQueue_config (s : State) (fn q : Nat) : (s.settleQueue fn q).config = s.config := by simp [State.settleQueue]

@[simp] theorem State.postAll_config (s : State) (fn q : Nat) (p : QEntry → Option (Status × Word)) :
    (s.postAll fn q p).config = s.config := by simp [State.postAll]

@[simp] theorem State.conclude_config (s : State) (e : EntryRef) : (s.conclude e).config = s.config := by
  unfold State.conclude
  repeat' split
  all_goals simp

@[simp] theorem State.endUnrun_config (s : State) (e : EntryRef) (st : Status) : (s.endUnrun e st).config = s.config := by
  simp [State.endUnrun]

@[simp] theorem State.endNow_config (s : State) (e : EntryRef) (st : Status) : (s.endNow e st).config = s.config := by simp [State.endNow]

@[simp] theorem State.ran_config (s : State) (e : EntryRef) (st : Status) (res : Nat) : (s.ran e st res).config = s.config := by
  simp [State.ran]

@[simp] theorem State.entryFault_config (s : State) (e : EntryRef) (x : QEntry) (rep : Report) :
    (s.entryFault e x rep).config = s.config := by simp [State.entryFault]

@[simp] theorem State.begin_config {s : State} {e : EntryRef} {opc : Nat} {act : State → QEntry → State}
    (hact : ∀ t x, (act t x).config = t.config) : (s.begin e opc act).config = s.config := by
  unfold State.begin
  repeat' split
  all_goals simp [hact]

@[simp] theorem State.signal_config (s : State) (e : EntryRef) (x : QEntry) : (s.signal e x).config = s.config := by
  unfold State.signal
  split
  · rfl
  · dsimp only
    split
    · simp
    · split
      · next h => exact State.addSpar_config h
      · simp

/-! ## Placing, swapping and stopping work (R83, R85, R102 to R105) -/

@[simp] theorem State.wakeCourse_config (s : State) (course : Nat) : (s.wakeCourse course).config = s.config := by simp [State.wakeCourse]

@[simp] theorem State.sheafPlace_config (s : State) (e : EntryRef) (core : Nat) : (s.sheafPlace e core).config = s.config := by
  unfold State.sheafPlace
  repeat' split
  all_goals simp

@[simp] theorem State.moveWaiters_config (s : State) (f : Waiter → Waiter) : (s.moveWaiters f).config = s.config := by
  simp [State.moveWaiters]

@[simp] theorem State.swapOut_config (s : State) (core slot : Nat) : (s.swapOut core slot).config = s.config := by
  unfold State.swapOut; split <;> simp

@[simp] theorem State.sheafRestore_config (s : State) (core n : Nat) : (s.sheafRestore core n).config = s.config := by
  unfold State.sheafRestore
  repeat' split
  all_goals simp

@[simp] theorem State.orphan_config (s : State) (core slot : Nat) : (s.orphan core slot).config = s.config := by simp [State.orphan]

@[simp] theorem State.withdrawSheaf_config (s : State) (ws : List Waiter) : (s.withdrawSheaf ws).config = s.config := by
  simp [State.withdrawSheaf]

@[simp] theorem State.clearBlock_config (s : State) (ctx block : Nat) : (s.clearBlock ctx block).config = s.config :=
  State.writeBytes_config ..

@[simp] theorem State.unparkMbx_config (s : State) (core slot : Nat) : (s.unparkMbx core slot).config = s.config := by
  simp [State.unparkMbx]

@[simp] theorem State.dropSheaf_config (s : State) (core slot : Nat) : (s.dropSheaf core slot).config = s.config := by
  unfold State.dropSheaf; split <;> simp

@[simp] theorem State.dropSaved_config (s : State) (ctx : Nat) (v : Saved) : (s.dropSaved ctx v).config = s.config := by
  simp [State.dropSaved]

@[simp] theorem State.dropSheaves_config (s : State) (p : Slot → Bool) : (s.dropSheaves p).config = s.config := by
  simp [State.dropSheaves]

@[simp] theorem State.clearGang_config (s : State) (gid : Nat) : (s.clearGang gid).config = s.config := by simp [State.clearGang]

@[simp] theorem State.clearGangs_config (s : State) (ctx : Nat) : (s.clearGangs ctx).config = s.config := by simp [State.clearGangs]

/-! ## Jobs and gutter messages (R216 to R226) -/

@[simp] theorem State.nakNote_config (s : State) (fn j port : Nat) (src : BitVec 16) (wire : Nat) :
    (s.nakNote fn j port src wire).config = s.config := by
  unfold State.nakNote; split <;> simp

@[simp] theorem State.gutterSend_config (s : State) (fn j : Nat) (b : Job) (ring : Option Nat) (dest : Member) (h : GHdr) (body : List CodeWord) :
    (s.gutterSend fn j b ring dest h body).config = s.config := by
  simp only [State.gutterSend]; split <;> simp

@[simp] theorem State.spread_config (s : State) (fn j : Nat) (b : Job) (h : GHdr) (body : List CodeWord) :
    (s.spread fn j b h body).config = s.config := by simp [State.spread]

@[simp] theorem State.take_config (s : State) (port : Nat) (m : Msg) : (s.take port m).config = s.config := by
  simp only [State.take]
  repeat' split
  all_goals simp

@[simp] theorem State.quarantined_config (s : State) (port : Nat) (m : Msg) : (s.quarantined port m).config = s.config := by
  simp [State.quarantined]

@[simp] theorem State.receive_config {s : State} {port op : Nat} {m : Msg} {act : State → State} (hact : ∀ t, (act t).config = t.config) :
    (s.receive port m op act).config = s.config := by
  simp [State.receive, hact]

@[simp] theorem State.stale_config (s : State) (port : Nat) (m : Msg) (fn j : Nat) (b : Job) :
    (s.stale port m fn j b).config = s.config := by simp [State.stale]

@[simp] theorem State.gutter_config {s : State} {port type : Nat} {m : Msg} {act : State → Nat → Nat → Job → GHdr → State}
    (hact : ∀ t fn j b h, (act t fn j b h).config = t.config) : (s.gutter port m type act).config = s.config := by
  refine State.receive_config fun t => ?_
  dsimp only
  repeat' split
  all_goals simp [hact]

@[simp] theorem State.agentNote_config (s : State) (fn j key : Nat) (st : Status) (unit p : Nat) (delta : DWord) :
    (s.agentNote fn j key st unit p delta).config = s.config := by
  unfold State.agentNote; split <;> simp

@[simp] theorem State.setSpar_config (s : State) (p : Nat) (v : DWord) : (s.setSpar p v).config = s.config := by simp [State.setSpar]

@[simp] theorem State.agentOp_config (s : State) (fn j key unit : Nat) (sp : Option AgSpar) (op : AgentOp) :
    (s.agentOp fn j key unit sp op).config = s.config := by
  unfold State.agentOp
  extract_lets delta
  split
  · exact State.agentNote_config ..
  · extract_lets x
    split
    · exact State.agentNote_config ..
    · split
      · rfl
      · split
        · exact State.agentNote_config ..
        · split
          · rfl
          · exact State.setSpar_config ..
          · split
            · next h => exact State.addSpar_config h
            · exact State.faultCtx_config ..

/-! ## Voids and replays (R241 to R244) -/

@[simp] theorem State.stopLaunches_config (s : State) (es : List EntryRef) (ctxs : List Nat) :
    (s.stopLaunches es ctxs).config = s.config := by simp [State.stopLaunches]

@[simp] theorem State.detachReshapes_config (s : State) (es : List EntryRef) : (s.detachReshapes es).config = s.config := by
  simp [State.detachReshapes]

@[simp] theorem State.rewind_config (s : State) (fn j step : Nat) (cause : Status) :
    (s.rewind fn j step cause).config = s.config := by simp [State.rewind]

@[simp] theorem State.endJobEntries_config (s : State) (fn j : Nat) (st : Status) :
    (s.endJobEntries fn j st).config = s.config := by simp [State.endJobEntries]

@[simp] theorem State.closeSeqs_config (s : State) (fn : Nat) : (s.closeSeqs fn).config = s.config := by simp [State.closeSeqs]

@[simp] theorem State.dropHoard_config (s : State) (fn job : Nat) : (s.dropHoard fn job).config = s.config := by simp [State.dropHoard]

@[simp] theorem State.markNorms_config (s : State) (fn j : Nat) (b : Job) (state : Nat) : (s.markNorms fn j b state).config = s.config := by
  simp [State.markNorms]

@[simp] theorem State.digestRecord_config (s : State) (b : Job) (flags : Nat) : (s.digestRecord b flags).config = s.config := by
  simp [State.digestRecord]

@[simp] theorem State.clearPre_config (s : State) (b : Job) : (s.clearPre b).config = s.config := by simp [State.clearPre]

@[simp] theorem State.dropEngineWork_config (s : State) (fn j : Nat) : (s.dropEngineWork fn j).config = s.config := by
  simp [State.dropEngineWork]

@[simp] theorem State.fenceTract_config (s : State) (fn tract core : Nat) (cause : Status) :
    (s.fenceTract fn tract core cause).config = s.config := by simp [State.fenceTract]

@[simp] theorem State.retire_config (s : State) (fn core : Nat) (jslot : Option Nat) (due : Bool) (cause : Status) :
    (s.retire fn core jslot due cause).config = s.config := by simp [State.retire]

@[simp] theorem State.dueRetires_config (s : State) (fn j : Nat) : (s.dueRetires fn j).config = s.config := by simp [State.dueRetires]

@[simp] theorem State.dropVerdicts_config (s : State) (fn j step : Nat) : (s.dropVerdicts fn j step).config = s.config := by
  unfold State.dropVerdicts
  exact (State.config_foldl (fun t v => by split <;> simp) _ _).trans (by simp)

@[simp] theorem State.redeliver_config (s : State) (ms : List (Nat × Msg)) : (s.redeliver ms).config = s.config := by
  simp [State.redeliver]

@[simp] theorem State.voidJob_config (s : State) (fn j : Nat) (cause : Status) (origin : Nat) (own halt : Bool) :
    (s.voidJob fn j cause origin own halt).config = s.config := by
  unfold State.voidJob; split <;> simp

@[simp] theorem State.raiseVoid_config (s : State) (fn j : Nat) (cause : Status) :
    (s.raiseVoid fn j cause).config = s.config := by
  unfold State.raiseVoid; split <;> simp

@[simp] theorem State.abortVoid_config (s : State) (ctx : Nat) : (s.abortVoid ctx).config = s.config := by
  unfold State.abortVoid; split <;> simp

@[simp] theorem State.replayStart_config (s : State) (fn j : Nat) : (s.replayStart fn j).config = s.config := by
  unfold State.replayStart
  repeat' split
  all_goals simp

/-! ## Contexts (R83, R105, R329 to R343) -/

@[simp] theorem State.abortEntry_config (s : State) (code : Status) (e : EntryRef × QEntry) :
    (s.abortEntry code e).config = s.config := by
  unfold State.abortEntry; split <;> simp

@[simp] theorem State.stopCtx_config (s : State) (ctx : Nat) : (s.stopCtx ctx).config = s.config := by simp [State.stopCtx]

@[simp] theorem State.ctxAbort_config (s : State) (ctx : Nat) : (s.ctxAbort ctx).config = s.config := by simp [State.ctxAbort]

@[simp] theorem State.startDestroy_config (s : State) (ctx : Nat) (self : Option EntryRef) :
    (s.startDestroy ctx self).config = s.config := by simp [State.startDestroy]

@[simp] theorem State.freeCtx_config (s : State) (ctx : Nat) : (s.freeCtx ctx).config = s.config := by simp [State.freeCtx]

@[simp] theorem State.destroyed_config (s : State) (ctx : Nat) : (s.destroyed ctx).config = s.config := by simp [State.destroyed]

@[simp] theorem State.enterSlot_config (s : State) (ctx : Nat) (out : Option Nat) : (s.enterSlot ctx out).config = s.config := by
  unfold State.enterSlot; split <;> simp

@[simp] theorem State.pageIn_config (s : State) (ctx : Nat) : (s.pageIn ctx).config = s.config := by
  simp only [State.pageIn]
  repeat' split
  all_goals simp

@[simp] theorem State.defineDefault_config (s : State) (fn : Nat) :
    (s.defineDefault fn).config = s.config := by
  unfold State.defineDefault
  split
  · rfl
  · refine (State.saveCtx_config ..).trans ?_
    rw [State.config_mk, State.config_fold]
    exact State.writeBytes_config ..

/-! ## The data path of the gutters (R222 to R237) -/

@[simp] theorem State.deadRead_config (s : State) (a len : Nat) : (s.deadRead a len).config = s.config := by
  simp [State.deadRead]

@[simp] theorem State.takeShare_config (s : State) (b : Job) (c : Nat) : (s.takeShare b c).2.config = s.config := by
  simp [State.takeShare]

@[simp] theorem State.tallyFault_config (s : State) (fn j : Nat) (unit loc : Nat) (detail : List Byte) :
    (s.tallyFault fn j unit loc detail).config = s.config := by simp [State.tallyFault]

@[simp] theorem State.shareSent_config (s : State) (fn j c : Nat) : (s.shareSent fn j c).config = s.config := by simp [State.shareSent]

@[simp] theorem State.passChunk_config (s : State) (fn j : Nat) (b : Job) (x : Sum) :
    (s.passChunk fn j b x).config = s.config := by
  simp only [State.passChunk]
  repeat' split
  all_goals simp

@[simp] theorem State.holdAhead_config (s : State) (port : Nat) (m : Msg) (fn j : Nat) (b : Job) (h : GHdr) :
    (s.holdAhead port m fn j b h).config = s.config := by simp [State.holdAhead]

@[simp] theorem State.holdEarly_config (s : State) (port : Nat) (m : Msg) (fn j : Nat) :
    (s.holdEarly port m fn j).config = s.config := by simp [State.holdEarly]

@[simp] theorem State.aged_config {s : State} {port fn j : Nat} {m : Msg} {b : Job} {h : GHdr} {now : State → State}
    (hnow : ∀ t, (now t).config = t.config) : (s.aged port m fn j b h now).config = s.config := by
  unfold State.aged; split <;> simp [hnow]

@[simp] theorem State.writeCode_config (s : State) (a : Nat) (ws : List CodeWord) : (s.writeCode a ws).config = s.config := by
  simp [State.writeCode]

@[simp] theorem State.putParams_config (s : State) (fn j : Nat) (b : Job) (i : Nat) (e : UpdEntry) (c mask : Nat) (body : List CodeWord) :
    (s.putParams fn j b i e c mask body).config = s.config := by simp [State.putParams]

@[simp] theorem State.sendBlocks_config (s : State) (fn j : Nat) (b : Job) (t : BStream) (type : Nat) (x : BSum) :
    (s.sendBlocks fn j b t type x).config = s.config := by
  simp [State.sendBlocks]

@[simp] theorem State.noteBlock_config (s : State) (fn j n seq blk : Nat) (lifts : Nat) (esc : Bool) :
    (s.noteBlock fn j n seq blk lifts esc).config = s.config := by
  unfold State.noteBlock; split <;> simp

@[simp] theorem State.hopBlocks_config (s : State) (fn j : Nat) (t : BStream) (x : BSum) (starting : Bool) :
    (s.hopBlocks fn j t x starting).2.config = s.config := by
  unfold State.hopBlocks
  extract_lets share all step
  have hstep : ∀ a k, (step a k).2.2.config = a.2.2.config := fun a k => by simp [step]
  exact foldl_config (fun a : List Blk × Bool × State => a.2.2) hstep (List.range 60) ([], x.ovf, s)

@[simp] theorem State.writeResult_config (s : State) (b : Job) (t : BStream) (x : BSum) : (s.writeResult b t x).config = s.config := by
  simp [State.writeResult]

@[simp] theorem State.streamMark_config (s : State) (fn j n : Nat) (keys : List Nat) :
    (s.streamMark fn j n keys).config = s.config := by
  unfold State.streamMark
  repeat' split
  all_goals simp

@[simp] theorem State.streamVoid_config (s : State) (fn j : Nat) (t : BStream) (cause : Status) :
    (s.streamVoid fn j t cause).config = s.config := by
  unfold State.streamVoid; split <;> simp

@[simp] theorem State.finishBlocks_config (s : State) (fn j : Nat) (b : Job) (t : BStream) (x : BSum) :
    (s.finishBlocks fn j b t x).config = s.config := by
  simp only [State.finishBlocks]; split <;> simp

@[simp] theorem State.blocks_config {s : State} {port type : Nat} {m : Msg} {act : State → Nat → Nat → Job → BStream → GHdr → State}
    (hact : ∀ t fn j b x h, (act t fn j b x h).config = t.config) : (s.blocks port m type act).config = s.config := by
  refine State.gutter_config fun t fn j b h => ?_
  extract_lets now
  have hnow : ∀ u, (now u).config = u.config := fun u => by unfold now; split <;> simp [hact]
  split <;> simp [hnow]

@[simp] theorem State.useEscapes_config (s : State) (fn j n c : Nat) : (s.useEscapes fn j n c).config = s.config := by
  simp [State.useEscapes]

/-! ## Update engines (R192 to R210) -/

@[simp] theorem State.addNorm_config (s : State) (a off : Nat) (v : DWord) : (s.addNorm a off v).config = s.config := by
  simp [State.addNorm]

@[simp] theorem State.openAttempt_config (s : State) (q fn j : Nat) (b : Job) : (s.openAttempt q fn j b).config = s.config := by
  simp [State.openAttempt]

@[simp] theorem State.engineHusk_config (s : State) (q fn j chunk : Nat) : (s.engineHusk q fn j chunk).config = s.config := by
  simp [State.engineHusk]

@[simp] theorem State.engineNonfinite_config (s : State) (q fn j : Nat) (b : Job) (e : UpdEntry) (chunk elem what : Nat) :
    (s.engineNonfinite q fn j b e chunk elem what).config = s.config := by simp [State.engineNonfinite]

@[simp] theorem State.shareParams_config (s : State) (fn j : Nat) (b : Job) (c mask : Nat) (w : Option Nat) :
    (s.shareParams fn j b c mask w).config = s.config := by
  unfold State.shareParams; split <;> simp

@[simp] theorem State.hashChunk_config (s : State) (fn j c step a : Nat) : (s.hashChunk fn j c step a).config = s.config := by
  simp only [State.hashChunk]; split <;> simp

@[simp] theorem State.writeElems_config (s : State) (e : UpdEntry) (set c : Nat) (xs : List Elem) :
    (s.writeElems e set c xs).config = s.config := by
  unfold State.writeElems; split <;> simp

@[simp] theorem State.applyRule_config (s : State) (q fn j : Nat) (b : Job) (i : Nat) (e : UpdEntry) (x : EChunk) (rho gamma : Word) :
    (s.applyRule q fn j b i e x rho gamma).config = s.config := by
  simp only [State.applyRule]
  repeat' split
  all_goals simp

@[simp] theorem State.stageChunk_config (s : State) (q fn j : Nat) (b : Job) (i : Nat) (e : UpdEntry) (x : EChunk) (gamma : Word) :
    (s.stageChunk q fn j b i e x gamma).config = s.config := by
  unfold State.stageChunk
  extract_lets p c base n gs written summed staged noted touches full
  split
  · exact State.engineNonfinite_config ..
  · exact (State.config_foldl (fun t k => (State.agentOp_config ..).trans (State.writeNat_config ..)) _ _).trans
      ((State.updJob_config ..).trans ((State.addNorm_config ..).trans (State.writeBytes_config ..)))

@[simp] theorem State.applyChunk_config (s : State) (q : Nat) (x : EChunk) : (s.applyChunk q x).config = s.config := by
  unfold State.applyChunk
  repeat' split
  all_goals simp

@[simp] theorem State.writeEach_config (s : State) (e : UpdEntry) (set : Nat) (xs : List Elem) :
    (s.writeEach e set xs).config = s.config := by simp [State.writeEach]

@[simp] theorem State.finishPre_config (s : State) (q fn j : Nat) (b : Job) (e : UpdEntry) (p : PreBlock) (c : Nat) (applied : List Nat) :
    (s.finishPre q fn j b e p c applied).config = s.config := by simp [State.finishPre]

@[simp] theorem State.applyBlock_config (s : State) (fn j : Nat) (b : Job) (i : Nat) (e : UpdEntry) (p : PreBlock) (k : Nat) :
    (s.applyBlock fn j b i e p k).config = s.config := by
  simp only [State.applyBlock]
  repeat' split
  all_goals simp

@[simp] theorem State.copyRow_config (s : State) (e : UpdEntry) (row : Nat) : (s.copyRow e row).config = s.config := by
  simp [State.copyRow]

/-! ## Shadow verdicts and the row shift (R23, R378 to R380) -/

@[simp] theorem State.dropShadow_config (s : State) (id : Nat) : (s.dropShadow id).config = s.config := by simp [State.dropShadow]

@[simp] theorem State.countShadow_config (s : State) (fn : Nat) (f : Fn → Fn) : (s.countShadow fn f).config = s.config := by
  simp [State.countShadow]

@[simp] theorem State.actVerdict_config (s : State) (v : Shadow) (st : Status) (rep : Report) :
    (s.actVerdict v st rep).config = s.config := by
  unfold State.actVerdict; split <;> simp

@[simp] theorem State.giveVerdict_config (s : State) (v : Shadow) (st : Status) (detail : List Byte) :
    (s.giveVerdict v st detail).config = s.config := by
  unfold State.giveVerdict; split <;> simp

@[simp] theorem State.failSpare_config (s : State) (v : Shadow) : (s.failSpare v).config = s.config := by simp [State.failSpare]

@[simp] theorem State.actKept_config (s : State) (fn j : Nat) : (s.actKept fn j).config = s.config := by
  unfold State.actKept
  exact State.config_foldl (fun t v => by split <;> simp) _ _

/-! ## Seals, ridges, checkpoints and takeovers (R211, R238 to R247, R384 to R388) -/

@[simp] theorem State.journalStep_config (s : State) (b : Job) (outcome selp : Nat) :
    (s.journalStep b outcome selp).config = s.config := by
  unfold State.journalStep; split <;> simp

@[simp] theorem State.writeMarked_config (s : State) (a : Nat) (bs : List (Byte × Bool)) :
    (s.writeMarked a bs).config = s.config := by simp [State.writeMarked]

@[simp] theorem State.writeParts_config (s : State) (keep : CkPart → Bool) (ps : List CkPart) (bs : List (Byte × Bool)) :
    (s.writeParts keep ps bs).config = s.config := by
  induction ps generalizing s bs with
  | nil => rfl
  | cons p ps ih => simp [State.writeParts, ih]

theorem State.peerLine_config {s t : State} {fn j g : Nat} {ws : List CodeWord} (h : s.peerLine fn j g ws = some t) : t.config = s.config := by
  unfold State.peerLine at h
  split at h
  · split at h
    · obtain rfl := Option.some.inj h
      simp
    · cases h
  · exact State.request_config h

theorem State.peerWrite_config {s t : State} {fn j fuel g : Nat} {ws : List CodeWord} (h : s.peerWrite fn j fuel g ws = some t) :
    t.config = s.config := by
  induction fuel generalizing s g ws with
  | zero => obtain rfl := Option.some.inj h; rfl
  | succ fuel ih =>
    simp only [State.peerWrite] at h
    split at h
    · obtain rfl := Option.some.inj h; rfl
    · split at h
      · next hu => rw [ih h, State.peerLine_config hu]
      · cases h

@[simp] theorem State.buddyAbandon_config (s : State) (fn j : Nat) : (s.buddyAbandon fn j).config = s.config := by
  unfold State.buddyAbandon; split <;> simp

@[simp] theorem State.startCheckpoint_config (s : State) (fn j : Nat) (b : Job) (step : Nat) :
    (s.startCheckpoint fn j b step).config = s.config := by
  simp only [State.startCheckpoint]
  split
  · rfl
  · split
    · simp
    · split
      · simp
      · split
        · next h =>
          obtain ⟨u, hu, ht⟩ := Option.bind_eq_some_iff.1 h
          rw [State.peerWrite_config ht, State.peerLine_config hu]; simp
        · simp

@[simp] theorem State.endRuns_config (s : State) (fn j : Nat) : (s.endRuns fn j).config = s.config := by
  unfold State.endRuns; split <;> simp

@[simp] theorem State.checkpointDone_config (s : State) (fn j : Nat) (buddy : Bool) : (s.checkpointDone fn j buddy).config = s.config := by
  simp only [State.checkpointDone]
  split
  · rfl
  · split
    · split
      · split
        · rfl
        · split
          · simp
          · next h =>
            obtain ⟨u, hu, ht⟩ := Option.bind_eq_some_iff.1 h
            simp [State.peerLine_config ht, State.peerWrite_config hu]
      · simp
    · rfl

@[simp] theorem State.setMember_config (s : State) (fn j i : Nat) (f : Member → Member) :
    (s.setMember fn j i f).config = s.config := by
  unfold State.setMember; split <;> simp

@[simp] theorem State.replace_config (s : State) (fn j e sp : Nat) : (s.replace fn j e sp).config = s.config := by
  unfold State.replace; split <;> simp

@[simp] theorem State.expel_config (s : State) (fn j e : Nat) : (s.expel fn j e).config = s.config := by
  unfold State.expel
  repeat' split
  all_goals simp

@[simp] theorem State.holdForSpare_config (s : State) (fn j : Nat) : (s.holdForSpare fn j).config = s.config := by
  unfold State.holdForSpare; split <;> simp

@[simp] theorem State.dropRemoteLines_config (s : State) (fn : Nat) : (s.dropRemoteLines fn).config = s.config := by
  simp [State.dropRemoteLines]

@[simp] theorem State.startCopies_config (s : State) (fn j : Nat) (b : Job) : (s.startCopies fn j b).config = s.config := by
  simp [State.startCopies]

@[simp] theorem State.toggleViews_config (s : State) (b : Job) : (s.toggleViews b).config = s.config := by simp [State.toggleViews]

@[simp] theorem State.postSealed_config (s : State) (fn j step : Nat) : (s.postSealed fn j step).config = s.config := by
  simp [State.postSealed]

@[simp] theorem State.seal_config (s : State) (fn j : Nat) (b : Job) (expelled : List Nat) :
    (s.seal fn j b expelled).config = s.config := by
  unfold State.seal
  extract_lets selp ended noted toggled stepped sealed started
  have hstarted : started.config = s.config := by simp [started, sealed, stepped, toggled, noted, ended]
  split
  · exact hstarted
  · extract_lets cleared readied retired digested checkpointed held redelivered acted
    have hacted : acted.config = s.config := by
      simp [acted, redelivered, held, checkpointed, digested, retired, readied, cleared, hstarted]
    split
    · exact (State.raiseVoid_config ..).trans hacted
    · exact hacted

@[simp] theorem State.expelSelf_config (s : State) (fn j : Nat) : (s.expelSelf fn j).config = s.config := by simp [State.expelSelf]

@[simp] theorem State.trySeal_config (s : State) (fn j : Nat) : (s.trySeal fn j).config = s.config := by
  unfold State.trySeal
  repeat' split
  all_goals simp

@[simp] theorem State.ridgeSend_config (s : State) (fn j : Nat) : (s.ridgeSend fn j).config = s.config := by
  unfold State.ridgeSend; split <;> simp

@[simp] theorem State.around_config {s : State} {port fn j : Nat} {m : Msg} {b : Job} {h : GHdr} {now : State → State}
    (hnow : ∀ t, (now t).config = t.config) : (s.around port m fn j b h now).config = s.config := by
  unfold State.around; split <;> simp [hnow]

@[simp] theorem State.takeover_config (s : State) (fn j : Nat) (t : Takeover) :
    (s.takeover fn j t).config = s.config := by
  unfold State.takeover
  split
  · rfl
  · extract_lets e set joined _ age
    have hjoined : joined.config = s.config := State.replace_config ..
    split
    · rfl
    · split
      · exact hjoined
      · extract_lets copied d parts read viewed rows q started running
        have hread : read.config = s.config := by
          unfold read; split <;> simp [copied, hjoined]
        have hrunning : running.config = s.config := by simp [running, started, viewed, hread]
        split
        · exact hrunning
        · simp [hrunning]

/-! ## Code objects (R133 to R135) -/

@[simp] theorem State.writeCodeTable_config (s : State) (ctx : Nat) : (s.writeCodeTable ctx).config = s.config := by
  simp [State.writeCodeTable]

/-! ## Memory of the queue commands (R305, R313) -/

@[simp] theorem State.hostPut_config (s : State) (a : Nat) (bs : List (Byte × Bool)) : (s.hostPut a bs).config = s.config := by
  simp [State.hostPut]

@[simp] theorem State.windowFault_config (s : State) (e : EntryRef) (x : QEntry) : (s.windowFault e x).config = s.config := by
  simp [State.windowFault]

@[simp] theorem State.writeLines_config (s : State) (e : EntryRef) (x : QEntry) (id : Nat) (ls : List (Nat × Nat × Nat))
    (bs : List (Byte × Bool)) : (s.writeLines e x id ls bs).config = s.config := by
  induction ls generalizing s bs with
  | nil => rfl
  | cons l ls ih =>
    unfold State.writeLines
    split
    · next h => rw [ih, State.request_config h]
    · simp

@[simp] theorem State.putSpans_config (s : State) (e : EntryRef) (x : QEntry) (id : Nat) (ps : List Span) (bs : List (Byte × Bool)) :
    (s.putSpans e x id ps bs).config = s.config := by
  induction ps generalizing s bs with
  | nil => rfl
  | cons p ps ih => rw [State.putSpans, ih]; split <;> simp

@[simp] theorem State.deliverTo_config (s : State) (e : EntryRef) (x : QEntry) (dst : List Span) (bs : List (Byte × Bool)) (st : Status) (res : Nat) :
    (s.deliverTo e x dst bs st res).config = s.config := by simp [State.deliverTo]

@[simp] theorem State.copyEnd_config (s : State) (e : EntryRef) (x : QEntry) (src dst : List Span) (bs : List (Byte × Bool)) :
    (s.copyEnd e x src dst bs).config = s.config := by simp [State.copyEnd]

@[simp] theorem State.codeLoad_config (s : State) (e : EntryRef) (x : QEntry) (src : List Span) (bs : List (Byte × Bool)) :
    (s.codeLoad e x src bs).config = s.config := by
  simp only [State.codeLoad]
  split
  · simp
  · split
    · simp
    · split
      · simp
      · split
        · simp
        · simp only [State.ran_config, State.writeCodeTable_config, State.updCtx_config]
          exact State.config_foldl (fun t w => by split <;> simp) _ _

@[simp] theorem State.deadLines_config (s : State) (ps : List Span) : (s.deadLines ps).config = s.config := by
  simp [State.deadLines]

@[simp] theorem State.gathered_config (s : State) (e : EntryRef) (x : QEntry) (src dst : List Span) (got : Map (Nat × Bool)) :
    (s.gathered e x src dst got).config = s.config := by simp [State.gathered]

@[simp] theorem State.issueReads_config (s : State) (e : EntryRef) (x : QEntry) (id hint : Nat) (ls : List (Nat × Nat × Nat)) :
    (s.issueReads e x id hint ls).config = s.config := by
  induction ls generalizing s with
  | nil => rfl
  | cons l ls ih =>
    unfold State.issueReads
    split
    · next h => rw [ih, State.request_config h]
    · simp

@[simp] theorem State.gather_config (s : State) (e : EntryRef) (x : QEntry) (hint : Nat) (src dst : List Span) :
    (s.gather e x hint src dst).config = s.config := by simp [State.gather]

@[simp] theorem State.gotSource_config (s : State) (e : EntryRef) (id addr : Nat) (ws : List CodeWord) :
    (s.gotSource e id addr ws).config = s.config := by
  unfold State.gotSource; split <;> simp

@[simp] theorem State.gotAck_config (s : State) (e : EntryRef) (id : Nat) : (s.gotAck e id).config = s.config := by
  unfold State.gotAck; split <;> simp

@[simp] theorem State.transferFailed_config (s : State) (e : EntryRef) (id : Nat) (rep : Report) :
    (s.transferFailed e id rep).config = s.config := by
  unfold State.transferFailed; split <;> simp

/-! ## Remote memory access (R249 to R261) -/

@[simp] theorem State.serveRemote_config {s : State} {port op : Nat} {m : Msg} {legal : Bool} {span : Nat × Nat} {act : State → State}
    (hact : ∀ t, (act t).config = t.config) : (s.serveRemote port m op legal span act).config = s.config := by
  refine State.receive_config fun t => ?_
  dsimp only
  repeat' split
  all_goals simp [hact]

@[simp] theorem State.dropRemote_config (s : State) (e : Remote) : (s.dropRemote e).config = s.config := by simp [State.dropRemote]

@[simp] theorem State.late_config (s : State) (port : Nat) : (s.late port).config = s.config := by simp [State.late]

@[simp] theorem State.answered_config {s : State} {port op : Nat} {m : Msg} {act : State → Remote → State}
    (hact : ∀ t e, (act t e).config = t.config) : (s.answered port m op act).config = s.config := by
  refine State.receive_config fun t => ?_
  split <;> simp [hact]

@[simp] theorem State.keepRemote_config (s : State) (e : Remote) (r : MemReq) (v : Nat × List Nat) :
    (s.keepRemote e r v).config = s.config := by
  simp only [State.keepRemote]
  repeat' split
  all_goals simp

@[simp] theorem State.gotLoad_config (s : State) (e : Remote) (r : MemReq) (ws : List CodeWord) :
    (s.gotLoad e r ws).config = s.config := by simp [State.gotLoad]

@[simp] theorem State.gotLine_config (s : State) (id line : Nat) (ws : List CodeWord) :
    (s.gotLine id line ws).config = s.config := by
  simp only [State.gotLine]
  repeat' split
  all_goals simp

@[simp] theorem State.collNext_config (s : State) : s.collNext.config = s.config := by simp [State.collNext]

@[simp] theorem State.collFail_config (s : State) : s.collFail.config = s.config := by simp [State.collFail]

@[simp] theorem State.remoteFailed_config (s : State) (e : Remote) (st : Status) (port : Nat) :
    (s.remoteFailed e st port).config = s.config := by
  unfold State.remoteFailed
  repeat' split
  all_goals simp

/-! ## Links and transit (R262 to R281) -/

@[simp] theorem State.flushPort_config (s : State) (port : Nat) : (s.flushPort port).config = s.config := by simp [State.flushPort]

@[simp] theorem State.injEvent_config (s : State) (port : Nat) : (s.injEvent port).2.config = s.config := by simp [State.injEvent]

@[simp] theorem State.corrupt_config (s : State) (port : Nat) (m : Msg) : (s.corrupt port m).2.config = s.config := by
  unfold State.corrupt; split <;> simp

@[simp] theorem State.pass_config (s : State) (port : Nat) (m : Msg) : (s.pass port m).config = s.config := by simp [State.pass]

@[simp] theorem State.inject_config (s : State) (port : Nat) (m : Msg) : (s.inject port m).config = s.config := by simp [State.inject]

@[simp] theorem State.release_config (s : State) (port : Nat) (ack : BitVec 12) : (s.release port ack).config = s.config := by
  simp [State.release]

@[simp] theorem State.flit_config (s : State) (port : Nat) (f : Flit) : (s.flit port f).config = s.config := by
  simp only [State.flit]
  repeat' split
  all_goals simp

@[simp] theorem State.trained_config (s : State) (port : Nat) (lanes : Byte) (peer : BitVec 16) (peerPort : BitVec 6) :
    (s.trained port lanes peer peerPort).config = s.config := by simp [State.trained]

@[simp] theorem State.forward_config (s : State) (port : Nat) (m : Msg) : (s.forward port m).config = s.config := by
  simp only [State.forward]
  repeat' split
  all_goals simp

/-! ## Queue commands (R313, R335 to R346) -/

@[simp] theorem State.copyEntry_config (s : State) (e : EntryRef) (x : QEntry) : (s.copyEntry e x).config = s.config := by
  simp only [State.copyEntry]; split <;> simp

@[simp] theorem State.codeUnload_config (s : State) (e : EntryRef) (x : QEntry) : (s.codeUnload e x).config = s.config := by
  simp [State.codeUnload]

@[simp] theorem State.handleFault_config (s : State) (e : EntryRef) (x : QEntry) (h : Nat) (st : Status) :
    (s.handleFault e x h st).config = s.config := by simp [State.handleFault]

@[simp] theorem State.putObj_config (s : State) (part gen : Nat) (ps : List (Nat × Nat)) (bs : List (Byte × Bool)) :
    (s.putObj part gen ps bs).config = s.config := by
  induction ps generalizing s bs with
  | nil => rfl
  | cons p ps ih => simp [State.putObj, ih]

@[simp] theorem State.ocopyEnd_config (s : State) (e : EntryRef) (x : QEntry) : (s.ocopyEnd e x).config = s.config := by
  simp only [State.ocopyEnd]; split <;> simp

/-! ## The queue engine (R310 to R318, R451) -/

@[simp] theorem State.writeHqCtl_config (s : State) (fn n : Nat) (v : DWord) : (s.writeHqCtl fn n v).config = s.config := by
  simp [State.writeHqCtl]

@[simp] theorem State.dbSq_config (s : State) (fn n tail : Nat) : (s.dbSq fn n tail).config = s.config := by simp [State.dbSq]

@[simp] theorem State.dbCq_config (s : State) (fn n head : Nat) : (s.dbCq fn n head).config = s.config := by simp [State.dbCq]

@[simp] theorem State.takeJob_config (s : State) (x : QEntry) : (s.takeJob x).config = s.config := by
  unfold State.takeJob; split <;> simp

@[simp] theorem State.entryFetch_config (s : State) (fn n : Nat) : (s.entryFetch fn n).config = s.config := by
  simp only [State.entryFetch]
  repeat' split
  all_goals simp

@[simp] theorem State.entryFinish_config (s : State) (e : EntryRef) : (s.entryFinish e).config = s.config := by
  unfold State.entryFinish
  repeat' split
  all_goals simp

/-! ## Mailbox channels and spar operations of the host (R298 to R302, R319 to R322) -/

@[simp] theorem State.updChan_config (s : State) (fn ch : Nat) (f : Mbx → Mbx) : (s.updChan fn ch f).config = s.config := by
  simp [State.updChan]

@[simp] theorem State.chanSend_config (s : State) (fn ch : Nat) : (s.chanSend fn ch).config = s.config := by simp [State.chanSend]

@[simp] theorem State.chanClear_config (s : State) (fn ch : Nat) : (s.chanClear fn ch).config = s.config := by simp [State.chanClear]

@[simp] theorem State.chanOpen_config (s : State) (fn ch : Nat) (v : Word) : (s.chanOpen fn ch v).config = s.config := by
  simp [State.chanOpen]

@[simp] theorem State.secureDeny_config (s : State) : s.secureDeny.config = s.config := by simp [State.secureDeny]

@[simp] theorem State.claim_config (s : State) (rid : BitVec 16) (ide : Bool) (v : DWord) :
    (s.claim rid ide v).config = s.config := by simp [State.claim]

@[simp] theorem State.sprFields_config (s : State) (fn : Nat) (v : DWord) : (s.sprFields fn v).config = s.config := by
  simp [State.sprFields]

@[simp] theorem State.updSpr_config (s : State) (fn : Nat) (f : SprRegs → SprRegs) : (s.updSpr fn f).config = s.config := by
  simp [State.updSpr]

@[simp] theorem State.sprDone_config (s : State) (fn : Nat) (st : Status) : (s.sprDone fn st).config = s.config := by simp [State.sprDone]

@[simp] theorem State.putMap_config (s : State) (p ctx lid : Nat) (own : Bool) : (s.putMap p ctx lid own).config = s.config := by
  simp [State.putMap]

@[simp] theorem State.sprCreate_config (s : State) (fn : Nat) : (s.sprCreate fn).config = s.config := by
  simp only [State.sprCreate]
  repeat' split
  all_goals simp

@[simp] theorem State.sprMap_config (s : State) (fn : Nat) : (s.sprMap fn).config = s.config := by
  simp only [State.sprMap]
  repeat' split
  all_goals simp

@[simp] theorem State.sprUnmap_config (s : State) (fn : Nat) : (s.sprUnmap fn).config = s.config := by simp [State.sprUnmap]

@[simp] theorem State.sprDestroy_config (s : State) (fn : Nat) : (s.sprDestroy fn).config = s.config := by
  unfold State.sprDestroy; split <;> simp

@[simp] theorem State.sprRead_config (s : State) (fn : Nat) : (s.sprRead fn).config = s.config := by
  unfold State.sprRead; split <;> simp

@[simp] theorem State.sprSet_config (s : State) (fn : Nat) : (s.sprSet fn).config = s.config := by
  simp only [State.sprSet]; split <;> simp

@[simp] theorem State.sprCmd_config (s : State) (fn : Nat) (v : DWord) : (s.sprCmd fn v).config = s.config := by
  unfold State.sprCmd; split <;> simp

/-! ## Job registers (R190 to R248, R385 to R391) -/

@[simp] theorem State.jobLoad_config (s : State) (fn j : Nat) : (s.jobLoad fn j).2.config = s.config := by
  unfold State.jobLoad
  split
  · rfl
  · exact (State.digestRecord_config ..).trans (State.clearPre_config ..)

@[simp] theorem State.finishRows_config (s : State) (fn j : Nat) (b : Job) :
    (s.finishRows fn j b).config = s.config := by
  refine State.config_foldl (fun t q => ?_) _ _
  extract_lets mine copied
  have hcopied : copied.config = t.config := State.config_foldl (fun u r => by split <;> simp) mine t
  simp [hcopied]

@[simp] theorem State.discard_config (s : State) (fn j : Nat) (b : Job) : (s.discard fn j b).config = s.config := by simp [State.discard]

@[simp] theorem State.dropJob_config (s : State) (fn j : Nat) (b : Job) (st : Status) :
    (s.dropJob fn j b st).config = s.config := by simp [State.dropJob]

@[simp] theorem State.jobUnload_config (s : State) (fn j : Nat) : (s.jobUnload fn j).2.config = s.config := by
  unfold State.jobUnload; split <;> simp

@[simp] theorem State.jobForceVoid_config (s : State) (fn j : Nat) : (s.jobForceVoid fn j).2.config = s.config := by
  unfold State.jobForceVoid
  repeat' split
  all_goals simp

theorem State.placeSpares_config {s t : State} {fn j : Nat} {es : List Nat} (h : s.placeSpares fn j es = some t) : t.config = s.config := by
  induction es generalizing s with
  | nil => obtain rfl := Option.some.inj h; rfl
  | cons e es ih =>
    unfold State.placeSpares at h
    split at h
    · cases h
    · split at h
      · cases h
      · rw [ih h]; simp

@[simp] theorem State.jobReload_config (s : State) (fn j : Nat) : (s.jobReload fn j).2.config = s.config := by
  simp only [State.jobReload]
  split
  · rfl
  · split
    · rfl
    · split
      · rfl
      · split
        · rfl
        · next h => exact (State.updJob_config ..).trans ((State.placeSpares_config h).trans (State.updJob_config ..))

@[simp] theorem State.gutJdctl_config (s : State) (fn : Nat) (v : DWord) : (s.gutJdctl fn v).config = s.config := by
  unfold State.gutJdctl; split <;> simp

@[simp] theorem State.releaseHold_config (s : State) (fn j : Nat) (b : Job) (skip : Bool) :
    (s.releaseHold fn j b skip).config = s.config := by simp [State.releaseHold]

@[simp] theorem State.stepCtl_config (s : State) (fn : Nat) (v : DWord) : (s.stepCtl fn v).config = s.config := by
  simp only [State.stepCtl]
  repeat' split
  all_goals simp

@[simp] theorem State.ckRegister_config (s : State) (fn j : Nat) : (s.ckRegister fn j).2.config = s.config := by
  simp only [State.ckRegister]
  repeat' split
  all_goals simp

@[simp] theorem State.ckResume_config (s : State) (fn j : Nat) : (s.ckResume fn j).2.config = s.config := by
  unfold State.ckResume
  repeat' split
  all_goals simp

@[simp] theorem State.restoreFrom_config (s : State) (b : Job) (d : CkDesc) (slot : List (Byte × Bool)) :
    (s.restoreFrom b d slot).2.config = s.config := by
  simp only [State.restoreFrom]
  repeat' split
  all_goals simp

@[simp] theorem State.ckRestore_config (s : State) (fn j : Nat) (slot : Bool) (buddy : Option (List CodeWord)) :
    (s.ckRestore fn j slot buddy).2.config = s.config := by
  unfold State.ckRestore
  repeat' split
  all_goals simp

@[simp] theorem State.ckCtl_config (s : State) (fn : Nat) (v : DWord) (buddy : List CodeWord) :
    (s.ckCtl fn v buddy).config = s.config := by
  unfold State.ckCtl; split <;> simp

@[simp] theorem State.hrdCtl_config (s : State) (fn : Nat) (v : Word) : (s.hrdCtl fn v).config = s.config := by
  simp only [State.hrdCtl, State.config_ite, State.mapWrite_config, State.updHoard_config, ite_self]

@[simp] theorem State.errCtl_config (s : State) (fn : Nat) (v : Word) : (s.errCtl fn v).config = s.config := by simp [State.errCtl]

/-! ## Windows, ports and injection (R252 to R254, R277 to R281) -/

@[simp] theorem State.updWindow_config (s : State) (n : Nat) (f : Window → Window) : (s.updWindow n f).config = s.config := by
  simp [State.updWindow]

@[simp] theorem State.winDone_config (s : State) (fn j n : Nat) : (s.winDone fn j n).config = s.config := by simp [State.winDone]

@[simp] theorem State.winWord0_config (s : State) (fn j : Nat) (v : DWord) : (s.winWord0 fn j v).config = s.config := by
  unfold State.winWord0; split <;> simp

@[simp] theorem State.winWord_config (s : State) (fn j k : Nat) (v : DWord) : (s.winWord fn j k v).config = s.config := by
  unfold State.winWord; split <;> simp

@[simp] theorem State.portCtl_config (s : State) (fn port : Nat) (v : DWord) : (s.portCtl fn port v).config = s.config := by
  simp [State.portCtl]

@[simp] theorem State.injCtl_config (s : State) (fn port : Nat) (v : DWord) : (s.injCtl fn port v).config = s.config := by
  simp [State.injCtl]

@[simp] theorem State.injSeed_config (s : State) (fn port : Nat) (v : DWord) : (s.injSeed fn port v).config = s.config := by
  simp [State.injSeed]

@[simp] theorem State.sigCtl_config (s : State) (fn : Nat) (v : Word) : (s.sigCtl fn v).config = s.config := by simp [State.sigCtl]

@[simp] theorem State.sigBase_config (s : State) (fn : Nat) (v : DWord) : (s.sigBase fn v).config = s.config := by simp [State.sigBase]

@[simp] theorem State.setCap_config (s : State) (cap window : Nat) : (s.setCap cap window).config = s.config := by simp [State.setCap]

@[simp] theorem State.pwrCap_config (s : State) (fn : Nat) (v : DWord) : (s.pwrCap fn v).config = s.config := by simp [State.pwrCap]

@[simp] theorem State.ctxKill_config (s : State) (fn : Nat) (v : DWord) : (s.ctxKill fn v).config = s.config := by
  simp only [State.ctxKill]
  repeat' split
  all_goals simp

/-! ## What an apply clears and sets (R361, R417) -/

@[simp] theorem State.clearUnit_config (s : State) (u : Nat) : (s.clearUnit u).config = s.config := by simp [State.clearUnit]

@[simp] theorem State.clearCourse_config (s : State) (c : Nat) : (s.clearCourse c).config = s.config := by simp [State.clearCourse]

@[simp] theorem State.cutWays_config (s : State) (part : Nat) (old new ls : List Nat) :
    (s.cutWays part old new ls).config = s.config := by
  induction ls generalizing s with
  | nil => rfl
  | cons l ls ih =>
    simp only [State.cutWays]
    split
    · exact ih s
    · split
      · simp [ih]
      · rw [ih]; split <;> simp

@[simp] theorem State.applyWays_config (s : State) (parts : Map Part) : (s.applyWays parts).config = s.config := by simp [State.applyWays]

@[simp] theorem State.applyShares_config (s : State) (parts : Map Part) : (s.applyShares parts).config = s.config := by
  simp [State.applyShares]

@[simp] theorem State.applyOwners_config (s : State) (parts : Map Part) : (s.applyOwners parts).config = s.config := by
  simp [State.applyOwners]

@[simp] theorem State.dropDefault_config (s : State) (n : Nat) : (s.dropDefault n).config = s.config := by simp [State.dropDefault]

@[simp] theorem State.resetSlot_config (s : State) (n : Nat) : (s.resetSlot n).config = s.config := by simp [State.resetSlot]

@[simp] theorem State.applyShapes_config (s : State) (p : Part) : (s.applyShapes p).config = s.config := by simp [State.applyShapes]

@[simp] theorem State.applySpare_config (s : State) (c fence : Nat) (rows : Map Nat) : (s.applySpare c fence rows).config = s.config := by
  simp [State.applySpare]

@[simp] theorem State.applyDevice_config (s : State) (img : TrussImg) : (s.applyDevice img).config = s.config := by
  simp [State.applyDevice]

@[simp] theorem State.journalInject_config (s : State) (img : TrussImg) : (s.journalInject img).config = s.config := by
  simp [State.journalInject]

@[simp] theorem State.becomeReady_config (s : State) (n : Nat) : (s.becomeReady n).config = s.config := by simp [State.becomeReady]

/-! ## Functions (R323 to R326) -/

@[simp] theorem State.shutCtx_config (s : State) (c : Nat) : (s.shutCtx c).config = s.config := by simp [State.shutCtx]

@[simp] theorem State.shutJob_config (s : State) (n j : Nat) : (s.shutJob n j).config = s.config := by
  unfold State.shutJob; split <;> simp

@[simp] theorem State.stopQueues_config (s : State) (n : Nat) : (s.stopQueues n).config = s.config := by simp [State.stopQueues]

@[simp] theorem State.freeSpars_config (s : State) (n : Nat) : (s.freeSpars n).config = s.config := by simp [State.freeSpars]

@[simp] theorem State.releaseAll_config (s : State) (n : Nat) : (s.releaseAll n).config = s.config := by simp [State.releaseAll]

@[simp] theorem State.dropWindows_config (s : State) (n : Nat) : (s.dropWindows n).config = s.config := by
  unfold State.dropWindows; split <;> simp

@[simp] theorem State.shutdownDone_config (s : State) (n us : Nat) : (s.shutdownDone n us).config = s.config := by
  simp [State.shutdownDone]

@[simp] theorem State.wedge_config (s : State) (n us : Nat) : (s.wedge n us).config = s.config := by simp [State.wedge]

@[simp] theorem State.enableFn_config (s : State) (n : Nat) : (s.enableFn n).config = s.config := by simp [State.enableFn]

@[simp] theorem State.beginErase_config (s : State) (fn target : Nat) : (s.beginErase fn target).config = s.config := by
  simp [State.beginErase]

@[simp] theorem State.eraseDone_config (s : State) (n : Nat) : (s.eraseDone n).config = s.config := by
  unfold State.eraseDone
  repeat' split
  all_goals simp

/-! ## Boot (R415 to R425) -/

@[simp] theorem State.toStage_config (s : State) (n : Nat) : (s.toStage n).config = s.config := by simp [State.toStage]

@[simp] theorem State.bootStatus_config (s : State) (st : Status) : (s.bootStatus st).config = s.config := by simp [State.bootStatus]

@[simp] theorem State.delivered_config (s : State) (bs : List Byte) : (s.delivered bs).config = s.config := by simp [State.delivered]

@[simp] theorem State.fwReject_config (s : State) : s.fwReject.config = s.config := by simp [State.fwReject]

@[simp] theorem State.doeReply_config (s : State) (st : Status) : (s.doeReply st).config = s.config := by simp [State.doeReply]

@[simp] theorem State.doeRefuse_config (s : State) (restart : Bool) : (s.doeRefuse restart).config = s.config := by simp [State.doeRefuse]

@[simp] theorem State.doeChunk_config (s : State) (kind : Nat) (last : Bool) (off total : Nat) (data : List Byte) :
    (s.doeChunk kind last off total data).config = s.config := by simp [State.doeChunk]

/-! ## Power, clocks and heat (R397 to R413) -/

@[simp] theorem State.blankCourse_config (s : State) (c : Nat) : (s.blankCourse c).config = s.config := by simp [State.blankCourse]

@[simp] theorem State.startGang_config (s : State) (x : Start) : (s.startGang x).config = s.config := by
  simp only [State.startGang]
  repeat' split
  all_goals simp

@[simp] theorem State.setSteps_config (s : State) : s.setSteps.config = s.config := by simp [State.setSteps]

@[simp] theorem State.applyGrant_config (s : State) (g : Grant) (low : Bool) : (s.applyGrant g low).config = s.config := by
  unfold State.applyGrant; split <;> simp

@[simp] theorem State.countRes_config (s : State) : s.countRes.config = s.config := by simp [State.countRes]

@[simp] theorem State.countParts_config (s : State) : s.countParts.config = s.config := by simp [State.countParts]

@[simp] theorem State.budgetTick_config (s : State) (energy : Nat) (demand : List (Nat × Nat × Nat)) (island : Int × Nat) :
    (s.budgetTick energy demand island).config = s.config := by simp [State.budgetTick]

@[simp] theorem State.abortCourse_config (s : State) (c : Nat) (st : Status) : (s.abortCourse c st).config = s.config := by
  simp [State.abortCourse]

@[simp] theorem State.thermtrip_config (s : State) : s.thermtrip.config = s.config := by simp [State.thermtrip]

@[simp] theorem State.powerRecord_config (s : State) (st : Status) (course : Option Nat) :
    (s.powerRecord st course).config = s.config := by simp [State.powerRecord]

@[simp] theorem State.tempSample_config (s : State) (c : Nat) (temp : Int) (mv : Nat) :
    (s.tempSample c temp mv).config = s.config := by simp [State.tempSample]

@[simp] theorem State.supplyFault_config (s : State) (c : Nat) : (s.supplyFault c).config = s.config := by simp [State.supplyFault]

@[simp] theorem State.pmbusPoll_config (s : State) (answers : Bool) (vin iin : Nat) (status : BitVec 16) :
    (s.pmbusPoll answers vin iin status).config = s.config := by simp [State.pmbusPoll]

@[simp] theorem State.chargePart_config (s : State) (fn e : Nat) : (s.chargePart fn e).config = s.config := by simp [State.chargePart]

@[simp] theorem State.chargeBase_config (s : State) (e : Nat) : (s.chargeBase e).config = s.config := by simp [State.chargeBase]

@[simp] theorem State.chargeCtx_config (s : State) (ctx e : Nat) : (s.chargeCtx ctx e).config = s.config := by
  simp only [State.chargeCtx]
  repeat' split
  all_goals simp

@[simp] theorem State.chargeJob_config (s : State) (fn j e : Nat) : (s.chargeJob fn j e).config = s.config := by simp [State.chargeJob]

/-! ## Registers (R5 to R7, R307) -/

@[simp] theorem State.writeChan_config (s : State) (fn ch o : Nat) (v : Word) : (s.writeChan fn ch o v).config = s.config := by
  unfold State.writeChan; split <;> simp

@[simp] theorem State.writeMbx_config (s : State) (fn off : Nat) (v : Word) : (s.writeMbx fn off v).config = s.config := by
  simp [State.writeMbx]

@[simp] theorem State.clearFlags_config (s : State) (fn : Nat) (v : Word) : (s.clearFlags fn v).config = s.config := by
  simp [State.clearFlags]

@[simp] theorem State.setTherm_config (s : State) (v : Word) : (s.setTherm v).config = s.config := by simp [State.setTherm]

@[simp] theorem State.write32_config (s : State) (fn off : Nat) (v : Word) : (s.write32 fn off v).config = s.config := by
  unfold State.write32
  repeat' split
  all_goals simp

@[simp] theorem State.writeQueue_config (s : State) (fn off : Nat) (v : DWord) : (s.writeQueue fn off v).config = s.config := by
  unfold State.writeQueue; split <;> simp

@[simp] theorem State.writeCtx_config (s : State) (fn off : Nat) (v : DWord) : (s.writeCtx fn off v).config = s.config := by
  unfold State.writeCtx; split <;> simp

@[simp] theorem State.writeSpr_config (s : State) (fn off : Nat) (v : DWord) : (s.writeSpr fn off v).config = s.config := by
  unfold State.writeSpr; split <;> simp

@[simp] theorem State.writeGut_config (s : State) (fn off : Nat) (v : DWord) : (s.writeGut fn off v).config = s.config := by
  unfold State.writeGut; split <;> simp

@[simp] theorem State.setRoute_config (s : State) (fn id : Nat) (hi : Bool) (v : DWord) :
    (s.setRoute fn id hi v).config = s.config := by simp [State.setRoute]

@[simp] theorem State.fabCfg_config (s : State) (fn : Nat) (v : DWord) : (s.fabCfg fn v).config = s.config := by simp [State.fabCfg]

@[simp] theorem State.writeFab_config (s : State) (fn off : Nat) (v : DWord) : (s.writeFab fn off v).config = s.config := by
  unfold State.writeFab
  repeat' split
  all_goals simp

@[simp] theorem State.writePwr_config (s : State) (fn off : Nat) (v : DWord) : (s.writePwr fn off v).config = s.config := by
  unfold State.writePwr; split <;> simp

@[simp] theorem State.writeExport_config (s : State) (fn off : Nat) (v : DWord) : (s.writeExport fn off v).config = s.config := by
  unfold State.writeExport
  repeat' split
  all_goals simp

@[simp] theorem State.writeErr_config (s : State) (fn off : Nat) (v : DWord) : (s.writeErr fn off v).config = s.config := by
  unfold State.writeErr; split <;> simp

@[simp] theorem State.writeInj_config (s : State) (fn off : Nat) (v : DWord) : (s.writeInj fn off v).config = s.config := by
  unfold State.writeInj; split <;> simp

@[simp] theorem State.writeUpd_config (s : State) (fn off : Nat) (v : DWord) : (s.writeUpd fn off v).config = s.config := by
  unfold State.writeUpd; split <;> simp

@[simp] theorem State.readLow_config (s : State) (rid : BitVec 16) (ide : Bool) (fn off : Nat) :
    (s.readLow rid ide fn off).config = s.config := by simp [State.readLow]

@[simp] theorem State.writeBar2_config (s : State) (fn o : Nat) (v : Word) : (s.writeBar2 fn o v).config = s.config := by
  simp [State.writeBar2]

@[simp] theorem State.lateInj_config (s : State) (fn off : Nat) (v : DWord) : (s.lateInj fn off v).config = s.config := by
  simp [State.lateInj]

/-! ## CXL.mem (R304, R305) -/

@[simp] theorem State.trackLine_config (s : State) (n : Nat) : (s.trackLine n).config = s.config := by simp [State.trackLine]

@[simp] theorem State.cxlRead_config (s : State) (n : Nat) : (s.cxlRead n).config = s.config := by
  simp only [State.cxlRead]
  repeat' split
  all_goals simp

@[simp] theorem State.cxlWrite_config (s : State) (a : Nat) (bs : List Byte) (poison : Bool) :
    (s.cxlWrite a bs poison).config = s.config := by simp [State.cxlWrite]

@[simp] theorem State.cxlStore_config (s : State) (poison : Bool) (fuel a : Nat) (bs : List Byte) :
    (s.cxlStore poison fuel a bs).config = s.config := by
  induction fuel generalizing s a bs with
  | zero => rfl
  | succ fuel ih => cases bs <;> simp [State.cxlStore, ih]

/-! ## Lanes (R114, R116) -/

@[simp] theorem t1_config (xu : Bool) (opc : Nat) (i : Issue) (f : FormT) (legal : Bool) (g : Word → Word) (s : State) :
    (t1 xu opc i f legal g s).config = s.config := by simp [t1]

@[simp] theorem t2_config (xu : Bool) (opc : Nat) (i : Issue) (f : FormT) (legal : Bool) (g : Word → Word → Word) (s : State) :
    (t2 xu opc i f legal g s).config = s.config := by simp [t2]

@[simp] theorem t3_config (opc : Nat) (i : Issue) (f : FormT) (legal : Bool) (g : Word → Word → Word → Word) (s : State) :
    (t3 opc i f legal g s).config = s.config := by simp [t3]

@[simp] theorem i1_config (opc : Nat) (i : Issue) (f : FormI) (g : Word → Word → Word) (s : State) :
    (i1 opc i f g s).config = s.config := by simp [i1]

/-! ## SPDM (R427 to R429) -/

@[simp] theorem State.spdmSend_config (s : State) (code : Nat) (p1 p2 : Byte) (body : List Byte) :
    (s.spdmSend code p1 p2 body).config = s.config := by simp [State.spdmSend]

@[simp] theorem State.spdmError_config (s : State) (code : Byte) : (s.spdmError code).config = s.config := by simp [State.spdmError]

@[simp] theorem State.spdmSay_config (s : State) (req : Nat) (r : SpdmReq) (p1 p2 : Byte) (body : List Byte) :
    (s.spdmSay req r p1 p2 body).config = s.config := by simp [State.spdmSay]

@[simp] theorem State.spdmSigned_config (s : State) (req : Nat) (r : SpdmReq) (p1 p2 : Byte) (body : List Byte) :
    (s.spdmSigned req r p1 p2 body).config = s.config := by simp [State.spdmSigned]

@[simp] theorem State.spdmServe_config {s : State} {first : Bool} {phase : Nat} {act : State → State} (hact : ∀ t, (act t).config = t.config) :
    (s.spdmServe first phase act).config = s.config := by
  simp [State.spdmServe, hact]

@[simp] theorem State.inSession_config {s : State} {act : State → State} (hact : ∀ t, (act t).config = t.config) :
    (s.inSession act).config = s.config := by
  simp [State.inSession, hact]

/-! ## PLDM (R374, R376) -/

@[simp] theorem State.bmc_config {s : State} {act : State → State} (hact : ∀ t, (act t).config = t.config) :
    (s.bmc act).config = s.config := by
  simp [State.bmc, hact]

@[simp] theorem State.bmcPoll_config (s : State) (ack : Nat) : (s.bmcPoll ack).config = s.config := by
  simp only [State.bmcPoll]; split <;> simp

@[simp] theorem State.setEffecter_config (s : State) (id value : Nat) : (s.setEffecter id value).config = s.config := by
  simp [State.setEffecter]

/-! ## The test port (R443, R444) -/

@[simp] theorem State.setTap_config (s : State) (code : Nat) : (s.setTap code).config = s.config := by simp [State.setTap]

/-! ## An idle step (R395) -/

@[simp] theorem idle_config (s : State) : (idle s).config = s.config := by simp [idle]

end Sys2Proof.Machine

/-! SUPPORT. The partitions that an image sets (R357, R358), and the operations that change the configuration in force or the image that
waits: the loader, boot, shut-downs, resets, and the register writes that reach them. -/

namespace Sys2Proof

/-! ## Writing a list of entries into a map -/

section
variable {α β : Type} {key : β → Nat} {val : β → α}

theorem Map.foldl_put_rising {m : Map α} (h : m.rising = true) (l : List β) :
    (l.foldl (fun m x => Map.put m (key x) (val x)) m).rising = true := by
  induction l generalizing m with
  | nil => exact h
  | cons x l ih => exact ih (Map.put_rising h ..)

/-- A key that no entry of the list has keeps its value. -/
theorem Map.get?_foldl_put (m : Map α) (l : List β) (n : Nat) :
    (∃ x ∈ l, key x = n) ∨ (l.foldl (fun m x => Map.put m (key x) (val x)) m).get? n = m.get? n := by
  induction l generalizing m with
  | nil => exact .inr rfl
  | cons x l ih =>
    rcases ih (Map.put m (key x) (val x)) with ⟨y, hy, hn⟩ | hl
    · exact .inl ⟨y, List.mem_cons_of_mem _ hy, hn⟩
    · by_cases hx : n = key x
      · exact .inl ⟨x, List.mem_cons_self .., hx.symm⟩
      · exact .inr (hl.trans (Map.get?_put_of_ne _ _ hx))

end

/-- Writing all entries of a rising map into another leaves alone the keys that it does not have. -/
theorem Map.get?_foldl_put_of_none {α : Type} {fresh m : Map α} (h : fresh.rising = true) {n : Nat} (hn : fresh.get? n = none) :
    (fresh.foldl (fun m x => Map.put m x.1 x.2) m).get? n = m.get? n := by
  refine (Map.get?_foldl_put (key := Prod.fst) (val := Prod.snd) m fresh n).resolve_left ?_
  rintro ⟨x, hx, rfl⟩
  rw [Map.get?_of_mem h hx] at hn
  cases hn

end Sys2Proof

namespace Sys2Proof.Machine

/-! ## The resources that two partitions share (R357) -/

theorem firstItem_eq_none {l : List (Bool × Nat)} (h : firstItem l = none) {x : Bool × Nat} (hx : x ∈ l) : x.1 = true := by
  have hfind := List.find?_eq_none.1 (Option.map_eq_none_iff.1 h) x hx
  simpa using hfind

theorem sectsBad_eq_none {f : DirE → Option Nat} {es : List DirE} (h : sectsBad f es = none) {e : DirE} (he : e ∈ es) : f e = none := by
  induction es with
  | nil => cases he
  | cons d es ih =>
    unfold sectsBad at h
    split at h
    · cases h
    · next hd =>
      rcases List.mem_cons.1 he with rfl | he
      · exact hd
      · exact ih h he

theorem meets_comm (a b : Nat × Nat) : meets a b = meets b a := by
  simp only [meets, Bool.and_assoc, Bool.and_comm (a.2 != 0), And.comm (a := a.1 < b.1 + b.2)]

theorem Part.Apart.symm {p q : Part} (h : p.Apart q) : q.Apart p := by
  obtain ⟨hcourses, hunits, hports, hddr, hways, hctx, hwin, hslot⟩ := h
  refine ⟨fun x hq hp => hcourses x hp hq, fun x hq hp => hunits x hp hq, ?_, ?_, fun d hd => ?_, ?_, ?_, ?_⟩
  · rwa [BitVec.and_comm]
  · rintro ⟨c, hq, hp⟩
    rw [meets_comm]
    exact hddr ⟨c, hp, hq⟩
  · rw [Nat.and_comm]; exact hways d hd
  all_goals rwa [meets_comm]

/-- A partition that breaks no rule against the others is apart from each of them, and fits its tables. -/
theorem partConflict_eq_none {p : Part} {others : List Part} (h : partConflict p others = none) :
    (∀ q ∈ others, p.Apart q) ∧ p.Fits := by
  have hitem := fun x hx => firstItem_eq_none h (x := x) hx
  simp only [List.forall_mem_cons, List.not_mem_nil, false_implies, implies_true, and_true, Bool.and_eq_true, decide_eq_true_eq,
    List.all_eq_true, Bool.not_eq_true', Bool.or_eq_true, beq_iff_eq, List.contains_eq_mem, decide_eq_false_iff_not] at hitem
  obtain ⟨⟨hctxIn, hctx⟩, ⟨hwinIn, hwin⟩, ⟨hslotIn, hslot⟩, hddr, hports, ⟨hways, hdies⟩, hcourses, hunits⟩ := hitem
  refine ⟨fun q hq => ⟨hcourses q hq, hunits q hq, hports q hq, ?_, fun d hd => ?_, hctx q hq, hwin q hq, hslot q hq⟩,
    hctxIn, hwinIn, hslotIn, hdies⟩
  · rintro ⟨c, hp, hq'⟩
    rcases hddr q hq with hnone | hmeets
    · exact absurd (List.any_eq_false.1 hnone c hp) (by simpa using hq')
    · exact hmeets
  · exact hways q hq d (List.mem_range.2 hd)

theorem sumOver_eq_sum (l : List Part) (f : Part → Nat) : sumOver l f = (l.map f).sum := by
  rw [sumOver, List.sum_eq_foldl]

theorem sumBad_eq_none {l : List Part} (h : sumBad l = none) :
    (l.map Part.rshare).sum ≤ 3072 ∧ (l.map Part.qcount).sum ≤ 65536 ∧ (l.map Part.sparq).sum ≤ 65536 := by
  have hitem := fun x hx => firstItem_eq_none h (x := x) hx
  simp only [List.forall_mem_cons, List.not_mem_nil, false_implies, implies_true, and_true, decide_eq_true_eq, sumOver_eq_sum] at hitem
  obtain ⟨hqueues, hshares, hspars⟩ := hitem
  exact ⟨hshares, hqueues, hspars⟩

theorem partsApart_nil : partsApart [] := by
  refine ⟨rfl, ?_, ?_, ?_⟩ <;> simp

/-! ## The resulting configuration of an image -/

/-- The image has a PARTITION section for a slot. -/
def HasPartitionSection (es : List DirE) (n : Nat) : Prop := ∃ e ∈ es, e.typ = 4 ∧ e.inst = n

section
variable (s : State) (bs : List Byte) (es : List DirE) (slot : Option Nat)

/-- The configuration that the sections are laid over: an empty one for a full image, and the one in force for a partition image. -/
def State.baseOf : Map Part := if slot.isSome then s.truss.parts else []

theorem State.imageOf_full : (s.imageOf bs es slot).full = slot.isNone := rfl

theorem State.imageOf_slot : (s.imageOf bs es slot).slot = slot.getD 0 := rfl

theorem State.imageOf_parts_rising (h : s.truss.parts.rising = true) : (s.imageOf bs es slot).parts.rising = true := by
  unfold State.imageOf
  dsimp only
  split
  · exact Map.foldl_put_rising h _
  · exact Map.foldl_put_rising rfl _

/-- A slot without a PARTITION section stays as it was. -/
theorem State.imageOf_parts_get? (n : Nat) :
    HasPartitionSection es n ∨ (s.imageOf bs es slot).parts.get? n = (s.baseOf slot).get? n := by
  have hfresh : ∀ val : DirE → Part, HasPartitionSection es n ∨
      ((es.filter (fun e => e.typ == 4)).foldl (fun m e => Map.put m e.inst (val e)) []).get? n = none := fun val => by
    rcases Map.get?_foldl_put (key := DirE.inst) (val := val) [] (es.filter (fun e => e.typ == 4)) n with ⟨e, he, hn⟩ | hnone
    · obtain ⟨hmem, htyp⟩ := List.mem_filter.1 he
      exact .inl ⟨e, hmem, by simpa using htyp, hn⟩
    · exact .inr hnone
  unfold State.imageOf State.baseOf
  dsimp only
  split
  · exact (hfresh _).imp_right (Map.get?_foldl_put_of_none (Map.foldl_put_rising (m := []) rfl _))
  · exact hfresh _

theorem State.imageOf_parts_of_no_section (h : ∀ n, ¬ HasPartitionSection es n) : (s.imageOf bs es slot).parts = s.baseOf slot := by
  have hnone : es.filter (fun e => e.typ == 4) = [] :=
    List.filter_eq_nil_iff.2 fun e he htyp => h e.inst ⟨e, he, by simpa using htyp, rfl⟩
  simp [State.imageOf, State.baseOf, hnone]

end

/-! ## The checks (R358) -/

/-- An image that passes checks 1 to 6 stands for its sections; no partition that it sets breaks a rule of R357. -/
theorem State.imgCheck_ok {s : State} {bs : List Byte} {slot : Option Nat} {es : List DirE} {img : TrussImg}
    (h : s.imgCheck bs slot = .ok (es, img)) :
    img = s.imageOf bs es slot ∧ dirBad bs es slot = none ∧
      ∀ n, HasPartitionSection es n → sumBad (img.parts.map (·.2)) = none ∧
        ∀ p, img.parts.get? n = some p → partConflict p ((img.parts.filter (fun q => q.1 != n)).map (·.2)) = none := by
  unfold State.imgCheck at h
  split at h
  · cases h
  · extract_lets n es' img' others clash sums at h
    split at h
    · cases h
    · split at h
      · cases h
      · next hdir =>
        split at h
        · cases h
        · split at h
          · cases h
          · split at h
            · cases h
            · next hclash =>
              split at h
              · cases h
              · next hsums =>
                obtain ⟨rfl, rfl⟩ := Prod.mk.inj (Except.ok.inj h)
                refine ⟨rfl, hdir, ?_⟩
                rintro n ⟨e, he, htyp, rfl⟩
                refine ⟨?_, fun p hp => ?_⟩
                · simpa [sums, htyp] using sectsBad_eq_none hsums he
                · simpa [clash, htyp, hp] using sectsBad_eq_none hclash he

/-- A partition image sets the partition of its own slot only. -/
theorem HasPartitionSection.eq_slot {bs : List Byte} {es : List DirE} {slot n : Nat} (h : dirBad bs es (some slot) = none)
    (hn : HasPartitionSection es n) : n = slot := by
  obtain ⟨e, he, htyp, rfl⟩ := hn
  unfold dirBad at h
  extract_lets known instOk one has at h
  split at h
  · cases h
  · next hfind =>
    have hone := List.find?_eq_none.1 hfind e he
    simp only [one, instOk, htyp, Bool.not_eq_true', Bool.not_eq_false, Bool.and_eq_true] at hone
    simp_all

/-- R357 holds of the configuration that an accepted image gives, where it holds of the one in force: of two partitions of which the
image sets one, its check has compared the two, and two that it does not set were apart before. -/
theorem State.imgCheck_partsApart {s : State} {bs : List Byte} {slot : Option Nat} {es : List DirE} {img : TrussImg}
    (h : s.imgCheck bs slot = .ok (es, img)) (hs : partsApart s.truss.parts) : partsApart img.parts := by
  obtain ⟨rfl, -, hchecked⟩ := State.imgCheck_ok h
  have hbase : partsApart (s.baseOf slot) := by
    unfold State.baseOf
    split
    · exact hs
    · exact partsApart_nil
  by_cases hsome : ∃ n, HasPartitionSection es n
  case neg => rwa [s.imageOf_parts_of_no_section bs es slot fun n hn => hsome ⟨n, hn⟩]
  obtain ⟨n₀, hn₀⟩ := hsome
  generalize hm : (s.imageOf bs es slot).parts = m at hchecked ⊢
  have hrising : m.rising = true := hm ▸ s.imageOf_parts_rising bs es slot hs.1
  have hget : ∀ n, HasPartitionSection es n ∨ m.get? n = (s.baseOf slot).get? n := hm ▸ s.imageOf_parts_get? bs es slot
  have hset : ∀ n p, HasPartitionSection es n → m.get? n = some p →
      (∀ k q, m.get? k = some q → n ≠ k → p.Apart q) ∧ p.Fits := fun n p hn hp => by
    obtain ⟨hapart, hfits⟩ := partConflict_eq_none ((hchecked n hn).2 p hp)
    refine ⟨fun k q hq hnk => hapart q (List.mem_map.2 ⟨(k, q), List.mem_filter.2 ⟨Map.mem_of_get? hq, ?_⟩, rfl⟩), hfits⟩
    simpa using hnk.symm
  obtain ⟨hshares, hqueues, hspars⟩ := sumBad_eq_none (hchecked n₀ hn₀).1
  obtain ⟨-, hbaseApart, hbaseFits, -⟩ := hbase
  simp only [List.map_map] at hshares hqueues hspars
  refine ⟨hrising, fun n k p q hp hq hnk => ?_, fun n p hp => ?_, hshares, hqueues, hspars⟩
  · rcases hget n with hn | hn
    · exact (hset n p hn hp).1 k q hq hnk
    · rcases hget k with hk | hk
      · exact ((hset k q hk hq).1 n p hp hnk.symm).symm
      · exact hbaseApart n k p q (hn ▸ hp) (hk ▸ hq) hnk
  · rcases hget n with hn | hn
    · exact (hset n p hn hp).2
    · exact hbaseFits n p (hn ▸ hp)

/-! ## An accepted image waits, or is given up (R359, R365) -/

theorem State.Partitioned.of_config {s t : State} (h : s.Partitioned) (ht : t.config = s.config) : t.Partitioned := by
  obtain ⟨hparts, hpending⟩ := Prod.mk.inj ht
  unfold State.Partitioned
  rwa [hparts, hpending]

theorem State.Partitioned.of_none {s : State} (h : partsApart s.truss.parts) (hnone : s.truss.pending = none) : s.Partitioned :=
  ⟨h, fun img himg => by rw [hnone] at himg; cases himg⟩

theorem State.Partitioned.loadRefused {s : State} (h : s.Partitioned) (r : Refused) (digest : BitVec 128) :
    (s.loadRefused r digest).Partitioned := .of_none h.1 rfl

/-- The configuration that a checked image gives, from the one in force, as the invariant asks. -/
theorem State.Partitioned.accepted {s t : State} (h : s.Partitioned) {bs : List Byte} {slot : Option Nat} {es : List DirE} {img : TrussImg}
    (himg : s.imgCheck bs slot = .ok (es, img)) (ht : t.config = (s.truss.parts, some img)) : t.Partitioned := by
  obtain ⟨hparts, hpending⟩ := Prod.mk.inj ht
  obtain ⟨hof, hdir, -⟩ := State.imgCheck_ok himg
  unfold State.Partitioned
  rw [hparts, hpending]
  refine ⟨h.1, ?_⟩
  rintro _ ⟨⟩
  refine ⟨State.imgCheck_partsApart himg h.1, ?_⟩
  subst hof
  rw [State.imageOf_full, State.imageOf_slot]
  cases slot with
  | none => exact fun hpart => nomatch hpart
  | some slot =>
    intro _ n hn
    exact (s.imageOf_parts_get? bs es (some slot) n).resolve_left fun hsec => hn (HasPartitionSection.eq_slot hdir hsec)

theorem State.Partitioned.load {s : State} (h : s.Partitioned) (slot : Option Nat) : (s.load slot).Partitioned := by
  unfold State.load
  extract_lets a bs
  split
  · exact h.loadRefused ..
  · split
    · exact h.loadRefused ..
    · next himg =>
      split
      · exact h.loadRefused ..
      · exact h.loadRefused ..
      · exact h.loadRefused ..
      · exact h.accepted himg rfl

theorem State.Partitioned.trsCtl {s : State} (h : s.Partitioned) (fn : Nat) (v : DWord) : (s.trsCtl fn v).Partitioned := by
  unfold State.trsCtl
  extract_lets slot _ t
  have ht : t.Partitioned := h.of_config rfl
  split
  · exact h
  · split
    · exact ht.load none
    · exact ht.load _
    · exact ht

/-! ## The apply (R361, R417) -/

@[simp] theorem State.applyImage_config (s : State) (img : TrussImg) : (s.applyImage img).config = (img.parts, s.truss.pending) := by
  unfold State.applyImage
  extract_lets slots owned reset _ set shaped spared device seq journaled injected
  have hreset : reset.config = s.config := by simp [reset, owned]
  have hpending : reset.truss.pending = s.truss.pending := congrArg Prod.snd hreset
  have hset : set.config = (img.parts, s.truss.pending) := congrArg (Prod.mk img.parts) hpending
  have hshaped : shaped.config = set.config := State.config_foldl (fun t n => by split <;> simp) _ _
  simp [injected, journaled, device, spared, hshaped, hset]

theorem State.applyImage_parts (s : State) (img : TrussImg) : (s.applyImage img).truss.parts = img.parts :=
  congrArg Prod.fst (s.applyImage_config img)

@[simp] theorem State.endApply_config (s : State) (img : TrussImg) : (s.endApply img).config = (img.parts, none) := by
  simp [State.endApply, State.applyImage_parts]

theorem State.Partitioned.beginApply {s : State} (h : s.Partitioned) (img : TrussImg) : (s.beginApply img).Partitioned := by
  unfold State.beginApply
  extract_lets slot _ begun
  split
  · exact h.loadRefused ..
  · exact h.loadRefused ..
  · exact h.of_config (State.config_foldl (s := begun) (fun t n => State.updFn_config ..) _)

/-- The apply puts the waiting configuration in force, which obeys R357 as long as it waits. -/
theorem State.Partitioned.endApply {s : State} (h : s.Partitioned) {img : TrussImg} (himg : s.truss.pending = some img) :
    (s.endApply img).Partitioned := by
  obtain ⟨hparts, hnone⟩ := Prod.mk.inj (s.endApply_config img)
  exact .of_none (hparts ▸ (h.2 img himg).1) hnone

theorem State.Partitioned.foldl {α : Type} {f : State → α → State} (hf : ∀ (t : State) x, t.Partitioned → (f t x).Partitioned) (l : List α)
    {s : State} (h : s.Partitioned) : (l.foldl f s).Partitioned := by
  induction l generalizing s with
  | nil => exact h
  | cons x l ih => exact ih (hf s x h)

theorem State.Partitioned.ite {c : Prop} [Decidable c] {s t : State} (hs : s.Partitioned) (ht : t.Partitioned) :
    (if c then s else t).Partitioned := by
  split <;> assumption

/-! ## Shut-downs (R323) and resets (R326, R439) -/

theorem State.Partitioned.abandonLoad {s : State} (h : s.Partitioned) : s.abandonLoad.Partitioned := by
  unfold State.abandonLoad
  split
  · exact h.loadRefused ..
  · exact h

theorem State.Partitioned.beginShutdown {s : State} (h : s.Partitioned) (n : Nat) : (s.beginShutdown n).Partitioned := by
  unfold State.beginShutdown
  extract_lets torn stopped aborted left
  have hleft : left.Partitioned := h.of_config (by simp [left, aborted, stopped, torn])
  split
  · exact h
  · split
    · exact hleft.abandonLoad
    · exact hleft

theorem State.Partitioned.fnShutdown {s : State} (h : s.Partitioned) (fn target : Nat) : (s.fnShutdown fn target).Partitioned := by
  unfold State.fnShutdown
  split
  · exact h.beginShutdown target
  · exact h

theorem State.Partitioned.clearVfs {s : State} (h : s.Partitioned) : s.clearVfs.Partitioned := by
  unfold State.clearVfs
  split
  · exact h
  · exact .foldl (fun t k ht => (ht.of_config (State.updFn_config ..)).beginShutdown (k + 1)) _ (h.of_config rfl)

theorem State.Partitioned.flr {s : State} (h : s.Partitioned) (n : Nat) : (s.flr n).Partitioned := by
  unfold State.flr
  split
  · exact h.clearVfs.beginShutdown 0
  · split
    · exact h.beginShutdown n
    · exact h

/-- A full reset leaves no configuration and no image. -/
theorem State.fullReset_config (s : State) (cause : Nat) : (s.fullReset cause).config = ([], none) := rfl

theorem State.Partitioned.of_reset {s : State} (h : s.config = ([], none)) : s.Partitioned := by
  obtain ⟨hparts, hnone⟩ := Prod.mk.inj h
  exact .of_none (hparts ▸ partsApart_nil) hnone

/-- The invariant holds at reset, where no image has been loaded. -/
theorem State.partitioned_reset : State.reset.Partitioned := .of_reset rfl

theorem State.partitioned_fullReset (s : State) (cause : Nat) : (s.fullReset cause).Partitioned := .of_reset (s.fullReset_config cause)

theorem State.partitioned_mainLoss (s : State) : s.mainLoss.Partitioned := .of_reset rfl

theorem State.Partitioned.aonApply {s : State} (h : s.Partitioned) (testmode sris : Bool) : (s.aonApply testmode sris).Partitioned := by
  unfold State.aonApply
  split
  · exact h
  · exact .of_reset rfl

theorem State.Partitioned.devCtl {s : State} (h : s.Partitioned) (fn : Nat) (v : DWord) : (s.devCtl fn v).Partitioned := by
  unfold State.devCtl
  split
  · exact s.partitioned_fullReset 3
  · exact h

/-! ## Boot (R415 to R421) -/

theorem State.Partitioned.bootRefused {s : State} (h : s.Partitioned) (r : Refused) (digest : BitVec 128) :
    (s.bootRefused r digest).Partitioned := .of_none h.1 rfl

theorem State.Partitioned.bootServe {s : State} (h : s.Partitioned) : s.bootServe.Partitioned := by
  unfold State.bootServe
  extract_lets kind a len chan _ served
  have hserved : served.Partitioned := h.of_config rfl
  split
  · exact h
  · split
    · exact hserved.of_config rfl
    · split
      · split
        · exact hserved.of_config (State.fwReject_config _)
        · exact hserved.bootRefused ..
      · exact hserved.of_config (State.delivered_config ..)

theorem State.Partitioned.bootCtl {s : State} (h : s.Partitioned) (v : Word) : (s.bootCtl v).Partitioned := by
  unfold State.bootCtl
  split
  · exact State.Partitioned.bootServe (h.of_config rfl)
  · exact h

theorem State.Partitioned.writeCfg {s : State} (h : s.Partitioned) (fn o : Nat) (v : Word) : (s.writeCfg fn o v).Partitioned := by
  unfold State.writeCfg
  split
  · exact h
  · split
    · exact State.Partitioned.bootServe (h.of_config rfl)
    · split
      · exact h.bootCtl v
      · split
        · exact h.of_config rfl
        · exact h

/-! ## Register writes (R7, R307) -/

theorem State.Partitioned.writeId {s : State} (h : s.Partitioned) (fn off : Nat) (v : DWord) : (s.writeId fn off v).Partitioned := by
  unfold State.writeId
  split
  · next n _ =>
    have hshut : (if v.getLsbD 6 then s.fnShutdown fn n else s).Partitioned := by
      split
      · exact h.fnShutdown fn n
      · exact h
    exact hshut.of_config (by simp)
  · split
    · exact h.devCtl fn v
    · exact h

theorem State.Partitioned.writeTrs {s : State} (h : s.Partitioned) (fn off : Nat) (v : DWord) : (s.writeTrs fn off v).Partitioned := by
  unfold State.writeTrs
  split
  · exact h
  · split
    · exact h.of_config (by simp)
    · exact h.of_config (by simp)
    · exact h.trsCtl fn v
    · exact h

theorem State.Partitioned.write64 {s : State} (h : s.Partitioned) (fn off : Nat) (v : DWord) : (s.write64 fn off v).Partitioned := by
  unfold State.write64
  refine .ite (h.writeId fn off v) (.ite (h.of_config (by simp)) (.ite (h.of_config (by simp)) (.ite (h.of_config (by simp))
    (.ite (h.of_config (by simp)) (.ite (h.of_config (by simp)) (.ite (h.of_config (by simp)) (.ite (h.of_config (by simp))
    (.ite (h.of_config (by simp)) (.ite (h.writeTrs fn off v) (h.of_config (by simp)))))))))))

theorem State.Partitioned.access {s : State} (h : s.Partitioned) (fn : Nat) : (s.access fn).Partitioned := by
  unfold State.access
  extract_lets t
  have ht : t.Partitioned := h.of_config (State.updFn_config ..)
  split
  · exact ht
  · exact ht.write64 ..

theorem State.Partitioned.onReg {s : State} (h : s.Partitioned) {act : State → State}
    (hact : ∀ t : State, t.Partitioned → (act t).Partitioned) (fn : Nat) : (s.onReg fn act).Partitioned :=
  .ite (hact _ (h.access fn)) h

theorem State.Partitioned.onRow {s : State} (h : s.Partitioned) {act : State → State}
    (hact : ∀ t : State, t.Partitioned → (act t).Partitioned) (fn : Nat) (ok : Bool) : (s.onRow fn ok act).Partitioned :=
  .ite (h.onReg hact fn) h

theorem State.Partitioned.writeBar0 {s : State} (h : s.Partitioned) (rid : BitVec 16) (ide : Bool) (fn off : Nat) (wide : Bool) (v : DWord) :
    (s.writeBar0 rid ide fn off wide v).Partitioned := by
  have hacc := h.access fn
  unfold State.writeBar0
  extract_lets lo base
  split
  · exact hacc.of_config (State.secureDeny_config _)
  · split
    · exact hacc.of_config (by simp)
    · split
      · exact hacc.write64 ..
      · split
        · exact hacc.of_config (State.updFn_config ..)
        · split
          · exact .ite (State.Partitioned.write64 (h.of_config (State.updFn_config ..)) ..) (hacc.write64 ..)
          · exact hacc.write64 ..

theorem State.Partitioned.writeReg {s : State} (h : s.Partitioned) (rid : BitVec 16) (ide : Bool) (fn off : Nat) (wide : Bool) (v : DWord) :
    (s.writeReg rid ide fn off wide v).Partitioned := by
  unfold State.writeReg
  extract_lets lo hi o one
  have hone : ∀ {t : State} (o : Nat) (w : Word), t.Partitioned → (one t o w).Partitioned := fun o w ht =>
    .ite (.ite (ht.of_config (State.writeBar2_config ..)) ht) (ht.writeCfg ..)
  refine .ite (.ite (h.writeBar0 ..) (.ite (h.of_config (State.lateInj_config ..)) h)) ?_
  exact .ite (hone _ _ (hone _ _ h)) (hone _ _ h)

end Sys2Proof.Machine

/-! SUPPORT. Every command keeps the partitions apart and inside the device (R357), and so does every step. -/

namespace Sys2Proof.Machine

/-! ## Outcomes -/

/-- Whatever state an outcome leads to from a state that obeys R357 obeys it too. -/
def State.Keeps (s : State) (o : Host.Outcome State Fault Refusal) : Prop := s.Partitioned → ∀ t, o = .next t → t.Partitioned

theorem State.keeps_next {s t : State} (h : s.Partitioned → t.Partitioned) : s.Keeps (.next t) := by
  rintro hs _ ⟨⟩
  exact h hs

theorem State.keeps_doneIf {s t : State} {ok : Bool} (h : s.Partitioned → t.Partitioned) : s.Keeps (doneIf ok t) := by
  cases ok with
  | true => exact State.keeps_next h
  | false => exact fun _ _ => nofun

theorem State.keeps_done {s t : State} {c : Instr} (h : s.Partitioned → t.Partitioned) : s.Keeps (done c t) := State.keeps_doneIf h

/-- A command that leaves the configuration alone. -/
theorem State.keeps_frame {s t : State} {c : Instr} (h : t.config = s.config) : s.Keeps (done c t) :=
  State.keeps_done fun hs => hs.of_config h

theorem State.keeps_frameIf {s t : State} {ok : Bool} (h : t.config = s.config) : s.Keeps (doneIf ok t) :=
  State.keeps_doneIf fun hs => hs.of_config h

theorem State.keeps_frameNext {s t : State} (h : t.config = s.config) : s.Keeps (.next t) :=
  State.keeps_next fun hs => hs.of_config h

/-- The write of a register that leaves the configuration alone; the access first applies a low half that was held back. -/
theorem State.keeps_row {s : State} {c : Instr} {fn : Nat} {ok : Bool} {act : State → State} (hact : ∀ t, (act t).config = t.config) :
    s.Keeps (done c (s.onRow fn ok act)) :=
  State.keeps_done fun hs => hs.onRow (fun t ht => ht.of_config (hact t)) fn ok

/-! ## Control transfers, exit and barriers (R86, R98 to R100) -/

theorem execNop_keeps {i : Issue} {f : FormT} {s : State} : s.Keeps (execNop i f s) := State.keeps_frame (by simp)

theorem execBra_keeps {i : Issue} {f : FormI} {s : State} : s.Keeps (execBra i f s) := State.keeps_frame (by simp)

theorem execBrx_keeps {i : Issue} {f : FormT} {s : State} : s.Keeps (execBrx i f s) := State.keeps_frame (by simp)

theorem execCall_keeps {i : Issue} {f : FormI} {s : State} : s.Keeps (execCall i f s) :=
  State.keeps_frame (State.issue_config fun t go on => by simp)

theorem execBar_keeps {i : Issue} {f : FormI} {s : State} : s.Keeps (execBar i f s) := State.keeps_frame (by simp)

theorem execRdsr_keeps {i : Issue} {f : FormI} {s : State} : s.Keeps (execRdsr i f s) := State.keeps_frame (State.compute_config ..)

/-! ## Loads, stores, atomics and fences (R117 to R120, R142 to R147) -/

theorem execLd_keeps {i : Issue} {f : FormI} {s : State} : s.Keeps (execLd i f s) := by
  refine State.keeps_frame (State.issue_config fun t go on => ?_)
  repeat' split
  all_goals simp

theorem execSt_keeps {i : Issue} {f : FormI} {s : State} : s.Keeps (execSt i f s) := by
  refine State.keeps_frame (State.issue_config fun t go on => ?_)
  repeat' split
  all_goals simp

theorem execLdl_keeps {i : Issue} {f : FormI} {s : State} : s.Keeps (execLdl i f s) := by
  refine State.keeps_frame (State.issue_config fun t go on => ?_)
  dsimp only
  repeat' split
  all_goals simp

theorem execStl_keeps {i : Issue} {f : FormI} {s : State} : s.Keeps (execStl i f s) := by
  refine State.keeps_frame (State.issue_config fun t go on => ?_)
  repeat' split
  all_goals simp

theorem execAtom_keeps {i : Issue} {f : FormT} {s : State} : s.Keeps (execAtom i f s) := by
  refine State.keeps_frame (State.issue_config fun t go on => ?_)
  dsimp only
  split
  · exact State.sheafFault_config ..
  · refine (State.nextPc_config ..).trans (State.config_foldl (fun u m => ?_) _ _)
    repeat' split
    all_goals simp

theorem execFence_keeps {i : Issue} {f : FormI} {s : State} : s.Keeps (execFence i f s) := State.keeps_frame (by simp)

/-! ## Home slices, ordered accumulation and scrub (R147 to R157, R171) -/

theorem execHomeSliceAccess_keeps {n : Nat} {s : State} : s.Keeps (execHomeSliceAccess n s) :=
  State.keeps_frame (State.homeAccess_config ..)

theorem execFillArrives_keeps {line : Nat} {words : List WordState} {s : State} : s.Keeps (execFillArrives line words s) :=
  State.keeps_frame (State.fill_config ..)

theorem execOrderedContribution_keeps {n : Nat} {s : State} : s.Keeps (execOrderedContribution n s) :=
  State.keeps_frame (State.ordered_config ..)

theorem execOrderedRetry_keeps {n : Nat} {s : State} : s.Keeps (execOrderedRetry n s) := by
  refine State.keeps_frame ?_
  dsimp only
  split <;> simp

theorem execOrderedSequenceAbandon_keeps {addr : Nat} {s : State} : s.Keeps (execOrderedSequenceAbandon addr s) := by
  refine State.keeps_frame ?_
  dsimp only
  split <;> simp

theorem execScrub_keeps {addr : Nat} {st : WordState} {symbols : Word} {s : State} : s.Keeps (execScrub addr st symbols s) :=
  State.keeps_frame (by simp)

/-! ## Feeds, drains, reshapes and releases at issue (R61 to R80) -/

theorem execGfeedr_keeps {i : Issue} {f : FormT} {s : State} : s.Keeps (execGfeedr i f s) := State.keeps_frame (by simp)

theorem execGfeeds_keeps {i : Issue} {f : FormT} {s : State} : s.Keeps (execGfeeds i f s) := by
  refine State.keeps_frame (State.issue_config fun t go on => ?_)
  dsimp only
  repeat' split
  all_goals simp

theorem execGdrain_keeps {i : Issue} {f : FormT} {s : State} : s.Keeps (execGdrain i f s) := by
  refine State.keeps_frame ?_
  split
  · exact State.whole_config fun t => State.drainAct_config ..
  · refine State.issue_config fun t go on => ?_
    cases on <;> simp

theorem execGreshape_keeps {i : Issue} {f : FormT} {s : State} : s.Keeps (execGreshape i f s) := by
  refine State.keeps_frame (State.issue_config fun t go on => ?_)
  dsimp only
  repeat' split
  all_goals simp

theorem execGrelease_keeps {i : Issue} {f : FormT} {s : State} : s.Keeps (execGrelease i f s) := by
  refine State.keeps_frame (State.issue_config fun t go on => ?_)
  dsimp only
  repeat' split
  all_goals simp

/-! ## The grid (R53 to R83) -/

theorem execPendingWriteLands_keeps {core slot n : Nat} {s : State} : s.Keeps (execPendingWriteLands core slot n s) := by
  refine State.keeps_frame ?_
  repeat' split
  all_goals simp

theorem execFeedAccepted_keeps {gang : Nat} {side bank : Bool} {s : State} : s.Keeps (execFeedAccepted gang side bank s) :=
  State.keeps_frame (State.acceptFeed_config ..)

theorem execCellFire_keeps {gang row col : Nat} {s : State} : s.Keeps (execCellFire gang row col s) :=
  State.keeps_frame (State.cellFire_config ..)

theorem execDrainComplete_keeps {gang core : Nat} {s : State} : s.Keeps (execDrainComplete gang core s) :=
  State.keeps_frame (State.completeDrain_config ..)

theorem execElementWisePair_keeps {gang row : Nat} {x y : Word} {ncw : Word} {dcw : DWord} {doff : Nat} {tid : Word} {elem : DWord} {s : State} :
    s.Keeps (execElementWisePair gang row x y ncw dcw doff tid elem s) := State.keeps_frame (State.elementWise_config ..)

theorem execReshapeComplete_keeps {tract : Nat} {s : State} : s.Keeps (execReshapeComplete tract s) :=
  State.keeps_frame (State.completeReshape_config ..)

theorem execGangParityError_keeps {gang core part : Nat} {s : State} : s.Keeps (execGangParityError gang core part s) := by
  refine State.keeps_frame ?_
  dsimp only
  repeat' split
  all_goals simp

/-! ## Spars (R282 to R302) -/

theorem execSparHomeOperation_keeps {spar : Nat} {s : State} : s.Keeps (execSparHomeOperation spar s) := by
  refine State.keeps_frame ?_
  split <;> simp

theorem execSpadd_keeps {i : Issue} {f : FormT} {s : State} : s.Keeps (execSpadd i f s) := State.keeps_frame (by simp)

theorem execSpwait_keeps {i : Issue} {f : FormT} {s : State} : s.Keeps (execSpwait i f s) := State.keeps_frame (by simp)

theorem execSparrive_keeps {i : Issue} {f : FormT} {s : State} : s.Keeps (execSparrive i f s) := State.keeps_frame (by simp)

theorem execSpread_keeps {i : Issue} {f : FormT} {s : State} : s.Keeps (execSpread i f s) := State.keeps_frame (by simp)

theorem execExit_keeps {i : Issue} {f : FormT} {s : State} : s.Keeps (execExit i f s) := State.keeps_frame (by simp)

/-! ## Objects, hoard and mailboxes of sheaves (R127, R128, R132, R179 to R187, R337 to R342) -/

theorem execAlloc_keeps {i : Issue} {f : FormT} {s : State} : s.Keeps (execAlloc i f s) := by
  refine State.keeps_frame (State.issue_config fun t go on => ?_)
  refine (State.nextPc_config ..).trans (State.config_foldl (fun u m => ?_) _ _)
  dsimp only
  split
  · next h => exact (State.result'_config ..).trans (State.alloc_config h)
  · exact State.result'_config ..

theorem execFree_keeps {i : Issue} {f : FormT} {s : State} : s.Keeps (execFree i f s) := by
  refine State.keeps_frame (State.issue_config fun t go on => ?_)
  split
  next freed ok h =>
    have hfreed : freed.config = t.config := (congrArg (·.1.config) h).symm.trans (State.freeAll_config ..)
    split <;> simp [hfreed]

theorem execHput_keeps {i : Issue} {f : FormT} {s : State} : s.Keeps (execHput i f s) := State.keeps_frame (by simp)

theorem execHget_keeps {i : Issue} {f : FormT} {s : State} : s.Keeps (execHget i f s) := State.keeps_frame (by simp)

theorem execMsend_keeps {i : Issue} {f : FormT} {s : State} : s.Keeps (execMsend i f s) := State.keeps_frame (State.mbxIssue_config ..)

theorem execMrecv_keeps {i : Issue} {f : FormT} {s : State} : s.Keeps (execMrecv i f s) := State.keeps_frame (State.mbxIssue_config ..)

/-! ## Submission entries and completions (R313 to R318) -/

theorem execCompletionPost_keeps {fn q : Nat} {s : State} : s.Keeps (execCompletionPost fn q s) :=
  State.keeps_frame (State.completionPost_config ..)

theorem execModtimeExpires_keeps {fn q : Nat} {s : State} : s.Keeps (execModtimeExpires fn q s) := State.keeps_frame (by simp)

/-! ## Placing, swapping and stopping work (R83, R85, R102 to R105) -/

theorem execSheafPlace_keeps {e : EntryRef} {core : Nat} {s : State} : s.Keeps (execSheafPlace e core s) :=
  State.keeps_frame (State.sheafPlace_config ..)

theorem execSheafSwapOut_keeps {core slot : Nat} {s : State} : s.Keeps (execSheafSwapOut core slot s) :=
  State.keeps_frame (State.swapOut_config ..)

theorem execSheafRestore_keeps {core n : Nat} {s : State} : s.Keeps (execSheafRestore core n s) :=
  State.keeps_frame (State.sheafRestore_config ..)

/-! ## Jobs and gutter messages (R216 to R226) -/

theorem execAgentSparOperation_keeps {fn jslot : Nat} {which : AgentSpar} {op : AgentOp} {s : State} :
    s.Keeps (execAgentSparOperation fn jslot which op s) := by
  refine State.keeps_frame ?_
  dsimp only
  split <;> simp

/-! ## Voids and replays (R241 to R244) -/

theorem execReplayStart_keeps {fn jslot : Nat} {s : State} : s.Keeps (execReplayStart fn jslot s) :=
  State.keeps_frame (State.replayStart_config ..)

/-! ## Contexts (R83, R105, R329 to R343) -/

theorem execContextAbort_keeps {ctx : Nat} {s : State} : s.Keeps (execContextAbort ctx s) := State.keeps_frame (State.ctxAbort_config ..)

theorem execDestructionComplete_keeps {ctx : Nat} {s : State} : s.Keeps (execDestructionComplete ctx s) :=
  State.keeps_frame (State.destroyed_config ..)

theorem execPageIn_keeps {ctx : Nat} {s : State} : s.Keeps (execPageIn ctx s) := State.keeps_frame (State.pageIn_config ..)

/-! ## The data path of the gutters (R222 to R237) -/

theorem execChunkStart_keeps {fn jslot chunk : Nat} {s : State} : s.Keeps (execChunkStart fn jslot chunk s) := by
  refine State.keeps_frame ?_
  dsimp only
  repeat' split
  all_goals simp

theorem execContribution_keeps {port : Nat} {m : Msg} {s : State} : s.Keeps (execContribution port m s) := State.keeps_frame (by simp)

theorem execParameterMessage_keeps {port : Nat} {m : Msg} {s : State} : s.Keeps (execParameterMessage port m s) := by
  refine State.keeps_frame (State.gutter_config fun t fn j b h => State.aged_config fun u => ?_)
  dsimp only
  repeat' split
  all_goals simp

theorem execBlockStreamStart_keeps {fn jslot : Nat} {s : State} : s.Keeps (execBlockStreamStart fn jslot s) := by
  refine State.keeps_frame ?_
  dsimp only
  repeat' split
  all_goals simp

theorem execBlockContribution_keeps {port : Nat} {m : Msg} {s : State} : s.Keeps (execBlockContribution port m s) :=
  State.keeps_frame (by simp)

theorem execEscape_keeps {port : Nat} {m : Msg} {s : State} : s.Keeps (execEscape port m s) := State.keeps_frame (by simp)

theorem execBlockResult_keeps {port : Nat} {m : Msg} {s : State} : s.Keeps (execBlockResult port m s) := State.keeps_frame (by simp)

/-! ## Update engines (R192 to R210) -/

theorem execEngineApplyChunk_keeps {engine : Nat} {s : State} : s.Keeps (execEngineApplyChunk engine s) := by
  refine State.keeps_frame ?_
  split <;> simp

theorem execPreBlockApply_keeps {fn jslot entry : Nat} {s : State} : s.Keeps (execPreBlockApply fn jslot entry s) := by
  refine State.keeps_frame ?_
  split
  · rfl
  · split
    · rfl
    · split
      · rfl
      · refine State.config_foldl (fun t k => ?_) _ _
        split <;> simp

theorem execRowCopyDone_keeps {engine : Nat} {s : State} : s.Keeps (execRowCopyDone engine s) := by
  refine State.keeps_frame ?_
  dsimp only
  repeat' split
  all_goals simp

/-! ## Shadow verdicts and the row shift (R23, R378 to R380) -/

theorem execCheckerResult_keeps {id : Nat} {accs outs : List Word} {s : State} : s.Keeps (execCheckerResult id accs outs s) := by
  refine State.keeps_frame ?_
  dsimp only
  split <;> simp

theorem execArbiterVerdict_keeps {id : Nat} {accs outs : List Word} {s : State} : s.Keeps (execArbiterVerdict id accs outs s) := by
  refine State.keeps_frame ?_
  dsimp only
  repeat' split
  all_goals simp

theorem execRowShift_keeps {course row : Nat} {s : State} : s.Keeps (execRowShift course row s) := by
  refine State.keeps_frame ?_
  dsimp only
  split <;> simp

theorem execRowShiftDone_keeps {course row : Nat} {s : State} : s.Keeps (execRowShiftDone course row s) := by
  refine State.keeps_frame ?_
  dsimp only
  split <;> simp

/-! ## Seals, ridges, checkpoints and takeovers (R211, R238 to R247, R384 to R388) -/

theorem execCheckpointStreamComplete_keeps {fn jslot : Nat} {buddy : Bool} {s : State} :
    s.Keeps (execCheckpointStreamComplete fn jslot buddy s) := State.keeps_frame (State.checkpointDone_config ..)

theorem execRidgeSend_keeps {fn jslot : Nat} {s : State} : s.Keeps (execRidgeSend fn jslot s) :=
  State.keeps_frame (State.ridgeSend_config ..)

theorem execRidge_keeps {port : Nat} {m : Msg} {s : State} : s.Keeps (execRidge port m s) := by
  refine State.keeps_frame (State.gutter_config fun t fn j b h => ?_)
  dsimp only
  split
  · simp
  · split
    · simp
    · split <;> simp
    · exact State.around_config fun u => by simp

theorem execVoid_keeps {port : Nat} {m : Msg} {s : State} : s.Keeps (execVoid port m s) := State.keeps_frame (by simp)

theorem execJoin_keeps {port : Nat} {m : Msg} {s : State} : s.Keeps (execJoin port m s) := State.keeps_frame (by simp)

theorem execRidgeTimeout_keeps {fn jslot : Nat} {s : State} : s.Keeps (execRidgeTimeout fn jslot s) := by
  refine State.keeps_frame ?_
  split <;> simp

theorem execRidgeOverdue_keeps {fn jslot : Nat} {s : State} : s.Keeps (execRidgeOverdue fn jslot s) := by
  refine State.keeps_frame ?_
  split <;> simp

theorem execSpareTakeover_keeps {fn jslot : Nat} {t : Takeover} {s : State} : s.Keeps (execSpareTakeover fn jslot t s) :=
  State.keeps_frame (State.takeover_config ..)

/-! ## Remote memory access (R249 to R261) -/

theorem execRead_keeps {port : Nat} {m : Msg} {s : State} : s.Keeps (execRead port m s) := State.keeps_frame (by simp)

theorem execWrite_keeps {port : Nat} {m : Msg} {s : State} : s.Keeps (execWrite port m s) := State.keeps_frame (by simp)

theorem execAtomic_keeps {port : Nat} {m : Msg} {s : State} : s.Keeps (execAtomic port m s) := State.keeps_frame (by simp)

theorem execAtomicOrd_keeps {port : Nat} {m : Msg} {s : State} : s.Keeps (execAtomicOrd port m s) := State.keeps_frame (by simp)

theorem execReadResp_keeps {port : Nat} {m : Msg} {s : State} : s.Keeps (execReadResp port m s) := by
  refine State.keeps_frame (State.answered_config fun t e => ?_)
  repeat' split
  all_goals simp

theorem execWriteAck_keeps {port : Nat} {m : Msg} {s : State} : s.Keeps (execWriteAck port m s) := by
  refine State.keeps_frame (State.answered_config fun t e => ?_)
  repeat' split
  all_goals simp

theorem execAtomicResp_keeps {port : Nat} {m : Msg} {s : State} : s.Keeps (execAtomicResp port m s) := by
  refine State.keeps_frame (State.answered_config fun t e => ?_)
  split
  · split <;> simp
  · split
    · rfl
    · split
      · next h => exact (t.onlyReporting_collSend h).config
      · simp
  · rfl

theorem execReturnMsg_keeps {port : Nat} {m : Msg} {s : State} : s.Keeps (execReturnMsg port m s) := by
  refine State.keeps_frame (State.answered_config fun t e => ?_)
  repeat' split
  all_goals simp

theorem execNak_keeps {port : Nat} {m : Msg} {s : State} : s.Keeps (execNak port m s) := by
  refine State.keeps_frame (State.receive_config fun t => ?_)
  dsimp only
  repeat' split
  all_goals simp

theorem execRemoteTimeout_keeps {tag : Nat} {s : State} : s.Keeps (execRemoteTimeout tag s) := by
  refine State.keeps_frame ?_
  dsimp only
  split <;> simp

/-! ## Links and transit (R262 to R281) -/

theorem execReorderRelease_keeps {port : Nat} {s : State} : s.Keeps (execReorderRelease port s) := by
  refine State.keeps_frame ?_
  dsimp only
  split <;> simp

theorem execFlitReceive_keeps {port : Nat} {flit : Flit} {s : State} : s.Keeps (execFlitReceive port flit s) :=
  State.keeps_frame (State.flit_config ..)

theorem execRetryRequest_keeps {port : Nat} {next : BitVec 12} {s : State} : s.Keeps (execRetryRequest port next s) :=
  State.keeps_frame (by simp)

theorem execBerWindow_keeps {port errors bits : Nat} {s : State} : s.Keeps (execBerWindow port errors bits s) :=
  State.keeps_frame (by simp)

theorem execPortTrainingComplete_keeps {port : Nat} {lanes : Byte} {peer : BitVec 16} {peerPort : BitVec 6} {s : State} :
    s.Keeps (execPortTrainingComplete port lanes peer peerPort s) := State.keeps_frame (State.trained_config ..)

theorem execMessageForward_keeps {port : Nat} {m : Msg} {s : State} : s.Keeps (execMessageForward port m s) :=
  State.keeps_frame (State.forward_config ..)

theorem execVcStalled_keeps {port vc : Nat} {s : State} : s.Keeps (execVcStalled port vc s) := State.keeps_frame (by simp)

theorem execViolationScoreDecay_keeps {s : State} : s.Keeps (execViolationScoreDecay s) := State.keeps_frame (by simp)

/-! ## Queue commands (R313, R335 to R346) -/

theorem execQueueNop_keeps {e : EntryRef} {s : State} : s.Keeps (execQueueNop e s) := State.keeps_frame (by simp)

theorem execLaunch_keeps {e : EntryRef} {s : State} : s.Keeps (execLaunch e s) := State.keeps_frame (by simp)

theorem execCopy_keeps {e : EntryRef} {s : State} : s.Keeps (execCopy e s) := State.keeps_frame (by simp)

theorem execFill_keeps {e : EntryRef} {s : State} : s.Keeps (execFill e s) := by
  refine State.keeps_frame (State.begin_config fun t x => ?_)
  dsimp only
  split <;> simp

theorem execReshape_keeps {e : EntryRef} {s : State} : s.Keeps (execReshape e s) := by
  refine State.keeps_frame (State.begin_config fun t x => ?_)
  split <;> simp

theorem execSparadd_keeps {e : EntryRef} {s : State} : s.Keeps (execSparadd e s) := by
  refine State.keeps_frame (State.begin_config fun t x => ?_)
  dsimp only
  split
  · simp
  · split
    · simp
    · next h => exact (State.ran_config ..).trans (State.addSpar_config h)

theorem execCtxcreate_keeps {e : EntryRef} {s : State} : s.Keeps (execCtxcreate e s) := State.keeps_frame (by simp)

theorem execCtxdestroy_keeps {e : EntryRef} {s : State} : s.Keeps (execCtxdestroy e s) := by
  refine State.keeps_frame ?_
  dsimp only
  repeat' split
  all_goals simp

theorem execCtxrecover_keeps {e : EntryRef} {s : State} : s.Keeps (execCtxrecover e s) := by
  refine State.keeps_frame (State.begin_config fun t x => ?_)
  split <;> simp

theorem execCodeload_keeps {e : EntryRef} {s : State} : s.Keeps (execCodeload e s) := by
  refine State.keeps_frame (State.begin_config fun t x => ?_)
  split <;> simp

theorem execCodeunload_keeps {e : EntryRef} {s : State} : s.Keeps (execCodeunload e s) := by
  refine State.keeps_frame ?_
  split <;> simp

theorem execOalloc_keeps {e : EntryRef} {s : State} : s.Keeps (execOalloc e s) := by
  refine State.keeps_frame (State.begin_config fun t x => ?_)
  extract_lets res rhost
  split
  · simp
  · next ps _ =>
    extract_lets put
    have hput : ∀ u bs st, (put u bs st).config = u.config := fun u bs st => by simp [put]
    split
    · next h => exact (hput ..).trans (State.alloc_config h)
    · exact hput ..

theorem execOfree_keeps {e : EntryRef} {s : State} : s.Keeps (execOfree e s) := by
  refine State.keeps_frame (State.begin_config fun t x => ?_)
  split <;> simp

theorem execOshare_keeps {e : EntryRef} {s : State} : s.Keeps (execOshare e s) := by
  refine State.keeps_frame (State.begin_config fun t x => ?_)
  split <;> simp

theorem execOdrop_keeps {e : EntryRef} {s : State} : s.Keeps (execOdrop e s) := by
  refine State.keeps_frame (State.begin_config fun t x => ?_)
  split <;> simp

theorem execOcopy_keeps {e : EntryRef} {s : State} : s.Keeps (execOcopy e s) := by
  refine State.keeps_frame (State.begin_config fun t x => ?_)
  dsimp only
  repeat' split
  all_goals simp

theorem execQuery_keeps {e : EntryRef} {s : State} : s.Keeps (execQuery e s) := by
  refine State.keeps_frame (State.begin_config fun t x => ?_)
  dsimp only
  repeat' split
  all_goals simp

/-! ## The queue engine (R310 to R318, R451) -/

theorem execEntryFetch_keeps {fn q : Nat} {s : State} : s.Keeps (execEntryFetch fn q s) := State.keeps_frame (State.entryFetch_config ..)

theorem execEntryFinish_keeps {e : EntryRef} {s : State} : s.Keeps (execEntryFinish e s) :=
  State.keeps_frame (State.entryFinish_config ..)

/-! ## Mailbox channels and spar operations of the host (R298 to R302, R319 to R322) -/

theorem execMcAccept_keeps {fn ch : Nat} {s : State} : s.Keeps (execMcAccept fn ch s) := State.keeps_frame (by simp)

theorem execMcAnswer_keeps {fn ch : Nat} {words : List Word} {s : State} : s.Keeps (execMcAnswer fn ch words s) :=
  State.keeps_frame (by simp)

/-! ## Windows, ports and injection (R252 to R254, R277 to R281) -/

theorem execWindowInvalidateDone_keeps {fn index : Nat} {s : State} : s.Keeps (execWindowInvalidateDone fn index s) := by
  refine State.keeps_frame ?_
  split <;> simp

/-! ## What an apply clears and sets (R361, R417) -/

theorem execTrussApply_keeps {s : State} : s.Keeps (execTrussApply s) := by
  refine State.keeps_done fun hs => ?_
  split
  · exact hs
  · next himg => exact .ite (hs.endApply himg) (hs.beginApply _)

/-! ## Functions (R323 to R326) -/

theorem execFlr_keeps {fn : Nat} {s : State} : s.Keeps (execFlr fn s) := State.keeps_done fun hs => hs.flr _

theorem execVfEnableClear_keeps {s : State} : s.Keeps (execVfEnableClear s) := State.keeps_done fun hs => hs.clearVfs

theorem execShutdownComplete_keeps {fn us : Nat} {s : State} : s.Keeps (execShutdownComplete fn us s) :=
  State.keeps_frame (State.shutdownDone_config ..)

theorem execFunctionWedged_keeps {fn us : Nat} {s : State} : s.Keeps (execFunctionWedged fn us s) :=
  State.keeps_frame (State.wedge_config ..)

theorem execFunctionEnable_keeps {fn : Nat} {s : State} : s.Keeps (execFunctionEnable fn s) :=
  State.keeps_frame (State.enableFn_config ..)

theorem execEraseComplete_keeps {fn : Nat} {s : State} : s.Keeps (execEraseComplete fn s) := State.keeps_frame (State.eraseDone_config ..)

theorem execConventionalReset_keeps {s : State} : s.Keeps (execConventionalReset s) :=
  State.keeps_done fun _ => State.partitioned_fullReset ..

theorem execCxlReset_keeps {s : State} : s.Keeps (execCxlReset s) := State.keeps_done fun _ => State.partitioned_fullReset ..

/-! ## Boot (R415 to R425) -/

theorem execBootMailboxSend_keeps {v : Word} {s : State} : s.Keeps (execBootMailboxSend v s) := State.keeps_done fun hs => hs.bootCtl _

theorem execDoeBootChunk_keeps {kind : Byte} {last : Bool} {off total : Word} {data : List Byte} {s : State} :
    s.Keeps (execDoeBootChunk kind last off total data s) := State.keeps_frame (State.doeChunk_config ..)

theorem execFirmwareVerify_keeps {s : State} : s.Keeps (execFirmwareVerify s) := by
  refine State.keeps_done fun hs => .ite hs (.ite ?_ ?_)
  · exact State.Partitioned.bootServe (hs.of_config rfl)
  · exact State.Partitioned.bootServe (hs.of_config (State.fwReject_config _))

theorem execBootImageApply_keeps {s : State} : s.Keeps (execBootImageApply s) := by
  refine State.keeps_done fun hs => .ite hs ?_
  split
  · exact (hs.bootRefused ..).bootServe
  · next himg =>
    split
    · exact (hs.bootRefused ..).bootServe
    · refine .of_none ?_ rfl
      have hparts := State.imgCheck_partsApart himg hs.1
      rwa [← State.applyImage_parts s] at hparts

theorem execMemoryTrainingComplete_keeps {badUnits : List Nat} {channels : List (Nat × Nat)} {s : State} :
    s.Keeps (execMemoryTrainingComplete badUnits channels s) := State.keeps_frame (by simp)

theorem execFabricBringupComplete_keeps {s : State} : s.Keeps (execFabricBringupComplete s) := State.keeps_frame (by simp)

theorem execIdentityKeysReady_keeps {ok : Bool} {s : State} : s.Keeps (execIdentityKeysReady ok s) := State.keeps_frame (by simp)

/-! ## Power, clocks and heat (R397 to R413) -/

theorem execCourseStandby_keeps {course : Nat} {s : State} : s.Keeps (execCourseStandby course s) := State.keeps_frameIf (by simp)

theorem execCourseOff_keeps {course : Nat} {s : State} : s.Keeps (execCourseOff course s) := State.keeps_frameIf (by simp)

theorem execCourseWakeComplete_keeps {course : Nat} {s : State} : s.Keeps (execCourseWakeComplete course s) :=
  State.keeps_frameIf (by simp)

theorem execPacingInterval_keeps {course : Nat} {s : State} : s.Keeps (execPacingInterval course s) := State.keeps_frameIf (by simp)

theorem execPowerBudgetTick_keeps {energyUJ : Nat} {demand : List (Nat × Nat × Nat)} {island : Int × Nat} {s : State} :
    s.Keeps (execPowerBudgetTick energyUJ demand island s) := State.keeps_frameNext (State.budgetTick_config ..)

theorem execTemperatureSample_keeps {course : Nat} {temp : Int} {mv : Nat} {s : State} :
    s.Keeps (execTemperatureSample course temp mv s) := State.keeps_frameIf (State.tempSample_config ..)

theorem execThermalTripTimeout_keeps {course : Nat} {s : State} : s.Keeps (execThermalTripTimeout course s) :=
  State.keeps_frameIf (by simp)

theorem execHbmStackTemperature_keeps {stack : Nat} {temp : Int} {s : State} : s.Keeps (execHbmStackTemperature stack temp s) :=
  State.keeps_frameIf (by simp)

theorem execDeliverySense_keeps {powerW currentMA vinMV : Nat} {s : State} :
    s.Keeps (execDeliverySense powerW currentMA vinMV s) := State.keeps_frameNext (by simp)

theorem execDeliveryThrottleEnd_keeps {s : State} : s.Keeps (execDeliveryThrottleEnd s) := State.keeps_frame (by simp)

theorem execCourseSupplyFault_keeps {course : Nat} {s : State} : s.Keeps (execCourseSupplyFault course s) :=
  State.keeps_frameIf (State.supplyFault_config ..)

theorem execVinMainOutOfLimits_keeps {mv : Nat} {s : State} : s.Keeps (execVinMainOutOfLimits mv s) := State.keeps_frameNext (by simp)

theorem execVinMainReturnsWithinLimits_keeps {mv : Nat} {s : State} : s.Keeps (execVinMainReturnsWithinLimits mv s) :=
  State.keeps_frameNext (by simp)

theorem execPmbusPoll_keeps {answers : Bool} {vinMV iinMA : Nat} {status : BitVec 16} {s : State} :
    s.Keeps (execPmbusPoll answers vinMV iinMA status s) := State.keeps_frameNext (State.pmbusPoll_config ..)

theorem execEnergySample_keeps {contexts : List (Nat × Nat)} {jobs : List (Nat × Nat × Nat)} {idle : List (Nat × Nat)} {base : Nat} {s : State} :
    s.Keeps (execEnergySample contexts jobs idle base s) := State.keeps_frameNext (by simp)

theorem execContextEnergyWriteback_keeps {ctx : Nat} {s : State} : s.Keeps (execContextEnergyWriteback ctx s) :=
  State.keeps_frameIf (by simp)

theorem execVinMainLoss_keeps {s : State} : s.Keeps (execVinMainLoss s) := State.keeps_done fun _ => State.partitioned_mainLoss _

theorem execVinMainStable_keeps {perst : Bool} {s : State} : s.Keeps (execVinMainStable perst s) :=
  State.keeps_next fun hs => .ite hs (.ite (State.Partitioned.bootServe (hs.of_config rfl)) (hs.of_config rfl))

theorem execVinAonApplied_keeps {testmode sris : Bool} {s : State} : s.Keeps (execVinAonApplied testmode sris s) :=
  State.keeps_next fun hs => hs.aonApply ..

theorem execVinAonLoss_keeps {s : State} : s.Keeps (execVinAonLoss s) :=
  State.keeps_done fun hs => .ite hs (.of_reset rfl)

theorem execClockStop_keeps {s : State} : s.Keeps (execClockStop s) := State.keeps_frame (by simp)

theorem execClockReturn_keeps {s : State} : s.Keeps (execClockReturn s) :=
  State.keeps_done fun hs => .ite hs (State.partitioned_fullReset ..)

/-! ## Registers (R5 to R7, R307) -/

theorem execSplitWriteTimeout_keeps {fn : Nat} {s : State} : s.Keeps (execSplitWriteTimeout fn s) :=
  State.keeps_done fun hs => hs.onReg (fun _ ht => ht) _

theorem execSplitReadLow_keeps {rid : BitVec 16} {ide : Bool} {fn off : Nat} {s : State} : s.Keeps (execSplitReadLow rid ide fn off s) :=
  State.keeps_done fun hs => .ite (hs.onReg (fun _ ht => ht.of_config (State.readLow_config ..)) fn) hs

theorem execRegisterWrite_keeps {rid : BitVec 16} {ide : Bool} {fn off : Nat} {wide : Bool} {v : DWord} {s : State} :
    s.Keeps (execRegisterWrite rid ide fn off wide v s) := State.keeps_done fun hs => hs.writeReg ..

/-! ## Register writes with a command of their own (R7) -/

theorem execQueueEnable_keeps {fn q : Nat} {v : DWord} {s : State} : s.Keeps (execQueueEnable fn q v s) :=
  State.keeps_row fun _ => State.writeHqCtl_config ..

theorem execQueueDisable_keeps {fn q : Nat} {v : DWord} {s : State} : s.Keeps (execQueueDisable fn q v s) :=
  State.keeps_row fun _ => State.writeHqCtl_config ..

theorem execHqDbsq_keeps {fn q : Nat} {tail : Word} {s : State} : s.Keeps (execHqDbsq fn q tail s) :=
  State.keeps_row fun _ => State.dbSq_config ..

theorem execHqDbcq_keeps {fn q : Nat} {head : Word} {s : State} : s.Keeps (execHqDbcq fn q head s) :=
  State.keeps_row fun _ => State.dbCq_config ..

theorem execMailboxSend_keeps {fn ch : Nat} {s : State} : s.Keeps (execMailboxSend fn ch s) :=
  State.keeps_row fun _ => State.chanSend_config ..

theorem execInboundGoClear_keeps {fn ch : Nat} {s : State} : s.Keeps (execInboundGoClear fn ch s) :=
  State.keeps_row fun _ => State.chanClear_config ..

theorem execChannelOpenWrite_keeps {fn ch : Nat} {v : Word} {s : State} : s.Keeps (execChannelOpenWrite fn ch v s) :=
  State.keeps_row fun _ => State.chanOpen_config ..

theorem execSecureClaim_keeps {rid : BitVec 16} {ide : Bool} {v : DWord} {s : State} : s.Keeps (execSecureClaim rid ide v s) :=
  State.keeps_row fun _ => State.claim_config ..

theorem execSparCreate_keeps {fn : Nat} {v : DWord} {s : State} : s.Keeps (execSparCreate fn v s) :=
  State.keeps_row fun _ => State.sprCmd_config ..

theorem execSparMap_keeps {fn : Nat} {v : DWord} {s : State} : s.Keeps (execSparMap fn v s) :=
  State.keeps_row fun _ => State.sprCmd_config ..

theorem execSparUnmap_keeps {fn : Nat} {v : DWord} {s : State} : s.Keeps (execSparUnmap fn v s) :=
  State.keeps_row fun _ => State.sprCmd_config ..

theorem execSparDestroy_keeps {fn : Nat} {v : DWord} {s : State} : s.Keeps (execSparDestroy fn v s) :=
  State.keeps_row fun _ => State.sprCmd_config ..

theorem execSparRead_keeps {fn : Nat} {v : DWord} {s : State} : s.Keeps (execSparRead fn v s) :=
  State.keeps_row fun _ => State.sprCmd_config ..

theorem execSparSet_keeps {fn : Nat} {v : DWord} {s : State} : s.Keeps (execSparSet fn v s) :=
  State.keeps_row fun _ => State.sprCmd_config ..

theorem execJobLoad_keeps {fn : Nat} {v : DWord} {s : State} : s.Keeps (execJobLoad fn v s) :=
  State.keeps_row fun _ => State.gutJdctl_config ..

theorem execJobUnload_keeps {fn : Nat} {v : DWord} {s : State} : s.Keeps (execJobUnload fn v s) :=
  State.keeps_row fun _ => State.gutJdctl_config ..

theorem execForceVoid_keeps {fn : Nat} {v : DWord} {s : State} : s.Keeps (execForceVoid fn v s) :=
  State.keeps_row fun _ => State.gutJdctl_config ..

theorem execMembershipReload_keeps {fn : Nat} {v : DWord} {s : State} : s.Keeps (execMembershipReload fn v s) :=
  State.keeps_row fun _ => State.gutJdctl_config ..

theorem execReplay_keeps {fn : Nat} {v : DWord} {s : State} : s.Keeps (execReplay fn v s) :=
  State.keeps_row fun _ => State.stepCtl_config ..

theorem execSkip_keeps {fn : Nat} {v : DWord} {s : State} : s.Keeps (execSkip fn v s) := State.keeps_row fun _ => State.stepCtl_config ..

theorem execCheckpointRegister_keeps {fn : Nat} {v : DWord} {s : State} : s.Keeps (execCheckpointRegister fn v s) :=
  State.keeps_row fun _ => State.ckCtl_config ..

theorem execResume_keeps {fn : Nat} {v : DWord} {s : State} : s.Keeps (execResume fn v s) :=
  State.keeps_row fun _ => State.ckCtl_config ..

theorem execRestore_keeps {fn : Nat} {v : DWord} {s : State} : s.Keeps (execRestore fn v s) :=
  State.keeps_row fun _ => State.ckCtl_config ..

theorem execRestoreFromBuddy_keeps {fn : Nat} {v : DWord} {body : List CodeWord} {s : State} :
    s.Keeps (execRestoreFromBuddy fn v body s) := State.keeps_row fun _ => State.ckCtl_config ..

theorem execHoardRelease_keeps {fn : Nat} {v : Word} {s : State} : s.Keeps (execHoardRelease fn v s) :=
  State.keeps_row fun _ => State.hrdCtl_config ..

theorem execErrCodeClear_keeps {fn : Nat} {v : Word} {s : State} : s.Keeps (execErrCodeClear fn v s) :=
  State.keeps_row fun _ => State.errCtl_config ..

theorem execWindowEntryEnable_keeps {fn index : Nat} {v : DWord} {s : State} : s.Keeps (execWindowEntryEnable fn index v s) :=
  State.keeps_row fun _ => State.winWord0_config ..

theorem execWindowEntryInvalidate_keeps {fn index : Nat} {v : DWord} {s : State} :
    s.Keeps (execWindowEntryInvalidate fn index v s) := State.keeps_row fun _ => State.winWord0_config ..

theorem execQuarantineClear_keeps {fn port : Nat} {v : DWord} {s : State} : s.Keeps (execQuarantineClear fn port v s) :=
  State.keeps_row fun _ => State.portCtl_config ..

theorem execRetrain_keeps {fn port : Nat} {v : DWord} {s : State} : s.Keeps (execRetrain fn port v s) :=
  State.keeps_row fun _ => State.portCtl_config ..

theorem execInjPctlWrite_keeps {fn port : Nat} {v : DWord} {s : State} : s.Keeps (execInjPctlWrite fn port v s) :=
  State.keeps_done fun hs =>
    .ite (hs.onRow (fun _ ht => ht.of_config (State.injCtl_config ..)) fn true) (hs.of_config (State.lateInj_config ..))

theorem execInjPseedWrite_keeps {fn port : Nat} {v : DWord} {s : State} : s.Keeps (execInjPseedWrite fn port v s) :=
  State.keeps_done fun hs =>
    .ite (hs.onRow (fun _ ht => ht.of_config (State.injSeed_config ..)) fn true) (hs.of_config (State.lateInj_config ..))

theorem execSignatureRingEnable_keeps {fn : Nat} {v : Word} {s : State} : s.Keeps (execSignatureRingEnable fn v s) :=
  State.keeps_row fun _ => State.sigCtl_config ..

theorem execPowerCapWrite_keeps {fn : Nat} {v : DWord} {s : State} : s.Keeps (execPowerCapWrite fn v s) :=
  State.keeps_row fun _ => State.pwrCap_config ..

theorem execCtxKill_keeps {fn : Nat} {v : DWord} {s : State} : s.Keeps (execCtxKill fn v s) :=
  State.keeps_row fun _ => State.ctxKill_config ..

theorem execFullLoad_keeps {fn : Nat} {v : DWord} {s : State} : s.Keeps (execFullLoad fn v s) :=
  State.keeps_done fun hs => hs.onRow (fun _ ht => ht.trsCtl ..) ..

theorem execPartitionLoad_keeps {fn : Nat} {v : DWord} {s : State} : s.Keeps (execPartitionLoad fn v s) :=
  State.keeps_done fun hs => hs.onRow (fun _ ht => ht.trsCtl ..) ..

theorem execShutdown_keeps {fn target : Nat} {s : State} : s.Keeps (execShutdown fn target s) :=
  State.keeps_done fun hs => hs.onRow (fun _ ht => ht.fnShutdown ..) ..

theorem execErase_keeps {fn target : Nat} {s : State} : s.Keeps (execErase fn target s) :=
  State.keeps_row fun _ => State.beginErase_config ..

theorem execFullreset_keeps {fn : Nat} {v : DWord} {s : State} : s.Keeps (execFullreset fn v s) :=
  State.keeps_done fun hs => hs.onRow (fun _ ht => ht.devCtl ..) ..

/-! ## CXL.mem (R304, R305) -/

theorem execCxlMemRead_keeps {dpa len : Nat} {s : State} : s.Keeps (execCxlMemRead dpa len s) := State.keeps_frame (by simp)

theorem execCxlMemWrite_keeps {dpa : Nat} {data : List Byte} {poison : Bool} {s : State} :
    s.Keeps (execCxlMemWrite dpa data poison s) := State.keeps_frame (State.cxlStore_config ..)

/-! ## Lanes (R114, R116) -/

theorem execIadd_keeps {i : Issue} {f : FormT} {s : State} : s.Keeps (execIadd i f s) := State.keeps_frame (t2_config ..)

theorem execIsub_keeps {i : Issue} {f : FormT} {s : State} : s.Keeps (execIsub i f s) := State.keeps_frame (t2_config ..)

theorem execImul_keeps {i : Issue} {f : FormT} {s : State} : s.Keeps (execImul i f s) := State.keeps_frame (t2_config ..)

theorem execImulh_keeps {i : Issue} {f : FormT} {s : State} : s.Keeps (execImulh i f s) := State.keeps_frame (t2_config ..)

theorem execImad_keeps {i : Issue} {f : FormT} {s : State} : s.Keeps (execImad i f s) := State.keeps_frame (t3_config ..)

theorem execImin_keeps {i : Issue} {f : FormT} {s : State} : s.Keeps (execImin i f s) := State.keeps_frame (t2_config ..)

theorem execImax_keeps {i : Issue} {f : FormT} {s : State} : s.Keeps (execImax i f s) := State.keeps_frame (t2_config ..)

theorem execIabs_keeps {i : Issue} {f : FormT} {s : State} : s.Keeps (execIabs i f s) := State.keeps_frame (t1_config ..)

theorem execAnd_keeps {i : Issue} {f : FormT} {s : State} : s.Keeps (execAnd i f s) := State.keeps_frame (t2_config ..)

theorem execOr_keeps {i : Issue} {f : FormT} {s : State} : s.Keeps (execOr i f s) := State.keeps_frame (t2_config ..)

theorem execXor_keeps {i : Issue} {f : FormT} {s : State} : s.Keeps (execXor i f s) := State.keeps_frame (t2_config ..)

theorem execShl_keeps {i : Issue} {f : FormT} {s : State} : s.Keeps (execShl i f s) := State.keeps_frame (t2_config ..)

theorem execShr_keeps {i : Issue} {f : FormT} {s : State} : s.Keeps (execShr i f s) := State.keeps_frame (t2_config ..)

theorem execSar_keeps {i : Issue} {f : FormT} {s : State} : s.Keeps (execSar i f s) := State.keeps_frame (t2_config ..)

theorem execPopc_keeps {i : Issue} {f : FormT} {s : State} : s.Keeps (execPopc i f s) := State.keeps_frame (t1_config ..)

theorem execClz_keeps {i : Issue} {f : FormT} {s : State} : s.Keeps (execClz i f s) := State.keeps_frame (t1_config ..)

theorem execBfe_keeps {i : Issue} {f : FormT} {s : State} : s.Keeps (execBfe i f s) := State.keeps_frame (t3_config ..)

theorem execBfi_keeps {i : Issue} {f : FormT} {s : State} : s.Keeps (execBfi i f s) := State.keeps_frame (State.compute_config ..)

theorem execIaddi_keeps {i : Issue} {f : FormI} {s : State} : s.Keeps (execIaddi i f s) := State.keeps_frame (i1_config ..)

theorem execImuli_keeps {i : Issue} {f : FormI} {s : State} : s.Keeps (execImuli i f s) := State.keeps_frame (i1_config ..)

theorem execAndi_keeps {i : Issue} {f : FormI} {s : State} : s.Keeps (execAndi i f s) := State.keeps_frame (i1_config ..)

theorem execOri_keeps {i : Issue} {f : FormI} {s : State} : s.Keeps (execOri i f s) := State.keeps_frame (i1_config ..)

theorem execXori_keeps {i : Issue} {f : FormI} {s : State} : s.Keeps (execXori i f s) := State.keeps_frame (i1_config ..)

theorem execShli_keeps {i : Issue} {f : FormI} {s : State} : s.Keeps (execShli i f s) := State.keeps_frame (i1_config ..)

theorem execShri_keeps {i : Issue} {f : FormI} {s : State} : s.Keeps (execShri i f s) := State.keeps_frame (i1_config ..)

theorem execSari_keeps {i : Issue} {f : FormI} {s : State} : s.Keeps (execSari i f s) := State.keeps_frame (i1_config ..)

theorem execMovi_keeps {i : Issue} {f : FormI} {s : State} : s.Keeps (execMovi i f s) := State.keeps_frame (State.compute_config ..)

theorem execMov_keeps {i : Issue} {f : FormT} {s : State} : s.Keeps (execMov i f s) := State.keeps_frame (t1_config ..)

theorem execSel_keeps {i : Issue} {f : FormT} {s : State} : s.Keeps (execSel i f s) := State.keeps_frame (State.compute_config ..)

theorem execFadd_keeps {i : Issue} {f : FormT} {s : State} : s.Keeps (execFadd i f s) := State.keeps_frame (t2_config ..)

theorem execFsub_keeps {i : Issue} {f : FormT} {s : State} : s.Keeps (execFsub i f s) := State.keeps_frame (t2_config ..)

theorem execFmul_keeps {i : Issue} {f : FormT} {s : State} : s.Keeps (execFmul i f s) := State.keeps_frame (t2_config ..)

theorem execFfma_keeps {i : Issue} {f : FormT} {s : State} : s.Keeps (execFfma i f s) := State.keeps_frame (t3_config ..)

theorem execFmin_keeps {i : Issue} {f : FormT} {s : State} : s.Keeps (execFmin i f s) := State.keeps_frame (t2_config ..)

theorem execFmax_keeps {i : Issue} {f : FormT} {s : State} : s.Keeps (execFmax i f s) := State.keeps_frame (t2_config ..)

theorem execFabs_keeps {i : Issue} {f : FormT} {s : State} : s.Keeps (execFabs i f s) := State.keeps_frame (t1_config ..)

theorem execFneg_keeps {i : Issue} {f : FormT} {s : State} : s.Keeps (execFneg i f s) := State.keeps_frame (t1_config ..)

theorem execFdiv_keeps {i : Issue} {f : FormT} {s : State} : s.Keeps (execFdiv i f s) := State.keeps_frame (t2_config ..)

theorem execFsqrt_keeps {i : Issue} {f : FormT} {s : State} : s.Keeps (execFsqrt i f s) := State.keeps_frame (t1_config ..)

theorem execFrcp_keeps {i : Issue} {f : FormT} {s : State} : s.Keeps (execFrcp i f s) := State.keeps_frame (t1_config ..)

theorem execFrsq_keeps {i : Issue} {f : FormT} {s : State} : s.Keeps (execFrsq i f s) := State.keeps_frame (t1_config ..)

theorem execFexp2_keeps {i : Issue} {f : FormT} {s : State} : s.Keeps (execFexp2 i f s) := State.keeps_frame (t1_config ..)

theorem execFlog2_keeps {i : Issue} {f : FormT} {s : State} : s.Keeps (execFlog2 i f s) := State.keeps_frame (t1_config ..)

theorem execFtanh_keeps {i : Issue} {f : FormT} {s : State} : s.Keeps (execFtanh i f s) := State.keeps_frame (t1_config ..)

theorem execFmuli_keeps {i : Issue} {f : FormI} {s : State} : s.Keeps (execFmuli i f s) := State.keeps_frame (i1_config ..)

theorem execFsin_keeps {i : Issue} {f : FormT} {s : State} : s.Keeps (execFsin i f s) := State.keeps_frame (t1_config ..)

theorem execFcos_keeps {i : Issue} {f : FormT} {s : State} : s.Keeps (execFcos i f s) := State.keeps_frame (t1_config ..)

theorem execIsetp_keeps {i : Issue} {f : FormT} {s : State} : s.Keeps (execIsetp i f s) :=
  State.keeps_frame (State.issue_config fun t go on => by simp)

theorem execFsetp_keeps {i : Issue} {f : FormT} {s : State} : s.Keeps (execFsetp i f s) :=
  State.keeps_frame (State.issue_config fun t go on => by simp)

theorem execPlop_keeps {i : Issue} {f : FormT} {s : State} : s.Keeps (execPlop i f s) := State.keeps_frame (by simp)

theorem execI2f_keeps {i : Issue} {f : FormT} {s : State} : s.Keeps (execI2f i f s) := State.keeps_frame (t1_config ..)

theorem execF2i_keeps {i : Issue} {f : FormT} {s : State} : s.Keeps (execF2i i f s) := State.keeps_frame (t1_config ..)

theorem execCvt_keeps {i : Issue} {f : FormT} {s : State} : s.Keeps (execCvt i f s) := State.keeps_frame (by simp)

theorem execPhilox_keeps {i : Issue} {f : FormT} {s : State} : s.Keeps (execPhilox i f s) := State.keeps_frame (State.compute_config ..)

theorem execRnde_keeps {i : Issue} {f : FormT} {s : State} : s.Keeps (execRnde i f s) := State.keeps_frame (State.compute_config ..)

/-! ## SPDM (R427 to R429) -/

theorem execGetVersion_keeps {r : SpdmReq} {s : State} : s.Keeps (execGetVersion r s) := State.keeps_frame (by simp)

theorem execGetCapabilities_keeps {r : SpdmReq} {s : State} : s.Keeps (execGetCapabilities r s) := State.keeps_frame (by simp)

theorem execNegotiateAlgorithms_keeps {r : SpdmReq} {s : State} : s.Keeps (execNegotiateAlgorithms r s) := State.keeps_frame (by simp)

theorem execGetDigests_keeps {r : SpdmReq} {s : State} : s.Keeps (execGetDigests r s) := State.keeps_frame (by simp)

theorem execGetCertificate_keeps {r : SpdmReq} {s : State} : s.Keeps (execGetCertificate r s) := State.keeps_frame (by simp)

theorem execChallenge_keeps {r : SpdmReq} {s : State} : s.Keeps (execChallenge r s) := State.keeps_frame (by simp)

theorem execGetMeasurements_keeps {r : SpdmReq} {s : State} : s.Keeps (execGetMeasurements r s) := State.keeps_frame (by simp)

theorem execVendorDefinedRequest_keeps {r : SpdmReq} {s : State} : s.Keeps (execVendorDefinedRequest r s) := by
  refine State.keeps_frame (State.spdmServe_config fun t => ?_)
  dsimp only
  repeat' split
  all_goals simp

theorem execKeyExchange_keeps {r : SpdmReq} {s : State} : s.Keeps (execKeyExchange r s) := State.keeps_frame (by simp)

theorem execFinish_keeps {r : SpdmReq} {s : State} : s.Keeps (execFinish r s) := State.keeps_frame (by simp)

theorem execHeartbeat_keeps {r : SpdmReq} {s : State} : s.Keeps (execHeartbeat r s) := State.keeps_frame (by simp)

theorem execEndSession_keeps {r : SpdmReq} {s : State} : s.Keeps (execEndSession r s) := State.keeps_frame (by simp)

theorem execIdeKmMessage_keeps {r : SpdmReq} {s : State} : s.Keeps (execIdeKmMessage r s) := State.keeps_frameNext (by simp)

/-! ## PLDM (R374, R376) -/

theorem execPollForPlatformEventMessage_keeps {ack : Nat} {s : State} : s.Keeps (execPollForPlatformEventMessage ack s) :=
  State.keeps_frameNext (by simp)

theorem execSetEventReceiver_keeps {eid : Byte} {s : State} : s.Keeps (execSetEventReceiver eid s) := State.keeps_frameNext (by simp)

theorem execGetPdrRepositoryInfo_keeps {s : State} : s.Keeps (execGetPdrRepositoryInfo s) := State.keeps_frame (by simp)

theorem execGetPdr_keeps {record : Nat} {s : State} : s.Keeps (execGetPdr record s) := by
  refine State.keeps_frame ?_
  split <;> simp

theorem execGetSensorReading_keeps {id : Nat} {s : State} : s.Keeps (execGetSensorReading id s) := by
  refine State.keeps_frameNext (State.bmc_config fun t => ?_)
  split <;> simp

theorem execGetNumericEffecterValue_keeps {id : Nat} {s : State} : s.Keeps (execGetNumericEffecterValue id s) :=
  State.keeps_frameNext (by simp)

theorem execSetNumericEffecterValue_keeps {id value : Nat} {s : State} : s.Keeps (execSetNumericEffecterValue id value s) :=
  State.keeps_frameNext (by simp)

theorem execEntdaa_keeps {address : BitVec 7} {s : State} : s.Keeps (execEntdaa address s) := State.keeps_frameNext (by simp)

theorem execPldmBaseRequest_keeps {cmd : Byte} {body : List Byte} {s : State} : s.Keeps (execPldmBaseRequest cmd body s) :=
  State.keeps_frameNext (by simp)

/-! ## The test port (R443, R444) -/

theorem execTapReset_keeps {s : State} : s.Keeps (execTapReset s) := State.keeps_frame (State.setTap_config ..)

theorem execBypass_keeps {s : State} : s.Keeps (execBypass s) := State.keeps_frame (State.setTap_config ..)

theorem execIdcode_keeps {s : State} : s.Keeps (execIdcode s) := State.keeps_frame (State.setTap_config ..)

theorem execSamplePreload_keeps {s : State} : s.Keeps (execSamplePreload s) := State.keeps_frame (State.setTap_config ..)

theorem execExtest_keeps {s : State} : s.Keeps (execExtest s) := State.keeps_frame (State.setTap_config ..)

theorem execClamp_keeps {s : State} : s.Keeps (execClamp s) := State.keeps_frame (State.setTap_config ..)

theorem execHighz_keeps {s : State} : s.Keeps (execHighz s) := State.keeps_frame (State.setTap_config ..)

theorem execInstrNet_keeps {s : State} : s.Keeps (execInstrNet s) := State.keeps_frame (State.setTap_config ..)

/-! ## Every command and every step -/

theorem exec_keeps : ∀ (c : Instr) (s : State), s.Keeps (exec c s)
  | .nop .., _ => execNop_keeps
  | .bra .., _ => execBra_keeps
  | .brx .., _ => execBrx_keeps
  | .call .., _ => execCall_keeps
  | .exit .., _ => execExit_keeps
  | .bar .., _ => execBar_keeps
  | .rdsr .., _ => execRdsr_keeps
  | .iadd .., _ => execIadd_keeps
  | .isub .., _ => execIsub_keeps
  | .imul .., _ => execImul_keeps
  | .imulh .., _ => execImulh_keeps
  | .imad .., _ => execImad_keeps
  | .imin .., _ => execImin_keeps
  | .imax .., _ => execImax_keeps
  | .iabs .., _ => execIabs_keeps
  | .and .., _ => execAnd_keeps
  | .or .., _ => execOr_keeps
  | .xor .., _ => execXor_keeps
  | .shl .., _ => execShl_keeps
  | .shr .., _ => execShr_keeps
  | .sar .., _ => execSar_keeps
  | .popc .., _ => execPopc_keeps
  | .clz .., _ => execClz_keeps
  | .bfe .., _ => execBfe_keeps
  | .bfi .., _ => execBfi_keeps
  | .iaddi .., _ => execIaddi_keeps
  | .imuli .., _ => execImuli_keeps
  | .andi .., _ => execAndi_keeps
  | .ori .., _ => execOri_keeps
  | .xori .., _ => execXori_keeps
  | .shli .., _ => execShli_keeps
  | .shri .., _ => execShri_keeps
  | .sari .., _ => execSari_keeps
  | .movi .., _ => execMovi_keeps
  | .mov .., _ => execMov_keeps
  | .sel .., _ => execSel_keeps
  | .fadd .., _ => execFadd_keeps
  | .fsub .., _ => execFsub_keeps
  | .fmul .., _ => execFmul_keeps
  | .ffma .., _ => execFfma_keeps
  | .fmin .., _ => execFmin_keeps
  | .fmax .., _ => execFmax_keeps
  | .fabs .., _ => execFabs_keeps
  | .fneg .., _ => execFneg_keeps
  | .fdiv .., _ => execFdiv_keeps
  | .fsqrt .., _ => execFsqrt_keeps
  | .frcp .., _ => execFrcp_keeps
  | .frsq .., _ => execFrsq_keeps
  | .fexp2 .., _ => execFexp2_keeps
  | .flog2 .., _ => execFlog2_keeps
  | .ftanh .., _ => execFtanh_keeps
  | .fmuli .., _ => execFmuli_keeps
  | .fsin .., _ => execFsin_keeps
  | .fcos .., _ => execFcos_keeps
  | .isetp .., _ => execIsetp_keeps
  | .fsetp .., _ => execFsetp_keeps
  | .plop .., _ => execPlop_keeps
  | .i2f .., _ => execI2f_keeps
  | .f2i .., _ => execF2i_keeps
  | .cvt .., _ => execCvt_keeps
  | .ld .., _ => execLd_keeps
  | .st .., _ => execSt_keeps
  | .ldl .., _ => execLdl_keeps
  | .stl .., _ => execStl_keeps
  | .atom .., _ => execAtom_keeps
  | .fence .., _ => execFence_keeps
  | .gfeedr .., _ => execGfeedr_keeps
  | .gfeeds .., _ => execGfeeds_keeps
  | .gdrain .., _ => execGdrain_keeps
  | .greshape .., _ => execGreshape_keeps
  | .grelease .., _ => execGrelease_keeps
  | .spadd .., _ => execSpadd_keeps
  | .spwait .., _ => execSpwait_keeps
  | .sparrive .., _ => execSparrive_keeps
  | .spread .., _ => execSpread_keeps
  | .alloc .., _ => execAlloc_keeps
  | .free .., _ => execFree_keeps
  | .hput .., _ => execHput_keeps
  | .hget .., _ => execHget_keeps
  | .philox .., _ => execPhilox_keeps
  | .rnde .., _ => execRnde_keeps
  | .msend .., _ => execMsend_keeps
  | .mrecv .., _ => execMrecv_keeps
  | .pendingWriteLands .., _ => execPendingWriteLands_keeps
  | .sheafPlace .., _ => execSheafPlace_keeps
  | .sheafSwapOut .., _ => execSheafSwapOut_keeps
  | .sheafRestore .., _ => execSheafRestore_keeps
  | .feedAccepted .., _ => execFeedAccepted_keeps
  | .cellFire .., _ => execCellFire_keeps
  | .elementWisePair .., _ => execElementWisePair_keeps
  | .drainComplete .., _ => execDrainComplete_keeps
  | .checkerResult .., _ => execCheckerResult_keeps
  | .arbiterVerdict .., _ => execArbiterVerdict_keeps
  | .rowShift .., _ => execRowShift_keeps
  | .rowShiftDone .., _ => execRowShiftDone_keeps
  | .reshapeComplete .., _ => execReshapeComplete_keeps
  | .gangParityError .., _ => execGangParityError_keeps
  | .contextAbort .., _ => execContextAbort_keeps
  | .homeSliceAccess .., _ => execHomeSliceAccess_keeps
  | .fillArrives .., _ => execFillArrives_keeps
  | .orderedContribution .., _ => execOrderedContribution_keeps
  | .orderedRetry .., _ => execOrderedRetry_keeps
  | .orderedSequenceAbandon .., _ => execOrderedSequenceAbandon_keeps
  | .scrub .., _ => execScrub_keeps
  | .sparHomeOperation .., _ => execSparHomeOperation_keeps
  | .agentSparOperation .., _ => execAgentSparOperation_keeps
  | .chunkStart .., _ => execChunkStart_keeps
  | .contribution .., _ => execContribution_keeps
  | .engineApplyChunk .., _ => execEngineApplyChunk_keeps
  | .preBlockApply .., _ => execPreBlockApply_keeps
  | .rowCopyDone .., _ => execRowCopyDone_keeps
  | .parameterMessage .., _ => execParameterMessage_keeps
  | .blockStreamStart .., _ => execBlockStreamStart_keeps
  | .blockContribution .., _ => execBlockContribution_keeps
  | .escape .., _ => execEscape_keeps
  | .blockResult .., _ => execBlockResult_keeps
  | .ridgeSend .., _ => execRidgeSend_keeps
  | .ridge .., _ => execRidge_keeps
  | .void .., _ => execVoid_keeps
  | .replayStart .., _ => execReplayStart_keeps
  | .join .., _ => execJoin_keeps
  | .spareTakeover .., _ => execSpareTakeover_keeps
  | .ridgeTimeout .., _ => execRidgeTimeout_keeps
  | .ridgeOverdue .., _ => execRidgeOverdue_keeps
  | .checkpointStreamComplete .., _ => execCheckpointStreamComplete_keeps
  | .read .., _ => execRead_keeps
  | .write .., _ => execWrite_keeps
  | .atomic .., _ => execAtomic_keeps
  | .atomicOrd .., _ => execAtomicOrd_keeps
  | .readResp .., _ => execReadResp_keeps
  | .writeAck .., _ => execWriteAck_keeps
  | .atomicResp .., _ => execAtomicResp_keeps
  | .returnMsg .., _ => execReturnMsg_keeps
  | .nak .., _ => execNak_keeps
  | .messageForward .., _ => execMessageForward_keeps
  | .remoteTimeout .., _ => execRemoteTimeout_keeps
  | .flitReceive .., _ => execFlitReceive_keeps
  | .retryRequest .., _ => execRetryRequest_keeps
  | .berWindow .., _ => execBerWindow_keeps
  | .portTrainingComplete .., _ => execPortTrainingComplete_keeps
  | .vcStalled .., _ => execVcStalled_keeps
  | .violationScoreDecay, _ => execViolationScoreDecay_keeps
  | .reorderRelease .., _ => execReorderRelease_keeps
  | .queueNop .., _ => execQueueNop_keeps
  | .launch .., _ => execLaunch_keeps
  | .copy .., _ => execCopy_keeps
  | .fill .., _ => execFill_keeps
  | .reshape .., _ => execReshape_keeps
  | .sparadd .., _ => execSparadd_keeps
  | .ctxcreate .., _ => execCtxcreate_keeps
  | .ctxdestroy .., _ => execCtxdestroy_keeps
  | .ctxrecover .., _ => execCtxrecover_keeps
  | .codeload .., _ => execCodeload_keeps
  | .codeunload .., _ => execCodeunload_keeps
  | .oalloc .., _ => execOalloc_keeps
  | .ofree .., _ => execOfree_keeps
  | .oshare .., _ => execOshare_keeps
  | .odrop .., _ => execOdrop_keeps
  | .ocopy .., _ => execOcopy_keeps
  | .query .., _ => execQuery_keeps
  | .entryFetch .., _ => execEntryFetch_keeps
  | .entryFinish .., _ => execEntryFinish_keeps
  | .completionPost .., _ => execCompletionPost_keeps
  | .modtimeExpires .., _ => execModtimeExpires_keeps
  | .pageIn .., _ => execPageIn_keeps
  | .destructionComplete .., _ => execDestructionComplete_keeps
  | .hqDbsq .., _ => execHqDbsq_keeps
  | .hqDbcq .., _ => execHqDbcq_keeps
  | .queueEnable .., _ => execQueueEnable_keeps
  | .queueDisable .., _ => execQueueDisable_keeps
  | .mailboxSend .., _ => execMailboxSend_keeps
  | .inboundGoClear .., _ => execInboundGoClear_keeps
  | .channelOpenWrite .., _ => execChannelOpenWrite_keeps
  | .mcAccept .., _ => execMcAccept_keeps
  | .mcAnswer .., _ => execMcAnswer_keeps
  | .secureClaim .., _ => execSecureClaim_keeps
  | .sparCreate .., _ => execSparCreate_keeps
  | .sparMap .., _ => execSparMap_keeps
  | .sparUnmap .., _ => execSparUnmap_keeps
  | .sparDestroy .., _ => execSparDestroy_keeps
  | .sparRead .., _ => execSparRead_keeps
  | .sparSet .., _ => execSparSet_keeps
  | .jobLoad .., _ => execJobLoad_keeps
  | .jobUnload .., _ => execJobUnload_keeps
  | .forceVoid .., _ => execForceVoid_keeps
  | .membershipReload .., _ => execMembershipReload_keeps
  | .replay .., _ => execReplay_keeps
  | .skip .., _ => execSkip_keeps
  | .checkpointRegister .., _ => execCheckpointRegister_keeps
  | .resume .., _ => execResume_keeps
  | .restore .., _ => execRestore_keeps
  | .restoreFromBuddy .., _ => execRestoreFromBuddy_keeps
  | .hoardRelease .., _ => execHoardRelease_keeps
  | .errCodeClear .., _ => execErrCodeClear_keeps
  | .windowEntryEnable .., _ => execWindowEntryEnable_keeps
  | .windowEntryInvalidate .., _ => execWindowEntryInvalidate_keeps
  | .windowInvalidateDone .., _ => execWindowInvalidateDone_keeps
  | .quarantineClear .., _ => execQuarantineClear_keeps
  | .retrain .., _ => execRetrain_keeps
  | .injPctlWrite .., _ => execInjPctlWrite_keeps
  | .injPseedWrite .., _ => execInjPseedWrite_keeps
  | .signatureRingEnable .., _ => execSignatureRingEnable_keeps
  | .powerCapWrite .., _ => execPowerCapWrite_keeps
  | .ctxKill .., _ => execCtxKill_keeps
  | .fullLoad .., _ => execFullLoad_keeps
  | .partitionLoad .., _ => execPartitionLoad_keeps
  | .trussApply, _ => execTrussApply_keeps
  | .shutdown .., _ => execShutdown_keeps
  | .flr .., _ => execFlr_keeps
  | .vfEnableClear, _ => execVfEnableClear_keeps
  | .shutdownComplete .., _ => execShutdownComplete_keeps
  | .functionWedged .., _ => execFunctionWedged_keeps
  | .functionEnable .., _ => execFunctionEnable_keeps
  | .erase .., _ => execErase_keeps
  | .eraseComplete .., _ => execEraseComplete_keeps
  | .fullreset .., _ => execFullreset_keeps
  | .conventionalReset, _ => execConventionalReset_keeps
  | .cxlReset, _ => execCxlReset_keeps
  | .cxlMemRead .., _ => execCxlMemRead_keeps
  | .cxlMemWrite .., _ => execCxlMemWrite_keeps
  | .splitWriteTimeout .., _ => execSplitWriteTimeout_keeps
  | .splitReadLow .., _ => execSplitReadLow_keeps
  | .registerWrite .., _ => execRegisterWrite_keeps
  | .bootMailboxSend .., _ => execBootMailboxSend_keeps
  | .doeBootChunk .., _ => execDoeBootChunk_keeps
  | .firmwareVerify, _ => execFirmwareVerify_keeps
  | .bootImageApply, _ => execBootImageApply_keeps
  | .memoryTrainingComplete .., _ => execMemoryTrainingComplete_keeps
  | .fabricBringupComplete, _ => execFabricBringupComplete_keeps
  | .identityKeysReady .., _ => execIdentityKeysReady_keeps
  | .getVersion .., _ => execGetVersion_keeps
  | .getCapabilities .., _ => execGetCapabilities_keeps
  | .negotiateAlgorithms .., _ => execNegotiateAlgorithms_keeps
  | .getDigests .., _ => execGetDigests_keeps
  | .getCertificate .., _ => execGetCertificate_keeps
  | .challenge .., _ => execChallenge_keeps
  | .getMeasurements .., _ => execGetMeasurements_keeps
  | .keyExchange .., _ => execKeyExchange_keeps
  | .finish .., _ => execFinish_keeps
  | .heartbeat .., _ => execHeartbeat_keeps
  | .endSession .., _ => execEndSession_keeps
  | .vendorDefinedRequest .., _ => execVendorDefinedRequest_keeps
  | .getPdrRepositoryInfo, _ => execGetPdrRepositoryInfo_keeps
  | .getPdr .., _ => execGetPdr_keeps
  | .getSensorReading .., _ => execGetSensorReading_keeps
  | .getNumericEffecterValue .., _ => execGetNumericEffecterValue_keeps
  | .setNumericEffecterValue .., _ => execSetNumericEffecterValue_keeps
  | .setEventReceiver .., _ => execSetEventReceiver_keeps
  | .pollForPlatformEventMessage .., _ => execPollForPlatformEventMessage_keeps
  | .entdaa .., _ => execEntdaa_keeps
  | .powerBudgetTick .., _ => execPowerBudgetTick_keeps
  | .courseStandby .., _ => execCourseStandby_keeps
  | .courseOff .., _ => execCourseOff_keeps
  | .courseWakeComplete .., _ => execCourseWakeComplete_keeps
  | .pacingInterval .., _ => execPacingInterval_keeps
  | .temperatureSample .., _ => execTemperatureSample_keeps
  | .thermalTripTimeout .., _ => execThermalTripTimeout_keeps
  | .hbmStackTemperature .., _ => execHbmStackTemperature_keeps
  | .deliverySense .., _ => execDeliverySense_keeps
  | .deliveryThrottleEnd, _ => execDeliveryThrottleEnd_keeps
  | .courseSupplyFault .., _ => execCourseSupplyFault_keeps
  | .vinMainOutOfLimits .., _ => execVinMainOutOfLimits_keeps
  | .vinMainLoss, _ => execVinMainLoss_keeps
  | .vinMainStable .., _ => execVinMainStable_keeps
  | .vinAonApplied .., _ => execVinAonApplied_keeps
  | .vinAonLoss, _ => execVinAonLoss_keeps
  | .pmbusPoll .., _ => execPmbusPoll_keeps
  | .energySample .., _ => execEnergySample_keeps
  | .contextEnergyWriteback .., _ => execContextEnergyWriteback_keeps
  | .clockStop, _ => execClockStop_keeps
  | .clockReturn, _ => execClockReturn_keeps
  | .tapReset, _ => execTapReset_keeps
  | .bypass, _ => execBypass_keeps
  | .idcode, _ => execIdcode_keeps
  | .samplePreload, _ => execSamplePreload_keeps
  | .extest, _ => execExtest_keeps
  | .clamp, _ => execClamp_keeps
  | .highz, _ => execHighz_keeps
  | .instrNet, _ => execInstrNet_keeps
  | .vinMainReturnsWithinLimits .., _ => execVinMainReturnsWithinLimits_keeps
  | .pldmBaseRequest .., _ => execPldmBaseRequest_keeps
  | .ideKmMessage .., _ => execIdeKmMessage_keeps

/-- Settles O59: with no command waiting the configuration stays as it is, and every command keeps R357. Most commands leave the
configuration alone; an image waits only once it has passed the checks, against the configuration that is then in force. -/
theorem partitionsKept : Obligations.PartitionsKept := by
  unfold Obligations.PartitionsKept
  intro s t hs hstep
  unfold step at hstep
  split at hstep
  · obtain rfl := Host.Outcome.next.inj hstep
    exact hs.of_config (idle_config s)
  · next c rest _ =>
    have hrest : ({ s with pending := rest } : State).Partitioned := hs.of_config rfl
    exact exec_keeps c _ hrest t hstep

end Sys2Proof.Machine

/-! SUPPORT. The queue of commands, the state that reset leaves, and the completeness of the commands. -/

namespace Sys2Proof.Machine

/-- Two folds over one list agree where their functions do on the list's elements. -/
theorem foldl_eq_of_mem {α β : Type} {f g : α → β → α} {l : List β} {a : α} (h : ∀ a, ∀ b ∈ l, f a b = g a b) : l.foldl f a = l.foldl g a := by
  induction l generalizing a with
  | nil => rfl
  | cons b l ih =>
    rw [List.foldl_cons, List.foldl_cons, h a b (List.mem_cons_self ..)]
    exact ih fun a x hx => h a x (List.mem_cons_of_mem _ hx)

theorem ite_eq_of_iff {α : Type} {p q : Prop} [Decidable p] [Decidable q] (h : p ↔ q) (x y : α) : (if p then x else y) = if q then x else y :=
  ite_congr (propext h) (fun _ => rfl) fun _ => rfl

/-- A partial function that answers on every element of a list maps it. -/
theorem filterMap_eq_map_of_mem {α β : Type} {f : α → Option β} {g : α → β} {l : List α} (h : ∀ a ∈ l, f a = some (g a)) : l.filterMap f = l.map g := by
  induction l with
  | nil => rfl
  | cons a l ih => rw [List.filterMap_cons_some (h a (List.mem_cons_self ..)), ih fun x hx => h x (List.mem_cons_of_mem _ hx), List.map_cons]

/-- Settles O55: both clauses are the two cases of `step`. -/
theorem stepRunsTheFront : Obligations.StepRunsTheFront := by
  unfold Obligations.StepRunsTheFront
  refine ⟨fun c rest s => rfl, fun s hs => ?_⟩
  simp [step, hs, idle]

/-- Every arm of `exec` ends in the check of its own command: the state decides what the command does, never whether it completes. -/
theorem exec_eq_doneIf (c : Instr) (s : State) : ∃ t, exec c s = doneIf c.wellFormed t := by
  cases c <;> exact ⟨_, rfl⟩

/-- Settles O57, by the common form of the arms. -/
theorem commandsComplete : Obligations.CommandsComplete := by
  unfold Obligations.CommandsComplete
  intro c s
  obtain ⟨t, ht⟩ := exec_eq_doneIf c s
  exact ⟨fun h => ⟨t, by rw [ht, doneIf, if_pos h]⟩, fun h => by rw [ht, doneIf, if_neg (by simp [h])]⟩

/-- Settles O56, unit by unit: reset lists no unit, so each one is in the state of an idle unit. -/
theorem resetState : Obligations.ResetState := by
  unfold Obligations.ResetState
  refine ⟨rfl, rfl, rfl, rfl, fun n => ?_, rfl, ?_, rfl, rfl, fun k => ⟨rfl, fun i r => ?_⟩, rfl, rfl, fun c => ?_, fun p => ?_, ?_, ?_, ?_,
    rfl, rfl, rfl, rfl, rfl, rfl, rfl, rfl, ?_⟩
  · by_cases hn : n = 0
    · subst hn; exact ⟨rfl, rfl, rfl, rfl⟩
    · have hfn : State.reset.fn n = Fn.idle := by simp [State.fn, State.reset, Map.getD, Map.get?, Ne.symm hn]
      simp [hfn, hn, Fn.idle]
  · exact State.partitioned_reset
  · rfl
  · exact ⟨rfl, rfl, rfl⟩
  · exact ⟨rfl, rfl⟩
  · exact reset_memory_wf
  · exact ⟨reset_memory_wf, rfl, fun x hx => nomatch hx⟩
  · intro a ha
    show State.reset.memByte a = 0
    simp [State.memByte, ha, State.reset, Mem.reset, Map.getD, Map.get?]
  · rfl

end Sys2Proof.Machine

/-! SUPPORT. The lane and XU instructions, compares and conversions (R113 to R116, R129 to R131): the words that they compute, one completeness
lemma for each number of operands, and the rows of the instruction tables. -/

namespace Sys2Proof.Machine

/-! ## The words that the integer instructions compute (R116) -/

theorem iminWord_eq (t : Bool) (a b : Word) : iminWord t a b = if (if t then b.slt a else b.ult a) then b else a := by
  cases t <;> simp [iminWord, icmp, Nat.compare_eq_gt, Int.compare_eq_gt, BitVec.slt, BitVec.ult]

theorem imaxWord_eq (t : Bool) (a b : Word) : imaxWord t a b = if (if t then a.slt b else a.ult b) then b else a := by
  cases t <;> simp [imaxWord, icmp, Nat.compare_eq_lt, Int.compare_eq_lt, BitVec.slt, BitVec.ult]

theorem shlWord_eq (a b : Word) : shlWord a b = a <<< b.toNat := by
  unfold shlWord
  split
  · exact (BitVec.shiftLeft_eq_zero (by assumption)).symm
  · rfl

theorem shrWord_eq (a b : Word) : shrWord a b = a >>> b.toNat := by
  unfold shrWord
  split
  · exact (BitVec.ushiftRight_eq_zero (by assumption)).symm
  · rfl

theorem sarWord_eq (a b : Word) : sarWord a b = a.sshiftRight b.toNat := by
  unfold sarWord
  by_cases h : b.toNat ≤ 32
  · rw [Nat.min_eq_left h]
  · rw [Nat.min_eq_right (by omega)]
    ext i hi
    have h1 : ¬ 32 + i < 32 := by omega
    have h2 : ¬ b.toNat + i < 32 := by omega
    rw [BitVec.getElem_sshiftRight, BitVec.getElem_sshiftRight, dif_neg h1, dif_neg h2]

theorem popCount_eq_countP (n v : Nat) : popCount n v = (List.range n).countP v.testBit := by
  induction n with
  | zero => rfl
  | succ n ih => simp [popCount, List.range_succ, List.countP_append, ih, List.countP_cons]

theorem countP_ge_range (m n : Nat) : (List.range n).countP (fun k => decide (m ≤ k)) = n - m := by
  induction n with
  | zero => simp
  | succ n ih =>
    rw [List.range_succ, List.countP_append, ih]
    by_cases h : m ≤ n
    · simp [h]; omega
    · simp [h]; omega

theorem popcWord_eq (a : Word) : popcWord a = BitVec.ofNat 32 ((List.range 32).countP a.getLsbD) := by
  rw [popcWord, popCount_eq_countP]
  rfl

theorem clzWord_eq (a : Word) : clzWord a = BitVec.ofNat 32 ((List.range 32).countP (fun k => decide (a.toNat < 2 ^ k))) := by
  unfold clzWord
  split
  · subst_vars; decide
  · next h =>
    have h0 : a.toNat ≠ 0 := fun h' => h (BitVec.eq_of_toNat_eq (by simpa using h'))
    have hk : ∀ k, decide (a.toNat < 2 ^ k) = decide (a.toNat.log2 + 1 ≤ k) := fun k => by
      rw [decide_eq_decide, ← Nat.log2_lt h0, Nat.lt_iff_add_one_le]
    simp only [hk, countP_ge_range]
    rw [show 32 - (a.toNat.log2 + 1) = 31 - a.toNat.log2 by omega]

theorem toInt_extractLsb' {n : Nat} (p : Nat) (a : Word) :
    (a.extractLsb' p n).toInt = signedOf n ((a.toNat >>> p) % 2 ^ n) := by
  rw [BitVec.toInt_eq_msb_cond, BitVec.msb_eq_getLsbD_last]
  simp only [BitVec.extractLsb', BitVec.getLsbD_ofNat, BitVec.toNat_ofNat, signedOf, Nat.testBit_mod_two_pow]
  simp

theorem bfeWord_eq (t : Bool) (a b c : Word) : bfeWord t a b c =
      let p := b.toNat % 32
      let n := min (c.toNat % 64) (32 - p)
      if t then (a.extractLsb' p n).signExtend 32 else (a.extractLsb' p n).setWidth 32 := by
  simp only [bfeWord]
  generalize min (c.toNat % 64) (32 - b.toNat % 32) = n
  generalize b.toNat % 32 = p
  have hu : BitVec.ofNat 32 ((a.toNat >>> p) % 2 ^ n) = (a.extractLsb' p n).setWidth 32 := by
    apply BitVec.eq_of_toNat_eq
    simp [BitVec.extractLsb']
  cases t with
  | false => simpa using hu
  | true =>
    simp only [true_and, if_true, BitVec.signExtend, toInt_extractLsb' p a]
    by_cases hn : n = 0
    · subst hn; simp [signedOf, Nat.mod_one]
    · simp [hn]

theorem bfiWord_eq (d a b c : Word) : bfiWord d a b c =
      let p := b.toNat % 32
      let n := min (c.toNat % 64) (32 - p)
      let mask : Word := (BitVec.allOnes n).setWidth 32 <<< p
      (d &&& ~~~mask) ||| ((a <<< p) &&& mask) := by
  simp only [bfiWord]
  generalize min (c.toNat % 64) (32 - b.toNat % 32) = n
  generalize b.toNat % 32 = p
  have hmask : BitVec.ofNat 32 ((2 ^ n - 1) <<< p) = (BitVec.allOnes n).setWidth 32 <<< p := by
    apply BitVec.eq_of_toNat_eq
    have hall : ((BitVec.allOnes n).setWidth 32).toNat = (2 ^ n - 1) % 2 ^ 32 := by simp
    rw [BitVec.toNat_shiftLeft, hall, BitVec.toNat_ofNat, Nat.shiftLeft_eq, Nat.shiftLeft_eq, Nat.mod_mul_mod]
  have ha : BitVec.ofNat 32 (a.toNat <<< p) = a <<< p := by
    apply BitVec.eq_of_toNat_eq
    simp [BitVec.toNat_shiftLeft]
  rw [hmask, ha]


end Sys2Proof.Machine

namespace Sys2Proof.Claims

open Sys2Proof.Machine

/-! ## A row of the tables at every legal encoding -/

/-- A row of the lanes completes at every legal encoding, with its result. -/
def LaneRow.InLanes (r : LaneRow) : Prop :=
  ∀ (s : State) (i : Issue) (f : FormT) (srcs : List Reg) (d : Reg),
    s.Leads i → guardLegal f.guard → f.type.toNat ≤ r.types → f.mod = 0 → sourcesOf f r.reads = some srcs → specifier f.dst = some d →
    ∃ t, exec (r.cmd i f) s = .next t ∧ s.LaneResult t i (formOf f.guard false srcs [d]) d (r.of s i.core f srcs)

/-- A row of the XU completes at every legal encoding, with its result pending. -/
def LaneRow.InXu (r : LaneRow) : Prop :=
  ∀ (s : State) (i : Issue) (f : FormT) (srcs : List Reg) (d : Reg),
    s.Leads i → guardLegal f.guard → f.type.toNat ≤ r.types → f.mod = 0 → sourcesOf f r.reads = some srcs → specifier f.dst = some d →
    ∃ t, exec (r.cmd i f) s = .next t ∧ s.XuResult t i (formOf f.guard false srcs [d]) [d] (fun m => [r.of s i.core f srcs m])

theorem sourcesOf_one {f : FormT} {l : List Reg} (h : sourcesOf f 1 = some l) :
    ∃ a, l = [a] ∧ f.sb = 0 ∧ f.sc = 0 ∧ specifier f.sa = some a := by
  simp only [sourcesOf, Option.ite_none_right_eq_some, Option.map_eq_some_iff] at h
  obtain ⟨⟨hb, hc⟩, a, ha, rfl⟩ := h
  exact ⟨a, rfl, hb, hc, ha⟩

theorem sourcesOf_two {f : FormT} {l : List Reg} (h : sourcesOf f 2 = some l) :
    ∃ a b, l = [a, b] ∧ f.sc = 0 ∧ specifier f.sa = some a ∧ specifier f.sb = some b := by
  simp only [sourcesOf, Option.ite_none_right_eq_some, Option.bind_eq_some_iff, Option.map_eq_some_iff] at h
  obtain ⟨hc, a, ha, b, hb, rfl⟩ := h
  exact ⟨a, b, rfl, hc, ha, hb⟩

theorem sourcesOf_three {f : FormT} {l : List Reg} (h : sourcesOf f 3 = some l) :
    ∃ a b c, l = [a, b, c] ∧ specifier f.sa = some a ∧ specifier f.sb = some b ∧ specifier f.sc = some c := by
  simp only [sourcesOf, Option.bind_eq_some_iff, Option.map_eq_some_iff] at h
  obtain ⟨a, ha, b, hb, c, hc, rfl⟩ := h
  exact ⟨a, b, c, rfl, ha, hb, hc⟩

section
variable {s : State} {i : Issue} {f : FormT} {opc : Nat} {legal : Bool} {d : Reg}

theorem t1_lane {a : Reg} (g : Word → Word) (hl : s.Leads i) (hg : guardLegal f.guard) (hleg : legal = true) (hmod : f.mod = 0) (hb : f.sb = 0)
    (hc : f.sc = 0) (ha : specifier f.sa = some a) (hd : specifier f.dst = some d) :
    s.LaneResult (t1 false opc i f legal g s) i (formOf f.guard false [a] [d]) d (fun m => g (s.regOf i.core m a)) := by
  refine State.compute_lane_val s i f.guard _ _ false _ [[a]] _ d _ _ _ hl hg (by simp [hleg, hmod, hb, hc]) (by simp [regs_specifier ha])
    (regs_specifier hd) (by simp [formOf]) (fun m _ sl hs => ?_)
  simp [opnd, State.regOf_slot hs]

theorem t2_lane {a b : Reg} (g : Word → Word → Word) (hl : s.Leads i) (hg : guardLegal f.guard) (hleg : legal = true) (hmod : f.mod = 0)
    (hc : f.sc = 0) (ha : specifier f.sa = some a) (hb : specifier f.sb = some b) (hd : specifier f.dst = some d) :
    s.LaneResult (t2 false opc i f legal g s) i (formOf f.guard false [a, b] [d]) d
      (fun m => g (s.regOf i.core m a) (s.regOf i.core m b)) := by
  refine State.compute_lane_val s i f.guard _ _ false _ [[a], [b]] _ d _ _ _ hl hg (by simp [hleg, hmod, hc])
    (by simp [regs_specifier ha, regs_specifier hb]) (regs_specifier hd) (by simp [formOf]) (fun m _ sl hs => ?_)
  simp [opnd, State.regOf_slot hs]

theorem t3_lane {a b c : Reg} (g : Word → Word → Word → Word) (hl : s.Leads i) (hg : guardLegal f.guard) (hleg : legal = true) (hmod : f.mod = 0)
    (ha : specifier f.sa = some a) (hb : specifier f.sb = some b) (hc : specifier f.sc = some c) (hd : specifier f.dst = some d) :
    s.LaneResult (t3 opc i f legal g s) i (formOf f.guard false [a, b, c] [d]) d
      (fun m => g (s.regOf i.core m a) (s.regOf i.core m b) (s.regOf i.core m c)) := by
  refine State.compute_lane_val s i f.guard _ _ false _ [[a], [b], [c]] _ d _ _ _ hl hg (by simp [hleg, hmod])
    (by simp [regs_specifier ha, regs_specifier hb, regs_specifier hc]) (regs_specifier hd) (by simp [formOf]) (fun m _ sl hs => ?_)
  simp [opnd, State.regOf_slot hs]

theorem t1_xu {a : Reg} (g : Word → Word) (hl : s.Leads i) (hg : guardLegal f.guard) (hleg : legal = true) (hmod : f.mod = 0) (hb : f.sb = 0)
    (hc : f.sc = 0) (ha : specifier f.sa = some a) (hd : specifier f.dst = some d) :
    s.XuResult (t1 true opc i f legal g s) i (formOf f.guard false [a] [d]) [d] (fun m => [g (s.regOf i.core m a)]) := by
  refine State.compute_xu_val s i f.guard _ _ false _ [[a]] _ [d] _ _ _ hl hg (by simp [hleg, hmod, hb, hc]) (by simp [regs_specifier ha])
    (regs_specifier hd) (by simp [formOf]) (fun m _ sl hs => ?_)
  simp [opnd, State.regOf_slot hs, wordsOfNat]

theorem t2_xu {a b : Reg} (g : Word → Word → Word) (hl : s.Leads i) (hg : guardLegal f.guard) (hleg : legal = true) (hmod : f.mod = 0)
    (hc : f.sc = 0) (ha : specifier f.sa = some a) (hb : specifier f.sb = some b) (hd : specifier f.dst = some d) :
    s.XuResult (t2 true opc i f legal g s) i (formOf f.guard false [a, b] [d]) [d]
      (fun m => [g (s.regOf i.core m a) (s.regOf i.core m b)]) := by
  refine State.compute_xu_val s i f.guard _ _ false _ [[a], [b]] _ [d] _ _ _ hl hg (by simp [hleg, hmod, hc])
    (by simp [regs_specifier ha, regs_specifier hb]) (regs_specifier hd) (by simp [formOf]) (fun m _ sl hs => ?_)
  simp [opnd, State.regOf_slot hs, wordsOfNat]

end

/-! ## Rows from the forms -/

/-- The field TYPE is legal where it does not exceed the largest type of the row. -/
def LaneRow.typeLegal (r : LaneRow) (f : FormT) : Bool := decide (f.type.toNat ≤ r.types)

theorem untyped_eq (f : FormT) : untyped f = decide (f.type.toNat ≤ 0) := by
  unfold untyped
  rw [Bool.eq_iff_iff]
  simp [BitVec.toNat_eq]

section
variable {r : LaneRow} {opc : Nat} {legal : FormT → Bool}

theorem LaneRow.InLanes.one (g : Bool → Word → Word)
    (hexec : ∀ i f s, exec (r.cmd i f) s = done (r.cmd i f) (t1 false opc i f (legal f) (g (isSigned f)) s))
    (hlegal : ∀ f, legal f = r.typeLegal f) (hreads : r.reads = 1)
    (hwf : ∀ i f, (r.cmd i f).wellFormed = i.ok) (hres : ∀ t a b c, r.result t a b c = g t a) : r.InLanes := by
  intro s i f srcs d hl hg ht hm hs hd
  rw [hreads] at hs
  obtain ⟨a, rfl, hb, hc, ha⟩ := sourcesOf_one hs
  refine ⟨_, (hexec i f s).trans (done_next ((hwf i f).trans hl.ok)), ?_⟩
  have hof : r.of s i.core f [a] = fun m => g (isSigned f) (s.regOf i.core m a) := funext fun m => hres ..
  rw [hof]
  exact t1_lane _ hl hg (by simpa [hlegal, LaneRow.typeLegal] using ht) hm hb hc ha hd

theorem LaneRow.InLanes.two (g : Bool → Word → Word → Word)
    (hexec : ∀ i f s, exec (r.cmd i f) s = done (r.cmd i f) (t2 false opc i f (legal f) (g (isSigned f)) s))
    (hlegal : ∀ f, legal f = r.typeLegal f) (hreads : r.reads = 2)
    (hwf : ∀ i f, (r.cmd i f).wellFormed = i.ok) (hres : ∀ t a b c, r.result t a b c = g t a b) : r.InLanes := by
  intro s i f srcs d hl hg ht hm hs hd
  rw [hreads] at hs
  obtain ⟨a, b, rfl, hc, ha, hb⟩ := sourcesOf_two hs
  refine ⟨_, (hexec i f s).trans (done_next ((hwf i f).trans hl.ok)), ?_⟩
  have hof : r.of s i.core f [a, b] = fun m => g (isSigned f) (s.regOf i.core m a) (s.regOf i.core m b) := funext fun m => hres ..
  rw [hof]
  exact t2_lane _ hl hg (by simpa [hlegal, LaneRow.typeLegal] using ht) hm hc ha hb hd

theorem LaneRow.InLanes.three (g : Bool → Word → Word → Word → Word)
    (hexec : ∀ i f s, exec (r.cmd i f) s = done (r.cmd i f) (t3 opc i f (legal f) (g (isSigned f)) s))
    (hlegal : ∀ f, legal f = r.typeLegal f) (hreads : r.reads = 3)
    (hwf : ∀ i f, (r.cmd i f).wellFormed = i.ok) (hres : ∀ t a b c, r.result t a b c = g t a b c) : r.InLanes := by
  intro s i f srcs d hl hg ht hm hs hd
  rw [hreads] at hs
  obtain ⟨a, b, c, rfl, ha, hb, hc⟩ := sourcesOf_three hs
  refine ⟨_, (hexec i f s).trans (done_next ((hwf i f).trans hl.ok)), ?_⟩
  have hof : r.of s i.core f [a, b, c] = fun m => g (isSigned f) (s.regOf i.core m a) (s.regOf i.core m b) (s.regOf i.core m c) :=
    funext fun m => hres ..
  rw [hof]
  exact t3_lane _ hl hg (by simpa [hlegal, LaneRow.typeLegal] using ht) hm ha hb hc hd

theorem LaneRow.InXu.one (g : Bool → Word → Word)
    (hexec : ∀ i f s, exec (r.cmd i f) s = done (r.cmd i f) (t1 true opc i f (legal f) (g (isSigned f)) s))
    (hlegal : ∀ f, legal f = r.typeLegal f) (hreads : r.reads = 1)
    (hwf : ∀ i f, (r.cmd i f).wellFormed = i.ok) (hres : ∀ t a b c, r.result t a b c = g t a) : r.InXu := by
  intro s i f srcs d hl hg ht hm hs hd
  rw [hreads] at hs
  obtain ⟨a, rfl, hb, hc, ha⟩ := sourcesOf_one hs
  refine ⟨_, (hexec i f s).trans (done_next ((hwf i f).trans hl.ok)), ?_⟩
  have hof : r.of s i.core f [a] = fun m => g (isSigned f) (s.regOf i.core m a) := funext fun m => hres ..
  rw [hof]
  exact t1_xu _ hl hg (by simpa [hlegal, LaneRow.typeLegal] using ht) hm hb hc ha hd

theorem LaneRow.InXu.two (g : Bool → Word → Word → Word)
    (hexec : ∀ i f s, exec (r.cmd i f) s = done (r.cmd i f) (t2 true opc i f (legal f) (g (isSigned f)) s))
    (hlegal : ∀ f, legal f = r.typeLegal f) (hreads : r.reads = 2)
    (hwf : ∀ i f, (r.cmd i f).wellFormed = i.ok) (hres : ∀ t a b c, r.result t a b c = g t a b) : r.InXu := by
  intro s i f srcs d hl hg ht hm hs hd
  rw [hreads] at hs
  obtain ⟨a, b, rfl, hc, ha, hb⟩ := sourcesOf_two hs
  refine ⟨_, (hexec i f s).trans (done_next ((hwf i f).trans hl.ok)), ?_⟩
  have hof : r.of s i.core f [a, b] = fun m => g (isSigned f) (s.regOf i.core m a) (s.regOf i.core m b) := funext fun m => hres ..
  rw [hof]
  exact t2_xu _ hl hg (by simpa [hlegal, LaneRow.typeLegal] using ht) hm hc ha hb hd

end

theorem integerLanes : IntegerLanes := by
  show ∀ r ∈ integerRows, r.InLanes
  simp only [integerRows, List.forall_mem_cons]
  refine ⟨?_, ?_, ?_, ?_, ?_, ?_, ?_, ?_, ?_, ?_, ?_, ?_, ?_, ?_, ?_, fun _ h => nomatch h⟩
  · exact .two (fun _ a b => a + b) (fun _ _ _ => rfl) untyped_eq rfl (fun _ _ => rfl) (fun _ _ _ _ => rfl)
  · exact .two (fun _ a b => a - b) (fun _ _ _ => rfl) untyped_eq rfl (fun _ _ => rfl) (fun _ _ _ _ => rfl)
  · exact .two (fun _ a b => a * b) (fun _ _ _ => rfl) untyped_eq rfl (fun _ _ => rfl) (fun _ _ _ _ => rfl)
  · exact .two (imulhWord) (fun _ _ _ => rfl) (fun _ => rfl) rfl (fun _ _ => rfl) (fun _ _ _ _ => rfl)
  · exact .three (fun _ a b c => a * b + c) (fun _ _ _ => rfl) untyped_eq rfl (fun _ _ => rfl) (fun _ _ _ _ => rfl)
  · exact .two (iminWord) (fun _ _ _ => rfl) (fun _ => rfl) rfl (fun _ _ => rfl) (fun t a b _ => (iminWord_eq t a b).symm)
  · exact .two (imaxWord) (fun _ _ _ => rfl) (fun _ => rfl) rfl (fun _ _ => rfl) (fun t a b _ => (imaxWord_eq t a b).symm)
  · exact .one (fun _ => iabsWord) (fun _ _ _ => rfl) untyped_eq rfl (fun _ _ => rfl) (fun _ _ _ _ => rfl)
  · exact .two (fun _ a b => a &&& b) (fun _ _ _ => rfl) untyped_eq rfl (fun _ _ => rfl) (fun _ _ _ _ => rfl)
  · exact .two (fun _ a b => a ||| b) (fun _ _ _ => rfl) untyped_eq rfl (fun _ _ => rfl) (fun _ _ _ _ => rfl)
  · exact .two (fun _ a b => a ^^^ b) (fun _ _ _ => rfl) untyped_eq rfl (fun _ _ => rfl) (fun _ _ _ _ => rfl)
  · exact .two (fun _ => shlWord) (fun _ _ _ => rfl) untyped_eq rfl (fun _ _ => rfl) (fun _ a b _ => (shlWord_eq a b).symm)
  · exact .two (fun _ => shrWord) (fun _ _ _ => rfl) untyped_eq rfl (fun _ _ => rfl) (fun _ a b _ => (shrWord_eq a b).symm)
  · exact .two (fun _ => sarWord) (fun _ _ _ => rfl) untyped_eq rfl (fun _ _ => rfl) (fun _ a b _ => (sarWord_eq a b).symm)
  · exact .one (fun _ a => a) (fun _ _ _ => rfl) untyped_eq rfl (fun _ _ => rfl) (fun _ _ _ _ => rfl)

theorem bitLanes : BitLanes := by
  show ∀ r ∈ bitRows, r.InLanes
  simp only [bitRows, List.forall_mem_cons]
  refine ⟨?_, ?_, ?_, fun _ h => nomatch h⟩
  · exact .one (fun _ => popcWord) (fun _ _ _ => rfl) untyped_eq rfl (fun _ _ => rfl) (fun _ a _ _ => (popcWord_eq a).symm)
  · exact .one (fun _ => clzWord) (fun _ _ _ => rfl) untyped_eq rfl (fun _ _ => rfl) (fun _ a _ _ => (clzWord_eq a).symm)
  · exact .three (bfeWord) (fun _ _ _ => rfl) (fun _ => rfl) rfl (fun _ _ => rfl) (fun t a b c => (bfeWord_eq t a b c).symm)

theorem floatLanes : FloatLanes := by
  show ∀ r ∈ floatRows, r.InLanes
  simp only [floatRows, List.forall_mem_cons]
  refine ⟨?_, ?_, ?_, ?_, ?_, ?_, ?_, ?_, ?_, ?_, fun _ h => nomatch h⟩
  · exact .two (fun _ => fadd32) (fun _ _ _ => rfl) untyped_eq rfl (fun _ _ => rfl) (fun _ _ _ _ => rfl)
  · exact .two (fun _ => fsub32) (fun _ _ _ => rfl) untyped_eq rfl (fun _ _ => rfl) (fun _ _ _ _ => rfl)
  · exact .two (fun _ => fmul32) (fun _ _ _ => rfl) untyped_eq rfl (fun _ _ => rfl) (fun _ _ _ _ => rfl)
  · exact .three (fun _ => fma32) (fun _ _ _ => rfl) untyped_eq rfl (fun _ _ => rfl) (fun _ _ _ _ => rfl)
  · exact .two (fun _ => fminmax false) (fun _ _ _ => rfl) untyped_eq rfl (fun _ _ => rfl) (fun _ _ _ _ => rfl)
  · exact .two (fun _ => fminmax true) (fun _ _ _ => rfl) untyped_eq rfl (fun _ _ => rfl) (fun _ _ _ _ => rfl)
  · exact .one (fun _ => fabsWord) (fun _ _ _ => rfl) untyped_eq rfl (fun _ _ => rfl) (fun _ _ _ _ => rfl)
  · exact .one (fun _ => fnegWord) (fun _ _ _ => rfl) untyped_eq rfl (fun _ _ => rfl) (fun _ _ _ _ => rfl)
  · exact .one (i2f32) (fun _ _ _ => rfl) (fun _ => rfl) rfl (fun _ _ => rfl) (fun _ _ _ _ => rfl)
  · exact .one (f2i32) (fun _ _ _ => rfl) (fun _ => rfl) rfl (fun _ _ => rfl) (fun _ _ _ _ => rfl)

theorem xuRows_inXu : ∀ r ∈ xuRows, r.InXu := by
  show ∀ r ∈ xuRows, r.InXu
  simp only [xuRows, List.forall_mem_cons]
  refine ⟨?_, ?_, ?_, ?_, ?_, ?_, ?_, ?_, ?_, fun _ h => nomatch h⟩
  · exact .two (fun _ => fdiv32) (fun _ _ _ => rfl) untyped_eq rfl (fun _ _ => rfl) (fun _ _ _ _ => rfl)
  · exact .one (fun _ => fsqrt32) (fun _ _ _ => rfl) untyped_eq rfl (fun _ _ => rfl) (fun _ _ _ _ => rfl)
  · exact .one (fun _ => approx Config.frcp) (fun _ _ _ => rfl) untyped_eq rfl (fun _ _ => rfl) (fun _ _ _ _ => rfl)
  · exact .one (fun _ => approx Config.frsq) (fun _ _ _ => rfl) untyped_eq rfl (fun _ _ => rfl) (fun _ _ _ _ => rfl)
  · exact .one (fun _ => approx Config.fexp2) (fun _ _ _ => rfl) untyped_eq rfl (fun _ _ => rfl) (fun _ _ _ _ => rfl)
  · exact .one (fun _ => approx Config.flog2) (fun _ _ _ => rfl) untyped_eq rfl (fun _ _ => rfl) (fun _ _ _ _ => rfl)
  · exact .one (fun _ => approx Config.ftanh) (fun _ _ _ => rfl) untyped_eq rfl (fun _ _ => rfl) (fun _ _ _ _ => rfl)
  · exact .one (fun _ => approx Config.fsin) (fun _ _ _ => rfl) untyped_eq rfl (fun _ _ => rfl) (fun _ _ _ _ => rfl)
  · exact .one (fun _ => approx Config.fcos) (fun _ _ _ => rfl) untyped_eq rfl (fun _ _ => rfl) (fun _ _ _ _ => rfl)


end Sys2Proof.Claims

/-! SUPPORT. Immediates, moves, selects, special values, predicates, the XU's random bits and conversions (R115, R116, R129 to R131), and the
obligations over the lanes and the XU. -/

namespace Sys2Proof.Claims

open Sys2Proof.Machine

/-! ## Registers, pairs and quads as numbers (R110) -/

theorem specifiers_length {w : Nat} {c : BitVec 6} {l : List Reg} (h : specifiers w c = some l) : l.length = w := by
  unfold specifiers at h
  split at h
  · simp only [Option.ite_none_right_eq_some, Option.some.injEq] at h; simp [← h.2]
  · split at h
    · simp only [Option.ite_none_right_eq_some, Option.some.injEq] at h; simp [← h.2]
    · simp only [Option.ite_none_right_eq_some, Option.some.injEq] at h; simp [← h.2]

theorem wordsOfNat_append (v : Word) (n k : Nat) : wordsOfNat (k + 1) (v.toNat + 2 ^ 32 * n) = v :: wordsOfNat k n := by
  have hv := v.isLt
  rw [wordsOfNat, show (v.toNat + 2 ^ 32 * n) / 2 ^ 32 = n by omega]
  congr 1
  apply BitVec.eq_of_toNat_eq
  rw [BitVec.toNat_ofNat]
  omega

/-- The number in a run of registers splits into the words that they hold. -/
theorem wordsOfNat_readNat (sl : Slot) (p : Nat) (rs : List Reg) : wordsOfNat rs.length (sl.readNat p rs) = rs.map (sl.read p) := by
  induction rs with
  | nil => rfl
  | cons r rs ih => rw [List.length_cons, Slot.readNat, wordsOfNat_append, ih, List.map_cons]

theorem ofNat_pair (a b : Word) : BitVec.ofNat 64 (a.toNat + 2 ^ 32 * b.toNat) = b ++ a := by
  have ha := a.isLt
  have hb := b.isLt
  apply BitVec.eq_of_toNat_eq
  rw [BitVec.toNat_append, ← Nat.shiftLeft_add_eq_or_of_lt ha, Nat.shiftLeft_eq, BitVec.toNat_ofNat]
  omega

theorem readNat_pair {s : State} {k m : Nat} {sl : Slot} (hs : s.slot k (m / 16) = some sl) {l : List Reg} (hl : l.length = 2) :
    BitVec.ofNat 64 (sl.readNat (m % 16) l) = s.pairOf k m l := by
  match l, hl with
  | [a, b], _ =>
    rw [State.pairOf, State.regOf_slot hs, State.regOf_slot hs]
    exact ofNat_pair ..

/-! ## Immediates, moves, selects and special values (R115, R116) -/

section
variable {s : State} {i : Issue} {opc : Nat}

theorem i1_lane {f : FormI} {a d : Reg} (g : Word → Word → Word) (hl : s.Leads i) (hg : guardLegal f.guard) (ht : f.type = 0) (hm : f.mod = 0)
    (ha : specifier f.sa = some a) (hd : specifier f.dst = some d) :
    s.LaneResult (i1 opc i f g s) i (formOf f.guard false [a] [d]) d (fun m => g (s.regOf i.core m a) f.imm) := by
  refine State.compute_lane_val s i f.guard _ _ false _ [[a]] _ d _ _ _ hl hg (by simp [ht, hm]) (by simp [regs_specifier ha])
    (regs_specifier hd) (by simp [formOf]) (fun m _ sl hs => ?_)
  simp [opnd, State.regOf_slot hs]

end

/-- What a row of Form I says of its command. -/
def ImmediateLane (r : (Issue → FormI → Instr) × (Word → Word → Word)) : Prop :=
  ∀ (s : State) (i : Issue) (f : FormI) (a d : Reg),
    s.Leads i → guardLegal f.guard → f.type = 0 → f.mod = 0 → specifier f.sa = some a → specifier f.dst = some d →
    ∃ t, exec (r.1 i f) s = .next t ∧
      s.LaneResult t i (formOf f.guard false [a] [d]) d (fun m => r.2 (s.regOf i.core m a) f.imm)

theorem ImmediateLane.intro {r : (Issue → FormI → Instr) × (Word → Word → Word)} {opc : Nat} (g : Word → Word → Word)
    (hexec : ∀ i f s, exec (r.1 i f) s = done (r.1 i f) (i1 opc i f g s)) (hwf : ∀ i f, (r.1 i f).wellFormed = i.ok)
    (hres : ∀ a b, g a b = r.2 a b) : ImmediateLane r := by
  obtain rfl : g = r.2 := funext fun a => funext fun b => hres a b
  exact fun s i f a d hl hg ht hm ha hd =>
    ⟨_, (hexec i f s).trans (done_next ((hwf i f).trans hl.ok)), i1_lane _ hl hg ht hm ha hd⟩

theorem immediateLanes : ImmediateLanes := by
  show ∀ r ∈ immediateRows, ImmediateLane r
  simp only [immediateRows, List.forall_mem_cons]
  refine ⟨?_, ?_, ?_, ?_, ?_, ?_, ?_, ?_, ?_, fun _ h => nomatch h⟩
  · exact .intro (fun a b => a + b) (fun _ _ _ => rfl) (fun _ _ => rfl) (fun _ _ => rfl)
  · exact .intro (fun a b => a * b) (fun _ _ _ => rfl) (fun _ _ => rfl) (fun _ _ => rfl)
  · exact .intro (fun a b => a &&& b) (fun _ _ _ => rfl) (fun _ _ => rfl) (fun _ _ => rfl)
  · exact .intro (fun a b => a ||| b) (fun _ _ _ => rfl) (fun _ _ => rfl) (fun _ _ => rfl)
  · exact .intro (fun a b => a ^^^ b) (fun _ _ _ => rfl) (fun _ _ => rfl) (fun _ _ => rfl)
  · exact .intro shlWord (fun _ _ _ => rfl) (fun _ _ => rfl) shlWord_eq
  · exact .intro shrWord (fun _ _ _ => rfl) (fun _ _ => rfl) shrWord_eq
  · exact .intro sarWord (fun _ _ _ => rfl) (fun _ _ => rfl) sarWord_eq
  · exact .intro fmul32 (fun _ _ _ => rfl) (fun _ _ => rfl) (fun _ _ => rfl)

theorem ofNat_special (s : State) (core ctx m n : Nat) : BitVec.ofNat 32 (s.special core ctx m n) =
    match n with
    | 0 => BitVec.ofNat 32 (m % 16)
    | 1 => BitVec.ofNat 32 (m / 16)
    | 2 => BitVec.ofNat 32 core
    | 3 => BitVec.ofNat 32 (tractOfCore core)
    | 4 => s.pwr.time.setWidth 32
    | 5 => (s.pwr.time >>> 32).setWidth 32
    | 6 => (match s.jobOf ctx with | some (_, _, b) => BitVec.ofNat 32 b.step | none => 0)
    | _ => BitVec.ofNat 32 ctx := by
  match n with
  | 0 | 1 | 2 | 3 | _ + 7 => rfl
  | 4 => apply BitVec.eq_of_toNat_eq; simp [State.special]
  | 5 => apply BitVec.eq_of_toNat_eq; simp [State.special, Nat.shiftRight_eq_div_pow]
  | 6 =>
    apply BitVec.eq_of_toNat_eq
    simp only [State.special, State.seedOf]
    cases s.jobOf ctx <;> simp

theorem moveSelectSpecial : MoveSelectSpecial := by
  refine ⟨?_, ?_, ?_, ?_⟩
  · intro s i f d hl hg ht hm ha hd
    refine ⟨_, done_next hl.ok, ?_⟩
    exact State.compute_lane_val s i f.guard _ _ false _ [] _ d _ _ _ hl hg (by simp [ht, hm, ha]) rfl (regs_specifier hd)
      (by simp [formOf]) (fun m _ sl hs => by simp)
  · intro s i f a b c d hl hg ht hm hs hd
    obtain ⟨a', b', c', hsrc, ha, hb, hc⟩ := sourcesOf_three hs
    cases hsrc
    refine ⟨_, done_next hl.ok, ?_⟩
    refine State.compute_lane_val s i f.guard _ _ false _ [[d], [a], [b], [c]] _ d _ _ _ hl hg (by simp [untyped, ht, hm])
      (by simp [regs_specifier ha, regs_specifier hb, regs_specifier hc, regs_specifier hd]) (regs_specifier hd)
      (by simp [formOf, Bool.or_comm, Bool.or_left_comm]) (fun m _ sl hs => ?_)
    refine Eq.trans ?_ (bfiWord_eq ..)
    simp [opnd, State.regOf_slot hs]
  · intro s i f a b d hl hg ht hm hs hd
    obtain ⟨a', b', hsrc, hc, ha, hb⟩ := sourcesOf_two hs
    cases hsrc
    refine ⟨_, done_next hl.ok, ?_⟩
    refine State.compute_lane_val s i f.guard _ _ false _ [[a], [b]] _ d _ _ _ hl hg (by simp [untyped, ht, hm, hc])
      (by simp [regs_specifier ha, regs_specifier hb]) (regs_specifier hd) (by simp [formOf]) (fun m _ sl hs => ?_)
    by_cases hp : (sl.thread (m % 16)).p.getLsbD f.mod.toNat
    · simp [hp, State.thread, hs, State.regOf_slot hs]
    · simp [hp, State.thread, hs, State.regOf_slot hs]
  · intro s i f d hl hg ht hm ha himm hd
    refine ⟨_, done_next hl.ok, ?_⟩
    refine State.compute_lane_val s i f.guard _ _ false _ [] _ d _ _ _ hl hg (by simp [ht, hm, ha, himm]) rfl (regs_specifier hd)
      (by simp [formOf]) (fun m _ sl hs => ?_)
    exact ofNat_special ..

/-! ## Predicates (R116) -/

/-- A condition on an order that says which of `p` (less) and `e` (equal) holds. -/
theorem condHolds_of_order {o : Ordering} {p e : Prop} [Decidable p] [Decidable e] (hlt : o = .lt ↔ p) (heq : o = .eq ↔ e) (n : Nat) : n < 6 →
    condHolds n o =
    match n with
    | 0 => decide e
    | 1 => !decide e
    | 2 => decide p
    | 3 => decide p || decide e
    | 4 => !(decide p || decide e)
    | _ => !decide p := by
  intro hn
  rw [← decide_eq_decide.2 hlt, ← decide_eq_decide.2 heq]
  match n, hn with
  | 0, _ | 1, _ | 2, _ | 3, _ | 4, _ | 5, _ => cases o <;> rfl

theorem condHolds_icmp (n : Nat) (signed : Bool) (x y : Word) : n < 6 → condHolds n (icmp signed x y) =
    let lt := if signed then x.slt y else x.ult y
    match n with
    | 0 => x == y
    | 1 => x != y
    | 2 => lt
    | 3 => lt || x == y
    | 4 => !(lt || x == y)
    | _ => !lt := by
  intro hn
  have hint : decide (x.toInt = y.toInt) = (x == y) := by
    rw [Bool.eq_iff_iff]; simp [BitVec.toInt_inj]
  have hnat : decide (x.toNat = y.toNat) = (x == y) := by
    rw [Bool.eq_iff_iff]; simp [BitVec.toNat_inj]
  cases signed with
  | true =>
    refine (condHolds_of_order Int.compare_eq_lt Int.compare_eq_eq n hn).trans ?_
    rw [hint]
    rfl
  | false =>
    refine (condHolds_of_order Nat.compare_eq_lt Nat.compare_eq_eq n hn).trans ?_
    rw [hnat]
    rfl

theorem fcond_eq (n : Nat) (x y : Word) : n < 6 → fcond n x y =
    if (ofF32 x).isNan ∨ (ofF32 y).isNan then n == 1
    else match n with
      | 0 => cmpNum (ofF32 x) (ofF32 y) == .eq
      | 1 => cmpNum (ofF32 x) (ofF32 y) != .eq
      | 2 => cmpNum (ofF32 x) (ofF32 y) == .lt
      | 3 => cmpNum (ofF32 x) (ofF32 y) != .gt
      | 4 => cmpNum (ofF32 x) (ofF32 y) == .gt
      | _ => cmpNum (ofF32 x) (ofF32 y) != .lt := by
  intro hn
  unfold fcond
  by_cases hnan : (ofF32 x).isNan ∨ (ofF32 y).isNan
  · simp [hnan]
  · simp only [Bool.or_eq_true, hnan, if_false]
    generalize cmpNum (ofF32 x) (ofF32 y) = o
    match n, hn with
    | 0, _ | 1, _ | 2, _ | 3, _ | 4, _ | 5, _ => cases o <;> rfl

theorem plogic_eq (n : Nat) (a b : Bool) : plogic n a b =
    match n with
    | 0 => a && b
    | 1 => a || b
    | 2 => xor a b
    | _ => a && !b := by
  match n with
  | 0 | 1 | _ + 3 => rfl
  | 2 => cases a <;> cases b <;> rfl

theorem compareT_pred {s : State} {i : Issue} {f : FormT} {opc : Nat} {legal : Bool} {a b : Reg} (g : Nat → Word → Word → Bool)
    (hl : s.Leads i) (hg : guardLegal f.guard) (hleg : legal = true) (hm : f.mod.toNat < 6) (hd : f.dst.toNat < 8) (hc : f.sc = 0)
    (ha : specifier f.sa = some a) (hb : specifier f.sb = some b) :
    s.PredResult (compareT opc i f legal g s) i (formOf f.guard false [a, b] []) f.dst.toNat
      (fun m => g f.mod.toNat (s.regOf i.core m a) (s.regOf i.core m b)) := by
  have key := State.issue_pred s i (formOf f.guard false [a, b] []) (tWord opc f) f.dst.toNat
    (fun sl pos => g f.mod.toNat (BitVec.ofNat 32 (sl.readNat pos [a])) (BitVec.ofNat 32 (sl.readNat pos [b])))
    (fun m => g f.mod.toNat (s.regOf i.core m a) (s.regOf i.core m b)) hl hg ?_
  · simpa [compareT, regs_specifier ha, regs_specifier hb, formOf, hleg, hc, hd, hm] using key
  · intro t m hm hth hu sl hs
    obtain ⟨sl0, hs0⟩ := State.acting_slot hm
    have hthr : sl.thread (m % 16) = sl0.thread (m % 16) := by simpa [State.thread, hs, hs0] using hth
    have hus : sl.u = sl0.u := by simpa [hs, hs0] using hu
    have hr : ∀ r, sl.read (m % 16) r = sl0.read (m % 16) r := Slot.read_congr (by rw [hthr]) hus
    simp [hr, State.regOf_slot hs0]

theorem predicates : Predicates := by
  refine ⟨?_, ?_, ?_⟩
  · intro s i f a b hl hg ht hm hs hd
    obtain ⟨a', b', hsrc, hc, ha, hb⟩ := sourcesOf_two hs
    cases hsrc
    refine ⟨_, done_next hl.ok, ?_⟩
    have key := compareT_pred (opc := 0x40) (legal := typed f) (fun c a b => condHolds c (icmp (isSigned f) a b)) hl hg
      (by simpa [typed] using ht) hm hd hc ha hb
    simp only [condHolds_icmp _ _ _ _ hm] at key
    simp only [isSigned, beq_iff_eq] at key
    exact key
  · intro s i f a b hl hg ht hm hs hd
    obtain ⟨a', b', hsrc, hc, ha, hb⟩ := sourcesOf_two hs
    cases hsrc
    refine ⟨_, done_next hl.ok, ?_⟩
    have key := compareT_pred (opc := 0x41) (legal := untyped f) fcond hl hg (by simp [untyped, ht]) hm hd hc ha hb
    have h1 : (f.mod.toNat == 1) = (f.mod == 1) := by rw [Bool.eq_iff_iff]; simp [BitVec.toNat_eq]
    simp only [fcond_eq _ _ _ hm, h1] at key
    exact key
  · intro s i f hl hg ht hm hc hd ha hb
    refine ⟨_, done_next hl.ok, ?_⟩
    have key := State.issue_pred s i ⟨f.guard, false, []⟩ (tWord 0x42 f) f.dst.toNat
      (fun sl pos => plogic f.mod.toNat ((sl.thread pos).p.getLsbD f.sa.toNat) ((sl.thread pos).p.getLsbD f.sb.toNat))
      (fun m => plogic f.mod.toNat ((s.thread i.core m).p.getLsbD f.sa.toNat) ((s.thread i.core m).p.getLsbD f.sb.toNat)) hl hg
      (fun t m hm hth hu sl hs => by
        have hthr : sl.thread (m % 16) = s.thread i.core m := by simpa [State.thread, hs] using hth
        rw [hthr])
    simp only [plogic_eq] at key
    have hleg : (untyped f && f.sc == 0 && decide (f.dst.toNat < 8) && decide (f.sa.toNat < 8) && decide (f.sb.toNat < 8) &&
        decide (f.mod.toNat < 4)) = true := by simp [untyped, ht, hc, hd, ha, hb, hm]
    rw [hleg]
    exact key

/-! ## Random bits on the XU (R130, R131) -/

theorem uregs_specifier {c : BitVec 6} {r : Reg} (hc : 0x20 ≤ c.toNat) (h : specifier c = some r) : uregs 1 c = some [r] := by
  rw [uregs, if_pos hc, regs_specifier h]

theorem getD_readNat {rs : List Reg} {n k : Nat} (sl : Slot) (p : Nat) (hlen : rs.length = n) (hk : k < n) :
    (wordsOfNat n (sl.readNat p rs)).getD k 0 = sl.read p (rs.getD k .zr) := by
  subst hlen
  rw [wordsOfNat_readNat]
  simp [hk]

theorem wordsOfNat_four (a b c d : Word) :
    wordsOfNat 4 (a.toNat + b.toNat * 2 ^ 32 + c.toNat * 2 ^ 64 + d.toNat * 2 ^ 96) = [a, b, c, d] := by
  rw [show a.toNat + b.toNat * 2 ^ 32 + c.toNat * 2 ^ 64 + d.toNat * 2 ^ 96 =
    a.toNat + 2 ^ 32 * (b.toNat + 2 ^ 32 * (c.toNat + 2 ^ 32 * (d.toNat + 2 ^ 32 * 0))) by omega]
  simp only [wordsOfNat_append]
  rfl

/-- Settles O4: the rows of the table, PHILOX and RNDE. -/
theorem xuResults : Obligations.XuResults := by
  refine ⟨xuRows_inXu, ?_, ?_⟩
  · intro s i f c k d hl hg ht hm hc ha hb hd
    refine ⟨_, done_next hl.ok, ?_⟩
    refine State.compute_xu_val s i f.guard _ _ false _ [c, k] _ d _ _ _ hl hg (by simp [untyped, ht, hm, hc])
      (by simp [regs_specifiers ha, regs_specifiers hb]) (regs_specifiers hd) (by simp [formOf]) (fun m _ sl hs => ?_)
    have hlc := specifiers_length ha
    have hlk := specifiers_length hb
    rw [specifiers_length hd]
    simp only [List.map_cons, List.map_nil, List.getD_cons_zero, List.getD_cons_succ, State.regOf_slot hs, wordsOfNat_four,
      getD_readNat sl (m % 16) hlc (show 0 < 4 by decide), getD_readNat sl (m % 16) hlc (show 1 < 4 by decide),
      getD_readNat sl (m % 16) hlc (show 2 < 4 by decide), getD_readNat sl (m % 16) hlc (show 3 < 4 by decide),
      getD_readNat sl (m % 16) hlk (show 0 < 2 by decide), getD_readNat sl (m % 16) hlk (show 1 < 2 by decide)]
  · intro s i f e tid d hl hg ht hm hc ha hb htid hd
    refine ⟨_, done_next hl.ok, ?_⟩
    refine State.compute_xu_val s i f.guard _ _ true _ [e, [tid]] _ [d] _ _ _ hl hg (by simp [untyped, ht, hm, hc])
      (by simp [regs_specifiers ha, uregs_specifier hb htid]) (regs_specifier hd) (by simp [formOf]) (fun m _ sl hs => ?_)
    have hp := readNat_pair hs (specifiers_length ha)
    simp only [List.map_cons, List.map_nil, List.getD_cons_zero, hp, State.randOf, opnd, List.getD_cons_succ, Slot.readNat_one,
      BitVec.ofNat_toNat, BitVec.setWidth_eq, State.regOf_slot hs, List.length_singleton, wordsOfNat, State.pairOf]

end Sys2Proof.Claims

namespace Sys2Proof.Machine

open Sys2Proof.Claims

/-! ## Conversions (R129) -/

theorem updThread_updCtx (s : State) (n k m : Nat) (f : Ctx → Ctx) (g : Thread → Thread) :
    (s.updCtx n f).updThread k m g = (s.updThread k m g).updCtx n f := by
  unfold State.updThread State.updSlot
  rw [show (s.updCtx n f).slot k (m / 16) = s.slot k (m / 16) from rfl]
  cases s.slot k (m / 16) <;> rfl

theorem nextPc_orFlags (s : State) (ctx k : Nat) (fl : Word) (ms : List Nat) :
    (s.orFlags ctx fl).nextPc k ms = (s.nextPc k ms).orFlags ctx fl := by
  unfold State.nextPc State.orFlags
  induction ms generalizing s with
  | nil => rfl
  | cons m ms ih => rw [List.foldl_cons, List.foldl_cons, updThread_updCtx, ih]

/-- Writing results fixed beforehand is writing the results of a function that reads no register. -/
theorem laneWrite_const (s : State) (k : Nat) (srcs : List (List Reg)) (d : Reg) (v : Nat → Nat) (ms : List Nat) :
    s.laneWrite k srcs [d] (fun m _ _ => v m) ms =
      ms.foldl (fun t m => t.updSlot k (m / 16) (fun sl => sl.writeAll (m % 16) [d] (wordsOfNat 1 (v m)))) s := by
  induction ms generalizing s with
  | nil => rfl
  | cons m ms ih =>
    rw [State.laneWrite, List.foldl_cons, ih]
    congr 1
    unfold State.updSlot State.result
    cases s.slot k (m / 16) <;> rfl

theorem State.randOf_of_only {s t : State} {k : Nat} (h : s.OnlyCore t k) (ctx : Nat) (tid : Word) (e : DWord) :
    t.randOf ctx tid e = s.randOf ctx tid e := by
  rw [h]; rfl

theorem gregs_specifier {c : BitVec 6} {r : Reg} (h : specifier c = some r) (hr : r.isU = false) : gregs 1 c = some [r] := by
  rw [gregs, regs_specifier h]
  unfold specifier at h
  split at h
  · simp [*]
  · split at h
    · cases h; simp [Reg.isU] at hr
    · split at h
      · simp [*]
      · cases h

/-- A u register, or ZR, reads alike in every thread of its slot. -/
theorem read_of_uregs {c : BitVec 6} {r : Reg} (hc : 0x20 ≤ c.toNat) (h : specifier c = some r) (sl : Slot) (p p' : Nat) :
    sl.read p r = sl.read p' r := by
  unfold specifier at h
  split at h
  · omega
  · split at h
    · cases h; rfl
    · split at h
      · cases h; rfl
      · cases h

/-- The conversion of a member's operand, as the state in which CVT acts gives it. -/
def State.cvtOf (s : State) (ncw : Word) (ctx k : Nat) (a : Reg) (e tid : List Reg) (m : Nat) : Nat × Word :=
  cvtResult ncw (s.randOf ctx (s.regOf k m (tid.getD 0 .zr)) (s.pairOf k m e)) (s.regOf k m a).toNat

theorem State.issued_slot {s : State} {i : Issue} {q : Form} {m : Nat} (hm : m ∈ s.acting i q) :
    ∃ sl, (s.issued i q).slot i.core (m / 16) = some sl := by
  obtain ⟨sl, hs⟩ := State.acting_slot hm
  have hu := (s.issued_spec i q).2.2.2.1 (m / 16)
  rw [hs] at hu
  obtain ⟨sl', hs', _⟩ := Option.map_eq_some_iff.1 hu
  exact ⟨sl', hs'⟩

theorem State.regOf_issued {s : State} {i : Issue} {q : Form} {m : Nat} (hm : m ∈ s.acting i q) (r : Reg) :
    (s.issued i q).regOf i.core m r = s.regOf i.core m r := by
  obtain ⟨sl, hs⟩ := State.acting_slot hm
  have hth := State.issued_thread (State.mem_acting hm)
  obtain ⟨_, _, _, hu, _⟩ := s.issued_spec i q
  have hu := hu (m / 16)
  rw [hs] at hu
  obtain ⟨sl', hs', hus⟩ := Option.map_eq_some_iff.1 hu
  rw [State.regOf_slot hs, State.regOf_slot hs']
  exact Slot.read_congr (by simpa [State.thread, hs, hs'] using congrArg Thread.g hth) hus _

theorem State.cvtOf_issued {s : State} {i : Issue} {q : Form} {m : Nat} (hm : m ∈ s.acting i q) (ncw : Word) (ctx : Nat) (a : Reg)
    (e tid : List Reg) : (s.issued i q).cvtOf ncw ctx i.core a e tid m = s.cvtOf ncw ctx i.core a e tid m := by
  simp only [State.cvtOf, State.pairOf, State.regOf_issued hm, State.randOf_of_only (s.issued_spec i q).1.1]

theorem State.cvtOf_slot {s : State} {k m : Nat} {sl : Slot} (hs : s.slot k (m / 16) = some sl) (ncw : Word) (ctx : Nat) (a : Reg)
    {e tid : List Reg} (he : e.length = 2) (htid : tid.length ≤ 1) :
    cvtResult ncw (s.randOf ctx (BitVec.ofNat 32 (sl.readNat (m % 16) tid)) (BitVec.ofNat 64 (sl.readNat (m % 16) e)))
      (sl.readNat (m % 16) [a]) = s.cvtOf ncw ctx k a e tid m := by
  have hr : BitVec.ofNat 32 (sl.readNat (m % 16) tid) = s.regOf k m (tid.getD 0 .zr) := by
    match tid, htid with
    | [], _ => simp [Slot.readNat, State.regOf_slot hs, Slot.read]
    | [r], _ => simp [State.regOf_slot hs]
  rw [hr, readNat_pair hs he, Slot.readNat_one, ← State.regOf_slot hs, State.cvtOf]

theorem State.Leads.slot {s : State} {i : Issue} (h : s.Leads i) : ∃ sl, s.slot i.core (i.leader / 16) = some sl := by
  obtain ⟨_, _, hc⟩ := h
  unfold State.canLead at hc
  split at hc
  · cases hc
  · exact ⟨_, by assumption⟩

/-- What CVT makes of its operands where its fields are legal, before its group goes on. -/
theorem exec_cvt {s : State} {i : Issue} {f : FormT} {a n d : Reg} {e tid : List Reg} (hl : s.Leads i) (hg : guardLegal f.guard)
    (ht : f.type = 0) (hau : a.isU = false) (ha : specifier f.sa = some a) (hn32 : 0x20 ≤ f.sb.toNat) (hn : specifier f.sb = some n)
    (hd : specifier f.dst = some d) (he : specifiers 2 f.sc = some e)
    (htid : (if f.mod == 0 then [] else (uregs 1 (f.mod.setWidth 6)).getD []) = tid) (hlen : tid.length ≤ 1)
    (hdef : ncwDefined (s.regOf i.core i.leader n)) (henc : cvtEnc f ((s.regOf i.core i.leader n).getLsbD 12))
    {q : Form} (hq : q = formOf f.guard true ([a, n] ++ e ++ tid) [d]) {v : Nat → Nat × Word}
    (hv : v = (s.issued i q).cvtOf (s.regOf i.core i.leader n) (s.slotCtx i) i.core a e tid) :
    exec (.cvt i f) s = .next ((((writers [d] (s.acting i q)).foldl (fun t m =>
      t.updSlot i.core (m / 16) (fun sl => sl.writeAll (m % 16) [d] (wordsOfNat 1 (v m).1))) (s.issued i q)).orFlags (s.slotCtx i)
        ((s.acting i q).foldl (fun fl m => fl ||| (v m).2) 0)).nextPc i.core (s.going i q)) := by
  obtain ⟨sl0, hs0⟩ := hl.slot
  have hncw : BitVec.ofNat 32 (sl0.readNat 0 [n]) = s.regOf i.core i.leader n := by
    simp [State.regOf_slot hs0, read_of_uregs hn32 hn sl0 0 (i.leader % 16)]
  refine (done_next (c := .cvt i f) hl.ok).trans (congrArg _ ?_)
  simp only [gregs_specifier ha hau, uregs_specifier hn32 hn, regs_specifier hd, regs_specifiers he, htid, Option.getD_some, hs0, hncw,
    Option.isSome_some, Bool.and_true, untyped, ht, hdef, henc, beq_self_eq_true, Bool.not_true, Bool.false_eq_true, if_false]
  have hact := State.issue_acts s i q (tWord 0x45 f) (hl := hl) (hg := by simpa [hq, formOf] using hg)
  rw [hq] at hact ⊢
  refine (hact _).trans ?_
  rw [← hq]
  have hval : ∀ m ∈ s.acting i q, ∃ sl, (s.issued i q).slot i.core (m / 16) = some sl ∧
      cvtResult (s.regOf i.core i.leader n) ((s.issued i q).randOf (s.slotCtx i) (BitVec.ofNat 32 (sl.readNat (m % 16) tid))
        (BitVec.ofNat 64 (sl.readNat (m % 16) e))) (sl.readNat (m % 16) [a]) = v m := by
    intro m hm
    obtain ⟨sl, hs⟩ := State.issued_slot hm
    exact ⟨sl, hs, by rw [hv, State.cvtOf_slot hs _ _ a (specifiers_length he) hlen]⟩
  have hsub : ∀ m ∈ writers [d] (s.acting i q), m ∈ s.acting i q := fun m hm => by
    unfold writers at hm
    split at hm
    · exact List.mem_of_mem_take hm
    · exact hm
  congr 2
  · refine foldl_eq_of_mem (fun t m hm => ?_)
    obtain ⟨sl, hs, hr⟩ := hval m (hsub m hm)
    simp only [hs, hr]
  · refine foldl_eq_of_mem (fun fl m hm => ?_)
    obtain ⟨sl, hs, hr⟩ := hval m hm
    simp only [hs, hr]

/-- The fields SC and MOD of CVT, legal with stochastic rounding and without. -/
theorem cvtEnc_of_mode {f : FormT} {rnd : Bool} {e tid : List Reg} (he : specifiers 2 f.sc = some e)
    (h : if rnd then f.mod.toNat < 64 ∧ 0x20 ≤ f.mod.toNat ∧ (specifier (f.mod.setWidth 6)).map (fun r => [r]) = some tid
      else f.sc = 0x30 ∧ f.mod = 0 ∧ tid = []) :
    cvtEnc f rnd = true ∧ (if f.mod == 0 then [] else (uregs 1 (f.mod.setWidth 6)).getD []) = tid ∧ tid.length ≤ 1 := by
  cases rnd with
  | true =>
    obtain ⟨h64, h32, htid⟩ := h
    obtain ⟨r, hr, rfl⟩ := Option.map_eq_some_iff.1 htid
    have hne : (f.mod == 0) = false := by
      rw [beq_eq_false_iff_ne]
      intro h0
      simp [h0] at h32
    have hw : 0x20 ≤ (f.mod.setWidth 6).toNat := by simp; omega
    rw [hne]
    simp [cvtEnc, h64, regs_specifiers he, uregs_specifier hw hr]
  | false =>
    obtain ⟨hsc, hm, rfl⟩ := h
    simp [cvtEnc, hsc, hm]

theorem conversions : Conversions := by
  intro s i f a n d e tid hl hg ht hau ha hn32 hn hd he q ncw res hdef hmode
  obtain ⟨henc, htid, hlen⟩ := cvtEnc_of_mode he hmode
  have hv : ∀ m ∈ s.acting i q, (s.issued i q).cvtOf ncw (s.slotCtx i) i.core a e tid m = res m := fun m hm => State.cvtOf_issued hm ..
  refine ⟨s.compute false true i f.guard (tWord 0x45 f) true ([[a], [n], e, tid].map some) (some [d])
    (fun m _ _ => ((s.issued i q).cvtOf ncw (s.slotCtx i) i.core a e tid m).1), ?_, ?_⟩
  · exact State.compute_lane_val s i f.guard _ _ true _ _ _ d _ _ q hl hg rfl rfl rfl (by simp [q, formOf])
      (fun m hm sl hs => by rw [hv m hm])
  · rw [exec_cvt hl hg ht hau ha hn32 hn hd he htid hlen hdef henc (q := q) rfl rfl, nextPc_orFlags]
    have hfl : (s.acting i q).foldl (fun fl m => fl ||| ((s.issued i q).cvtOf ncw (s.slotCtx i) i.core a e tid m).2) 0 =
        (s.acting i q).foldl (fun fl m => fl ||| (res m).2) 0 := foldl_eq_of_mem (fun fl m hm => by rw [hv m hm])
    rw [hfl]
    congr 2
    have hcomp := State.issue_acts s i q (tWord 0x45 f) (fun s' go on => (s'.laneWrite i.core [[a], [n], e, tid] [d]
      (fun m _ _ => ((s.issued i q).cvtOf ncw (s.slotCtx i) i.core a e tid m).1) (writers [d] on)).nextPc i.core go) hl hg
    rw [laneWrite_const] at hcomp
    rw [← hcomp]
    unfold State.compute
    simp [q, formOf, allRegs]

/-! ## The obligations -/

/-- Settles O1, row by row of the tables. -/
theorem integerResults : Obligations.IntegerResults := ⟨integerLanes, bitLanes, immediateLanes⟩

/-- Settles O2: the rows of the table, and CVT, whose group is that of a computation that writes the converted words. -/
theorem floatResults : Obligations.FloatResults := ⟨floatLanes, conversions⟩

/-- Settles O3. -/
theorem movesAndPredicates : Obligations.MovesAndPredicates := ⟨moveSelectSpecial, predicates⟩

end Sys2Proof.Machine

/-! SUPPORT. Changes of the slots of a group of threads, one after the other; branches, calls, the sheaf barrier and EXIT
(R86, R98, R115). -/

namespace Sys2Proof.Machine

open Sys2Proof.Claims

/-! ## A change of the slot of each thread of a list -/

/-- Change the slot of each thread of a list, one after the other. -/
def State.eachSlot (s : State) (k : Nat) (F : Nat → Slot → Slot) (ms : List Nat) : State :=
  ms.foldl (fun t m => t.updSlot k (m / 16) (F m)) s

@[simp] theorem State.eachSlot_nil (s : State) (k : Nat) (F : Nat → Slot → Slot) : s.eachSlot k F [] = s := rfl

theorem State.eachSlot_cons (s : State) (k : Nat) (F : Nat → Slot → Slot) (m : Nat) (ms : List Nat) :
    s.eachSlot k F (m :: ms) = (s.updSlot k (m / 16) (F m)).eachSlot k F ms := rfl

theorem State.nextPc_eq_eachSlot (s : State) (k : Nat) (ms : List Nat) :
    s.nextPc k ms = s.eachSlot k (fun m sl => sl.updThread (m % 16) (fun t => { t with pc := t.pc + 8 })) ms := rfl

section
variable {k : Nat} {F : Nat → Slot → Slot}

/-- What no change of the list touches stays in every slot. -/
theorem State.eachSlot_map {β : Type} (g : Slot → β) (hg : ∀ m sl, g (F m sl) = g sl) (s : State) (ms : List Nat) (j : Nat) :
    ((s.eachSlot k F ms).slot k j).map g = (s.slot k j).map g := by
  induction ms generalizing s with
  | nil => rfl
  | cons m ms ih => rw [State.eachSlot_cons, ih, State.slot_updSlot_map s k _ j _ g (hg m)]

theorem State.eachSlot_isSome (s : State) (ms : List Nat) (j : Nat) : ((s.eachSlot k F ms).slot k j).isSome = (s.slot k j).isSome := by
  simpa using congrArg Option.isSome (State.eachSlot_map (F := F) (fun _ => ()) (fun _ _ => rfl) s ms j)

theorem State.eachSlot_only {s0 s : State} {ms : List Nat} (h0 : s0.OnlyCore s k) (hs : ∀ m ∈ ms, (s.slot k (m / 16)).isSome) :
    s0.OnlyCore (s.eachSlot k F ms) k := by
  induction ms generalizing s with
  | nil => exact h0
  | cons m ms ih =>
    rw [State.eachSlot_cons]
    refine ih (h0.trans (s.updSlot_only k _ _ (hs m (List.mem_cons_self ..)))) (fun n hn => ?_)
    have := State.eachSlot_isSome (k := k) (F := F) s [m] (n / 16)
    exact this.trans (hs n (List.mem_cons_of_mem _ hn))

theorem State.eachSlot_inLanes {s0 s : State} {ms : List Nat} (h0 : s0.InLanes s k) (hs : ∀ m ∈ ms, (s.slot k (m / 16)).isSome)
    (hrest : ∀ m sl, (F m sl).rest = sl.rest) : s0.InLanes (s.eachSlot k F ms) k := by
  refine ⟨State.eachSlot_only h0.1 hs, ?_, fun j => (State.eachSlot_map _ hrest s ms j).trans (h0.2.2 j)⟩
  rw [← h0.2.1]
  clear h0 hrest
  induction ms generalizing s with
  | nil => rfl
  | cons m ms ih =>
    rw [State.eachSlot_cons, ih, State.core_updSlot]
    intro n hn
    exact (State.eachSlot_isSome (k := k) (F := F) s [m] (n / 16)).trans (hs n (List.mem_cons_of_mem _ hn))

/-- The threads after changes that each touch the thread of their own. -/
theorem State.eachSlot_thread {th : Nat → Thread → Thread} {s : State} {ms : List Nat} (hs : ∀ m ∈ ms, (s.slot k (m / 16)).isSome)
    (hn : ms.Nodup) (hF : ∀ m sl p, (F m sl).thread p = if p = m % 16 then th m (sl.thread p) else sl.thread p) (n : Nat) :
    (s.eachSlot k F ms).thread k n = if n ∈ ms then th n (s.thread k n) else s.thread k n := by
  induction ms generalizing s with
  | nil => simp
  | cons m ms ih =>
    have hm := hs m (List.mem_cons_self ..)
    have hnm := (List.nodup_cons.1 hn).1
    have ht : ∀ n, (s.updSlot k (m / 16) (F m)).thread k n = if n = m then th m (s.thread k m) else s.thread k n := by
      intro n
      rw [State.thread_updSlot _ _ _ _ _ hm]
      obtain ⟨sl, hsl⟩ := Option.isSome_iff_exists.1 hm
      by_cases hq : n / 16 = m / 16
      · by_cases h : n = m
        · subst h; simp [hsl, hF, State.thread]
        · have : n % 16 ≠ m % 16 := by omega
          simp [hsl, hF, this, h, State.thread, hq]
      · have : n ≠ m := fun h => hq (by rw [h])
        simp [hq, this]
    have hs' : ∀ n ∈ ms, ((s.updSlot k (m / 16) (F m)).slot k (n / 16)).isSome := fun n hn =>
      (State.eachSlot_isSome (k := k) (F := F) s [m] (n / 16)).trans (hs n (List.mem_cons_of_mem _ hn))
    rw [State.eachSlot_cons, ih hs' (List.nodup_cons.1 hn).2, ht n]
    by_cases h : n = m
    · subst h; simp [hnm]
    · by_cases h' : n ∈ ms <;> simp [h, h']

end

theorem State.updThread_eq_updSlot (s : State) (k m : Nat) (f : Thread → Thread) :
    s.updThread k m f = s.updSlot k (m / 16) (fun sl => sl.updThread (m % 16) f) := rfl

/-! ## The group in the state in which it acts -/

section
variable {s : State} {i : Issue} {q : Form}

theorem State.issued_inLanes_self (s : State) (i : Issue) (q : Form) : (s.issued i q).InLanes (s.issued i q) i.core :=
  ⟨(s.issued_spec i q).2.1, rfl, fun _ => rfl⟩

theorem State.issued_isSome {m : Nat} (hm : m ∈ s.going i q) : ((s.issued i q).slot i.core (m / 16)).isSome := by
  have h := congrArg Option.isSome ((s.issued_spec i q).1.2.2 (m / 16))
  simp only [Option.isSome_map] at h
  rw [h]
  exact State.mem_groupOf (State.mem_going.1 hm).1

/-- The members that issue with a false guard. -/
def State.idling (s : State) (i : Issue) (q : Form) : List Nat := (s.going i q).filter (fun m => !(s.acting i q).contains m)

theorem State.mem_idling {m : Nat} : m ∈ s.idling i q ↔ m ∈ s.going i q ∧ m ∉ s.acting i q := by
  simp [State.idling, List.mem_filter]

theorem State.idling_nodup (s : State) (i : Issue) (q : Form) : (s.idling i q).Nodup := (s.going_nodup i q).filter _

/-- The threads where the members with a false guard go on and the others change as their own says. -/
theorem State.Threads.of_idling {t : State} {act : Nat → Thread → Thread} (ht : ∀ n, t.thread i.core n =
    if n ∈ s.acting i q then act n (s.thread i.core n)
    else if n ∈ s.idling i q then ((s.issued i q).thread i.core n).past else (s.issued i q).thread i.core n) : s.Threads t i q act := by
  intro n
  rw [ht n]
  by_cases ha : n ∈ s.acting i q
  · simp [ha]
  · by_cases hg : n ∈ s.going i q
    · have hi : n ∈ s.idling i q := State.mem_idling.2 ⟨hg, ha⟩
      simp [ha, hi, hg, State.issued_thread hg]
    · have hi : n ∉ s.idling i q := fun h => hg (State.mem_idling.1 h).1
      rw [(s.issued_spec i q).2.2.1 n]
      by_cases hm : n ∈ s.groupOf i q
      · have hb : s.heldBack i q n = true := by
          cases hb : s.heldBack i q n with
          | true => rfl
          | false => exact absurd (State.mem_going.2 ⟨hm, hb⟩) hg
        simp [ha, hi, hg, hm, hb]
      · simp [ha, hi, hg, hm]

end

/-! ## Branches (R115) -/

theorem State.badTarget_eq_none {s : State} {ctx : Nat} {l : List (Nat × DWord)}
    (h : ∀ x ∈ l, x.2.toNat % 8 = 0 ∧ (s.reach ctx x.2.toNat 8 .r).isSome) : s.badTarget ctx l = none := by
  induction l with
  | nil => rfl
  | cons x l ih =>
    obtain ⟨m, t⟩ := x
    obtain ⟨hal, hr⟩ := h _ (List.mem_cons_self ..)
    have hr' : (s.reach ctx t.toNat 8 .r).isNone = false := by
      rw [← Option.not_isSome, hr]; rfl
    simp only [State.badTarget, hal, ne_eq, not_true_eq_false, if_false, hr', Bool.false_eq_true]
    exact ih (fun y hy => h y (List.mem_cons_of_mem _ hy))

theorem State.OnlyCore.reach {s t : State} {k : Nat} (h : s.OnlyCore t k) (ctx a len : Nat) (c : Acc) :
    t.reach ctx a len c = s.reach ctx a len c := by
  rw [h]; rfl

section
variable {s y : State} {i : Issue} {q : Form} {target : Nat → DWord} {lt : Nat → Thread → Thread}

/-- The state after the branches of a group whose links are written. -/
def State.branched (y : State) (s : State) (i : Issue) (q : Form) (target : Nat → DWord) : State :=
  (y.eachSlot i.core (fun m sl => sl.updThread (m % 16) (fun t => { t with pc := t.pc + 8 })) (s.idling i q)).eachSlot i.core
    (fun m sl => sl.updThread (m % 16) (fun th => { th with pc := target m })) (s.acting i q)

/-- No target is refused: the group branches. -/
theorem State.branch_eq {tgt : Nat → DWord} (link : State → State) (w : Nat) (heq : ∀ m ∈ s.acting i q, tgt m = target m)
    (htgt : ∀ m ∈ s.acting i q, (target m).toNat % 8 = 0 ∧ (s.reach (s.slotCtx i) (target m).toNat 8 .r).isSome) :
    (s.issued i q).branch i.core (s.slotCtx i) (s.going i q) (s.acting i q) w tgt link =
      (link (s.issued i q)).branched s i q target := by
  have hnone : (s.issued i q).badTarget (s.slotCtx i) ((s.acting i q).map (fun m => (m, tgt m))) = none := by
    refine State.badTarget_eq_none fun x hx => ?_
    obtain ⟨m, hm, rfl⟩ := List.mem_map.1 hx
    rw [(s.issued_spec i q).1.1.reach, heq m hm]
    exact htgt m hm
  unfold State.branch
  rw [hnone]
  exact foldl_eq_of_mem fun t m hm => by rw [heq m hm]; rfl

theorem State.branched_isSome (y : State) (j : Nat) : ((y.branched s i q target).slot i.core j).isSome = (y.slot i.core j).isSome := by
  rw [State.branched, State.eachSlot_isSome, State.eachSlot_isSome]

theorem State.branched_inLanes {s0 : State} (h0 : s0.InLanes y i.core) (hy : ∀ m ∈ s.going i q, (y.slot i.core (m / 16)).isSome) :
    s0.InLanes (y.branched s i q target) i.core := by
  refine State.eachSlot_inLanes (State.eachSlot_inLanes h0 (fun m hm => hy m (State.mem_idling.1 hm).1) fun _ _ => rfl) ?_ fun _ _ => rfl
  intro m hm
  rw [State.eachSlot_isSome]
  exact hy m (State.mem_acting hm)

theorem State.branched_map {β : Type} (g : Slot → β) (hg : ∀ (sl : Slot) p f, g (sl.updThread p f) = g sl) (y : State) (j : Nat) :
    ((y.branched s i q target).slot i.core j).map g = (y.slot i.core j).map g := by
  rw [State.branched, State.eachSlot_map g (fun _ _ => hg ..), State.eachSlot_map g (fun _ _ => hg ..)]

theorem State.branched_threads (hy : ∀ m ∈ s.going i q, (y.slot i.core (m / 16)).isSome)
    (hth : ∀ n, y.thread i.core n = if n ∈ s.acting i q then lt n (s.thread i.core n) else (s.issued i q).thread i.core n) :
    s.Threads (y.branched s i q target) i q (fun m th => { lt m th with pc := target m }) := by
  refine State.Threads.of_idling fun n => ?_
  rw [State.branched, State.eachSlot_thread (th := fun m th => { th with pc := target m }) _ (s.acting_nodup i q)
    (fun m sl p => by simp only [Slot.thread_updThread]; split <;> simp [*]),
    State.eachSlot_thread (th := fun _ th => th.past) (fun m hm => hy m (State.mem_idling.1 hm).1) (s.idling_nodup i q)
    (fun m sl p => by simp only [Slot.thread_updThread]; split <;> simp [*, Thread.past]), hth n]
  · by_cases ha : n ∈ s.acting i q
    · have hi : n ∉ s.idling i q := fun h => (State.mem_idling.1 h).2 ha
      simp [ha, hi]
    · simp [ha]
  · intro m hm
    rw [State.eachSlot_isSome]
    exact hy m (State.mem_acting hm)

/-- Branches that write no link change nothing but the program counters. -/
theorem State.branched_goes : s.Goes ((s.issued i q).branched s i q target) i q (fun m th => { th with pc := target m }) := by
  obtain ⟨h1, _, _, h4, h5⟩ := s.issued_spec i q
  have hsome : ∀ m ∈ s.going i q, ((s.issued i q).slot i.core (m / 16)).isSome := fun m hm => State.issued_isSome hm
  refine ⟨h1.inLanes rfl (State.branched_inLanes (s.issued_inLanes_self i q) hsome), ?_, fun j => ?_, fun j => ?_⟩
  · refine State.branched_threads (lt := fun _ th => th) hsome fun n => ?_
    split
    · next ha => exact State.issued_thread (State.mem_acting ha)
    · rfl
  · rw [State.branched_map _ (fun _ _ _ => rfl), h4]
  · rw [State.branched_map _ (fun _ _ _ => rfl), h5]

end

/-- NOP: the group goes on. -/
theorem exec_nop {s : State} {i : Issue} {f : FormT} (hl : s.Leads i) (hg : guardLegal f.guard) (ht : f.type = 0) (hm : f.mod = 0)
    (hd : f.dst = 0) (ha : f.sa = 0) (hb : f.sb = 0) (hc : f.sc = 0) :
    exec (.nop i f) s = .next (s.acts i ⟨f.guard, false, []⟩ (fun t => t)) := by
  refine (done_next (c := .nop i f) hl.ok).trans (congrArg _ ?_)
  have hleg : (bareT f && f.sa == 0 && f.dst == 0) = true := by simp [bareT, ht, hm, hd, ha, hb, hc]
  rw [hleg]
  exact State.issue_acts s i ⟨f.guard, false, []⟩ _ _ hl hg

/-- A group that goes on, and nothing else. -/
theorem State.acts_id_goes (s : State) (i : Issue) (q : Form) : s.Goes (s.acts i q (fun t => t)) i q (fun _ th => th.past) := by
  obtain ⟨h1, _, _, h4, h5⟩ := s.issued_spec i q
  obtain ⟨n1, n2, n3, n4⟩ := State.nextPc_spec (s.issued i q) i.core (s.going i q) (fun m hm => State.issued_isSome hm) (s.going_nodup i q)
  refine ⟨h1.inLanes rfl (n1 _ (s.issued_inLanes_self i q)), ?_, fun j => (n3 j).trans (h4 j), fun j => (n4 j).trans (h5 j)⟩
  refine State.Threads.of_act (u := s.issued i q) (act := fun _ th => th) (fun n => ?_) n2
  split
  · next ha => exact State.issued_thread (State.mem_acting ha)
  · rfl

/-! ## The link pair of CALL (R110, R115) -/

theorem wordsOfNat_two (v : DWord) : wordsOfNat 2 v.toNat = [v.setWidth 32, (v >>> 32).setWidth 32] := by
  simp only [wordsOfNat, List.cons.injEq, and_true]
  constructor
  · apply BitVec.eq_of_toNat_eq; simp
  · apply BitVec.eq_of_toNat_eq; simp [Nat.shiftRight_eq_div_pow]

/-- The registers of a pair are of one kind, and follow each other. -/
theorem specifiers_pair {c : BitVec 6} {lo hi : Reg} (h : specifiers 2 c = some [lo, hi]) :
    (∃ n, lo = .g n ∧ hi = .g (n + 1)) ∨ (∃ n, lo = .u n ∧ hi = .u (n + 1)) ∨ (lo = .zr ∧ hi = .zr) := by
  have hr : List.range 2 = [0, 1] := rfl
  unfold specifiers at h
  split at h
  · simp only [Option.ite_none_right_eq_some, Option.some.injEq, hr, List.map_cons, List.map_nil, List.cons.injEq, and_true] at h
    exact .inl ⟨_, h.2.1.symm, h.2.2.symm⟩
  · split at h
    · simp only [Option.ite_none_right_eq_some, Option.some.injEq, hr, List.map_cons, List.map_nil, List.cons.injEq, and_true] at h
      exact .inr (.inl ⟨_, h.2.1.symm, h.2.2.symm⟩)
    · simp only [Option.ite_none_right_eq_some, Option.some.injEq, List.replicate, List.cons.injEq, and_true] at h
      exact .inr (.inr ⟨h.2.1.symm, h.2.2.symm⟩)

theorem Slot.u_write (sl : Slot) (p n : Nat) (r : Reg) (v : Word) :
    (sl.write p r v).u.getD n 0 = if r = .u n then v else sl.u.getD n 0 := by
  cases r with
  | g k => simp [Slot.write]
  | zr => simp [Slot.write]
  | u k => simp [Slot.write, Map.getD_put, eq_comm]

theorem writers_sub {d : List Reg} {ms : List Nat} {m : Nat} (h : m ∈ writers d ms) : m ∈ ms := by
  unfold writers at h
  split at h
  · exact List.mem_of_mem_take h
  · exact h

theorem writers_nodup {d : List Reg} {ms : List Nat} (h : ms.Nodup) : (writers d ms).Nodup := by
  unfold writers
  split
  · exact h.sublist (List.take_sublist ..)
  · exact h

section
variable {s : State} {i : Issue} {q : Form} {lo hi : Reg} {v : Nat → DWord}

/-- The link pairs of a group are written. -/
def State.linked (s : State) (k : Nat) (lo hi : Reg) (v : Nat → DWord) (ms : List Nat) : State :=
  s.eachSlot k (fun m sl => (sl.write (m % 16) lo ((v m).setWidth 32)).write (m % 16) hi ((v m >>> 32).setWidth 32)) ms

theorem State.linked_threads (hd : [lo, hi].any Reg.isU = true → lo.isU = true ∧ hi.isU = true) (n : Nat) :
    ((s.issued i q).linked i.core lo hi v (writers [lo, hi] (s.acting i q))).thread i.core n =
      if n ∈ s.acting i q then ((s.thread i.core n).got lo ((v n).setWidth 32)).got hi ((v n >>> 32).setWidth 32)
      else (s.issued i q).thread i.core n := by
  have hF : ∀ m (sl : Slot) p, ((sl.write (m % 16) lo ((v m).setWidth 32)).write (m % 16) hi ((v m >>> 32).setWidth 32)).thread p =
      if p = m % 16 then ((sl.thread p).got lo ((v m).setWidth 32)).got hi ((v m >>> 32).setWidth 32) else sl.thread p := by
    intro m sl p
    by_cases hp : p = m % 16 <;> simp [Slot.thread_write, hp]
  have hkey := State.eachSlot_thread (s := s.issued i q) (ms := writers [lo, hi] (s.acting i q))
    (th := fun m th => (th.got lo ((v m).setWidth 32)).got hi ((v m >>> 32).setWidth 32))
    (fun m hm => State.issued_isSome (State.mem_acting (writers_sub hm))) (writers_nodup (s.acting_nodup i q)) hF n
  rw [State.linked, hkey]
  by_cases ha : n ∈ s.acting i q
  · rw [if_pos ha, State.issued_thread (State.mem_acting ha)]
    cases hu : [lo, hi].any Reg.isU with
    | false => simp [writers, hu, ha]
    | true =>
      obtain ⟨hlo, hhi⟩ := hd hu
      cases lo <;> cases hi <;> simp_all [Reg.isU, Thread.got]
  · rw [if_neg ha, if_neg fun h => ha (writers_sub h)]

/-- The u registers after the link pairs are written: those of the slot of the lowest thread. -/
theorem State.linked_u (hd : (∃ n, lo = .g n ∧ hi = .g (n + 1)) ∨ (∃ n, lo = .u n ∧ hi = .u (n + 1)) ∨ (lo = .zr ∧ hi = .zr)) (j n : Nat) :
    ((s.issued i q).linked i.core lo hi v (writers [lo, hi] (s.acting i q))).uOf i.core j n =
      match (s.acting i q).head? with
      | some m =>
        if j ≠ m / 16 then s.uOf i.core j n
        else if lo = .u n then (v m).setWidth 32
        else if hi = .u n then (v m >>> 32).setWidth 32
        else s.uOf i.core j n
      | none => s.uOf i.core j n := by
  have h4 := (s.issued_spec i q).2.2.2.1
  by_cases hu : ∃ c, lo = .u c ∧ hi = .u (c + 1)
  · obtain ⟨c, rfl, rfl⟩ := hu
    cases ha : s.acting i q with
    | nil => simp [writers, State.linked, State.uOf_of_map (h4 j)]
    | cons m ms =>
      have hm : m ∈ s.acting i q := by simp [ha]
      obtain ⟨sl, hs⟩ := State.issued_slot hm
      have hsl : ∀ n, sl.u.getD n 0 = s.uOf i.core (m / 16) n := fun n => by
        rw [← State.uOf_of_map (h4 (m / 16)) n, State.uOf, hs]
      simp only [writers, List.any_cons, Reg.isU, Bool.true_or, if_true, List.take_succ_cons, List.take_zero, State.linked,
        State.eachSlot_cons, State.eachSlot_nil, List.head?_cons]
      by_cases hj : j = m / 16
      · subst hj
        simp only [State.uOf, State.slot_updSlot, hs, and_self, if_true, Option.map_some, Slot.u_write, hsl, ne_eq, not_true_eq_false,
          if_false]
        by_cases h1 : c = n
        · simp [h1]
        · simp [h1]
      · rw [if_pos hj, ← State.uOf_of_map (h4 j)]
        simp [State.uOf, State.slot_updSlot, hj]
  · obtain ⟨hlo, hhi⟩ : lo.isU = false ∧ hi.isU = false := by
      rcases hd with ⟨c, rfl, rfl⟩ | h | ⟨rfl, rfl⟩
      · exact ⟨rfl, rfl⟩
      · exact absurd h hu
      · exact ⟨rfl, rfl⟩
    have hl1 : lo ≠ .u n := fun h => by simp [h, Reg.isU] at hlo
    have hh1 : hi ≠ .u n := fun h => by simp [h, Reg.isU] at hhi
    rw [State.linked, State.uOf_of_map ((State.eachSlot_map Slot.u (fun m sl => by rw [Slot.write_not_u hhi, Slot.write_not_u hlo]) _ _ _).trans (h4 j))]
    cases (s.acting i q).head? <;> simp [hl1, hh1]

end

theorem controlTransfers : ControlTransfers := by
  refine ⟨?_, ?_, ?_, ?_⟩
  · intro s i f hl hg ht hm hd ha hb hc
    exact ⟨_, exec_nop hl hg ht hm hd ha hb hc, s.acts_id_goes i _⟩
  · intro s i f q target hl hg ht hm hd ha htgt
    refine ⟨(s.issued i q).branched s i q target, (done_next (c := .bra i f) hl.ok).trans (congrArg _ ?_), State.branched_goes⟩
    have hleg : (f.type == 0 && f.mod == 0 && f.sa == 0 && f.dst == 0) = true := by simp [ht, hm, hd, ha]
    rw [hleg]
    exact (State.issue_acts s i q _ _ hl hg).trans
      (State.branch_eq _ _ (fun m hm => by rw [State.issued_thread (State.mem_acting hm)]) htgt)
  · intro s i f a q hl hg ht hm hd hb hc ha htgt
    refine ⟨(s.issued i q).branched s i q (fun m => s.pairOf i.core m a), (done_next (c := .brx i f) hl.ok).trans (congrArg _ ?_),
      State.branched_goes⟩
    have hleg : (bareT f && f.dst == 0) = true := by simp [bareT, ht, hm, hd, hb, hc]
    simp only [hleg, regs_specifiers ha, Option.isSome_some, Bool.and_true, Option.getD_some]
    have hbound : q.bound = a.any Reg.isU := by simp [q, formOf]
    rw [← hbound]
    refine (State.issue_acts s i q _ _ hl hg).trans (State.branch_eq _ _ (fun m hm => ?_) htgt)
    obtain ⟨sl, hs⟩ := State.issued_slot hm
    simp only [hs, readNat_pair hs (specifiers_length ha), State.pairOf, State.regOf_issued hm]
  · intro s i f lo hi q target link hl hg ht hm ha hd htgt
    have hpair := specifiers_pair hd
    have hkind : [lo, hi].any Reg.isU = true → lo.isU = true ∧ hi.isU = true := by
      rcases hpair with ⟨n, rfl, rfl⟩ | ⟨n, rfl, rfl⟩ | ⟨rfl, rfl⟩ <;> simp [Reg.isU]
    have hy : ∀ m ∈ s.going i q, (((s.issued i q).linked i.core lo hi link (writers [lo, hi] (s.acting i q))).slot i.core (m / 16)).isSome :=
      fun m hm => by rw [State.linked, State.eachSlot_isSome]; exact State.issued_isSome hm
    refine ⟨((s.issued i q).linked i.core lo hi link (writers [lo, hi] (s.acting i q))).branched s i q target,
      (done_next (c := .call i f) hl.ok).trans (congrArg _ ?_), ?_, ?_, fun j n => ?_⟩
    · have hleg : (f.type == 0 && f.mod == 0 && f.sa == 0) = true := by simp [ht, hm, ha]
      have hbound : q.bound = [lo, hi].any Reg.isU := by simp [q, formOf]
      simp only [hleg, regs_specifiers hd, Option.isSome_some, Bool.and_true, Option.getD_some]
      rw [← hbound]
      refine (State.issue_acts s i q _ _ hl hg).trans
        ((State.branch_eq _ _ (fun m hm => by rw [State.issued_thread (State.mem_acting hm)]) htgt).trans ?_)
      congr 1
      refine foldl_eq_of_mem fun t m hm => ?_
      rw [State.issued_thread (State.mem_acting (writers_sub hm)), wordsOfNat_two]
      rfl
    · refine (s.issued_spec i q).1.inLanes rfl (State.branched_inLanes ?_ hy)
      exact State.eachSlot_inLanes (s.issued_inLanes_self i q) (fun m hm => State.issued_isSome (State.mem_acting (writers_sub hm)))
        (fun m sl => by simp)
    · exact State.branched_threads hy (State.linked_threads hkind)
    · rw [State.uOf_of_map (State.branched_map _ (fun _ _ _ => rfl) _ j)]
      exact State.linked_u hpair j n

end Sys2Proof.Machine

/-! SUPPORT. Writes of device memory change the bytes of memory, the die-cache lines and the snoop filter, and nothing else (R147 to R151). -/

namespace Sys2Proof.Machine

/-- At most the bytes of memory, the die-cache lines and the snoop filter differ. -/
def State.OnlyBytes (s t : State) : Prop :=
  ∃ m d n, t = { s with mem := { s.mem with mem := m, dlines := d, snoop := n } }

namespace State.OnlyBytes

variable {s t u : State}

theorem refl (s : State) : s.OnlyBytes s := ⟨_, _, _, rfl⟩

theorem trans (h : s.OnlyBytes t) (h' : t.OnlyBytes u) : s.OnlyBytes u := by
  obtain ⟨_, _, _, rfl⟩ := h
  obtain ⟨_, _, _, rfl⟩ := h'
  exact ⟨_, _, _, rfl⟩

theorem ite {c : Prop} [Decidable c] (ht : s.OnlyBytes t) (hu : s.OnlyBytes u) : s.OnlyBytes (if c then t else u) := by
  split <;> assumption

theorem foldl {α : Type} {f : State → α → State} (hf : ∀ (t : State) x, t.OnlyBytes (f t x)) (l : List α) (s : State) :
    s.OnlyBytes (l.foldl f s) := by
  induction l generalizing s with
  | nil => exact .refl s
  | cons x l ih => exact (hf s x).trans (ih _)

theorem pending (h : s.OnlyBytes t) : t.pending = s.pending := by obtain ⟨_, _, _, rfl⟩ := h; rfl
theorem grid (h : s.OnlyBytes t) : t.grid = s.grid := by obtain ⟨_, _, _, rfl⟩ := h; rfl
theorem courses (h : s.OnlyBytes t) : t.courses = s.courses := by obtain ⟨_, _, _, rfl⟩ := h; rfl
theorem tab (h : s.OnlyBytes t) : t.tab = s.tab := by obtain ⟨_, _, _, rfl⟩ := h; rfl
theorem fns (h : s.OnlyBytes t) : t.fns = s.fns := by obtain ⟨_, _, _, rfl⟩ := h; rfl
theorem engines (h : s.OnlyBytes t) : t.engines = s.engines := by obtain ⟨_, _, _, rfl⟩ := h; rfl
theorem fab (h : s.OnlyBytes t) : t.fab = s.fab := by obtain ⟨_, _, _, rfl⟩ := h; rfl
theorem truss (h : s.OnlyBytes t) : t.truss = s.truss := by obtain ⟨_, _, _, rfl⟩ := h; rfl
theorem pwr (h : s.OnlyBytes t) : t.pwr = s.pwr := by obtain ⟨_, _, _, rfl⟩ := h; rfl
theorem boot (h : s.OnlyBytes t) : t.boot = s.boot := by obtain ⟨_, _, _, rfl⟩ := h; rfl
theorem board (h : s.OnlyBytes t) : t.board = s.board := by obtain ⟨_, _, _, rfl⟩ := h; rfl
theorem free (h : s.OnlyBytes t) : t.free = s.free := by obtain ⟨_, _, _, rfl⟩ := h; rfl
theorem seqs (h : s.OnlyBytes t) : t.mem.seqs = s.mem.seqs := by obtain ⟨_, _, _, rfl⟩ := h; rfl
theorem reqs (h : s.OnlyBytes t) : t.mem.reqs = s.mem.reqs := by obtain ⟨_, _, _, rfl⟩ := h; rfl
theorem retries (h : s.OnlyBytes t) : t.mem.retries = s.mem.retries := by obtain ⟨_, _, _, rfl⟩ := h; rfl
theorem misses (h : s.OnlyBytes t) : t.mem.misses = s.mem.misses := by obtain ⟨_, _, _, rfl⟩ := h; rfl

end State.OnlyBytes

theorem State.onlyBytes_setMem (s : State) (m : Memory) : s.OnlyBytes (s.setMem m) := ⟨_, _, _, rfl⟩

theorem State.onlyBytes_setLine (s : State) (n : Nat) (l : DLine) : s.OnlyBytes (s.setLine n l) := ⟨_, _, _, rfl⟩

theorem State.onlyBytes_burst (s : State) (a : Nat) (gp : Option (Nat × Nat)) : s.OnlyBytes (s.burst a gp) := .ite (s.onlyBytes_setMem _) (.refl s)

theorem State.onlyBytes_memPut (s : State) (a : Nat) (b : Byte) (gp : Option (Nat × Nat)) : s.OnlyBytes (s.memPut a b gp) :=
  (s.onlyBytes_burst a gp).trans (State.onlyBytes_setMem ..)

theorem State.onlyBytes_poke (s : State) (a : Nat) (b : Byte) : s.OnlyBytes (s.poke a b) := by
  unfold State.poke
  split
  · exact s.onlyBytes_setLine ..
  · exact s.onlyBytes_memPut ..

theorem State.onlyBytes_pokeList (s : State) (a : Nat) (bs : List Byte) : s.OnlyBytes (s.pokeList a bs) := by
  induction bs generalizing s a with
  | nil => exact .refl s
  | cons b bs ih => exact (s.onlyBytes_poke a b).trans (ih ..)

theorem State.onlyBytes_pokeHusk (s : State) (w : Nat) (h : Bool) : s.OnlyBytes (s.pokeHusk w h) := by
  unfold State.pokeHusk
  split
  · exact s.onlyBytes_setLine ..
  · exact s.onlyBytes_setMem _

theorem State.onlyBytes_writeBytes (s : State) (a : Nat) (bs : List Byte) : s.OnlyBytes (s.writeBytes a bs) := by
  have hbytes : s.OnlyBytes ((s.unsnoop a bs.length).pokeList a bs) := .trans ⟨_, _, _, rfl⟩ (State.onlyBytes_pokeList ..)
  exact hbytes.trans (.foldl (fun t w => t.onlyBytes_pokeHusk w false) _ _)

theorem State.onlyBytes_writeNat (s : State) (a len v : Nat) : s.OnlyBytes (s.writeNat a len v) := s.onlyBytes_writeBytes ..

theorem State.onlyBytes_writeBack (s : State) (n : Nat) : s.OnlyBytes (s.writeBack n) := by
  unfold State.writeBack
  split
  · exact .refl s
  · split
    · exact .refl s
    · have hbytes := State.OnlyBytes.foldl (f := fun t (d : Nat × Byte) => t.memPut (128 * n + d.1) d.2 none)
        (fun t d => t.onlyBytes_memPut ..)
      have hhusks := State.OnlyBytes.foldl (f := fun t (d : Nat × Bool) => t.setHusks [8 * n + d.1] d.2) (fun t d => t.onlyBytes_setMem _)
      exact ((hbytes ..).trans (hhusks ..)).trans (State.onlyBytes_setLine ..)

theorem State.onlyBytes_writeObj (s : State) (a : Nat) (bs : List Byte) (part gen : Nat) : s.OnlyBytes (s.writeObj a bs part gen) :=
  ((s.onlyBytes_writeBytes a bs).trans (.foldl (fun t n => t.onlyBytes_writeBack n) _ _)).trans (.foldl (fun t _ => t.onlyBytes_burst _ _) _ _)

theorem State.onlyBytes_copyBytes (s : State) (src dst len : Nat) : s.OnlyBytes (s.copyBytes src dst len) :=
  (s.onlyBytes_writeBytes ..).trans (.foldl (fun t _ => t.onlyBytes_pokeHusk _ _) _ _)

theorem State.onlyBytes_writeCode (s : State) (a : Nat) (ws : List CodeWord) : s.OnlyBytes (s.writeCode a ws) :=
  (s.onlyBytes_writeBytes ..).trans (.foldl (fun t _ => .foldl (fun t w => t.onlyBytes_pokeHusk w true) _ t) _ _)

theorem State.onlyBytes_writePieces (s : State) (ps : List (Nat × Nat)) (bs : List Byte) : s.OnlyBytes (s.writePieces ps bs) := by
  induction ps generalizing s bs with
  | nil => exact .refl s
  | cons p ps ih => exact (s.onlyBytes_writeBytes ..).trans (ih ..)

/-! ## The near-core cache at a task boundary (R146) -/

/-- The units of the device after a core has written its near-core lines back and dropped them. -/
theorem State.flushNear_spec (s : State) (core : Nat) :
    (s.flushNear core).fns = s.fns ∧ (s.flushNear core).tab = s.tab ∧ (∀ k j, (s.flushNear core).slot k j = s.slot k j) ∧
      ((s.flushNear core).core core).lines = [] := by
  have hw : s.OnlyBytes ((s.core core).lines.foldl (fun t (l : Nat × NLine) =>
      l.2.dirty.foldl (fun t d => t.writeBytes (64 * l.1 + d) [l.2.bytes.getD d 0]) t) s) :=
    .foldl (fun t l => .foldl (fun t d => t.onlyBytes_writeBytes ..) _ t) _ _
  unfold State.flushNear State.writeBackNear
  generalize (s.core core).lines.foldl _ s = t at hw
  have hcore : ∀ k, t.core k = s.core k := fun k => by rw [State.core, State.core, hw.grid]
  refine ⟨hw.fns, hw.tab, fun k j => ?_, by simp⟩
  simp only [State.slot, State.core_updCore, if_true]
  split
  · next h => rw [h, hcore]
  · rw [hcore]

end Sys2Proof.Machine

/-! SUPPORT. The sheaf barrier and EXIT (R86, R98). -/

namespace Sys2Proof.Machine

open Sys2Proof.Claims

/-! ## What the parked threads of a slot amount to (R98) -/

theorem Slot.barTest_of_moving {sl : Slot} {p : Nat} (hp : p < 16) (hst : (sl.thread p).st ∉ [TState.exited, .parkBar, .parkWhole]) :
    sl.barTest = .wait := by
  simp only [List.mem_cons, List.not_mem_nil, or_false, not_or] at hst
  obtain ⟨hex, hbar, hwhole⟩ := hst
  have hmem : p ∈ (List.range 16).filter (fun p => (sl.thread p).st != .exited) := by simp [hp, hex]
  unfold Slot.barTest
  generalize (List.range 16).filter (fun p => (sl.thread p).st != .exited) = live at hmem
  cases live with
  | nil => rfl
  | cons p0 live =>
    have hall : (p0 :: live).all (fun p => (sl.thread p).st == .parkBar || (sl.thread p).st == .parkWhole) = false := by
      rw [List.all_eq_false]
      exact ⟨p, hmem, by simp [hbar, hwhole]⟩
    simp [hall]

theorem Slot.barTest_of_exited {sl : Slot} (h : ∀ p < 16, (sl.thread p).st = .exited) : sl.barTest = .wait := by
  have hlive : (List.range 16).filter (fun p => (sl.thread p).st != .exited) = [] := by
    rw [List.filter_eq_nil_iff]
    intro p hp
    simp [h p (List.mem_range.1 hp)]
  simp [Slot.barTest, hlive]

theorem Slot.barTest_of_barrier {sl : Slot} {id p : Nat} (hp : p < 16) (hex : (sl.thread p).st ≠ .exited)
    (h : ∀ p < 16, (sl.thread p).st ≠ .exited → (sl.thread p).st = .parkBar ∧ (sl.thread p).bar = id) : sl.barTest = .release := by
  have hmem : p ∈ (List.range 16).filter (fun p => (sl.thread p).st != .exited) := by simp [hp, hex]
  have hall : ∀ x ∈ (List.range 16).filter (fun p => (sl.thread p).st != .exited), (sl.thread x).st = .parkBar ∧ (sl.thread x).bar = id := by
    intro x hx
    rw [List.mem_filter] at hx
    exact h x (List.mem_range.1 hx.1) (by simpa using hx.2)
  unfold Slot.barTest
  generalize (List.range 16).filter (fun p => (sl.thread p).st != .exited) = live at hmem hall
  cases live with
  | nil => cases hmem
  | cons p0 live =>
    have h1 : (p0 :: live).all (fun p => (sl.thread p).st == .parkBar || (sl.thread p).st == .parkWhole) = true := by
      rw [List.all_eq_true]
      exact fun x hx => by simp [(hall x hx).1]
    have h2 : (p0 :: live).all (fun p => (sl.thread p).st == .parkBar && (sl.thread p).bar == (sl.thread p0).bar) = true := by
      rw [List.all_eq_true]
      exact fun x hx => by simp [hall x hx, hall p0 (List.mem_cons_self ..)]
    simp [h1, h2]

theorem Map.getD_map {α : Type} (g : α → α) (m : Map α) (n : Nat) (d : α) (hd : g d = d) :
    Map.getD (List.map (fun x => (x.1, g x.2)) m) n d = g (Map.getD m n d) := by
  induction m with
  | nil => simp [Map.getD, Map.get?, hd]
  | cons x m ih =>
    obtain ⟨l, b⟩ := x
    by_cases h : l = n
    · simp [Map.getD, Map.get?, h]
    · simpa [Map.getD, Map.get?, h] using ih

theorem Slot.thread_releaseBar (sl : Slot) (p : Nat) : sl.releaseBar.thread p =
    if (sl.thread p).st = .parkBar then { sl.thread p with st := .ready, pc := (sl.thread p).pc + 8 } else sl.thread p := by
  have h := Map.getD_map (fun th : Thread => if th.st = .parkBar then { th with st := .ready, pc := th.pc + 8 } else th)
    sl.threads p Thread.idle (by simp [Thread.idle])
  rw [Slot.thread, Slot.releaseBar, Slot.thread, ← h]
  congr 1
  refine List.map_congr_left fun x _ => ?_
  split <;> rfl

/-! ## The threads of a group are READY (R89) -/

theorem State.Leads.ready_slot {s : State} {i : Issue} {sl : Slot} (hl : s.Leads i) (hs : s.slot i.core (i.leader / 16) = some sl) :
    (sl.thread (i.leader % 16)).st = .ready := by
  have hc := hl.2.2
  unfold State.canLead at hc
  rw [hs] at hc
  simp only [Bool.and_eq_true, beq_iff_eq] at hc
  exact hc.1.1.1

theorem State.mem_groupOf_ready {s : State} {i : Issue} {q : Form} {m : Nat} (hl : s.Leads i) (hm : m ∈ s.groupOf i q) :
    (s.thread i.core m).st = .ready := by
  obtain ⟨sl, hs⟩ := hl.slot
  have hlead : (s.thread i.core i.leader).st = .ready := by
    simpa [State.thread, hs] using hl.ready_slot hs
  have hs' : (s.core i.core).slots.get? (i.leader / 16) = some sl := hs
  simp only [State.groupOf, Core.group, hs', List.mem_filterMap, List.mem_range] at hm
  obtain ⟨pos, hpos, hm⟩ := hm
  split at hm
  · cases hm; exact hlead
  · obtain ⟨k, hk, rfl⟩ := Option.map_eq_some_iff.1 hm
    have hj := List.find?_some hk
    split at hj
    · next sl' hsl' =>
      simp only [Bool.and_eq_true, beq_iff_eq] at hj
      have hslot : s.slot i.core ((16 * k + pos) / 16) = some sl' := by
        rw [show (16 * k + pos) / 16 = k by omega]; exact hsl'
      rw [State.thread, hslot]
      simpa [show (16 * k + pos) % 16 = pos by omega] using hj.1.2
    · cases hj

theorem State.thread_at {s : State} {k j p : Nat} {sl : Slot} (hs : s.slot k j = some sl) (hp : p < 16) :
    s.thread k (16 * j + p) = sl.thread p := by
  rw [State.thread, show (16 * j + p) / 16 = j by omega, show (16 * j + p) % 16 = p by omega, hs]

/-! ## BAR (R98) -/

/-- What BAR makes of the slot of a member: its thread stands at the barrier, which has recorded it. -/
def Slot.barArrive (id m : Nat) (sl : Slot) : Slot :=
  let sl := sl.updThread (m % 16) (fun th => { th with st := .parkBar, bar := id })
  if sl.barMask = 0 ∨ sl.barId = id then { sl with barId := id, barMask := setBitN sl.barMask (m % 16) } else sl

theorem Slot.thread_barArrive (id m : Nat) (sl : Slot) (p : Nat) : (sl.barArrive id m).thread p =
    if p = m % 16 then { sl.thread p with st := .parkBar, bar := id } else sl.thread p := by
  have h : (sl.barArrive id m).threads = (sl.updThread (m % 16) (fun th => { th with st := .parkBar, bar := id })).threads := by
    simp only [Slot.barArrive]
    split <;> rfl
  rw [Slot.thread, h]
  refine (Slot.thread_updThread sl (m % 16) p _).trans ?_
  split <;> simp [*]

section
variable {s : State} {i : Issue} {q : Form}

/-- The members with a false guard go on, and each acting one changes its slot. -/
def State.goEach (s : State) (i : Issue) (q : Form) (F : Nat → Slot → Slot) : State :=
  ((s.issued i q).nextPc i.core (s.idling i q)).eachSlot i.core F (s.acting i q)

theorem State.nextPc_map {β : Type} (g : Slot → β) (hg : ∀ (sl : Slot) p f, g (sl.updThread p f) = g sl) (t : State) (k : Nat) (ms : List Nat)
    (j : Nat) : ((t.nextPc k ms).slot k j).map g = (t.slot k j).map g := State.eachSlot_map g (fun _ _ => hg ..) t ms j

theorem State.nextPc_isSome (t : State) (k : Nat) (ms : List Nat) (j : Nat) : ((t.nextPc k ms).slot k j).isSome = (t.slot k j).isSome :=
  State.eachSlot_isSome t ms j

theorem State.nextPc_thread {t : State} {k : Nat} {ms : List Nat} (hs : ∀ m ∈ ms, (t.slot k (m / 16)).isSome) (hn : ms.Nodup) (n : Nat) :
    (t.nextPc k ms).thread k n = if n ∈ ms then (t.thread k n).past else t.thread k n :=
  (State.nextPc_spec t k ms hs hn).2.1 n

theorem State.idling_isSome {m : Nat} (hm : m ∈ s.idling i q) : ((s.issued i q).slot i.core (m / 16)).isSome :=
  State.issued_isSome (State.mem_idling.1 hm).1

theorem State.idled_isSome {m : Nat} (hm : m ∈ s.acting i q) :
    (((s.issued i q).nextPc i.core (s.idling i q)).slot i.core (m / 16)).isSome := by
  rw [State.nextPc_isSome]
  exact State.issued_isSome (State.mem_acting hm)

theorem State.issued_map_isSome (s : State) (i : Issue) (q : Form) (j : Nat) :
    ((s.issued i q).slot i.core j).isSome = (s.slot i.core j).isSome := by
  simpa using congrArg Option.isSome ((s.issued_spec i q).1.2.2 j)

theorem State.goEach_isSome (F : Nat → Slot → Slot) (j : Nat) : ((s.goEach i q F).slot i.core j).isSome = (s.slot i.core j).isSome := by
  rw [State.goEach, State.eachSlot_isSome, State.nextPc_isSome, State.issued_map_isSome]

theorem State.goEach_only (F : Nat → Slot → Slot) : s.OnlyCore (s.goEach i q F) i.core :=
  State.eachSlot_only (State.eachSlot_only (s.issued_spec i q).1.1 fun _ hm => State.idling_isSome hm) fun _ hm => State.idled_isSome hm

theorem State.goEach_onlyThreads {F : Nat → Slot → Slot} (hrest : ∀ m sl, (F m sl).rest = sl.rest) : s.OnlyThreads (s.goEach i q F) i :=
  (s.issued_spec i q).1.inLanes rfl (State.eachSlot_inLanes
    (State.eachSlot_inLanes (s.issued_inLanes_self i q) (fun _ hm => State.idling_isSome hm) fun _ _ => rfl)
    (fun _ hm => State.idled_isSome hm) hrest)

theorem State.goEach_map {β : Type} {F : Nat → Slot → Slot} (g : Slot → β) (hg : ∀ (sl : Slot) p f, g (sl.updThread p f) = g sl)
    (hF : ∀ m sl, g (F m sl) = g sl) (j : Nat) : ((s.goEach i q F).slot i.core j).map g = ((s.issued i q).slot i.core j).map g :=
  (State.eachSlot_map g hF _ _ j).trans (State.nextPc_map g hg _ _ _ j)

theorem State.goEach_u {F : Nat → Slot → Slot} (hF : ∀ m sl, (F m sl).u = sl.u) (j : Nat) :
    ((s.goEach i q F).slot i.core j).map Slot.u = (s.slot i.core j).map Slot.u :=
  (State.goEach_map Slot.u (fun _ _ _ => rfl) hF j).trans ((s.issued_spec i q).2.2.2.1 j)

theorem State.goEach_pend {F : Nat → Slot → Slot} (hF : ∀ m sl, (F m sl).pend = sl.pend) (j : Nat) :
    ((s.goEach i q F).slot i.core j).map Slot.pend = (s.slot i.core j).map Slot.pend :=
  (State.goEach_map Slot.pend (fun _ _ _ => rfl) hF j).trans ((s.issued_spec i q).2.2.2.2 j)

theorem State.goEach_threads {F : Nat → Slot → Slot} {th : Nat → Thread → Thread}
    (hF : ∀ m sl p, (F m sl).thread p = if p = m % 16 then th m (sl.thread p) else sl.thread p) : s.Threads (s.goEach i q F) i q th := by
  refine State.Threads.of_idling fun n => ?_
  rw [State.goEach, State.eachSlot_thread (fun _ hm => State.idled_isSome hm) (s.acting_nodup i q) hF,
    State.nextPc_thread (fun _ hm => State.idling_isSome hm) (s.idling_nodup i q)]
  by_cases ha : n ∈ s.acting i q
  · have hi : n ∉ s.idling i q := fun h => (State.mem_idling.1 h).2 ha
    simp [ha, hi, State.issued_thread (State.mem_acting ha)]
  · simp [ha]

/-- The state in which the acting members stand at a barrier, and the other members have gone on. -/
def State.atBar (s : State) (i : Issue) (q : Form) (id : Nat) : State := s.goEach i q (fun m sl => sl.barArrive id m)

theorem State.atBar_threads (id : Nat) : s.Threads (s.atBar i q id) i q (fun _ th => { th with st := .parkBar, bar := id }) :=
  State.goEach_threads fun m sl p => sl.thread_barArrive id m p

/-- A thread that does not act keeps its state, unless it begins to wait. -/
theorem State.Threads.st_of_not_acting {t : State} {act : Nat → Thread → Thread} (h : s.Threads t i q act) {m : Nat}
    (hm : m ∉ s.acting i q) : (t.thread i.core m).st = (s.thread i.core m).st ∨ (t.thread i.core m).st = .waitData := by
  rw [h m, if_neg hm]
  split
  · exact .inl rfl
  · split
    · exact .inr rfl
    · exact .inl rfl

end

theorem exec_bar {s : State} {i : Issue} {f : FormI} (hl : s.Leads i) (hg : guardLegal f.guard) (ht : f.type = 0) (hm : f.mod = 0)
    (hd : f.dst = 0) (ha : f.sa = 0) (hi : f.imm.toNat < 8) {q : Form} (hq : q = ⟨f.guard, true, []⟩) :
    exec (.bar i f) s = .next (if (s.acting i q).isEmpty then s.atBar i q f.imm.toNat
      else (s.atBar i q f.imm.toNat).testBar i.core (i.leader / 16) i.leader (iWord 0x05 f)) := by
  subst hq
  refine (done_next (c := .bar i f) hl.ok).trans (congrArg _ ?_)
  have hleg : (f.type == 0 && f.mod == 0 && f.sa == 0 && f.dst == 0 && decide (f.imm.toNat < 8)) = true := by simp [ht, hm, hd, ha, hi]
  rw [hleg, Nat.mod_eq_of_lt hi]
  exact State.issue_acts s i ⟨f.guard, true, []⟩ _ _ hl hg

theorem sheafBarrier : SheafBarrier := by
  intro s i f sl q id hl hg ht hm hd ha hi hs
  have hexec := exec_bar hl hg ht hm hd ha hi (q := q) rfl
  have hthreads := s.atBar_threads (i := i) (q := q) id
  obtain ⟨sl', hs'⟩ : ∃ sl', (s.atBar i q id).slot i.core (i.leader / 16) = some sl' := by
    rw [← Option.isSome_iff_exists, State.atBar, State.goEach_isSome, hs]; rfl
  have hthr' : ∀ p < 16, sl'.thread p = (s.atBar i q id).thread i.core (16 * (i.leader / 16) + p) := fun p hp => (State.thread_at hs' hp).symm
  have hthr : ∀ p < 16, s.thread i.core (16 * (i.leader / 16) + p) = sl.thread p := fun p hp => State.thread_at hs hp
  refine ⟨fun ⟨p, hp, hst, hna⟩ => ⟨_, hexec, ?_⟩, fun hne hall => ⟨_, hexec, ?_⟩⟩
  · have hwait : sl'.barTest = .wait := by
      refine Slot.barTest_of_moving hp ?_
      rw [hthr' p hp]
      rcases hthreads.st_of_not_acting hna with h | h
      · rw [h, hthr p hp]; exact hst
      · rw [h]; decide
    have htest : (s.atBar i q id).testBar i.core (i.leader / 16) i.leader (iWord 0x05 f) = s.atBar i q id := by
      simp [State.testBar, hs', hwait]
    rw [htest, ite_self]
    exact ⟨State.goEach_only _, hthreads⟩
  · have hne' : (s.acting i q).isEmpty = false := by simpa using hne
    rw [hne']
    have hst : ∀ p < 16, (sl.thread p).st ≠ .exited → sl'.thread p = { sl.thread p with st := .parkBar, bar := id } := by
      intro p hp hex
      rw [hthr' p hp, hthreads, ← hthr p hp]
      by_cases ha : 16 * (i.leader / 16) + p ∈ s.acting i q
      · rw [if_pos ha]
      · obtain ⟨hbar, hid⟩ := hall p hp hex ha
        have hng : 16 * (i.leader / 16) + p ∉ s.groupOf i q := fun h => by
          have := State.mem_groupOf_ready hl h
          rw [hthr p hp, hbar] at this
          cases this
        rw [if_neg ha, if_neg fun h => hng (State.mem_going.1 h).1, if_neg hng, hthr p hp, ← hid, ← hbar]
    have hexited : ∀ p < 16, (sl.thread p).st = .exited → (sl'.thread p).st = .exited := by
      intro p hp hex
      have hng : 16 * (i.leader / 16) + p ∉ s.groupOf i q := fun h => by
        have := State.mem_groupOf_ready hl h
        rw [hthr p hp, hex] at this
        cases this
      have hngo : 16 * (i.leader / 16) + p ∉ s.going i q := fun h => hng (State.mem_going.1 h).1
      rw [hthr' p hp, hthreads, if_neg fun h => hngo (State.mem_acting h), if_neg hngo, if_neg hng, hthr p hp, hex]
    have hlead : (sl.thread (i.leader % 16)).st ≠ .exited := by
      rw [hl.ready_slot hs]
      decide
    have hrelease : sl'.barTest = .release := by
      refine Slot.barTest_of_barrier (id := id) (p := i.leader % 16) (by omega) ?_ fun p hp hex => ?_
      · rw [hst _ (by omega) hlead]
        simp
      · rw [hst p hp fun h => hex (hexited p hp h)]
        exact ⟨rfl, rfl⟩
    have htest : (s.atBar i q id).testBar i.core (i.leader / 16) i.leader (iWord 0x05 f) =
        (s.atBar i q id).updSlot i.core (i.leader / 16) Slot.releaseBar := by
      simp [State.testBar, hs', hrelease]
    simp only [Bool.false_eq_true, if_false]
    rw [htest]
    have hsome : ((s.atBar i q id).slot i.core (i.leader / 16)).isSome := by rw [hs']; rfl
    refine ⟨(State.goEach_only _).trans (State.updSlot_only _ _ _ _ hsome), fun p hp hex => ?_⟩
    rw [State.thread_updSlot _ _ _ _ _ hsome, if_pos (by omega), hs', Option.map_some, Option.getD_some,
      show (16 * (i.leader / 16) + p) % 16 = p by omega, Slot.thread_releaseBar, hst p hp hex]
    simp

/-! ## EXIT (R86) -/

section
variable {s : State} {i : Issue} {q : Form}

/-- The state in which the acting members have exited, and the other members have gone on. -/
def State.exited (s : State) (i : Issue) (q : Form) : State :=
  s.goEach i q (fun m sl => sl.updThread (m % 16) (fun th => { th with st := .exited }))

theorem State.exited_goes : s.Goes (s.exited i q) i q (fun _ th => { th with st := .exited }) :=
  ⟨State.goEach_onlyThreads fun _ _ => rfl,
    State.goEach_threads (th := fun _ th => { th with st := .exited }) fun m sl p => by
      rw [Slot.thread_updThread]; split <;> simp [*],
    State.goEach_u fun _ _ => rfl, State.goEach_pend fun _ _ => rfl⟩

/-- Where no thread holds a token, exiting changes only the threads' state. -/
theorem State.exit_eq_eachSlot {t : State} {k : Nat} {ms : List Nat} (hs : ∀ m ∈ ms, (t.slot k (m / 16)).isSome)
    (htok : ∀ m ∈ ms, (t.thread k m).token = none) :
    ms.foldl (fun t m => (t.exitToken k m).updThread k m (fun th => { th with st := .exited })) t =
      t.eachSlot k (fun m sl => sl.updThread (m % 16) (fun th => { th with st := .exited })) ms := by
  induction ms generalizing t with
  | nil => rfl
  | cons m ms ih =>
    have hexit : t.exitToken k m = t := by simp [State.exitToken, htok m (List.mem_cons_self ..)]
    rw [List.foldl_cons, hexit, State.eachSlot_cons]
    refine ih (fun n hn => ?_) (fun n hn => ?_)
    · exact (State.eachSlot_isSome (F := fun m sl => sl.updThread (m % 16) (fun th => { th with st := .exited })) t [m] (n / 16)).trans
        (hs n (List.mem_cons_of_mem _ hn))
    · rw [State.thread_updThread _ _ _ _ _ (hs m (List.mem_cons_self ..))]
      split
      · exact htok m (List.mem_cons_self ..)
      · exact htok n (List.mem_cons_of_mem _ hn)

end

/-- What EXIT does to a slot after its threads have exited: the barrier's test, the whole-sheaf instruction, the end of the sheaf. -/
def State.afterExit (t : State) (i : Issue) (on : List Nat) (w k : Nat) : State :=
  ((t.testBar i.core k ((on.find? (fun m => m / 16 == k)).getD i.leader) w).wholeIssue i.core k).endSheaf i.core k

theorem exec_exit {s : State} {i : Issue} {f : FormT} (hl : s.Leads i) (hg : guardLegal f.guard) (ht : f.type = 0) (hm : f.mod = 0)
    (hd : f.dst = 0) (ha : f.sa = 0) (hb : f.sb = 0) (hc : f.sc = 0) {q : Form} (hq : q = ⟨f.guard, false, []⟩)
    (htok : ∀ m ∈ s.acting i q, (s.thread i.core m).token = none) :
    exec (.exit i f) s = .next ((slotsOf (s.acting i q)).foldl (fun t k => t.afterExit i (s.acting i q) (tWord 0x04 f) k) (s.exited i q)) := by
  refine (done_next (c := .exit i f) hl.ok).trans (congrArg _ ?_)
  have hleg : (bareT f && f.sa == 0 && f.dst == 0) = true := by simp [bareT, ht, hm, hd, ha, hb, hc]
  rw [hleg]
  refine (State.issue_acts s i ⟨f.guard, false, []⟩ _ _ hl hg).trans ?_
  rw [← hq]
  have hfold := State.exit_eq_eachSlot (t := (s.issued i q).nextPc i.core (s.idling i q)) (fun m hm => State.idled_isSome hm) fun m hm => by
    rw [State.nextPc_thread (fun _ hm => State.idling_isSome hm) (s.idling_nodup i q), State.issued_thread (State.mem_acting hm)]
    split <;> exact htok m hm
  exact congrArg (fun t => (slotsOf (s.acting i q)).foldl (fun t k => t.afterExit i (s.acting i q) (tWord 0x04 f) k) t) hfold

theorem State.afterExit_of_moving {t : State} {i : Issue} {on : List Nat} {w k p : Nat} {sl : Slot} (hs : t.slot i.core k = some sl)
    (hp : p < 16) (hst : (sl.thread p).st ∉ [TState.exited, .parkBar, .parkWhole]) : t.afterExit i on w k = t := by
  have hwait := Slot.barTest_of_moving hp hst
  have hover : sl.over = false := by
    have hall : (List.range 16).all (fun p => (sl.thread p).st == .exited) = false := by
      rw [List.all_eq_false]
      exact ⟨p, List.mem_range.2 hp, by simpa using fun h => hst (by simp [h])⟩
    rw [Slot.over, hall, Bool.and_false]
  simp [State.afterExit, State.testBar, State.wholeIssue, State.endSheaf, hs, hwait, hover]

theorem foldl_eq_self {α β : Type} {f : β → α → β} {b : β} {l : List α} (h : ∀ x ∈ l, f b x = b) : l.foldl f b = b := by
  induction l with
  | nil => rfl
  | cons x l ih => rw [List.foldl_cons, h x (List.mem_cons_self ..), ih fun y hy => h y (List.mem_cons_of_mem _ hy)]

/-! ## The end of a sheaf (R86) -/

theorem State.updSlot_rising {s : State} {k : Nat} (h : (s.core k).slots.rising) (j : Nat) (f : Slot → Slot) :
    ((s.updSlot k j f).core k).slots.rising := by
  unfold State.updSlot
  split
  · simpa using Map.put_rising h _ _
  · exact h

theorem State.eachSlot_rising {s : State} {k : Nat} (h : (s.core k).slots.rising) (F : Nat → Slot → Slot) (ms : List Nat) :
    ((s.eachSlot k F ms).core k).slots.rising := by
  induction ms generalizing s with
  | nil => exact h
  | cons m ms ih => exact ih (State.updSlot_rising h _ _)

theorem State.waitData_rising {s : State} {k : Nat} (h : (s.core k).slots.rising) (rs : List Reg) (ms : List Nat) :
    ((s.waitData k rs ms).core k).slots.rising := by
  induction ms generalizing s with
  | nil => exact h
  | cons m ms ih =>
    simp only [State.waitData]
    split
    · split
      · exact ih h
      · exact ih (State.updSlot_rising h _ _)
    · exact ih h

theorem State.issued_rising {s : State} {i : Issue} (h : (s.core i.core).slots.rising) (q : Form) :
    ((s.issued i q).core i.core).slots.rising := State.waitData_rising (by simpa using h) _ _

theorem State.slot_freeSlot {s : State} {k : Nat} (h : (s.core k).slots.rising) (j ctx n : Nat) :
    (s.freeSlot k j ctx).slot k n = if n = j then none else s.slot k n := by
  have hdel : ((s.core k).slots.del j).get? n = if n = j then none else (s.core k).slots.get? n := by
    split
    · next hn => rw [hn, Map.get?_del_self h]
    · next hn => exact Map.get?_del_of_ne _ hn
  simp only [State.freeSlot]
  split <;> simpa [State.slot] using hdel

theorem State.freeSlot_fns (s : State) (k j ctx : Nat) : (s.freeSlot k j ctx).fns = s.fns := by
  simp only [State.freeSlot]
  split <;> rfl

theorem State.queue_updEntry_self (s : State) (e : EntryRef) (f : QEntry → QEntry) : ((s.updEntry e f).queue e.fn e.q).entries =
    (s.queue e.fn e.q).entries.map (fun x => if x.n = e.n then f x else x) := by
  simp [State.updEntry, State.updQueue, State.queue, Map.getD_upd]

/-- The end of a sheaf: its slot is free, the others are as they were, and its launch counts it. -/
theorem State.endSheaf_spec {s : State} {k j : Nat} {sl : Slot} (hr : (s.core k).slots.rising) (hs : s.slot k j = some sl) (ho : sl.over = true) :
    (∀ n, (s.endSheaf k j).slot k n = if n = j then none else s.slot k n) ∧
    ∀ e, sl.launch = some e → ((s.endSheaf k j).queue e.fn e.q).entries =
      (s.queue e.fn e.q).entries.map (fun y => if y.n = e.n then { y with ended := y.ended + 1 } else y) := by
  have hfree := State.slot_freeSlot hr j sl.ctx
  have hq : ∀ fn q, (s.freeSlot k j sl.ctx).queue fn q = s.queue fn q := fun fn q => by
    rw [State.queue, State.fn, State.freeSlot_fns]; rfl
  have hcount : ∃ u : State, s.endSheaf k j = (if u.launchOn sl.launch sl.ctx k then u else u.flushNear k) ∧
      (∀ n, u.slot k n = if n = j then none else s.slot k n) ∧
      ∀ e, sl.launch = some e → (u.queue e.fn e.q).entries =
        (s.queue e.fn e.q).entries.map (fun y => if y.n = e.n then { y with ended := y.ended + 1 } else y) := by
    cases hl : sl.launch with
    | none => exact ⟨s.freeSlot k j sl.ctx, by simp [State.endSheaf, hs, ho, hl], hfree, fun e he => nomatch he⟩
    | some e =>
      refine ⟨(s.freeSlot k j sl.ctx).updEntry e (fun x => { x with ended := x.ended + 1 }), by simp [State.endSheaf, hs, ho, hl], hfree, ?_⟩
      rintro e' he'
      cases he'
      rw [State.queue_updEntry_self, hq]
  obtain ⟨u, hu, hslot, hent⟩ := hcount
  rw [hu]
  split
  · exact ⟨hslot, hent⟩
  · obtain ⟨hfns, _, hsl, _⟩ := u.flushNear_spec k
    refine ⟨fun n => (hsl k n).trans (hslot n), fun e he => ?_⟩
    rw [State.queue, State.fn, hfns]
    exact hent e he

theorem exit : Exit := by
  intro s i f q hl hg ht hm hd ha hb hc htok
  have hexec := exec_exit hl hg ht hm hd ha hb hc (q := q) rfl htok
  obtain ⟨honly, hthreads, hu, hpend⟩ := s.exited_goes (i := i) (q := q)
  refine ⟨fun hmove => ⟨s.exited i q, hexec.trans (congrArg _ ?_), s.exited_goes⟩, ?_⟩
  · refine foldl_eq_self fun k hk => ?_
    obtain ⟨m, hma, hmk⟩ := List.any_eq_true.1 (List.mem_filter.1 hk).2
    obtain rfl : m / 16 = k := by simpa using hmk
    obtain ⟨p, hp, hna, hst⟩ := hmove m hma
    obtain ⟨sl, hs⟩ : ∃ sl, (s.exited i q).slot i.core (m / 16) = some sl := by
      obtain ⟨sl0, hs0⟩ := State.acting_slot hma
      have := hu (m / 16)
      rw [hs0] at this
      obtain ⟨sl, hs, _⟩ := Option.map_eq_some_iff.1 this
      exact ⟨sl, hs⟩
    refine State.afterExit_of_moving hs hp ?_
    rw [← State.thread_at hs hp]
    rcases hthreads.st_of_not_acting hna with h | h
    · rw [h]; exact hst
    · rw [h]; decide
  · intro sl hs hp0 hne hr hsame hall
    have hl4 : i.leader / 16 < 4 := by have := hl.2.1; omega
    obtain ⟨sl', hs'⟩ : ∃ sl', (s.exited i q).slot i.core (i.leader / 16) = some sl' := by
      rw [← Option.isSome_iff_exists, State.exited, State.goEach_isSome, hs]; rfl
    have hrest : sl'.rest = sl.rest := by simpa [hs, hs'] using honly.2.2 (i.leader / 16)
    have hlaunch : sl'.launch = sl.launch := show sl'.rest.launch = sl.rest.launch by rw [hrest]
    have hpend' : sl'.pend = [] := by simpa [hs, hs', hp0] using hpend (i.leader / 16)
    have hex : ∀ p < 16, (sl'.thread p).st = .exited := by
      intro p hp
      rw [← State.thread_at hs' hp, hthreads]
      rcases hall p hp with h | h
      · have hng : 16 * (i.leader / 16) + p ∉ s.groupOf i q := fun hm => by
          have := State.mem_groupOf_ready hl hm
          rw [State.thread_at hs hp, h] at this
          cases this
        have hngo : 16 * (i.leader / 16) + p ∉ s.going i q := fun h => hng (State.mem_going.1 h).1
        rw [if_neg fun h => hngo (State.mem_acting h), if_neg hngo, if_neg hng, State.thread_at hs hp, h]
      · rw [if_pos h]
    have hover : sl'.over = true := by
      rw [Slot.over, hpend', List.isEmpty_nil, Bool.true_and, List.all_eq_true]
      exact fun p hp => by simp [hex p (List.mem_range.1 hp)]
    have hslots : slotsOf (s.acting i q) = [i.leader / 16] := by
      obtain ⟨m, hm⟩ := List.exists_mem_of_ne_nil _ hne
      have hany : ∀ k, (s.acting i q).any (fun m => m / 16 == k) = (i.leader / 16 == k) := by
        intro k
        rw [Bool.eq_iff_iff, List.any_eq_true, beq_iff_eq]
        exact ⟨fun ⟨n, hn, hnk⟩ => by rw [← hsame n hn]; simpa using hnk, fun h => ⟨m, hm, by rw [hsame m hm]; simpa using h⟩⟩
      simp only [slotsOf, hany]
      generalize i.leader / 16 = l at hl4
      match l, hl4 with
      | 0, _ | 1, _ | 2, _ | 3, _ => rfl
    have hafter : (s.exited i q).afterExit i (s.acting i q) (tWord 0x04 f) (i.leader / 16) =
        (s.exited i q).endSheaf i.core (i.leader / 16) := by
      simp [State.afterExit, State.testBar, State.wholeIssue, hs', Slot.barTest_of_exited hex]
    have hr' : ((s.exited i q).core i.core).slots.rising := State.eachSlot_rising (State.eachSlot_rising (s.issued_rising hr q) _ _) _ _
    obtain ⟨hfree, hent⟩ := State.endSheaf_spec hr' hs' hover
    rw [hslots, List.foldl_cons, List.foldl_nil, hafter] at hexec
    refine ⟨_, hexec, by rw [hfree, if_pos rfl], fun j hj => ?_, fun e he => ?_⟩
    · rw [hfree, if_neg hj, State.exited, State.goEach_isSome]
    · have hq : (s.exited i q).queue e.fn e.q = s.queue e.fn e.q := by rw [honly.1]; rfl
      rw [hent e (hlaunch.trans he), hq]

/-- Settles O5. -/
theorem controlAndBarriers : Obligations.ControlAndBarriers := ⟨controlTransfers, sheafBarrier, exit⟩

end Sys2Proof.Machine

/-! SUPPORT. Loads, stores and atomics: one request for each acting thread (R117, R119, R147). -/

namespace Sys2Proof.Machine

open Sys2Proof.Claims

/-! ## Slots and memory change apart -/

theorem State.updSlot_setMem (s : State) (M : Mem) (k j : Nat) (F : Slot → Slot) :
    ({ s with mem := M }).updSlot k j F = { s.updSlot k j F with mem := M } := by
  unfold State.updSlot
  have hs : State.slot { s with mem := M } k j = s.slot k j := rfl
  rw [hs]
  cases s.slot k j <;> rfl

theorem State.nextPc_setMem (s : State) (M : Mem) (k : Nat) (ms : List Nat) :
    ({ s with mem := M }).nextPc k ms = { s.nextPc k ms with mem := M } := by
  induction ms generalizing s with
  | nil => rfl
  | cons m ms ih =>
    rw [State.nextPc, List.foldl_cons, State.updThread, State.updSlot_setMem]
    exact ih _

/-! ## Awaited registers, thread by thread -/

/-- Make registers of each thread of a list awaited, under rising tags. -/
def State.awaitEach (k : Nat) (d : Nat → List Reg) : State → Nat → List Nat → State
  | s, _, [] => s
  | s, tag, m :: ms => State.awaitEach k d (s.await k m tag (d m)) (tag + 1) ms

/-- What is pending for a slot after the awaits of a list. -/
def awaitings (d : Nat → List Reg) (j : Nat) (ms : List (Nat × Nat)) : List Pend :=
  (ms.filter (fun x => x.1 / 16 == j)).flatMap (fun x => pendings x.2 (x.1 % 16) false (d x.1) (List.replicate (d x.1).length 0))

theorem State.awaitEach_spec {s : State} {k : Nat} {d : Nat → List Reg} {tag : Nat} {ms : List Nat}
    (hs : ∀ m ∈ ms, (s.slot k (m / 16)).isSome) :
    (∀ s0 : State, s0.InLanes s k → s0.InLanes (State.awaitEach k d s tag ms) k) ∧
    (∀ n, (State.awaitEach k d s tag ms).thread k n = s.thread k n) ∧
    (∀ j, ((State.awaitEach k d s tag ms).slot k j).map Slot.u = (s.slot k j).map Slot.u) ∧
    ∀ j, ((State.awaitEach k d s tag ms).slot k j).map Slot.pend =
      (s.slot k j).map (fun sl => sl.pend ++ awaitings d j (ms.zipIdx tag)) := by
  induction ms generalizing s tag with
  | nil => simp [State.awaitEach, awaitings]
  | cons m ms ih =>
    have hm := hs m (List.mem_cons_self ..)
    have hl := s.updSlot_inLanes k (m / 16) (fun sl => sl.pendAll tag (m % 16) (d m) (List.replicate (d m).length 0) false) hm
      (fun sl => by simp)
    have ht := fun n => s.thread_pendAll k (m / 16) n (fun sl => sl.pendAll tag (m % 16) (d m) (List.replicate (d m).length 0) false) hm
      (fun sl p => by simp)
    have hu := fun n => s.slot_updSlot_map k (m / 16) n (fun sl => sl.pendAll tag (m % 16) (d m) (List.replicate (d m).length 0) false) Slot.u
      (fun sl => by simp)
    have hp := fun j => s.slot_updSlot k (m / 16) k j (fun sl => sl.pendAll tag (m % 16) (d m) (List.replicate (d m).length 0) false)
    obtain ⟨h1, h2, h3, h4⟩ := ih (s := s.await k m tag (d m)) (tag := tag + 1)
      (fun n hn => by rw [State.await, hl.isSome]; exact hs n (List.mem_cons_of_mem _ hn))
    refine ⟨fun s0 h0 => h1 s0 (h0.trans hl), fun n => (h2 n).trans (ht n), fun j => (h3 j).trans (hu j), fun j => (h4 j).trans ?_⟩
    rw [State.await, hp]
    by_cases hj : j = m / 16
    · subst hj
      cases s.slot k (m / 16) <;> simp [Slot.pend_pendAll, awaitings]
    · have : (m / 16 == j) = false := by simpa using Ne.symm hj
      simp [hj, this, awaitings]

/-! ## Requests, thread by thread -/

/-- Each thread of a list awaits its registers and hands a request to the home slices. -/
def State.askEach (k : Nat) (d : Nat → List Reg) (R : Nat → Nat → MemReq) : State → Nat → List Nat → State
  | s, _, [] => s
  | s, n, m :: ms => State.askEach k d R { s.await k m s.mem.nextTag (d m) with
      mem := { s.mem with nextTag := s.mem.nextTag + 1, reqs := s.mem.reqs ++ [R m n] } } (n + 1) ms

theorem State.awaitEach_setMem (s : State) (M : Mem) (k : Nat) (d : Nat → List Reg) (tag : Nat) (ms : List Nat) :
    State.awaitEach k d { s with mem := M } tag ms = { State.awaitEach k d s tag ms with mem := M } := by
  induction ms generalizing s tag with
  | nil => rfl
  | cons m ms ih =>
    rw [State.awaitEach, State.await, State.updSlot_setMem]
    exact ih ..

theorem State.askEach_eq (s : State) (k : Nat) (d : Nat → List Reg) (R : Nat → Nat → MemReq) (n : Nat) (ms : List Nat) :
    State.askEach k d R s n ms = { State.awaitEach k d s s.mem.nextTag ms with mem := { s.mem with
      nextTag := s.mem.nextTag + ms.length, reqs := s.mem.reqs ++ (ms.zipIdx n).map (fun x => R x.1 x.2) } } := by
  induction ms generalizing s n with
  | nil =>
    simp only [State.askEach, State.awaitEach, List.length_nil, Nat.add_zero, List.zipIdx_nil, List.map_nil, List.append_nil]
  | cons m ms ih =>
    rw [State.askEach, ih, State.awaitEach_setMem]
    simp only [State.awaitEach, List.length_cons, List.zipIdx_cons, List.map_cons, List.append_assoc, List.singleton_append]
    rw [Nat.add_right_comm, Nat.add_assoc _ ms.length]

/-- What the accesses of earlier threads of a group leave as it was: everything but the awaited registers, the tags and the requests. -/
def State.Asking (x t : State) (k : Nat) : Prop :=
  ∃ v tag reqs, x.InLanes v k ∧ (∀ n, v.thread k n = x.thread k n) ∧ t = { v with mem := { x.mem with nextTag := tag, reqs := reqs } }

theorem State.foldl_eq_askEach {x : State} {k : Nat} {d : Nat → List Reg} {R : Nat → Nat → MemReq} {f : State → Nat → State} {tag0 : Nat} {ms : List Nat}
    (hs : ∀ m ∈ ms, (x.slot k (m / 16)).isSome)
    (hf : ∀ t n, ∀ m ∈ ms, x.Asking t k → t.mem.nextTag = tag0 + n → f t m = { t.await k m t.mem.nextTag (d m) with
      mem := { t.mem with nextTag := t.mem.nextTag + 1, reqs := t.mem.reqs ++ [R m n] } })
    {t : State} {n : Nat} (ht : x.Asking t k) (htag : t.mem.nextTag = tag0 + n) : ms.foldl f t = State.askEach k d R t n ms := by
  induction ms generalizing t n with
  | nil => rfl
  | cons m ms ih =>
    rw [List.foldl_cons, State.askEach, hf t n m (List.mem_cons_self ..) ht htag]
    refine ih (fun m hm => hs m (List.mem_cons_of_mem _ hm)) (fun t n m hm => hf t n m (List.mem_cons_of_mem _ hm)) ?_ (by simp [htag]; omega)
    obtain ⟨v, tag, reqs, hv, hth, rfl⟩ := ht
    have hm : (v.slot k (m / 16)).isSome := by rw [hv.isSome]; exact hs m (List.mem_cons_self ..)
    refine ⟨v.await k m tag (d m), tag + 1, reqs ++ [R m n], hv.trans (v.updSlot_inLanes k _ _ hm fun sl => by simp), fun n => ?_, ?_⟩
    · rw [State.await, State.thread_pendAll _ _ _ _ _ hm fun sl p => by simp, hth]
    · rw [State.await, State.updSlot_setMem]; rfl

end Sys2Proof.Machine

/-! SUPPORT. LD, ST and ATOM (R117, R119). -/

namespace Sys2Proof.Machine

open Sys2Proof.Claims

/-! ## What an access reads is as it was when the instruction issued -/

section
variable {x t : State} {k : Nat}

theorem State.Asking.refl (h : x.OnlyCore x k) : x.Asking x k := ⟨x, _, _, ⟨h, rfl, fun _ => rfl⟩, fun _ => rfl, rfl⟩

theorem State.Asking.reach (h : x.Asking t k) (ctx a len : Nat) (c : Acc) : t.reach ctx a len c = x.reach ctx a len c := by
  obtain ⟨v, tag, reqs, hv, _, rfl⟩ := h
  obtain ⟨g, rfl⟩ : ∃ g, v = { x with grid := g } := ⟨_, hv.1⟩
  rfl

theorem State.Asking.nearHolds (h : x.Asking t k) (ctx : Nat) (g : Target) : t.nearHolds ctx g = x.nearHolds ctx g := by
  obtain ⟨v, tag, reqs, hv, _, rfl⟩ := h
  rw [hv.1]; rfl

theorem State.Asking.nearHit (h : x.Asking t k) (a size : Nat) : t.nearHit k a size = x.nearHit k a size := by
  obtain ⟨v, tag, reqs, hv, _, rfl⟩ := h
  have hlines : (v.core k).lines = (x.core k).lines := by simpa using congrArg Core.lines hv.2.1
  unfold State.nearHit
  rw [show State.core { v with mem := { x.mem with nextTag := tag, reqs := reqs } } k = v.core k from rfl, hlines]

theorem State.Asking.thread (h : x.Asking t k) (n : Nat) : t.thread k n = x.thread k n := by
  obtain ⟨v, tag, reqs, _, hth, rfl⟩ := h
  exact hth n

theorem State.Asking.lomcon (h : x.Asking t k) (ctx : Nat) : t.lomcon ctx = x.lomcon ctx := by
  obtain ⟨v, tag, reqs, hv, _, rfl⟩ := h
  rw [hv.1]; rfl

end

@[simp] theorem State.await_mem (s : State) (k m tag : Nat) (d : List Reg) : (s.await k m tag d).mem = s.mem := by
  unfold State.await State.updSlot
  split <;> rfl

section
variable {s : State} {i : Issue} {q : Form}

theorem State.issued_nearHolds (s : State) (i : Issue) (q : Form) (ctx : Nat) (g : Target) :
    (s.issued i q).nearHolds ctx g = s.nearHolds ctx g := by
  rw [(s.issued_spec i q).1.1]; rfl

theorem State.issued_lomcon (s : State) (i : Issue) (q : Form) (ctx : Nat) : (s.issued i q).lomcon ctx = s.lomcon ctx := by
  rw [(s.issued_spec i q).1.1]; rfl

theorem State.issued_mem (s : State) (i : Issue) (q : Form) : (s.issued i q).mem = s.mem := by rw [(s.issued_spec i q).1.1]

theorem State.issued_nearHit (s : State) (i : Issue) (q : Form) (a size : Nat) : (s.issued i q).nearHit i.core a size = s.nearHit i.core a size := by
  have hlines : ((s.issued i q).core i.core).lines = (s.core i.core).lines := by simpa using congrArg Core.lines (s.issued_spec i q).1.2.1
  unfold State.nearHit
  rw [hlines]

theorem State.issued_pairOf {m : Nat} (hm : m ∈ s.acting i q) (l : List Reg) : (s.issued i q).pairOf i.core m l = s.pairOf i.core m l := by
  simp only [State.pairOf, State.regOf_issued hm]

theorem State.issued_addrOf {m : Nat} (hm : m ∈ s.acting i q) {a : List Reg} (ha : a.length = 2) (off : DWord) :
    (s.issued i q).addrOf i.core m a off = (s.pairOf i.core m a + off).toNat := by
  obtain ⟨sl, hs⟩ := State.issued_slot hm
  rw [State.addrOf, hs, ← State.issued_pairOf hm, ← readNat_pair hs ha]

theorem State.issued_regsNat {m : Nat} (hm : m ∈ s.acting i q) (l : List Reg) : (s.issued i q).regsNat i.core m l = s.regsNat i.core m l := by
  obtain ⟨sl, hs⟩ := State.acting_slot hm
  obtain ⟨sl', hs'⟩ := State.issued_slot hm
  have hth := State.issued_thread (State.mem_acting hm)
  have hu := (s.issued_spec i q).2.2.2.1 (m / 16)
  rw [hs, hs', Option.map_some, Option.map_some, Option.some.injEq] at hu
  rw [State.regsNat, State.regsNat, hs, hs']
  exact Slot.readNat_congr (by simpa [State.thread, hs, hs'] using congrArg Thread.g hth) hu l

theorem State.badAccess_eq_none {t : State} {ctx size : Nat} {c : Acc} {l : List (Nat × Nat)}
    (h : ∀ y ∈ l, y.2 % size = 0 ∧ (t.reach ctx y.2 size c).isSome) : t.badAccess ctx size c l = none := by
  induction l with
  | nil => rfl
  | cons y l ih =>
    obtain ⟨m, a⟩ := y
    obtain ⟨hal, hr⟩ := h _ (List.mem_cons_self ..)
    have hr' : (t.reach ctx a size c).isNone = false := by rw [← Option.not_isSome, hr]; rfl
    simp only [State.badAccess, hal, ne_eq, not_true_eq_false, if_false, hr', Bool.false_eq_true]
    exact ih (fun y hy => h y (List.mem_cons_of_mem _ hy))

theorem awaitings_zipIdx (d : Nat → List Reg) (j tag : Nat) (ms : List Nat) : awaitings d j (ms.zipIdx tag) =
    (ms.zipIdx.filter (fun x => x.1 / 16 == j)).flatMap (fun x =>
      pendings (tag + x.2) (x.1 % 16) false (d x.1) (List.replicate (d x.1).length 0)) := by
  rw [awaitings, List.zipIdx_eq_map_add, List.filter_map, List.flatMap_map]
  rfl

/-- A group whose members, or some of them, await registers, and then go on. -/
theorem State.asked_pendResult {d : Nat → List Reg} {ms : List Nat} (hsub : ∀ m ∈ ms, m ∈ s.acting i q) (tag : Nat) :
    s.PendResult ((State.awaitEach i.core d (s.issued i q) tag ms).nextPc i.core (s.going i q)) i q
      (fun j => awaitings d j (ms.zipIdx tag)) := by
  obtain ⟨h1, _, _, h4, h5⟩ := s.issued_spec i q
  obtain ⟨k1, k2, k3, k4⟩ := State.awaitEach_spec (s := s.issued i q) (k := i.core) (d := d) (tag := tag) (ms := ms)
    (fun m hm => State.issued_isSome (State.mem_acting (hsub m hm)))
  have k1' := k1 _ (s.issued_inLanes_self i q)
  obtain ⟨n1, n2, n3, n4⟩ := State.nextPc_spec (State.awaitEach i.core d (s.issued i q) tag ms) i.core (s.going i q)
    (fun m hm => by rw [k1'.isSome]; exact State.issued_isSome hm) (s.going_nodup i q)
  refine ⟨h1.inLanes rfl (n1 _ k1'), ?_, fun j => (n3 j).trans ((k3 j).trans (h4 j)), fun j => (n4 j).trans ((k4 j).trans ?_)⟩
  · refine State.Threads.of_act (act := fun _ th => th) (fun n => ?_) n2
    rw [k2]
    split
    · next ha => exact State.issued_thread (State.mem_acting ha)
    · rfl
  · have h5j := h5 j
    cases e1 : (s.issued i q).slot i.core j <;> cases e2 : s.slot i.core j <;>
      simp only [e1, e2, Option.map_none, Option.map_some, Option.some.injEq, reduceCtorEq] at h5j ⊢
    rw [h5j]

/-- The state after the requests of a group. -/
theorem State.asked_eq (d : Nat → List Reg) (R : Nat → Nat → MemReq) (ms : List Nat) :
    (State.askEach i.core d R (s.issued i q) 0 ms).nextPc i.core (s.going i q) =
      { (State.awaitEach i.core d (s.issued i q) s.mem.nextTag ms).nextPc i.core (s.going i q) with
        mem := { s.mem with nextTag := s.mem.nextTag + ms.zipIdx.length, reqs := s.mem.reqs ++ ms.zipIdx.map (fun x => R x.1 x.2) } } := by
  rw [State.askEach_eq, State.nextPc_setMem, State.issued_mem, List.length_zipIdx]

end

theorem loads_request : ∀ (s : State) (i : Issue) (f : FormI) (size : Nat) (sext : Bool) (a d : List Reg) (tgt : Nat → Target) (loc : Nat → Nat),
    let q := formOf f.guard false a d
    let addr (m : Nat) : Nat := (s.pairOf i.core m a + f.imm.signExtend 64).toNat
    let ms := (givers d (s.acting i q)).zipIdx
    s.Leads i → guardLegal f.guard → sizeOfType f.type.toNat = some (size, sext) → f.mod.toNat < 4 → specifiers 2 f.sa = some a →
    specifiers (regWidth size) f.dst = some d →
    (∀ m ∈ s.acting i q, addr m % size = 0 ∧ s.reach (s.slotCtx i) (addr m) size .r = some (tgt m) ∧ (tgt m).loc = some (loc m) ∧
      (s.nearHolds (s.slotCtx i) (tgt m) → s.nearHit i.core (loc m) size = none)) →
    ∃ u, s.PendResult u i q (fun j => (ms.filter (fun x => x.1 / 16 == j)).flatMap (fun x =>
        pendings (s.mem.nextTag + x.2) (x.1 % 16) false d (List.replicate d.length 0))) ∧
      exec (.ld i f) s = .next { u with mem := { s.mem with
        nextTag := s.mem.nextTag + ms.length
        reqs := s.mem.reqs ++ ms.map (fun x => { s.accessOf i (iWord 0x50 f) size f.mod.toNat .load (addr x.1) (loc x.1) x.1 x.2 with
          sext := sext, near := s.nearHolds (s.slotCtx i) (tgt x.1) }) } } := by
  intro s i f size sext a d tgt loc q addr ms hl hg hsize hmod ha hd hacc
  have hlen := specifiers_length ha
  have hsub : ∀ m ∈ givers d (s.acting i q), m ∈ s.acting i q := fun m hm => writers_sub hm
  refine ⟨(State.awaitEach i.core (fun _ => d) (s.issued i q) s.mem.nextTag (givers d (s.acting i q))).nextPc i.core (s.going i q), ?_, ?_⟩
  · have hp := State.asked_pendResult (d := fun _ => d) hsub s.mem.nextTag
    simp only [awaitings_zipIdx] at hp
    exact hp
  · refine (done_next (c := .ld i f) hl.ok).trans (congrArg _ ?_)
    have hbound : (a.any Reg.isU || d.any Reg.isU) = q.bound := by simp [q, formOf]
    simp only [hsize, regs_specifiers ha, regs_specifiers hd, Option.getD_some, Option.isSome_some, hmod, decide_true, Bool.and_true, hbound]
    refine (State.issue_acts s i q _ _ hl hg).trans ?_
    have hbad : (s.issued i q).badAccess (s.slotCtx i) size .r ((s.acting i q).map (fun m =>
        (m, (s.issued i q).addrOf i.core m a (f.imm.signExtend 64)))) = none := by
      refine State.badAccess_eq_none fun y hy => ?_
      obtain ⟨m, hm, rfl⟩ := List.mem_map.1 hy
      obtain ⟨hal, hr, _⟩ := hacc m hm
      rw [State.issued_addrOf hm hlen, (s.issued_spec i q).1.1.reach]
      exact ⟨hal, by rw [hr]; rfl⟩
    rw [hbad]
    refine Eq.trans ?_ (State.asked_eq (fun _ => d) (fun m n => { s.accessOf i (iWord 0x50 f) size f.mod.toNat .load (addr m) (loc m) m n with
      sext := sext, near := s.nearHolds (s.slotCtx i) (tgt m) }) _)
    refine congrArg (fun t => State.nextPc t i.core (s.going i q)) ?_
    refine State.foldl_eq_askEach (x := s.issued i q) (tag0 := s.mem.nextTag) (fun m hm => State.issued_isSome (State.mem_acting (hsub m hm))) ?_
      (.refl (s.issued_spec i q).2.1) (by rw [State.issued_mem]; rfl)
    intro t n m hm ht htag
    have hma := hsub m hm
    obtain ⟨hal, hr, hloc, hnear⟩ := hacc m hma
    have hr' : t.reach (s.slotCtx i) (addr m) size .r = some (tgt m) := by rw [ht.reach, (s.issued_spec i q).1.1.reach, hr]
    have hhit : (if s.nearHolds (s.slotCtx i) (tgt m) then t.nearHit i.core (loc m) size else none) = none := by
      rw [ht.nearHit, State.issued_nearHit]
      split
      · next h => exact hnear h
      · rfl
    rw [State.issued_addrOf hma hlen, State.loadOne, hr', htag]
    simp only [hloc, hhit, ht.nearHolds, State.issued_nearHolds, ht.thread, State.issued_thread (State.mem_acting hma)]
    simp only [State.newTag, State.await_mem, Option.getD_some, State.accessOf, htag]
    rfl

/-- Each thread of a list hands a request to the home slices and awaits nothing. -/
theorem State.foldl_handOver {x : State} {R : Nat → Nat → MemReq} {f : State → Nat → State} {tag0 : Nat} {ms : List Nat}
    (hf : ∀ n reqs, ∀ m ∈ ms, f { x with mem := { x.mem with nextTag := tag0 + n, reqs := reqs } } m =
      { x with mem := { x.mem with nextTag := tag0 + n + 1, reqs := reqs ++ [R m n] } }) (n : Nat) (reqs : List MemReq) :
    ms.foldl f { x with mem := { x.mem with nextTag := tag0 + n, reqs := reqs } } =
      { x with mem := { x.mem with nextTag := tag0 + n + ms.length, reqs := reqs ++ (ms.zipIdx n).map (fun y => R y.1 y.2) } } := by
  induction ms generalizing n reqs with
  | nil => simp
  | cons m ms ih =>
    rw [List.foldl_cons, hf n reqs m (List.mem_cons_self ..), Nat.add_assoc tag0 n 1,
      ih (fun n reqs m hm => hf n reqs m (List.mem_cons_of_mem _ hm))]
    simp only [List.length_cons, List.zipIdx_cons, List.map_cons, List.append_assoc, List.singleton_append]
    rw [show tag0 + (n + 1) + ms.length = tag0 + n + (ms.length + 1) by omega]

theorem stores_request : ∀ (s : State) (i : Issue) (f : FormI) (size : Nat) (a d : List Reg) (tgt : Nat → Target) (loc : Nat → Nat),
    let q := formOf f.guard false (a ++ d) []
    let addr (m : Nat) : Nat := (s.pairOf i.core m a + f.imm.signExtend 64).toNat
    let ms := (s.acting i q).zipIdx
    s.Leads i → guardLegal f.guard → sizeOfType f.type.toNat = some (size, false) → f.mod.toNat < 4 → specifiers 2 f.sa = some a →
    specifiers (regWidth size) f.dst = some d → s.lomcon (s.slotCtx i) = false →
    (∀ m ∈ s.acting i q, addr m % size = 0 ∧ s.reach (s.slotCtx i) (addr m) size .w = some (tgt m) ∧ (tgt m).loc = some (loc m)) →
    ∃ u, s.Goes u i q (fun _ th => th.past) ∧
      exec (.st i f) s = .next { u with mem := { s.mem with
        nextTag := s.mem.nextTag + ms.length
        reqs := s.mem.reqs ++ ms.map (fun x => { s.accessOf i (iWord 0x51 f) size f.mod.toNat .store (addr x.1) (loc x.1) x.1 x.2 with
          data := s.regsNat i.core x.1 d % 2 ^ (8 * size) }) } } := by
  intro s i f size a d tgt loc q addr ms hl hg hsize hmod ha hd hlom hacc
  have hlen := specifiers_length ha
  refine ⟨s.acts i q (fun t => t), s.acts_id_goes i q, (done_next (c := .st i f) hl.ok).trans (congrArg _ ?_)⟩
  have hbound : (a.any Reg.isU || d.any Reg.isU) = q.bound := by simp [q, formOf]
  simp only [hsize, regs_specifiers ha, regs_specifiers hd, Option.getD_some, Option.isSome_some, hmod, decide_true, Bool.and_true, hbound,
    Bool.not_false]
  refine (State.issue_acts s i q _ _ hl hg).trans ?_
  have hbad : (s.issued i q).badAccess (s.slotCtx i) size .w ((s.acting i q).map (fun m =>
      (m, (s.issued i q).addrOf i.core m a (f.imm.signExtend 64)))) = none := by
    refine State.badAccess_eq_none fun y hy => ?_
    obtain ⟨m, hm, rfl⟩ := List.mem_map.1 hy
    obtain ⟨hal, hr, _⟩ := hacc m hm
    rw [State.issued_addrOf hm hlen, (s.issued_spec i q).1.1.reach]
    exact ⟨hal, by rw [hr]; rfl⟩
  rw [hbad]
  have hfold := State.foldl_handOver (x := s.issued i q) (tag0 := s.mem.nextTag) (ms := s.acting i q)
    (R := fun m n => { s.accessOf i (iWord 0x51 f) size f.mod.toNat .store (addr m) (loc m) m n with
      data := s.regsNat i.core m d % 2 ^ (8 * size) })
    (f := fun t m => t.storeOne i.core (s.slotCtx i) m ((s.issued i q).addrOf i.core m a (f.imm.signExtend 64)) size
      ((s.issued i q).regsNat i.core m d % 2 ^ (8 * size)) f.mod.toNat (iWord 0x51 f))
    (fun n reqs m hm => ?_) 0 s.mem.reqs
  · have hx : ({ s.issued i q with mem := { (s.issued i q).mem with nextTag := s.mem.nextTag + 0, reqs := s.mem.reqs } } : State) =
        s.issued i q := by
      rw [← State.issued_mem s i q]
      rfl
    rw [hx] at hfold
    simp only [hfold, State.nextPc_setMem, State.issued_mem, ms, List.length_zipIdx]
    rfl
  · obtain ⟨hal, hr, hloc⟩ := hacc m hm
    have hask : (s.issued i q).Asking { s.issued i q with mem := { (s.issued i q).mem with nextTag := s.mem.nextTag + n, reqs := reqs } } i.core :=
      ⟨_, _, _, s.issued_inLanes_self i q, fun _ => rfl, rfl⟩
    have hr' := hask.reach (s.slotCtx i) (addr m) size .w
    rw [(s.issued_spec i q).1.1.reach, hr] at hr'
    have hlom' := hask.lomcon (s.slotCtx i)
    rw [State.issued_lomcon, hlom] at hlom'
    have hth := hask.thread m
    rw [State.issued_thread (State.mem_acting hm)] at hth
    simp only [State.issued_addrOf hm hlen, State.storeOne]
    rw [hr']
    simp only [hloc, hlom', hth, State.issued_regsNat hm]
    rfl

/-- A filter on the elements of a flatMap may be moved into its function. -/
theorem flatMap_filter_and {α β : Type} (p r : α → Bool) {g h : α → List β} {l : List α} (hgh : ∀ x ∈ l, h x = if r x then g x else []) :
    (l.filter (fun x => p x && r x)).flatMap g = (l.filter p).flatMap h := by
  induction l with
  | nil => rfl
  | cons x l ih =>
    have hx := hgh x (List.mem_cons_self ..)
    have ih := ih fun y hy => hgh y (List.mem_cons_of_mem _ hy)
    cases hp : p x with
    | false => simp [hp, ih]
    | true => cases hr : r x <;> simp [hp, hr, hx, ih]

/-- In a list without repetitions only the first element is its head. -/
theorem head?_zipIdx {l : List Nat} (hn : l.Nodup) {x : Nat × Nat} (hx : x ∈ l.zipIdx) : some x.1 = l.head? ↔ x.2 = 0 := by
  rw [List.mem_zipIdx_iff_getElem?] at hx
  rw [List.head?_eq_getElem?, ← hx]
  constructor
  · intro h
    have hlt : x.2 < l.length := by
      refine Classical.byContradiction fun hge => ?_
      rw [List.getElem?_eq_none (by omega)] at hx
      cases hx
    have h0 : 0 < l.length := by omega
    rw [List.getElem?_eq_getElem hlt, List.getElem?_eq_getElem h0, Option.some.injEq] at h
    exact (List.getElem_inj hn).1 h
  · intro h
    rw [h]

theorem atomRequests : AtomRequests := by
  intro s i f a b c d tgt loc op ord w q addr ms hl hg hop hmod ha hb hd hc hord hacc
  have hlen := specifiers_length ha
  obtain ⟨dm, hdm⟩ : ∃ dm : Nat → List Reg, dm = fun m => if d.any Reg.isU && some m != (s.acting i q).head? then [] else d := ⟨_, rfl⟩
  refine ⟨(State.awaitEach i.core dm (s.issued i q) s.mem.nextTag (s.acting i q)).nextPc i.core (s.going i q), ?_, ?_⟩
  · have hp := State.asked_pendResult (s := s) (i := i) (q := q) (d := dm) (ms := s.acting i q) (fun m hm => hm) s.mem.nextTag
    simp only [awaitings_zipIdx] at hp
    have hadd : ∀ j, (ms.filter (fun x => x.1 / 16 == j && (x.2 == 0 || !d.any Reg.isU))).flatMap (fun x =>
          pendings (s.mem.nextTag + x.2) (x.1 % 16) false d (List.replicate d.length 0)) =
        (ms.filter (fun x => x.1 / 16 == j)).flatMap (fun x =>
          pendings (s.mem.nextTag + x.2) (x.1 % 16) false (dm x.1) (List.replicate (dm x.1).length 0)) := by
      intro j
      refine flatMap_filter_and _ _ fun x hx => ?_
      have hhead := head?_zipIdx (s.acting_nodup i q) hx
      rw [hdm]
      cases hu : d.any Reg.isU with
      | false => simp
      | true =>
        by_cases h0 : x.2 = 0
        · simp [h0, hhead.2 h0]
        · have : ¬ some x.1 = (s.acting i q).head? := fun h => h0 (hhead.1 h)
          simp [h0, this, pendings]
    simp only [hadd]
    exact hp
  · refine (done_next (c := .atom i f) hl.ok).trans (congrArg _ ?_)
    have hrc : (if (ord || op == 11) = true then (regs 1 f.sc).getD [] else []) = c ∧
        (if (ord || op == 11) = true then (regs 1 f.sc).isSome else f.sc == 0) = true := by
      split at hc
      · next h =>
        have h' : (ord || op == 11) = true := by simpa using h
        simp [h', regs_specifiers hc]
      · next h =>
        have h' : ¬ (ord || op == 11) = true := by simpa using h
        simp [h', hc.1, hc.2]
    have hleg : (!ord || (decide (op ≤ 2) && f.dst == 0x30)) = true := by
      cases ho : ord with
      | false => rfl
      | true => simp [hord ho]
    have hbound : (a.any Reg.isU || b.any Reg.isU || c.any Reg.isU || d.any Reg.isU) = q.bound := by
      simp [q, formOf, Bool.or_assoc]
    have hleg' : (decide (op ≤ 12) && decide (f.mod.toNat < 8) && (regs 2 f.sa).isSome && (regs w f.sb).isSome && (regs w f.dst).isSome &&
        (if (ord || op == 11) = true then (regs 1 f.sc).isSome else f.sc == 0) && (!ord || (decide (op ≤ 2) && f.dst == 0x30))) = true := by
      simp only [hop, hmod, decide_true, regs_specifiers ha, regs_specifiers hb, regs_specifiers hd, Option.isSome_some, hrc.2, hleg, Bool.and_true]
    refine Eq.trans ?_ (State.asked_eq dm (fun m n =>
      { s.accessOf i (tWord 0x54 f) (atomSize op) (f.mod.toNat % 4) (if ord then .ordered op else .atom op) (addr m) (loc m) m n with
        data := s.regsNat i.core m b % 2 ^ (8 * atomSize op)
        cmp := if ord then 0 else s.regsNat i.core m c
        ordsc := if ord then BitVec.ofNat 32 (s.regsNat i.core m c) else 0 }) _)
    have hra : (regs 2 f.sa).getD [] = a := by rw [regs_specifiers ha]; rfl
    have hrb : (regs w f.sb).getD [] = b := by rw [regs_specifiers hb]; rfl
    have hrd : (regs w f.dst).getD [] = d := by rw [regs_specifiers hd]; rfl
    have hrc' := hrc.1
    simp only [op, ord, w] at hrb hrd hrc' hleg' hbound
    simp only [hra, hrb, hrd, hrc', hleg', hbound]
    refine (State.issue_acts s i q _ _ hl hg).trans ?_
    have haddr : ∀ m ∈ s.acting i q, (s.issued i q).addrOf i.core m a 0 = addr m := fun m hm =>
      (State.issued_addrOf hm hlen 0).trans (congrArg BitVec.toNat (BitVec.add_zero _))
    have hbad : (s.issued i q).badAccess (s.slotCtx i) (atomSize f.type.toNat) .a ((s.acting i q).map (fun m =>
        (m, (s.issued i q).addrOf i.core m a 0))) = none := by
      refine State.badAccess_eq_none fun y hy => ?_
      obtain ⟨m, hm, rfl⟩ := List.mem_map.1 hy
      obtain ⟨hal, hr, _⟩ := hacc m hm
      rw [haddr m hm, (s.issued_spec i q).1.1.reach]
      exact ⟨hal, by rw [hr]; rfl⟩
    rw [hbad]
    refine congrArg (fun t => State.nextPc t i.core (s.going i q)) ?_
    refine State.foldl_eq_askEach (x := s.issued i q) (tag0 := s.mem.nextTag) (fun m hm => State.issued_isSome (State.mem_acting hm)) ?_
      (.refl (s.issued_spec i q).2.1) (by rw [State.issued_mem]; rfl)
    intro t n m hm ht htag
    obtain ⟨hal, hr, hloc⟩ := hacc m hm
    have hr' : (s.issued i q).reach (s.slotCtx i) (addr m) (atomSize f.type.toNat) .a = some (tgt m) := by
      rw [(s.issued_spec i q).1.1.reach]; exact hr
    rw [haddr m hm, hr', htag]
    simp only [hloc, State.issued_thread (State.mem_acting hm), State.issued_regsNat hm, State.newTag, State.await_mem, State.accessOf, htag, hdm,
      Option.getD_some]
    rfl

/-- Settles O7. -/
theorem accessRequests : Obligations.AccessRequests := ⟨⟨loads_request, stores_request⟩, atomRequests⟩

end Sys2Proof.Machine

/-! SUPPORT. Courses: standby, rails off, wake, and the pacing of array starts (R397 to R400). -/

namespace Sys2Proof.Machine
open Sys2Proof.Claims

theorem exists_next {o : Host.Outcome State Fault Refusal} {t : State} {P : State → Prop} (h : o = .next t) (hp : P t) :
    ∃ t, o = .next t ∧ P t := ⟨t, h, hp⟩

/-- Admission reads only the number of cores of each start. -/
theorem admitted_map (f : Start → Start) (hf : ∀ x, (f x).cores = x.cores) (cr : Nat) (l : List Start) :
    admitted cr (l.map f) = ((admitted cr l).1, (admitted cr l).2.1.map f, (admitted cr l).2.2.map f) := by
  induction l generalizing cr with
  | nil => rfl
  | cons x xs ih =>
    simp only [List.map_cons, admitted, hf]
    split
    · simp only [ih, List.map_cons]
    · rfl

theorem admitted_append (cr : Nat) (l : List Start) : (admitted cr l).2.1 ++ (admitted cr l).2.2 = l := by
  induction l generalizing cr with
  | nil => rfl
  | cons x xs ih =>
    simp only [admitted]
    split
    · exact congrArg (x :: ·) (ih _)
    · rfl

theorem admitted_credit (cr : Nat) (l : List Start) :
    (admitted cr l).1 + ((admitted cr l).2.1.map Start.cores).sum = cr := by
  induction l generalizing cr with
  | nil => simp [admitted]
  | cons x xs ih =>
    simp only [admitted]
    split
    · have h : (admitted (cr - x.cores) xs).1 + ((admitted (cr - x.cores) xs).2.1.map Start.cores).sum = cr - x.cores := ih _
      change (admitted (cr - x.cores) xs).1 + (x.cores :: (admitted (cr - x.cores) xs).2.1.map Start.cores).sum = cr
      rw [List.sum_cons]
      omega
    · simp

theorem admitted_head (cr : Nat) (l : List Start) (y : Start) (h : (admitted cr l).2.2.head? = some y) :
    (admitted cr l).1 < y.cores := by
  induction l generalizing cr with
  | nil => simp [admitted] at h
  | cons x xs ih =>
    simp only [admitted] at h ⊢
    split
    · rw [if_pos ‹_›] at h; exact ih _ h
    · rw [if_neg ‹_›] at h
      obtain rfl : x = y := by simpa using h
      exact Nat.lt_of_not_le ‹_›

theorem State.gang_updFn (s : State) (n k : Nat) (f : Fn → Fn) : (s.updFn n f).gang k = s.gang k := rfl

/-- A start that is let go holds its gang no longer and touches no other gang and no course. -/
theorem State.startGang_spec (s : State) (x : Start) :
    (s.startGang x).courses = s.courses ∧ ∀ k, (s.startGang x).gang k = if k = x.gang then { s.gang k with held := false } else s.gang k := by
  have hu (u : State) (hc : u.courses = s.courses) (hg : u.grid = s.grid) (w : Nat) :
      let t := u.updGang x.gang (fun g => { g with held := false })
      let r := match t.ownerOfCourse (courseOfCore x.gang) with
        | some n => t.updFn n (fun g => { g with paceWaits := sat 32 (g.paceWaits + 1), paceMax := max g.paceMax (sat 32 w) })
        | none => t
      r.courses = s.courses ∧ ∀ k, r.gang k = if k = x.gang then { s.gang k with held := false } else s.gang k := by
    intro t r
    have ht : t.courses = s.courses ∧ ∀ k, t.gang k = if k = x.gang then { s.gang k with held := false } else s.gang k := by
      refine ⟨hc, fun k => (State.gang_updGang u x.gang k _).trans ?_⟩
      simp only [State.gang, hg]
      split
      · subst k; rfl
      · rfl
    simp only [r]
    split
    · exact ht
    · exact ht
  unfold State.startGang
  by_cases hx : x.first = true
  · rw [if_pos hx]; exact hu s rfl rfl _
  · rw [if_neg hx]; exact hu s.drawWord.2 rfl rfl _

theorem State.foldl_startGang (l : List Start) (s : State) :
    (l.foldl (fun s x => s.startGang x) s).courses = s.courses ∧ ∀ k,
      ((l.foldl (fun s x => s.startGang x) s).gang k).held = ((s.gang k).held && !l.any (fun x => x.gang == k)) := by
  induction l generalizing s with
  | nil => simp
  | cons x xs ih =>
    obtain ⟨hc, hg⟩ := State.startGang_spec s x
    obtain ⟨hcs, hgs⟩ := ih (s.startGang x)
    refine ⟨hcs.trans hc, fun k => (hgs k).trans ?_⟩
    rw [hg k]
    by_cases hk : k = x.gang
    · simp [hk]
    · simp [hk, beq_eq_false_iff_ne.2 (Ne.symm hk)]

theorem State.core_blankCourse (s : State) (c k : Nat) :
    (s.blankCourse c).core k = if courseOfCore k = c then { s.core k with lines := [] } else s.core k := by
  have hm (m : Map Core) : (Map.getD (m.map (fun x => if courseOfCore x.1 = c then (x.1, { x.2 with lines := [] }) else x)) k Core.idle) =
      if courseOfCore k = c then { m.getD k Core.idle with lines := [] } else m.getD k Core.idle := by
    induction m with
    | nil => simp [Map.getD, Map.get?, Core.idle]
    | cons x m ih =>
      obtain ⟨l, b⟩ := x
      by_cases hl : l = k
      · subst hl
        by_cases hc : courseOfCore l = c <;> simp [Map.getD, Map.get?, hc]
      · by_cases hc : courseOfCore l = c
        · simpa [Map.getD, Map.get?, hc, hl] using ih
        · simpa [Map.getD, Map.get?, hc, hl] using ih
  exact hm s.grid.cores

/-- Admitted and waiting starts are those of the queue; the credit of an emptied queue is dropped. -/
theorem State.paced (s : State) (c : Nat) :
    let x := s.course c
    let a := admitted (x.credit + s.admitOf) (x.queue.map (fun (y : Start) => { y with age := y.age + 1 }))
    let t := a.2.1.foldl (fun s y => s.startGang y) (s.updCourse c (fun c => { c with queue := a.2.2, credit := if a.2.2.isEmpty then 0 else a.1 }))
    (t.course c).queue.length + (admitted (x.credit + s.admitOf) x.queue).2.1.length = x.queue.length ∧
      (∀ y ∈ (admitted (x.credit + s.admitOf) x.queue).2.1, (t.gang y.gang).held = false) ∧
      ((t.course c).queue = [] → (t.course c).credit = 0) := by
  intro x a t
  obtain ⟨hc, hg⟩ := State.foldl_startGang a.2.1 (s.updCourse c (fun c => { c with queue := a.2.2, credit := if a.2.2.isEmpty then 0 else a.1 }))
  have hx : t.course c = { x with queue := a.2.2, credit := if a.2.2.isEmpty then 0 else a.1 } :=
    (congrArg (Map.getD · c Course.idle) hc).trans (State.course_updCourse_self s c _)
  have ha : a = _ := admitted_map (fun (y : Start) => { y with age := y.age + 1 }) (fun _ => rfl) (x.credit + s.admitOf) x.queue
  have hl := congrArg List.length (admitted_append (x.credit + s.admitOf) x.queue)
  refine ⟨?_, fun y hy => ?_, fun h => ?_⟩
  · rw [hx, ha]
    simp only [List.length_append, List.length_map] at hl ⊢
    omega
  · rw [hg]
    have : a.2.1.any (fun z => z.gang == y.gang) = true := by
      rw [ha]
      exact List.any_eq_true.2 ⟨_, List.mem_map_of_mem hy, beq_self_eq_true _⟩
    rw [this]; simp
  · rw [hx] at h ⊢
    exact if_pos (List.isEmpty_iff.2 h)

/-- Settles O52: each event of a course by the case it names; the pacing timer by what admission takes from the queue. -/
theorem courseStates : Obligations.CourseStates := by
  unfold Obligations.CourseStates
  refine ⟨fun s c hc => ?_, fun cr l => ⟨⟨_, (admitted_append cr l).symm, rfl⟩, ?_, admitted_head cr l⟩⟩
  · have hd (t : State) : doneIf (decide (c < 1024)) t = .next t := by simp [doneIf, hc]
    refine ⟨fun hp hi => (hd _).trans ?_, fun h => (hd _).trans ?_, fun hp hw ho hg => exists_next (hd _) ?_,
      fun h => (hd _).trans ?_, fun hw hp => (hd _).trans ?_, fun hp hq => exists_next (hd _) ?_, fun h => (hd _).trans ?_⟩
    · rw [if_pos ⟨hp, hi⟩]
    · rw [if_neg (by rintro ⟨hp, hi⟩; simp_all)]
    · have hn : s.grid.gangs.any (fun g => courseOfCore g.1 == c && g.2.ctx.isSome) = false := by
        simpa [List.any_eq_false] using fun a b h => hg (a, b) h
      simp only []
      rw [if_neg (by simp [hp, hw, ho, hn])]
      refine ⟨by simp, fun k hk => ?_, fun k => ?_, rfl, fun d hdc => ?_⟩
      · exact (congrArg Core.lines (State.core_blankCourse s c k)).trans (by rw [if_pos hk])
      · exact (congrArg Core.ls (State.core_blankCourse s c k)).trans (by split <;> rfl)
      · exact (State.course_updCourse _ c d _).trans (if_neg hdc)
    · refine congrArg _ (if_pos ?_)
      rcases h with h | h | h | ⟨g, hg, hgc, hx⟩
      · exact .inl h
      · exact .inr (.inl h)
      · exact .inr (.inr (.inl h))
      · exact .inr (.inr (.inr (List.any_eq_true.2 ⟨g, hg, by simp [hgc, hx]⟩)))
    · exact congrArg _ (if_pos ⟨hw, hp⟩)
    · simp only []
      rw [if_neg (by simp [hp, hq])]
      exact State.paced s c
    · exact congrArg _ (if_pos (h.imp id (by simp)))
  · rw [← List.sum_eq_foldl]; exact admitted_credit cr l

end Sys2Proof.Machine

/-! SUPPORT. Writes of registers that have a row of their own, and what completions of the queues may touch (R7, R316 to R318). -/

namespace Sys2Proof.Machine
open Sys2Proof.Claims

/-! ## Register rows -/

theorem State.updFn_updFn (s : State) (n : Nat) (f g : Fn → Fn) : (s.updFn n f).updFn n g = s.updFn n (fun x => g (f x)) := by
  simp [State.updFn, Map.upd, Map.put_put]

@[simp] theorem State.updFn_ctx (s : State) (n k : Nat) (f : Fn → Fn) : (s.updFn n f).ctx k = s.ctx k := rfl

theorem State.fn_updFn_ne (s : State) {n k : Nat} (f : Fn → Fn) (h : k ≠ n) : (s.updFn n f).fn k = s.fn k :=
  (State.fn_updFn s n k f).trans (if_neg h)

namespace State.Answers

variable {s : State} {fn : Nat}

theorem lt (h : s.Answers fn) : fn < fnCount := h.1

theorem answers (h : s.Answers fn) : s.answers fn = true := by
  obtain ⟨_, hr, ht, he, _⟩ := h
  simp [State.answers, hr, ht, he]

theorem heldLow (h : s.Answers fn) : (s.fn fn).heldLow = none := h.2.2.2.2

theorem access (h : s.Answers fn) : s.access fn = s.reached fn := by
  simp only [State.access]
  rw [h.heldLow]
  rfl

theorem onReg (h : s.Answers fn) (act : State → State) : s.onReg fn act = act (s.reached fn) := by
  rw [State.onReg, if_pos h.answers, h.access]

/-- A write whose trigger the row names acts on the state that the access leaves. -/
theorem row (h : s.Answers fn) {c : Instr} (hw : c.wellFormed = true) {ok : Bool} (hok : ok = true) (act : State → State) :
    done c (s.onRow fn ok act) = .next (act (s.reached fn)) := by
  rw [done_next hw, State.onRow, if_pos hok, h.onReg]

end State.Answers

@[simp] theorem State.reached_mem (s : State) (fn : Nat) : (s.reached fn).mem = s.mem := rfl
@[simp] theorem State.reached_tab (s : State) (fn : Nat) : (s.reached fn).tab = s.tab := rfl
@[simp] theorem State.reached_ctx (s : State) (fn n : Nat) : (s.reached fn).ctx n = s.ctx n := rfl
@[simp] theorem State.reached_part (s : State) (fn n : Nat) : (s.reached fn).part n = s.part n := rfl
@[simp] theorem State.reached_grid (s : State) (fn : Nat) : (s.reached fn).grid = s.grid := rfl
@[simp] theorem State.reached_fab (s : State) (fn : Nat) : (s.reached fn).fab = s.fab := rfl
@[simp] theorem State.reached_truss (s : State) (fn : Nat) : (s.reached fn).truss = s.truss := rfl
@[simp] theorem State.reached_inPart (s : State) (fn n a len : Nat) : (s.reached fn).inPart n a len = s.inPart n a len := rfl

theorem State.fn_reached (s : State) (fn : Nat) : (s.reached fn).fn fn = { s.fn fn with heldLow := none, latched := none } :=
  State.fn_updFn_self s fn _

theorem State.fn_reached_ne (s : State) {fn k : Nat} (h : k ≠ fn) : (s.reached fn).fn k = s.fn k := State.fn_updFn_ne s _ h

/-! ## What posting completions may touch -/

/-- At most device memory, host memory, free choices, and the queues and vectors of functions differ. -/
def State.Queueing (s t : State) : Prop :=
  (∃ m d n c p f b, t = { s with mem := { s.mem with mem := m, dlines := d, snoop := n, hostCells := c, hostPoison := p }, fns := f, free := b }) ∧
    ∀ n, ∃ qs vs, t.fn n = { s.fn n with queues := qs, vecs := vs }

namespace State.Queueing

variable {s t u : State}

theorem refl (s : State) : s.Queueing s := ⟨⟨_, _, _, _, _, _, _, rfl⟩, fun _ => ⟨_, _, rfl⟩⟩

theorem trans (h : s.Queueing t) (h' : t.Queueing u) : s.Queueing u := by
  obtain ⟨⟨_, _, _, _, _, _, _, rfl⟩, hf⟩ := h
  obtain ⟨⟨_, _, _, _, _, _, _, rfl⟩, hf'⟩ := h'
  refine ⟨⟨_, _, _, _, _, _, _, rfl⟩, fun n => ?_⟩
  obtain ⟨_, _, h⟩ := hf n
  obtain ⟨_, _, h'⟩ := hf' n
  exact ⟨_, _, h'.trans (by rw [h])⟩

theorem ite {c : Prop} [Decidable c] (ht : s.Queueing t) (hu : s.Queueing u) : s.Queueing (if c then t else u) := by
  split <;> assumption

theorem foldl {α : Type} {f : State → α → State} (hf : ∀ (t : State) x, t.Queueing (f t x)) (l : List α) (s : State) :
    s.Queueing (l.foldl f s) := by
  induction l generalizing s with
  | nil => exact .refl s
  | cons x l ih => exact (hf s x).trans (ih _)

theorem of_onlyBytes (h : s.OnlyBytes t) : s.Queueing t := by
  obtain ⟨_, _, _, rfl⟩ := h
  exact ⟨⟨_, _, _, _, _, _, _, rfl⟩, fun _ => ⟨_, _, rfl⟩⟩

theorem tab (h : s.Queueing t) : t.tab = s.tab := by obtain ⟨⟨_, _, _, _, _, _, _, rfl⟩, _⟩ := h; rfl
theorem grid (h : s.Queueing t) : t.grid = s.grid := by obtain ⟨⟨_, _, _, _, _, _, _, rfl⟩, _⟩ := h; rfl
theorem courses (h : s.Queueing t) : t.courses = s.courses := by obtain ⟨⟨_, _, _, _, _, _, _, rfl⟩, _⟩ := h; rfl
theorem fab (h : s.Queueing t) : t.fab = s.fab := by obtain ⟨⟨_, _, _, _, _, _, _, rfl⟩, _⟩ := h; rfl
theorem truss (h : s.Queueing t) : t.truss = s.truss := by obtain ⟨⟨_, _, _, _, _, _, _, rfl⟩, _⟩ := h; rfl
theorem pwr (h : s.Queueing t) : t.pwr = s.pwr := by obtain ⟨⟨_, _, _, _, _, _, _, rfl⟩, _⟩ := h; rfl
theorem boot (h : s.Queueing t) : t.boot = s.boot := by obtain ⟨⟨_, _, _, _, _, _, _, rfl⟩, _⟩ := h; rfl
theorem board (h : s.Queueing t) : t.board = s.board := by obtain ⟨⟨_, _, _, _, _, _, _, rfl⟩, _⟩ := h; rfl
theorem engines (h : s.Queueing t) : t.engines = s.engines := by obtain ⟨⟨_, _, _, _, _, _, _, rfl⟩, _⟩ := h; rfl
theorem pending (h : s.Queueing t) : t.pending = s.pending := by obtain ⟨⟨_, _, _, _, _, _, _, rfl⟩, _⟩ := h; rfl
theorem reqs (h : s.Queueing t) : t.mem.reqs = s.mem.reqs := by obtain ⟨⟨_, _, _, _, _, _, _, rfl⟩, _⟩ := h; rfl
theorem ctx (h : s.Queueing t) (n : Nat) : t.ctx n = s.ctx n := congrArg (Map.getD · n Ctx.idle) (congrArg Tables.ctxs h.tab)
theorem job (h : s.Queueing t) (n j : Nat) : t.job n j = s.job n j := by
  obtain ⟨_, _, h⟩ := h.2 n
  simp [State.job, h]
theorem jobOf (h : s.Queueing t) (n : Nat) : t.jobOf n = s.jobOf n := by
  simp only [State.jobOf, h.ctx, h.job]

end State.Queueing

theorem State.queueing_updFn (s : State) (n : Nat) (f : Fn → Fn) (hf : ∀ g, ∃ qs vs, f g = { g with queues := qs, vecs := vs }) :
    s.Queueing (s.updFn n f) := by
  refine ⟨⟨_, _, _, _, _, _, _, rfl⟩, fun k => ?_⟩
  rw [State.fn_updFn]
  split
  · subst k; exact hf _
  · exact ⟨_, _, rfl⟩

theorem State.queueing_updQueue (s : State) (n q : Nat) (f : Queue → Queue) : s.Queueing (s.updQueue n q f) :=
  State.queueing_updFn s n _ fun _ => ⟨_, _, rfl⟩

theorem State.queueing_fireVec (s : State) (n v : Nat) : s.Queueing (s.fireVec n v) :=
  State.queueing_updFn s n _ fun _ => ⟨_, _, rfl⟩

theorem State.queueing_cleanPoison (s : State) (l : List Nat) : s.Queueing (s.cleanPoison l) := by
  induction l generalizing s with
  | nil => exact .refl s
  | cons x l ih =>
    have h (b : Bool) (u : State) (hu : s.Queueing u) :
        s.Queueing (State.cleanPoison (if b then { u with mem := { u.mem with hostPoison := u.mem.hostPoison.filter (· != x) } } else u) l) := by
      refine Queueing.trans ?_ (ih _)
      split
      · exact hu.trans ⟨⟨_, _, _, _, _, _, _, rfl⟩, fun _ => ⟨_, _, rfl⟩⟩
      · exact hu
    exact h _ s.drawBool.2 ⟨⟨_, _, _, _, _, _, _, rfl⟩, fun _ => ⟨_, _, rfl⟩⟩

theorem State.queueing_hostWrite (s : State) (a : Nat) (bs : List Byte) : s.Queueing (s.hostWrite a bs) := by
  have h (c : Map Byte) : s.Queueing { s with mem := { s.mem with hostCells := c } } := ⟨⟨_, _, _, _, _, _, _, rfl⟩, fun _ => ⟨_, _, rfl⟩⟩
  exact (h _).trans (State.queueing_cleanPoison _ _)

theorem State.queueing_ringWrite (s : State) (loc : Bool) (a : Nat) (bs : List Byte) : s.Queueing (s.ringWrite loc a bs) :=
  .ite (.of_onlyBytes (s.onlyBytes_writeBytes a bs)) (s.queueing_hostWrite a bs)

theorem State.queueing_queueError (s : State) (n q : Nat) (st : Status) : s.Queueing (s.queueError n q st) :=
  .ite (.refl s) ((s.queueing_updQueue n q _).trans (State.queueing_fireVec _ _ _))

theorem State.queueing_completionPost (s : State) (n q : Nat) : s.Queueing (s.completionPost n q) := by
  simp only [State.completionPost]
  split
  · exact .refl s
  · refine .ite (.refl s) (.ite ((s.queueing_updQueue n q _).trans (State.queueing_queueError _ _ _ _)) ?_)
    refine ((s.queueing_ringWrite _ _ _).trans (State.queueing_updQueue _ n q _)).trans (.ite ?_ (.refl _))
    exact (State.queueing_updQueue _ n q _).trans (State.queueing_fireVec _ _ _)

theorem State.queueing_flushPosts (s : State) (n q : Nat) : s.Queueing (s.flushPosts n q) :=
  .foldl (fun t _ => t.queueing_completionPost n q) _ s

theorem State.queueing_settleQueue (s : State) (n q : Nat) : s.Queueing (s.settleQueue n q) := by
  simp only [State.settleQueue]
  exact .ite ((s.queueing_flushPosts n q).trans (State.queueing_updQueue _ n q _)) (.refl s)

theorem State.queueing_postAll (s : State) (n q : Nat) (p : QEntry → Option (Status × Word)) : s.Queueing (s.postAll n q p) :=
  (s.queueing_updQueue n q _).trans (State.queueing_settleQueue _ n q)

theorem State.queueing_updEntry (s : State) (e : EntryRef) (f : QEntry → QEntry) : s.Queueing (s.updEntry e f) :=
  s.queueing_updQueue e.fn e.q _

theorem State.queueing_endNow (s : State) (e : EntryRef) (st : Status) : s.Queueing (s.endNow e st) :=
  (s.queueing_updEntry e _).trans (State.queueing_postAll _ _ _ _)

theorem State.queueing_conclude (s : State) (e : EntryRef) : s.Queueing (s.conclude e) := by
  simp only [State.conclude]
  split
  · exact .refl s
  · split
    · exact .ite (State.queueing_postAll _ _ _ _) (.refl s)
    · exact .refl s

theorem State.queueing_endUnrun (s : State) (e : EntryRef) (st : Status) : s.Queueing (s.endUnrun e st) :=
  (s.queueing_updEntry e _).trans (State.queueing_conclude _ e)

theorem State.abortVoid_of_jobless {s : State} {n : Nat} (h : (s.ctx n).jobsl = none) : s.abortVoid n = s := by
  simp [State.abortVoid, State.jobOf, h]

/-- The destruction of a context without a job sets its state; no other context changes. -/
theorem State.ctx_startDestroy (s : State) (n : Nat) (self : Option EntryRef) (h : (s.ctx n).jobsl = none) (k : Nat) :
    (s.startDestroy n self).ctx k = if k = n then { s.ctx n with st := .destroying, aborting := false } else s.ctx k := by
  have hend (u : State) (es : List (EntryRef × QEntry)) (hu : u.ctx n = { s.ctx n with st := .destroying, aborting := false })
      (hk : u.ctx k = if k = n then { s.ctx n with st := .destroying, aborting := false } else s.ctx k) :
      ((es.foldl (fun s e => s.endNow e.1 ctxDestroyed) u).abortVoid n).ctx k =
        if k = n then { s.ctx n with st := .destroying, aborting := false } else s.ctx k := by
    have hq := State.Queueing.foldl (fun (t : State) (e : EntryRef × QEntry) => t.queueing_endNow e.1 ctxDestroyed) es u
    rw [State.abortVoid_of_jobless (by rw [hq.ctx, hu]; exact h), hq.ctx, hk]
  simp only [State.startDestroy]
  refine hend _ _ ?_ ?_
  all_goals
    refine (congrArg (Map.getD · _ Ctx.idle) (congrArg Tables.ctxs (((State.onlyBytes_writeBytes _ _ _).trans (State.onlyBytes_writeBytes _ _ _)).tab))).trans ?_
  · exact State.ctx_updCtx_self s n _
  · exact State.ctx_updCtx s n k _

/-! ## Single registers -/

theorem State.mapWrite_off {s : State} {fn : Nat} (h : (s.hoard fn).mapEn = false) (off : Nat) (bs : List Byte) : s.mapWrite fn off bs = s := by
  simp only [State.mapWrite]
  split
  · exact if_neg (by simp [h])
  · rfl

theorem sigBody_eq (v : Word) : (v &&& 0xC000) ||| (v &&& 0x1F00) = v &&& 0xDF00 := BitVec.and_or_distrib_left.symm

theorem field_sigBody (v : Word) : field (v &&& 0xDF00).toNat 11 8 = field v.toNat 11 8 := by
  have h : (v &&& 0xDF00).toNat = v.toNat &&& 0xDF00 := BitVec.toNat_and ..
  rw [h, field, field, Nat.shiftRight_and_distrib, Nat.and_mod_two_pow]
  exact Nat.and_two_pow_sub_one_of_lt_two_pow (Nat.mod_lt _ (by decide))

theorem State.sigCtl_sound {s : State} {fn : Nat} {v : Word} (hc : (s.fn fn).sig.ctl.getLsbD 0 = false) (hv : v.getLsbD 0 = true)
    (h10 : field v.toNat 11 8 ≤ 10)
    (hin : v.getLsbD 12 = true → s.inPart fn (s.fn fn).sig.base.toNat (128 * 2 ^ (field v.toNat 11 8 + 6)) = true) :
    s.sigCtl fn v = s.updFn fn (fun f => { f with sig := { f.sig with ctl := (v &&& 0xDF00) ||| 1 } }) := by
  have h12 : (v &&& 0xDF00).getLsbD 12 = v.getLsbD 12 := by simp
  simp only [State.sigCtl, hc, hv, Bool.false_eq_true, if_false, sigBody_eq, field_sigBody, h12]
  have hb : (v.getLsbD 12 && !s.inPart fn (s.fn fn).sig.base.toNat (128 * 2 ^ (field v.toNat 11 8 + 6))) = false := by
    cases h : v.getLsbD 12
    · rfl
    · simp [hin h]
  rw [hb]
  simp [Nat.not_lt.2 h10]

theorem State.sigCtl_tooLong {s : State} {fn : Nat} {v : Word} (hc : (s.fn fn).sig.ctl.getLsbD 0 = false) (h10 : 10 < field v.toNat 11 8) :
    s.sigCtl fn v = s.updFn fn (fun f => { f with sig := { f.sig with ctl := v &&& 0xDF00 } }) := by
  simp only [State.sigCtl, hc, Bool.false_eq_true, if_false, sigBody_eq, field_sigBody]
  simp [h10]

/-- Settles O42: each register's write acts on the state that the access leaves, and the cases of its control word. -/
theorem smallRegisters : Obligations.SmallRegisters := by
  unfold Obligations.SmallRegisters
  intro s fn x v w n ha
  have hlt := ha.lt
  refine ⟨fun hx hm => ?_, fun hx hf => ?_, fun hx hf => ?_, fun hx hc h10 hin => ?_, fun hx hc h10 => ?_, fun hf => ?_, fun hf => ?_, ?_⟩
  · refine (ha.row (by simp [Instr.wellFormed, hlt]) hx _).trans (congrArg _ ?_)
    simp only [State.hrdCtl]
    rw [if_pos hx, State.mapWrite_off]
    · simp only [State.updHoard, State.updFn_updFn]; rfl
    · simp only [State.hoard, State.updHoard, State.fn_updFn_self, State.fn_reached]; exact hm
  · refine (ha.row (by simp [Instr.wellFormed, hlt]) hx _).trans (congrArg _ ?_)
    simp only [State.errCtl]
    rw [if_pos hx, if_neg hf]
  · refine (ha.row (by simp [Instr.wellFormed, hlt]) hx _).trans (congrArg _ ?_)
    simp only [State.errCtl]
    rw [if_pos hx, if_pos hf]
    rfl
  · refine (ha.row (by simp [Instr.wellFormed, hlt]) hx _).trans (congrArg _ ?_)
    exact State.sigCtl_sound (by rw [State.fn_reached]; exact hc) hx h10 (by rw [State.fn_reached]; exact hin)
  · refine (ha.row (by simp [Instr.wellFormed, hlt]) hx _).trans (congrArg _ ?_)
    exact State.sigCtl_tooLong (by rw [State.fn_reached]; exact hc) h10
  · refine (ha.row (by simp [Instr.wellFormed, hlt]) rfl _).trans (congrArg _ ?_)
    exact if_neg (Classical.not_not.2 hf)
  · refine (ha.row (by simp [Instr.wellFormed, hlt]) rfl _).trans (congrArg _ ?_)
    exact if_pos hf
  · intro p hv hk hp status
    refine ⟨fun h => (ha.row (by simp [Instr.wellFormed, hlt]) hv _).trans (congrArg _ ?_),
      fun h h0 => (ha.row (by simp [Instr.wellFormed, hlt]) hv _).trans (congrArg _ ?_),
      fun h h1 hs => (ha.row (by simp [Instr.wellFormed, hlt]) hv _).trans (congrArg _ ?_),
      fun h h1 hs hj => ⟨((s.reached fn).startDestroy n none).updFn fn (fun g => { g with killBusy := some n }),
        (ha.row (by simp [Instr.wellFormed, hlt]) hv _).trans (congrArg _ ?_),
        by rw [State.updFn_ctx, State.ctx_startDestroy (s.reached fn) n none hj, if_pos rfl], by rw [State.fn_updFn_self],
        fun k hk => by rw [State.updFn_ctx, State.ctx_startDestroy (s.reached fn) n none hj, if_neg hk]; rfl⟩⟩
    all_goals
      have hkb : ((s.reached fn).fn fn).killBusy.isSome = false := by rw [State.fn_reached]; exact congrArg Option.isSome hk
      have hsel : ((s.reached fn).fn fn).ctxSel.toNat = n := by rw [State.fn_reached]
      have hown : (s.reached fn).ownCtx fn n = decide (p.ctxBase ≤ n ∧ n < p.ctxBase + p.ctxCount) := by
        simp only [State.ownCtx, State.reached_part, hp]
      simp only [State.ctxKill, hsel, hown, State.reached_part, hp, hv, hkb, State.reached_ctx]
    · rw [if_neg (by simp), if_pos (by simp; omega)]
    · rw [if_neg (by simp), if_neg (by simp; omega), if_pos (by simp [h])]
    · rw [if_neg (by simp), if_neg (by simp; omega), if_neg (by simp; omega), hs]
    · rw [if_neg (by simp), if_neg (by simp; omega), if_neg (by simp; omega)]
      rcases hs with hs | hs <;> rw [hs]

end Sys2Proof.Machine

/-! SUPPORT. The SPDM responder (R425 to R429): every request is served in one order, and only the responder's own state changes. -/

namespace Sys2Proof.Machine
open Sys2Proof.Claims

/-! ## Responses -/

/-- One response has been added, and nothing but the responder's state differs. -/
def State.Spoke (s t : State) : Prop :=
  t = { s with spdm := t.spdm } ∧ t.spdm.responses.length = s.spdm.responses.length + 1

theorem State.spoke_send (s : State) (code : Nat) (p1 p2 : Byte) (body : List Byte) : s.Spoke (s.spdmSend code p1 p2 body) :=
  ⟨rfl, List.length_append⟩

theorem State.Spoke.of_spdm {s : State} (d : Spdm) (hd : d.responses = s.spdm.responses) {t : State} (h : ({ s with spdm := d } : State).Spoke t) :
    s.Spoke t :=
  ⟨h.1, h.2.trans (congrArg (fun l => List.length l + 1) hd)⟩

/-- What the responder notes beside its answer adds no response. -/
theorem State.Spoke.note {s t : State} (h : s.Spoke t) (d : Spdm) (hd : d.responses = t.spdm.responses) : s.Spoke { t with spdm := d } := by
  obtain ⟨ht, hl⟩ := h
  exact ⟨by rw [ht], (congrArg List.length hd).trans hl⟩

theorem State.spoke_error (s : State) (code : Byte) : s.Spoke (s.spdmError code) := .of_spdm _ rfl (State.spoke_send _ _ _ _ _)

theorem State.spoke_say (s : State) (req : Nat) (r : SpdmReq) (p1 p2 : Byte) (body : List Byte) : s.Spoke (s.spdmSay req r p1 p2 body) :=
  .of_spdm _ rfl (State.spoke_send _ _ _ _ _)

theorem State.spoke_signed (s : State) (req : Nat) (r : SpdmReq) (p1 p2 : Byte) (body : List Byte) : s.Spoke (s.spdmSigned req r p1 p2 body) :=
  .of_spdm _ rfl (State.spoke_send _ _ _ _ _)

theorem State.Spoke.ite {s t u : State} {c : Prop} [Decidable c] (ht : s.Spoke t) (hu : s.Spoke u) : s.Spoke (if c then t else u) := by
  split <;> assumption

/-! ## The order in which a request is met -/

section
variable {s : State} {first : Bool} {phase : Nat} {act : State → State}

theorem State.spdmServe_off (h : s.pwr.aonUp = false) : s.spdmServe first phase act = s := by simp [State.spdmServe, h]

theorem State.spdmServe_notReady (h : s.pwr.aonUp = true) (hk : s.boot.keysReady = false) (hi : s.boot.idfail = false) :
    s.spdmServe first phase act = s.spdmError 0x42 := by simp [State.spdmServe, h, hk, hi]

theorem State.spdmServe_idfail (h : s.pwr.aonUp = true) (hi : s.boot.idfail = true) : s.spdmServe false phase act = s.spdmError 0x05 := by
  simp [State.spdmServe, h, hi]

theorem State.spdmServe_early (h : s.pwr.aonUp = true) (hk : s.boot.keysReady = true) (hi : s.boot.idfail = false) (hp : s.spdm.phase < phase) :
    s.spdmServe first phase act = s.spdmError 0x04 := by simp [State.spdmServe, h, hk, hi, hp]

theorem State.spdmServe_served (h : s.pwr.aonUp = true) (hk : s.boot.keysReady = true) (hi : s.boot.idfail = true → first = true)
    (hp : phase ≤ s.spdm.phase) : s.spdmServe first phase act = act s := by
  have hp' : ¬ s.spdm.phase < phase := Nat.not_lt.2 hp
  cases hif : s.boot.idfail
  · simp [State.spdmServe, h, hk, hif, hp']
  · simp [State.spdmServe, h, hk, hif, hp', hi hif]

theorem State.spoke_serve (hact : s.Spoke (act s)) : s.pwr.aonUp = true → s.Spoke (s.spdmServe first phase act) := by
  intro h
  rw [State.spdmServe, if_neg (by simp [h])]
  exact .ite (s.spoke_error _) (.ite (s.spoke_error _) (.ite (s.spoke_error _) hact))

end

/-- A request is served as the order of R425 says, and its own act answers once. -/
def Serves (c : SpdmReq → Instr) (first : Bool) (phase : Nat) : Prop :=
  ∀ r, ∃ act : State → State, (∀ s : State, exec (c r) s = .next (s.spdmServe first phase act)) ∧ ∀ s : State, s.Spoke (act s)

theorem serves_getVersion : Serves .getVersion true 0 := fun r => ⟨_, fun _ => rfl, fun s => .of_spdm _ rfl (State.spoke_say _ _ _ _ _ _)⟩

theorem serves_getCapabilities : Serves .getCapabilities false 1 := fun r => ⟨_, fun _ => rfl, fun s => (s.spoke_say _ _ _ _ _).note _ rfl⟩

theorem serves_negotiateAlgorithms : Serves .negotiateAlgorithms false 2 :=
  fun r => ⟨_, fun _ => rfl, fun s => .ite ((s.spoke_say _ _ _ _ _).note _ rfl) (s.spoke_error _)⟩

theorem serves_getDigests : Serves .getDigests false 3 := fun r => ⟨_, fun _ => rfl, fun s => s.spoke_say _ _ _ _ _⟩

theorem serves_getCertificate : Serves .getCertificate false 3 := fun r => ⟨_, fun _ => rfl, fun s => .ite (s.spoke_error _) (s.spoke_say _ _ _ _ _)⟩

theorem serves_challenge : Serves .challenge false 3 := fun r => ⟨_, fun _ => rfl, fun s => .ite (s.spoke_error _) (s.spoke_signed _ _ _ _ _)⟩

theorem serves_getMeasurements : Serves .getMeasurements false 3 :=
  fun r => ⟨_, fun _ => rfl, fun s => .ite (s.spoke_error _) (.ite (s.spoke_signed _ _ _ _ _) (s.spoke_say _ _ _ _ _))⟩

theorem serves_vendorDefinedRequest : Serves .vendorDefinedRequest false 3 := fun r => ⟨_, fun _ => rfl, fun s => by
  refine .ite (s.spoke_error _) ?_
  split
  · exact s.spoke_error _
  · exact s.spoke_send _ _ _ _⟩

theorem serves_keyExchange : Serves .keyExchange false 3 :=
  fun r => ⟨_, fun _ => rfl, fun s => .ite (s.spoke_error _) ((s.spoke_say _ _ _ _ _).note _ rfl)⟩

theorem serves_finish : Serves .finish false 3 :=
  fun r => ⟨_, fun _ => rfl, fun s => .ite (s.spoke_error _) (.ite ((s.spoke_say _ _ _ _ _).note _ rfl) (.of_spdm _ rfl (State.spoke_error _ _)))⟩

theorem serves_heartbeat : Serves .heartbeat false 3 :=
  fun r => ⟨_, fun _ => rfl, fun s => .ite (.of_spdm _ rfl (State.spoke_send _ _ _ _ _)) (s.spoke_error _)⟩

theorem serves_endSession : Serves .endSession false 3 :=
  fun r => ⟨_, fun _ => rfl, fun s => .ite (.of_spdm _ rfl (State.spoke_send _ _ _ _ _)) (s.spoke_error _)⟩

theorem serves_ideKmMessage : Serves .ideKmMessage false 3 :=
  fun r => ⟨_, fun _ => rfl, fun s => .ite (.of_spdm _ rfl (State.spoke_send _ _ _ _ _)) (s.spoke_error _)⟩

/-- The requests after GET_VERSION, with how far the negotiation must have come. -/
theorem serves_rows : ∀ c ∈ ([(.getCapabilities, 1), (.negotiateAlgorithms, 2), (.getDigests, 3), (.getCertificate, 3), (.challenge, 3),
    (.getMeasurements, 3), (.vendorDefinedRequest, 3), (.keyExchange, 3), (.finish, 3), (.heartbeat, 3), (.endSession, 3), (.ideKmMessage, 3)] :
    List ((SpdmReq → Instr) × Nat)), Serves c.1 false c.2 := by
  simp only [List.forall_mem_cons]
  exact ⟨serves_getCapabilities, serves_negotiateAlgorithms, serves_getDigests, serves_getCertificate, serves_challenge, serves_getMeasurements,
    serves_vendorDefinedRequest, serves_keyExchange, serves_finish, serves_heartbeat, serves_endSession, serves_ideKmMessage, by simp⟩

theorem Serves.spoke {c : SpdmReq → Instr} {first : Bool} {phase : Nat} (h : Serves c first phase) (s : State) (r : SpdmReq) :
    ∃ t, exec (c r) s = .next t ∧ t = { s with spdm := t.spdm } ∧
      (s.pwr.aonUp = true → t.spdm.responses.length = s.spdm.responses.length + 1) ∧ (s.pwr.aonUp = false → t = s) := by
  obtain ⟨act, he, ha⟩ := h r
  refine ⟨_, he s, ?_, fun hp => (State.spoke_serve (ha s) hp).2, State.spdmServe_off⟩
  cases hp : s.pwr.aonUp
  · rw [State.spdmServe_off hp]
  · exact (State.spoke_serve (ha s) hp).1

/-- What a request answers once the negotiation has come to `phase`. -/
theorem served_next {s : State} {c : Instr} {phase : Nat} {act : State → State} (he : exec c s = .next (s.spdmServe false phase act))
    (h : s.pwr.aonUp = true) (hk : s.boot.keysReady = true) (hi : s.boot.idfail = false) (hp : phase ≤ s.spdm.phase) :
    exec c s = .next (act s) := by
  rw [he, State.spdmServe_served h hk (by simp [hi]) hp]

/-- Settles O50: every request is served in one order (`State.spdmServe`), so each clause is about its own act. -/
theorem attestation : Obligations.Attestation := by
  unfold Obligations.Attestation
  intro rows
  refine ⟨fun s r c hc => ?_, fun s r hp c hc => ?_, fun s r hp hk => ⟨?_, fun hi => ⟨fun h1 => ?_, fun h2 hacc => ?_, fun h3 => ?_⟩⟩, fun s => ⟨rfl, rfl, rfl⟩⟩
  · rcases List.mem_cons.1 hc with rfl | hc
    · exact serves_getVersion.spoke s r
    · exact (serves_rows c hc).spoke s r
  · obtain ⟨act, he, _⟩ := serves_rows c hc r
    exact ⟨fun hk hi => (he s).trans (congrArg _ (State.spdmServe_notReady hp hk hi)), fun hi => (he s).trans (congrArg _ (State.spdmServe_idfail hp hi)),
      fun hk hi hph => (he s).trans (congrArg _ (State.spdmServe_early hp hk hi hph))⟩
  · exact ⟨_, congrArg Host.Outcome.next (State.spdmServe_served hp hk (fun _ => rfl) (Nat.zero_le _)), rfl, rfl, rfl, rfl⟩
  · refine ⟨_, served_next rfl hp hk hi (Nat.le_of_eq h1.symm), ?_⟩
    change max s.spdm.phase 2 = 2
    omega
  · refine ⟨_, served_next rfl hp hk hi (Nat.le_of_eq h2.symm), ?_⟩
    rw [if_pos hacc]
  · have hn {c : Instr} {act : State → State} (he : exec c s = .next (s.spdmServe false 3 act)) : exec c s = .next (act s) :=
      served_next he hp hk hi (Nat.le_of_eq h3.symm)
    refine ⟨(hn rfl).trans rfl, ?_, fun h => (hn rfl).trans (congrArg _ (if_neg (by omega))), fun h2 h1 => (hn rfl).trans ?_,
      fun h hl a b c d => (hn rfl).trans ?_, fun ha hb => ⟨_, hn rfl, ?_⟩, fun ha => (hn rfl).trans ?_,
      fun ha hb => ⟨_, hn rfl, ?_⟩, fun ha => ⟨⟨_, hn rfl, ?_⟩, ⟨_, hn rfl, ?_⟩, ⟨_, hn rfl, ?_⟩⟩, fun ha => (hn rfl).trans ?_⟩
    · rintro chain off part rfl rfl rfl h1 ho
      exact (hn rfl).trans (congrArg _ (if_neg (by omega)))
    · simp only [h2, h1]
      rfl
    · exact congrArg _ (by simp only [a, b, c, d, hl]; exact if_neg (by simp))
    · simp only [ha, hb]
      exact ⟨rfl, ha⟩
    · exact congrArg _ (if_pos (Or.inl ha))
    · simp only [ha, hb]
      exact ⟨rfl, rfl⟩
    all_goals simp only [ha]
    · exact ⟨rfl, rfl⟩
    · exact ⟨rfl, rfl⟩
    · rfl
    · rfl

end Sys2Proof.Machine

/-! SUPPORT. Boot (R415 to R425): the events of a boot, and deliveries. -/

namespace Sys2Proof.Machine
open Sys2Proof.Claims

/-! ## Boot progress -/

/-- Training cannot report an HBM unit that the device does not have: the command stops. -/
theorem exec_training_of_noUnit (s : State) : exec (.memoryTrainingComplete [128] []) s = .fault .noSuchUnit := rfl

/-- Refutes O49: its clause of a training that is not due quantifies over every list of bad units, yet training that names a unit
the device does not have (unit 128 of 128) stops with a fault and has no next state, here in the state that reset leaves, at STAGE 0. -/
theorem not_bootProgress : ¬ Obligations.BootProgress := by
  unfold Obligations.BootProgress
  rintro ⟨h, _⟩
  obtain ⟨_, _, _, hidle, _⟩ := h State.reset rfl
  have hnext : exec (.memoryTrainingComplete [128] []) State.reset = .next State.reset := hidle [128] [] (by decide)
  rw [exec_training_of_noUnit] at hnext
  cases hnext

end Sys2Proof.Machine

/-! SUPPORT. What a record's delivery may touch: signature rings and vectors, the bytes of memory and of host memory, what the board and
the fabric still have to send (R371 to R376). -/

namespace Sys2Proof.Machine
open Sys2Proof.Claims

/-- What a port that sends changes: its sequence, what it keeps for a retry, the credits in use and the messages that wait. -/
def Port.Sent (p q : Port) : Prop := ∃ n r c w, q = { p with txSeq := n, replay := r, credits := c, waiting := w }

theorem Port.Sent.refl (p : Port) : p.Sent p := ⟨_, _, _, _, rfl⟩

theorem Port.Sent.trans {p q r : Port} (h : p.Sent q) (h' : q.Sent r) : p.Sent r := by
  obtain ⟨_, _, _, _, rfl⟩ := h
  obtain ⟨_, _, _, _, rfl⟩ := h'
  exact ⟨_, _, _, _, rfl⟩

/-- At most bytes of memory, host memory, signature rings and vectors, what is to be sent, the delivery of records and free choices differ. -/
def State.Told (s t : State) : Prop :=
  (∃ m d n c p f fab b fr, t = { s with
    mem := { s.mem with mem := m, dlines := d, snoop := n, hostCells := c, hostPoison := p }, fns := f, fab := fab, board := b, free := fr }) ∧
  (∀ n, ∃ sg vs, t.fn n = { s.fn n with sig := sg, vecs := vs }) ∧
  (∃ ps o rs tg, t.fab = { s.fab with ports := ps, out := o, remotes := rs, nextTag := tg }) ∧
  (∃ q dr dd sn cq cd cdd ac ao ib, t.board = { s.board with
    bmcQueue := q, bmcDrop := dr, bmcDropped := dd, sent := sn, collQueue := cq, collDrop := cd, collDropped := cdd, aoCount := ac, aoStore := ao, ibi := ib }) ∧
  (∀ n, (s.port n).Sent (t.port n))

namespace State.Told

variable {s t u : State}

theorem refl (s : State) : s.Told s :=
  ⟨⟨_, _, _, _, _, _, _, _, _, rfl⟩, fun _ => ⟨_, _, rfl⟩, ⟨_, _, _, _, rfl⟩, ⟨_, _, _, _, _, _, _, _, _, _, rfl⟩, fun _ => .refl _⟩

theorem trans (h : s.Told t) (h' : t.Told u) : s.Told u := by
  obtain ⟨⟨_, _, _, _, _, _, _, _, _, ht⟩, hf, ⟨_, _, _, _, hp⟩, ⟨_, _, _, _, _, _, _, _, _, _, hb⟩, hs⟩ := h
  obtain ⟨⟨_, _, _, _, _, _, _, _, _, rfl⟩, hf', ⟨_, _, _, _, hp'⟩, ⟨_, _, _, _, _, _, _, _, _, _, hb'⟩, hs'⟩ := h'
  refine ⟨⟨_, _, _, _, _, _, _, _, _, by rw [ht]⟩, fun n => ?_, ⟨_, _, _, _, by rw [hp', hp]⟩, ⟨_, _, _, _, _, _, _, _, _, _, by rw [hb', hb]⟩, fun n => (hs n).trans (hs' n)⟩
  obtain ⟨_, _, h⟩ := hf n
  obtain ⟨_, _, h'⟩ := hf' n
  exact ⟨_, _, h'.trans (by rw [h])⟩

theorem ite {c : Prop} [Decidable c] (ht : s.Told t) (hu : s.Told u) : s.Told (if c then t else u) := by split <;> assumption

theorem foldl {α : Type} {f : State → α → State} (hf : ∀ (t : State) x, t.Told (f t x)) (l : List α) (s : State) : s.Told (l.foldl f s) := by
  induction l generalizing s with
  | nil => exact .refl s
  | cons x l ih => exact (hf s x).trans (ih _)

theorem of_onlyBytes (h : s.OnlyBytes t) : s.Told t := by
  obtain ⟨_, _, _, rfl⟩ := h
  exact ⟨⟨_, _, _, _, _, _, _, _, _, rfl⟩, fun _ => ⟨_, _, rfl⟩, ⟨_, _, _, _, rfl⟩, ⟨_, _, _, _, _, _, _, _, _, _, rfl⟩, fun _ => .refl _⟩

theorem pending (h : s.Told t) : t.pending = s.pending := by obtain ⟨⟨_, _, _, _, _, _, _, _, _, rfl⟩, _⟩ := h; rfl
theorem grid (h : s.Told t) : t.grid = s.grid := by obtain ⟨⟨_, _, _, _, _, _, _, _, _, rfl⟩, _⟩ := h; rfl
theorem courses (h : s.Told t) : t.courses = s.courses := by obtain ⟨⟨_, _, _, _, _, _, _, _, _, rfl⟩, _⟩ := h; rfl
theorem tab (h : s.Told t) : t.tab = s.tab := by obtain ⟨⟨_, _, _, _, _, _, _, _, _, rfl⟩, _⟩ := h; rfl
theorem engines (h : s.Told t) : t.engines = s.engines := by obtain ⟨⟨_, _, _, _, _, _, _, _, _, rfl⟩, _⟩ := h; rfl
theorem truss (h : s.Told t) : t.truss = s.truss := by obtain ⟨⟨_, _, _, _, _, _, _, _, _, rfl⟩, _⟩ := h; rfl
theorem pwr (h : s.Told t) : t.pwr = s.pwr := by obtain ⟨⟨_, _, _, _, _, _, _, _, _, rfl⟩, _⟩ := h; rfl
theorem boot (h : s.Told t) : t.boot = s.boot := by obtain ⟨⟨_, _, _, _, _, _, _, _, _, rfl⟩, _⟩ := h; rfl
theorem spdm (h : s.Told t) : t.spdm = s.spdm := by obtain ⟨⟨_, _, _, _, _, _, _, _, _, rfl⟩, _⟩ := h; rfl
theorem secure (h : s.Told t) : t.secure = s.secure := by obtain ⟨⟨_, _, _, _, _, _, _, _, _, rfl⟩, _⟩ := h; rfl
theorem vfEnable (h : s.Told t) : t.vfEnable = s.vfEnable := by obtain ⟨⟨_, _, _, _, _, _, _, _, _, rfl⟩, _⟩ := h; rfl
theorem reqs (h : s.Told t) : t.mem.reqs = s.mem.reqs := by obtain ⟨⟨_, _, _, _, _, _, _, _, _, rfl⟩, _⟩ := h; rfl
theorem retries (h : s.Told t) : t.mem.retries = s.mem.retries := by obtain ⟨⟨_, _, _, _, _, _, _, _, _, rfl⟩, _⟩ := h; rfl
theorem seqs (h : s.Told t) : t.mem.seqs = s.mem.seqs := by obtain ⟨⟨_, _, _, _, _, _, _, _, _, rfl⟩, _⟩ := h; rfl
theorem misses (h : s.Told t) : t.mem.misses = s.mem.misses := by obtain ⟨⟨_, _, _, _, _, _, _, _, _, rfl⟩, _⟩ := h; rfl
theorem ctx (h : s.Told t) (n : Nat) : t.ctx n = s.ctx n := congrArg (Map.getD · n Ctx.idle) (congrArg Tables.ctxs h.tab)
theorem course (h : s.Told t) (n : Nat) : t.course n = s.course n := congrArg (Map.getD · n Course.idle) h.courses
theorem queue (h : s.Told t) (n q : Nat) : t.queue n q = s.queue n q := by obtain ⟨_, _, h⟩ := h.2.1 n; simp [State.queue, h]
theorem job (h : s.Told t) (n j : Nat) : t.job n j = s.job n j := by obtain ⟨_, _, h⟩ := h.2.1 n; simp [State.job, h]
theorem part (h : s.Told t) (n : Nat) : t.part n = s.part n := congrArg (fun x => Map.get? (Truss.parts x) n) h.truss
theorem recSeq (h : s.Told t) : t.board.recSeq = s.board.recSeq := by obtain ⟨_, _, _, ⟨_, _, _, _, _, _, _, _, _, _, h⟩, _⟩ := h; rw [h]
theorem address (h : s.Told t) : t.board.address = s.board.address := by obtain ⟨_, _, _, ⟨_, _, _, _, _, _, _, _, _, _, h⟩, _⟩ := h; rw [h]
theorem port (h : s.Told t) (n : Nat) : (s.port n).Sent (t.port n) := h.2.2.2.2 n
theorem vlogCount (h : s.Told t) : t.fab.vlogCount = s.fab.vlogCount := by obtain ⟨_, _, ⟨_, _, _, _, h⟩, _⟩ := h; rw [h]
theorem devid (h : s.Told t) : t.fab.devid = s.fab.devid := by obtain ⟨_, _, ⟨_, _, _, _, h⟩, _⟩ := h; rw [h]

end State.Told

theorem State.told_updFn (s : State) (n : Nat) (f : Fn → Fn) (hf : ∀ g, ∃ sg vs, f g = { g with sig := sg, vecs := vs }) : s.Told (s.updFn n f) := by
  refine ⟨⟨_, _, _, _, _, _, _, _, _, rfl⟩, fun k => ?_, ⟨_, _, _, _, rfl⟩, ⟨_, _, _, _, _, _, _, _, _, _, rfl⟩, fun _ => .refl _⟩
  rw [State.fn_updFn]
  split
  · subst k; exact hf _
  · exact ⟨_, _, rfl⟩

theorem State.told_fireVec (s : State) (n v : Nat) : s.Told (s.fireVec n v) := s.told_updFn n _ fun _ => ⟨_, _, rfl⟩

theorem State.told_cleanPoison (s : State) (l : List Nat) : s.Told (s.cleanPoison l) := by
  induction l generalizing s with
  | nil => exact .refl s
  | cons x l ih =>
    have h (b : Bool) (u : State) (hu : s.Told u) :
        s.Told (State.cleanPoison (if b then { u with mem := { u.mem with hostPoison := u.mem.hostPoison.filter (· != x) } } else u) l) := by
      refine Told.trans ?_ (ih _)
      split
      · exact hu.trans ⟨⟨_, _, _, _, _, _, _, _, _, rfl⟩, fun _ => ⟨_, _, rfl⟩, ⟨_, _, _, _, rfl⟩, ⟨_, _, _, _, _, _, _, _, _, _, rfl⟩, fun _ => .refl _⟩
      · exact hu
    exact h _ s.drawBool.2 ⟨⟨_, _, _, _, _, _, _, _, _, rfl⟩, fun _ => ⟨_, _, rfl⟩, ⟨_, _, _, _, rfl⟩, ⟨_, _, _, _, _, _, _, _, _, _, rfl⟩, fun _ => .refl _⟩

theorem State.told_hostWrite (s : State) (a : Nat) (bs : List Byte) : s.Told (s.hostWrite a bs) := by
  have h (c : Map Byte) : s.Told { s with mem := { s.mem with hostCells := c } } :=
    ⟨⟨_, _, _, _, _, _, _, _, _, rfl⟩, fun _ => ⟨_, _, rfl⟩, ⟨_, _, _, _, rfl⟩, ⟨_, _, _, _, _, _, _, _, _, _, rfl⟩, fun _ => .refl _⟩
  exact (h _).trans (State.told_cleanPoison _ _)

theorem State.told_ringWrite (s : State) (loc : Bool) (a : Nat) (bs : List Byte) : s.Told (s.ringWrite loc a bs) :=
  .ite (.of_onlyBytes (s.onlyBytes_writeBytes a bs)) (s.told_hostWrite a bs)

theorem State.told_ringDeliver (s : State) (n : Nat) (r : Record) : s.Told (s.ringDeliver n r) := by
  unfold State.ringDeliver
  extract_lets g next written t
  have ht : s.Told t :=
    .ite (s.told_updFn n _ fun _ => ⟨_, _, rfl⟩) ((s.told_ringWrite _ _ _).trans (written.told_updFn n _ fun _ => ⟨_, _, rfl⟩))
  exact .ite (ht.trans (t.told_fireVec n 0)) ht

/-- Only what the board has sent or has still to send differs. -/
theorem State.told_board {s : State} (b : Board) (hb : ∃ q dr dd sn cq cd cdd ac ao ib, b = { s.board with
    bmcQueue := q, bmcDrop := dr, bmcDropped := dd, sent := sn, collQueue := cq, collDrop := cd, collDropped := cdd, aoCount := ac, aoStore := ao, ibi := ib }) : s.Told { s with board := b } :=
  ⟨⟨_, _, _, _, _, _, _, _, _, rfl⟩, fun _ => ⟨_, _, rfl⟩, ⟨_, _, _, _, rfl⟩, hb, fun _ => .refl _⟩

/-- Only the ports and what the fabric has sent differ. -/
theorem State.told_fab {s : State} (f : Fabric) (hf : ∃ ps o rs tg, f = { s.fab with ports := ps, out := o, remotes := rs, nextTag := tg })
    (hp : ∀ n, (s.port n).Sent (f.ports.getD n Port.idle)) : s.Told { s with fab := f } :=
  ⟨⟨_, _, _, _, _, _, _, _, _, rfl⟩, fun _ => ⟨_, _, rfl⟩, hf, ⟨_, _, _, _, _, _, _, _, _, _, rfl⟩, hp⟩

theorem State.told_bmcServe (s : State) : s.Told s.bmcServe :=
  .ite (.refl s) (.trans (.foldl (fun _ _ => State.told_board _ ⟨_, _, _, _, _, _, _, _, _, _, rfl⟩) _ _)
    (State.told_board _ ⟨_, _, _, _, _, _, _, _, _, _, rfl⟩))

theorem State.told_updPort {s : State} (p : Nat) {f : Port → Port} (hf : (s.port p).Sent (f (s.port p))) : s.Told (s.updPort p f) := by
  refine State.told_fab _ ⟨_, _, _, _, rfl⟩ fun n => ?_
  change (s.port n).Sent (Map.getD (s.fab.ports.upd p Port.idle f) n Port.idle)
  rw [Map.getD_upd]
  split
  · subst n; exact hf
  · exact .refl _

theorem State.told_sendOn (s : State) (p : Nat) (m : Msg) : s.Told (s.sendOn p m) :=
  .ite (State.told_updPort p ⟨_, _, _, _, rfl⟩)
    ((State.told_updPort p ⟨_, _, _, _, rfl⟩).trans (State.told_fab _ ⟨_, _, _, _, rfl⟩ fun _ => .refl _))

theorem State.told_send {s t : State} {m : Msg} {o : Option Nat} (h : s.send m o = some t) : s.Told t := by
  simp only [State.send] at h
  split at h
  · obtain rfl := Option.some.inj h
    exact State.told_sendOn ..
  · cases h

theorem State.told_sendOr (s : State) (m : Msg) (o : Option Nat) : s.Told (s.sendOr m o) := by
  unfold State.sendOr
  cases h : s.send m o with
  | none => exact .refl s
  | some t => exact State.told_send h

theorem State.told_request {s t : State} {fn : Nat} {m : Msg} {w g : Nat} {why : RemoteWhy} (h : s.request fn m w g why = some t) : s.Told t := by
  obtain ⟨u, hu, rfl⟩ := Option.map_eq_some_iff.1 h
  exact (State.told_send hu).trans (State.told_fab _ ⟨_, _, _, _, rfl⟩ fun _ => .refl _)

theorem State.told_collAsk (s : State) (fuel : Nat) : s.Told (s.collAsk fuel) := by
  induction fuel generalizing s with
  | zero => exact .refl s
  | succ fuel ih =>
    have hlose : s.Told (s.collLose.collAsk fuel) := .trans (State.told_board _ ⟨_, _, _, _, _, _, _, _, _, _, rfl⟩) (ih _)
    unfold State.collAsk
    split
    · exact .refl s
    · refine .ite (.ite hlose (.trans ?_ (ih _))) ?_
      · exact (Told.of_onlyBytes ((s.onlyBytes_writeNat _ _ _).trans (State.onlyBytes_writeBytes _ _ _))).trans
          (State.told_board _ ⟨_, _, _, _, _, _, _, _, _, _, rfl⟩)
      · split
        · next t ht => exact State.told_request ht
        · exact hlose

theorem State.told_deviceDeliver (s : State) (r : Record) : s.Told (s.deviceDeliver r) := by
  unfold State.deviceDeliver
  extract_lets b₀ b₁ b₂ served b first queued
  have hb : s.Told { s with board := b₂ } := by
    refine State.told_board _ ?_
    simp only [b₂]
    split
    · split <;> exact ⟨_, _, _, _, _, _, _, _, _, _, rfl⟩
    · exact ⟨_, _, _, _, _, _, _, _, _, _, rfl⟩
  have hserved : s.Told served := hb.trans (State.told_bmcServe _)
  have hqueued : s.Told queued := hserved.trans (State.told_board _ ⟨_, _, _, _, _, _, _, _, _, _, rfl⟩)
  exact .ite (.ite (hqueued.trans (queued.told_collAsk 1)) hqueued) hserved

/-- A record takes the next sequence number; the rest of it is delivery. -/
theorem State.told_record (s : State) (rep : Report) :
    ({ s with board := { s.board with recSeq := s.board.recSeq + 1 } } : State).Told (s.record rep) := by
  unfold State.record
  extract_lets _ _ counted _ _ t t'
  have ht : counted.Told t := State.told_ringDeliver _ _ _
  have ht' : counted.Told t' := .ite ht (ht.trans (t.told_ringDeliver _ _))
  exact ht'.trans (State.told_deviceDeliver _ _)

end Sys2Proof.Machine

/-! SUPPORT. Firmware and images delivered at boot (R415, R416, R418 to R424). -/

namespace Sys2Proof.Machine
open Sys2Proof.Claims

section
variable {s : State}

theorem State.bootServe_idle (h : s.boot.go = false ∨ s.boot.busMaster = false ∨ s.boot.stage = 0 ∨ s.boot.halted = true) : s.bootServe = s := by
  rw [State.bootServe, if_pos]
  simpa using h

/-- The stage at which a delivery of a kind is due. -/
theorem State.due_iff {kind : Nat} : s.due kind = true ↔ s.pwr.testmode = false ∧ (kind = 1 ∧ s.boot.stage = 1 ∨ kind = 2 ∧ s.boot.stage = 3) := by
  simp [State.due]

theorem State.due_stage {kind : Nat} (h : s.due kind = true) : s.boot.stage = 1 ∨ s.boot.stage = 3 := by
  obtain ⟨_, h | h⟩ := State.due_iff.1 h
  · exact .inl h.2
  · exact .inr h.2

/-- An object that has arrived whole takes the boot to the next stage, with the object and nothing else of it. -/
theorem State.delivered_spec (bs : List Byte) (h : s.boot.stage = 1 ∨ s.boot.stage = 3) :
    (s.delivered bs).boot.image = bs ∧ (s.delivered bs).boot.stage = s.boot.stage + 1 ∧ (s.delivered bs).boot.go = s.boot.go ∧
      (s.delivered bs).boot.status = statusOk ∧ (s.delivered bs).mem = s.mem ∧ (s.delivered bs).boot.doeStatus = s.boot.doeStatus := by
  rcases h with h | h <;> simp [State.delivered, State.bootStatus, State.toStage, h]

/-- A message of the boot mailbox that may be taken, for an object that is due and free of poison. -/
theorem State.bootServe_delivers {kind a len : Nat} (hk : kind = s.bootWord 0 % 256) (ha : a = s.bootWord 2 + s.bootWord 3 * 2 ^ 32)
    (hlen : len = s.bootWord 4 + s.bootWord 5 * 2 ^ 32) (hgo : s.boot.go = true) (hb : s.boot.busMaster = true) (hs : s.boot.stage ≠ 0)
    (hh : s.boot.halted = false) (hd : s.due kind = true) (hc : (if kind = 1 then s.boot.fwChan else s.boot.imgChan) ≠ some true)
    (hl : len ≤ 0x400000) (hp : s.firstPoison a len = none) :
    s.bootServe = ({ s with boot := { s.boot with go := false } } : State).delivered (s.hostRead a len) := by
  have hmin : min (s.bootWord 4 + s.bootWord 5 * 2 ^ 32) 0x400001 = len := by omega
  simp only [State.bootServe]
  rw [if_neg (by simp [hgo, hb, hs, hh]), ← hk, if_neg, hmin, ← ha]
  · have hp' : ({ s with boot := { s.boot with go := false } } : State).firstPoison a len = none := hp
    rw [hp']
    rfl
  · rintro (h | h)
    · have hd' : ({ s with boot := { s.boot with go := false } } : State).due kind = true := hd
      simp [hd'] at h
    · exact hc h

theorem State.bootServe_refuses {kind : Nat} (hk : kind = s.bootWord 0 % 256) (hgo : s.boot.go = true) (hb : s.boot.busMaster = true)
    (hs : s.boot.stage ≠ 0) (hh : s.boot.halted = false)
    (h : s.due kind = false ∨ (if kind = 1 then s.boot.fwChan else s.boot.imgChan) = some true) :
    s.bootServe = { s with boot := { s.boot with go := false, status := hqCmdInvalid } } := by
  simp only [State.bootServe]
  rw [if_neg (by simp [hgo, hb, hs, hh]), ← hk, if_pos]
  · rfl
  · refine h.imp (fun h => ?_) id
    have h' : ({ s with boot := { s.boot with go := false } } : State).due kind = false := h
    simp [h']

/-- A chunk in its place, of the announced total. -/
def State.chunkFits (s : State) (kind off total : Nat) (data : List Byte) : Prop :=
  off = s.boot.doeBuf.length ∧ data.length ≤ 0x40000 ∧ off + data.length ≤ total ∧ ∀ t, s.boot.doeTotal.get? kind = some t → t = total

theorem chunkKnown_iff {o : Option Nat} {total : Nat} :
    (match o with | some t => decide (t = total) | none => true) = true ↔ ∀ t, o = some t → t = total := by
  cases o <;> simp

/-- Which chunks break the order of a delivery. -/
theorem State.chunkBad_iff {kind off total : Nat} {last : Bool} {data : List Byte} :
    (off ≠ s.boot.doeBuf.length ∨ (!(match s.boot.doeTotal.get? kind with | some t => decide (t = total) | none => true)) = true ∨
      0x40000 < data.length ∨ total < off + data.length ∨ (last = true ∧ off + data.length ≠ total)) ↔
      ¬ s.chunkFits kind off total data ∨ (last = true ∧ off + data.length ≠ total) := by
  rw [Bool.not_eq_true', ← Bool.not_eq_true, chunkKnown_iff, State.chunkFits]
  generalize (∀ t, s.boot.doeTotal.get? kind = some t → t = total) = p
  generalize (last = true ∧ off + data.length ≠ total) = q
  by_cases hp : p
  · by_cases hq : q
    · simp [hq]
    · simp only [hp, hq, and_true, not_true, false_or, or_false]
      omega
  · simp [hp]

theorem State.doeChunk_refused {kind off total : Nat} {last : Bool} {data : List Byte} (hh : s.boot.halted = false)
    (h : s.due kind = false ∨ ¬ s.chunkFits kind off total data) : ∃ r, s.doeChunk kind last off total data = s.doeRefuse r := by
  simp only [State.doeChunk]
  rw [if_neg (by simp [hh])]
  by_cases hd : s.due kind = true
  · refine ⟨true, ?_⟩
    have hf : ¬ s.chunkFits kind off total data := h.resolve_left (by simp [hd])
    rw [if_neg (by simp [hd])]
    exact if_pos (State.chunkBad_iff.2 (.inl hf))
  · exact ⟨false, if_pos (by simpa using hd)⟩

theorem State.doeRefuse_spec (r : Bool) : (s.doeRefuse r).boot.stage = s.boot.stage ∧ (s.doeRefuse r).boot.image = s.boot.image ∧
    (s.doeRefuse r).boot.status = hqCmdInvalid ∧ (s.doeRefuse r).boot.doeStatus = s.boot.doeStatus ++ [hqCmdInvalid] := by
  cases r <;> exact ⟨rfl, rfl, rfl, rfl⟩

theorem State.doeChunk_taken {kind off total : Nat} {last : Bool} {data : List Byte} (hh : s.boot.halted = false) (hd : s.due kind = true)
    (hf : s.chunkFits kind off total data) (hl : last = true → off + data.length = total) :
    ∃ fw img, s.doeChunk kind last off total data =
      if last then (({ s with boot := { s.boot with fwChan := fw, imgChan := img } } : State).delivered (s.boot.doeBuf ++ data)).doeReply statusOk
      else ({ s with boot := { s.boot with fwChan := fw, imgChan := img, doeBuf := s.boot.doeBuf ++ data, doeTotal := [(kind, total)] } } : State).doeReply statusOk := by
  refine ⟨if kind = 1 then some true else s.boot.fwChan, if kind = 2 then some true else s.boot.imgChan, ?_⟩
  simp only [State.doeChunk]
  rw [if_neg (by simp [hh]), if_neg (by simp [hd])]
  refine if_neg (fun h => ?_)
  rcases State.chunkBad_iff.1 h with h | ⟨h1, h2⟩
  · exact h hf
  · exact h2 (hl h1)

/-- A rejection is counted and recorded; the floor and the running firmware stay. -/
theorem State.fwReject_spec : s.fwReject.boot = { (s.toStage 1).boot with status := bootFwRejected, attempts := sat 8 (s.boot.attempts + 1), image := [] } ∧
    s.fwReject.board.recSeq = s.board.recSeq + 1 := by
  have h := State.told_record ({ ((s.toStage 1).bootStatus bootFwRejected) with
    boot := { ((s.toStage 1).bootStatus bootFwRejected).boot with attempts := sat 8 (s.boot.attempts + 1), image := [] } }) (Report.plain 0x0C bootFwRejected 0 [])
  exact ⟨h.boot, h.recSeq⟩

end

theorem fwOk_spec {img : List Byte} {floor : Word} (h : fwOk img floor = true) : floor.toNat ≤ leAt img 16 4 ∧ leAt img 0 4 = 0xAF07F1A0 ∧
    img.length = 0x4400 + leAt img 24 8 ∧ Config.rsaPssVerify ((img.drop 0x80).take 384) ((img.drop 0x200).take 4) ((img.drop 0x240).take 384) (img.take 128) = true ∧
    Config.slhVerify ((img.drop 0x204).take 48) ((img.drop 0x3C0).take 16224) (img.take 128) = true ∧
    sha384 ((img.drop 0x4400).take (leAt img 24 8)) = (img.drop 32).take 48 := by
  simp only [fwOk, Bool.and_eq_true, decide_eq_true_eq, beq_iff_eq] at h
  obtain ⟨⟨⟨⟨⟨⟨⟨_, hmagic, _, hlen, _⟩, _⟩, _⟩, hrsa⟩, hslh⟩, hdigest⟩, hfloor⟩ := h
  exact ⟨hfloor, hmagic, hlen, hrsa, hslh, hdigest⟩

/-- Settles O48: the boot mailbox and DOE by their checks in order; firmware by `fwOk`. -/
theorem bootDeliveries : Obligations.BootDeliveries := by
  unfold Obligations.BootDeliveries
  refine ⟨fun s v hv => ?_, fun s v hv => ?_, fun s kind last off total data => ?_, fun s => ?_, fun img floor h => fwOk_spec h⟩
  · have he : exec (.bootMailboxSend v) s = .next (({ s with boot := { s.boot with go := true } } : State).bootServe) :=
      congrArg Host.Outcome.next (if_pos hv)
    refine ⟨fun h => he.trans (congrArg _ (State.bootServe_idle (.inr h))), fun hb hs hh => ⟨fun h => he.trans (congrArg _ ?_), fun hd hc hl hp => ?_⟩⟩
    · exact State.bootServe_refuses rfl rfl hb hs hh h
    · refine ⟨_, he.trans (congrArg _ (State.bootServe_delivers rfl rfl rfl rfl hb hs hh hd hc hl hp)), ?_⟩
      obtain ⟨hi, hst, hgo, hok, hm, _⟩ := State.delivered_spec (s := { s with boot := { s.boot with go := false } }) (s.hostRead _ _) (State.due_stage hd)
      exact ⟨hi, hst, hgo, hok, hm⟩
  · exact congrArg Host.Outcome.next (if_neg (Bool.eq_false_iff.1 hv))
  · intro fits hh
    refine ⟨fun hd hf hl => ?_, fun hd hf hl ht => ?_, fun h => ?_⟩
    · obtain ⟨fw, im, h⟩ := State.doeChunk_taken hh hd hf (last := last) (by simp [hl])
      exact ⟨_, congrArg Host.Outcome.next (h.trans (if_neg (by simp [hl]))), rfl, rfl, rfl⟩
    · obtain ⟨fw, im, h⟩ := State.doeChunk_taken hh hd hf (last := last) (fun _ => ht)
      obtain ⟨hi, hst, _, _, _, hds⟩ := State.delivered_spec (s := { s with boot := { s.boot with fwChan := fw, imgChan := im } })
        (s.boot.doeBuf ++ data) (State.due_stage hd)
      exact ⟨_, congrArg Host.Outcome.next (h.trans (if_pos hl)), hi, hst, congrArg (· ++ [statusOk]) hds⟩
    · obtain ⟨r, h⟩ := State.doeChunk_refused (last := last) hh h
      exact ⟨_, congrArg Host.Outcome.next h, State.doeRefuse_spec r⟩
  · intro img svn hs hh hgo
    have hrun : ¬ (s.boot.stage ≠ 2 ∨ s.boot.halted = true) := by simp [hs, hh]
    refine ⟨fun hok => ?_, fun hbad => ?_⟩
    · refine ⟨_, congrArg Host.Outcome.next ((if_neg hrun).trans ((if_pos hok).trans (State.bootServe_idle (.inl hgo)))), rfl, rfl, rfl, ?_, ?_, rfl⟩
      · simp [State.bootStatus, State.toStage, svn, img]
      · simp [State.bootStatus, State.toStage, svn, img]
    · obtain ⟨hb, hr⟩ := State.fwReject_spec (s := s)
      refine ⟨_, congrArg Host.Outcome.next ((if_neg hrun).trans ((if_neg (by simp [hbad, img])).trans (State.bootServe_idle (.inl ?_)))), ?_⟩
      · rw [hb]; exact hgo
      · rw [hb]; exact ⟨rfl, rfl, rfl, rfl, rfl, hr⟩

end Sys2Proof.Machine

/-! SUPPORT. Loads of truss images, and what an apply does to the truss controller (R357 to R363). -/

namespace Sys2Proof.Machine
open Sys2Proof.Claims

/-! ## Folds of updates of functions -/

/-- A setting that is idempotent, made in several functions. -/
theorem State.fn_foldl_updFn (f : Fn → Fn) (hf : ∀ g, f (f g) = f g) (l : List Nat) (s : State) (k : Nat) :
    (l.foldl (fun s n => s.updFn n f) s).fn k = if k ∈ l then f (s.fn k) else s.fn k := by
  induction l generalizing s with
  | nil => simp
  | cons n l ih =>
    rw [List.foldl_cons, ih, State.fn_updFn]
    by_cases hk : k = n
    · subst hk; simp [hf]
    · simp [hk]

/-- Updates of functions leave what else a state holds. -/
theorem State.foldl_updFn_eq (f : Nat → Fn → Fn) (l : List Nat) (s : State) :
    ∃ fns, l.foldl (fun s n => s.updFn n (f n)) s = { s with fns := fns } := by
  induction l generalizing s with
  | nil => exact ⟨_, rfl⟩
  | cons n l ih =>
    obtain ⟨fns, h⟩ := ih (s.updFn n (f n))
    exact ⟨fns, h⟩

/-- A projection that each step keeps is kept by a fold. -/
theorem foldl_keeps {α β σ : Type} (g : σ → β) {f : σ → α → σ} (hf : ∀ t x, g (f t x) = g t) (l : List α) (s : σ) :
    g (l.foldl f s) = g s := by
  induction l generalizing s with
  | nil => rfl
  | cons x l ih => exact (ih _).trans (hf s x)

/-! ## The checks of an image -/

/-- What the header and the sections of an accepted image keep. -/
theorem State.imgCheck_header {s : State} {bs : List Byte} {slot : Option Nat} {es : List DirE} {img : TrussImg}
    (h : s.imgCheck bs slot = .ok (es, img)) : headerBad bs slot = none ∧
      leAt bs 4 4 = (crc32c ((bs.drop 8).take (56 + 16 * leAt bs 50 2))).toNat ∧ ∀ e ∈ es, e.crc = (crc32c e.body).toNat := by
  unfold State.imgCheck at h
  split at h
  · cases h
  · next hhead =>
    extract_lets n es' img' others clash sums at h
    split at h
    · cases h
    · next hcrc =>
      split at h
      · cases h
      · split at h
        · cases h
        · next hfind =>
          have hes : es = es' := by
            split at h
            · cases h
            · split at h
              · cases h
              · split at h
                · cases h
                · exact (Prod.mk.inj (Except.ok.inj h)).1.symm
          refine ⟨hhead, Classical.not_not.1 hcrc, fun e he => ?_⟩
          have := List.find?_eq_none.1 hfind e (hes ▸ he)
          simpa using this

theorem State.imgCheck_spec {s : State} {bs : List Byte} {slot : Option Nat} {es : List DirE} {img : TrussImg}
    (h : s.imgCheck bs slot = .ok (es, img)) : leAt bs 0 4 = 0xAF077255 ∧ leAt bs 52 4 = bs.length ∧
      leAt bs 4 4 = (crc32c ((bs.drop 8).take (56 + 16 * leAt bs 50 2))).toNat ∧
      (∀ e ∈ es, e.crc = (crc32c e.body).toNat) ∧ img.full = slot.isNone ∧ img.digest = digest16 bs ∧
      (partsApart s.truss.parts → partsApart img.parts) := by
  obtain ⟨hhead, hcrc, hes⟩ := State.imgCheck_header h
  obtain ⟨himg, -, -⟩ := State.imgCheck_ok h
  have hmagic := firstItem_eq_none hhead (x := (decide (leAt bs 0 4 = 0xAF077255), 0)) (by simp)
  have hlen := firstItem_eq_none hhead (x := (decide (leAt bs 52 4 = bs.length ∧ leAt bs 52 4 ≤ 0x400000 ∧ leAt bs 52 4 % 64 = 0), 52)) (by simp)
  simp only [decide_eq_true_eq] at hmagic hlen
  exact ⟨hmagic, hlen.1, hcrc, hes, congrArg TrussImg.full himg, congrArg TrussImg.digest himg, State.imgCheck_partsApart h⟩

/-! ## Loads -/

section
variable {s : State} {slot : Option Nat} {es : List DirE} {img : TrussImg}

theorem State.load_poisoned {o : Nat} (h : s.firstPoison s.truss.src.toNat s.truss.len = some o) :
    s.load slot = s.loadRefused (poisonItem (s.hostRead s.truss.src.toNat s.truss.len) o) 0 := by
  simp only [State.load, h]

theorem State.load_failed {r : Refused} (hp : s.firstPoison s.truss.src.toNat s.truss.len = none)
    (h : s.imgCheck (s.hostRead s.truss.src.toNat s.truss.len) slot = .error r) :
    s.load slot = s.loadRefused r (digest16 (s.hostRead s.truss.src.toNat s.truss.len)) := by
  simp only [State.load, hp, h]

theorem State.load_accepted (hp : s.firstPoison s.truss.src.toNat s.truss.len = none)
    (h : s.imgCheck (s.hostRead s.truss.src.toNat s.truss.len) slot = .ok (es, img)) (h7 : s.shortCheck es = none) (h8 : s.spareCheck es img = none)
    (h9 : s.quiesceCheck es slot = none) : s.load slot = { s with truss := { s.truss with busy := true, pending := some img } } := by
  simp only [State.load, hp, h, h7, h8, h9]

theorem State.load_notQuiesced {r : Refused} (hp : s.firstPoison s.truss.src.toNat s.truss.len = none)
    (h : s.imgCheck (s.hostRead s.truss.src.toNat s.truss.len) slot = .ok (es, img)) (h7 : s.shortCheck es = none) (h8 : s.spareCheck es img = none)
    (h9 : s.quiesceCheck es slot = some r) : s.load slot = s.loadRefused r (digest16 (s.hostRead s.truss.src.toNat s.truss.len)) := by
  simp only [State.load, hp, h, h7, h8, h9]

theorem State.quiesceCheck_status {r : Refused} (h : s.quiesceCheck es slot = some r) : r.status = trsNotQuiesced := by
  obtain ⟨n, _, rfl⟩ := Option.map_eq_some_iff.1 h
  rfl

end

/-- A load of the PF, where the loader is free. -/
theorem trussLoads : TrussLoads := by
  unfold TrussLoads
  refine ⟨fun s fn v full => ?_, fun s r d => ⟨rfl, rfl, rfl, rfl, rfl, rfl, rfl, rfl, rfl, rfl⟩, fun s bs slot es img h => State.imgCheck_spec h⟩
  intro slot w u cmd to' bs ha hv
  have hrow : exec cmd s = .next (w.trsCtl fn v) := by
    cases full
    · exact ha.row (by simp [Instr.wellFormed, ha.lt]) (by simpa using hv) _
    · exact ha.row (by simp [Instr.wellFormed, ha.lt]) (by simpa using hv) _
  refine ⟨fun h => hrow.trans (congrArg _ (if_pos h)), fun h0 hb => ?_⟩
  have hload : exec cmd s = .next (u.load to') := by
    refine hrow.trans (congrArg _ ((if_neg ?_).trans ?_))
    · rintro (h | h)
      · exact h h0
      · exact Bool.eq_false_iff.1 hb h
    · cases full
      · have hv' : v.toNat % 4 = 2 := hv
        simp only [hv']
        rfl
      · have hv' : v.toNat % 4 = 1 := hv
        simp only [hv']
        rfl
  refine ⟨fun o ho => hload.trans (congrArg _ (State.load_poisoned ho)), fun hp => ⟨fun r hr => hload.trans (congrArg _ (State.load_failed hp hr)),
    fun es img hok h7 h8 h9 => hload.trans (congrArg _ (State.load_accepted hp hok h7 h8 h9)), fun es img r hok h7 h8 h9 =>
      ⟨State.quiesceCheck_status h9, hload.trans (congrArg _ (State.load_notQuiesced hp hok h7 h8 h9))⟩⟩⟩

/-! ## The truss controller in an apply -/

theorem State.foldl_truss {α : Type} {f : State → α → State} (hf : ∀ t x, (f t x).truss = t.truss) (l : List α) (s : State) :
    (l.foldl f s).truss = s.truss := foldl_keeps State.truss hf l s

@[simp] theorem State.wakeCourse_truss (s : State) (c : Nat) : (s.wakeCourse c).truss = s.truss := rfl

@[simp] theorem State.clearCourse_truss (s : State) (c : Nat) : (s.clearCourse c).truss = s.truss := by
  simp only [State.clearCourse]
  split <;> rfl

@[simp] theorem State.clearUnit_truss (s : State) (u : Nat) : (s.clearUnit u).truss = s.truss := rfl

@[simp] theorem State.cutWays_truss (s : State) (part : Nat) (old new ls : List Nat) : (s.cutWays part old new ls).truss = s.truss := by
  induction ls generalizing s with
  | nil => rfl
  | cons n ls ih =>
    simp only [State.cutWays]
    split
    · exact ih _
    · split
      · exact ih _
      · refine (ih _).trans ?_
        split <;> rfl

@[simp] theorem State.applyWays_truss (s : State) (parts : Map Part) : (s.applyWays parts).truss = s.truss :=
  foldl_keeps State.truss (fun _ _ => State.cutWays_truss _ _ _ _ _) _ s

@[simp] theorem State.applyShares_truss (s : State) (parts : Map Part) : (s.applyShares parts).truss = s.truss := by
  refine foldl_keeps State.truss (fun t n => ?_) _ s
  refine (apply_ite State.truss _ _ _).trans (ite_eq_left_iff.2 fun _ => ?_)
  exact foldl_keeps State.truss (f := fun (u : State) l => (u.writeBack l).dropLine l) (fun u l => (State.onlyBytes_writeBack u l).truss) _ t

theorem State.applyOwners_truss (s : State) (parts : Map Part) : (s.applyOwners parts).truss = { s.truss with
    ownCourse := ownersOf parts Part.courses, ownUnit := ownersOf parts Part.units, ownWays := parts.map (fun p => (p.1, p.2.ways))
    ownDdr := parts.map (fun p => (p.1, p.2.shareOf)), unitsLost := false } := by
  have hc : ∀ (t : State) (l : List Nat), (l.foldl (fun s c => s.clearCourse c) t).truss = t.truss :=
    fun t l => foldl_keeps State.truss (fun u c => u.clearCourse_truss c) l t
  have hu : ∀ (t : State) (l : List Nat), (l.foldl (fun s u => s.clearUnit u) t).truss = t.truss :=
    fun t l => foldl_keeps State.truss (fun u c => u.clearUnit_truss c) l t
  simp only [State.applyOwners, State.applyShares_truss, State.applyWays_truss, hc, hu]

@[simp] theorem State.resetSlot_truss (s : State) (n : Nat) : (s.resetSlot n).truss = s.truss := by
  simp only [State.resetSlot, State.updFn_truss, State.dropDefault]

@[simp] theorem State.applyShapes_truss (s : State) (p : Part) : (s.applyShapes p).truss = s.truss := by simp only [State.applyShapes]

@[simp] theorem State.applySpare_truss (s : State) (c fence : Nat) (rows : Map Nat) : (s.applySpare c fence rows).truss = s.truss := by
  unfold State.applySpare
  extract_lets all before t
  generalize all.zip before = l
  refine (State.foldl_truss (fun u x => ?_) _ t).trans (State.updCourse_truss s c _)
  split
  · exact State.updCore_truss _ _ _
  · rfl

@[simp] theorem State.applyDevice_truss (s : State) (img : TrussImg) : (s.applyDevice img).truss = s.truss := by
  simp only [State.applyDevice]
  exact (foldl_keeps State.truss (fun t p => State.updPort_truss t p _) _ _).trans rfl

theorem State.truss_mk (pending : List Instr) (grid : Grid) (courses : Map Course) (mem : Mem) (tab : Tables) (fns : Map Fn)
    (engines : Map Engine) (fab : Fabric) (truss : Truss) (pwr : PowerCtl) (boot : Boot) (spdm : Spdm) (board : Board) (secure : Secure)
    (free : Nat) (vfEnable : Bool) :
    (State.mk pending grid courses mem tab fns engines fab truss pwr boot spdm board secure free vfEnable).truss = truss := rfl

theorem State.onlyBytes_saveCtx (s : State) (n : Nat) : s.OnlyBytes (s.saveCtx n) := by
  unfold State.saveCtx
  extract_lets c a t
  exact (State.onlyBytes_writeBytes s _ _).trans (State.onlyBytes_writeBytes t _ _)

@[simp] theorem State.defineDefault_truss (s : State) (n : Nat) : (s.defineDefault n).truss = s.truss := by
  unfold State.defineDefault
  split
  · rfl
  · refine (State.onlyBytes_saveCtx _ _).truss.trans ?_
    rw [State.truss_mk]
    exact (State.onlyBytes_writeBytes s _ _).truss

@[simp] theorem State.becomeReady_truss (s : State) (n : Nat) : (s.becomeReady n).truss = s.truss := by
  simp only [State.becomeReady]
  split
  · rfl
  · exact State.defineDefault_truss _ n

/-- At most entries have been added to the journal. -/
def State.Journaled (s t : State) : Prop := ∃ n j, t.truss = { s.truss with jcount := n, journal := j } ∧ s.truss.jcount ≤ n

theorem State.Journaled.of_truss {s t : State} (h : t.truss = s.truss) : s.Journaled t := ⟨_, _, h, Nat.le_refl _⟩

theorem State.Journaled.trans {s t u : State} (h : s.Journaled t) (h' : t.Journaled u) : s.Journaled u := by
  obtain ⟨n, j, ht, hn⟩ := h
  obtain ⟨n', j', hu, hn'⟩ := h'
  rw [ht] at hu hn'
  exact ⟨n', j', hu, Nat.le_trans hn hn'⟩

theorem State.Journaled.foldl {α : Type} {f : State → α → State} (hf : ∀ (t : State) x, t.Journaled (f t x)) (l : List α) (s : State) :
    s.Journaled (l.foldl f s) := by
  induction l generalizing s with
  | nil => exact .of_truss rfl
  | cons x l ih => exact (hf s x).trans (ih _)

theorem State.journaled_journal (s : State) (fn src kind detail : Nat) (d : BitVec 128) : s.Journaled (s.journal fn src kind detail d) :=
  ⟨_, _, rfl, Nat.le_succ _⟩

theorem State.journaled_injCtl (s : State) (fn port : Nat) (v : DWord) : s.Journaled (s.injCtl fn port v) := by
  unfold State.injCtl
  split
  · exact .of_truss rfl
  · exact State.journaled_journal _ _ _ _ _ _

theorem State.journaled_injSeed (s : State) (fn port : Nat) (v : DWord) : s.Journaled (s.injSeed fn port v) := by
  unfold State.injSeed
  split
  · exact .of_truss rfl
  · exact State.journaled_journal _ _ _ _ _ _

theorem State.journaled_journalInject (s : State) (img : TrussImg) : s.Journaled (s.journalInject img) := by
  refine .foldl (fun t p => ?_) _ s
  dsimp only
  split
  · exact .of_truss rfl
  · exact State.journaled_journal _ _ _ _ _ _

/-- The entries of the journal at the end of step 4, and the numbers of the load in the functions. -/
def State.noteLoad (s : State) (img : TrussImg) (slots : List Nat) : State :=
  let seq := s.truss.jcount
  let s := if img.full then s.journal 0 0 1 img.nsect img.digest else s.journal 0 0 2 img.slot img.digest
  let s := if img.full then s.journalInject img else s
  slots.foldl (fun s n => s.updFn n (fun g => { g with loadSeq := seq, memShort := false })) s

theorem State.noteLoad_truss (s : State) (img : TrussImg) (slots : List Nat) :
    ∃ n j, (s.noteLoad img slots).truss = { s.truss with jcount := n, journal := j } ∧ s.truss.jcount < n := by
  have h (t u : State) (ht : ∃ j, t.truss = { s.truss with jcount := s.truss.jcount + 1, journal := j }) (hu : t.Journaled u) :
      ∃ n j, u.truss = { s.truss with jcount := n, journal := j } ∧ s.truss.jcount < n := by
    obtain ⟨j, ht⟩ := ht
    obtain ⟨n, j', hu, hn⟩ := hu
    rw [ht] at hu hn
    exact ⟨n, j', hu, hn⟩
  unfold State.noteLoad
  rw [State.foldl_truss (fun _ _ => State.updFn_truss _ _ _)]
  cases img.full
  · exact h _ _ ⟨_, rfl⟩ (.of_truss rfl)
  · exact h _ _ ⟨_, rfl⟩ (State.journaled_journalInject _ img)

def State.withParts (s : State) (m : Map Part) : State := { s with truss := { s.truss with parts := m } }

/-- Steps 1 to 4 of the apply without the settings of a device and the entries of the journal; `f` gives a slot its shapes. -/
def State.applySettings (f : State → Nat → State) (s : State) (img : TrussImg) : State :=
  let slots := affected (if img.full then none else some img.slot)
  let t := (slots.foldl (fun s n => s.resetSlot n) (s.applyOwners img.parts)).withParts img.parts
  img.spares.foldl (fun s r => s.applySpare r.1 r.2.1 r.2.2) (slots.foldl f t)

theorem State.applyImage_eq (s : State) (img : TrussImg) : ∃ f : State → Nat → State, (∀ u n, (f u n).truss = u.truss) ∧
    s.applyImage img = (if img.full then (s.applySettings f img).applyDevice img else s.applySettings f img).noteLoad img
      (affected (if img.full then none else some img.slot)) := by
  refine ⟨_, fun u n => ?_, by unfold State.applyImage State.applySettings State.noteLoad State.withParts; rfl⟩
  split
  · rw [State.applyShapes_truss, State.resetSlot_truss]
  · rfl

theorem State.applySpares_truss (l : List (Nat × Nat × Map Nat)) (t : State) :
    (l.foldl (fun s r => s.applySpare r.1 r.2.1 r.2.2) t).truss = t.truss := by
  induction l generalizing t with
  | nil => rfl
  | cons x l ih => rw [List.foldl_cons, ih, State.applySpare_truss]

theorem State.applySettings_truss {f : State → Nat → State} (hf : ∀ u n, (f u n).truss = u.truss) (s : State) (img : TrussImg) :
    (s.applySettings f img).truss = { (s.applyOwners img.parts).truss with parts := img.parts } := by
  have hset (t : State) : (t.withParts img.parts).truss = { t.truss with parts := img.parts } := rfl
  rw [State.applySettings, State.applySpares_truss, State.foldl_truss hf, hset, State.foldl_truss (fun t n => t.resetSlot_truss n)]

/-- The truss controller after steps 1 to 4: the image's partitions and owners, and at least one more entry in the journal. -/
theorem State.applyImage_truss (s : State) (img : TrussImg) : ∃ n j, (s.applyImage img).truss = { s.truss with
    ownCourse := ownersOf img.parts Part.courses, ownUnit := ownersOf img.parts Part.units, ownWays := img.parts.map (fun p => (p.1, p.2.ways))
    ownDdr := img.parts.map (fun p => (p.1, p.2.shareOf)), unitsLost := false, parts := img.parts, jcount := n, journal := j } ∧
      s.truss.jcount < n := by
  obtain ⟨f, hf, he⟩ := s.applyImage_eq img
  have hd : (if img.full then (s.applySettings f img).applyDevice img else s.applySettings f img).truss = (s.applySettings f img).truss := by
    rw [apply_ite State.truss, State.applyDevice_truss, ite_self]
  obtain ⟨n, j, ht, hn⟩ := State.noteLoad_truss (if img.full then (s.applySettings f img).applyDevice img else s.applySettings f img) img
    (affected (if img.full then none else some img.slot))
  rw [← he, hd, State.applySettings_truss hf, State.applyOwners_truss] at ht
  rw [hd, State.applySettings_truss hf, State.applyOwners_truss] at hn
  generalize ownersOf img.parts Part.courses = courses, ownersOf img.parts Part.units = units, img.parts.map (fun p => (p.1, p.2.ways)) = ways,
    img.parts.map (fun p => (p.1, p.2.shareOf)) = shares at ht hn ⊢
  exact ⟨n, j, ht, hn⟩

/-- What ends an apply: the held writes of fault-injection registers, and the functions that become ready again. -/
theorem State.endApply_truss (s : State) (img : TrussImg) : ∃ n j, (s.endApply img).truss = { s.truss with
    ownCourse := ownersOf img.parts Part.courses, ownUnit := ownersOf img.parts Part.units, ownWays := img.parts.map (fun p => (p.1, p.2.ways))
    ownDdr := img.parts.map (fun p => (p.1, p.2.shareOf)), unitsLost := false, parts := img.parts, status := statusOk, fsect := 0, foff := 0
    busy := false, pending := none, applying := false, injHeld := [], jcount := n, journal := j } ∧ s.truss.jcount < n := by
  obtain ⟨n, j, ht, hn⟩ := s.applyImage_truss img
  have h (u t : State) (hu : u.truss = { (s.applyImage img).truss with
      status := statusOk, fsect := 0, foff := 0, busy := false, pending := none, applying := false, injHeld := [] }) (h : u.Journaled t) :
      ∃ n j, t.truss = { s.truss with
        ownCourse := ownersOf img.parts Part.courses, ownUnit := ownersOf img.parts Part.units, ownWays := img.parts.map (fun p => (p.1, p.2.ways))
        ownDdr := img.parts.map (fun p => (p.1, p.2.shareOf)), unitsLost := false, parts := img.parts, status := statusOk, fsect := 0, foff := 0
        busy := false, pending := none, applying := false, injHeld := [], jcount := n, journal := j } ∧ s.truss.jcount < n := by
    obtain ⟨m, k, h, hm⟩ := h
    rw [hu, ht] at h hm
    exact ⟨m, k, h, Nat.lt_of_lt_of_le hn hm⟩
  unfold State.endApply
  rw [State.foldl_truss (fun _ _ => State.becomeReady_truss _ _)]
  refine h _ _ (State.truss_mk ..) (.foldl (fun t w => ?_) _ _)
  dsimp only
  split
  · exact t.journaled_injCtl _ _ _
  · split
    · exact t.journaled_injSeed _ _ _
    · exact .of_truss rfl

theorem State.beginApply_spec {s : State} {img : TrussImg} (h8 : s.spareConflict img.spares = none)
    (h9 : s.quiesceCheck [] (if img.full then none else some img.slot) = none) :
    (s.beginApply img).truss = { s.truss with applying := true } ∧ (s.beginApply img).mem = s.mem ∧ (s.beginApply img).grid = s.grid ∧
      ∀ n, (s.beginApply img).fn n = if n ∈ affected (if img.full then none else some img.slot) then
        { s.fn n with ready := false, heldLow := none, latched := none } else s.fn n := by
  have he : s.beginApply img = (affected (if img.full then none else some img.slot)).foldl
      (fun s n => s.updFn n (fun g => { g with ready := false, heldLow := none, latched := none }))
      { s with truss := { s.truss with applying := true } } := by
    simp only [State.beginApply, h8, h9]
  rw [he]
  refine ⟨?_, ?_, ?_, fun n => State.fn_foldl_updFn (fun g => { g with ready := false, heldLow := none, latched := none }) (fun _ => rfl) _ _ n⟩
  all_goals
    obtain ⟨fns, h⟩ := State.foldl_updFn_eq (fun _ g => { g with ready := false, heldLow := none, latched := none })
      (affected (if img.full then none else some img.slot)) { s with truss := { s.truss with applying := true } }
    rw [h]

theorem trussApplies : TrussApplies := by
  unfold TrussApplies
  intro s img
  have he (t : State) (h : exec .trussApply s = .next t) := h
  refine ⟨fun h => ?_, fun hp ha h8 h9 => ⟨s.beginApply img, ?_, ?_⟩, fun hp ha => ⟨s.endApply img, ?_, ?_⟩⟩
  · exact congrArg Host.Outcome.next (by rw [h])
  · exact congrArg Host.Outcome.next (by simp only [hp, ha]; rfl)
  · obtain ⟨ht, hm, hg, hf⟩ := State.beginApply_spec h8 h9
    exact ⟨ht, hm, hg, fun n hn => by rw [hf, if_pos hn], fun n hn => by rw [hf, if_neg hn]⟩
  · exact congrArg Host.Outcome.next (by simp only [hp, ha]; rfl)
  · obtain ⟨n, j, ht, hn⟩ := s.endApply_truss img
    rw [ht]
    exact ⟨rfl, rfl, rfl, rfl, rfl, rfl, rfl, hn⟩

/-- Settles O44: loads by the loader's checks in order (`trussLoads`), the apply by what each of its steps leaves of the truss
controller (`trussApplies`). -/
theorem trussImages : Obligations.TrussImages := ⟨trussLoads, trussApplies⟩

end Sys2Proof.Machine

/-! SUPPORT. Registers of windows and ports (R252 to R254, R277, R278, R280, R281). -/

namespace Sys2Proof.Machine
open Sys2Proof.Claims

/-! ## Windows -/

section
variable {s : State} {fn k n : Nat} {p : Part}

theorem State.winEntry_of_lt (hp : s.part fn = some p) (hk : k < p.winCount) : s.winEntry fn k = some (p.winBase + k) := by
  simp only [State.winEntry, hp]
  exact if_pos hk

theorem State.winEntry_reached (hp : s.part fn = some p) (hk : k < p.winCount) : (s.reached fn).winEntry fn k = some (p.winBase + k) :=
  State.winEntry_of_lt (s := s.reached fn) hp hk

theorem State.winDone_open (h : (s.fab.windows.getD n Window.idle).closing = false) : s.winDone fn k n = s := if_neg (by simp [h])

theorem State.window_updWindow (s : State) (n i : Nat) (f : Window → Window) :
    (s.updWindow n f).fab.windows.getD i Window.idle = if i = n then f (s.fab.windows.getD n Window.idle) else s.fab.windows.getD i Window.idle :=
  Map.getD_upd ..

/-- A write of word 0 to an entry of which no invalidation is under way. -/
theorem State.winWord0_eq {e : Window} (v : DWord) (hp : s.part fn = some p) (hk : k < p.winCount) (hn : p.winBase + k = n)
    (he : s.fab.windows.getD n Window.idle = e) (h : e.closing = false) :
    s.winWord0 fn k v =
      if e.w0.getLsbD 0 then (if v.getLsbD 0 then s else s.updWindow n (fun w => { w with w0 := v, closing := true }))
      else if !v.getLsbD 0 then s.updWindow n (fun w => { w with w0 := v })
      else if s.winBad fn p n { e with w0 := v } then s.updFn fn (fun g => { g with winStatus := winEntryInvalid, winIndex := k })
      else (s.updWindow n (fun w => { w with w0 := v })).updFn fn (fun g => { g with winStatus := statusOk, winIndex := k }) := by
  subst hn he
  simp only [State.winWord0, hp, State.winEntry_of_lt hp hk, State.winDone_open h]

/-- Page sizes of 2 MiB to 1 GiB, a zero word 1, and an aligned target are among the rules of R253. -/
theorem State.winBad_of_field {w : Window} (h : 2 ^ 30 < 2 ^ w.size ∨ 2 ^ w.size < 2 ^ 21 ∨ w.w1 ≠ 0 ∨ w.w3.toNat % 2 ^ w.size ≠ 0) :
    s.winBad fn p n w = true := by
  have hlt {a b : Nat} (h : 2 ^ a < 2 ^ b) : a < b := (Nat.pow_lt_pow_iff_right (by decide)).1 h
  rcases h with h | h | h | h
  · simp [State.winBad, hlt h]
  · simp [State.winBad, hlt h]
  · have h' : w.w1 ≠ 0#64 := h
    simp [State.winBad, h']
  · simp [State.winBad, h]

end

/-! ## Ports -/

/-- An enabled port that is not disabled stays as it is when it is enabled. -/
theorem Port.setEnable_self {p : Port} (he : p.enable = true) (hl : p.link ≠ .disabled) : p.setEnable true = p := by
  have hp : ({ p with enable := true } : Port) = p := by rw [← he]
  simp only [Port.setEnable, hp]
  rw [if_neg (by simp), if_neg hl]

theorem Port.link_of_live {p : Port} (h : p.st = .up ∨ p.st = .degraded) : p.link = p.st := if_neg (by rcases h with h | h <;> simp [h])

theorem Port.retrain_live {p : Port} (h : p.st = .up ∨ p.st = .degraded) : p.retrain = { p with st := .retraining } := by
  have hq : p.st ≠ .quarantined := by rcases h with h | h <;> simp [h]
  rw [Port.retrain, Port.link_of_live h, if_pos h, Port.setLink, if_neg hq]

/-- Settles O43: window entries by what a write of word 0 does, ports by what a write of their control word does. -/
theorem windowsAndPorts : Obligations.WindowsAndPorts := by
  unfold Obligations.WindowsAndPorts
  refine ⟨fun s fn k v p => ?_, fun s fn k p => ?_, fun s port v => ?_⟩
  · intro n e w ha hp hk hk' hc
    have hwf : (Instr.windowEntryEnable fn k v).wellFormed = true := by simp [Instr.wellFormed, ha.lt, hk']
    have hwf' : (Instr.windowEntryInvalidate fn k v).wellFormed = true := by simp [Instr.wellFormed, ha.lt, hk']
    have heq := State.winWord0_eq (s := w) (e := e) v hp hk rfl rfl hc
    refine ⟨fun hv he => ?_, fun hv he => (ha.row hwf hv _).trans (congrArg _ ?_), fun hv he =>
      ⟨w.updWindow n (fun w => { w with w0 := v, closing := true }), (ha.row hwf' ?_ _).trans (congrArg _ ?_), ?_, fun a => ?_, fun i hi => ?_⟩,
      fun h => State.winBad_of_field h⟩
    · rw [if_neg (Bool.eq_false_iff.1 he), if_neg (by simpa using hv)] at heq
      exact ⟨fun hb => (ha.row hwf hv _).trans (congrArg _ (heq.trans (if_neg (Bool.eq_false_iff.1 hb)))),
        fun hb => (ha.row hwf hv _).trans (congrArg _ (heq.trans (if_pos hb)))⟩
    · exact heq.trans ((if_pos he).trans (if_pos hv))
    · rw [hv]; rfl
    · exact heq.trans ((if_pos he).trans (if_neg (Bool.eq_false_iff.1 hv)))
    · rw [State.window_updWindow, if_pos rfl]; rfl
    · rw [State.window_updWindow, if_pos rfl]; simp [Window.covers, Window.valid]
    · rw [State.window_updWindow, if_neg hi]; rfl
  · intro n hfn hp hk hk'
    have he : exec (.windowInvalidateDone fn k) s = .next (s.winDone fn k n) :=
      (done_next (by simp [Instr.wellFormed, hfn, hk'])).trans (congrArg _ (by rw [State.winEntry_of_lt hp hk]))
    refine ⟨fun hc => ?_, fun hc => he.trans (congrArg _ (State.winDone_open hc))⟩
    refine ⟨_, he.trans (congrArg _ (if_pos hc)), ?_, fun l hl => ?_, rfl⟩
    · exact (State.window_updWindow s n n _).trans (if_pos rfl)
    · rintro ⟨hpart, r, hr, hk⟩
      have := (List.mem_filter.1 hl).2
      simp [hpart, hr, hk] at this
  · intro x w ha hport h4 hen hst hlink
    have hset : ({ x with rateNext := v.getLsbD 5 } : Port).setEnable (v.getLsbD 4) = { x with rateNext := v.getLsbD 5 } := by
      rw [h4]; exact Port.setEnable_self hen hlink
    have hctl (c : Instr) (hc : c = .quarantineClear 0 port v ∧ v.getLsbD 7 = true ∨ c = .retrain 0 port v ∧ v.getLsbD 6 = true) :
        exec c s = .next (w.portCtl 0 port v) := by
      rcases hc with ⟨rfl, hv⟩ | ⟨rfl, hv⟩
      · exact ha.row (by simp [Instr.wellFormed, fnCount, hport]) hv _
      · exact ha.row (by simp [Instr.wellFormed, fnCount, hport]) hv _
    refine ⟨fun h7 h6 hq => ⟨_, hctl _ (.inl ⟨rfl, h7⟩), ?_⟩, fun h7 h6 hud => ⟨_, hctl _ (.inr ⟨rfl, h6⟩), ?_⟩, fun fn hfn hafn => ⟨fun h7 => ?_, fun h6 => ?_⟩, ?_, ?_⟩
    · refine (State.port_updPort_self w port _).trans ?_
      have hx : w.port port = x := rfl
      simp only [hx, hset]
      simp only [h7, h6, hq, and_self, if_true, Bool.false_eq_true, if_false]
    · refine (State.port_updPort_self w port _).trans ?_
      have hx : w.port port = x := rfl
      simp only [hx, hset]
      simp only [h7, h6, Bool.false_eq_true, false_and, if_false, if_true]
      refine (if_neg (fun h => ?_)).trans (Port.retrain_live (p := { x with rateNext := v.getLsbD 5 }) hud)
      have hdown := (Port.link_of_live (p := { x with rateNext := v.getLsbD 5 }) hud).symm.trans h.1
      have hx : x.st = .down := hdown
      rcases hud with hud | hud <;> rw [hud] at hx <;> cases hx
    · exact (hafn.row (by simp [Instr.wellFormed, hafn.lt, hport]) h7 _).trans (congrArg _ (if_pos hfn))
    · exact (hafn.row (by simp [Instr.wellFormed, hafn.lt, hport]) h6 _).trans (congrArg _ (if_pos hfn))
    · have hrow := ha.row (c := .injPctlWrite 0 port v) (by simp [Instr.wellFormed, fnCount, hport]) (ok := true) rfl (fun t => t.injCtl 0 port v)
      exact (congrArg (fun u => done (.injPctlWrite 0 port v) u) (if_pos ha.answers)).trans hrow
    · have hrow := ha.row (c := .injPseedWrite 0 port v) (by simp [Instr.wellFormed, fnCount, hport]) (ok := true) rfl (fun t => t.injSeed 0 port v)
      exact (congrArg (fun u => done (.injPseedWrite 0 port v) u) (if_pos ha.answers)).trans hrow

end Sys2Proof.Machine

/-! SUPPORT. Mailboxes (R132, R318 to R321). -/

namespace Sys2Proof.Machine
open Sys2Proof.Claims

/-! ## Channels -/

section
variable {s : State} {fn ch : Nat}

theorem State.mbx_updMbx (s : State) (fn ch k : Nat) (f : Mbx → Mbx) : (s.updMbx fn ch f).mbx fn k = if k = ch then f (s.mbx fn ch) else s.mbx fn k := by
  simp only [State.mbx, State.updMbx, State.fn_updFn_self]
  exact Map.getD_upd ..

/-- A change of a channel that leaves OPEN alone, or of a channel that is not secure. -/
theorem State.chan_updChan (s : State) (fn ch k : Nat) (f : Mbx → Mbx) (hf : ch < 24 ∨ ∀ m : Mbx, { f m with opened := 1 } = f { m with opened := 1 }) :
    (s.updChan fn ch f).chan fn k = if k = ch then f (s.chan fn ch) else s.chan fn k := by
  by_cases hc : ch < 24
  · simp only [State.chan, State.updChan, if_pos hc]
    by_cases hk : k < 24
    · rw [if_pos hk, if_pos hk, State.mbx_updMbx]
    · have hne : k ≠ ch := by omega
      rw [if_neg hk, if_neg hk, if_neg hne]
      rfl
  · have hf := hf.resolve_left hc
    simp only [State.chan, State.updChan, if_neg hc]
    by_cases hk : k < 24
    · have hne : k ≠ ch := by omega
      rw [if_pos hk, if_pos hk, if_neg hne]
      rfl
    · rw [if_neg hk, if_neg hk]
      have hsub : (k - 24 = ch - 24) = (k = ch) := by simp only [eq_iff_iff]; omega
      have hget := Map.getD_upd s.secure.mbx (ch - 24) (k - 24) Mbx.idle f
      simp only [hget, hsub]
      split
      · exact hf _
      · rfl

theorem State.updChan_updChan (s : State) (fn ch : Nat) (f g : Mbx → Mbx) : (s.updChan fn ch f).updChan fn ch g = s.updChan fn ch (fun m => g (f m)) := by
  simp only [State.updChan]
  split
  · simp only [State.updMbx, State.updFn_updFn]
    congr 1
    funext x
    simp [Map.upd, Map.put_put]
  · simp [Map.upd, Map.put_put]

@[simp] theorem State.updChan_mem (s : State) (fn ch : Nat) (f : Mbx → Mbx) : (s.updChan fn ch f).mem = s.mem := by
  unfold State.updChan
  split <;> rfl

theorem State.fn_updChan (s : State) (fn ch n : Nat) (f : Mbx → Mbx) : ∃ m, (s.updChan fn ch f).fn n = { s.fn n with mbx := m } := by
  unfold State.updChan
  split
  · simp only [State.updMbx, State.fn_updFn]
    split
    · subst n; exact ⟨_, rfl⟩
    · exact ⟨_, rfl⟩
  · exact ⟨_, rfl⟩

theorem State.chan_reached (s : State) (fn k : Nat) : (s.reached fn).chan fn k = s.chan fn k := by
  simp only [State.chan, State.mbx, State.fn_reached]
  rfl

theorem State.chan_fireVec (s : State) (fn v k : Nat) : (s.fireVec fn v).chan fn k = s.chan fn k := by
  simp only [State.chan, State.mbx, State.fireVec, State.fn_updFn_self]
  rfl

/-- The vectors that a firing leaves depend on the function alone. -/
theorem State.vecs_fireVec_congr {s t : State} {n : Nat} {m : Map Mbx} (h : t.fn n = { s.fn n with mbx := m }) (v : Nat) :
    ((t.fireVec n v).fn n).vecs = ((s.fireVec n v).fn n).vecs := by
  simp only [State.fireVec, State.fn_updFn_self, h]

theorem State.mbxServe_idle (h : ch < 24) (hp : (s.chan fn ch).parked = []) : s.mbxServe fn ch = s := by
  have hp' : (s.mbx fn ch).parked = [] := by rwa [State.chan, if_pos h] at hp
  simp [State.mbxServe, hp']

/-- What the MC's part in a message leaves, where no group is parked at the channel. -/
theorem State.mcTurn_spec (s : State) (fn ch : Nat) (f : Mbx → Mbx) (ien : Bool)
    (hf : ch < 24 ∨ ∀ m : Mbx, { f m with opened := 1 } = f { m with opened := 1 }) (hp : (f (s.chan fn ch)).parked = []) :
    let u := if ien then (s.updChan fn ch f).fireVec fn 0 else s.updChan fn ch f
    let t := if ch < 24 then u.mbxServe fn ch else u
    t.chan fn ch = f (s.chan fn ch) ∧ (t.fn fn).vecs = if ien then ((s.fireVec fn 0).fn fn).vecs else (s.fn fn).vecs := by
  intro u t
  have hchan : u.chan fn ch = f (s.chan fn ch) := by
    have hself := (State.chan_updChan s fn ch ch f hf).trans (if_pos rfl)
    cases ien
    · exact hself
    · exact (State.chan_fireVec _ fn 0 ch).trans hself
  have hvecs : (u.fn fn).vecs = if ien then ((s.fireVec fn 0).fn fn).vecs else (s.fn fn).vecs := by
    obtain ⟨m, hm⟩ := State.fn_updChan s fn ch fn f
    cases ien
    · change ((s.updChan fn ch f).fn fn).vecs = (s.fn fn).vecs
      rw [hm]
    · exact State.vecs_fireVec_congr hm 0
  have ht : t = u := by
    simp only [t]
    split
    · exact State.mbxServe_idle ‹_› (hchan ▸ hp)
    · rfl
  rw [ht]
  exact ⟨hchan, hvecs⟩

end

theorem getD_map_mem {α : Type} (f : Nat → α) (l : List Nat) (k : Nat) (d : α) (h : k ∈ l) : Map.getD (l.map (fun k => (k, f k))) k d = f k := by
  induction l with
  | nil => cases h
  | cons x l ih =>
    by_cases hx : x = k
    · simp [Map.getD, Map.get?, hx]
    · simpa [Map.getD, Map.get?, hx] using ih ((List.mem_cons.1 h).resolve_left (Ne.symm hx))

/-- CHCFG of a channel with no message under way and no group parked. -/
theorem State.chan_chanOpen {s : State} {fn ch : Nat} {v : Word} (hlt : ch < 24) (ho : (s.chan fn ch).outGo = false) (hi : (s.chan fn ch).inGo = false)
    (hv : v.extractLsb' 0 2 ≠ 3) (hp : (s.chan fn ch).parked = []) :
    (s.chanOpen fn ch v).chan fn ch = { s.chan fn ch with opened := v.extractLsb' 0 2, ien := v.getLsbD 2 } := by
  have hno : ¬ (ch ≥ 24 ∨ (s.chan fn ch).outGo = true ∨ (s.chan fn ch).inGo = true ∨ v.extractLsb' 0 2 = 3) := by
    rintro (h | h | h | h)
    · omega
    · exact Bool.eq_false_iff.1 ho h
    · exact Bool.eq_false_iff.1 hi h
    · exact hv h
  simp only [State.chanOpen, hp]
  rw [if_neg hno, ite_self, List.foldl_nil, State.updChan_updChan, State.chan_updChan _ _ _ _ _ (.inl hlt), if_pos rfl]
  simp [hp]

theorem mailboxes : Mailboxes := by
  unfold Mailboxes
  refine ⟨fun s fn ch x => ?_, fun s fn ch ws => ?_, fun s rid ide v ha => ?_⟩
  · intro m ha hch
    have hw : fn < fnCount ∧ (ch < 24 ∨ fn = 0 ∧ ch < 32) := ⟨ha.lt, hch.imp id (fun h => ⟨h.1, h.2.1⟩)⟩
    have hopen : s.chanOpenTo ch = true := by
      rcases hch with h | ⟨_, _, h⟩ <;> simp [State.chanOpenTo, h]
    have hsend (act : State → State) : done (.mailboxSend fn ch) (s.onRow fn (s.chanOpenTo ch) act) = .next (act (s.reached fn)) :=
      ha.row (by simpa [Instr.wellFormed] using hw) hopen act
    have hclear (act : State → State) : done (.inboundGoClear fn ch) (s.onRow fn (s.chanOpenTo ch) act) = .next (act (s.reached fn)) :=
      ha.row (by simpa [Instr.wellFormed] using hw) hopen act
    have hopenw (act : State → State) : done (.channelOpenWrite fn ch x) (s.onRow fn (s.chanOpenTo ch) act) = .next (act (s.reached fn)) :=
      ha.row (by simpa [Instr.wellFormed] using hw) hopen act
    refine ⟨fun h2 => ?_, fun h2 => (hsend _).trans (congrArg _ (if_pos ?_)), ?_, fun hlt ho hi hx hp => ?_, fun h => ?_⟩
    · refine ⟨_, (hsend _).trans (congrArg _ (if_neg ?_)), ?_, ?_, fun k hk => ?_⟩
      · rw [State.chan_reached]; exact h2
      · rw [State.chan_updChan _ _ _ _ _ (.inr fun _ => rfl), if_pos rfl, State.chan_reached]
      · rw [State.updChan_mem]; rfl
      · rw [State.chan_updChan _ _ _ _ _ (.inr fun _ => rfl), if_neg hk, State.chan_reached]
    · rw [State.chan_reached]; exact h2
    · refine ⟨_, hclear _, ?_, fun k hk => ?_⟩
      · exact (State.chan_updChan _ _ _ _ _ (.inr fun _ => rfl)).trans (by rw [if_pos rfl, State.chan_reached])
      · exact (State.chan_updChan _ _ _ _ _ (.inr fun _ => rfl)).trans (by rw [if_neg hk, State.chan_reached])
    · have hchan := State.chan_reached s fn ch
      refine ⟨_, hopenw _, ?_⟩
      rw [State.chan_chanOpen hlt (hchan ▸ ho) (hchan ▸ hi) hx (hchan ▸ hp), hchan]
    · refine ⟨_, (hopenw _).trans (congrArg _ (if_pos ?_)), ?_⟩
      · rw [State.chan_reached]
        rcases h with h | h | h
        · exact .inr (.inl h)
        · exact .inr (.inr (.inl h))
        · exact .inl h
      · exact (State.chan_updChan _ _ _ _ _ (.inr fun _ => rfl)).trans (by rw [if_pos rfl, State.chan_reached])
  · intro m hfn hch ho hp
    have hw : fn < fnCount ∧ (ch < 24 ∨ fn = 0 ∧ ch < 32) := ⟨hfn, hch⟩
    refine ⟨fun hg => ?_, fun hg => ?_, fun hg => ?_, fun hg => ?_⟩
    · obtain ⟨hc, hv⟩ := State.mcTurn_spec s fn ch (fun m => { m with outGo := false }) m.ien (.inr fun _ => rfl) hp
      refine ⟨_, (done_next (by simpa [Instr.wellFormed] using hw)).trans (congrArg _ (if_neg ?_)), hc, hv⟩
      rintro (h | h)
      · rw [hg] at h; cases h
      · exact ho h
    · exact (done_next (by simpa [Instr.wellFormed] using hw)).trans (congrArg _ (if_pos (.inl (by simpa using hg))))
    · obtain ⟨hc, hv⟩ := State.mcTurn_spec s fn ch (fun m => { m with inw := (List.range 16).map (fun k => (k, ws.getD k 0)), inGo := true }) m.ien
        (.inr fun _ => rfl) hp
      refine ⟨_, (done_next (by simpa [Instr.wellFormed] using hw)).trans (congrArg _ (if_neg ?_)), ?_⟩
      · rintro (h | h)
        · exact Bool.eq_false_iff.1 hg h
        · exact ho h
      rw [hc]
      exact ⟨rfl, fun k hk => getD_map_mem _ _ k 0 (List.mem_range.2 hk), rfl, rfl, hv⟩
    · exact (done_next (by simpa [Instr.wellFormed] using hw)).trans (congrArg _ (if_pos (.inl (by simpa using hg))))
  · have hrow : exec (.secureClaim rid ide v) s = .next ((s.reached 0).claim rid ide v) :=
      ha.row (c := .secureClaim rid ide v) rfl (ok := true) rfl _
    refine ⟨fun hc => hrow.trans (congrArg _ (if_neg (Bool.eq_false_iff.1 hc))), fun hc h => hrow.trans (congrArg _ ?_)⟩
    refine (if_pos hc).trans (if_neg ?_)
    have hsec : (s.reached 0).secure = s.secure := rfl
    rw [hsec]
    rcases h with h | ⟨h, h'⟩
    · simp [Secure.admits, h]
    · simp [Secure.admits, h, h']

/-! ## MSEND and MRECV -/

theorem State.issued_fns (s : State) (i : Issue) (q : Form) : (s.issued i q).fns = s.fns := by rw [(s.issued_spec i q).1.1]

theorem State.issued_mbx (s : State) (i : Issue) (q : Form) (fn ch : Nat) : (s.issued i q).mbx fn ch = s.mbx fn ch := by
  simp only [State.mbx, State.fn, State.issued_fns]

theorem State.regsNat_one {s : State} {k m : Nat} (h : (s.slot k (m / 16)).isSome) (r : Reg) : s.regsNat k m [r] = (s.regOf k m r).toNat := by
  obtain ⟨sl, hsl⟩ := Option.isSome_iff_exists.1 h
  rw [State.regOf_slot hsl]
  simp [State.regsNat, hsl]

/-- What a legal MSEND or MRECV does at an open channel with a line in range, once for its group. -/
theorem State.mbxIssue_eq {s : State} {i : Issue} {f : FormT} {a b d : Reg} {m : Nat} {ms : List Nat} {opc : Nat} {send : Bool}
    (hl : s.Leads i) (hg : guardLegal f.guard) (ht : f.type = 0) (hsc : f.sc = 0) (hmod : f.mod.toNat < 2) (hsa : 0x20 ≤ f.sa.toNat)
    (ha : specifier f.sa = some a) (hsb : 0x20 ≤ f.sb.toNat) (hb : specifier f.sb = some b) (hd : specifier f.dst = some d)
    (hact : s.acting i (formOf f.guard true [a, b] [d]) = m :: ms) {ch off : Nat} (hch : (s.regOf i.core m a).toNat = ch)
    (hoff : (s.regOf i.core m b).toNat = off) (hlt : ch < 24) (hopen : (s.mbx (s.ctx (s.slotCtx i)).fn ch).opened = 2) (hal : off % 64 = 0)
    (hls : (s.issued i (formOf f.guard true [a, b] [d])).lsOk i.core (s.slotCtx i) off 64 = true)
    (hhusk : send = true → (s.issued i (formOf f.guard true [a, b] [d])).lsHusks i.core off 64 = false) :
    let q := formOf f.guard true [a, b] [d]
    let x := s.issued i q
    let fn := (s.ctx (s.slotCtx i)).fn
    let park : MbxPark := { send := send, core := i.core, slot := m / 16, ctx := s.slotCtx i, threads := (m :: ms).map (· % 16), off := off
                            dst := d.code, pc := (s.thread i.core m).pc, word := tWord opc f }
    s.mbxIssue i f opc send =
      if (if send then !(s.mbx fn ch).outGo else (s.mbx fn ch).inGo) then
        (if send then x.mbxSend fn ch park else x.mbxRecv fn ch park).nextPc i.core (s.going i q)
      else if f.mod.getLsbD 0 then (x.mbxReply park (if send then mbnBusy else mbnEmpty)).nextPc i.core (s.going i q)
      else ((m :: ms).foldl (fun t k => t.updThread i.core k (fun th => { th with st := .parkMbx }))
        (x.nextPc i.core ((s.going i q).filter (fun k => !(m :: ms).contains k)))).updMbx fn ch
          (fun c => { c with parked := c.parked ++ [park] }) := by
  intro q x fn park
  have hm : m ∈ s.acting i q := by rw [hact]; exact List.mem_cons_self
  have hsome := (State.acting_slot hm)
  have hra : (s.issued i q).regsNat i.core m [a] = ch := by
    rw [State.issued_regsNat hm, State.regsNat_one (by obtain ⟨sl, h⟩ := hsome; simp [h]), hch]
  have hrb : (s.issued i q).regsNat i.core m [b] = off := by
    rw [State.issued_regsNat hm, State.regsNat_one (by obtain ⟨sl, h⟩ := hsome; simp [h]), hoff]
  simp only [State.mbxIssue, uregs_specifier hsa ha, uregs_specifier hsb hb, regs_specifier hd, Option.getD_some, Option.isSome_some, ht, hsc, hmod,
    decide_true, Bool.and_true, beq_self_eq_true]
  refine (State.issue_acts s i q _ _ hl hg).trans ?_
  rw [hact]
  simp only [hra, hrb, State.issued_mbx, State.issued_thread (State.mem_acting hm)]
  have hhusk' : (send && (s.issued i q).lsHusks i.core off 64) = false := by
    cases send
    · rfl
    · exact hhusk rfl
  rw [if_neg (fun h => h.elim (fun h => Nat.not_lt.2 h hlt) fun h => h hopen), if_neg (Classical.not_not.2 hal), if_neg (by simp [q, hls]),
    if_neg (Bool.eq_false_iff.1 hhusk')]
  rfl

theorem mailboxInstructions : MailboxInstructions := by
  unfold MailboxInstructions
  intro s i f a b d m ms q x fn ch off park parked hl hg ht hsc hmod hsa ha hsb hb hd hact hlt hopen hal hls
  have he (send : Bool) (hh : send = true → x.lsHusks i.core off 64 = false) :=
    State.mbxIssue_eq (opc := if send then 0xB0 else 0xB1) (send := send) hl hg ht hsc hmod hsa ha hsb hb hd hact rfl rfl hlt hopen hal hls hh
  have hsend (hh : x.lsHusks i.core off 64 = false) := he true (fun _ => hh)
  have hrecv := he false (fun h => by cases h)
  have hs {t : State} (h : s.mbxIssue i f 0xB0 true = t) : exec (.msend i f) s = .next t := (done_next (c := .msend i f) hl.ok).trans (congrArg _ h)
  have hr {t : State} (h : s.mbxIssue i f 0xB1 false = t) : exec (.mrecv i f) s = .next t := (done_next (c := .mrecv i f) hl.ok).trans (congrArg _ h)
  have h0 : f.mod = 0 → f.mod.getLsbD 0 = false := fun h => by rw [h]; rfl
  have h1 : f.mod = 1 → f.mod.getLsbD 0 = true := fun h => by rw [h]; rfl
  refine ⟨fun hh => ⟨fun ho => hs ((hsend hh).trans ?_), fun ho hf => hs ((hsend hh).trans ?_), fun ho hf => hs ((hsend hh).trans ?_)⟩,
    fun hi => hr (hrecv.trans ?_), fun hi hf => hr (hrecv.trans ?_), fun hi hf => hr (hrecv.trans ?_)⟩
  · rw [if_pos (by simpa [fn, ch] using ho)]; rfl
  · rw [if_neg (by simpa [fn, ch] using ho), if_pos (h1 hf)]; rfl
  · rw [if_neg (by simpa [fn, ch] using ho), if_neg (Bool.eq_false_iff.1 (h0 hf))]
  · rw [if_pos (by simpa [fn, ch] using hi)]
    have hmbx : x.mbx fn ch = s.mbx fn ch := State.issued_mbx s i q fn ch
    change (x.mbxRecv fn ch (park false)).nextPc i.core (s.going i q) = _
    simp only [State.mbxRecv, hmbx]
    rfl
  · rw [if_neg (by simpa [fn, ch] using hi), if_pos (h1 hf)]; rfl
  · rw [if_neg (by simpa [fn, ch] using hi), if_neg (Bool.eq_false_iff.1 (h0 hf))]

/-- Settles O13: the registers by `mailboxes`, the instructions by `mailboxInstructions`. -/
theorem mail : Obligations.Mail := ⟨mailboxes, mailboxInstructions⟩

end Sys2Proof.Machine

/-! SUPPORT. The jobs of a function: what leaves them as they are (R31, R242, R248), and the registers that load, hold and unload them. -/

namespace Sys2Proof.Machine
open Sys2Proof.Claims

/-- The jobs of a function, in the order of their slots. -/
def State.jobs (s : State) (fn : Nat) : Map Job := (s.fn fn).jobs

theorem State.jobs_of_fns {s t : State} (h : t.fns = s.fns) (fn : Nat) : t.jobs fn = s.jobs fn := by simp [State.jobs, State.fn, h]

theorem State.Told.jobs {s t : State} (h : s.Told t) (fn : Nat) : t.jobs fn = s.jobs fn := by
  obtain ⟨_, _, h⟩ := h.2.1 fn
  rw [State.jobs, h]; rfl

theorem State.Queueing.jobs {s t : State} (h : s.Queueing t) (fn : Nat) : t.jobs fn = s.jobs fn := by
  obtain ⟨_, _, h⟩ := h.2 fn
  rw [State.jobs, h]; rfl

theorem State.OnlyBytes.jobs {s t : State} (h : s.OnlyBytes t) (fn : Nat) : t.jobs fn = s.jobs fn := State.jobs_of_fns h.fns fn

theorem State.jobs_foldl {α : Type} {fn : Nat} {f : State → α → State} (hf : ∀ t x, (f t x).jobs fn = t.jobs fn) (l : List α) (s : State) :
    (l.foldl f s).jobs fn = s.jobs fn := foldl_keeps (fun t => t.jobs fn) hf l s

/-! ## Waiters, sheaves and gangs that are withdrawn -/

@[simp] theorem State.updWaiter_fns (s : State) (w : Waiter) (f : Slot → Slot) : (s.updWaiter w f).fns = s.fns := by
  unfold State.updWaiter; split <;> simp

@[simp] theorem State.saveWait_fns (s : State) (w : Waiter) : (s.saveWait w).fns = s.fns := by
  unfold State.saveWait
  split
  · exact (s.onlyBytes_writeNat ..).fns
  · rfl

@[simp] theorem State.updWait_fns (s : State) (w : Waiter) (f : Thread → Thread) : (s.updWait w f).fns = s.fns := by simp [State.updWait]

@[simp] theorem State.resume_fns (s : State) (w : Waiter) (st : Word) (code : Nat) : (s.resume w st code).fns = s.fns := by simp [State.resume]

@[simp] theorem State.depart_fns (s : State) (p : Nat) (w : Waiter) : (s.depart p w).fns = s.fns := by simp [State.depart]

theorem State.evaluate_fns (s : State) (p fuel : Nat) : (s.evaluate p fuel).fns = s.fns := by
  induction fuel generalizing s with
  | zero => rfl
  | succ fuel ih =>
    unfold State.evaluate
    dsimp only
    split
    · rfl
    · rw [ih, State.updSpar_fns]
      refine (foldl_keeps State.fns (fun t w => ?_) _ _).trans ((foldl_keeps State.fns (fun t w => ?_) _ _).trans (State.updSpar_fns ..))
      · split <;> simp
      · simp

@[simp] theorem State.afterOp_fns (s : State) (p : Nat) : (s.afterOp p).fns = s.fns := (State.evaluate_fns ..).trans (State.updSpar_fns ..)

@[simp] theorem State.withdrawSheaf_fns (s : State) (ws : List Waiter) : (s.withdrawSheaf ws).fns = s.fns := by
  refine foldl_keeps State.fns (fun t p => ?_) _ _
  dsimp only
  split
  · simp
  · exact (State.afterOp_fns ..).trans ((foldl_keeps State.fns (fun u w => u.depart_fns p w) _ _).trans (State.updSpar_fns ..))

@[simp] theorem State.clearBlock_fns (s : State) (ctx block : Nat) : (s.clearBlock ctx block).fns = s.fns := (s.onlyBytes_writeBytes _ _).fns

/-- A function whose mailboxes no longer hold the threads of a slot. -/
def Fn.unpark (core slot : Nat) (f : Fn) : Fn :=
  { f with mbx := f.mbx.map (fun m => (m.1, { m.2 with parked := m.2.parked.filter (fun q => !(q.core == core && q.slot == slot)) })) }

theorem State.jobs_unparkMbx (s : State) (core slot fn : Nat) : (s.unparkMbx core slot).jobs fn = s.jobs fn := by
  exact (congrArg Fn.jobs (Map.getD_map (Fn.unpark core slot) s.fns fn Fn.idle rfl) :)

theorem State.jobs_dropSheaf (s : State) (core slot fn : Nat) : (s.dropSheaf core slot).jobs fn = s.jobs fn := by
  unfold State.dropSheaf
  split
  · rfl
  · next sl _ =>
    have hfree : ∀ t : State, ((t.orphan core slot).freeSlot core slot sl.ctx).jobs fn = t.jobs fn := fun t =>
      State.jobs_of_fns (by rw [State.freeSlot_fns]; rfl) fn
    dsimp only
    split
    · rw [hfree, State.jobs_unparkMbx]; exact State.jobs_of_fns (by simp) fn
    · rw [State.jobs_of_fns (State.flushNear_spec ..).1, hfree, State.jobs_unparkMbx]; exact State.jobs_of_fns (by simp) fn

@[simp] theorem State.dropSaved_fns (s : State) (ctx : Nat) (v : Saved) : (s.dropSaved ctx v).fns = s.fns := by
  unfold State.dropSaved
  dsimp only
  split <;> simp

theorem State.jobs_dropSheaves (s : State) (p : Slot → Bool) (fn : Nat) : (s.dropSheaves p).jobs fn = s.jobs fn :=
  (State.jobs_foldl (fun t x => State.jobs_of_fns (t.dropSaved_fns ..) fn) _ _).trans (State.jobs_foldl (fun t x => t.jobs_dropSheaf ..) _ _)

@[simp] theorem State.clearGangs_fns (s : State) (ctx : Nat) : (s.clearGangs ctx).fns = s.fns :=
  foldl_keeps State.fns (f := fun t g => t.clearGang g) (fun t g => rfl) _ s

theorem State.jobs_endJobEntries (s : State) (fn j : Nat) (st : Status) (n : Nat) : (s.endJobEntries fn j st).jobs n = s.jobs n := by
  refine (State.jobs_foldl (fun t e => (t.queueing_endNow ..).jobs n) _ _).trans ?_
  exact (State.jobs_foldl (fun t c => State.jobs_of_fns (t.clearGangs_fns c) n) _ _).trans (State.jobs_dropSheaves ..)

/-! ## What a void discards -/

theorem State.onlyBytes_markNorms (s : State) (fn j : Nat) (b : Job) (st : Nat) : s.OnlyBytes (s.markNorms fn j b st) :=
  .foldl (fun t _ => .ite (.foldl (fun t _ => t.onlyBytes_writeNat ..) _ t) (.refl t)) _ s

theorem State.onlyBytes_digestRecord (s : State) (b : Job) (flags : Nat) : s.OnlyBytes (s.digestRecord b flags) := s.onlyBytes_writeBytes ..

theorem State.onlyBytes_clearPre (s : State) (b : Job) : s.OnlyBytes (s.clearPre b) := .foldl (fun t _ => t.onlyBytes_writeBytes ..) _ s

theorem State.onlyBytes_journalStep (s : State) (b : Job) (o p : Nat) : s.OnlyBytes (s.journalStep b o p) := by
  unfold State.journalStep
  split
  · exact .refl s
  · exact s.onlyBytes_writeBytes ..

theorem State.onlyBytes_copyRow (s : State) (e : UpdEntry) (row : Nat) : s.OnlyBytes (s.copyRow e row) :=
  ((s.onlyBytes_copyBytes ..).trans (.foldl (fun t _ => t.onlyBytes_copyBytes ..) _ _)).trans (State.onlyBytes_writeNat ..)

theorem State.jobs_dropHoard (s : State) (fn job n : Nat) : (s.dropHoard fn job).jobs n = s.jobs n := by
  unfold State.jobs State.dropHoard State.updHoard
  rw [State.fn_updFn]
  split
  · next h => rw [h]
  · rfl

theorem State.jobs_faultCtx (s : State) (n : Nat) (rep : Report) (core : Option Nat) (fn : Nat) : (s.faultCtx n rep core).jobs fn = s.jobs fn := by
  have h : ∀ r f, ((s.record r).updCtx n f).jobs fn = s.jobs fn := fun r f =>
    (State.jobs_of_fns (State.updCtx_fns ..) fn).trans (s.told_record r |>.jobs fn)
  unfold State.faultCtx
  dsimp only
  split
  · rfl
  · exact h ..
  · exact h ..

theorem State.jobs_fenceTract (s : State) (fn tract core : Nat) (cause : Status) (n : Nat) : (s.fenceTract fn tract core cause).jobs n = s.jobs n :=
  (State.jobs_foldl (fun t c => t.jobs_faultCtx ..) _ _).trans ((State.told_record _ _).jobs n)

theorem State.jobs_retire (s : State) (fn core : Nat) (jslot : Option Nat) (due : Bool) (cause : Status) (n : Nat) :
    (s.retire fn core jslot due cause).jobs n = s.jobs n := by
  unfold State.retire
  dsimp only
  split
  · rfl
  · split
    · exact State.jobs_fenceTract ..
    · rfl

theorem State.jobs_dropVerdicts (s : State) (fn j step n : Nat) : (s.dropVerdicts fn j step).jobs n = s.jobs n := by
  refine (State.jobs_foldl (fun t v => ?_) _ _).trans rfl
  split
  · split
    · exact State.jobs_retire ..
    · rfl
  · rfl

theorem State.jobs_discard (s : State) (fn j : Nat) (b : Job) (n : Nat) : (s.discard fn j b).jobs n = s.jobs n :=
  (State.jobs_dropVerdicts ..).trans ((State.jobs_dropHoard _ fn b.job n).trans
    (((s.onlyBytes_markNorms ..).trans (State.onlyBytes_digestRecord ..)).jobs n))

theorem State.jobs_finishRows (s : State) (fn j : Nat) (b : Job) (n : Nat) : (s.finishRows fn j b).jobs n = s.jobs n := by
  refine State.jobs_foldl (fun t q => ?_) _ _
  have hcopy : ∀ (l : List (Nat × Nat × Nat × Nat)), (l.foldl (fun t r => match b.upd[r.2.2.1]? with
      | some e => State.copyRow t e r.2.2.2
      | none => t) t).jobs n = t.jobs n := fun l =>
    State.jobs_foldl (fun u r => by
      split
      · exact (u.onlyBytes_copyRow ..).jobs n
      · rfl) l t
  dsimp only
  split
  · exact hcopy _
  · exact hcopy _

/-! ## Changes of a job -/

theorem State.job_updJob (s : State) (fn j n k : Nat) (f : Job → Job) :
    (s.updJob fn j f).job n k = if n = fn ∧ k = j then (s.job fn j).map f else s.job n k := by
  unfold State.updJob
  split
  · next b h =>
    by_cases hn : n = fn
    · subst hn
      simp only [State.job, State.fn_updFn_self, Map.get?_put] at h ⊢
      by_cases hk : k = j
      · simp [hk, h]
      · simp [hk]
    · simp [State.job, State.fn_updFn_ne _ _ hn, hn]
  · next h =>
    split
    · next hk => rw [hk.1, hk.2, h]; rfl
    · rfl

theorem State.job_updJob_self (s : State) (fn j : Nat) (f : Job → Job) : (s.updJob fn j f).job fn j = (s.job fn j).map f := by
  rw [State.job_updJob, if_pos ⟨rfl, rfl⟩]

theorem State.queue_updJob (s : State) (fn j n q : Nat) (f : Job → Job) : (s.updJob fn j f).queue n q = s.queue n q := by
  unfold State.updJob
  split
  · rw [State.queue, State.fn_updFn]
    split
    · next hn => rw [hn]; rfl
    · rfl
  · rfl

theorem State.jobs_updJob_rising {s : State} {fn : Nat} (h : (s.jobs fn).rising = true) (n j : Nat) (f : Job → Job) :
    ((s.updJob n j f).jobs fn).rising = true := by
  unfold State.updJob
  split
  · next b _ =>
    rw [State.jobs, State.fn_updFn]
    split
    · next hn => exact Map.put_rising (by rw [← hn]; exact h) _ _
    · exact h
  · exact h

theorem State.nakNote_rising {s : State} {fn : Nat} (h : (s.jobs fn).rising = true) (n j port : Nat) (src : BitVec 16) (wire : Nat) :
    ((s.nakNote n j port src wire).jobs fn).rising = true := by
  unfold State.nakNote
  split
  · exact h
  · dsimp only
    split
    · exact h
    · exact (congrArg Map.rising ((State.told_record _ _).jobs fn)).trans (State.jobs_updJob_rising h ..)

theorem State.sendOn_fns (s : State) (p : Nat) (m : Msg) : (s.sendOn p m).fns = s.fns := by
  unfold State.sendOn
  dsimp only
  split <;> simp

theorem State.gutterSend_rising {s : State} {fn : Nat} (h : (s.jobs fn).rising = true) (n j : Nat) (b : Job) (ring : Option Nat) (dest : Member)
    (hd : GHdr) (body : List CodeWord) : ((s.gutterSend n j b ring dest hd body).jobs fn).rising = true := by
  unfold State.gutterSend
  dsimp only
  split
  · rw [State.jobs_of_fns (State.sendOn_fns ..)]; exact h
  · exact State.nakNote_rising h ..

theorem State.spread_rising {s : State} {fn : Nat} (h : (s.jobs fn).rising = true) (n j : Nat) (b : Job) (hd : GHdr) (body : List CodeWord) :
    ((s.spread n j b hd body).jobs fn).rising = true := by
  unfold State.spread
  have h0 := State.jobs_updJob_rising h n j (fun b => { b with seenMsgs := b.seenMsgs ++ [(hd.type, hd.start, hd.step, hd.gen)] })
  generalize s.updJob n j _ = t at h0
  induction b.onward generalizing t with
  | nil => exact h0
  | cons m l ih => exact ih _ (State.gutterSend_rising h0 ..)

/-! ## Unloading (R248) -/

theorem State.ctx_detachAll (l : List Nat) (s : State) (k : Nat) :
    (l.foldl (fun s c => (s.updCtx c (fun c => { c with jobsl := none })).saveCtx c) s).ctx k =
      if k ∈ l then { s.ctx k with jobsl := none } else s.ctx k := by
  induction l generalizing s with
  | nil => rfl
  | cons c l ih =>
    have hsave : ∀ t : State, (t.saveCtx c).ctx k = t.ctx k := fun t =>
      congrArg (Map.getD · k Ctx.idle) (congrArg Tables.ctxs (t.onlyBytes_saveCtx c).tab)
    rw [List.foldl_cons, ih, hsave, State.ctx_updCtx]
    by_cases hk : k = c <;> by_cases hl : k ∈ l <;> simp [hk, hl] <;> simp_all

theorem State.dueRetires_fns (s : State) (fn j : Nat) : (s.dueRetires fn j).fns = s.fns := rfl

theorem State.dropEngineWork_fns (s : State) (fn j : Nat) : (s.dropEngineWork fn j).fns = s.fns := rfl

/-- An unloaded job has left its slot, and no context of its function names the slot. -/
theorem State.dropJob_spec {s : State} {fn : Nat} (h : (s.jobs fn).rising = true) (j : Nat) (b : Job) (st : Status) :
    (s.dropJob fn j b st).job fn j = none ∧ ∀ c, ((s.dropJob fn j b st).ctx c).fn = fn → ((s.dropJob fn j b st).ctx c).st ≠ .free →
      ((s.dropJob fn j b st).ctx c).jobsl ≠ some j := by
  have hjobs : ((((s.finishRows fn j b).dropEngineWork fn j).endJobEntries fn j st).dueRetires fn j).jobs fn = s.jobs fn :=
    (State.jobs_of_fns (State.dueRetires_fns ..) fn).trans ((State.jobs_endJobEntries ..).trans
      ((State.jobs_of_fns (State.dropEngineWork_fns ..) fn).trans (State.jobs_finishRows ..)))
  unfold State.dropJob
  dsimp only
  generalize (((s.finishRows fn j b).dropEngineWork fn j).endJobEntries fn j st).dueRetires fn j = u at hjobs
  generalize hl : (u.tab.ctxs.filter (fun c => c.2.fn == fn && decide (c.2.jobsl = some j))).map (·.1) = l
  have hctx := State.ctx_detachAll l u
  have hkeep := State.jobs_foldl (fn := fn) (f := fun s c => (State.updCtx s c (fun c => { c with jobsl := none })).saveCtx c)
    (fun t c => (t.updCtx c _).onlyBytes_saveCtx c |>.jobs fn) l u
  refine ⟨?_, fun c => ?_⟩
  · rw [State.job, State.fn_updFn_self]
    refine Map.get?_del_self ?_ _
    exact (congrArg Map.rising (hkeep.trans hjobs)).trans h
  · rw [State.updFn_ctx]
    change ((l.foldl _ u).ctx c).fn = fn → ((l.foldl _ u).ctx c).st ≠ .free → ((l.foldl _ u).ctx c).jobsl ≠ some j
    rw [hctx]
    split
    · intros; simp
    · next hc =>
      intro hf hst hj
      refine hc ?_
      cases hget : u.tab.ctxs.get? c with
      | none => exact absurd (by simp [State.ctx, Map.getD, hget, Ctx.idle]) hst
      | some x =>
        have hx : u.ctx c = x := by simp [State.ctx, Map.getD, hget]
        rw [← hl, List.mem_map]
        exact ⟨(c, x), List.mem_filter.2 ⟨Map.mem_of_get? hget, by rw [← hx]; simp [hf, hj]⟩, rfl⟩

theorem State.jobUnload_spec {s : State} {fn j : Nat} {b : Job} (hb : s.job fn j = some b) (h : (s.jobs fn).rising = true) :
    ∃ t, s.jobUnload fn j = (statusOk, t) ∧ t.job fn j = none ∧ ∀ c, (t.ctx c).fn = fn → (t.ctx c).st ≠ .free → (t.ctx c).jobsl ≠ some j := by
  have hopen : ((if b.open then (s.spread fn j b { b.hdr0 7 with cause := gutJobUnloaded.toNat } []).discard fn j b else s).jobs fn).rising = true := by
    split
    · rw [State.jobs_discard]; exact State.spread_rising h ..
    · exact h
  refine ⟨_, ?_, State.dropJob_spec hopen j b gutJobUnloaded⟩
  unfold State.jobUnload
  rw [hb]

/-! ## Loads, reloads and releases -/

theorem State.jobCheck_busy {s : State} {fn j a : Nat} {p : Part} (hp : s.part fn = some p) (h : (s.job fn j).isSome) :
    s.jobCheck fn j a = .error gutJobBusy := by
  unfold State.jobCheck; rw [hp]; exact if_pos h

theorem State.jobCheck_outside {s : State} {fn j a : Nat} {p : Part} (hp : s.part fn = some p) (h : s.job fn j = none)
    (ha : s.inPart fn a 128 = false) : s.jobCheck fn j a = .error gutJobInvalid := by
  unfold State.jobCheck; rw [hp]
  exact (if_neg (by simp [h])).trans (if_pos (.inl (by simp [ha])))

/-- A loaded job runs. -/
theorem State.jobCheck_st {s : State} {fn j a : Nat} {b : Job} (h : s.jobCheck fn j a = .ok b) : b.st = .running := by
  unfold State.jobCheck at h
  split at h
  · cases h
  · dsimp only at h
    repeat' split at h
    all_goals cases h
    rfl

theorem Map.get?_foldl_upd {α : Type} (d : α) (f : α → α) (l : List Nat) (m : Map α) {k : Nat} (hk : k ∈ l) (hf : ∀ a, f (f a) = f a) :
    (l.foldl (fun qs q => Map.upd qs q d f) m).get? k = some (f (m.getD k d)) := by
  have hkeep : ∀ (l : List Nat) (m : Map α) a, m.get? k = some (f a) → (l.foldl (fun qs q => Map.upd qs q d f) m).get? k = some (f a) := by
    intro l
    induction l with
    | nil => exact fun m a h => h
    | cons q l ih =>
      refine fun m a h => ih _ a ?_
      rw [Map.get?_upd]
      split
      · next hq => rw [← hq, Map.getD, h]; exact congrArg some (hf a)
      · exact h
  induction l generalizing m with
  | nil => cases hk
  | cons q l ih =>
    rw [List.foldl_cons]
    by_cases hq : k = q
    · exact hkeep l _ _ (by rw [Map.get?_upd, if_pos hq, hq])
    · rw [ih (m := Map.upd m q d f) ((List.mem_cons.1 hk).resolve_left hq), Map.getD_upd, if_neg hq]

/-- A job that passes its checks stands in its slot, with every queue's cursor before its step (R213, R221). -/
theorem State.jobLoad_ok {s : State} {fn j : Nat} {p : Part} {b : Job} (hp : s.part fn = some p)
    (h : s.jobCheck fn j (s.fn fn).jdaddr.toNat = .ok b) :
    (s.jobLoad fn j).1 = statusOk ∧ ∃ b', (s.jobLoad fn j).2.job fn j = some b' ∧ b'.job = b.job ∧ b'.step = b.step ∧ b'.gen = b.gen ∧
      b'.members = b.members ∧ b'.upd = b.upd ∧ b'.st = b.st ∧
      ∀ n < p.qcount, ((s.jobLoad fn j).2.queue fn n).cursor.get? j = some ((b.step + 2 ^ 32 - 1) % 2 ^ 32) := by
  unfold State.jobLoad
  rw [h, hp]
  dsimp only
  let b1 : Job := { s.agents fn b with bsStarted := s.agentValue (s.agents fn b).bsSp }
  let t := s.updFn fn (fun g => { g with
      jobs := g.jobs.put j b1
      queues := (List.range p.qcount).foldl (fun qs q => qs.upd q Queue.idle (fun x => { x with cursor := x.cursor.put j ((b1.step + 2 ^ 32 - 1) % 2 ^ 32) })) g.queues })
  have hfns := ((t.onlyBytes_clearPre b1).trans (State.onlyBytes_digestRecord _ b1 0)).fns
  have hfn : ((t.clearPre b1).digestRecord b1 0).fn fn = t.fn fn := by rw [State.fn, hfns]; rfl
  refine ⟨rfl, b1, ?_, rfl, rfl, rfl, rfl, rfl, rfl, fun n hn => ?_⟩
  · rw [State.job, hfn, State.fn_updFn_self]; exact Map.get?_put_self ..
  · have hq := Map.get?_foldl_upd Queue.idle (fun x : Queue => { x with cursor := x.cursor.put j ((b1.step + 2 ^ 32 - 1) % 2 ^ 32) })
      (List.range p.qcount) (s.fn fn).queues (List.mem_range.2 hn) (fun a => by simp only [Map.put_put])
    rw [State.queue, hfn, State.fn_updFn_self, Map.getD, hq]
    exact Map.get?_put_self ..

theorem State.setMember_spec {s : State} {fn j : Nat} {b : Job} (h : s.job fn j = some b) (i : Nat) (f : Member → Member) :
    (s.setMember fn j i f).job fn j = some { b with members := b.members.set i (f (b.member i)) } := by
  have hw : ∀ a bs, (s.writeBytes a bs).job fn j = some b := fun a bs => by
    rw [State.job, State.fn, (s.onlyBytes_writeBytes a bs).fns]; exact h
  unfold State.setMember
  rw [h]
  exact (State.job_updJob_self ..).trans (by rw [hw]; rfl)

/-- A job after its spares took their places: what the descriptor of the step says is unchanged. -/
theorem State.placeSpares_spec {fn j : Nat} (l : List Nat) {s t : State} {b : Job} (h : s.job fn j = some b) (ht : s.placeSpares fn j l = some t) :
    ∃ b', t.job fn j = some b' ∧ b'.members.length = b.members.length ∧ b'.step = b.step := by
  induction l generalizing s b with
  | nil => exact ⟨b, by rw [← Option.some.inj ht]; exact h, rfl, rfl⟩
  | cons e es ih =>
    rw [State.placeSpares, h] at ht
    dsimp only at ht
    split at ht
    · cases ht
    · next sp _ =>
      have hr : (s.replace fn j e sp).job fn j = some { b with
          members := (b.members.set e { b.member e with expelled := true }).set sp
            { ({ b with members := b.members.set e { b.member e with expelled := true } } : Job).member sp with
              ridx := (b.member e).ridx, first := (b.member e).first, nchunk := (b.member e).nchunk, spare := false } } := by
        unfold State.replace
        rw [h]
        exact State.setMember_spec (State.setMember_spec h ..) ..
      obtain ⟨b', h1, h2, h3⟩ := ih ((State.job_updJob_self ..).trans (by rw [hr]; rfl)) ht
      exact ⟨b', h1, by simpa using h2, h3⟩

/-- A reload that succeeds leaves the job waiting for a spare, with a longer table (R247). -/
theorem State.jobReload_ok {s t : State} {fn j : Nat} {b : Job} (h : s.job fn j = some b) (ht : s.jobReload fn j = (statusOk, t)) :
    ∃ b', t.job fn j = some b' ∧ b'.st = .awaitSpare ∧ b.members.length < b'.members.length ∧ b'.step = b.step := by
  have hne : gutJobInvalid ≠ statusOk := by decide
  unfold State.jobReload at ht
  rw [h] at ht
  dsimp only at ht
  split at ht
  · exact absurd (Prod.mk.inj ht).1 hne
  · split at ht
    · exact absurd (Prod.mk.inj ht).1 hne
    · next hlen =>
      split at ht
      · exact absurd (Prod.mk.inj ht).1 hne
      · next u hu =>
        obtain ⟨b', h1, h2, h3⟩ := State.placeSpares_spec _ ((State.job_updJob_self ..).trans (by rw [h]; rfl)) hu
        refine ⟨{ b' with st := .awaitSpare }, ?_, rfl, ?_, h3⟩
        · rw [← (Prod.mk.inj ht).2, State.job_updJob_self, h1]; rfl
        · have : field (s.readNat (s.fn fn).jdaddr.toNat 128) 271 256 + 1 = b'.members.length := by
            rw [h2]; simp [State.memberWords]
          change b.members.length < b'.members.length
          exact this ▸ Nat.not_le.1 fun h => hlen (.inr (.inr (.inl h)))

/-- What a fold that appends one element for each element of a list leaves. -/
theorem mem_foldl_append {α β γ : Type} {f : List β × γ → α → List β × γ} {P : α → β → Prop}
    (hf : ∀ acc x, ∃ y, (f acc x).1 = acc.1 ++ [y] ∧ P x y) (l : List α) (acc : List β × γ) :
    ∀ y ∈ (l.foldl f acc).1, y ∈ acc.1 ∨ ∃ z ∈ l, P z y := by
  induction l generalizing acc with
  | nil => exact fun y h => .inl h
  | cons x l ih =>
    intro y h
    obtain ⟨w, hw, hP⟩ := hf acc x
    rcases ih _ y h with h | ⟨z, hz, hPz⟩
    · rw [hw, List.mem_append, List.mem_singleton] at h
      rcases h with h | rfl
      · exact .inl h
      · exact .inr ⟨x, List.mem_cons_self .., hP⟩
    · exact .inr ⟨z, List.mem_cons_of_mem _ hz, hPz⟩

/-- The entries that a skip leaves are those before it; the step's entries of the job are posted (R213, R316). -/
theorem Queue.skip_entries (q : Queue) (i step : Nat) : ∀ y ∈ (q.skip i step).entries, ∃ z ∈ q.entries, y.n = z.n ∧
    (z.jslot = some i → z.posted = false → z.step = step → y.posted = true) := by
  intro y hy
  have hy := (List.dropWhile_suffix _).subset hy
  refine (mem_foldl_append (P := fun z y : QEntry => y.n = z.n ∧ (z.jslot = some i → z.posted = false → z.step = step → y.posted = true))
    (fun acc z => ?_) _ _ y hy).resolve_left List.not_mem_nil
  split
  · exact ⟨_, rfl, rfl, fun _ _ _ => rfl⟩
  · next hgone =>
    split
    · exact ⟨_, rfl, rfl, fun hj hp hs => absurd (by simp [hj, hp, hs]) hgone⟩
    · exact ⟨_, rfl, rfl, fun hj hp hs => absurd (by simp [hj, hp, hs]) hgone⟩

theorem Map.get?_map {α : Type} (g : α → α) (m : Map α) (n : Nat) : Map.get? (m.map (fun x => (x.1, g x.2))) n = (m.get? n).map g := by
  induction m with
  | nil => rfl
  | cons x m ih =>
    simp only [List.map_cons, Map.get?]
    split
    · rfl
    · exact ih

/-- A held job that skips its step: the queues discard the step's entries (R213, R244). -/
theorem State.releaseHold_skip {s : State} {fn k : Nat} {b : Job} (h : s.job fn k = some b) :
    ∃ b', (s.releaseHold fn k b true).job fn k = some b' ∧ b'.voids = 0 ∧ b'.step = b.step ∧
      ∀ n q, (s.fn fn).queues.get? n = some q → (s.releaseHold fn k b true).queue fn n = q.skip k b.step := by
  let t := s.updFn fn (fun g => { g with queues := g.queues.map (fun q => (q.1, q.2.skip k b.step)) })
  obtain ⟨p, hp⟩ : ∃ p, s.releaseHold fn k b true = (t.journalStep b 2 p).updJob fn k (fun b => { b with
      voids := 0, st := if b.awaits.isEmpty then .running else .awaitSpare }) := ⟨_, rfl⟩
  have hfn : (t.journalStep b 2 p).fn fn = t.fn fn := by rw [State.fn, (t.onlyBytes_journalStep b 2 p).fns]; rfl
  have hjob : (t.journalStep b 2 p).job fn k = some b := by rw [State.job, hfn, State.fn_updFn_self]; exact h
  rw [hp]
  refine ⟨{ b with voids := 0, st := if b.awaits.isEmpty then .running else .awaitSpare },
    (State.job_updJob_self ..).trans (by rw [hjob]; rfl), rfl, rfl, fun n q hq => ?_⟩
  rw [State.queue_updJob, State.queue, hfn, State.fn_updFn_self, Map.getD]
  have hskip : Map.get? ((s.fn fn).queues.map (fun q => (q.1, q.2.skip k b.step))) n = some (q.skip k b.step) :=
    (Map.get?_map (fun q : Queue => q.skip k b.step) ..).trans (by rw [hq]; rfl)
  dsimp only
  rw [hskip]

section Registers

variable {s : State} {fn j : Nat} {v : DWord}

/-- A write of GUT_JDCTL stores the slot that its operation names. -/
def State.atSlot (s : State) (fn j : Nat) : State := (s.reached fn).updFn fn (fun g => { g with jdSlot := BitVec.ofNat 4 j })

theorem State.job_atSlot (k : Nat) : (s.atSlot fn j).job fn k = s.job fn k := by
  rw [State.job, State.atSlot, State.fn_updFn_self, State.fn_reached]; rfl

theorem State.jdaddr_atSlot : ((s.atSlot fn j).fn fn).jdaddr = (s.fn fn).jdaddr := by
  rw [State.atSlot, State.fn_updFn_self, State.fn_reached]

/-- A write of GUT_JDCTL ends with the status of its operation. -/
theorem State.gutJdctl_eq {st : Status} {t : State} (h : (match v.toNat % 8 with
      | 1 => (s.atSlot fn (field v.toNat 7 4)).jobLoad fn (field v.toNat 7 4)
      | 2 => (s.atSlot fn (field v.toNat 7 4)).jobUnload fn (field v.toNat 7 4)
      | 3 => (s.atSlot fn (field v.toNat 7 4)).jobForceVoid fn (field v.toNat 7 4)
      | 4 => (s.atSlot fn (field v.toNat 7 4)).jobReload fn (field v.toNat 7 4)
      | _ => (((s.atSlot fn (field v.toNat 7 4)).fn fn).jdStatus, s.atSlot fn (field v.toNat 7 4))) = (st, t)) :
    (s.reached fn).gutJdctl fn v = t.updFn fn (fun g => { g with jdStatus := st }) :=
  congrArg (fun x : Status × State => x.2.updFn fn (fun g => { g with jdStatus := x.1 })) h

theorem State.job_updStatus (t : State) (st : Status) (k : Nat) : (t.updFn fn (fun g => { g with jdStatus := st })).job fn k = t.job fn k := by
  rw [State.job, State.fn_updFn_self]; rfl

theorem State.queue_updStatus (t : State) (st : Status) (n : Nat) :
    (t.updFn fn (fun g => { g with jdStatus := st })).queue fn n = t.queue fn n := by
  rw [State.queue, State.fn_updFn_self]; rfl

/-- A write of UPD_STEPCTL stores the job and the step that it names. -/
def State.atStep (s : State) (fn job step : Nat) : State :=
  (s.reached fn).updFn fn (fun g => { g with updJob := BitVec.ofNat 16 job, updStep := BitVec.ofNat 32 step })

theorem State.atStep_jobs (job step : Nat) : ((s.atStep fn job step).fn fn).jobs = (s.fn fn).jobs := by
  rw [State.atStep, State.fn_updFn_self, State.fn_reached]

theorem State.atStep_queues (job step : Nat) : ((s.atStep fn job step).fn fn).queues = (s.fn fn).queues := by
  rw [State.atStep, State.fn_updFn_self, State.fn_reached]

/-- A write of UPD_STEPCTL with ACTION 1 or 2 releases the one held job that it names. -/
theorem State.stepCtl_release {k act : Nat} {b : Job} (ha : act = 1 ∨ act = 2) (hv : v.toNat % 4 = act) (hm : (k, b) ∈ (s.fn fn).jobs)
    (hone : ∀ y ∈ (s.fn fn).jobs, y.2.job = b.job → y = (k, b)) (hst : b.st = .held) (haw : b.awaits.all (fun a => a.2.isSome) = true)
    (hj : field v.toNat 63 48 = b.job) (hs : field v.toNat 47 16 = b.step) :
    (s.reached fn).stepCtl fn v = (s.atStep fn b.job b.step).releaseHold fn k b (act == 2) := by
  have hfind : ((s.atStep fn b.job b.step).fn fn).jobs.find? (fun x => x.2.job == b.job && x.2.step == b.step && x.2.st == .held &&
      x.2.awaits.all (fun a => a.2.isSome)) = some (k, b) := by
    rw [State.atStep_jobs]
    cases h : (s.fn fn).jobs.find? (fun x => x.2.job == b.job && x.2.step == b.step && x.2.st == .held && x.2.awaits.all (fun a => a.2.isSome)) with
    | none =>
      have := List.find?_eq_none.1 h _ hm
      simp [hst, haw] at this
    | some y =>
      have hp := List.find?_some h
      simp only [Bool.and_eq_true, beq_iff_eq] at hp
      rw [hone y (List.mem_of_find?_eq_some h) hp.1.1.1]
  unfold State.stepCtl
  rw [hj, hs, hv]
  dsimp only
  rw [if_neg (by omega)]
  change (match ((s.atStep fn b.job b.step).fn fn).jobs.find? _ with
    | some (j, b') => (s.atStep fn b.job b.step).releaseHold fn j b' (act == 2)
    | none => s.atStep fn b.job b.step) = _
  rw [hfind]

end Registers

/-- Settles O40, an operation of GUT_JDCTL at a time; REPLAY and SKIP find the one job of their number. -/
theorem jobRegisters : Obligations.JobRegisters := by
  intro s fn v p
  extract_lets j w status
  intro ha hp
  have hlt := ha.lt
  have hw : w = s.atSlot fn j := rfl
  have hjd : (w.fn fn).jdaddr = (s.fn fn).jdaddr := State.jdaddr_atSlot
  have hjob : w.job fn j = s.job fn j := State.job_atSlot j
  have hpart : w.part fn = some p := hp
  have hrow : ∀ {c : Instr} {k n : Nat}, c.wellFormed = true → n = k → done c (s.onRow fn (n == k) (fun t => t.gutJdctl fn v)) =
      .next ((s.reached fn).gutJdctl fn v) := fun hc hn => ha.row hc (by simp [hn]) _
  refine ⟨fun st hv hc => ?_, fun b hv hc => ?_, fun h => State.jobCheck_busy hpart (by rwa [hjob]),
    fun h hi => State.jobCheck_outside hpart (by rwa [hjob]) hi, fun h => ⟨fun hv => ?_, fun hv => ?_, fun hv => ?_⟩,
    fun b hb => ⟨fun hv hr => ?_, fun hv hst hre hsp => ?_, fun hv hst => ?_, fun t hv ht => ⟨?_, ?_⟩⟩,
    fun k b hm hone hr hst haw hj hs => ?_, fun q i step => q.skip_entries i step⟩
  · refine (hrow (by simp [Instr.wellFormed, hlt]) hv).trans (congrArg _ (State.gutJdctl_eq ?_))
    rw [hv]
    change w.jobLoad fn j = (st, w)
    unfold State.jobLoad
    rw [hjd, hc]
  · rw [← hjd] at hc
    obtain ⟨h1, b', h2, h3, h4, h5, h6, h7, h8, h9⟩ := State.jobLoad_ok hpart hc
    refine ⟨status (w.jobLoad fn j).2 (w.jobLoad fn j).1, b', ?_, ?_, ?_, h3, h4, h5, h6, h7, h8.trans (State.jobCheck_st hc), fun n hn => ?_⟩
    · refine (hrow (by simp [Instr.wellFormed, hlt]) hv).trans (congrArg _ (State.gutJdctl_eq ?_))
      rw [hv]
      rfl
    · rw [State.fn_updFn_self]; exact h1
    · rw [State.job_updStatus]; exact h2
    · rw [State.queue_updStatus]; exact h9 n hn
  · refine (hrow (by simp [Instr.wellFormed, hlt]) hv).trans (congrArg _ (State.gutJdctl_eq ?_))
    rw [hv]
    change w.jobUnload fn j = (gutJobInvalid, w)
    unfold State.jobUnload
    rw [hjob, h]
  · refine (hrow (by simp [Instr.wellFormed, hlt]) hv).trans (congrArg _ (State.gutJdctl_eq ?_))
    rw [hv]
    change w.jobForceVoid fn j = (gutJobInvalid, w)
    unfold State.jobForceVoid
    rw [hjob, h]
  · refine (hrow (by simp [Instr.wellFormed, hlt]) hv).trans (congrArg _ (State.gutJdctl_eq ?_))
    rw [hv]
    change w.jobReload fn j = (gutJobInvalid, w)
    unfold State.jobReload
    rw [hjob, h]
  · have hw : (w.jobs fn).rising = true := by rw [hw, State.jobs, State.atSlot, State.fn_updFn_self, State.fn_reached]; exact hr
    obtain ⟨t, ht, hnone, hctx⟩ := State.jobUnload_spec (hjob.trans hb) hw
    refine ⟨status t statusOk, ?_, ?_, (State.job_updStatus ..).trans hnone, hctx⟩
    · refine (hrow (by simp [Instr.wellFormed, hlt]) hv).trans (congrArg _ (State.gutJdctl_eq ?_))
      rw [hv]
      exact ht
    · rw [State.fn_updFn_self]
  · refine ⟨w.record (b.report fn j gutForceVoid []), ((w.told_record _).job fn j).trans (hjob.trans hb), ?_⟩
    refine (hrow (by simp [Instr.wellFormed, hlt]) hv).trans (congrArg _ (State.gutJdctl_eq ?_))
    rw [hv]
    change w.jobForceVoid fn j = _
    unfold State.jobForceVoid
    rw [hjob, hb]
    exact if_neg (by simp [hst, hre, hsp])
  · refine (hrow (by simp [Instr.wellFormed, hlt]) hv).trans (congrArg _ (State.gutJdctl_eq ?_))
    rw [hv]
    change w.jobReload fn j = (gutJobInvalid, w)
    unfold State.jobReload
    rw [hjob, hb]
    exact if_pos (.inl hst)
  · refine (hrow (by simp [Instr.wellFormed, hlt]) hv).trans (congrArg _ (State.gutJdctl_eq ?_))
    rw [hv]
    exact ht
  · exact State.jobReload_ok (hjob.trans hb) ht
  · intro x
    have hx : x = s.atStep fn b.job b.step := rfl
    have hget : x.job fn k = some b := by
      rw [hx, State.job, State.atStep_jobs]; exact Map.get?_of_mem hr hm
    have hgo : ∀ {act : Nat}, act = 1 ∨ act = 2 → v.toNat % 4 = act → (s.reached fn).stepCtl fn v = x.releaseHold fn k b (act == 2) :=
      fun ha hv => by rw [hx]; exact State.stepCtl_release ha hv hm hone hst haw hj hs
    refine ⟨fun hv => (ha.row (by simp [Instr.wellFormed, hlt]) (by simp [hv]) _).trans (congrArg _ (hgo (.inl rfl) hv)), fun hv => ?_⟩
    obtain ⟨b', h1, h2, h3, h4⟩ := State.releaseHold_skip hget
    refine ⟨_, b', (ha.row (by simp [Instr.wellFormed, hlt]) (by simp [hv]) _).trans (congrArg _ (hgo (.inr rfl) hv)), h1, h2, h3, fun n q hq => ?_⟩
    exact h4 n q (by rw [hx, State.atStep_queues]; exact hq)

end Sys2Proof.Machine

/-! SUPPORT. The endpoint on the board bus and the test port (R374, R403, R412, R442 to R444). -/

namespace Sys2Proof.Machine
open Sys2Proof.Claims

section

variable {s : State}

/-- An answer of the endpoint, as it leaves on the board bus. -/
theorem State.bmc_off (h : s.board.address = none ∨ s.pwr.aonUp = false) (act : State → State) : s.bmc act = s :=
  if_neg (by rcases h with h | h <;> simp [h])

theorem State.bmc_on (ha : s.board.address.isSome) (hp : s.pwr.aonUp = true) (act : State → State) : s.bmc act = act s := if_pos ⟨ha, hp⟩

theorem State.bmcServe_idle (h : s.board.receiver = none) : s.bmcServe = s := if_pos (.inr (.inl (by simp [h])))

theorem State.bmcServe_spec (s : State) : s.bmcServe.board.receiver = s.board.receiver ∧ s.bmcServe.board.address = s.board.address ∧
    s.bmcServe.mem = s.mem := by
  unfold State.bmcServe
  split
  · exact ⟨rfl, rfl, rfl⟩
  · have h : ∀ (t u : State) (l : List Record), (l.foldl (fun u r => u.bmcSend 0x0A (0xFA#8 :: t.eventData r)) u).board.receiver = u.board.receiver ∧
        (l.foldl (fun u r => u.bmcSend 0x0A (0xFA#8 :: t.eventData r)) u).board.address = u.board.address ∧
        (l.foldl (fun u r => u.bmcSend 0x0A (0xFA#8 :: t.eventData r)) u).mem = u.mem := fun t u l =>
      ⟨foldl_keeps (fun t : State => t.board.receiver) (fun u r => by rfl) l u, foldl_keeps (fun t : State => t.board.address) (fun u r => by rfl) l u,
        foldl_keeps State.mem (fun u r => by rfl) l u⟩
    exact h s s _

/-- The sensor of a die reads its hottest course. -/
theorem State.sensor_die {d : Nat} (h : d < 16) : s.sensor (0x10 + d) = some (s.dieTemp d / 16) := by
  unfold State.sensor
  rw [if_neg (by omega), if_neg (by omega), if_neg (by omega), if_neg (by omega), if_neg (by omega), if_pos (by omega)]
  congr 3
  omega

theorem pdrIds_length : pdrIds.length = 56 := rfl

end

theorem boardEndpoint : BoardEndpoint := by
  refine ⟨fun s record ack id value eid cmd body h c hc => ?_, fun s a => ⟨fun h => ?_, fun h hp => ?_⟩, fun s ha hp => ?_⟩
  · simp only [List.mem_cons, List.not_mem_nil, or_false] at hc
    rcases hc with rfl | rfl | rfl | rfl | rfl | rfl | rfl | rfl
    all_goals exact congrArg Host.Outcome.next (State.bmc_off h _)
  · exact congrArg Host.Outcome.next (if_pos (.inl h))
  · refine ⟨_, congrArg Host.Outcome.next (if_neg (by simp [h, hp])), (State.bmcServe_spec _).2.1, fun hr => ?_⟩
    rw [State.bmcServe_idle]
    · exact hr
  · have hdo : ∀ act : State → State, Host.Outcome.next (φ := Fault) (ρ := Refusal) (s.bmc act) = .next (act s) := fun act =>
      congrArg _ (State.bmc_on ha hp act)
    intro say
    refine ⟨hdo _, fun record => ⟨fun h => ?_, fun h => ?_⟩, ⟨hdo _, hdo _, hdo _, hdo _, fun d hd => ?_⟩, ⟨hdo _, hdo _, fun id h1 h2 => ?_⟩,
      fun value => ⟨fun h1 h2 h3 h4 => ?_, fun h => ?_⟩, fun eid => ?_, fun ack hq => ?_, fun ack r rs hq => ⟨fun h => ?_, fun h => ?_⟩, fun body hr => ?_⟩
    · have hget : pdrIds[record]? = some (pdrIds[record]'(by rw [pdrIds_length]; exact h)) := List.getElem?_eq_getElem _
      refine ⟨leBytes 2 (pdrIds[record]'(by rw [pdrIds_length]; exact h)) ++ Config.pldmBody 0x51 (pdrIds[record]'(by rw [pdrIds_length]; exact h)),
        (hdo _).trans (congrArg _ ?_)⟩
      rw [hget]
      rfl
    · refine (hdo _).trans (congrArg _ ?_)
      rw [List.getElem?_eq_none (by rw [pdrIds_length]; exact h)]
      rfl
    · refine (hdo _).trans (congrArg _ ?_)
      rw [State.sensor_die hd]
      rfl
    · exact (hdo _).trans (congrArg _ ((if_neg h1).trans (if_neg h2)))
    · have hset : s.setCap value s.capReg.2 = { s with pwr := { s.pwr with capNext := some (value, s.capReg.2) } } := if_pos ⟨h1, h2, h3, h4⟩
      refine ⟨(s.setCap value s.capReg.2).bmcSend 0x31 [0x00], (hdo _).trans (congrArg _ ((if_pos rfl).trans (if_pos ⟨h1, h2⟩))), ?_⟩
      rw [hset]
      exact ⟨rfl, rfl⟩
    · exact (hdo _).trans (congrArg _ ((if_pos rfl).trans (if_neg (by omega))))
    · have h := State.bmcServe_spec (({ s with board := { s.board with receiver := some eid } }).bmcSend 0x04 [0x00])
      exact ⟨_, hdo _, h.1, h.2.2⟩
    · refine ⟨_, hdo _, ?_⟩
      unfold State.bmcPoll
      rw [hq]
      exact ⟨rfl, rfl⟩
    · refine ⟨_, hdo _, ?_⟩
      simp only [State.bmcPoll, hq, if_pos h]
      cases rs <;> rfl
    · refine ⟨_, hdo _, ?_⟩
      simp only [State.bmcPoll, hq, if_neg h]
      exact ⟨rfl, rfl⟩
    · refine (hdo _).trans (congrArg _ ((State.bmcServe_idle ?_).trans rfl))
      exact hr

/-- With the always-on supply an instruction enters the register, those that drive pins only in test mode. -/
theorem State.setTap_on {s : State} (hp : s.pwr.aonUp = true) (code : Nat) : s.setTap code = { s with board := { s.board with
    tap := if 3 ≤ code ∧ code ≤ 5 ∧ !s.pwr.testmode then 0 else code } } := if_pos hp

theorem State.setTap_off {s : State} (hp : s.pwr.aonUp = false) (code : Nat) : s.setTap code = s := if_neg (by simp [hp])

theorem testPort : TestPort := by
  refine ⟨fun s hp => ⟨fun c hc => ?_, fun c hc => ?_⟩, fun s hp c hc => ?_, rfl⟩
  · simp only [List.mem_cons, List.not_mem_nil, or_false] at hc
    rcases hc with rfl | rfl | rfl | rfl | rfl
    all_goals exact congrArg Host.Outcome.next ((State.setTap_on hp _).trans (by simp))
  · simp only [List.mem_cons, List.not_mem_nil, or_false] at hc
    rcases hc with rfl | rfl | rfl
    all_goals exact congrArg Host.Outcome.next ((State.setTap_on hp _).trans (by cases s.pwr.testmode <;> rfl))
  · simp only [List.mem_cons, List.not_mem_nil, or_false] at hc
    rcases hc with rfl | rfl | rfl | rfl | rfl | rfl | rfl | rfl
    all_goals exact congrArg Host.Outcome.next (State.setTap_off hp _)

/-- Settles O51: the endpoint acts once it has an address, and the port's instructions enter its register. -/
theorem boardAndTest : Obligations.BoardAndTest := ⟨boardEndpoint, testPort⟩

end Sys2Proof.Machine

/-! SUPPORT. Temperatures, throttles and supplies (R407 to R409, R413, R446, R447); what a context keeps of its first fault (R105). -/

namespace Sys2Proof.Machine
open Sys2Proof.Claims

/-! ## The first fault of a context stays (R105) -/

/-- Whether a context has faulted, and with which code. -/
def State.verdict (s : State) (n : Nat) : CtxSt × Status := ((s.ctx n).st, (s.ctx n).fault)

theorem State.verdict_of_tab {s t : State} (h : t.tab = s.tab) (n : Nat) : t.verdict n = s.verdict n := by simp [State.verdict, State.ctx, h]

theorem State.verdict_updCtx (s : State) (m n : Nat) {f : Ctx → Ctx} (hf : ∀ c, (f c).st = c.st ∧ (f c).fault = c.fault) :
    (s.updCtx m f).verdict n = s.verdict n := by
  rw [State.verdict, State.ctx_updCtx]
  split
  · next h => rw [h, (hf _).1, (hf _).2]; rfl
  · rfl

theorem State.verdict_foldl {α : Type} {n : Nat} {f : State → α → State} (hf : ∀ t x, (f t x).verdict n = t.verdict n) (l : List α) (s : State) :
    (l.foldl f s).verdict n = s.verdict n := foldl_keeps (fun t => t.verdict n) hf l s

theorem State.verdict_faultCtx {s : State} {n : Nat} (h : (s.ctx n).st = .faulted) (m : Nat) (rep : Report) :
    (s.faultCtx m rep none).verdict n = s.verdict n := by
  have hrec : ∀ r, (s.record r).verdict n = s.verdict n := fun r => State.verdict_of_tab (State.record_tab ..) n
  unfold State.faultCtx
  dsimp only
  split
  · rfl
  · next hd =>
    have hm : n ≠ m := fun hm => by rw [← hm, h] at hd; cases hd
    rw [State.verdict, State.ctx_updCtx, if_neg hm]
    exact hrec _
  · exact (State.verdict_updCtx _ _ _ (fun c => ⟨rfl, rfl⟩)).trans (hrec _)

/-- A fault of a defined context is its verdict; a fault of another one leaves it. -/
theorem State.verdict_faultCtx_defined {s : State} {n : Nat} (h : (s.ctx n).st = .defined) (m : Nat) (rep : Report) :
    (s.faultCtx m rep none).verdict n = if m = n then (.faulted, rep.status) else s.verdict n := by
  have hrec : ∀ r, (s.record r).verdict n = s.verdict n := fun r => State.verdict_of_tab (State.record_tab ..) n
  by_cases hm : m = n
  · subst hm
    unfold State.faultCtx
    dsimp only
    rw [h, if_pos rfl, State.verdict, State.ctx_updCtx_self]
  · rw [if_neg hm]
    unfold State.faultCtx
    dsimp only
    split
    · rfl
    · rw [State.verdict, State.ctx_updCtx, if_neg (Ne.symm hm)]; exact hrec _
    · rw [State.verdict, State.ctx_updCtx, if_neg (Ne.symm hm)]; exact hrec _

/-- Faulting the contexts of a list gives each defined one of them the code of its report. -/
theorem State.verdict_foldl_faultCtx (rep : State → Nat → Report) (st : Status) (hrep : ∀ t m, (rep t m).status = st) (l : List Nat) {s : State} {n : Nat}
    (h : (s.ctx n).st = .defined) (hn : n ∈ l) : (l.foldl (fun s m => s.faultCtx m (rep s m) none) s).verdict n = (.faulted, st) := by
  have hkeep : ∀ (l : List Nat) (t : State), t.verdict n = (.faulted, st) →
      (l.foldl (fun s m => s.faultCtx m (rep s m) none) t).verdict n = (.faulted, st) := by
    intro l
    induction l with
    | nil => exact fun t h => h
    | cons m l ih => exact fun t ht => ih _ ((State.verdict_faultCtx (Prod.mk.inj ht).1 ..).trans ht)
  induction l generalizing s with
  | nil => cases hn
  | cons m l ih =>
    have hv := State.verdict_faultCtx_defined h m (rep s m)
    by_cases hm : m = n
    · exact hkeep l _ (hv.trans (by rw [if_pos hm, hrep]))
    · rw [if_neg hm] at hv
      exact ih ((Prod.mk.inj hv).1.trans h) ((List.mem_cons.1 hn).resolve_left (Ne.symm hm))

theorem State.verdict_abortCourse {s : State} {c n : Nat} (hn : n ∈ s.ctxsOnCourse c) (h : (s.ctx n).st = .defined) (st : Status) :
    (s.abortCourse c st).verdict n = (.faulted, st) :=
  State.verdict_foldl_faultCtx (fun s n => { Report.plain 0x0D st 0 [] with ctx := some n, fn := (s.ctx n).fn, course := some c }) st
    (fun _ _ => rfl) _ h hn

theorem State.verdict_fenceTract {s : State} {n : Nat} (h : (s.ctx n).st = .faulted) (fn tract core : Nat) (cause : Status) :
    (s.fenceTract fn tract core cause).verdict n = s.verdict n := by
  have hkeep : ∀ (l : List Nat) (r : State → Report) (t : State), t.verdict n = s.verdict n →
      (l.foldl (fun s c => s.faultCtx c (r s) none) t).verdict n = s.verdict n := by
    intro l r
    induction l with
    | nil => exact fun t h => h
    | cons m l ih => exact fun t ht => ih _ ((State.verdict_faultCtx ((Prod.mk.inj ht).1.trans h) ..).trans ht)
  exact hkeep _ (fun s => s.gridReport core gngTractFenced (leBytes 4 core ++ leBytes 4 tract ++ leBytes 2 cause.toNat)) _
    (State.verdict_of_tab ((State.record_tab ..).trans rfl) n)

/-! ## A dropped sheaf leaves every context's verdict -/

theorem State.verdict_updWaiter (s : State) (w : Waiter) (f : Slot → Slot) (n : Nat) : (s.updWaiter w f).verdict n = s.verdict n := by
  unfold State.updWaiter
  split
  · exact State.verdict_of_tab (by simp) n
  · exact State.verdict_updCtx _ _ _ (fun c => ⟨rfl, rfl⟩)

theorem State.verdict_saveWait (s : State) (w : Waiter) (n : Nat) : (s.saveWait w).verdict n = s.verdict n := by
  unfold State.saveWait
  split
  · exact State.verdict_of_tab (s.onlyBytes_writeNat ..).tab n
  · rfl

theorem State.verdict_updSpar (s : State) (p : Nat) (f : Spar → Spar) (n : Nat) : (s.updSpar p f).verdict n = s.verdict n := rfl

theorem State.verdict_depart (s : State) (p : Nat) (w : Waiter) (n : Nat) : (s.depart p w).verdict n = s.verdict n :=
  (State.verdict_saveWait ..).trans (State.verdict_updWaiter ..)

theorem State.verdict_evaluate (s : State) (p fuel n : Nat) : (s.evaluate p fuel).verdict n = s.verdict n := by
  induction fuel generalizing s with
  | zero => rfl
  | succ fuel ih =>
    unfold State.evaluate
    dsimp only
    split
    · rfl
    · rw [ih, State.verdict_updSpar]
      refine (State.verdict_foldl (fun t w => ?_) _ _).trans
        ((State.verdict_foldl (fun t w => (State.verdict_saveWait ..).trans (State.verdict_updWaiter ..)) _ _).trans (State.verdict_updSpar ..))
      split
      · exact State.verdict_depart ..
      · rfl

theorem State.verdict_withdrawSheaf (s : State) (ws : List Waiter) (n : Nat) : (s.withdrawSheaf ws).verdict n = s.verdict n := by
  refine State.verdict_foldl (fun t p => ?_) _ _
  dsimp only
  split
  · rfl
  · exact (State.verdict_evaluate ..).trans (State.verdict_foldl (fun u w => u.verdict_depart p w n) _ _)

theorem State.verdict_dropSheaf (s : State) (core slot n : Nat) : (s.dropSheaf core slot).verdict n = s.verdict n := by
  unfold State.dropSheaf
  split
  · rfl
  · next sl _ =>
    have hfree : ∀ t : State, ((t.orphan core slot).freeSlot core slot sl.ctx).verdict n = t.verdict n := fun t => by
      unfold State.freeSlot
      dsimp only
      split <;> rfl
    have hclear : ∀ t : State, ((t.clearBlock sl.ctx sl.block).unparkMbx core slot).verdict n = t.verdict n := fun t =>
      State.verdict_of_tab (t.onlyBytes_writeBytes ..).tab n
    dsimp only
    split
    · exact (hfree _).trans ((hclear _).trans (State.verdict_withdrawSheaf ..))
    · exact (State.verdict_of_tab (State.flushNear_spec ..).2.1 n).trans ((hfree _).trans ((hclear _).trans (State.verdict_withdrawSheaf ..)))

/-! ## Heat -/

section

variable (s : State) (st : Status) (c : Option Nat)

theorem State.told_powerRecord : ({ s with board := { s.board with recSeq := s.board.recSeq + 1 } } : State).Told (s.powerRecord st c) :=
  s.told_record _

theorem State.powerRecord_courses : (s.powerRecord st c).courses = s.courses := (s.told_powerRecord st c).courses

theorem State.powerRecord_pwr : (s.powerRecord st c).pwr = s.pwr := (s.told_powerRecord st c).pwr

theorem State.powerRecord_grid : (s.powerRecord st c).grid = s.grid := (s.told_powerRecord st c).grid

theorem State.powerRecord_recSeq : (s.powerRecord st c).board.recSeq = s.board.recSeq + 1 := (s.told_powerRecord st c).recSeq

end

theorem State.updCourse_updCourse (s : State) (n : Nat) (f g : Course → Course) : (s.updCourse n f).updCourse n g = s.updCourse n (fun x => g (f x)) := by
  unfold State.updCourse Map.upd
  simp only [Map.getD_put_self, Map.put_put]

/-- While the throttle is in force every course runs at step 5. -/
theorem State.setSteps_throttled {s : State} (h : s.pwr.throttled = true) : ∀ c ∈ s.setSteps.courses, c.2.step = 5 := by
  intro c hc
  obtain ⟨x, _, rfl⟩ := List.mem_map.1 hc
  exact if_pos h

theorem State.setSteps_free {s : State} (h : s.pwr.throttled = false) : ∀ c ∈ s.setSteps.courses, c.2.step = max 5 (min c.2.grant c.2.heat) := by
  intro c hc
  obtain ⟨x, _, rfl⟩ := List.mem_map.1 hc
  exact if_neg (by simp [h])

theorem mem_delSet {l : List Nat} {n x : Nat} : x ∈ delSet l n ↔ x ∈ l ∧ x ≠ n := by simp [delSet]

/-- A sample below 125 °C: the course trips, is released, or takes the reading. -/
theorem State.tempSample_eq {s : State} {c mv : Nat} {temp : Int} (h : temp < 2000) : s.tempSample c temp mv =
    if ((s.course c).power = .run ∨ (s.course c).power = .standby) ∧ (16 * s.pwr.ttrip : Int) ≤ temp then
      (s.updCourse c (fun x => { x with temp := temp, mv := mv, power := .tripped })).powerRecord pwrThermalTrip (some c)
    else if (s.course c).power = .tripped ∧ temp < 16 * ((s.pwr.tthr : Int) - 5) then
      s.updCourse c (fun x => { x with temp := temp, mv := mv, power := .standby, waking := true, heat := 5, step := 5 })
    else s.updCourse c (fun x => { x with temp := temp, mv := mv }) := by
  unfold State.tempSample
  dsimp only
  rw [if_neg (show ¬ 2000 ≤ temp by omega), State.course_updCourse_self, State.updCourse_updCourse, State.updCourse_updCourse]
  rfl

theorem State.tempSample_thermtrip {s : State} {c mv : Nat} {temp : Int} (h : 2000 ≤ temp) : (s.tempSample c temp mv).pwr.thermtrip = true := by
  unfold State.tempSample
  dsimp only
  rw [if_pos h]
  split
  · rw [State.powerRecord_pwr]; rfl
  · split <;> rfl

/-- A stack that grows too hot leaves a record, and asserts THERMTRIP_N at 125 °C (R446, R447). -/
theorem State.stackLimits_spec (s : State) (P : Prop) [Decidable P] (rep : Report) (temp : Int) :
    let u := if P then s.record rep else s
    let t := if 2000 ≤ temp then u.thermtrip else u
    t.pwr = { s.pwr with thermtrip := t.pwr.thermtrip } ∧ (2000 ≤ temp → t.pwr.thermtrip = true) ∧ t.grid = s.grid := by
  intro u t
  have hu : u.pwr = s.pwr ∧ u.grid = s.grid := by
    simp only [u]
    split
    · exact ⟨(s.told_record rep).pwr, (s.told_record rep).grid⟩
    · exact ⟨rfl, rfl⟩
  simp only [t]
  split
  · next h => exact ⟨by rw [← hu.1]; rfl, fun _ => rfl, hu.2⟩
  · next h => exact ⟨by rw [hu.1], fun h' => absurd h' h, hu.2⟩

theorem heat : Heat := by
  refine ⟨fun s c temp mv hc ht => ?_, fun s c temp mv hc ht => ?_, fun s k temp hk => ?_⟩
  · have hd (t : State) : doneIf (decide (c < 1024)) t = .next t := by simp [doneIf, hc]
    have hs : exec (.temperatureSample c temp mv) s = _ := (hd _).trans (congrArg _ (State.tempSample_eq ht))
    intro x
    refine ⟨fun hp htr => ?_, fun hp htr => ?_, fun hp htr => ?_, fun hp => (hd _).trans (congrArg _ (if_neg hp)), fun hp => ?_⟩
    · refine exists_next (hs.trans (congrArg _ (if_pos ⟨hp, htr⟩))) ?_
      have hco : ∀ d, ((s.updCourse c (fun x => { x with temp := temp, mv := mv, power := .tripped })).powerRecord pwrThermalTrip (some c)).course d =
          if d = c then { x with temp := temp, mv := mv, power := .tripped } else s.course d := fun d =>
        (congrArg (Map.getD · d Course.idle) (State.powerRecord_courses ..)).trans (State.course_updCourse ..)
      exact ⟨(hco c).trans (if_pos rfl), (State.powerRecord_recSeq ..).trans rfl, fun d hd => (hco d).trans (if_neg hd)⟩
    · have hp : (s.course c).power = .tripped := hp
      exact hs.trans (congrArg _ ((if_neg (by simp [hp])).trans (if_pos ⟨hp, htr⟩)))
    · have hnot : (s.course c).power ≠ .tripped := by
        rcases hp with hp | hp
        · exact fun h => by rw [show (s.course c).power = _ from hp] at h; cases h
        · exact fun h => by rw [show (s.course c).power = _ from hp] at h; cases h
      exact hs.trans (congrArg _ ((if_neg (fun h => absurd h.2 (Int.not_le.2 htr))).trans (if_neg (fun h => hnot h.1))))
    · refine exists_next ((hd _).trans (congrArg _ (if_pos hp))) fun n hn hst => ?_
      have h := State.verdict_abortCourse hn hst pwrThermalTrip
      exact ⟨(Prod.mk.inj h).1, (Prod.mk.inj h).2⟩
  · exact exists_next (if_pos (by simpa using hc)) (State.tempSample_thermtrip ht)
  · have hd (t : State) : doneIf (decide (k < 32)) t = .next t := by simp [doneIf, hk]
    refine exists_next (hd _) ?_
    dsimp only
    obtain ⟨hpwr, htrip, hgrid⟩ := State.stackLimits_spec { s with pwr := { s.pwr with
      stackTemp := s.pwr.stackTemp.put k temp
      stackRefresh := if 1360 < temp then insSet s.pwr.stackRefresh k else delSet s.pwr.stackRefresh k
      stackSlow := if 1600 ≤ temp then insSet s.pwr.stackSlow k
                   else if temp < 1520 then delSet s.pwr.stackSlow k else s.pwr.stackSlow } }
      (1600 ≤ temp ∧ (!s.pwr.stackSlow.contains k) = true) (Report.plain 0x06 pwrThermalTrip (32 * k) []) temp
    generalize (if 2000 ≤ temp then _ else _ : State) = t at hpwr htrip hgrid ⊢
    rw [hpwr]
    refine ⟨Map.getD_put_self .., ?_, fun h => ?_, fun h => ?_, fun h h' => ?_, htrip, hgrid⟩
    · dsimp only
      split
      · next h => exact ⟨fun _ => h, fun _ => mem_insSet.2 (.inl rfl)⟩
      · next h => exact ⟨fun h' => absurd rfl (mem_delSet.1 h').2, fun h' => absurd h' h⟩
    · rw [if_pos h]; exact mem_insSet.2 (.inl rfl)
    · rw [if_neg (by omega), if_pos h]; exact fun hk => (mem_delSet.1 hk).2 rfl
    · rw [if_neg (by omega), if_neg (by omega)]

/-! ## Delivery and supplies -/

theorem State.throttle_recorded {s : State} (h : s.pwr.throttled = true) (st : Status) (c : Option Nat) :
    ∀ x ∈ (s.setSteps.powerRecord st c).courses, x.2.step = 5 := by
  rw [State.powerRecord_courses]; exact State.setSteps_throttled h

theorem Map.get?_filter_none {α : Type} (p : Nat × α → Bool) (m : Map α) (k : Nat) (h : ∀ a, p (k, a) = false) : Map.get? (m.filter p) k = none := by
  cases hg : Map.get? (m.filter p) k with
  | none => rfl
  | some a => exact absurd (List.mem_filter.1 (Map.mem_of_get? hg)).2 (by simp [h])

/-- The steps of a supply fault: the record, the aborts, the fences, the sheaves, and what the course holds (R409). -/
theorem State.supplyFault_eq {s : State} {c : Nat} (hc : (s.course c).power ≠ .fault) : ∃ (l : List Nat) (mine : List (Nat × Nat)),
    let t := l.foldl (fun (s : State) k => s.fenceTract ((s.ownerOfCourse c).getD 0) k (coreInTract k 0 0) pwrSupplyFault)
      ((s.powerRecord pwrSupplyFault (some c)).abortCourse c pwrSupplyFault)
    let u := mine.foldl (fun (s : State) x => s.dropSheaf x.1 x.2) t
    s.supplyFault c = ({ u with grid := { u.grid with
      cores := u.grid.cores.filter (fun x => courseOfCore x.1 != c), gangs := u.grid.gangs.filter (fun g => courseOfCore g.1 != c) } } : State).updCourse c
        (fun x => { x with power := .fault, waking := false, queue := [], credit := 0 }) := by
  unfold State.supplyFault
  rw [if_neg hc]
  exact ⟨_, _, rfl⟩

theorem State.verdict_supplyFault {s : State} {c n : Nat} (hc : (s.course c).power ≠ .fault) (hn : n ∈ s.ctxsOnCourse c) (h : (s.ctx n).st = .defined) :
    (s.supplyFault c).verdict n = (.faulted, pwrSupplyFault) := by
  have hrec : (s.powerRecord pwrSupplyFault (some c)).ctxsOnCourse c = s.ctxsOnCourse c := by
    unfold State.ctxsOnCourse; rw [State.powerRecord_grid]
  have hst : ((s.powerRecord pwrSupplyFault (some c)).ctx n).st = .defined := by
    rw [State.powerRecord, State.ctx_record]; exact h
  have habort := State.verdict_abortCourse (hrec.symm ▸ hn) hst pwrSupplyFault
  have hfence : ∀ (l : List Nat) (t : State), t.verdict n = (.faulted, pwrSupplyFault) →
      (l.foldl (fun (s : State) k => s.fenceTract ((s.ownerOfCourse c).getD 0) k (coreInTract k 0 0) pwrSupplyFault) t).verdict n =
        (.faulted, pwrSupplyFault) := by
    intro l
    induction l with
    | nil => exact fun t h => h
    | cons k l ih => exact fun t ht => ih _ ((State.verdict_fenceTract (Prod.mk.inj ht).1 ..).trans ht)
  obtain ⟨l, mine, heq⟩ := State.supplyFault_eq hc
  rw [heq]
  exact (State.verdict_foldl (f := fun s x => State.dropSheaf s x.1 x.2) (fun t x => t.verdict_dropSheaf x.1 x.2 n) mine _).trans (hfence l _ habort)

/-- A course whose rails fail stands in FAULT, and nothing of it is kept (R398, R409). -/
theorem State.supplyFault_spec {s : State} {c : Nat} (hc : (s.course c).power ≠ .fault) :
    ((s.supplyFault c).course c).power = .fault ∧ ((s.supplyFault c).course c).queue = [] ∧
      (∀ k, courseOfCore k = c → (s.supplyFault c).grid.cores.get? k = none) ∧ (∀ g ∈ (s.supplyFault c).grid.gangs, courseOfCore g.1 ≠ c) := by
  obtain ⟨l, mine, hu⟩ := State.supplyFault_eq hc
  rw [hu, State.course_updCourse_self]
  refine ⟨rfl, rfl, fun k hk => Map.get?_filter_none _ _ _ (fun a => by simp [hk]), fun g hg => ?_⟩
  simpa using (List.mem_filter.1 hg).2

/-- A poll of the board stage: the fault status of the answer throttles the courses, and records may leave. -/
theorem State.pmbusPoll_fault {s : State} {status : BitVec 16} (h : status &&& 0xE004 ≠ 0) (vin iin : Nat) :
    (s.pmbusPoll true vin iin status).pwr.pmFault = true ∧ ∀ c ∈ (s.pmbusPoll true vin iin status).courses, c.2.step = 5 := by
  have hf : pmbusFault status = true := bne_iff_ne.2 h
  have hrec : ∀ (P Q : Bool) (t : State), t.pwr.pmFault = true ∧ (∀ c ∈ t.courses, c.2.step = 5) →
      let u := if P then t.powerRecord pwrSupplyFault none else t
      (if Q then u.powerRecord pwrSupplyFault none else u).pwr.pmFault = true ∧
        ∀ c ∈ (if Q then u.powerRecord pwrSupplyFault none else u).courses, c.2.step = 5 := by
    intro P Q t ht
    cases P <;> cases Q <;> simpa [State.powerRecord_pwr, State.powerRecord_courses] using ht
  unfold State.pmbusPoll
  rw [if_neg (by decide)]
  refine hrec _ _ _ ⟨hf, State.setSteps_throttled ?_⟩
  simp [PowerCtl.throttled, hf]

theorem State.pmbusPoll_clean {s : State} {status : BitVec 16} {vin iin : Nat} (h : status &&& 0xE004 = 0) (hp : vin * iin / 1000000 = s.pwr.p1ms) :
    (s.pmbusPoll true vin iin status).pwr.pmFault = false ∧ (s.pmbusPoll true vin iin status).pwr.pmbusBad = 0 ∧
      (s.pmbusPoll true vin iin status).board = s.board := by
  have hf : pmbusFault status = false := by rw [pmbusFault, h]; rfl
  have hfar : decide (5 * s.pwr.p1ms < 100 * (vin * iin / 1000000 - s.pwr.p1ms) ∨ 5 * s.pwr.p1ms < 100 * (s.pwr.p1ms - vin * iin / 1000000)) = false := by
    rw [hp]; simp
  unfold State.pmbusPoll
  rw [if_neg (by decide)]
  simp only [hfar, hf]
  exact ⟨rfl, rfl, rfl⟩

theorem delivery : Delivery := by
  refine ⟨fun s power current vin hd => ⟨fun h => ?_, fun h h' => ?_⟩, fun s => ?_, fun s mv => ⟨fun h h' => ?_, fun h h' => ?_⟩,
    fun s vin iin status => ⟨exists_next rfl ⟨rfl, rfl⟩, fun h => exists_next rfl (State.pmbusPoll_fault h vin iin),
      fun h hp => exists_next rfl (State.pmbusPoll_clean h hp)⟩, fun s c hc => ⟨fun h => ?_, fun h => ?_⟩⟩
  · refine exists_next (congrArg Host.Outcome.next (if_pos ⟨h, by simp [hd]⟩)) ?_
    have ht : ({ s with pwr := { s.pwr with vinMV := vin, iinMA := current, delivery := true } } : State).pwr.throttled = true := rfl
    exact ⟨congrArg PowerCtl.delivery (State.powerRecord_pwr ..), congrArg PowerCtl.vinMV (State.powerRecord_pwr ..),
      congrArg PowerCtl.iinMA (State.powerRecord_pwr ..), State.throttle_recorded ht _ _, (State.powerRecord_recSeq ..).trans rfl⟩
  · exact congrArg _ (if_neg (by omega))
  · exact exists_next rfl ⟨rfl, rfl, rfl, fun hs hp => State.setSteps_free (by simp [PowerCtl.throttled, hs, hp])⟩
  · refine exists_next (congrArg Host.Outcome.next (if_neg (by omega))) ?_
    have ht : ({ s with pwr := { s.pwr with vinMV := mv, supply := true, mainStable := false } } : State).pwr.throttled = true := by
      simp [PowerCtl.throttled]
    dsimp only
    split
    · exact ⟨rfl, rfl, State.setSteps_throttled ht, rfl⟩
    · exact ⟨congrArg PowerCtl.supply (State.powerRecord_pwr ..), congrArg PowerCtl.vinMV (State.powerRecord_pwr ..),
        State.throttle_recorded ht _ _, (State.powerRecord_recSeq ..).trans rfl⟩
  · exact exists_next (congrArg Host.Outcome.next (if_pos ⟨h, h'⟩)) ⟨rfl, rfl⟩
  · exact (if_pos (by simpa using hc)).trans (congrArg Host.Outcome.next (if_pos h))
  · obtain ⟨h1, h2, h3, h4⟩ := State.supplyFault_spec h
    refine exists_next (if_pos (by simpa using hc)) ⟨h1, h2, h3, h4, fun n hn hst => ?_⟩
    have hv := State.verdict_supplyFault h hn hst
    exact ⟨(Prod.mk.inj hv).1, (Prod.mk.inj hv).2⟩

/-- Settles O54: samples by the limit they pass, throttles by the step that every course then has. -/
theorem heatAndDelivery : Obligations.HeatAndDelivery := ⟨heat, delivery⟩

end Sys2Proof.Machine

/-! SUPPORT. A burst of DDR5 that two owners share (R164, R425): a write under one key makes the bytes under the other unreadable. -/

namespace Sys2Proof.Machine
open Sys2Proof.Claims

/-! ## Bytes of memory that are absent -/

/-- A byte that is absent, or among those forgotten, is absent afterwards. -/
theorem Memory.forget_get?_none {k : Nat} (n : Nat) {a : Nat} {m : Memory} (h : Map.rising m.cells = true)
    (hk : Map.get? m.cells k = none ∨ a ≤ k ∧ k < a + n) : Map.get? (m.forget a n).cells k = none := by
  induction n generalizing m a with
  | zero => exact hk.resolve_right (by omega)
  | succ n ih =>
    refine ih (m := { m with cells := Map.del m.cells a }) (Map.del_rising h a) ?_
    by_cases hak : k = a
    · subst hak; exact .inl (Map.get?_del_self h k)
    · rcases hk with hk | hk
      · exact .inl ((Map.get?_del_of_ne _ hak).trans hk)
      · exact .inr (by omega)

theorem Memory.cells_rising {m : Memory} (h : m.wf = true) : Map.rising m.cells = true := ((Memory.wf_iff m).1 h).1

/-- A byte that memory does not hold, with no line in the die caches. -/
def State.Lost (s : State) (k : Nat) : Prop := s.mem.mem.wf = true ∧ s.mem.dlines = [] ∧ Map.get? s.mem.mem.cells k = none

section

variable {s : State} {k : Nat}

theorem State.burst_dlines (s : State) (a : Nat) (gp : Option (Nat × Nat)) : (s.burst a gp).mem.dlines = s.mem.dlines := by
  unfold State.burst; split <;> rfl

/-- Preparing a burst loses the bytes of another key. -/
theorem State.Lost.burst_of (h : s.mem.mem.wf = true) (hd : s.mem.dlines = []) {a : Nat} (gp : Option (Nat × Nat))
    (hk : Map.get? s.mem.mem.cells k = none ∨ isDdr a = true ∧ s.keyFits a = false ∧ a / 64 = k / 64) : (s.burst a gp).Lost k := by
  refine ⟨State.burst_wf h .., (s.burst_dlines a gp).trans hd, ?_⟩
  unfold State.burst
  split
  · next ha =>
    dsimp only [State.setMem]
    split
    · next hf => exact hk.resolve_right (fun h => by rw [h.2.1] at hf; exact absurd hf (by decide))
    · exact Memory.forget_get?_none 64 (Memory.cells_rising h) (hk.imp id (fun h => by omega))
  · next ha => exact hk.resolve_right (fun h => ha h.1)

theorem State.Lost.burst (h : s.Lost k) (a : Nat) (gp : Option (Nat × Nat)) : (s.burst a gp).Lost k := .burst_of h.1 h.2.1 gp (.inl h.2.2)

/-- A write of another byte leaves a lost byte lost; one under another key loses the rest of its burst. -/
theorem State.Lost.memPut_of (h : s.mem.mem.wf = true) (hd : s.mem.dlines = []) {a : Nat} (hne : k ≠ a) (b : Byte) (gp : Option (Nat × Nat))
    (hk : Map.get? s.mem.mem.cells k = none ∨ isDdr a = true ∧ s.keyFits a = false ∧ a / 64 = k / 64) : (s.memPut a b gp).Lost k := by
  obtain ⟨hw, hl, hc⟩ := State.Lost.burst_of h hd gp hk
  refine ⟨State.memPut_wf h .., hl, ?_⟩
  change Map.get? (Memory.put _ a b).cells k = none
  simp only [Memory.put]
  split
  · rw [Map.get?_put_of_ne _ _ hne]; exact hc
  · rw [Map.get?_del_of_ne _ hne]; exact hc

theorem State.poke_eq_memPut (hd : s.mem.dlines = []) (a : Nat) (b : Byte) : s.poke a b = s.memPut a b none := by
  unfold State.poke; rw [hd]; rfl

theorem State.Lost.pokeList (h : s.Lost k) {a : Nat} {bs : List Byte} (hne : k < a ∨ a + bs.length ≤ k) : (s.pokeList a bs).Lost k := by
  induction bs generalizing s a with
  | nil => exact h
  | cons b bs ih =>
    rw [List.length_cons] at hne
    rw [State.pokeList, State.poke_eq_memPut h.2.1]
    exact ih (.memPut_of h.1 h.2.1 (by omega) b none (.inl h.2.2)) (by omega)

/-- With no line held, a write under another key loses every byte of the burst that it does not write. -/
theorem State.Lost.pokeList_of (h : s.mem.mem.wf = true) (hd : s.mem.dlines = []) {a : Nat} {b : Byte} {bs : List Byte}
    (hne : k < a ∨ a + (b :: bs).length ≤ k) (ha : isDdr a = true) (hf : s.keyFits a = false) (hb : a / 64 = k / 64) :
    (s.pokeList a (b :: bs)).Lost k := by
  rw [List.length_cons] at hne
  rw [State.pokeList, State.poke_eq_memPut hd]
  exact .pokeList (.memPut_of h hd (by omega) b none (.inr ⟨ha, hf, hb⟩)) (by omega)

theorem State.Lost.foldl {α : Type} {f : State → α → State} (hf : ∀ (t : State) x, t.Lost k → (f t x).Lost k) (l : List α) (h : s.Lost k) :
    (l.foldl f s).Lost k := by
  induction l generalizing s with
  | nil => exact h
  | cons x l ih => exact ih (hf s x h)

theorem State.Lost.setHusks (h : s.Lost k) (ws : List Nat) (b : Bool) : (s.setHusks ws b).Lost k := by
  have hcells : ∀ (ws : List Nat) (m : Memory), (ws.foldl (fun m w => m.setHusk w b) m).cells = m.cells := by
    intro ws
    induction ws with
    | nil => exact fun m => rfl
    | cons w ws ih => exact fun m => (ih _).trans rfl
  exact ⟨State.setHusks_wf h.1 .., h.2.1, by rw [State.setHusks, State.setMem, hcells]; exact h.2.2⟩

theorem State.Lost.pokeHusk (h : s.Lost k) (w : Nat) (b : Bool) : (s.pokeHusk w b).Lost k := by
  have : s.pokeHusk w b = s.setHusks [w] b := by unfold State.pokeHusk; rw [h.2.1]; rfl
  rw [this]; exact h.setHusks ..

theorem State.Lost.writeBytes (h : s.Lost k) {a : Nat} {bs : List Byte} (hne : k < a ∨ a + bs.length ≤ k) : (s.writeBytes a bs).Lost k :=
  .foldl (fun t w ht => ht.pokeHusk ..) _ (State.Lost.pokeList (s := s.unsnoop a bs.length) h hne)

theorem State.Lost.writeBytes_of (h : s.mem.mem.wf = true) (hd : s.mem.dlines = []) {a : Nat} {b : Byte} {bs : List Byte}
    (hne : k < a ∨ a + (b :: bs).length ≤ k) (ha : isDdr a = true) (hf : s.keyFits a = false) (hb : a / 64 = k / 64) :
    (s.writeBytes a (b :: bs)).Lost k :=
  .foldl (fun t w ht => ht.pokeHusk ..) _ (State.Lost.pokeList_of (s := s.unsnoop a (b :: bs).length) h hd hne ha hf hb)

theorem State.Lost.writeBack (h : s.Lost k) (n : Nat) : (s.writeBack n).Lost k := by
  have : s.writeBack n = s := by unfold State.writeBack; rw [h.2.1]; rfl
  rw [this]; exact h

theorem State.Lost.bursts (h : s.Lost k) (a : Nat) (bs : List Byte) (part gen : Nat) :
    ((((wordsOf a bs.length).map (· / 4)).eraseDups).foldl (fun t n => State.burst t (64 * n) (some (part, gen)))
      ((((wordsOf a bs.length).map (· / 8)).eraseDups).foldl (fun t n => State.writeBack t n) s)).Lost k :=
  .foldl (fun t n ht => ht.burst ..) _ (.foldl (fun t n ht => ht.writeBack n) _ h)

theorem State.Lost.writeObj (h : s.Lost k) {a : Nat} {bs : List Byte} (hne : k < a ∨ a + bs.length ≤ k) (part gen : Nat) :
    (s.writeObj a bs part gen).Lost k := (h.writeBytes hne).bursts ..

theorem State.Lost.writeObj_of (h : s.mem.mem.wf = true) (hd : s.mem.dlines = []) {a : Nat} {b : Byte} {bs : List Byte}
    (hne : k < a ∨ a + (b :: bs).length ≤ k) (ha : isDdr a = true) (hf : s.keyFits a = false) (hb : a / 64 = k / 64) (part gen : Nat) :
    (s.writeObj a (b :: bs) part gen).Lost k := (State.Lost.writeBytes_of h hd hne ha hf hb).bursts ..

/-- A DDR5 byte that is lost reads as an open byte. -/
theorem State.Lost.byteAt (h : s.Lost k) (ha : isDdr k = true) : s.byteAt k = s.openByte k := by
  simp only [State.byteAt, h.2.1, Map.get?_nil, State.memByte, ha, h.2.2, if_true]

end

/-! ## A burst with two owners -/

/-- The start of a burst, which belongs to no partition. -/
def oddAddr : Nat := ddrSpace + 4096

/-- A partition whose DDR5 range begins at the second byte of that burst. -/
def oddPart : Part :=
  { lomcon := false, htag := 0, qcount := 4, ctxBase := 16, ctxCount := 16, rshare := 64, winBase := 0, winCount := 64, slotBase := 0, slotCnt := 16
    sparq := 64, objq := 64, ddrBase := 4097, ddrSize := 0x100000, hbmHeap := (0, 0), ddrHeap := (0, 0), alloc := (0, 0), hoardHbm := 0, hoardT2 := 0
    hbmGr := 16, t2Gr := 16, ports := 3, ways := [], courses := [0], units := [0], chans := [0], shapes := [], power := 0 }

/-- A byte of the burst that the partition holds, or the one byte before its range. -/
def oddCell (own : Bool) : Nat := if own then oddAddr + 8 else oddAddr

def oddOwner (own : Bool) : Option Nat := if own then some 1 else none

/-- A device with that partition in slot 1, and one byte written in the burst under the key of its owner. -/
def State.sharing (s : State) (own : Bool) (b : Byte) : State :=
  { s with
    truss := { s.truss with parts := [(1, oddPart)] }
    mem := { s.mem with
      dlines := []
      mem := { cells := [(oddCell own, b)], husks := []
               metas := [(oddAddr / 64, { part := 0, gen := 0, keySlot := (s.keyOf (oddOwner own)).1, keyEpoch := (s.keyOf (oddOwner own)).2 })] } } }

/-- What the byte reads as once its burst has been written under another key. -/
def State.oddOpen (s : State) (own : Bool) : Byte :=
  Config.ddrByte (oddCell own) ((s.keyOf (oddOwner own)).1 + 65 * (s.keyOf (oddOwner own)).2)

theorem State.keyOf_slot (s : State) (o : Option Nat) : (s.keyOf o).1 = o.getD 64 := by cases o <;> rfl

theorem State.keyOf_of_boot {s t : State} (h : t.boot = s.boot) (o : Option Nat) : t.keyOf o = s.keyOf o := by
  unfold State.keyOf; rw [h]

section

variable (s : State) (own : Bool) (b : Byte)

theorem State.sharing_owner {a : Nat} : (s.sharing own b).ownerOfAddr a = if oddPart.ownsAddr a then some 1 else none := by
  change (List.find? (fun q : Nat × Part => q.2.ownsAddr a) [(1, oddPart)]).map (·.1) = _
  cases h : oddPart.ownsAddr a <;> simp [h]

theorem oddPart_owns : (if oddPart.ownsAddr (oddCell own) then some 1 else none) = oddOwner own := by cases own <;> decide

theorem oddCell_isDdr : isDdr (oddCell own) = true := by cases own <;> decide

theorem State.sharing_keyFits : (s.sharing own b).keyFits (oddCell own) = true := by
  have hburst : oddCell own / 64 = oddAddr / 64 := by cases own <;> decide
  have hmeta : Map.get? (s.sharing own b).mem.mem.metas (oddAddr / 64) =
      some { part := 0, gen := 0, keySlot := (s.keyOf (oddOwner own)).1, keyEpoch := (s.keyOf (oddOwner own)).2 } := if_pos rfl
  rw [State.keyFits, State.sharing_owner, oddPart_owns, hburst, hmeta]
  exact decide_eq_true rfl

/-- The byte reads as written. -/
theorem State.sharing_byteAt : (s.sharing own b).byteAt (oddCell own) = b := by
  have hlines : (s.sharing own b).mem.dlines = [] := rfl
  have hcells : (s.sharing own b).mem.mem.cells = [(oddCell own, b)] := rfl
  simp only [State.byteAt, State.memByte, hlines, hcells, oddCell_isDdr, State.sharing_keyFits, Map.get?_nil, Map.get?, if_true]

/-- The other owner's key does not fit. -/
theorem State.sharing_keyFits_other {a : Nat} (hburst : a / 64 = oddAddr / 64) (ho : oddPart.ownsAddr a = !own) :
    (s.sharing own b).keyFits a = false := by
  have hmeta : Map.get? (s.sharing own b).mem.mem.metas (oddAddr / 64) =
      some { part := 0, gen := 0, keySlot := (s.keyOf (oddOwner own)).1, keyEpoch := (s.keyOf (oddOwner own)).2 } := if_pos rfl
  rw [State.keyFits, State.sharing_owner, hburst, hmeta, ho]
  refine decide_eq_false (fun h => ?_)
  have hslot : ((s.sharing own b).keyOf (if (!own) = true then some 1 else none)).1 = (s.keyOf (oddOwner own)).1 := (Prod.mk.inj h).1
  rw [State.keyOf_slot, State.keyOf_slot] at hslot
  revert hslot
  cases own <;> decide

theorem State.sharing_wf : (s.sharing own b).mem.mem.wf = true := by
  cases own <;> simp [State.sharing, Memory.wf, Map.rising, risingSet, oddCell_isDdr]

theorem State.sharing_memOk : (s.sharing own b).memOk := ⟨s.sharing_wf own b, rfl, fun x hx => absurd hx List.not_mem_nil⟩

/-- A state in which the byte is lost does not read it as written. -/
theorem State.sharing_lost {t u : State} (hu : u.byteAt (oddCell own) = ~~~s.oddOpen own) (h : t.Lost (oddCell own))
    (hp : t.truss.parts = [(1, oddPart)]) (hb : t.boot = s.boot) {a : Nat} {bs : List Byte} (hw : u.Wrote t a bs)
    (ha : oddCell own < a ∨ a + bs.length ≤ oddCell own) : False := by
  have howner : t.ownerOfAddr (oddCell own) = oddOwner own := by
    rw [← oddPart_owns own, ← State.sharing_owner s own 0, State.ownerOfAddr, State.owner?, hp]; rfl
  have hopen : t.byteAt (oddCell own) = s.oddOpen own := by
    rw [h.byteAt (oddCell_isDdr own), State.openByte, howner, State.keyOf_of_boot hb]; rfl
  have hbyte := hw (oddCell own) (by cases own <;> decide)
  rw [if_neg (by omega), hu, hopen] at hbyte
  have := congrArg (fun v : Byte => v[0]) hbyte
  simp at this

end

/-- Refutes O60: where a partition's DDR5 range does not begin at a burst, a write of the byte before it drops the partition's bytes of that burst. -/
theorem not_memoryWrites : ¬ Obligations.MemoryWrites := by
  unfold Obligations.MemoryWrites
  intro h
  have hw := (h (State.reset.sharing true (~~~State.reset.oddOpen true)) oddAddr [0] (State.sharing_memOk ..) (by decide)).1
  have hbytes := (State.reset.sharing true (~~~State.reset.oddOpen true)).onlyBytes_writeBytes oddAddr [0]
  exact State.sharing_lost State.reset true (State.sharing_byteAt ..) (.writeBytes_of (State.sharing_wf ..) rfl (.inr (by decide)) (by decide)
    (State.sharing_keyFits_other _ true _ (a := oddAddr) rfl (by decide)) (by decide)) (by rw [hbytes.truss]; rfl) hbytes.boot hw (.inr (by decide))

/-! ## An ordered contribution in that burst -/

/-- The contribution that an element at the start of the burst awaits, index 2 of 30. -/
def oddReq : MemReq :=
  { tag := 0, core := 0, slot := 0, thread := 0, ctx := 0, pc := 0, word := 0, kind := .ordered 2, addr := oddAddr, vaddr := 0, size := 2, data := 0
    cmp := 0, hint := 0, sext := false, near := false, ordsc := 30 * 2 ^ 16 + 2, remote := none }

def oddSeq : OrdSeq := { size := 2, next := 2, count := 30, buf := [] }

/-- The device while the element's sequence is open, before the contribution is taken from those that wait. -/
def oddWaiting (reqs : List MemReq) : State := { State.reset with mem := { State.reset.mem with reqs := reqs, seqs := [(oddAddr, oddSeq)] } }

/-- A partition without ways holds no line. -/
theorem State.enterLine_wayless {s : State} {part n : Nat} (hd : s.mem.dlines = []) (hw : s.part part = none) (hint : Nat) (r : Option (Nat × Nat)) :
    s.enterLine part n hint r = s := by
  simp [State.enterLine, hd, State.waysOf, hw]

theorem State.drainSeq_stop {s : State} {a : Nat} {q : OrdSeq} (h : s.mem.seqs.get? a = some q) (hb : q.buf.get? q.next = none) (n : Nat) :
    s.drainSeq a n = s := by
  cases n with
  | zero => rfl
  | succ n => simp only [State.drainSeq, h, hb]

theorem State.closeSeq_open {s : State} {a : Nat} {q : OrdSeq} (h : s.mem.seqs.get? a = some q) (hn : q.next ≠ q.count) : s.closeSeq a = s := by
  simp only [State.closeSeq, h, if_neg hn]

/-- The contribution is added to its element; beside that only the sequence moves on. -/
theorem ordered_oddReq (b : Byte) : ∃ sq, (((oddWaiting [oddReq]).sharing true b).ordered 0) =
    { ((oddWaiting []).sharing true b).addTo 2 oddAddr 0 with mem := { (((oddWaiting []).sharing true b).addTo 2 oddAddr 0).mem with seqs := sq } } := by
  let s := (oddWaiting []).sharing true b
  have hact : s.ordAct oddAddr 2 30 = .apply := rfl
  have howner : (s.ownerOfAddr oddAddr).getD 64 = 64 := (congrArg (Option.getD · 64) (State.sharing_owner ..)).trans (by decide)
  have hline : s.enterLine ((s.ownerOfAddr oddAddr).getD 64) (oddAddr / 128) 0 none = s :=
    State.enterLine_wayless rfl (by rw [howner]; rfl) _ _
  have hq : ((s.enterLine ((s.ownerOfAddr oddAddr).getD 64) (oddAddr / 128) 0 none).mem.seqs.getD oddAddr
      { size := atomSize 2, next := 0, count := 30, buf := [] }) = oddSeq := by rw [hline]; rfl
  have hwait : (((oddWaiting [oddReq]).sharing true b).ordered 0) = (match s.ordAct oddAddr 2 30 with
      | .fault => s.faultCtx 0 (s.sheafReport 0 0 memOrderIndex 0 0 0) none
      | .back => { s with mem := { s.mem with retries := s.mem.retries ++ [oddReq] } }
      | .buffer =>
        let s := s.enterLine ((s.ownerOfAddr oddAddr).getD 64) (oddAddr / 128) 0 none
        let q := s.mem.seqs.getD oddAddr { size := atomSize 2, next := 0, count := 30, buf := [] }
        { s with mem := { s.mem with seqs := s.mem.seqs.put oddAddr { q with buf := q.buf.put 2 (2, 0) } } }
      | .apply =>
        let s := s.enterLine ((s.ownerOfAddr oddAddr).getD 64) (oddAddr / 128) 0 none
        let q := s.mem.seqs.getD oddAddr { size := atomSize 2, next := 0, count := 30, buf := [] }
        let s := s.addTo 2 oddAddr 0
        let s := { s with mem := { s.mem with seqs := s.mem.seqs.put oddAddr { q with next := 3 } } }
        (s.drainSeq oddAddr 16).closeSeq oddAddr) := rfl
  rw [hwait, hact]
  dsimp only
  rw [hq, hline]
  have hput : Map.get? ((s.addTo 2 oddAddr 0).mem.seqs.put oddAddr { oddSeq with next := 3 }) oddAddr = some { oddSeq with next := 3 } :=
    Map.get?_put_self ..
  refine ⟨(s.addTo 2 oddAddr 0).mem.seqs.put oddAddr { oddSeq with next := 3 }, ?_⟩
  rw [State.drainSeq_stop hput rfl, State.closeSeq_open hput (by decide)]

theorem leBytes_two (v : Nat) : ∃ c d, leBytes 2 v = [c, d] := ⟨_, _, rfl⟩

/-- Refutes O20: the contribution's write re-keys a burst that a partition's range shares, so a byte beside the element changes. -/
theorem not_orderedAccumulation : ¬ Obligations.OrderedAccumulation := by
  unfold Obligations.OrderedAccumulation
  intro h
  let b := ~~~(oddWaiting [oddReq]).oddOpen true
  let u := (oddWaiting []).sharing true b
  obtain ⟨t, ht, -, hw, -⟩ := (h.1 ((oddWaiting [oddReq]).sharing true b) 0 2 oddReq oddSeq (State.sharing_memOk ..) rfl rfl rfl rfl rfl rfl
    (by decide) rfl (by decide) (fun x hx => absurd hx List.not_mem_nil) rfl).1 rfl rfl rfl
  obtain ⟨sq, hsq⟩ := ordered_oddReq b
  obtain ⟨c, d, hcd⟩ := leBytes_two (atomNew 2 (u.readNat oddAddr (atomSize 2)) 0 0)
  have hadd : u.addTo 2 oddAddr 0 = (u.unsnoop oddAddr 2).pokeList oddAddr [c, d] := by rw [← hcd]; rfl
  have hlost : (u.addTo 2 oddAddr 0).Lost (oddCell true) := by
    rw [hadd]
    exact .pokeList_of (State.sharing_wf (oddWaiting []) true b) rfl (.inr (by simp [oddCell])) (by decide)
      (State.sharing_keyFits_other (oddWaiting []) true b rfl (by decide)) (by decide)
  have hbytes : (u.unsnoop oddAddr 2).OnlyBytes (u.addTo 2 oddAddr 0) := by rw [hadd]; exact State.onlyBytes_pokeList ..
  have htu := (Host.Outcome.next.inj ht).symm.trans hsq
  have hparts : u.truss.parts = [(1, oddPart)] := rfl
  have hboot : u.boot = State.reset.boot := rfl
  have hlen : ∀ v, (leBytes (atomSize 2) v).length = 2 := fun v => by simp [leBytes, atomSize]
  have hrange : oddCell true < oddAddr ∨ oddAddr + 2 ≤ oddCell true := by decide
  have hutruss : (u.unsnoop oddAddr 2).truss = u.truss := rfl
  have huboot : (u.unsnoop oddAddr 2).boot = u.boot := rfl
  generalize u.addTo 2 oddAddr 0 = v at htu hlost hbytes
  refine State.sharing_lost (oddWaiting [oddReq]) true (t := t) (State.sharing_byteAt ..) ?_ ?_ ?_ hw ?_
  · rw [htu]; exact hlost
  · rw [htu]; exact (congrArg Truss.parts (hbytes.truss.trans hutruss)).trans hparts
  · rw [htu]; exact (hbytes.boot.trans huboot).trans hboot
  · rw [hlen]; exact hrange

end Sys2Proof.Machine

/-! SUPPORT. A checkpoint stream into a burst that two owners share (R386, R425). -/

namespace Sys2Proof.Machine
open Sys2Proof.Claims

/-- One stream whose body is one byte, to be written at the start of the burst. -/
def oddRun : CkRun := { step := 0, slot := 0, body := [0], husks := [], localDone := false, buddyDone := false, abandoned := false }

def oddJob : Job :=
  { descJob 0 0 [] (hdrOf 0).1 with ckdesc := some { localA := ddrSpace, slotsz := 0, peer := 0, jrnl := 0, jdepth := 0 }, ckruns := [oddRun] }

def oddTraining : State := { State.reset with fns := [(0, { Fn.idle with jobs := [(0, oddJob)] })] }

/-- The state in which the header has been written after the body. -/
def State.streamed (s : State) : State := (s.writeObj oddAddr [0] 0 0).writeObj ddrSpace (ckHeader oddJob oddRun true) 0 0

theorem padTo_length (n : Nat) (bs : List Byte) : (padTo n bs).length = n := by
  induction n generalizing bs with
  | zero => rfl
  | succ n ih => cases bs <;> simp [padTo, ih]

theorem ckHeader_length (b : Job) (r : CkRun) : (ckHeader b r true).length = 4096 := padTo_length ..

theorem oddTraining_streamed (b : Byte) : (oddTraining.sharing true b).streamed.Lost (oddCell true) :=
  (State.Lost.writeObj_of (State.sharing_wf ..) rfl (.inr (by decide)) (by decide) (State.sharing_keyFits_other _ true _ (a := oddAddr) rfl (by decide)) (by decide) 0 0).writeObj
    (.inr (by rw [ckHeader_length]; decide)) 0 0

/-- The local stream writes body and header, and is done. -/
theorem State.checkpointDone_oddRun {s : State} (h : s.job 0 0 = some oddJob) : s.checkpointDone 0 0 false =
    (s.streamed.updJob 0 0 (fun b => { b with
      ckLastStep := 0, ckLastSlot := 0, ckruns := b.ckruns.map (fun (x : CkRun) => if x = oddRun then { x with localDone := true } else x) })).endRuns 0 0 := by
  have hrun : oddJob.ckruns.find? (fun (r : CkRun) => !(if false then r.buddyDone else r.localDone)) = some oddRun := rfl
  have hbody : ddrSpace + oddRun.slot * 0 + 4096 = oddAddr := rfl
  have hhead : ddrSpace + oddRun.slot * 0 = ddrSpace := rfl
  have hdesc : oddJob.ckdesc = some { localA := ddrSpace, slotsz := 0, peer := 0, jrnl := 0, jdepth := 0 } := rfl
  unfold State.checkpointDone
  rw [h]
  dsimp only
  rw [hrun, hdesc]
  dsimp only
  rw [if_neg (by decide), hbody, hhead]
  have hstream : ∀ u : State, State.streamed u = (u.writeObj oddAddr [0] 0 0).writeObj ddrSpace (ckHeader oddJob oddRun true) 0 0 := fun u => rfl
  have hbytes : oddRun.body = [0] := rfl
  have hhusks : oddRun.husks = [] := rfl
  have hstep : oddRun.step = 0 := rfl
  have hslot : oddRun.slot = 0 := rfl
  rw [hstream, hbytes, hhusks, hstep, hslot, List.foldl_nil]

/-- The end of runs takes the ended ones from the job; a job without PRE entries has nothing to clear. -/
theorem State.endRuns_spec {s : State} {b : Job} (h : s.job 0 0 = some b) : ∃ left, (s.endRuns 0 0).job 0 0 = some { b with ckruns := left } ∧
    (b.upd = [] → s.endRuns 0 0 = s.updJob 0 0 (fun b => { b with ckruns := left })) := by
  unfold State.endRuns
  rw [h]
  refine ⟨b.ckruns.filter (fun (r : CkRun) => !(r.localDone && r.buddyDone)), ?_, fun hu => ?_⟩
  rotate_left
  · dsimp only
    split
    · unfold State.clearPre; rw [hu]; rfl
    · rfl
  · have hj := State.job_updJob_self s 0 0 (fun c => { c with ckruns := b.ckruns.filter (fun (r : CkRun) => !(r.localDone && r.buddyDone)) })
    rw [h] at hj
    dsimp only
    split
    · rw [State.job, ← State.jobs, (State.onlyBytes_clearPre ..).jobs]; exact hj
    · exact hj

theorem State.onlyBytes_streamed (s : State) : s.OnlyBytes s.streamed := (s.onlyBytes_writeObj ..).trans (State.onlyBytes_writeObj ..)

theorem State.Lost.of_mem {s t : State} {k : Nat} (h : s.Lost k) (hm : t.mem = s.mem) : t.Lost k := by
  unfold State.Lost at h ⊢
  rw [hm]
  exact h

/-- Whatever state the runs end in, memory is that of the state in which they end. -/
theorem State.endRuns_mem {s t : State} {b c : Job} (hb : s.job 0 0 = some b) (hc : t.job 0 0 = some c) (hu : b.upd = [])
    (h : s.endRuns 0 0 = t.endRuns 0 0) : t.mem = s.mem ∧ t.truss = s.truss ∧ t.boot = s.boot := by
  obtain ⟨l, hl, hs⟩ := State.endRuns_spec hb
  obtain ⟨l', hl', ht⟩ := State.endRuns_spec hc
  have hcu : c.upd = [] := by
    rw [h, hl'] at hl
    rw [← hu]
    exact Option.some.inj (congrArg (Option.map Job.upd) hl)
  have heq := (ht hcu).symm.trans (h.symm.trans (hs hu))
  exact ⟨by simpa using congrArg State.mem heq, by simpa using congrArg State.truss heq, by simpa using congrArg State.boot heq⟩

/-- Refutes O41: the stream's body re-keys a burst that a partition's range shares, so a byte after the body changes. -/
theorem not_checkpoints : ¬ Obligations.Checkpoints := by
  rintro ⟨-, h, -⟩
  let b := ~~~oddTraining.oddOpen true
  let s := oddTraining.sharing true b
  have hjob : s.job 0 0 = some oddJob := rfl
  obtain ⟨u, b', hu, hj, -, -, -, hw⟩ := (h s 0 0 oddJob { localA := ddrSpace, slotsz := 0, peer := 0, jrnl := 0, jdepth := 0 } oddRun
    (by decide) (by decide) hjob rfl rfl).1 rfl (State.sharing_memOk ..) (by decide)
  have hbytes := s.onlyBytes_streamed
  have hstream : s.streamed.job 0 0 = some oddJob := by rw [State.job, State.fn, hbytes.fns]; exact hjob
  have hdone := (State.checkpointDone_oddRun hjob).symm.trans (Host.Outcome.next.inj hu)
  have hrun := State.job_updJob_self s.streamed 0 0 (fun b => { b with
      ckLastStep := 0, ckLastSlot := 0, ckruns := b.ckruns.map (fun (x : CkRun) => if x = oddRun then { x with localDone := true } else x) })
  rw [hstream] at hrun
  obtain ⟨hmem, htruss, hboot⟩ := State.endRuns_mem hrun hj rfl hdone
  rw [State.updJob_mem] at hmem
  rw [State.updJob_truss] at htruss
  rw [State.updJob_boot] at hboot
  have hlost : u.Lost (oddCell true) := (oddTraining_streamed b).of_mem hmem
  have hparts : s.truss.parts = [(1, oddPart)] := rfl
  refine State.sharing_lost oddTraining true (State.sharing_byteAt ..) hlost ((congrArg Truss.parts (htruss.trans hbytes.truss)).trans hparts)
    (hboot.trans hbytes.boot) hw (.inr ?_)
  rw [List.length_append, ckHeader_length]
  decide

end Sys2Proof.Machine

/-! SUPPORT. Entries that start (R315, R334), and a FILL of a burst that two owners share (R313, R425). -/

namespace Sys2Proof.Machine
open Sys2Proof.Claims

/-- An entry that may start executes, and its command acts. -/
theorem State.begin_go {s : State} {e : EntryRef} {x : QEntry} {opc : Nat} (h : s.Starts e x opc) (act : State → QEntry → State) :
    s.begin e opc act = act (s.begun e x) { x with st := .running } := by
  obtain ⟨-, hx, ho, hg⟩ := h
  unfold State.begin
  rw [hx]
  dsimp only
  rw [if_neg (by simp [ho]), hg]
  rfl

theorem State.Starts.exec {s : State} {e : EntryRef} {x : QEntry} {opc : Nat} (h : s.Starts e x opc) {c : Instr} (hc : c.wellFormed = e.ok)
    (act : State → QEntry → State) : done c (s.begin e opc act) = .next (act (s.begun e x) { x with st := .running }) := by
  rw [done_next (hc.trans h.1), State.begin_go h]

/-! ## A FILL in that burst -/

/-- FILL of 4 bytes at the start of the window. -/
def oddFill : QEntry :=
  { n := 0, bits := BitVec.ofNat 512 (3 + 17 * 2 ^ 21 + 31 * 2 ^ 57 + 2 ^ 192 * (0x100000 * 2 ^ 256 + 4 * 2 ^ 192)), jslot := none, step := 0, attempt := 0
    st := .waiting, posted := false, placed := [], ended := 0, waited := false, signalled := false, aborted := false, remote := none }

def oddEntry : EntryRef := { fn := 1, q := 0, n := 0 }

/-- A context of that partition with a window onto its DDR5 range, and the FILL in its function's queue 0. -/
def oddFilling : State :=
  { State.reset with
    mem := { State.reset.mem with chanCap := [(0, 0x8000000)] }
    tab := { spars := [], ctxs := [(17, { Ctx.idle with st := .defined, fn := 1, winCount := 1, resident := true })], stamp := 0 }
    fns := [(1, { Fn.idle with ready := true, enabled := true, queues := [(0, { Queue.idle with ctl := 1, entries := [oddFill] })] })]
    fab := { State.reset.fab with windows := [(0, { w0 := 0x20F, w1 := 0, w2 := 0x100000, w3 := BitVec.ofNat 64 ddrSpace, closing := false })] } }

/-- That device, with the byte before the range set. -/
def oddDevice : State := oddFilling.sharing false (~~~oddFilling.oddOpen false)

theorem oddDevice_starts : oddDevice.Starts oddEntry oddFill 0x03 := by unfold State.Starts; decide +kernel

theorem oddDevice_spans : (oddDevice.begun oddEntry oddFill).spans oddFill.ctx .w (oddFill.pay 319 256) (oddFill.pay 255 192) =
    some [⟨none, oddAddr + 1, oddFill.pay 255 192⟩] := by decide +kernel

theorem oddFill_len : oddFill.pay 255 192 = 4 := by decide +kernel

theorem State.onlyBytes_writeMarked (s : State) (a : Nat) (bs : List (Byte × Bool)) : s.OnlyBytes (s.writeMarked a bs) :=
  (s.onlyBytes_writeBytes ..).trans (.foldl (fun t _ => t.onlyBytes_pokeHusk ..) _ _)

/-- A FILL of one span of this device writes it and is over. -/
theorem exec_fill {s : State} {e : EntryRef} {x : QEntry} {d : Nat} (h : s.Starts e x 0x03)
    (hp : (s.begun e x).spans x.ctx .w (x.pay 319 256) (x.pay 255 192) = some [⟨none, d, x.pay 255 192⟩]) :
    exec (.fill e) s = .next (((s.begun e x).writeMarked d
      ((unmarked ((List.replicate (x.pay 255 192 / 4) (leBytes 4 (x.pay 191 160))).flatten)).take (x.pay 255 192))).ran e statusOk 0) := by
  refine (h.exec (c := .fill e) rfl _).trans (congrArg _ ?_)
  change (match (s.begun e x).spans x.ctx .w (x.pay 319 256) (x.pay 255 192) with
    | some ps => (s.begun e x).deliverTo e { x with st := .running } ps
      (unmarked ((List.replicate (x.pay 255 192 / 4) (leBytes 4 (x.pay 191 160))).flatten)) statusOk 0
    | none => (s.begun e x).windowFault e { x with st := .running }) = _
  rw [hp]
  rfl

theorem State.ran_mem (s : State) (e : EntryRef) (st : Status) (res : Nat) : (s.ran e st res).mem = s.mem := rfl

/-- Refutes O34: a FILL that begins in the middle of a burst drops the byte before it, which has another owner. -/
theorem not_copiesAndQueries : ¬ Obligations.CopiesAndQueries := by
  rintro ⟨h, -⟩
  obtain ⟨u, hw, hu⟩ := (h oddDevice oddEntry oddFill (State.sharing_memOk ..)).1 (oddAddr + 1) oddDevice_starts oddDevice_spans
    (by rw [oddFill_len]; decide) (by rw [oddFill_len]) (by rw [oddFill_len]; decide) (by decide)
  have hdone := Host.Outcome.next.inj ((exec_fill oddDevice_starts oddDevice_spans).symm.trans hu)
  rw [oddFill_len] at hdone hw
  have hflat : ∀ v, (List.replicate (4 / 4) (leBytes 4 v)).flatten = leBytes 4 v := fun v => by simp
  rw [hflat] at hdone hw
  obtain ⟨c, l, hc, hl⟩ : ∃ c l, leBytes 4 (oddFill.pay 191 160) = c :: l ∧ l.length = 3 := ⟨_, _, rfl, rfl⟩
  rw [hc] at hdone hw
  have hmem : (oddDevice.begun oddEntry oddFill).mem = oddDevice.mem := rfl
  have htruss : (oddDevice.begun oddEntry oddFill).truss = oddDevice.truss := rfl
  have hboot : (oddDevice.begun oddEntry oddFill).boot = oddDevice.boot := rfl
  generalize oddDevice.begun oddEntry oddFill = v at hdone hmem htruss hboot
  have hkey : v.keyFits (oddAddr + 1) = false := by
    rw [← State.sharing_keyFits_other oddFilling false (~~~oddFilling.oddOpen false) (a := oddAddr + 1) (by decide) (by decide)]
    unfold State.keyFits State.ownerOfAddr State.owner?
    rw [hmem, htruss, State.keyOf_of_boot hboot]
    rfl
  have hbs : ((unmarked (c :: l)).take 4).map (·.1) = c :: l := by
    rw [List.take_of_length_le (by simp [unmarked, hl]), unmarked, List.map_map]
    exact List.map_id _
  have hlost : (v.writeMarked (oddAddr + 1) ((unmarked (c :: l)).take 4)).Lost (oddCell false) := by
    unfold State.writeMarked
    rw [hbs]
    exact .foldl (fun t w ht => ht.pokeHusk ..) _ (.writeBytes_of (by rw [hmem]; exact State.sharing_wf ..) (by rw [hmem]; rfl) (.inl (by decide)) (by decide)
      hkey (by decide))
  have hbytes := v.onlyBytes_writeMarked (oddAddr + 1) ((unmarked (c :: l)).take 4)
  generalize v.writeMarked (oddAddr + 1) ((unmarked (c :: l)).take 4) = w at hdone hlost hbytes
  refine State.sharing_lost oddFilling false (t := u) (State.sharing_byteAt ..) (hlost.of_mem (congrArg State.mem hdone).symm) ?_ ?_ hw (.inl (by decide))
  · exact (congrArg Truss.parts ((congrArg State.truss hdone).symm.trans (hbytes.truss.trans htruss))).trans rfl
  · exact ((congrArg State.boot hdone).symm.trans (hbytes.boot.trans hboot)).trans rfl

end Sys2Proof.Machine

/-! SUPPORT. Parameter messages: what one of the current attempt does (R210, R237), and one into a burst that two owners share (R425). -/

namespace Sys2Proof.Machine
open Sys2Proof.Claims

/-- A gutter message for this device that keeps the rules reaches its job. -/
theorem State.gutter_in {s : State} {port type fn j : Nat} {m : Msg} {b : Job} (h : s.GutterIn port m type fn j b)
    (act : State → Nat → Nat → Job → GHdr → State) : s.gutter port m type act = act s fn j b (gHdrOf m) := by
  obtain ⟨⟨-, hdst, hcar, hleg, hop, -⟩, hbad, htype, hjob, -, hst, hspare⟩ := h
  have hq : (s.port port).st ≠ .quarantined := fun h => by rw [h] at hcar; exact absurd hcar (by decide)
  unfold State.gutter State.receive
  dsimp only
  rw [if_neg (by simp [hdst, hcar]), if_neg hq, if_neg (by simp [hleg]), if_neg (by simp [hop]), if_neg (by simp [hbad]), if_neg (by simp [htype]), hjob]
  dsimp only
  rw [if_neg hst, if_neg (by simp [hspare])]

/-- The state that a parameter chunk of the current attempt leaves, before it is passed on. -/
def State.paramPut (s : State) (port : Nat) (m : Msg) (fn j : Nat) (b : Job) (i : Nat) (e : UpdEntry) : State :=
  let h := gHdrOf m
  let s := (s.take port m).putParams fn j b i e h.chunk h.mask (msgBody m)
  let hash := chunkHash h.chunk b.step (s.readBytes (s.bufAddr e (1 - s.sel e) 0 + 2048 * (h.chunk - e.first)) 2048)
  s.updJob fn j (fun b => { b with paramHeld := h.chunk :: b.paramHeld, digest := (b.digest + hash) % 2 ^ 128 })

theorem State.aged_current {s : State} {port fn j : Nat} {m : Msg} {b : Job} {h : GHdr} (hage : b.age h = .current) (now : State → State) :
    s.aged port m fn j b h now = now s := by
  unfold State.aged
  rw [hage]

theorem exec_parameterMessage {s : State} {port fn j i o : Nat} {m : Msg} {b : Job} {e : UpdEntry} {own : Member}
    (hin : s.GutterIn port m 2 fn j b) (hage : b.age (gHdrOf m) = .current) (hupd : b.updOf (gHdrOf m).chunk = some (i, e))
    (how : b.owner b.me.group (gHdrOf m).chunk = some (o, own)) (hfl : b.flows = true) (hred : b.reduces (gHdrOf m).chunk = true) (ho : o ≠ b.myidx)
    (hheld : b.paramHeld.contains (gHdrOf m).chunk = false) (hrun : b.ckruns = []) (hemb : e.emb = false) (hbody : msgBody m ≠ []) :
    exec (.parameterMessage port m) s = .next (match b.next with
      | some (n, dest) => if n = o then s.paramPut port m fn j b i e
        else (s.paramPut port m fn j b i e).gutterSend fn j b (some (b.ringOf (gHdrOf m).chunk)) dest (gHdrOf m) (msgBody m)
      | none => s.paramPut port m fn j b i e) := by
  have hempty : (msgBody m).isEmpty = false := by simpa using hbody
  refine (done_next (c := .parameterMessage port m) (by simpa [Instr.wellFormed] using hin.1.1)).trans (congrArg _ ?_)
  rw [State.gutter_in hin]
  refine (State.aged_current hage _).trans ?_
  simp only [hupd, how]
  rw [if_neg (by simp [hfl, hred, ho, hrun, hemb, show (gHdrOf m).chunk ∉ b.paramHeld by simpa using hheld])]
  simp only [hempty, Bool.false_eq_true, if_false]
  unfold State.paramPut
  rfl

theorem State.take_same (s : State) (port : Nat) (m : Msg) : (s.take port m).mem = s.mem ∧ (s.take port m).truss = s.truss ∧
    (s.take port m).boot = s.boot := by
  unfold State.take
  dsimp only
  split
  · exact ⟨rfl, rfl, rfl⟩
  · split <;> exact ⟨rfl, rfl, rfl⟩

theorem State.byteAt_of_mem {s t : State} (h : t.mem = s.mem) (ht : t.truss = s.truss) (hb : t.boot = s.boot) (a : Nat) : t.byteAt a = s.byteAt a := by
  cases s; cases t; cases h; cases ht; cases hb; rfl

theorem State.keyFits_of_mem {s t : State} (h : t.mem = s.mem) (ht : t.truss = s.truss) (hb : t.boot = s.boot) (a : Nat) : t.keyFits a = s.keyFits a := by
  cases s; cases t; cases h; cases ht; cases hb; rfl

theorem State.provisional_of_mem {s t : State} (h : t.mem = s.mem) (ht : t.truss = s.truss) (hb : t.boot = s.boot) (e : UpdEntry) :
    t.bufAddr e (1 - t.sel e) 0 = s.bufAddr e (1 - s.sel e) 0 := by
  simp only [State.bufAddr, State.sel, State.readNat, State.readBytes, State.byteAt_of_mem h ht hb]

/-- Memory then holds the chunk in the provisional buffer set. -/
theorem State.paramPut_spec (s : State) (port : Nat) (m : Msg) (fn j : Nat) (b : Job) (i : Nat) {e : UpdEntry} (hemb : e.emb = false) :
    (s.paramPut port m fn j b i e).mem =
      ((s.take port m).writeCode (s.bufAddr e (1 - s.sel e) 0 + 2048 * ((gHdrOf m).chunk - e.first)) (msgBody m)).mem ∧
    (s.paramPut port m fn j b i e).truss = s.truss ∧ (s.paramPut port m fn j b i e).boot = s.boot := by
  obtain ⟨hmem, htruss, hboot⟩ := s.take_same port m
  rw [← State.provisional_of_mem hmem htruss hboot]
  have hput : (s.take port m).putParams fn j b i e (gHdrOf m).chunk (gHdrOf m).mask (msgBody m) =
      (s.take port m).writeCode ((s.take port m).bufAddr e (1 - (s.take port m).sel e) 0 + 2048 * ((gHdrOf m).chunk - e.first)) (msgBody m) := by
    unfold State.putParams; rw [hemb]; rfl
  have hbytes := (s.take port m).onlyBytes_writeCode ((s.take port m).bufAddr e (1 - (s.take port m).sel e) 0 + 2048 * ((gHdrOf m).chunk - e.first)) (msgBody m)
  unfold State.paramPut
  dsimp only
  rw [hput, State.updJob_mem, State.updJob_truss, State.updJob_boot]
  exact ⟨rfl, hbytes.truss.trans htruss, hbytes.boot.trans hboot⟩

theorem State.Lost.writeCode_of {s : State} {k : Nat} (h : s.mem.mem.wf = true) (hd : s.mem.dlines = []) {a : Nat} {w : CodeWord} {ws : List CodeWord}
    (hne : k < a) (ha : isDdr a = true) (hf : s.keyFits a = false) (hb : a / 64 = k / 64) : (s.writeCode a (w :: ws)).Lost k := by
  obtain ⟨c, l, hl⟩ : ∃ c l, wordBytes (w :: ws) = c :: l := ⟨_, _, rfl⟩
  unfold State.writeCode
  rw [hl]
  exact .foldl (fun t n ht => .foldl (fun t w ht => ht.pokeHusk ..) _ ht) _ (.writeBytes_of h hd (.inl hne) ha hf hb)

/-! ## A parameter chunk in that burst -/

def oddMember (k : Nat) : Member := { first := k, nchunk := 1, devid := 0, group := 0, ridx := k, spare := false, expelled := false }

/-- An entry for chunk 1, whose buffers the view at address 0 names. -/
def oddUpd : UpdEntry :=
  { first := 1, nchunk := 1, rule := 0, nest := false, bc := false, emb := false, stbf16 := false, cord := false, csign := false, cden := 0, ns := 0
    rowlog := 0, layer := 0, tid := 0, start := 0, eta := 0, lambda := 0, beta1 := 0, beta2 := 0, eps := 0, view := 0, ctlen := 0, aux := 0 }

def oddTrained : Job := { descJob 0 0 [oddMember 0, oddMember 1] (hdrOf 0).1 with job := 9, upd := [oddUpd] }

/-- The owner of chunk 1 sends it in the current attempt. -/
def oddMsg : Msg :=
  { emptyMsg with op := 0x20, len := 130, cls := 2, dstdev := 2,
                  words := [cleanWord (2 + 9 * 2 ^ 8 + 2 ^ 64), cleanWord 0] ++ List.replicate 128 (cleanWord 0) }

/-- The device of the job; its buffer lies 8 bytes into the burst. -/
def oddReceiver : State :=
  { State.reset with
    fns := [(0, { Fn.idle with jobs := [(0, oddTrained)] })]
    fab := { State.reset.fab with devid := 2, ports := [(0, { Port.idle with st := .up, enable := true })] } }

def oddLow : List Host.Cell := [(56, 8), (57, 16), (61, 16)]

def oddChunk : State :=
  let s := oddReceiver.sharing false (~~~oddReceiver.oddOpen false)
  { s with mem := { s.mem with mem := { s.mem.mem with cells := oddLow ++ s.mem.mem.cells } } }

theorem oddChunk_in : oddChunk.GutterIn 0 oddMsg 2 0 0 oddTrained := by unfold State.GutterIn State.Arrived; decide +kernel

theorem oddChunk_memOk : oddChunk.memOk := by unfold State.memOk; decide +kernel

theorem oddChunk_buf : oddChunk.bufAddr oddUpd (1 - oddChunk.sel oddUpd) 0 = oddAddr + 8 := by decide +kernel

theorem oddChunk_keyFits_of (a : Nat) : oddChunk.keyFits a = (oddReceiver.sharing false (~~~oddReceiver.oddOpen false)).keyFits a := rfl

theorem oddChunk_byteAt : oddChunk.byteAt (oddCell false) = ~~~oddReceiver.oddOpen false := by
  have hlines : oddChunk.mem.dlines = [] := rfl
  have hcells : oddChunk.mem.mem.cells = oddLow ++ [(oddCell false, ~~~oddReceiver.oddOpen false)] := rfl
  simp only [State.byteAt, State.memByte, hlines, hcells, oddCell_isDdr, oddChunk_keyFits_of, State.sharing_keyFits, Map.get?_nil, if_true]
  rfl

theorem oddChunk_keyFits : oddChunk.keyFits (oddAddr + 8) = false :=
  (oddChunk_keyFits_of _).trans (State.sharing_keyFits_other _ false _ (by decide) (by decide))

/-- Refutes O25: the chunk re-keys a burst that its buffer shares with the byte before the range, so that byte changes. -/
theorem not_gutterMessages : ¬ Obligations.GutterMessages := by
  rintro ⟨-, h⟩
  have hin := oddChunk_in
  have hage : oddTrained.age (gHdrOf oddMsg) = .current := by decide +kernel
  have hchunk : (gHdrOf oddMsg).chunk = 1 := by decide +kernel
  have hupd : oddTrained.updOf (gHdrOf oddMsg).chunk = some (0, oddUpd) := by decide +kernel
  have how : oddTrained.owner oddTrained.me.group (gHdrOf oddMsg).chunk = some (1, oddMember 1) := by decide +kernel
  have hred : oddTrained.reduces (gHdrOf oddMsg).chunk = true := by decide +kernel
  have hheld : oddTrained.paramHeld.contains (gHdrOf oddMsg).chunk = false := rfl
  have hlen : (msgBody oddMsg).length = 128 := by decide +kernel
  have hnext : oddTrained.next = some (1, oddMember 1) := by decide +kernel
  have hw : oddChunk.bufAddr oddUpd (1 - oddChunk.sel oddUpd) 0 + 2048 * ((gHdrOf oddMsg).chunk - oddUpd.first) = oddAddr + 8 := by
    rw [oddChunk_buf, hchunk]; rfl
  obtain ⟨u, b', hwrote, -, -, -, hu⟩ := h oddChunk 0 oddMsg 0 0 0 1 oddTrained oddUpd (oddMember 1) hin hage hupd how rfl hred (by decide) hheld rfl rfl hlen
    oddChunk_memOk (by rw [hw]; decide) (.inl (by rw [hw]; decide)) (by decide)
  rw [hw] at hwrote
  have hbody : msgBody oddMsg ≠ [] := fun h => by rw [h] at hlen; cases hlen
  have hdone := Host.Outcome.next.inj
    ((exec_parameterMessage hin hage hupd how rfl hred (by decide) hheld rfl rfl hbody).symm.trans hu)
  simp only [hnext, if_pos] at hdone
  obtain ⟨hmem, htruss, hboot⟩ := oddChunk.paramPut_spec 0 oddMsg 0 0 oddTrained 0 (e := oddUpd) rfl
  obtain ⟨hmem', htruss', hboot'⟩ := oddChunk.take_same 0 oddMsg
  rw [hdone] at hmem htruss hboot
  obtain ⟨w, ws, hws⟩ := List.exists_cons_of_ne_nil hbody
  rw [hw, hws] at hmem
  have hkey : (oddChunk.take 0 oddMsg).keyFits (oddAddr + 8) = false := by
    rw [← oddChunk_keyFits]
    exact State.keyFits_of_mem hmem' htruss' hboot' _
  have hlost := State.Lost.writeCode_of (s := oddChunk.take 0 oddMsg) (k := oddCell false) (a := oddAddr + 8) (w := w) (ws := ws)
    (by rw [hmem']; exact oddChunk_memOk.1) (by rw [hmem']; rfl) (by decide) (by decide) hkey (by decide)
  exact State.sharing_lost oddReceiver false (t := u) oddChunk_byteAt (hlost.of_mem hmem) (by rw [htruss]; rfl) hboot hwrote (.inl (by decide))

end Sys2Proof.Machine

/-! SUPPORT. Repair of the grid (R21, R23, R78, R82, R364): emptied cores, gangs of a region, and the status of a reshape. -/

namespace Sys2Proof.Machine
open Sys2Proof.Claims

theorem Map.get?_filter_key {α : Type} (p : Nat → Bool) (m : Map α) (k : Nat) :
    Map.get? (m.filter (fun g => p g.1)) k = if p k then Map.get? m k else none := by
  induction m with
  | nil => simp [Map.get?]
  | cons x m ih =>
    by_cases hx : p x.1 = true
    · rw [List.filter_cons_of_pos (by exact hx), Map.get?, Map.get?, ih]
      by_cases hk : x.1 = k
      · subst hk; simp [hx]
      · rw [if_neg hk, if_neg hk]
    · rw [List.filter_cons_of_neg (by exact hx), ih, Map.get?]
      by_cases hk : x.1 = k
      · subst hk; simp [hx]
      · rw [if_neg hk]

/-! ## Cores that a row shift empties -/

/-- Local store, near-core cache and registers are empty. -/
def Core.Blank (c : Core) : Prop :=
  c.ls = [] ∧ c.lines = [] ∧ ∀ j sl, c.slots.get? j = some sl → ∀ m, (sl.thread m).g = [] ∧ sl.u = []

def Slot.emptied (sl : Slot) : Slot := { sl with u := [], threads := sl.threads.map (fun t => (t.1, { t.2 with g := [], p := 0 })) }

theorem Core.emptied_blank (c : Core) : c.emptied.Blank := by
  refine ⟨rfl, rfl, fun j sl h m => ?_⟩
  have h := (Map.get?_map Slot.emptied c.slots j).symm.trans h
  obtain ⟨sl', -, rfl⟩ := Option.map_eq_some_iff.1 h
  refine ⟨?_, rfl⟩
  rw [Slot.thread, Slot.emptied, Map.getD_map (fun t : Thread => { t with g := [], p := 0 }) _ _ _ rfl]

/-- What the shift does to one core that moves. -/
def State.emptyCore (s : State) (n : Nat) : State := if (s.grid.cores.get? n).isSome then s.updCore n Core.emptied else s

theorem State.emptyCore_core (s : State) (n k : Nat) :
    (k ≠ n → (s.emptyCore n).core k = s.core k) ∧ (k = n ∨ (s.core k).Blank → ((s.emptyCore n).core k).Blank) := by
  unfold State.emptyCore
  split
  · rw [State.core_updCore]
    refine ⟨fun h => if_neg h, fun h => ?_⟩
    split
    · exact Core.emptied_blank _
    · next hk => exact h.resolve_left hk
  · next hn =>
    refine ⟨fun _ => rfl, fun h => h.elim (fun h => ?_) id⟩
    subst h
    have : s.core k = Core.idle := by
      rw [State.core, Map.getD, Option.not_isSome_iff_eq_none.1 hn]
    rw [this]
    exact ⟨rfl, rfl, fun j sl h => by simp [Core.idle, Map.get?] at h⟩

/-- The cores that move are left empty, every other core is left alone. -/
theorem State.emptyCores_core (l : List Nat) (s : State) (k : Nat) :
    (k ∉ l → (l.foldl State.emptyCore s).core k = s.core k) ∧
    (k ∈ l ∨ (s.core k).Blank → ((l.foldl State.emptyCore s).core k).Blank) := by
  induction l generalizing s with
  | nil => exact ⟨fun _ => rfl, fun h => h.resolve_left List.not_mem_nil⟩
  | cons n l ih =>
    obtain ⟨hother, hblank⟩ := s.emptyCore_core n k
    obtain ⟨ihother, ihblank⟩ := ih (s.emptyCore n)
    refine ⟨fun h => ?_, fun h => ihblank ?_⟩
    · rw [List.mem_cons, not_or] at h
      exact (ihother h.2).trans (hother h.1)
    · rw [List.mem_cons] at h
      rcases h with (h | h) | h
      · exact .inr (hblank (.inl h))
      · exact .inl h
      · exact .inr (hblank (.inr h))

theorem State.emptyCores_rest (l : List Nat) (s : State) : (l.foldl State.emptyCore s).courses = s.courses ∧
    (l.foldl State.emptyCore s).truss = s.truss ∧ (l.foldl State.emptyCore s).grid.retires = s.grid.retires := by
  have h (s : State) (n : Nat) : (s.emptyCore n).courses = s.courses ∧ (s.emptyCore n).truss = s.truss ∧
      (s.emptyCore n).grid.retires = s.grid.retires := by
    unfold State.emptyCore; split <;> exact ⟨rfl, rfl, rfl⟩
  exact ⟨foldl_keeps State.courses (fun t n => (h t n).1) l s, foldl_keeps State.truss (fun t n => (h t n).2.1) l s,
    foldl_keeps (fun t => t.grid.retires) (fun t n => (h t n).2.2) l s⟩

theorem coreAt_inj {course row a b : Nat} (ha : a < 32) (hb : b < 32) (h : coreAt course row a = coreAt course row b) : a = b := by
  unfold coreAt at h; omega

theorem State.onlyReporting_rest {s t : State} (h : s.OnlyReporting t) : t.courses = s.courses ∧ t.truss = s.truss ∧ t.grid = s.grid ∧ t.tab = s.tab := by
  obtain ⟨_, _, _, _, _, rfl⟩ := h
  exact ⟨rfl, rfl, rfl, rfl⟩

/-- The cores of a row from the retired column on. -/
def movedCores (course row col : Nat) : List Nat := ((List.range 32).filter (fun k => decide (col ≤ k))).map (fun k => coreAt course row k)

theorem mem_movedCores {course row col k : Nat} (hk : k < 32) : coreAt course row k ∈ movedCores course row col ↔ col ≤ k := by
  simp only [movedCores, List.mem_map, List.mem_filter, List.mem_range, decide_eq_true_eq]
  exact ⟨fun ⟨x, hx, h⟩ => coreAt_inj hx.1 hk h ▸ hx.2, fun h => ⟨k, ⟨hk, h⟩, rfl⟩⟩

theorem State.nextReshapes_none {s : State} {tract : Nat} (h : s.grid.reshapes.find? (fun r => r.tract == tract) = none) (fuel : Nat) :
    s.nextReshapes tract fuel = s := by
  induction fuel with
  | zero => rfl
  | succ n ih =>
    have hone : s.nextReshape tract = s := by unfold State.nextReshape; rw [h]
    rw [State.nextReshapes, hone, ih]

/-- The state of a shift that begins, its record made. -/
def State.shifted (s : State) (course row : Nat) (r : Retire) : State :=
  let s := s.journal ((s.ownerOfCourse course).getD 0) 2 5 r.core (BitVec.ofNat 128 (course + 2 ^ 16 * row + 2 ^ 32 * r.col))
  let s := s.updCourse course (fun c => { c with retired := c.retired.put row r.col })
  let s := (movedCores course row r.col).foldl State.emptyCore s
  { s with grid := { s.grid with retires := s.grid.retires.map (fun (x : Retire) => if x = r then { x with shifting := true } else x) } }

theorem exec_rowShift {s : State} {course row : Nat} {r : Retire} (hcourse : course < 1024) (hrow : row < 256)
    (hr : s.grid.retires.find? (fun r => r.course == course && r.row == row && r.due && !r.shifting) = some r)
    (hpower : (s.course course).power ≠ .off) : ∃ rep, exec (.rowShift course row) s = .next ((s.record rep).shifted course row r) := by
  refine ⟨{ s.gridReport r.core gngCoreRetired (leBytes 4 r.core ++ leBytes 4 r.tract ++ leBytes 2 r.cause.toNat) with fn := r.fn },
    (done_next (c := .rowShift course row) (by simp [Instr.wellFormed, hcourse, hrow])).trans (congrArg _ ?_)⟩
  rw [hr]
  exact if_neg hpower

theorem rowShift : Sys2Proof.Claims.RowShift := by
  refine fun s course row r hcourse hrow => ⟨fun hr hpower _ _ => ?_, fun hr hreshapes => ?_⟩
  · obtain ⟨rep, hexec⟩ := exec_rowShift hcourse hrow hr hpower
    obtain ⟨hcourses, htruss, hgrid, -⟩ := State.onlyReporting_rest (s.onlyReporting_record rep)
    generalize s.record rep = u at hexec hcourses htruss hgrid
    obtain ⟨hc, ht, hg⟩ := State.emptyCores_rest (movedCores course row r.col)
      ((u.journal ((u.ownerOfCourse course).getD 0) 2 5 r.core (BitVec.ofNat 128 (course + 2 ^ 16 * row + 2 ^ 32 * r.col))).updCourse course
        (fun c => { c with retired := c.retired.put row r.col }))
    have hcore := fun k => State.emptyCores_core (movedCores course row r.col)
      ((u.journal ((u.ownerOfCourse course).getD 0) 2 5 r.core (BitVec.ofNat 128 (course + 2 ^ 16 * row + 2 ^ 32 * r.col))).updCourse course
        (fun c => { c with retired := c.retired.put row r.col })) k
    have hcourse' : ((u.shifted course row r).course course) = { s.course course with retired := (s.course course).retired.put row r.col } := by
      have h : s.course course = u.course course := by rw [State.course, State.course, hcourses]
      rw [h]
      refine (congrArg (fun l => Map.getD l course Course.idle) hc).trans ?_
      exact State.course_updCourse_self _ course _
    have hjournal : (u.shifted course row r).truss.jcount = s.truss.jcount + 1 ∧
        ((u.shifted course row r).truss.journal.get? (s.truss.jcount % 4096)).map (fun j => (j.src, j.kind, j.detail)) = some (2, 5, r.core) := by
      refine ⟨(congrArg Truss.jcount ht).trans (congrArg (fun t : Truss => t.jcount + 1) htruss), ?_⟩
      rw [← htruss]
      refine (congrArg (fun t : Truss => (t.journal.get? _).map _) ht).trans ?_
      rw [State.updCourse_truss]
      simp only [State.journal, Map.get?_put_self, Option.map_some]
    refine ⟨_, hexec, by rw [hcourse'], by rw [hcourse'], fun col hcol hle => ?_, fun col hcol => ?_, ?_, hjournal⟩
    · exact (hcore _).2 (.inl ((mem_movedCores hcol).2 hle))
    · refine ((hcore _).1 (fun h => ?_)).trans ?_
      · rw [mem_movedCores (by omega)] at h; omega
      · rw [State.core, State.core, State.updCourse_grid]; exact congrArg (fun g : Grid => g.cores.getD _ Core.idle) hgrid
    · refine (congrArg (List.map _) hg).trans ?_
      rw [State.updCourse_grid]
      exact congrArg (fun g : Grid => g.retires.map _) hgrid
  · refine (done_next (c := .rowShiftDone course row) (by simp [Instr.wellFormed, hcourse, hrow])).trans (congrArg _ ?_)
    rw [hr]
    refine State.nextReshapes_none ?_ _
    rw [List.find?_eq_none]
    rwa [List.any_eq_false] at hreshapes

/-! ## The end of a reshape, and parity -/

/-- The status of a reshape reaches its thread or its queue entry. -/
theorem State.reshapeStatus_rest (s : State) (r : Reshape) (st : Status) :
    (s.reshapeStatus r st).truss = s.truss ∧ (s.reshapeStatus r st).mem = s.mem ∧ (s.reshapeStatus r st).tab = s.tab ∧
    (s.reshapeStatus r st).grid.shapes = s.grid.shapes ∧ (s.reshapeStatus r st).grid.reshapes = s.grid.reshapes ∧
    (s.reshapeStatus r st).grid.gangs = s.grid.gangs := by
  unfold State.reshapeStatus
  split
  · unfold State.updSlot
    split <;> exact ⟨rfl, rfl, rfl, rfl, rfl, rfl⟩
  · split
    · simp [State.updEntry]
    · exact ⟨rfl, rfl, rfl, rfl, rfl, rfl⟩

/-- What the completion leaves where no other request of the tract waits. -/
def State.reshaped (s : State) (tract : Nat) (r : Reshape) : State :=
  let gone := (s.regionGangs tract r.word).map (·.1)
  let t := { s with grid := { s.grid with
    gangs := s.grid.gangs.filter (fun g => !gone.contains g.1)
    shapes := s.grid.shapes.put tract r.word
    reshapes := s.grid.reshapes.filter (fun q => q != r) } }
  let t := t.updCourse (tract / 16) (fun c => { c with queue := c.queue.filter (fun q => !gone.contains q.gang) })
  (t.journal r.fn (if r.sheaf then 1 else 0) 4 tract (BitVec.ofNat 128 r.word.toNat)).reshapeStatus r statusOk

theorem exec_reshapeComplete {s : State} {tract : Nat} {r : Reshape} (htract : tract < 16384)
    (hr : s.grid.reshapes.find? (fun q => q.tract == tract && q.running) = some r) (hpower : (s.course (tract / 16)).power = .run)
    (hother : ∀ q ∈ s.grid.reshapes, q ≠ r → q.tract ≠ tract) : exec (.reshapeComplete tract) s = .next (s.reshaped tract r) := by
  refine (done_next (c := .reshapeComplete tract) (by simp [Instr.wellFormed, htract])).trans (congrArg _ ?_)
  unfold State.completeReshape
  rw [hr]
  refine (if_neg (by rw [hpower]; decide)).trans (State.nextReshapes_none (s := s.reshaped tract r) ?_ _)
  rw [List.find?_eq_none]
  intro q hq
  have hreshapes : (s.reshaped tract r).grid.reshapes = s.grid.reshapes.filter (fun q => q != r) := (State.reshapeStatus_rest _ r statusOk).2.2.2.2.1
  rw [hreshapes] at hq
  rw [List.mem_filter] at hq
  simpa using hother q hq.1 (by simpa using hq.2)

theorem State.mem_regionGangs (s : State) (tract : Nat) (new : DWord) (gid : Nat) :
    gid ∈ (s.regionGangs tract new).map (·.1) ↔ (tractOfCore gid = tract ∧ quadOf gid ∈ affectedQuads (s.shape tract) new) ∧ gid ∈ s.grid.gangs.map (·.1) := by
  simp only [State.regionGangs, List.mem_map, List.mem_filter, Bool.and_eq_true, beq_iff_eq, List.contains_eq_mem, decide_eq_true_eq]
  constructor
  · rintro ⟨g, ⟨hg, h⟩, rfl⟩; exact ⟨h, g, hg, rfl⟩
  · rintro ⟨h, g, hg, rfl⟩; exact ⟨g, ⟨hg, h⟩, rfl⟩

theorem State.reshaped_gang (s : State) (tract : Nat) (r : Reshape) (gid : Nat) : (s.reshaped tract r).gang gid =
    if tractOfCore gid = tract ∧ quadOf gid ∈ affectedQuads (s.shape tract) r.word then Gang.idle else s.gang gid := by
  have hgangs : (s.reshaped tract r).grid.gangs = s.grid.gangs.filter (fun g => !((s.regionGangs tract r.word).map (·.1)).contains g.1) :=
    (State.reshapeStatus_rest _ r statusOk).2.2.2.2.2
  rw [State.gang, hgangs, Map.getD, Map.get?_filter_key (fun k => !((s.regionGangs tract r.word).map (·.1)).contains k)]
  by_cases hmem : gid ∈ s.grid.gangs.map (·.1)
  · simp only [List.contains_eq_mem, State.mem_regionGangs, hmem, and_true]
    by_cases hin : tractOfCore gid = tract ∧ quadOf gid ∈ affectedQuads (s.shape tract) r.word
    · rw [if_pos hin, decide_eq_true hin]; rfl
    · rw [if_neg hin, decide_eq_false hin]; rfl
  · have hnone : Map.get? s.grid.gangs gid = none := by
      cases h : Map.get? s.grid.gangs gid with
      | none => rfl
      | some g => exact absurd (List.mem_map_of_mem (f := (·.1)) (Map.mem_of_get? h)) hmem
    rw [State.gang, Map.getD, hnone, ite_self, ite_self]

theorem reshapeCompletes : Sys2Proof.Claims.ReshapeCompletes := by
  refine fun s tract r htract hr hpower hother _ => ⟨_, exec_reshapeComplete htract hr hpower hother, ?_⟩
  let v := ({ s with grid := { s.grid with
    gangs := s.grid.gangs.filter (fun g => !((s.regionGangs tract r.word).map (·.1)).contains g.1)
    shapes := s.grid.shapes.put tract r.word
    reshapes := s.grid.reshapes.filter (fun q => q != r) } } : State)
  let u := (v.updCourse (tract / 16) (fun c => { c with queue := c.queue.filter (fun q => !((s.regionGangs tract r.word).map (·.1)).contains q.gang) })).journal
    r.fn (if r.sheaf then 1 else 0) 4 tract (BitVec.ofNat 128 r.word.toNat)
  have hreshaped : s.reshaped tract r = u.reshapeStatus r statusOk := rfl
  obtain ⟨htruss, hmem, htab, hshapes, hreshapes, -⟩ := u.reshapeStatus_rest r statusOk
  refine ⟨by rw [hreshaped, hshapes]; rfl, by rw [hreshaped, hreshapes]; rfl, fun gid => ?_, by rw [hreshaped, htruss]; rfl, ?_, fun hsheaf sl hsl => ?_,
    by rw [hreshaped, hmem]; rfl, by rw [hreshaped, htab]; rfl⟩
  · rw [State.reshaped_gang]
    exact ⟨fun h => if_pos h, fun h => if_neg h⟩
  · rw [hreshaped, htruss]
    simp only [u, State.journal, State.updCourse_truss, v, Map.get?_put_self, Option.map_some]
  · have hslot : u.slot r.core r.slot = some sl := hsl
    rw [hreshaped, State.reshapeStatus, if_pos hsheaf, State.slot_updSlot, if_pos ⟨rfl, rfl⟩, hslot]
    rfl

theorem gangParity : Sys2Proof.Claims.GangParity := by
  intro s gid core part rows cols ctx hgid hcore hpart hdims hpos hctx hst
  let f : Gang → Gang := fun g => { g with
    edge := [], rows := [], cols := [], cells := [], acceptedA := (0, 0), acceptedB := (0, 0), cleared := (0, 0), coreClear := [] }
  let rep := s.gridReport core gngParity (leBytes 4 core ++ leBytes 4 part)
  have hexec : exec (.gangParityError gid core part) s = .next ((s.updGang gid f).faultCtx ctx rep none) := by
    refine (done_next (c := .gangParityError gid core part) (by simp [Instr.wellFormed, hgid, show core < coreCount from hcore, hpart, -Nat.reducePow])).trans (congrArg _ ?_)
    rw [hdims]
    refine (if_neg (by simp [Option.isSome_iff_ne_none.1 hpos])).trans ?_
    rw [hctx]
  have hst' : ((s.updGang gid f).ctx ctx).st = .defined := hst
  have hfault : (s.updGang gid f).faultCtx ctx rep none =
      ((s.updGang gid f).record { rep with ctx := some ctx, fn := (s.ctx ctx).fn }).updCtx ctx
        (fun c => { c with st := .faulted, fault := rep.status, aborting := true }) := by
    simp only [State.faultCtx, hst']
    rfl
  refine ⟨_, hexec, ?_, fun k hk => ?_, ?_, ?_, fun c hc => ?_⟩
  · rw [hfault, State.gang, State.updCtx_grid, State.record_grid]
    exact State.gang_updGang_self s gid f
  · rw [hfault, State.gang, State.updCtx_grid, State.record_grid]
    exact (State.gang_updGang s gid k f).trans (if_neg hk)
  · rw [hfault, State.ctx_updCtx, if_pos rfl]
  · rw [hfault, State.ctx_updCtx, if_pos rfl]; rfl
  · rw [hfault, State.ctx_updCtx, if_neg hc, State.ctx_record]; rfl

/-- Settles O18, from `rowShift`, `reshapeCompletes` and `gangParity`. -/
theorem gridRepair : Obligations.GridRepair := ⟨rowShift, reshapeCompletes, gangParity⟩

end Sys2Proof.Machine

/-! SUPPORT. The gate of an entry, its end without running, and the commands that start at once (R313 to R316). -/

namespace Sys2Proof.Machine
open Sys2Proof.Claims

/-! ## The gate -/

section

variable {s : State} {e : EntryRef} {x : QEntry}

/-- An entry whose queue, turn or step keeps it waits. -/
theorem State.gate_closed (h : ¬(s.queueRuns e ∧ (s.queue e.fn e.q).turn x = true ∧ s.stepRuns e.fn x = true ∧ x.st = .waiting ∧ (s.ctx x.ctx).aborting = false)) :
    s.gate e x = .stay := by
  unfold State.gate
  dsimp only
  split
  · rfl
  · next hrun =>
    refine if_pos (Classical.byContradiction fun hab => h ?_)
    simp only [not_or, ne_eq, Classical.not_not, Bool.not_eq_true, Bool.not_eq_false'] at hrun
    obtain ⟨hst, hen, herr, htear, hready, hturn, hstep⟩ := hrun
    exact ⟨⟨hen, herr, htear, hready⟩, hturn, hstep, hst, by simpa using hab⟩

/-- Any other entry depends on its context, its slot and its spar. -/
theorem State.gate_open (h : s.queueRuns e ∧ (s.queue e.fn e.q).turn x = true ∧ s.stepRuns e.fn x = true ∧ x.st = .waiting ∧ (s.ctx x.ctx).aborting = false)
    (hc : x.opc ≠ 0x10) (hr : x.opc ≠ 0x12) (hq : x.opc ≠ 0x1A) :
    s.gate e x = match (s.ctx x.ctx).st.refusal with
      | some st => .refuse st
      | none => if s.needsSlot e.fn x && !s.seated x.ctx then .stay else s.waitGate x := by
  obtain ⟨⟨hen, herr, htear, hready⟩, hturn, hstep, hst, hab⟩ := h
  unfold State.gate
  dsimp only
  rw [if_neg (by simp [hen, herr, htear, hready, hturn, hstep, hst]), if_neg (by simp [hab]),
    if_neg (show ¬(x.opc == 0x10 || x.opc == 0x12 || (x.opc == 0x1A && decide ((s.ctx x.ctx).st = .faulted))) = true by simp [hc, hr, hq])] <;>
  rfl

theorem State.gate_refuse {st : Status} (h : s.gate e x = .refuse st) : s.queueRuns e :=
  Classical.byContradiction fun hn => by rw [State.gate_closed (fun h => hn h.1)] at h; cases h

theorem State.waitGate_off (h : x.waitEn = false) : s.waitGate x = .go := by unfold State.waitGate; rw [h]; rfl

theorem State.waitGate_spar {p k : Nat} (h : x.waitEn = true) (hp : s.translateSpar x.ctx (x.hdr 111 96) = .ok (p, k)) :
    s.waitGate x = if (s.spar p).aband then .refuse sprAbandoned else if x.hdr 191 128 ≤ (s.spar p).value.toNat then .go else .stay := by
  unfold State.waitGate; rw [h, hp]; rfl

end

/-! ## The end of an entry that has not run -/

theorem State.queue_updQueue_self (s : State) (fn q : Nat) (f : Queue → Queue) : (s.updQueue fn q f).queue fn q = f (s.queue fn q) := by
  unfold State.queue State.updQueue
  rw [fn_updFn, if_pos rfl, Map.getD_upd, if_pos rfl]

theorem Queue.trim_sub (q : Queue) : ∀ y ∈ q.trim.entries, y ∈ q.entries := fun _ hy => List.dropWhile_sublist _ |>.mem hy

theorem State.settleQueue_running {s : State} {fn q : Nat} (h : (s.queue fn q).err = false) : s.settleQueue fn q = s := by
  unfold State.settleQueue; simp [h]

/-- Posting an entry changes its queue only, and every entry that stays keeps its state. -/
theorem State.conclude_spec {s : State} {e : EntryRef} (h : (s.queue e.fn e.q).err = false) :
    (s.conclude e).mem = s.mem ∧ (s.conclude e).tab = s.tab ∧ (s.conclude e).grid = s.grid ∧
    ∀ y ∈ ((s.conclude e).queue e.fn e.q).entries, ∃ z ∈ (s.queue e.fn e.q).entries, y.n = z.n ∧ y.st = z.st ∧ y.signalled = z.signalled := by
  have hsame (t : State) (ht : t = s) : t.mem = s.mem ∧ t.tab = s.tab ∧ t.grid = s.grid ∧
      ∀ y ∈ (t.queue e.fn e.q).entries, ∃ z ∈ (s.queue e.fn e.q).entries, y.n = z.n ∧ y.st = z.st ∧ y.signalled = z.signalled := by
    subst ht; exact ⟨rfl, rfl, rfl, fun y hy => ⟨y, hy, rfl, rfl, rfl⟩⟩
  unfold State.conclude
  split
  · exact hsame _ rfl
  · split
    · split
      · unfold State.postAll
        rw [State.settleQueue_running (by rw [State.queue_updQueue_self]; exact h)]
        refine ⟨rfl, rfl, rfl, fun y hy => ?_⟩
        rw [State.queue_updQueue_self] at hy
        have hy := Queue.trim_sub _ y hy
        obtain ⟨z, hz, rfl⟩ := List.mem_map.1 hy
        refine ⟨z, hz, ?_⟩
        split <;> exact ⟨rfl, rfl, rfl⟩
      · exact hsame _ rfl
    · exact hsame _ rfl

/-- An entry that ends without running has the status it was given, and nothing but its queue changes. -/
theorem State.endUnrun_spec {s : State} {e : EntryRef} (h : (s.queue e.fn e.q).err = false) (st : Status) :
    (s.endUnrun e st).mem = s.mem ∧ (s.endUnrun e st).tab = s.tab ∧ (s.endUnrun e st).grid = s.grid ∧
    ∀ y, (s.endUnrun e st).entry e = some y → y.st = .done st 0 ∧ y.signalled = true := by
  obtain ⟨hmem, htab, hgrid, hentries⟩ := State.conclude_spec
    (s := s.updEntry e (fun x => { x with st := .done st 0, signalled := true })) (e := e) (by
      unfold State.updEntry; rw [State.queue_updQueue_self]; exact h)
  refine ⟨hmem, htab, hgrid, fun y hy => ?_⟩
  obtain ⟨z, hz, hn, hst, hsig⟩ := hentries y (List.mem_of_find?_eq_some hy)
  have hyn : y.n = e.n := by simpa using List.find?_some hy
  unfold State.updEntry at hz
  rw [State.queue_updQueue_self] at hz
  obtain ⟨w, -, rfl⟩ := List.mem_map.1 hz
  rw [hst, hsig]
  split
  · exact ⟨rfl, rfl⟩
  · next hw => rw [if_neg hw] at hn; exact absurd (hn.symm.trans hyn) hw

/-- A command whose entry waits changes nothing; one whose entry is refused ends it. -/
theorem State.begin_gate {s : State} {e : EntryRef} {x : QEntry} {opc : Nat} (hx : s.entry e = some x) (ho : x.opc = opc)
    (act : State → QEntry → State) : (s.gate e x = .stay → s.begin e opc act = s) ∧ ∀ st, s.gate e x = .refuse st → s.begin e opc act = s.endUnrun e st := by
  have h : s.begin e opc act = match s.gate e x with
      | .stay => s
      | .refuse st => s.endUnrun e st
      | .fault st => ((s.entryFault e x (queueReport e x st [])).updEntry e (fun y => { y with signalled := true })).conclude e
      | .go => act (s.begun e x) { x with st := .running } := by
    unfold State.begin
    rw [hx]
    exact if_neg (by simp [ho])
  exact ⟨fun hg => by rw [h, hg], fun st hg => by rw [h, hg]⟩

theorem entryGate : Sys2Proof.Claims.EntryGate := by
  constructor
  · intro s e x c open' hcreate hrecover hquery
    have hopen := fun h : open' => State.gate_open h hcreate hrecover hquery
    refine ⟨State.gate_closed, fun h hst => ?_, fun h hst => ?_, fun h hst => ?_, fun h hst hneed hseat => ?_, fun h hst hseat => ⟨fun hw => ?_, fun p k hw hp => ?_⟩⟩
    · rw [hopen h, show (s.ctx x.ctx).st = _ from hst]; rfl
    · rw [hopen h, show (s.ctx x.ctx).st = _ from hst]; rfl
    · rw [hopen h, show (s.ctx x.ctx).st = _ from hst]; rfl
    · rw [hopen h, show (s.ctx x.ctx).st = _ from hst]; exact if_pos (by simp [hneed, hseat])
    · rw [hopen h, show (s.ctx x.ctx).st = _ from hst]
      exact (if_neg (by simp [hseat])).trans (State.waitGate_off hw)
    · have hgate : s.gate e x = s.waitGate x := by
        rw [hopen h, show (s.ctx x.ctx).st = _ from hst]
        exact if_neg (by simp [hseat])
      rw [hgate, State.waitGate_spar hw hp]
      exact ⟨fun ha => by rw [ha]; rfl, fun ha => by rw [ha]; rfl⟩
  · intro s e x r hr hok hx hopc
    obtain ⟨act, hexec⟩ : ∃ act, exec (r.1 e) s = .next (s.begin e r.2 act) := by
      simp only [List.mem_cons, List.not_mem_nil, or_false] at hr
      rcases hr with rfl | rfl | rfl | rfl | rfl | rfl | rfl | rfl | rfl | rfl | rfl | rfl | rfl | rfl | rfl <;>
        exact ⟨_, done_next hok⟩
    obtain ⟨hstay, hrefuse⟩ := State.begin_gate hx hopc act
    refine ⟨fun hg => hexec.trans (congrArg _ (hstay hg)), fun st hg => ⟨_, hexec.trans (congrArg _ (hrefuse st hg)), ?_⟩⟩
    exact State.endUnrun_spec (State.gate_refuse hg).2.1 st

/-! ## Launches -/

/-- A launch keeps the rules of R314. -/
theorem State.launchBad_eq_false {s : State} {fn : Nat} {x : QEntry} {p : Part} (hp : s.part fn = some p) : s.launchBad fn x = false ↔
    (∀ n, x.lCore0 ≤ n → n < x.lCore0 + x.lCores → courseOfCore n ∈ p.courses ∧ s.fenced (tractOfCore n) = false ∧
      ∀ w, (s.core n).lsWin.get? x.ctx = some w → w = (x.lBase, x.lSize)) ∧
    0 < x.lSize ∧ x.lBase + x.lSize ≤ 64 ∧ ∃ k ∈ (s.ctx x.ctx).kernels, k.entry.toNat = x.lEntry := by
  let cores := (List.range x.lCores).map (· + x.lCore0)
  have hmem (n : Nat) : n ∈ cores ↔ x.lCore0 ≤ n ∧ n < x.lCore0 + x.lCores := by
    refine List.mem_map.trans ?_
    exact ⟨fun ⟨k, hk, h⟩ => by rw [List.mem_range] at hk; omega, fun h => ⟨n - x.lCore0, List.mem_range.2 (by omega), by omega⟩⟩
  have hpos : 0 < x.lCores := Nat.succ_pos _
  have hcourses : (List.range ((x.lCore0 + x.lCores - 1) / 1024 + 1 - x.lCore0 / 1024)).all (fun k => p.courses.contains (x.lCore0 / 1024 + k)) = true ↔
      ∀ n ∈ cores, courseOfCore n ∈ p.courses := by
    simp only [List.all_eq_true, List.mem_range, List.contains_eq_mem, decide_eq_true_eq, hmem, courseOfCore]
    constructor
    · intro h n hn
      have := h (n / 1024 - x.lCore0 / 1024) (by omega)
      rwa [show x.lCore0 / 1024 + (n / 1024 - x.lCore0 / 1024) = n / 1024 by omega] at this
    · intro h k hk
      by_cases hk0 : k = 0
      · subst hk0; exact h x.lCore0 ⟨Nat.le_refl _, by omega⟩
      · have := h (1024 * (x.lCore0 / 1024 + k)) (by omega)
        rwa [show 1024 * (x.lCore0 / 1024 + k) / 1024 = x.lCore0 / 1024 + k by omega] at this
  have hwin : (cores.any fun n => match (s.core n).lsWin.get? x.ctx with
      | some w => w != (x.lBase, x.lSize)
      | none => false) = false ↔ ∀ n ∈ cores, ∀ w, (s.core n).lsWin.get? x.ctx = some w → w = (x.lBase, x.lSize) := by
    rw [List.any_eq_false]
    refine forall₂_congr fun n _ => ?_
    cases (s.core n).lsWin.get? x.ctx <;> simp
  unfold State.launchBad
  dsimp only
  rw [hp, Bool.or_eq_false_iff, Bool.or_eq_false_iff, Bool.or_eq_false_iff, Bool.or_eq_false_iff, Bool.not_eq_false', Bool.not_eq_false', decide_eq_false_iff_not]
  change ((((_ = true ∧ cores.any _ = false) ∧ _) ∧ _) ∧ (cores.any fun n => _) = false) ↔ _
  refine (and_congr_right fun _ => hwin).trans ?_
  rw [hcourses, List.any_eq_false, List.any_eq_true]
  simp only [beq_iff_eq, Bool.not_eq_true, hmem, not_or, Nat.not_lt]
  constructor
  · rintro ⟨⟨⟨⟨hin, hfence⟩, hsize, hend⟩, hk⟩, hw⟩
    exact ⟨fun n h h' => ⟨hin n ⟨h, h'⟩, hfence n ⟨h, h'⟩, hw n ⟨h, h'⟩⟩, Nat.pos_of_ne_zero hsize, hend, hk⟩
  · rintro ⟨hall, hsize, hend, hk⟩
    exact ⟨⟨⟨⟨fun n h => (hall n h.1 h.2).1, fun n h => (hall n h.1 h.2).2.1⟩, Nat.ne_of_gt hsize, hend⟩, hk⟩, fun n h => (hall n h.1 h.2).2.2⟩

theorem State.ctx_begun (s : State) (e : EntryRef) (x : QEntry) : ((s.begun e x).ctx x.ctx).kernels = (s.ctx x.ctx).kernels := by
  have h : (s.begun e x).ctx x.ctx = if (s.ctx x.ctx).st = .free then s.ctx x.ctx else
      { s.ctx x.ctx with stamp := ((s.updEntry e (fun y => { y with st := .running })).tick).tab.stamp } := by
    unfold State.begun
    dsimp only
    rw [State.ctx_updCtx, if_pos rfl]
    rfl
  rw [h]
  split <;> rfl

theorem runCommands : Sys2Proof.Claims.RunCommands := by
  intro s e x b
  refine ⟨fun h => h.exec (c := .queueNop e) rfl _, fun p h hp => ?_, fun p h hp => ⟨fun k hk => ?_, fun hlen => ?_⟩, fun p k old t h hp hadd => ?_⟩
  · have hexec := h.exec (c := .launch e) rfl (fun s x => if s.launchBad e.fn x then s.ran e hqLaunchInvalid 0 else s)
    have hbad := State.launchBad_eq_false (s := s.begun e x) (fn := e.fn) (x := x) (p := p) hp
    rw [State.ctx_begun] at hbad
    refine ⟨fun hgood => hexec.trans (congrArg _ (if_neg ?_)), fun hgood => hexec.trans (congrArg _ (if_pos ?_))⟩
    · rw [Bool.not_eq_true]
      exact hbad.2 hgood
    · refine Classical.byContradiction fun hn => ?_
      exact hgood (hbad.1 (Bool.not_eq_true _ ▸ hn))
  · refine (h.exec (c := .reshape e) rfl _).trans (congrArg _ ?_)
    have hb : ((s.begun e x).part e.fn).bind (fun p => p.tracts[QEntry.pay { x with st := .running } 255 240]?) = some k :=
      (congrArg (Option.bind · _) (show (s.begun e x).part e.fn = some p from hp)).trans hk
    simp only [hb]
    rfl
  · refine (h.exec (c := .reshape e) rfl _).trans (congrArg _ ?_)
    have hb : ((s.begun e x).part e.fn).bind (fun p => p.tracts[QEntry.pay { x with st := .running } 255 240]?) = none :=
      (congrArg (Option.bind · _) (show (s.begun e x).part e.fn = some p from hp)).trans (List.getElem?_eq_none hlen)
    simp only [hb]
    rfl
  · refine (h.exec (c := .sparadd e) rfl _).trans (congrArg _ ?_)
    have hp' : (s.begun e x).translateSpar (QEntry.ctx { x with st := .running }) (QEntry.pay { x with st := .running } 255 240) = .ok (p, k) := hp
    have hadd' : (s.begun e x).addSpar p (BitVec.ofNat 64 (QEntry.pay { x with st := .running } 319 256)) = .ok (old, t) := hadd
    simp only [hp', hadd']

/-- Settles O33, from `entryGate` and `runCommands`. -/
theorem entriesRun : Obligations.EntriesRun := ⟨entryGate, runCommands⟩

end Sys2Proof.Machine

/-! SUPPORT. Functions that do not answer, and the registers of the queues (R308, R310 to R312). -/

namespace Sys2Proof.Machine
open Sys2Proof.Claims

/-! ## Functions that do not answer -/

theorem State.not_answers {s : State} {fn : Nat} (h : (s.fn fn).ready = false ∨ (s.fn fn).tearing = true ∨ (s.fn fn).erasing = true) :
    s.answers fn = false := by
  rcases h with h | h | h <;> simp [State.answers, h]

theorem State.onReg_silent {s : State} {fn : Nat} (h : s.answers fn = false) (act : State → State) : s.onReg fn act = s := if_neg (by simp [h])

theorem State.onRow_silent {s : State} {fn : Nat} (h : s.answers fn = false) (ok : Bool) (act : State → State) : s.onRow fn ok act = s := by
  rw [State.onRow, State.onReg_silent h, ite_self]

theorem silentFunctions : Sys2Proof.Claims.SilentFunctions := by
  intro s fn q ch index port target v x rid ide body hfn hq hch hindex hport htarget h
  have hsilent := State.not_answers h
  have hrow {c : Instr} (hc : c.wellFormed = true) {ok : Bool} {act : State → State} (he : exec c s = done c (s.onRow fn ok act)) : exec c s = .next s := by
    rw [he, done_next hc, State.onRow_silent hsilent]
  have hfn' : decide (fn < fnCount) = true := decide_eq_true hfn
  refine ⟨fun c hc => ?_, fun c hc => ?_, fun h0 => ?_, fun h0 happ hin => ?_, fun h0 => ⟨?_, ?_⟩⟩
  · simp only [List.mem_cons, List.not_mem_nil, or_false] at hc
    rcases hc with rfl | rfl | rfl | rfl | rfl | rfl | rfl | rfl | rfl | rfl | rfl | rfl | rfl | rfl | rfl | rfl | rfl | rfl | rfl | rfl | rfl | rfl |
      rfl | rfl | rfl <;>
      exact hrow (by simp only [Instr.wellFormed, hfn', hq, hch, true_or, decide_true, Bool.and_self]) rfl
  · simp only [List.mem_cons, List.not_mem_nil, or_false] at hc
    rcases hc with rfl | rfl | rfl | rfl | rfl | rfl | rfl | rfl | rfl | rfl | rfl | rfl | rfl
    case inr.inr.inr.inr.inr.inr.inr.inr.inr.inr.inr.inr =>
      exact (done_next (c := .splitWriteTimeout fn) hfn').trans (congrArg _ (State.onReg_silent hsilent id))
    all_goals exact hrow (by simp only [Instr.wellFormed, hfn', hindex, hport, show target < 64 from htarget, decide_true, Bool.and_self]) rfl
  · subst h0
    exact hrow rfl rfl
  · subst h0
    refine (done_next (c := .injPctlWrite 0 port v) (by simp [Instr.wellFormed, hport, fnCount])).trans (congrArg _ ?_)
    rw [if_neg (by simp [hsilent])]
    exact if_pos ⟨rfl, happ, hin, by omega, by omega⟩
  · refine (done_next (c := .injPctlWrite fn port v) (by simp [Instr.wellFormed, hport, hfn'])).trans (congrArg _ ?_)
    rw [if_neg (by simp [hsilent])]
    exact if_neg (fun h => h0 h.1)
  · refine (done_next (c := .injPseedWrite fn port v) (by simp [Instr.wellFormed, hport, hfn'])).trans (congrArg _ ?_)
    rw [if_neg (by simp [hsilent])]
    exact if_neg (fun h => h0 h.1)

/-! ## The configuration of a queue -/

/-- Masking with ones over a field keeps the field. -/
theorem field_and {v m : DWord} {hi lo : Nat} (h : field m.toNat hi lo = 2 ^ (hi + 1 - lo) - 1) : field (v &&& m).toNat hi lo = field v.toNat hi lo := by
  unfold field at h ⊢
  rw [BitVec.toNat_and, Nat.shiftRight_and_distrib, Nat.and_mod_two_pow, h, Nat.and_two_pow_sub_one_eq_mod, Nat.mod_mod]

theorem State.ringsBad_eq_false {s : State} {fn : Nat} {q : Queue} {v : DWord} : s.ringsBad fn q (ctlStored fn v) = false ↔
    field v.toNat 35 32 ≤ 12 ∧ field v.toNat 39 36 ≤ 12 ∧ q.sqbase.toNat % 64 = 0 ∧ q.cqbase.toNat % 16 = 0 ∧
      (v.getLsbD 1 = true → s.inPart fn q.sqbase.toNat 64 = true ∧ s.inPart fn q.cqbase.toNat 16 = true) := by
  have hsq : field (ctlStored fn v).toNat 35 32 = field v.toNat 35 32 := field_and (by split <;> decide)
  have hcq : field (ctlStored fn v).toNat 39 36 = field v.toNat 39 36 := field_and (by split <;> decide)
  have hloc : (ctlStored fn v).getLsbD 1 = v.getLsbD 1 := by
    rw [ctlStored, BitVec.getLsbD_and]
    split <;> simp
  rw [State.ringsBad, hsq, hcq, hloc, Bool.or_eq_false_iff, decide_eq_false_iff_not, Bool.and_eq_false_imp, Bool.not_eq_false', Bool.and_eq_true]
  simp only [not_or, Nat.not_lt, ne_eq, Classical.not_not, and_assoc]

section

variable {s : State} {fn n : Nat}

theorem State.queue_reached (s : State) (fn n : Nat) : (s.reached fn).queue fn n = s.queue fn n := by
  simp only [State.queue, State.fn_reached]

/-- An update depends on what it makes of the queue as it stands. -/
theorem State.updQueue_congr {f g : Queue → Queue} (h : f (s.queue fn n) = g (s.queue fn n)) : s.updQueue fn n f = s.updQueue fn n g := by
  have h' : (s.fn fn).queues.upd n Queue.idle f = (s.fn fn).queues.upd n Queue.idle g := by
    unfold Map.upd
    exact congrArg (Map.put _ n) h
  unfold State.updQueue State.updFn Map.upd
  dsimp only
  exact congrArg (fun qs => ({ s with fns := s.fns.put fn { s.fn fn with queues := qs } } : State)) h'

theorem State.queue_fireVec (s : State) (fn v n : Nat) : (s.fireVec fn v).queue fn n = s.queue fn n := by
  simp only [State.queue, State.fireVec, State.fn_updFn_self]

theorem State.queue_queueError (h : (s.queue fn n).err = false) (st : Status) :
    (s.queueError fn n st).queue fn n = { s.queue fn n with err := true, status := st } := by
  rw [State.queueError, if_neg (by simp [h]), State.queue_fireVec, State.queue_updQueue_self]

theorem State.flushPosts_nil (h : (s.queue fn n).posts = []) : s.flushPosts fn n = s := by
  unfold State.flushPosts; rw [h]; rfl

/-- A doorbell that is listened to moves its index inside the ring, and stops the queue outside. -/
theorem State.dbSq_spec (hq : s.hasQueue fn n = true) (hen : (s.queue fn n).en = true) (herr : (s.queue fn n).err = false)
    (ht : (s.fn fn).tearing = false) (x : Nat) :
    (x < (s.queue fn n).sqSize → ringDist (s.queue fn n).sqSize (s.queue fn n).sqhead (s.queue fn n).sqtail ≤
        ringDist (s.queue fn n).sqSize (s.queue fn n).sqhead x → s.dbSq fn n x = s.updQueue fn n (fun q => { q with sqtail := x })) ∧
    ((s.queue fn n).sqSize ≤ x → s.dbSq fn n x = s.queueError fn n hqDbRange) := by
  unfold State.dbSq
  dsimp only
  rw [if_neg (by simp [hq, hen, herr, ht])]
  exact ⟨fun h h' => if_neg (by omega), fun h => if_pos (.inl h)⟩

theorem State.dbCq_spec (hq : s.hasQueue fn n = true) (hen : (s.queue fn n).en = true) (herr : (s.queue fn n).err = false)
    (ht : (s.fn fn).tearing = false) (x : Nat) :
    (x < (s.queue fn n).cqSize → ringDist (s.queue fn n).cqSize (s.queue fn n).cqhead x ≤
        ringDist (s.queue fn n).cqSize (s.queue fn n).cqhead (s.queue fn n).cqtail → s.dbCq fn n x = s.updQueue fn n (fun q => { q with cqhead := x })) ∧
    ((s.queue fn n).cqSize ≤ x → s.dbCq fn n x = s.queueError fn n hqDbRange) := by
  unfold State.dbCq
  dsimp only
  rw [if_neg (by simp [hq, hen, herr, ht])]
  exact ⟨fun h h' => if_neg (by omega), fun h => if_pos (.inl h)⟩

/-- A doorbell of a disabled queue does nothing. -/
theorem State.doorbell_off (hen : (s.queue fn n).en = false) (x : Nat) : s.dbSq fn n x = s ∧ s.dbCq fn n x = s :=
  ⟨if_pos (by simp [hen]), if_pos (by simp [hen])⟩

end

theorem queueRegistersEach : Sys2Proof.Claims.QueueRegistersEach := by
  intro s fn n v x q w ctl sound ha hn hq
  have hwf : (decide (fn < fnCount) && decide (n < queueMax)) = true := by simp [ha.lt, hn]
  have hqueue : w.queue fn n = q := s.queue_reached fn n
  have hhas : w.hasQueue fn n = true := hq
  have ht : (w.fn fn).tearing = false := by rw [State.fn_reached]; exact ha.2.2.1
  have henable (hv : v.getLsbD 0 = true) : exec (.queueEnable fn n v) s = .next (w.writeHqCtl fn n v) := ha.row (c := .queueEnable fn n v) hwf hv _
  have hdisable (hv : v.getLsbD 0 = false) : exec (.queueDisable fn n v) s = .next (w.writeHqCtl fn n v) :=
    ha.row (c := .queueDisable fn n v) hwf (by rw [hv]; rfl) _
  have hsqdb : exec (.hqDbsq fn n x) s = .next (w.dbSq fn n x.toNat) := ha.row (c := .hqDbsq fn n x) hwf rfl _
  have hcqdb : exec (.hqDbcq fn n x) s = .next (w.dbCq fn n x.toNat) := ha.row (c := .hqDbcq fn n x) hwf rfl _
  have hsound : w.ringsBad fn q ctl = false ↔ sound := State.ringsBad_eq_false
  have hcursors : w.cursors fn = s.cursors fn := by simp only [State.cursors, w, State.fn_reached]
  have hwrite : w.writeHqCtl fn n v = if q.en then
      (if v.getLsbD 0 then w
      else if q.err then (w.updQueue fn n (fun q => { q with closing := true })).settleQueue fn n
      else if q.run then w.updQueue fn n (fun q => { q with status := hqQueueBusy })
      else (w.flushPosts fn n).updQueue fn n (fun q => { q.disable with status := statusOk }))
    else if !v.getLsbD 0 then w.updQueue fn n (fun q => { q with ctl := ctl })
    else if w.ringsBad fn q ctl then w.updQueue fn n (fun q => { q with ctl := ctl &&& ~~~(1 : DWord), status := hqCmdInvalid })
    else w.updQueue fn n (fun q => { Queue.idle with sqbase := q.sqbase, cqbase := q.cqbase, mod := q.mod, ctl := ctl, cursor := w.cursors fn }) := by
    unfold State.writeHqCtl
    dsimp only
    rw [if_neg (by simp [hhas]), hqueue]
    rfl
  refine ⟨fun hv hen hs => (henable hv).trans (congrArg _ ?_), fun hv hen hs => (henable hv).trans (congrArg _ ?_),
    fun hv hen => (henable hv).trans (congrArg _ ?_), fun hv hen herr hrun => (hdisable hv).trans (congrArg _ ?_),
    fun hv hen herr hrun hposts => (hdisable hv).trans (congrArg _ ?_), fun hen herr => ?_, fun hen => ?_⟩
  · rw [hwrite, if_neg (by simp [hen]), if_neg (by rw [hv]; decide), if_neg (by rw [hsound.2 hs]; decide), hcursors]
    exact State.updQueue_congr (by rw [hqueue])
  · rw [hwrite, if_neg (by simp [hen]), if_neg (by rw [hv]; decide), if_pos (by simpa using mt hsound.1 hs)]
  · rw [hwrite, if_pos hen, if_pos hv]
  · rw [hwrite, if_pos hen, if_neg (by rw [hv]; decide), if_neg (by simp [herr]), if_pos hrun]
  · rw [hwrite, if_pos hen, if_neg (by rw [hv]; decide), if_neg (by simp [herr]), if_neg (by simp [hrun]),
      State.flushPosts_nil (by rw [hqueue]; exact hposts)]
    rfl
  · have herror (u : State) (hu : u = w.queueError fn n hqDbRange) : u.queue fn n = { q with err := true, status := hqDbRange } := by
      rw [hu, State.queue_queueError (by rw [hqueue]; exact herr), hqueue]
    obtain ⟨hin, hout⟩ := State.dbSq_spec hhas (by rw [hqueue]; exact hen) (by rw [hqueue]; exact herr) ht x.toNat
    obtain ⟨hin', hout'⟩ := State.dbCq_spec hhas (by rw [hqueue]; exact hen) (by rw [hqueue]; exact herr) ht x.toNat
    rw [hqueue] at hin hout hin' hout'
    exact ⟨fun h h' => hsqdb.trans (congrArg _ (hin h h')), fun h => ⟨_, hsqdb, herror _ (hout h)⟩,
      fun h h' => hcqdb.trans (congrArg _ (hin' h h')), fun h => ⟨_, hcqdb, herror _ (hout' h)⟩⟩
  · obtain ⟨hsq, hcq⟩ := State.doorbell_off (s := w) (fn := fn) (n := n) (by rw [hqueue]; exact hen) x.toNat
    exact ⟨hsqdb.trans (congrArg _ hsq), hcqdb.trans (congrArg _ hcq)⟩

/-- Settles O38, from `silentFunctions` and `queueRegistersEach`. -/
theorem queueRegisters : Obligations.QueueRegisters := ⟨silentFunctions, queueRegistersEach⟩

end Sys2Proof.Machine

/-! SUPPORT. Answers, NAKs and timeouts at the source of a remote request (R257 to R261, R275). -/

namespace Sys2Proof.Machine
open Sys2Proof.Claims

section

variable {s : State} {port op : Nat} {m : Msg}

/-- A message that keeps the rules is taken without a count of bad words. -/
theorem State.Arrived.take (h : s.Arrived port m op) : s.take port m = s.took port m := by
  obtain ⟨-, -, -, -, -, hwords⟩ := h
  have hone : m.words.filter (fun (c : CodeWord) => match c.st with | .single => true | _ => false) = [] :=
    List.filter_eq_nil_iff.2 fun w hw => by rcases hwords w hw with h | h <;> simp [h]
  have hbad : m.words.filter (fun (c : CodeWord) => match c.st with | .bad _ => true | _ => false) = [] :=
    List.filter_eq_nil_iff.2 fun w hw => by rcases hwords w hw with h | h <;> simp [h]
  unfold State.take
  exact if_pos (congr (congrArg HAdd.hAdd (congrArg List.length hone)) (congrArg List.length hbad))

theorem State.Arrived.receive (h : s.Arrived port m op) (act : State → State) : s.receive port m op act = act s := by
  obtain ⟨-, hdst, hcar, hleg, hop, -⟩ := h
  have hq : (s.port port).st ≠ .quarantined := fun h => by rw [h] at hcar; exact absurd hcar (by decide)
  unfold State.receive
  dsimp only
  rw [if_neg (by simp [hdst, hcar]), if_neg hq, if_neg (by simp [hleg]), if_neg (by simp [hop])]

theorem State.Arrived.lt (h : s.Arrived port m op) : decide (port < 64) = true := decide_eq_true h.1

/-- An answer is matched to the request of a thread, or is late. -/
theorem State.Arrived.answered (h : s.Arrived port m op) (act : State → Remote → State) :
    (∀ e r, s.remoteOf m = some e → e.why = .thread r → r.slot < 4 → s.answered port m op act = act ((s.took port m).dropRemote e) e) ∧
    (s.remoteOf m = none → s.answered port m op act = (s.took port m).late port) := by
  unfold State.answered
  rw [h.receive, h.take]
  refine ⟨fun e r he hwhy hslot => ?_, fun he => by rw [he]⟩
  rw [he]
  exact if_pos (by simp [State.wanted, hwhy, hslot])

end

/-- The fault of a context that runs: it stops with the status of the report. -/
theorem State.ctx_faultCtx_of_defined {s : State} {n : Nat} (h : (s.ctx n).st = .defined) (rep : Report) (core : Option Nat) :
    ((s.faultCtx n rep core).ctx n).st = .faulted ∧ ((s.faultCtx n rep core).ctx n).fault = rep.status := by
  simp only [State.faultCtx, h]
  rw [State.ctx_updCtx, if_pos rfl]
  split <;> exact ⟨rfl, rfl⟩

theorem State.remoteFailed_thread {s : State} {e : Remote} {r : MemReq} (hwhy : e.why = .thread r) (hst : (s.ctx r.ctx).st = .defined) (st : Status)
    (port : Nat) : ((s.remoteFailed e st port).ctx r.ctx).st = .faulted ∧ ((s.remoteFailed e st port).ctx r.ctx).fault = st := by
  unfold State.remoteFailed
  rw [hwhy]
  exact State.ctx_faultCtx_of_defined hst _ none

/-- Clean words of a load enter the registers that await them. -/
theorem State.gotLoad_clean (s : State) (e : Remote) {r : MemReq} {ws : List CodeWord} (hnear : r.near = false) (hws : ∀ w ∈ ws, w.st = .clean) :
    s.gotLoad e r ws = s.deliver r ((ofLe (wordBytes ws) >>> (8 * (e.gaddr.toNat % 16))) % 2 ^ (8 * r.size)) := by
  have hnone : (wordsValue ws).2 = [] := by
    refine List.filter_eq_nil_iff.2 fun k hk => ?_
    rw [List.mem_range] at hk
    rw [List.getD_eq_getElem?_getD, List.getElem?_eq_getElem hk, Option.getD_some, CodeWord.isHusk, hws _ (List.getElem_mem hk)]
    decide
  unfold State.gotLoad
  dsimp only
  rw [hnone, hnear]
  rfl

/-- Settles O31. -/
theorem remoteAnswers : Obligations.RemoteAnswers := by
  intro s port m e r gone late value low hwhy hslot
  refine ⟨fun he => ⟨fun h hk hnear hws => ?_, fun h => ?_, fun op h hk => ?_, fun h => ?_⟩, fun he h => ?_, fun h hcls hlo hhi he hst => ?_, fun he hst => ?_⟩
  · refine (done_next (c := .readResp port m) h.lt).trans (congrArg _ (((h.answered _).1 e r he hwhy hslot).trans ?_))
    simp only [hwhy, hk, MemKind.isLoad, if_true]
    exact State.gotLoad_clean _ e hnear hws
  · refine (done_next (c := .writeAck port m) h.lt).trans (congrArg _ (((h.answered _).1 e r he hwhy hslot).trans ?_))
    simp only [hwhy]
    rfl
  · refine (done_next (c := .atomicResp port m) h.lt).trans (congrArg _ (((h.answered _).1 e r he hwhy hslot).trans ?_))
    simp only [hwhy, hk]
    rfl
  · refine (done_next (c := .returnMsg port m) h.lt).trans (congrArg _ (((h.answered _).1 e r he hwhy hslot).trans ?_))
    simp only [hwhy]
    rfl
  · exact (done_next (c := .readResp port m) h.lt).trans (congrArg _ ((h.answered _).2 he))
  · refine ⟨((s.took port m).dropRemote e).remoteFailed e (nakStatus m.nak.toNat) port,
      (done_next (c := .nak port m) h.lt).trans (congrArg _ ((h.receive _).trans ?_)), State.remoteFailed_thread (s := (s.took port m).dropRemote e) hwhy hst _ port⟩
    rw [h.take, if_neg (by omega), if_neg hcls, he]
    exact if_pos (by simp [State.wanted, hwhy, hslot])
  · refine ⟨(s.dropRemote e).remoteFailed e fabRemoteTimeout e.port, (done_next (c := .remoteTimeout e.tag) rfl).trans (congrArg _ ?_),
      State.remoteFailed_thread (s := s.dropRemote e) hwhy hst _ e.port⟩
    rw [he]
    exact if_pos (by simp [State.wanted, hwhy, hslot])

end Sys2Proof.Machine

/-! SUPPORT. The link layer, transit and the violation score (R264 to R280). -/

namespace Sys2Proof.Machine
open Sys2Proof.Claims

section

variable {s : State} {port : Nat}

theorem State.updPort_congr {f g : Port → Port} (h : f (s.port port) = g (s.port port)) : s.updPort port f = s.updPort port g := by
  have h' : s.fab.ports.upd port Port.idle f = s.fab.ports.upd port Port.idle g := congrArg (s.fab.ports.put port) h
  unfold State.updPort
  rw [h']

theorem Port.link_of {p : Port} (h : p.st ≠ .quarantined) : p.link = p.st := if_neg h

theorem State.flushPort_nil (h : (s.port port).waiting = []) : s.flushPort port = s.updPort port (fun p => { p with waiting := [] }) := by
  unfold State.flushPort
  rw [h]
  rfl

/-- Nothing is kept for a retry: an acknowledgement releases nothing. -/
theorem State.release_nil (h : (s.port port).replay = []) (ack : BitVec 12) : s.release port ack = s := by
  unfold State.release
  rw [h]
  rfl

/-- Without injection a message is delivered, with nothing held behind it. -/
theorem State.inject_off (hmode : (s.port port).injMode = 0) (hheld : (s.port port).held = []) (m : Msg) :
    (s.inject port m).fab.inbox = s.fab.inbox ++ [(port, m)] ∧ (s.inject port m).port port = s.port port := by
  have hpass : s.inject port m = s.pass port m := if_pos (.inl (by simp [hmode]))
  rw [hpass]
  unfold State.pass
  dsimp only
  rw [hheld]
  refine ⟨rfl, ?_⟩
  change ((s.updPort port (fun p => { p with held := p.held.filter (fun n => !(channelOf n == channelOf m)) })).port port) = _
  rw [State.port_updPort_self]
  rw [hheld]
  generalize s.port port = p at hheld ⊢
  cases p
  subst hheld
  rfl

/-- What every flit does to the counts of its port. -/
def State.counted (s : State) (port : Nat) (f : Flit) : State :=
  s.updPort port (fun p => { p with corrSym := p.corrSym + f.corr, uncorr := if f.fecOk then p.uncorr else sat 16 (p.uncorr + 1) })

theorem State.port_counted (f : Flit) : (s.counted port f).port port = { s.port port with
    corrSym := (s.port port).corrSym + f.corr, uncorr := if f.fecOk then (s.port port).uncorr else sat 16 ((s.port port).uncorr + 1) } :=
  State.port_updPort_self s port _

/-- A flit that is counted, and that injection hits or not. -/
def State.flitTaken (s : State) (port : Nat) (f : Flit) (hit : Bool) : State :=
  if !f.crcOk ∨ !f.fecOk ∨ hit ∨ (f.ftype = 0 ∧ f.fseq ≠ (s.port port).rxSeq) then s.updPort port (fun p => { p with asks := p.asks ++ [p.rxSeq] })
  else
    let s := (s.updPort port (fun p => p.credit f.cred.toNat)).release port f.ackseq
    if f.ftype ≠ 0 then s
    else
      let s := s.updPort port (fun p => { p with rxSeq := p.rxSeq + 1 })
      match f.msgs with
      | [] => s
      | m :: _ => if Config.vcDepth ≤ s.occupied port f.vc.toNat then s.violate port m 3 else f.msgs.foldl (fun s m => s.inject port m) s

theorem State.flit_eq (hlink : (s.port port).linked = true) (f : Flit) : s.flit port f =
    (fun x : Bool × State => x.2.flitTaken port f x.1)
      (if ((s.counted port f).port port).injMode = 2 then (s.counted port f).injEvent port else (false, s.counted port f)) :=
  if_neg (by simp [hlink])

/-- A flit without injection: asked for again, or its messages are delivered. -/
theorem State.flit_data {f : Flit} (hlink : (s.port port).linked = true) (hfec : f.fecOk = true) (hmode : (s.port port).injMode = 0) (htype : f.ftype = 0) :
    s.flit port f = if f.crcOk = false ∨ f.fseq ≠ (s.port port).rxSeq then (s.counted port f).updPort port (fun p => { p with asks := p.asks ++ [p.rxSeq] })
      else
        let v := (((s.counted port f).updPort port (fun p => p.credit f.cred.toNat)).release port f.ackseq).updPort port (fun p => { p with rxSeq := p.rxSeq + 1 })
        match f.msgs with
        | [] => v
        | m :: _ => if Config.vcDepth ≤ v.occupied port f.vc.toNat then v.violate port m 3 else f.msgs.foldl (fun s m => s.inject port m) v := by
  have hcount := State.port_counted (s := s) (port := port) f
  rw [State.flit_eq hlink, if_neg (show ¬((s.counted port f).port port).injMode = 2 by rw [hcount]; exact fun h => by rw [show _ = _ from h] at hmode; cases hmode)]
  dsimp only
  unfold State.flitTaken
  rw [hcount]
  simp only [hfec, htype, Bool.not_true, Bool.false_eq_true, false_or, true_and, Bool.not_eq_true', ne_eq, not_true_eq_false, if_false]

end

/-! ## Flits -/

theorem flitReceived {s : State} {port : Nat} (hport : port < 64) (f : Flit) (m : Msg) (hlink : (s.port port).linked = true) (hfec : f.fecOk = true)
    (hmode : (s.port port).injMode = 0) (htype : f.ftype = 0) (hreplay : (s.port port).replay = []) (hheld : (s.port port).held = []) :
    (f.crcOk = true → f.fseq = (s.port port).rxSeq → f.msgs = [m] → s.occupied port f.vc.toNat < Config.vcDepth →
      ∃ t, exec (.flitReceive port f) s = .next t ∧ t.fab.inbox = s.fab.inbox ++ [(port, m)] ∧ (t.port port).rxSeq = (s.port port).rxSeq + 1 ∧
        (t.port port).asks = (s.port port).asks) ∧
    (f.crcOk = false ∨ f.fseq ≠ (s.port port).rxSeq →
      ∃ t, exec (.flitReceive port f) s = .next t ∧ t.fab.inbox = s.fab.inbox ∧ (t.port port).rxSeq = (s.port port).rxSeq ∧
        (t.port port).asks = (s.port port).asks ++ [(s.port port).rxSeq]) := by
  have hwf : (Instr.flitReceive port f).wellFormed = true := by simp [Instr.wellFormed, hport]
  have hcount := State.port_counted (s := s) (port := port) f
  have hdata := State.flit_data hlink hfec hmode htype
  constructor
  · intro hcrc hseq hmsgs hroom
    refine ⟨_, (done_next (c := .flitReceive port f) hwf).trans (congrArg _ (hdata.trans (if_neg (by simp [hcrc, hseq])))), ?_⟩
    let u := (s.counted port f).updPort port (fun p => p.credit f.cred.toNat)
    have hup : u.port port = ({ s.port port with
        corrSym := (s.port port).corrSym + f.corr, uncorr := if f.fecOk then (s.port port).uncorr else sat 16 ((s.port port).uncorr + 1) } : Port).credit
          f.cred.toNat := by rw [State.port_updPort_self, hcount]
    have hrel : u.release port f.ackseq = u := State.release_nil (by rw [hup]; exact hreplay) _
    rw [hrel, hmsgs]
    dsimp only
    let v := u.updPort port (fun p => { p with rxSeq := p.rxSeq + 1 })
    have hvp : v.port port = { u.port port with rxSeq := (u.port port).rxSeq + 1 } := State.port_updPort_self _ _ _
    have hinbox : v.fab.inbox = s.fab.inbox := rfl
    have hocc : v.occupied port f.vc.toNat = s.occupied port f.vc.toNat := rfl
    rw [if_neg (show ¬Config.vcDepth ≤ v.occupied port f.vc.toNat by rw [hocc]; omega)]
    obtain ⟨hin, hport'⟩ := State.inject_off (s := v) (port := port) (by rw [hvp, hup]; exact hmode) (by rw [hvp, hup]; exact hheld) m
    change (v.inject port m).fab.inbox = _ ∧ ((v.inject port m).port port).rxSeq = _ ∧ ((v.inject port m).port port).asks = _
    rw [hport', hin, hvp, hup]
    exact ⟨rfl, rfl, rfl⟩
  · intro hbad
    refine ⟨_, (done_next (c := .flitReceive port f) hwf).trans (congrArg _ (hdata.trans (if_pos hbad))), rfl, ?_, ?_⟩ <;>
      rw [State.port_updPort_self, hcount]

/-! ## Retry, retraining, training and stalls -/

/-- What a retry resends, and what it keeps. -/
def State.resent (s : State) (port : Nat) (keep again : List (BitVec 12 × Msg × Nat)) : State :=
  let s := s.updPort port (fun p => { p with
    replay := keep ++ again.map (fun x => (x.1, x.2.1, x.2.2 + 1)), retry := sat 16 (p.retry + again.length) })
  { s with fab := { s.fab with out := s.fab.out ++ again.map (fun x => (port, x.2.1)) } }

theorem State.port_resent (s : State) (port : Nat) (keep again : List (BitVec 12 × Msg × Nat)) : (s.resent port keep again).port port =
    { s.port port with replay := keep ++ again.map (fun x => (x.1, x.2.1, x.2.2 + 1)), retry := sat 16 ((s.port port).retry + again.length) } :=
  State.port_updPort_self s port (fun p => { p with
    replay := keep ++ again.map (fun x => (x.1, x.2.1, x.2.2 + 1)), retry := sat 16 (p.retry + again.length) })

theorem retried {s : State} {port : Nat} (hport : port < 64) (pre post : List (BitVec 12 × Msg × Nat)) (n : BitVec 12) (x : Msg × Nat)
    (hlink : (s.port port).linked = true) (hreplay : (s.port port).replay = pre ++ (n, x) :: post) (hpre : ∀ y ∈ pre, y.1 ≠ n)
    (hcount : ∀ y ∈ (n, x) :: post, y.2.2 < 8) :
    ∃ t, exec (.retryRequest port n) s = .next t ∧ t.fab.out = s.fab.out ++ ((n, x) :: post).map (fun y => (port, y.2.1)) ∧
      (t.port port).replay = pre ++ ((n, x) :: post).map (fun y => (y.1, y.2.1, y.2.2 + 1)) ∧
      (t.port port).retry = sat 16 ((s.port port).retry + (post.length + 1)) ∧ (t.port port).st = (s.port port).st := by
  have hpre' : ∀ y ∈ pre, (y.1 != n) = true := fun y hy => by simpa using hpre y hy
  have hdrop : (s.port port).replay.dropWhile (fun x => x.1 != n) = (n, x) :: post := by
    rw [hreplay, List.dropWhile_append_of_pos hpre']
    exact List.dropWhile_cons_of_neg (by simp)
  have htake : (s.port port).replay.takeWhile (fun x => x.1 != n) = pre := by
    rw [hreplay, List.takeWhile_append_of_pos hpre', List.takeWhile_cons_of_neg (by simp), List.append_nil]
  have hany : ¬((n, x) :: post).any (fun x => decide (8 < x.2.2 + 1)) = true := by
    rw [List.any_eq_true]
    rintro ⟨y, hy, h⟩
    have := hcount y hy
    rw [decide_eq_true_eq] at h
    omega
  refine ⟨s.resent port pre ((n, x) :: post), (done_next (c := .retryRequest port n) (by simp [Instr.wellFormed, hport])).trans (congrArg _ ?_), rfl, ?_⟩
  · dsimp only
    rw [hdrop, htake, if_neg (by simp [hlink])]
    exact if_neg hany
  · rw [State.port_resent]
    exact ⟨rfl, rfl, rfl⟩

theorem usableLanes_eq_all (lanes : Byte) : usableLanes lanes = 0xFF ↔ lanes = 0xFF := by
  unfold usableLanes
  split
  · next h => simp [h]
  · next h =>
    refine iff_of_false ?_ h
    split
    · decide
    · split <;> decide

/-- Training brings a port up on the lanes that it can use, or takes it down. -/
theorem State.trained_spec {s : State} {port : Nat} (hst : (s.port port).st = .training) (hwait : (s.port port).waiting = []) (lanes : Byte) (peer : BitVec 16)
    (peerPort : BitVec 6) :
    (usableLanes lanes ≠ 0 → (s.trained port lanes peer peerPort).port port = { s.port port with
      st := (if lanes = 0xFF then .up else .degraded), lanes := usableLanes lanes, peerDev := peer, peerPort := peerPort, rate := (s.port port).rateNext
      retrains := 0, waiting := [] }) ∧
    (usableLanes lanes = 0 → ((s.trained port lanes peer peerPort).port port).st = .down) := by
  have hq : (s.port port).st ≠ .quarantined := by rw [hst]; decide
  have hlink : (s.port port).link = .training := (Port.link_of hq).trans hst
  unfold State.trained
  dsimp only
  rw [if_neg (by rw [hlink]; simp)]
  refine ⟨fun hl => ?_, fun hl => ?_⟩
  · rw [if_neg hl, State.flushPort_nil, State.port_updPort_self, State.port_updPort_self]
    · simp only [Port.setLink, if_neg hq, usableLanes_eq_all]
    · rw [State.port_updPort_self]
      simp only [Port.setLink, if_neg hq, hwait]
  · rw [if_pos hl, State.port_updPort_self, if_pos (.inl hlink)]
    simp only [Port.goDown, Port.setLink, if_neg hq]

theorem linkLayer : Sys2Proof.Claims.LinkLayer := by
  intro s port hport p
  refine ⟨fun f m hlink hfec hmode htype hreplay hheld => flitReceived hport f m hlink hfec hmode htype hreplay hheld,
    fun pre post n x hlink hreplay hpre hcount => retried hport pre post n x hlink hreplay hpre hcount, fun errors bits => ⟨fun hbad hup => ?_, fun hgood => ?_⟩,
    fun lanes peer peerPort hst hwait => ⟨fun hl => ?_, fun hl => ?_⟩, fun vc hvc hstall hwait => ?_⟩
  · refine (done_next (c := .berWindow port errors bits) (by simp [Instr.wellFormed, hport])).trans (congrArg _ ((if_pos hbad).trans ?_))
    exact State.updPort_congr (Port.retrain_live (.inl hup))
  · exact (done_next (c := .berWindow port errors bits) (by simp [Instr.wellFormed, hport])).trans (congrArg _ (if_neg (by omega)))
  · refine ⟨_, done_next (c := .portTrainingComplete port lanes peer peerPort) (by simp [Instr.wellFormed, hport]), ?_⟩
    rw [(State.trained_spec hst hwait lanes peer peerPort).1 hl]
    exact ⟨rfl, rfl, rfl, rfl⟩
  · exact ⟨_, done_next (c := .portTrainingComplete port lanes peer peerPort) (by simp [Instr.wellFormed, hport]),
      (State.trained_spec hst hwait lanes peer peerPort).2 hl⟩
  · let u := s.updPort port (fun p => { p with stalled := insSet p.stalled vc })
    let rep := fabReport fabVcStalled port 0 0 0 p.peerDev p.vcnt
    refine ⟨u.record rep, (done_next (c := .vcStalled port vc) (by simp [Instr.wellFormed, hport, hvc])).trans (congrArg _ ?_), ?_, ?_⟩
    · exact if_neg (by rw [hstall, hwait]; simp)
    · obtain ⟨_, _, _, _, hsent⟩ := (u.told_record rep).port port
      rw [hsent]
      have hup : u.port port = { s.port port with stalled := insSet (s.port port).stalled vc } := State.port_updPort_self s port _
      change (u.port port).stalled.contains vc = true
      rw [hup]
      simp [mem_insSet]
    · rw [(u.told_record rep).recSeq]
      rfl

theorem State.sent_record (s : State) (rep : Report) (n : Nat) : (s.port n).Sent ((s.record rep).port n) := (s.told_record rep).port n

theorem State.told_sendNak (s : State) (m : Msg) (wire : Nat) : s.Told (s.sendNak m wire) := .ite (.refl s) (s.told_sendOr _ _)

/-- A score at the threshold quarantines its port. -/
theorem State.quarantine_spec (s : State) {port v : Nat} {old : PortSt} {rep : Report} {u : State} (hold : old = (s.port port).st)
    (hu : u = if s.fab.qthresh ≠ 0 ∧ s.fab.qthresh ≤ v ∧ old ≠ .quarantined then
      (s.updPort port (fun q => { q with st := .quarantined, linkUp := q.st })).record rep else s) :
    u.fab.vlogCount = s.fab.vlogCount ∧ ∃ st link, ({ s.port port with st := st, linkUp := link } : Port).Sent (u.port port) ∧
      (s.fab.qthresh ≠ 0 → s.fab.qthresh ≤ v → st = .quarantined) ∧ ((s.fab.qthresh = 0 ∨ v < s.fab.qthresh) → st = (s.port port).st) := by
  subst hu hold
  split
  · next h =>
    obtain ⟨hne, hle, -⟩ := h
    refine ⟨(State.told_record _ _).vlogCount, .quarantined, (s.port port).st, ?_, fun _ _ => rfl, fun h => by omega⟩
    rw [← State.port_updPort_self s port (fun q => { q with st := .quarantined, linkUp := q.st })]
    exact State.sent_record _ _ port
  · next h =>
    exact ⟨rfl, (s.port port).st, (s.port port).linkUp, .refl _, fun hne hle => Classical.byContradiction fun hq => h ⟨hne, hle, hq⟩, fun _ => rfl⟩

/-- A violation scores on its port, which a score at the threshold quarantines. -/
theorem State.violate_spec (s : State) (port : Nat) {m : Msg} (wire : Nat) (hop : m.op ≠ 0x30) :
    (s.violate port m wire).fab.vlogCount = s.fab.vlogCount + 1 ∧ ∃ st link, ({ s.port port with
      viol := sat 16 ((s.port port).viol + 1), vcnt := min 255 ((s.port port).vcnt + nakWeight wire), st := st, linkUp := link } : Port).Sent
        ((s.violate port m wire).port port) ∧
      (s.fab.qthresh ≠ 0 → s.fab.qthresh ≤ min 255 ((s.port port).vcnt + nakWeight wire) → st = .quarantined) ∧
      ((s.fab.qthresh = 0 ∨ min 255 ((s.port port).vcnt + nakWeight wire) < s.fab.qthresh) → st = (s.port port).st) := by
  unfold State.violate
  rw [if_neg hop]
  extract_lets f e logged p v scored u
  have hv : min 255 ((s.port port).vcnt + nakWeight wire) = v := rfl
  rw [hv]
  have hscored : scored.port port = { s.port port with viol := sat 16 ((s.port port).viol + 1), vcnt := v } := State.port_updPort_self logged port _
  have hq : scored.fab.qthresh = s.fab.qthresh := rfl
  have hlog : scored.fab.vlogCount = s.fab.vlogCount + 1 := rfl
  have hold : p.st = (scored.port port).st := by rw [hscored]; rfl
  have hu : u = if scored.fab.qthresh ≠ 0 ∧ scored.fab.qthresh ≤ v ∧ p.st ≠ .quarantined then
      (scored.updPort port (fun q => { q with st := .quarantined, linkUp := q.st })).record _ else scored := rfl
  clear_value u scored p v
  obtain ⟨hcount, st, link, hsent, hquar, hkeep⟩ := scored.quarantine_spec hold hu
  rw [hscored] at hsent hkeep
  rw [hq] at hquar hkeep
  exact ⟨((State.told_sendNak u m wire).vlogCount).trans (hcount.trans hlog), st, link, hsent.trans ((State.told_sendNak u m wire).port port), hquar, hkeep⟩

theorem transitAndScore : Sys2Proof.Claims.TransitAndScore := by
  refine ⟨fun s port m hport hdst hcar hleg hbefore => ?_, fun s port m wire hop => ?_, by decide, fun s => ?_, fun s port l m hport hheld => ?_⟩
  · have hq : (s.port port).st ≠ .quarantined := fun h => by rw [h] at hcar; exact absurd hcar (by decide)
    have hforward : s.forward port m = if m.ttl.toNat ≤ 1 then (s.took port m).sendNak m 8
        else match (s.took port m).route (m.addr.toNat % 2 ^ 46) m.dstdev.toNat m.srcdev.toNat none with
          | some q => (s.took port m).sendOn q { m with ttl := m.ttl - 1 }
          | none => (s.took port m).sendNak m 8 := by
      have hbefore' : ¬(if s.fab.inbox.contains (port, m) then s.fab.inbox.takeWhile (fun x => x != (port, m)) else []).any
          (fun x => x.1 == port && x.2.dstdev != s.fab.devid && channelOf x.2 == channelOf m) = true := by
        split
        · rw [hbefore]; decide
        · simp
      unfold State.forward
      dsimp only
      rw [if_neg (fun h => h.elim hdst fun h => h.elim (fun h => by rw [hcar] at h; exact absurd h.1 (by decide)) hbefore'), if_neg hq, if_neg (by simp [hleg])]
      rfl
    have hroute : (s.took port m).route (m.addr.toNat % 2 ^ 46) m.dstdev.toNat m.srcdev.toNat none =
        s.route (m.addr.toNat % 2 ^ 46) m.dstdev.toNat m.srcdev.toNat none := rfl
    rw [hroute] at hforward
    have hexec := done_next (c := .messageForward port m) (by simp [Instr.wellFormed, hport]) (t := s.forward port m)
    refine ⟨fun q httl hr => hexec.trans (congrArg _ ?_), fun h => hexec.trans (congrArg _ ?_)⟩
    · rw [hforward, if_neg (by omega), hr]
    · rw [hforward]
      rcases h with h | h
      · rw [if_pos h]
      · rw [h, ite_self]
  · obtain ⟨hlog, st, link, ⟨_, _, _, _, hport⟩, hquar, hkeep⟩ := s.violate_spec port wire hop
    intro v t
    refine ⟨hlog, by rw [show t.port port = _ from hport], by rw [show t.port port = _ from hport], fun hne hle => ?_, fun h => ?_⟩
    · rw [show t.port port = _ from hport]; exact hquar hne hle
    · rw [show t.port port = _ from hport]; exact hkeep h
  · refine ⟨_, done_next (c := .violationScoreDecay) rfl, fun p => ?_, rfl, rfl⟩
    exact Map.getD_map (fun p : Port => { p with vcnt := p.vcnt - 1 }) _ _ _ rfl
  · have hu : (s.updPort port (fun p => { p with held := p.held.dropLast })).port port = { s.port port with held := l } := by
      rw [State.port_updPort_self, hheld, List.dropLast_concat]
    refine ⟨{ s.updPort port (fun p => { p with held := p.held.dropLast }) with
      fab := { (s.updPort port (fun p => { p with held := p.held.dropLast })).fab with inbox := s.fab.inbox ++ [(port, m)] } },
      (done_next (c := .reorderRelease port) (by simp [Instr.wellFormed, hport])).trans (congrArg _ ?_), rfl, hu⟩
    rw [hheld, List.getLast?_concat]
    rfl

/-- Settles O32, from `linkLayer` and `transitAndScore`. -/
theorem linksAndTransit : Obligations.LinksAndTransit := ⟨linkLayer, transitAndScore⟩

end Sys2Proof.Machine

/-! SUPPORT. The queue engine: entries fetched, checked and finished, completions formed and posted (R313 to R318, R451). -/

namespace Sys2Proof.Machine
open Sys2Proof.Claims

section

variable {s : State} {fn n : Nat}

theorem State.settleQueue_open (h : (s.queue fn n).closing = false ∨ (s.queue fn n).err = false) : s.settleQueue fn n = s := by
  unfold State.settleQueue
  exact if_neg (by rcases h with h | h <;> simp [h])

/-- The queue once the completions of the entries that `p` selects are formed. -/
def Queue.postWith (p : QEntry → Option (Status × Word)) (q : Queue) : Queue :=
  let sel := q.entries.filter (fun x => !x.posted && (p x).isSome)
  let q := ({ q with entries := q.entries.map (fun (x : QEntry) => if !x.posted && (p x).isSome then { x with posted := true } else x) }).trim
  { q with posts := q.posts ++ sel.map (fun x => match p x with
      | some (st, res) => q.compl x st res
      | none => q.compl x 0 0) }

theorem Queue.postWith_one {q : Queue} {y : QEntry} {p : QEntry → Option (Status × Word)} {st : Status} {res : Word} (hentries : q.entries = [y])
    (hposted : y.posted = false) (hp : p y = some (st, res)) : q.postWith p = { q with
      entries := [], sqhead := q.fetched % q.sqSize
      posts := q.posts ++ [{ q.compl y st res with sqhead := BitVec.ofNat 16 (q.fetched % q.sqSize) }] } := by
  have hsel : (!y.posted && (p y).isSome) = true := by rw [hposted, hp]; rfl
  have hfilter : q.entries.filter (fun x => !x.posted && (p x).isSome) = [y] := by
    rw [hentries]
    exact List.filter_cons_of_pos hsel
  have hmap : q.entries.map (fun (x : QEntry) => if !x.posted && (p x).isSome then { x with posted := true } else x) = [{ y with posted := true }] := by
    rw [hentries]
    exact congrArg (fun z => [z]) (if_pos hsel)
  have htrim : ({ q with entries := [{ y with posted := true }] } : Queue).trim = { q with entries := [], sqhead := q.fetched % q.sqSize } := rfl
  unfold Queue.postWith
  rw [hfilter, hmap, htrim]
  simp only [List.map_cons, List.map_nil, hp]
  rfl

/-- The final completion of the only entry of a queue. -/
theorem State.postAll_one {y : QEntry} {p : QEntry → Option (Status × Word)} {st : Status} {res : Word} (hentries : (s.queue fn n).entries = [y])
    (hposted : y.posted = false) (hp : p y = some (st, res)) (hopen : (s.queue fn n).closing = false ∨ (s.queue fn n).err = false) :
    s.postAll fn n p = s.updQueue fn n (Queue.postWith p) ∧ (s.postAll fn n p).queue fn n = { s.queue fn n with
      entries := [], sqhead := (s.queue fn n).fetched % (s.queue fn n).sqSize
      posts := (s.queue fn n).posts ++ [{ (s.queue fn n).compl y st res with
        sqhead := BitVec.ofNat 16 ((s.queue fn n).fetched % (s.queue fn n).sqSize) }] } := by
  have hq := (State.queue_updQueue_self s fn n (Queue.postWith p)).trans (Queue.postWith_one hentries hposted hp)
  have hall : s.postAll fn n p = s.updQueue fn n (Queue.postWith p) := State.settleQueue_open (s := s.updQueue fn n (Queue.postWith p)) (by rw [hq]; exact hopen)
  exact ⟨hall, hall ▸ hq⟩

/-- The queue after its only entry has been changed. -/
theorem State.queue_updEntry_one {e : EntryRef} {x : QEntry} (hentries : (s.queue e.fn e.q).entries = [x]) (hn : x.n = e.n) (f : QEntry → QEntry) :
    (s.updEntry e f).queue e.fn e.q = { s.queue e.fn e.q with entries := [f x] } := by
  rw [State.updEntry, State.queue_updQueue_self, hentries]
  have hmap : [x].map (fun x => if x.n = e.n then f x else x) = [f x] := congrArg (fun z => [z]) (if_pos hn)
  rw [hmap]

/-- The only entry of a queue ends at once. -/
theorem State.endNow_one {e : EntryRef} {x : QEntry} (hentries : (s.queue e.fn e.q).entries = [x]) (hn : x.n = e.n) (hposted : x.posted = false)
    (hopen : (s.queue e.fn e.q).closing = false ∨ (s.queue e.fn e.q).err = false) (st : Status) :
    (s.endNow e st).queue e.fn e.q = { s.queue e.fn e.q with
      entries := [], sqhead := (s.queue e.fn e.q).fetched % (s.queue e.fn e.q).sqSize
      posts := (s.queue e.fn e.q).posts ++ [{ (s.queue e.fn e.q).compl x st 0 with
        sqhead := BitVec.ofNat 16 ((s.queue e.fn e.q).fetched % (s.queue e.fn e.q).sqSize) }] } := by
  have hq := State.queue_updEntry_one hentries hn (fun x => { x with st := .done st 0, signalled := true })
  refine ((State.postAll_one (y := { x with st := .done st 0, signalled := true }) (p := fun y => if y.n = e.n then some (st, 0) else none)
    (st := st) (res := 0) (by rw [hq]) hposted (if_pos hn) (by rw [hq]; exact hopen)).2).trans ?_
  rw [hq]
  rfl

theorem State.queue_of_onlyBytes {t : State} (h : s.OnlyBytes t) : t.queue fn n = s.queue fn n := by
  obtain ⟨_, _, _, rfl⟩ := h
  rfl

theorem State.queue_takeJob (s : State) (x : QEntry) (fn n : Nat) : (s.takeJob x).queue fn n = s.queue fn n := by
  unfold State.takeJob
  split
  · split
    · rfl
    · have h (u : State) (hu : u.fns = s.fns) : (u.saveCtx x.ctx).queue fn n = s.queue fn n := by
        rw [State.queue_of_onlyBytes (u.onlyBytes_saveCtx x.ctx)]
        simp only [State.queue, State.fn, hu]
      exact h _ rfl
  · rfl

/-- A fetch reads and checks the next entry of the ring. -/
theorem State.entryFetch_host (hhas : s.hasQueue fn n = true) (hrun : s.queueRuns ⟨fn, n, 0⟩)
    (hmore : (s.queue fn n).fetched % (s.queue fn n).sqSize ≠ (s.queue fn n).sqtail) (hloc : (s.queue fn n).loc = false) :
    let a := (s.queue fn n).sqbase.toNat + 64 * ((s.queue fn n).fetched % (s.queue fn n).sqSize)
    let r := s.readEntry fn n (s.ringRead (s.queue fn n).loc a 64)
    let t := s.updQueue fn n (fun q => { q with entries := q.entries ++ [r.1], fetched := q.fetched + 1, cursor := r.2 })
    s.entryFetch fn n = if s.hostPoisoned a 64 then s.queueError fn n hqRingFault else match s.fetchCheck fn r.1 with
      | some st => t.endNow { fn := fn, q := n, n := r.1.n } st
      | none => t.takeJob r.1 := by
  obtain ⟨hen, herr, ht, hready⟩ := hrun
  unfold State.entryFetch
  dsimp only
  rw [if_neg (by simp [hhas, hen, herr, ht, hready, hmore])]
  generalize s.readEntry fn n (s.ringRead (s.queue fn n).loc ((s.queue fn n).sqbase.toNat + 64 * ((s.queue fn n).fetched % (s.queue fn n).sqSize)) 64) = r
  rw [hloc] <;>
  rfl

theorem State.readEntry_spec (s : State) (fn n : Nat) (bs : List Byte) : (s.readEntry fn n bs).1.n = (s.queue fn n).fetched ∧
    (s.readEntry fn n bs).1.st = .waiting ∧ (s.readEntry fn n bs).1.posted = false ∧ (s.readEntry fn n bs).1.bits = BitVec.ofNat 512 (ofLe bs) := by
  unfold State.readEntry
  extract_lets q x0 good j cur step
  split <;> exact ⟨rfl, rfl, rfl, rfl⟩

end

theorem entryFetched {s : State} {fn n : Nat} (hfn : fn < fnCount) (hn : n < queueMax) (hhas : s.hasQueue fn n = true) (hrun : s.queueRuns ⟨fn, n, 0⟩)
    (hmore : (s.queue fn n).fetched % (s.queue fn n).sqSize ≠ (s.queue fn n).sqtail) :
    let q := s.queue fn n
    let a := q.sqbase.toNat + 64 * (q.fetched % q.sqSize)
    let x := (s.readEntry fn n (s.ringRead q.loc a 64)).1
    (q.loc = false → s.hostPoisoned a 64 = true → ∃ t, exec (.entryFetch fn n) s = .next t ∧ (t.queue fn n).err = true ∧
      (t.queue fn n).status = hqRingFault ∧ (t.queue fn n).entries = q.entries ∧ t.mem = s.mem) ∧
    (q.loc = false → s.hostPoisoned a 64 = false →
      (s.fetchCheck fn x = none → ∃ t, exec (.entryFetch fn n) s = .next t ∧ (t.queue fn n).entries = q.entries ++ [x] ∧
        (t.queue fn n).fetched = q.fetched + 1 ∧ (t.queue fn n).posts = q.posts ∧ x.st = .waiting ∧ x.bits = BitVec.ofNat 512 (ofLe (s.hostRead a 64))) ∧
      (∀ st, s.fetchCheck fn x = some st → q.entries = [] → ∃ t c, exec (.entryFetch fn n) s = .next t ∧
        (t.queue fn n).entries = [] ∧ (t.queue fn n).fetched = q.fetched + 1 ∧ (t.queue fn n).posts = q.posts ++ [c] ∧
        c.status = st ∧ c.cid = BitVec.ofNat 16 x.cid ∧ (t.queue fn n).sqhead = (q.fetched + 1) % q.sqSize ∧ t.tab = s.tab)) := by
  intro q a x
  have hexec : exec (.entryFetch fn n) s = .next (s.entryFetch fn n) := done_next (c := .entryFetch fn n) (by simp [Instr.wellFormed, hfn, hn])
  obtain ⟨hxn, hxst, hxposted, hxbits⟩ := s.readEntry_spec fn n (s.ringRead q.loc a 64)
  refine ⟨fun hloc hp => ⟨_, hexec.trans (congrArg _ ((State.entryFetch_host hhas hrun hmore hloc).trans (if_pos hp))), ?_⟩,
    fun hloc hp => ⟨fun hc => ?_, fun st hc hempty => ?_⟩⟩
  · rw [State.queue_queueError hrun.2.1]
    refine ⟨rfl, rfl, rfl, ?_⟩
    unfold State.queueError
    rw [if_neg (by rw [show (s.queue fn n).err = false from hrun.2.1]; decide)]
    rfl
  · refine ⟨_, hexec.trans (congrArg _ ((State.entryFetch_host hhas hrun hmore hloc).trans (if_neg (by rw [hp]; decide)))), ?_⟩
    rw [hc]
    refine ⟨?_, ?_, ?_, hxst, ?_⟩
    · rw [State.queue_takeJob, State.queue_updQueue_self]
    · rw [State.queue_takeJob, State.queue_updQueue_self]
    · rw [State.queue_takeJob, State.queue_updQueue_self]
    · rw [hxbits, hloc]; rfl
  · have hfetch := (State.entryFetch_host hhas hrun hmore hloc).trans (if_neg (by rw [hp]; decide))
    rw [hc] at hfetch
    let u := s.updQueue fn n (fun r => { r with
      entries := r.entries ++ [x], fetched := r.fetched + 1, cursor := (s.readEntry fn n (s.ringRead q.loc a 64)).2 })
    have huq : u.queue fn n = { q with
        entries := [x], fetched := q.fetched + 1, cursor := (s.readEntry fn n (s.ringRead q.loc a 64)).2 } := by
      rw [State.queue_updQueue_self, show (s.queue fn n).entries = [] from hempty]
      rfl
    have hend := State.endNow_one (s := u) (e := { fn := fn, q := n, n := x.n }) (x := x) (by rw [huq]) rfl hxposted (.inr (by rw [huq]; exact hrun.2.1)) st
    rw [huq] at hend
    exact ⟨_, _, hexec.trans (congrArg _ hfetch), congrArg Queue.entries hend, congrArg Queue.fetched hend, congrArg Queue.posts hend, rfl, rfl,
      congrArg Queue.sqhead hend, (State.queueing_endNow u _ st).tab⟩

/-! ## The checks of an entry -/

/-- An entry of good opcode and format depends on its context and its step. -/
theorem State.fetchCheck_sound {s : State} {fn : Nat} {x : QEntry} {r : Nat × Nat} (hr : reservedPay x.opc = some r) (hformat : s.formatBad fn x r = false) :
    s.fetchCheck fn x = match s.ctxCheck fn x with
      | some st => some st
      | none => match x.jslot.bind (s.job fn) with
        | some b => if stepSealed x.step b.step then some hqStepStale else none
        | none => none := by
  unfold State.fetchCheck
  rw [hr]
  dsimp only
  rw [if_neg (by rw [hformat]; decide)] <;>
  rfl

theorem State.fetchCheck_spec {s : State} {fn : Nat} {x : QEntry} {p : Part} (hp : s.part fn = some p) (hcourses : p.courses ≠ []) :
    (x.opc ∉ [0, 1, 2, 3, 4, 5, 0x10, 0x11, 0x12, 0x13, 0x14, 0x15, 0x16, 0x17, 0x18, 0x19, 0x1A] → s.fetchCheck fn x = some hqBadOpcode) ∧
    (x.opc ∈ [0, 1, 2, 3, 4, 5, 0x10, 0x11, 0x12, 0x13, 0x14, 0x15, 0x16, 0x17, 0x18, 0x19, 0x1A] →
      (x.hdr 11 8 ≠ 0 ∨ x.hdr 20 16 ≠ 0 ∨ x.hdr 95 62 ≠ 0 ∨ (16 ≤ x.jobsl ∧ x.jobsl ≠ 31) → s.fetchCheck fn x = some hqCmdInvalid) ∧
      (∀ r, reservedPay x.opc = some r → s.formatBad fn x r = false → x.opc ≠ 0x10 →
        (x.ctx < p.ctxBase ∨ p.ctxBase + p.ctxCount ≤ x.ctx → s.fetchCheck fn x = some ctxForeign) ∧
        (p.ctxBase ≤ x.ctx → x.ctx < p.ctxBase + p.ctxCount → x.opc ≤ 5 →
          ((s.ctx x.ctx).st = .free → s.fetchCheck fn x = some ctxNotDefined) ∧
          ((s.ctx x.ctx).st = .faulted → s.fetchCheck fn x = some ctxFaulted) ∧
          ((s.ctx x.ctx).st = .destroying → s.fetchCheck fn x = some ctxDestroyed) ∧
          ((s.ctx x.ctx).st = .defined → x.jslot = none → s.fetchCheck fn x = none)))) := by
  refine ⟨fun hopc => ?_, fun hopc => ⟨fun hbad => ?_, fun r hr hformat hcreate => ⟨fun hctx => ?_, fun hlo hhi hopc5 => ?_⟩⟩⟩
  · have hnone : reservedPay x.opc = none := by
      simp only [List.mem_cons, List.not_mem_nil, or_false, not_or] at hopc
      unfold reservedPay
      split <;> simp_all
    unfold State.fetchCheck
    rw [hnone]
  · obtain ⟨r, hr⟩ : ∃ r, reservedPay x.opc = some r := by
      simp only [List.mem_cons, List.not_mem_nil, or_false] at hopc
      rcases hopc with h | h | h | h | h | h | h | h | h | h | h | h | h | h | h | h | h <;> rw [h] <;> exact ⟨_, rfl⟩
    have hformat : s.formatBad fn x r = true := by
      unfold State.formatBad
      rcases hbad with h | h | h | ⟨h, h'⟩ <;> simp [h]
      simp [h', h]
    unfold State.fetchCheck
    rw [hr]
    exact if_pos hformat
  · have hown : s.ownCtx fn x.ctx = false := by simp only [State.ownCtx, hp]; exact decide_eq_false (by omega)
    rw [State.fetchCheck_sound hr hformat, State.ctxCheck, if_neg hcreate, if_pos (by rw [hown]; rfl)]
  · have hown : s.ownCtx fn x.ctx = true := by simp only [State.ownCtx, hp]; exact decide_eq_true ⟨hlo, hhi⟩
    have hcheck : s.ctxCheck fn x = match (s.ctx x.ctx).st.refusal with
        | some st => some st
        | none => match x.jslot, (s.ctx x.ctx).jobsl with
          | some j, some k => if j = k then none else some hqCmdInvalid
          | _, _ => none := by
      unfold State.ctxCheck
      dsimp only
      rw [if_neg hcreate, if_neg (by rw [hown]; decide), if_neg (show ¬(x.opc = 0x12 ∨ ((x.opc = 0x11 ∨ x.opc = 0x1A) ∧ (s.ctx x.ctx).st = .faulted)) by omega)] <;>
      rfl
    rw [State.fetchCheck_sound hr hformat, hcheck]
    exact ⟨fun h => by rw [h]; rfl, fun h => by rw [h]; rfl, fun h => by rw [h]; rfl, fun h hj => by rw [h, hj]; rfl⟩

end Sys2Proof.Machine

/-! SUPPORT. Entries that finish, and completions that are posted (R315 to R318). -/

namespace Sys2Proof.Machine
open Sys2Proof.Claims

section

variable {s : State} {e : EntryRef} {x : QEntry}

/-- An executed entry gives its signal and posts. -/
theorem State.entryFinish_done {st : Status} {res : Word} (hx : s.entry e = some x) (hst : x.st = .done st res) (hsig : x.signalled = false) :
    s.entryFinish e = ((((s.signal e x).updEntry e (fun y => { y with signalled := true })).conclude e)).settleQueue e.fn e.q := by
  unfold State.entryFinish
  rw [hx]
  dsimp only
  rw [if_neg (by rw [hsig]; decide), hst]

/-- The only entry of a queue, finished and without a job, posts. -/
theorem State.conclude_one {st : Status} {res : Word} (hentries : (s.queue e.fn e.q).entries = [x]) (hn : x.n = e.n) (hst : x.st = .done st res)
    (hsig : x.signalled = true) (hposted : x.posted = false) (hjob : x.jslot = none) (hopen : (s.queue e.fn e.q).closing = false) :
    (∃ f, s.conclude e = s.updQueue e.fn e.q f) ∧ (s.conclude e).queue e.fn e.q = { s.queue e.fn e.q with
      entries := [], sqhead := (s.queue e.fn e.q).fetched % (s.queue e.fn e.q).sqSize
      posts := (s.queue e.fn e.q).posts ++ [{ (s.queue e.fn e.q).compl x st res with
        sqhead := BitVec.ofNat 16 ((s.queue e.fn e.q).fetched % (s.queue e.fn e.q).sqSize) }] } := by
  have hx : s.entry e = some x := by
    rw [State.entry, hentries]
    exact List.find?_cons_of_pos (by simpa using hn)
  have hretains : s.retains e.fn x = false := by rw [State.retains, hjob]
  have hconclude : s.conclude e = s.postAll e.fn e.q (fun y => if y.n = e.n then some (st, res) else none) := by
    unfold State.conclude
    rw [hx]
    dsimp only
    rw [hst]
    exact if_pos (by rw [hsig, hretains]; rfl)
  obtain ⟨hall, hpost⟩ := State.postAll_one (p := fun y => if y.n = e.n then some (st, res) else none) hentries hposted (if_pos hn) (.inl hopen)
  rw [hconclude]
  exact ⟨⟨_, hall⟩, hpost⟩

end

theorem entryFinished {s : State} {e : EntryRef} {x : QEntry} {st : Status} {res : Word} (hok : e.ok = true) (hentries : (s.queue e.fn e.q).entries = [x])
    (hn : x.n = e.n) (hst : x.st = .done st res) (hsig : x.signalled = false) (hposted : x.posted = false) (hen : x.sigEn = false) (hjob : x.jslot = none)
    (hopen : (s.queue e.fn e.q).closing = false) :
    ∃ t, exec (.entryFinish e) s = .next t ∧ (t.queue e.fn e.q).entries = [] ∧
      (t.queue e.fn e.q).sqhead = (s.queue e.fn e.q).fetched % (s.queue e.fn e.q).sqSize ∧
      (t.queue e.fn e.q).posts = (s.queue e.fn e.q).posts ++ [{ cid := BitVec.ofNat 16 x.cid, status := st, step := 0, result := res
                                                                attempt := BitVec.ofNat 8 (min x.attempt 255)
                                                                sqhead := BitVec.ofNat 16 ((s.queue e.fn e.q).fetched % (s.queue e.fn e.q).sqSize) }] ∧
      t.mem = s.mem ∧ t.tab = s.tab ∧ t.grid = s.grid := by
  have hx : s.entry e = some x := by
    rw [State.entry, hentries]
    exact List.find?_cons_of_pos (by simpa using hn)
  have hsignal : s.signal e x = s := if_pos (by rw [hen]; rfl)
  have hfinish := State.entryFinish_done hx hst hsig
  rw [hsignal] at hfinish
  have hq := State.queue_updEntry_one hentries hn (fun y => { y with signalled := true })
  obtain ⟨⟨f, hconclude⟩, hpost⟩ := State.conclude_one (s := s.updEntry e (fun y => { y with signalled := true })) (e := e)
    (x := { x with signalled := true }) (st := st) (res := res) (by rw [hq]) hn hst rfl hposted hjob (by rw [hq]; exact hopen)
  rw [hq] at hpost
  rw [State.settleQueue_open (.inl (by rw [hpost]; exact hopen))] at hfinish
  refine ⟨_, (done_next (c := .entryFinish e) hok).trans (congrArg _ hfinish), ?_⟩
  refine ⟨by rw [hpost], by rw [hpost]; rfl, ?_, by rw [hconclude]; rfl, by rw [hconclude]; rfl, by rw [hconclude]; rfl⟩
  rw [hpost]
  dsimp only [Queue.compl]
  rw [hjob]
  rfl

theorem entrySignals {s t : State} {e : EntryRef} {x : QEntry} {st : Status} {res : Word} {p h : Nat} {old : DWord} (hok : e.ok = true)
    (hx : s.entry e = some x) (hst : x.st = .done st res) (hsig : x.signalled = false) (hen : x.sigEn = true)
    (hp : s.translateSpar x.ctx (x.hdr 127 112) = .ok (p, h)) (ht : s.addSpar p 1 = .ok (old, t)) :
    ∃ u, exec (.entryFinish e) s = .next u ∧ u.tab = t.tab := by
  have hsignal : s.signal e x = t := by
    unfold State.signal
    rw [if_neg (by rw [hen]; decide)]
    dsimp only
    rw [hp]
    dsimp only
    rw [ht]
  refine ⟨_, (done_next (c := .entryFinish e) hok).trans (congrArg _ (State.entryFinish_done hx hst hsig)), ?_⟩
  rw [hsignal]
  exact (((t.queueing_updEntry e _).trans (State.queueing_conclude _ e)).trans (State.queueing_settleQueue _ _ _)).tab

/-! ## Completions -/

theorem Compl.bytes_length (c : Compl) (phase : Bool) : (c.bytes phase).length = 16 := by simp [Compl.bytes, leBytes]

theorem State.cleanPoison_spec (s : State) (l : List Nat) : (s.cleanPoison l).mem.hostCells = s.mem.hostCells ∧ (s.cleanPoison l).fns = s.fns := by
  induction l generalizing s with
  | nil => exact ⟨rfl, rfl⟩
  | cons x l ih =>
    have h (b : Bool) (u : State) (hc : u.mem.hostCells = s.mem.hostCells) (hf : u.fns = s.fns) :
        (State.cleanPoison (if b then { u with mem := { u.mem with hostPoison := u.mem.hostPoison.filter (· != x) } } else u) l).mem.hostCells =
          s.mem.hostCells ∧
        (State.cleanPoison (if b then { u with mem := { u.mem with hostPoison := u.mem.hostPoison.filter (· != x) } } else u) l).fns = s.fns := by
      refine ⟨(ih _).1.trans ?_, (ih _).2.trans ?_⟩
      · split
        · exact hc
        · exact hc
      · split
        · exact hf
        · exact hf
    exact h _ s.drawBool.2 rfl rfl

/-- The bytes of a run, put one after another. -/
theorem Map.get?_putRun (m : Map Byte) (a : Nat) (bs : List Byte) (n k : Nat) :
    Map.get? ((List.range n).foldl (fun m j => m.put (a + j) (bs.getD j 0)) m) k = if a ≤ k ∧ k < a + n then some (bs.getD (k - a) 0) else Map.get? m k := by
  induction n with
  | zero => rw [if_neg (by omega)]; rfl
  | succ n ih =>
    rw [List.range_succ, List.foldl_append, List.foldl_cons, List.foldl_nil]
    by_cases hk : k = a + n
    · subst hk
      rw [Map.get?_put_self, if_pos (by omega), Nat.add_sub_cancel_left]
    · rw [Map.get?_put_of_ne _ _ hk, ih]
      by_cases h : a ≤ k ∧ k < a + n
      · rw [if_pos h, if_pos (by omega)]
      · rw [if_neg h, if_neg (by omega)]

/-- A host write changes exactly its bytes. -/
theorem State.hostWrite_spec (s : State) (a : Nat) (bs : List Byte) : (s.hostWrite a bs).fns = s.fns ∧
    ∀ k, (s.hostWrite a bs).hostByte k = if a ≤ k ∧ k < a + bs.length then bs.getD (k - a) 0 else s.hostByte k := by
  obtain ⟨hcells, hfns⟩ := State.cleanPoison_spec
    ({ s with mem := { s.mem with hostCells := (List.range bs.length).foldl (fun m k => m.put (a + k) (bs.getD k 0)) s.mem.hostCells } } : State)
    (s.mem.hostPoison.filter (fun l => decide (64 * l < a + bs.length ∧ a < 64 * l + 64)))
  have hcells : (s.hostWrite a bs).mem.hostCells = (List.range bs.length).foldl (fun m k => m.put (a + k) (bs.getD k 0)) s.mem.hostCells := hcells
  refine ⟨hfns, fun k => ?_⟩
  rw [State.hostByte, hcells, Map.get?_putRun, State.hostByte]
  by_cases h : a ≤ k ∧ k < a + bs.length
  · rw [if_pos h, if_pos h]
  · rw [if_neg h, if_neg h]

/-- The vectors that a firing leaves do not depend on the queues. -/
theorem State.vecs_fireVec_queues {s t : State} {n : Nat} {qs : Map Queue} (h : t.fn n = { s.fn n with queues := qs }) (v : Nat) :
    ((t.fireVec n v).fn n).vecs = ((s.fireVec n v).fn n).vecs := by
  simp only [State.fireVec, State.fn_updFn_self, h]

theorem State.fn_updQueue_of {s t : State} {n : Nat} {qs : Map Queue} (h : s.fn n = { t.fn n with queues := qs }) (q : Nat) (f : Queue → Queue) :
    ∃ qs', (s.updQueue n q f).fn n = { t.fn n with queues := qs' } := by
  rw [State.updQueue, State.fn_updFn_self, h]
  exact ⟨_, rfl⟩

theorem completionPosted {s : State} {fn n : Nat} {c : Compl} {rest : List Compl} (hfn : fn < fnCount) (hn : n < queueMax)
    (hposts : (s.queue fn n).posts = c :: rest) (hen : (s.queue fn n).en = true) (ht : (s.fn fn).tearing = false) (hloc : (s.queue fn n).loc = false) :
    let q := s.queue fn n
    let next := (q.cqtail + 1) % q.cqSize
    let loud := statusClass c.status ≠ 0 ∨ max 1 (field q.mod.toNat 7 0) ≤ q.unsignalled + 1
    (next = q.cqhead → exec (.completionPost fn n) s = .next s) ∧
    (next ≠ q.cqhead → ∃ t, exec (.completionPost fn n) s = .next t ∧
      (∀ k, t.hostByte k = if q.cqbase.toNat + 16 * q.cqtail ≤ k ∧ k < q.cqbase.toNat + 16 * q.cqtail + 16
        then (c.bytes q.phase).getD (k - (q.cqbase.toNat + 16 * q.cqtail)) 0 else s.hostByte k) ∧
      t.queue fn n = { q with posts := rest, cqtail := next, phase := if next = 0 then !q.phase else q.phase
                              unsignalled := if loud then 0 else q.unsignalled + 1 } ∧
      (¬loud → (t.fn fn).vecs = (s.fn fn).vecs) ∧
      (loud → (t.fn fn).vecs = ((s.fireVec fn (n + 1)).fn fn).vecs)) := by
  intro q next loud
  obtain ⟨u, hu⟩ : ∃ u, u = s.hostWrite (q.cqbase.toNat + 16 * q.cqtail) (c.bytes q.phase) := ⟨_, rfl⟩
  obtain ⟨v, hv⟩ : ∃ v, v = u.updQueue fn n (fun x => { x with
    posts := rest, cqtail := next, phase := if next = 0 then !x.phase else x.phase, unsignalled := x.unsignalled + 1 }) := ⟨_, rfl⟩
  have hpost : s.completionPost fn n = if next == q.cqhead then s else if loud then (v.updQueue fn n (fun x => { x with unsignalled := 0 })).fireVec fn (n + 1) else v := by
    unfold State.completionPost
    dsimp only
    rw [hposts]
    dsimp only
    rw [hen, ht, hloc, hv, hu]
    rfl
  have hexec := done_next (c := .completionPost fn n) (by simp [Instr.wellFormed, hfn, hn]) (t := s.completionPost fn n)
  refine ⟨fun h => hexec.trans (congrArg _ (hpost.trans (if_pos (by simpa using h)))), fun h => ⟨_, hexec.trans (congrArg _ (hpost.trans (if_neg (by simpa using h)))), ?_⟩⟩
  obtain ⟨hfns, hbyte⟩ := s.hostWrite_spec (q.cqbase.toNat + 16 * q.cqtail) (c.bytes q.phase)
  rw [← hu] at hfns hbyte
  rw [Compl.bytes_length] at hbyte
  have hvbyte (k : Nat) := (show v.hostByte k = u.hostByte k by rw [hv]; rfl).trans (hbyte k)
  have huq : u.queue fn n = q := by simp only [State.queue, State.fn, hfns]; rfl
  have hvq : v.queue fn n = { q with
      posts := rest, cqtail := next, phase := if next = 0 then !q.phase else q.phase, unsignalled := q.unsignalled + 1 } := by
    rw [hv, State.queue_updQueue_self, huq]
  have hufn : u.fn fn = { s.fn fn with queues := (s.fn fn).queues } := by rw [State.fn, hfns]; rfl
  obtain ⟨qs, hvfn⟩ := State.fn_updQueue_of hufn n (fun x => { x with
    posts := rest, cqtail := next, phase := if next = 0 then !x.phase else x.phase, unsignalled := x.unsignalled + 1 })
  rw [← hv] at hvfn
  have hvecs : (v.fn fn).vecs = (s.fn fn).vecs := by rw [hvfn]
  by_cases hloud : loud
  · rw [if_pos hloud]
    refine ⟨hvbyte, ?_, fun h => absurd hloud h, fun _ => ?_⟩
    · rw [State.queue_fireVec, State.queue_updQueue_self, hvq, if_pos hloud]
    · obtain ⟨qs', hwfn⟩ := State.fn_updQueue_of hvfn n (fun x => { x with unsignalled := 0 })
      exact State.vecs_fireVec_queues hwfn (n + 1)
  · rw [if_neg hloud]
    exact ⟨hvbyte, by rw [hvq, if_neg hloud], fun _ => hvecs, fun h => absurd h hloud⟩

theorem completions : Sys2Proof.Claims.Completions := by
  refine ⟨fun s e x st res => ?_,
    fun s e x st res p h old t hok hx hst hsig hen hp ht => entrySignals hok hx hst hsig hen hp ht, fun s fn n c rest => ?_, fun s fn n => ?_, fun s fn v => ?_⟩
  · intro q hok hentries hn hst hsig hposted hen hjob hopen
    exact entryFinished hok hentries hn hst hsig hposted hen hjob hopen
  · intro q next loud hfn hn hposts hen ht hloc
    exact completionPosted hfn hn hposts hen ht hloc
  · intro q hfn hn hpos hmod
    exact (done_next (c := .modtimeExpires fn n) (by simp [Instr.wellFormed, hfn, hn])).trans (congrArg _ (if_neg (by
      rw [not_or]; exact ⟨Nat.pos_iff_ne_zero.1 hpos, hmod⟩)))
  · intro x
    rw [State.fireVec, State.fn_updFn_self]
    dsimp only
    rw [Map.getD_upd, if_pos rfl]
    simp only [Bool.or_eq_true]
    rfl

/-- Settles O37, from the fetch of an entry, its checks, its end and the completions. -/
theorem queueEngine : Obligations.QueueEngine :=
  ⟨⟨fun _ _ _ hfn hn hhas hrun hmore => entryFetched hfn hn hhas hrun hmore, fun _ _ _ _ hp hcourses => State.fetchCheck_spec hp hcourses⟩, completions⟩

end Sys2Proof.Machine

/-! SUPPORT. Accesses of the local store, and FENCE (R87, R118, R120, R147). -/

namespace Sys2Proof.Machine

open Sys2Proof.Claims

/-! ## The bytes of a local store -/

theorem leBytes_length (n v : Nat) : (leBytes n v).length = n := by
  induction n generalizing v with
  | zero => rfl
  | succ n ih => rw [leBytes, List.length_cons, ih]

theorem leBytes_getD {n k : Nat} (h : k < n) (v : Nat) : (leBytes n v).getD k 0 = BitVec.ofNat 8 (v / 2 ^ (8 * k)) := by
  induction n generalizing v k with
  | zero => omega
  | succ n ih =>
    cases k with
    | zero => simp [leBytes]
    | succ k =>
      rw [leBytes, List.getD_cons_succ, ih (by omega), Nat.shiftRight_eq_div_pow, Nat.div_div_eq_div_mul, ← Nat.pow_add]
      congr 3
      omega

/-- Bytes in a row replace those of their addresses, and no other byte. -/
theorem putList_spec {m : Map Byte} (h : m.rising = true) (a : Nat) (bs : List Byte) :
    (putList m a bs).rising = true ∧
    ∀ x, (putList m a bs).getD x 0 = if a ≤ x ∧ x < a + bs.length then bs.getD (x - a) 0 else m.getD x 0 := by
  induction bs generalizing m a with
  | nil => exact ⟨h, fun x => by rw [if_neg (by simp only [List.length_nil]; omega)]; rfl⟩
  | cons b bs ih =>
    have hr : (if b = 0 then Map.del m a else Map.put m a b).rising = true := by
      split
      · exact Map.del_rising h a
      · exact Map.put_rising h a b
    have hx : ∀ x, (if b = 0 then Map.del m a else Map.put m a b).getD x 0 = if x = a then b else m.getD x 0 := by
      intro x
      by_cases hxa : x = a
      · subst hxa
        split
        · next hb => simp [Map.getD, Map.get?_del_self h, hb]
        · simp [Map.getD, Map.get?_put_self]
      · rw [if_neg hxa]
        split
        · simp [Map.getD, Map.get?_del_of_ne _ hxa]
        · simp [Map.getD, Map.get?_put_of_ne _ _ hxa]
    obtain ⟨ih1, ih2⟩ := ih hr (a + 1)
    refine ⟨ih1, fun x => ?_⟩
    rw [putList, ih2, hx, List.length_cons]
    by_cases hlt : a + 1 ≤ x ∧ x < a + 1 + bs.length
    · obtain ⟨y, rfl⟩ : ∃ y, x = a + 1 + y := ⟨x - (a + 1), by omega⟩
      rw [if_pos hlt, if_pos (by omega), show a + 1 + y - a = y + 1 by omega, show a + 1 + y - (a + 1) = y by omega, List.getD_cons_succ]
    · rw [if_neg hlt]
      by_cases hxa : x = a
      · subst hxa; simp
      · rw [if_neg hxa, if_neg (by omega)]

/-! ## Writes of the local store -/

theorem State.OnlyCore.self {s t : State} {k : Nat} (h : s.OnlyCore t k) : t.OnlyCore t k := by
  have hc : t.grid.cores = s.grid.cores.put k (t.core k) := by conv => lhs; rw [h]
  rw [State.OnlyCore, hc, Map.put_put, ← hc]

/-- Nothing but the bytes and husks of the local store of a core. -/
def State.OnlyStore (s t : State) (k : Nat) : Prop :=
  s.OnlyCore t k ∧ ∃ ls husks, t.core k = { s.core k with ls := ls, lsHusk := husks }

theorem State.OnlyStore.slot {s t : State} {k : Nat} (h : s.OnlyStore t k) (j : Nat) : t.slot k j = s.slot k j := by
  obtain ⟨_, _, _, h⟩ := h
  rw [State.slot, h]
  rfl

theorem State.OnlyStore.thread {s t : State} {k : Nat} (h : s.OnlyStore t k) (m : Nat) : t.thread k m = s.thread k m := by
  rw [State.thread, h.slot]
  rfl

theorem State.onlyStore_lsWrite {s t : State} {k : Nat} (h : s.OnlyStore t k) (off : Nat) (bs : List Byte) :
    s.OnlyStore (t.lsWrite k off bs) k := by
  obtain ⟨h1, _, _, h2⟩ := h
  refine ⟨h1.trans (t.updCore_only k _), ?_⟩
  rw [State.lsWrite, State.core_updCore, if_pos rfl, h2]
  exact ⟨_, _, rfl⟩

/-- The writes of a list, each at its place. -/
def State.lsWrites (s : State) (k : Nat) (off : Nat → Nat) (data : Nat → List Byte) (ms : List Nat) : State :=
  ms.foldl (fun t m => t.lsWrite k (off m) (data m)) s

theorem State.onlyStore_lsWrites {s t : State} {k : Nat} (h : s.OnlyStore t k) (off : Nat → Nat) (data : Nat → List Byte) (ms : List Nat) :
    s.OnlyStore (t.lsWrites k off data ms) k := by
  induction ms generalizing t with
  | nil => exact h
  | cons m ms ih => exact ih (State.onlyStore_lsWrite h _ _)

theorem State.lsWrite_spec {s : State} {k : Nat} (h : (s.core k).ls.rising = true) (off : Nat) (bs : List Byte) :
    ((s.lsWrite k off bs).core k).ls.rising = true ∧
    ∀ x, (s.lsWrite k off bs).lsByte k x = if off ≤ x ∧ x < off + bs.length then bs.getD (x - off) 0 else s.lsByte k x := by
  simp only [State.lsByte, State.lsWrite, State.core_updCore]
  exact putList_spec h off bs

section
variable {s : State} {k size : Nat} {off : Nat → Nat} {data : Nat → List Byte}

/-- A byte that no write of the list reaches stays. -/
theorem State.lsWrites_outside (h : (s.core k).ls.rising = true) (ms : List Nat) (hd : ∀ m ∈ ms, (data m).length = size) :
    ((s.lsWrites k off data ms).core k).ls.rising = true ∧
    ∀ x, (∀ m ∈ ms, x < off m ∨ off m + size ≤ x) → (s.lsWrites k off data ms).lsByte k x = s.lsByte k x := by
  induction ms generalizing s with
  | nil => exact ⟨h, fun _ _ => rfl⟩
  | cons m ms ih =>
    obtain ⟨w1, w2⟩ := State.lsWrite_spec h (off m) (data m)
    obtain ⟨i1, i2⟩ := ih w1 (fun n hn => hd n (List.mem_cons_of_mem _ hn))
    refine ⟨i1, fun x hx => (i2 x (fun n hn => hx n (List.mem_cons_of_mem _ hn))).trans ?_⟩
    have := hx m (List.mem_cons_self ..)
    rw [w2, hd m (List.mem_cons_self ..), if_neg (by omega)]

/-- The last write of the list stands. -/
theorem State.lsWrites_last (h : (s.core k).ls.rising = true) (ms : List Nat) (m : Nat) (hd : ∀ n ∈ ms ++ [m], (data n).length = size)
    {x : Nat} (hx : x < size) : (s.lsWrites k off data (ms ++ [m])).lsByte k (off m + x) = (data m).getD x 0 := by
  have hw := (State.lsWrites_outside (off := off) h ms (fun n hn => hd n (by simp [hn]))).1
  rw [State.lsWrites, List.foldl_append]
  refine ((State.lsWrite_spec hw (off m) (data m)).2 _).trans ?_
  rw [hd m (by simp), if_pos (by omega), Nat.add_sub_cancel_left]

end

/-! ## The local store of a core at an issue -/

section
variable {s : State} {i : Issue} {q : Form}

theorem State.issued_ls (s : State) (i : Issue) (q : Form) : ((s.issued i q).core i.core).ls = (s.core i.core).ls ∧
    ((s.issued i q).core i.core).lsHusk = (s.core i.core).lsHusk ∧ ((s.issued i q).core i.core).lsWin = (s.core i.core).lsWin := by
  have h := (s.issued_spec i q).1.2.1
  exact ⟨by simpa using congrArg Core.ls h, by simpa using congrArg Core.lsHusk h, by simpa using congrArg Core.lsWin h⟩

theorem State.issued_lsByte (s : State) (i : Issue) (q : Form) (x : Nat) : (s.issued i q).lsByte i.core x = s.lsByte i.core x := by
  rw [State.lsByte, (s.issued_ls i q).1]; rfl

theorem State.issued_lsOk (s : State) (i : Issue) (q : Form) (ctx off len : Nat) :
    (s.issued i q).lsOk i.core ctx off len = s.lsOk i.core ctx off len := by
  unfold State.lsOk
  rw [(s.issued_ls i q).2.2]

theorem State.issued_lsHusks (s : State) (i : Issue) (q : Form) (off len : Nat) :
    (s.issued i q).lsHusks i.core off len = s.lsHusks i.core off len := by
  rw [State.lsHusks, (s.issued_ls i q).2.1]; rfl

theorem State.issued_lsAddr {m : Nat} (hm : m ∈ s.acting i q) (a : Reg) (imm : Word) :
    (s.issued i q).lsAddr i.core m [a] imm = ((s.regOf i.core m a).setWidth 64 + imm.signExtend 64).toNat := by
  obtain ⟨sl, hs⟩ := State.acting_slot hm
  rw [State.lsAddr, State.issued_regsNat hm, State.regsNat_one (by rw [hs]; rfl), BitVec.ofNat_toNat]

theorem State.badLocal_eq_none {t : State} {k ctx size : Nat} {l : List (Nat × Nat)}
    (h : ∀ y ∈ l, y.2 % size = 0 ∧ t.lsOk k ctx y.2 size) : t.badLocal k ctx size l = none := by
  induction l with
  | nil => rfl
  | cons y l ih =>
    obtain ⟨m, a⟩ := y
    obtain ⟨hal, hok⟩ := h _ (List.mem_cons_self ..)
    rw [State.badLocal, if_neg (fun hn => hn hal), hok]
    exact ih fun y hy => h y (List.mem_cons_of_mem _ hy)

theorem State.issued_badLocal {a : Reg} {imm : Word} {ctx size : Nat} (h : ∀ m ∈ s.acting i q,
      ((s.regOf i.core m a).setWidth 64 + imm.signExtend 64).toNat % size = 0 ∧
      s.lsOk i.core ctx ((s.regOf i.core m a).setWidth 64 + imm.signExtend 64).toNat size) :
    (s.issued i q).badLocal i.core ctx size ((s.acting i q).map (fun m => (m, (s.issued i q).lsAddr i.core m [a] imm))) = none := by
  refine State.badLocal_eq_none fun y hy => ?_
  obtain ⟨m, hm, rfl⟩ := List.mem_map.1 hy
  rw [State.issued_lsAddr hm, State.issued_lsOk]
  exact h m hm

end

/-! ## LDL -/

theorem Slot.pendAll_wordsOfNat (sl : Slot) (tag p : Nat) (d : List Reg) (b : Bool) {n : Nat} (h : d.length ≤ n) (v : Nat) :
    sl.pendAll tag p d (wordsOfNat n v) b = sl.pendAll tag p d (wordsOfNat d.length v) b := by
  induction d generalizing sl n v with
  | nil => cases n <;> rfl
  | cons r d ih =>
    obtain ⟨n, rfl⟩ : ∃ n', n = n' + 1 := ⟨n - 1, by simp only [List.length_cons] at h; omega⟩
    rw [wordsOfNat, List.length_cons, wordsOfNat, Slot.pendAll, Slot.pendAll]
    exact ih _ (by simpa using h) _

theorem pendings_wordsOfNat (tag p : Nat) (d : List Reg) (b : Bool) {n : Nat} (h : d.length ≤ n) (v : Nat) :
    pendings tag p b d (wordsOfNat n v) = pendings tag p b d (wordsOfNat d.length v) := by
  induction d generalizing n v with
  | nil => cases n <;> rfl
  | cons r d ih =>
    obtain ⟨n, rfl⟩ : ∃ n', n = n' + 1 := ⟨n - 1, by simp only [List.length_cons] at h; omega⟩
    rw [wordsOfNat, List.length_cons, wordsOfNat]
    have ih := ih (n := n) (by simpa using h) (v / 2 ^ 32)
    cases r <;> simp only [pendings, ih]

/-- Pending results whose values do not depend on the registers. -/
theorem State.foldl_pend {x : State} {k : Nat} {d : List Reg} {n : Nat} (hn : d.length ≤ n) (srcs : List (List Reg)) (v : Nat → Nat) (ms : List Nat)
    (hs : ∀ m ∈ ms, (x.slot k (m / 16)).isSome) :
    ms.foldl (fun t m => t.updSlot k (m / 16) (fun sl => sl.pendAll 0 (m % 16) d (wordsOfNat n (v m)) true)) x =
      x.lanePend k srcs d (fun m _ _ => v m) ms := by
  induction ms generalizing x with
  | nil => rfl
  | cons m ms ih =>
    obtain ⟨sl, hsl⟩ := Option.isSome_iff_exists.1 (hs m (List.mem_cons_self ..))
    have hl := x.updSlot_inLanes k (m / 16) (fun sl => sl.pendAll 0 (m % 16) d (wordsOfNat n (v m)) true)
      (hs m (List.mem_cons_self ..)) (fun sl => by simp)
    rw [List.foldl_cons, ih (fun n hn => by rw [hl.isSome]; exact hs n (List.mem_cons_of_mem _ hn)), State.lanePend]
    simp only [Slot.pendAll_wordsOfNat _ _ _ _ _ hn]
    rw [State.result, hsl]

theorem regWidth_le {t size : Nat} {sext : Bool} (h : sizeOfType t = some (size, sext)) : regWidth size ≤ 4 := by
  unfold sizeOfType at h
  split at h <;> simp_all [regWidth] <;> grind

theorem State.compute_xu_eq {s : State} {i : Issue} {g : BitVec 5} {a : Reg} {d : List Reg} (w : Nat) (v : Nat → Nat) (hl : s.Leads i)
    (hg : guardLegal g) : s.compute true false i g w true [some [a]] (some d) (fun m _ _ => v m) =
      ((s.issued i (formOf g false [a] d)).lanePend i.core [[a]] d (fun m _ _ => v m) (writers d (s.acting i (formOf g false [a] d)))).nextPc
        i.core (s.going i (formOf g false [a] d)) := by
  have hbound : (false || [[a]].any (·.any Reg.isU) || d.any Reg.isU) = (formOf g false [a] d).bound := by simp [formOf]
  simp only [State.compute, allRegs, Option.map_some, Option.getD_some, hbound]
  exact State.issue_acts s i (formOf g false [a] d) w
    (fun s go on => (s.lanePend i.core [[a]] d (fun m _ _ => v m) (writers d on)).nextPc i.core go) hl hg

/-- LDL at places of the window of its context that hold no husk is the instruction of the XU whose results are what is read there. -/
theorem exec_ldl {s : State} {i : Issue} {f : FormI} {size : Nat} {sext : Bool} {a : Reg} {d : List Reg} {off : Nat → Nat}
    (hl : s.Leads i) (hg : guardLegal f.guard) (hsize : sizeOfType f.type.toNat = some (size, sext))
    (hmod : f.mod = 0) (ha : specifier f.sa = some a) (hd : specifiers (regWidth size) f.dst = some d)
    (hoff : ∀ m, off m = ((s.regOf i.core m a).setWidth 64 + f.imm.signExtend 64).toNat)
    (hacc : ∀ m ∈ s.acting i (formOf f.guard false [a] d), off m % size = 0 ∧ s.lsOk i.core (s.slotCtx i) (off m) size ∧
      s.lsHusks i.core (off m) size = false) :
    exec (.ldl i f) s = .next (s.compute true false i f.guard (iWord 0x52 f) true [some [a]] (some d)
      (fun m _ _ => extendLoad size sext (ofLe ((List.range size).map (fun k => s.lsByte i.core (off m + k)))))) := by
  rw [State.compute_xu_eq _ _ hl hg]
  generalize hq : formOf f.guard false [a] d = q at hacc ⊢
  have hgq : guardLegal q.guard := by rw [← hq]; exact hg
  have hbound : ([a].any Reg.isU || d.any Reg.isU) = q.bound := by simp [← hq, formOf]
  have hlen : d.length ≤ 4 := Nat.le_trans (Nat.le_of_eq (specifiers_length hd)) (regWidth_le hsize)
  have hsub : ∀ m ∈ writers d (s.acting i q), m ∈ s.acting i q := fun m hm => writers_sub hm
  have haddr : ∀ m ∈ s.acting i q, (s.issued i q).lsAddr i.core m [a] f.imm = off m := fun m hm =>
    (State.issued_lsAddr hm a f.imm).trans (hoff m).symm
  refine (done_next (c := .ldl i f) hl.ok).trans (congrArg _ ?_)
  simp only [hsize, regs_specifiers hd, regs_specifier ha, Option.getD_some, Option.isSome_some, hmod, beq_self_eq_true, Bool.and_true, hbound]
  have hqr : q = ⟨f.guard, q.bound, [a]⟩ := by rw [← hq]; rfl
  have hrd : q.reads = [a] := by rw [← hq]; rfl
  have hgd : q.guard = f.guard := by rw [← hq]; rfl
  rw [← hrd, ← hgd, State.issue_acts s i q _ _ hl hgq, hrd,
    State.issued_badLocal fun m hm => by rw [← hoff]; exact ⟨(hacc m hm).1, (hacc m hm).2.1⟩,
    List.find?_eq_none.2 fun m hm => by rw [State.issued_lsHusks, haddr m hm, (hacc m hm).2.2]; exact Bool.false_ne_true]
  refine congrArg (fun t => State.nextPc t i.core (s.going i q)) ?_
  rw [← State.foldl_pend hlen [[a]] _ _ fun m hm => State.issued_isSome (State.mem_acting (hsub m hm))]
  refine foldl_eq_of_mem fun t m hm => ?_
  simp only [haddr m (hsub m hm), State.lsNat, State.lsRead, State.issued_lsByte]

theorem loadLocal {s : State} {i : Issue} {f : FormI} {size : Nat} {sext : Bool} {a : Reg} {d : List Reg} {off : Nat → Nat}
    (hl : s.Leads i) (hg : guardLegal f.guard) (hsize : sizeOfType f.type.toNat = some (size, sext))
    (hmod : f.mod = 0) (ha : specifier f.sa = some a) (hd : specifiers (regWidth size) f.dst = some d)
    (hoff : ∀ m, off m = ((s.regOf i.core m a).setWidth 64 + f.imm.signExtend 64).toNat)
    (hacc : ∀ m ∈ s.acting i (formOf f.guard false [a] d), off m % size = 0 ∧ s.lsOk i.core (s.slotCtx i) (off m) size ∧
      s.lsHusks i.core (off m) size = false) :
    ∃ t, exec (.ldl i f) s = .next t ∧ s.XuResult t i (formOf f.guard false [a] d) d (fun m =>
      wordsOfNat 4 (extendLoad size sext (ofLe ((List.range size).map (fun k => s.lsByte i.core (off m + k)))))) := by
  refine ⟨_, exec_ldl hl hg hsize hmod ha hd hoff hacc, ?_⟩
  have hlen : d.length ≤ 4 := Nat.le_trans (Nat.le_of_eq (specifiers_length hd)) (regWidth_le hsize)
  simp only [State.XuResult, pendings_wordsOfNat _ _ _ _ hlen]
  exact State.compute_xu_val s i f.guard _ true false [some [a]] [[a]] (some d) d _ _ _ hl hg rfl rfl rfl (by simp [formOf])
    fun _ _ _ _ => rfl

/-! ## STL -/

theorem storeLocal {s : State} {i : Issue} {f : FormI} {size : Nat} {a : Reg} {d : List Reg} {off : Nat → Nat}
    (hl : s.Leads i) (hg : guardLegal f.guard) (hsize : sizeOfType f.type.toNat = some (size, false))
    (hmod : f.mod = 0) (ha : specifier f.sa = some a) (hd : specifiers (regWidth size) f.dst = some d)
    (hoff : ∀ m, off m = ((s.regOf i.core m a).setWidth 64 + f.imm.signExtend 64).toNat)
    (hls : (s.core i.core).ls.rising = true)
    (hacc : ∀ m ∈ s.acting i (formOf f.guard false ([a] ++ d) []), off m % size = 0 ∧ s.lsOk i.core (s.slotCtx i) (off m) size) :
    ∃ t, exec (.stl i f) s = .next t ∧ s.OnlyCore t i.core ∧ s.Threads t i (formOf f.guard false ([a] ++ d) []) (fun _ th => th.past) ∧
      (∀ ms m, s.acting i (formOf f.guard false ([a] ++ d) []) = ms ++ [m] →
        ∀ k < size, t.lsByte i.core (off m + k) = BitVec.ofNat 8 (s.regsNat i.core m d / 2 ^ (8 * k))) ∧
      ∀ x, (∀ m ∈ s.acting i (formOf f.guard false ([a] ++ d) []), x < off m ∨ off m + size ≤ x) →
        t.lsByte i.core x = s.lsByte i.core x := by
  have hbound : ([a].any Reg.isU || d.any Reg.isU) = (formOf f.guard false ([a] ++ d) []).bound := by simp [formOf]
  have hreads : [a] ++ d = (formOf f.guard false ([a] ++ d) []).reads := rfl
  have hguard : f.guard = (formOf f.guard false ([a] ++ d) []).guard := rfl
  generalize hq : formOf f.guard false ([a] ++ d) [] = q at *
  have haddr : ∀ m ∈ s.acting i q, (s.issued i q).lsAddr i.core m [a] f.imm = off m := fun m hm =>
    (State.issued_lsAddr hm a f.imm).trans (hoff m).symm
  obtain ⟨h1, h2, h3, h4, h5⟩ := s.issued_spec i q
  obtain ⟨data, hdata⟩ : ∃ data : Nat → List Byte, data = fun m => leBytes size (s.regsNat i.core m d) := ⟨_, rfl⟩
  have hlen : ∀ m, (data m).length = size := fun m => by rw [hdata]; exact leBytes_length _ _
  obtain ⟨u, hu⟩ : ∃ u, u = (s.issued i q).lsWrites i.core off data (s.acting i q) := ⟨_, rfl⟩
  have hou : (s.issued i q).OnlyStore u i.core := by rw [hu]; exact State.onlyStore_lsWrites ⟨h2, _, _, rfl⟩ off data _
  have hrise : ((s.issued i q).core i.core).ls.rising = true := by rw [(s.issued_ls i q).1]; exact hls
  obtain ⟨n1, n2, n3, n4⟩ := State.nextPc_spec u i.core (s.going i q) (fun m hm => by rw [hou.slot]; exact State.issued_isSome hm) (s.going_nodup i q)
  have hself : u.InLanes u i.core := ⟨hou.1.self, rfl, fun _ => rfl⟩
  have hlast := n1 _ hself
  have hbyte : ∀ x, (u.nextPc i.core (s.going i q)).lsByte i.core x = u.lsByte i.core x := fun x => by
    rw [State.lsByte, show ((u.nextPc i.core (s.going i q)).core i.core).ls = (u.core i.core).ls by simpa using congrArg Core.ls hlast.2.1]
    rfl
  refine ⟨u.nextPc i.core (s.going i q), (done_next (c := .stl i f) hl.ok).trans (congrArg _ ?_), ?_, ?_, ?_, ?_⟩
  · simp only [hsize, regs_specifiers hd, regs_specifier ha, Option.getD_some, Option.isSome_some, hmod, beq_self_eq_true, Bool.and_true, hbound,
      Bool.not_false]
    rw [hreads, hguard, State.issue_acts s i q _ _ hl (by rw [← hguard]; exact hg),
      State.issued_badLocal fun m hm => by rw [← hoff]; exact hacc m hm]
    refine congrArg (fun t => State.nextPc t i.core (s.going i q)) ?_
    rw [hu, hdata]
    refine foldl_eq_of_mem fun t m hm => ?_
    rw [haddr m hm, State.issued_regsNat hm]
  · exact (h1.1.trans hou.1).trans hlast.1
  · refine State.Threads.of_act (u := u) (act := fun _ th => th) (fun n => ?_) n2
    rw [hou.thread]
    split
    · next hn => exact State.issued_thread (State.mem_acting hn)
    · rfl
  · intro ms m hms k hk
    rw [hbyte, hu, hms, State.lsWrites_last hrise ms m (fun n _ => hlen n) hk, hdata]
    exact leBytes_getD hk _
  · intro x hx
    rw [hbyte, hu, (State.lsWrites_outside hrise (s.acting i q) (fun m _ => hlen m)).2 x hx, State.issued_lsByte]

/-- R118, R87: loads and stores of the local store. -/
theorem localStore : LocalStore := by
  intro s i f size sext a d off hl hg hsize hmod ha hd
  refine ⟨fun hacc => loadLocal hl hg hsize hmod ha hd (fun _ => rfl) hacc, fun hsx hls hacc => ?_⟩
  subst hsx
  exact storeLocal hl hg hsize hmod ha hd (fun _ => rfl) hls hacc

/-! ## FENCE -/

section
variable {s : State} {i : Issue} {f : FormI}

/-- What a FENCE of a wider scope does at its issue. -/
def State.atFence (t : State) (i : Issue) (ctx scope : Nat) (go on : List Nat) : State :=
  t.nextPc i.core (go.filter (fun m => !(on.contains m &&
    (t.unaccepted i.core m || t.unverified i.core ctx || (scope == 3 && t.unacked i.core m)))))

theorem exec_fence {q : Form} (hq : q = ⟨f.guard, false, []⟩) (hl : s.Leads i) (hg : guardLegal f.guard) (ht : f.type = 0) (hm : f.mod = 0)
    (hd : f.dst = 0) (hsa : f.sa = 0) (himm : f.imm.toNat < 4) :
    exec (.fence i f) s = .next (if f.imm.toNat = 0 ∨ (s.acting i q).isEmpty then (s.issued i q).nextPc i.core (s.going i q)
      else (if s.lomcon (s.slotCtx i) then (s.issued i q).flushNear i.core else s.issued i q).atFence i (s.slotCtx i) f.imm.toNat
        (s.going i q) (s.acting i q)) := by
  subst hq
  refine (done_next (c := .fence i f) hl.ok).trans (congrArg _ ?_)
  simp only [ht, hm, hd, hsa, himm, beq_self_eq_true, decide_true, Bool.and_true]
  refine (State.issue_acts s i ⟨f.guard, false, []⟩ _ _ hl hg).trans ?_
  rw [State.issued_lomcon]
  rfl

theorem State.issued_unaccepted (q : Form) (m : Nat) : (s.issued i q).unaccepted i.core m = s.unaccepted i.core m := by
  rw [State.unaccepted, State.issued_mem]; rfl

theorem State.issued_unverified (q : Form) (ctx : Nat) : (s.issued i q).unverified i.core ctx = s.unverified i.core ctx := by
  rw [(s.issued_spec i q).1.1]; rfl

theorem State.issued_unacked (q : Form) (m : Nat) : (s.issued i q).unacked i.core m = s.unacked i.core m := by
  rw [(s.issued_spec i q).1.1]; rfl

@[simp] theorem State.nextPc_lines (k : Nat) (ms : List Nat) : ((s.nextPc k ms).core k).lines = (s.core k).lines := by
  induction ms generalizing s with
  | nil => rfl
  | cons m ms ih => exact ih.trans (congrArg Core.lines (s.core_updSlot k (m / 16) _) : _)

/-- The threads whose guard is true stay where they are; the others of the group go on. -/
theorem State.idling_goes (q : Form) : s.Goes ((s.issued i q).nextPc i.core (s.idling i q)) i q (fun _ th => th) := by
  obtain ⟨h1, _, _, h4, h5⟩ := s.issued_spec i q
  obtain ⟨n1, n2, n3, n4⟩ := State.nextPc_spec (s.issued i q) i.core (s.idling i q)
    (fun m hm => State.issued_isSome (State.mem_idling.1 hm).1) (s.idling_nodup i q)
  refine ⟨h1.inLanes rfl (n1 _ (s.issued_inLanes_self i q)), ?_, fun j => (n3 j).trans (h4 j), fun j => (n4 j).trans (h5 j)⟩
  refine State.Threads.of_idling fun n => ?_
  rw [n2 n]
  by_cases ha : n ∈ s.acting i q
  · have hi : n ∉ s.idling i q := fun h => (State.mem_idling.1 h).2 ha
    simp [ha, hi, State.issued_thread (State.mem_acting ha)]
  · simp [ha]

end

/-- R120, R147: FENCE. -/
theorem fence : Fence := by
  intro s i f q hl hg ht hm hd hsa himm
  have hexec := exec_fence (q := q) rfl hl hg ht hm hd hsa himm
  have hzero : f.imm.toNat = 0 ↔ f.imm = 0 := ⟨fun h => BitVec.eq_of_toNat_eq h, fun h => by rw [h]; rfl⟩
  refine ⟨fun h => ⟨_, hexec, ?_⟩, fun h0 hlom hopen => ⟨_, hexec, ?_⟩, fun h0 hlom hne => ⟨_, hexec, ?_⟩⟩
  · have hid := s.acts_id_goes i q
    split
    · exact hid
    · next hc =>
      obtain ⟨h0, hne⟩ := not_or.1 hc
      obtain h | ⟨hlom, hclosed⟩ := h
      · exact absurd (hzero.2 h) h0
      rw [if_neg (by rw [hlom]; exact Bool.false_ne_true), State.atFence, List.filter_eq_self.2]
      · exact hid
      · intro m _
        by_cases ha : m ∈ s.acting i q
        · obtain ⟨ha1, ha2, ha3⟩ := hclosed m ha
          have h3 : (f.imm.toNat == 3 && s.unacked i.core m) = false := by
            by_cases h3 : f.imm = 3
            · rw [ha3 h3, Bool.and_false]
            · have : f.imm.toNat ≠ 3 := fun h => h3 (BitVec.eq_of_toNat_eq h)
              simp [this]
          simp [State.issued_unaccepted, State.issued_unverified, State.issued_unacked, ha1, ha2, h3]
        · simp [ha]
  · split
    · next hc =>
      have hnil : s.acting i q = [] := by simpa using hc.resolve_left (fun h => h0 (hzero.1 h))
      have hidle : s.idling i q = s.going i q := List.filter_eq_self.2 fun m _ => by simp [hnil]
      rw [← hidle]
      exact s.idling_goes q
    · have hidle : (s.going i q).filter (fun m => !((s.acting i q).contains m && ((s.issued i q).unaccepted i.core m ||
          (s.issued i q).unverified i.core (s.slotCtx i) || (f.imm.toNat == 3 && (s.issued i q).unacked i.core m)))) = s.idling i q := by
        refine List.filter_congr fun m _ => ?_
        by_cases ha : m ∈ s.acting i q
        · simp [State.issued_unaccepted, hopen m ha]
        · simp [ha]
      rw [if_neg (by rw [hlom]; exact Bool.false_ne_true), State.atFence, hidle]
      exact s.idling_goes q
  · rw [if_neg (not_or.2 ⟨fun h => h0 (hzero.1 h), by simpa using hne⟩), if_pos hlom, State.atFence, State.nextPc_lines]
    exact ((s.issued i q).flushNear_spec i.core).2.2.2

/-- Settles O8: loads, stores and fences at a core, by the rule of an issue whose checks pass. -/
theorem localStoreAndFence : Obligations.LocalStoreAndFence := ⟨localStore, fence⟩

end Sys2Proof.Machine

/-! SUPPORT. Element-wise drain operations and the verdicts of shadow checks (R75, R171, R378, R380). -/

namespace Sys2Proof.Machine

open Sys2Proof.Claims

/-! ## Element-wise mode -/

theorem State.arrayStart_queue (s : State) (gid rows cols : Nat) :
    ((s.arrayStart gid rows cols).course (courseOfCore gid)).queue.length = (s.course (courseOfCore gid)).queue.length + 1 := by
  rw [State.arrayStart, State.course, State.updGang_courses]
  refine (congrArg (fun c : Course => c.queue.length) (State.course_updCourse_self ..)).trans ?_
  dsimp only
  split <;> simp

/-- R75, R400: an element pair at a tract shaped as one gang. -/
theorem elementWise : ElementWise := by
  intro s gid row ctx x y ncw dcw doff tid elem core n out hgid hrow hdims hctx hheld hpow hst
  have hwf : (Instr.elementWisePair gid row x y ncw dcw doff tid elem).wellFormed = true := by simp [Instr.wellFormed, hgid]; omega
  have hexec : exec (.elementWisePair gid row x y ncw dcw doff tid elem) s = .next (s.elementWise gid row x y ncw dcw doff tid elem) := done_next hwf
  have hopen : ¬ ((8 : Nat) ≠ 8 ∨ (8 : Nat) ≠ 8 ∨ row ≥ 32 ∨ (s.gang gid).held = true ∨ (s.course (courseOfCore gid)).power ≠ .run) := by
    simp [hheld, hpow]; omega
  have hdo : s.elementWise gid row x y ncw dcw doff tid elem =
      if !(s.gang gid).ew then (s.arrayStart gid 8 8).updGang gid (fun g => { g with ew := true })
      else if dcReserved dcw || ncwReserved ncw || dcDest dcw ≠ 1 then s.faultCtx ctx (s.gridReport core gngDescInvalid []) none
      else if doff % n ≠ 0 then s.faultCtx ctx (s.gridReport core shfMisaligned []) none
      else if !s.lsOk core ctx doff n then s.faultCtx ctx (s.gridReport core shfLsRange []) none
      else (s.lsWrite core doff (leBytes n out.1)).orFlags ctx out.2 := by
    unfold State.elementWise
    rw [hdims, hctx]
    exact if_neg hopen
  refine ⟨fun hew h1 h2 h3 h4 h5 => hexec.trans ?_, fun hew h1 => ⟨_, hexec, ?_⟩, fun hew => ⟨_, hexec, ?_⟩⟩
  · rw [hdo]
    simp [hew, h1, h2, h3, h4, h5]
  · have : s.elementWise gid row x y ncw dcw doff tid elem = s.faultCtx ctx (s.gridReport core gngDescInvalid []) none := by
      rw [hdo]; simp [hew, h1]
    rw [this]
    exact State.ctx_faultCtx_of_defined hst _ none
  · rw [hdo, hew]
    exact ⟨by simp [State.arrayStart], by simp, s.arrayStart_queue gid 8 8⟩

/-! ## The verdicts of shadow checks -/

theorem State.onlyBytes_saveCapture (s : State) (v : Shadow) (c1 c2 : List Word × List Word) : s.OnlyBytes (s.saveCapture v c1 c2) := by
  have hrange : ∀ (p : Part) (fuel x : Nat) (bs : List Byte) (t : State), t.OnlyBytes (t.rangeWrite p fuel x bs) := by
    intro p fuel
    induction fuel with
    | zero => exact fun x bs t => .refl t
    | succ fuel ih => exact fun x bs t => .ite (.refl t) ((t.onlyBytes_writeBytes ..).trans (ih ..))
  unfold State.saveCapture
  split
  · exact hrange ..
  · exact .refl s

theorem State.onlyReporting_of_onlyBytes {s t : State} (h : s.OnlyBytes t) : s.OnlyReporting t := by
  obtain ⟨_, _, _, rfl⟩ := h
  exact ⟨_, _, _, _, _, rfl⟩

/-- The grid and the courses are no part of a fault. -/
theorem State.faultCtx_units (s : State) (n : Nat) (rep : Report) (core : Option Nat) :
    (s.faultCtx n rep core).grid = s.grid ∧ (s.faultCtx n rep core).courses = s.courses := by
  have hrec := fun r => State.onlyReporting_rest (s.onlyReporting_record r)
  unfold State.faultCtx
  dsimp only
  split
  · exact ⟨rfl, rfl⟩
  · exact ⟨(hrec _).2.2.1, (hrec _).1⟩
  · exact ⟨(hrec _).2.2.1, (hrec _).1⟩

/-- A verdict against the drain of a context that belongs to no step faults the context, and retires a guilty core. -/
theorem State.giveVerdict_jobless {s : State} {v : Shadow} (hv : v.step = none) (hst : (s.ctx v.ctx).st = .defined) (st : Status) (detail : List Byte) :
    ∃ t, t.grid.shadows = s.grid.shadows.filter (fun x => x.id != v.id) ∧ t.grid.retires = s.grid.retires ∧ t.courses = s.courses ∧
      (t.ctx v.ctx).st = .faulted ∧ (t.ctx v.ctx).fault = st ∧
      s.giveVerdict v st detail = if st == gngShadowMismatch then t.retire (s.ctx v.ctx).fn v.core none true st else t := by
  have hstand : ∀ t : State, t.standing v = .none := fun t => by rw [State.standing, hv]
  obtain ⟨hg, hc⟩ := (s.dropShadow v.id).faultCtx_units v.ctx (s.verdictReport v st detail) none
  obtain ⟨h1, h2⟩ := State.ctx_faultCtx_of_defined (s := s.dropShadow v.id) hst (s.verdictReport v st detail) none
  refine ⟨_, congrArg Grid.shadows hg, (congrArg Grid.retires hg :), hc, h1, h2, ?_⟩
  unfold State.giveVerdict
  rw [hstand]
  unfold State.actVerdict
  rw [hstand]
  rfl

theorem State.retire_new {s : State} {core : Nat} (hr : s.grid.retires = []) (hrow : ((s.course (courseOfCore core)).retired.get? (coreRow core)).isNone)
    (fn : Nat) (jslot : Option Nat) (due : Bool) (cause : Status) : ∃ r : Retire, r.core = core ∧ r.due = due ∧
      s.retire fn core jslot due cause = { s with grid := { s.grid with retires := [r] } } := by
  have hnew : ¬ (s.grid.retires.any (fun r => r.core == core && !r.shifting)) = true := by simp [hr]
  have hfree : ¬ (((s.course (courseOfCore core)).retired.get? (coreRow core)).isSome ||
      s.grid.retires.any (fun r => r.course == courseOfCore core && r.row == coreRow core)) = true := by
    simpa [hr] using hrow
  refine ⟨{ course := courseOfCore core, row := coreRow core, col := coreCol core, core := core, tract := tractOfCore core, cause := cause
            due := due, shifting := false, fn := fn, jslot := jslot }, rfl, rfl, (if_neg hnew).trans ((if_neg hfree).trans ?_)⟩
  rw [hr]
  rfl

/-- The fields of a spare's failure: its row has no spare, and the journal says so. -/
theorem State.failSpare_spec (s : State) (v : Shadow) :
    ((s.failSpare v).course (courseOfCore v.core)).retired.get? v.rows.1 = some 32 ∧ (s.failSpare v).grid = s.grid ∧
      (s.failSpare v).tab = s.tab ∧ (s.failSpare v).truss.jcount = s.truss.jcount + 1 ∧
      ((s.failSpare v).truss.journal.get? (s.truss.jcount % 4096)).map JEntry.kind = some 8 := by
  obtain ⟨rep, n, d, hfail⟩ : ∃ rep n d, s.failSpare v =
      (((s.updCourse (courseOfCore v.core) (fun c => { c with retired := c.retired.put v.rows.1 32 })).record rep).journal n 2 8
        (courseOfCore v.core) d) := ⟨_, _, _, rfl⟩
  obtain ⟨hcourses, htruss, hgrid, htab⟩ := State.onlyReporting_rest (State.onlyReporting_record
    (s.updCourse (courseOfCore v.core) (fun c => { c with retired := c.retired.put v.rows.1 32 })) rep)
  rw [hfail]
  generalize State.record _ rep = u at *
  have hjcount : u.truss.jcount = s.truss.jcount := congrArg Truss.jcount htruss
  have hjournal : ((u.journal n 2 8 (courseOfCore v.core) d).truss.journal.get? (u.truss.jcount % 4096)).map JEntry.kind = some 8 :=
    congrArg (Option.map JEntry.kind) (Map.get?_put_self u.truss.journal (u.truss.jcount % 4096) _)
  rw [hjcount] at hjournal
  refine ⟨?_, hgrid, htab, congrArg (· + 1) hjcount, hjournal⟩
  have hcourse : (u.journal n 2 8 (courseOfCore v.core) d).course (courseOfCore v.core) =
      (s.updCourse (courseOfCore v.core) (fun c => { c with retired := c.retired.put v.rows.1 32 })).course (courseOfCore v.core) :=
    congrArg (fun c : Map Course => c.getD (courseOfCore v.core) Course.idle) hcourses
  rw [hcourse, State.course_updCourse_self]
  exact Map.get?_put_self _ _ _

theorem shadow_id {s : State} {id : Nat} {v : Shadow} (h : s.grid.shadows.find? (fun x => x.id == id) = some v) : v.id = id := by
  simpa using List.find?_some h

/-- R378, R380, R171: the verdicts of shadow checks. -/
theorem shadowVerdicts : ShadowVerdicts := by
  intro s id accs outs v fn hfind hverdict
  refine ⟨fun hc1 ha ho => ?_, fun hc1 hne => ?_, fun c1 hc1 hdiff hstep hst => ?_⟩
  · refine ⟨(s.dropShadow id).countShadow fn (fun g => g), ?_, rfl, ?_, rfl, rfl, rfl⟩
    · refine (done_next (c := .checkerResult id accs outs) rfl).trans (congrArg _ ?_)
      rw [hfind]
      simp [hc1, hverdict, ha, ho, fn]
    · rw [State.countShadow, State.fn_updFn_self]; rfl
  · have hb := State.onlyBytes_saveCapture { s with grid := { s.grid with shadows := s.grid.shadows.map (fun (x : Shadow) =>
      if x.id = id then { x with checker1 := some (accs, outs) } else x) } } v (accs, outs) ([], [])
    refine ⟨_, (done_next (c := .checkerResult id accs outs) rfl).trans (congrArg _ ?_), congrArg Grid.shadows hb.grid, hb.fns,
      congrArg Tables.ctxs hb.tab⟩
    rw [hfind]
    simp [hc1, hverdict, hne]
  · obtain ⟨u, hu⟩ : ∃ u, u = s.saveCapture v c1 (accs, outs) := ⟨_, rfl⟩
    have hb : s.OnlyBytes u := hu ▸ s.onlyBytes_saveCapture v c1 (accs, outs)
    have hctx : u.ctx v.ctx = s.ctx v.ctx := by rw [State.ctx, hb.tab]; rfl
    have hid := shadow_id hfind
    have hcount : ∀ f, (u.countShadow fn f).grid = s.grid ∧ (u.countShadow fn f).courses = s.courses ∧
        ((u.countShadow fn f).ctx v.ctx).st = .defined := fun _ => ⟨hb.grid, hb.courses, (congrArg Ctx.st hctx).trans hst⟩
    have hexec : exec (.arbiterVerdict id accs outs) s = .next (
        if (accs, outs) = (v.accs, v.outs) then
          ((u.dropShadow id).countShadow fn (fun g => { g with chkfail := sat 8 (g.chkfail + 1) })).failSpare v
        else if (accs, outs) = c1 then
          (u.countShadow fn (fun g => { g with mismatch := sat 8 (g.mismatch + 1) })).giveVerdict v gngShadowMismatch (v.detail c1 (accs, outs))
        else (u.countShadow fn (fun g => { g with unres := sat 8 (g.unres + 1) })).giveVerdict v gngShadowUnresolved
          (v.detail c1 (accs, outs))) := by
      refine (done_next (c := .arbiterVerdict id accs outs) rfl).trans (congrArg _ ?_)
      rw [hfind, hu]
      simp only [hc1, hverdict]
      rfl
    refine ⟨fun heq => ⟨_, hexec, ?_⟩, fun heq hr hrow => ⟨_, hexec, ?_⟩, fun hne hne1 => ⟨_, hexec, ?_⟩⟩
    · rw [if_pos heq]
      obtain ⟨h1, h2, h3, h4, h5⟩ := ((u.dropShadow id).countShadow fn (fun g => { g with chkfail := sat 8 (g.chkfail + 1) })).failSpare_spec v
      have hjcount : ((u.dropShadow id).countShadow fn (fun g => { g with chkfail := sat 8 (g.chkfail + 1) })).truss.jcount = s.truss.jcount :=
        congrArg Truss.jcount hb.truss
      rw [hjcount] at h4 h5
      refine ⟨?_, h1, ?_, h4, h5⟩
      · rw [h2]
        exact congrArg (fun g : Grid => g.shadows.filter (fun x => x.id != id)) hb.grid
      · rw [State.ctx, h3]
        exact (congrArg Ctx.st hctx).trans hst
    · have hne : ¬ (accs, outs) = (v.accs, v.outs) := fun h => hdiff (heq.symm.trans h)
      rw [if_neg hne, if_pos heq]
      generalize hw : u.countShadow fn _ = w
      obtain ⟨hw1, hw2, hw3⟩ : w.grid = s.grid ∧ w.courses = s.courses ∧ (w.ctx v.ctx).st = .defined := hw ▸ hcount _
      obtain ⟨t, hs, hr', hc, ht1, ht2, hgive⟩ := State.giveVerdict_jobless hstep hw3 gngShadowMismatch (v.detail c1 (accs, outs))
      have hcourse : t.course (courseOfCore v.core) = s.course (courseOfCore v.core) :=
        congrArg (fun c : Map Course => c.getD (courseOfCore v.core) Course.idle) (hc.trans hw2)
      have hret : t.grid.retires = [] := hr'.trans ((congrArg Grid.retires hw1).trans hr)
      obtain ⟨r, hr1, hr2, hretire⟩ := State.retire_new hret (by rw [hcourse]; exact hrow) _ none true gngShadowMismatch
      rw [hgive, if_pos (by decide), hretire]
      exact ⟨(hs.trans (congrArg _ (congrArg Grid.shadows hw1))).trans (by rw [hid]), ht1, ht2, by simp [hr1, hr2]⟩
    · rw [if_neg hne, if_neg hne1]
      generalize hw : u.countShadow fn _ = w
      obtain ⟨hw1, hw2, hw3⟩ : w.grid = s.grid ∧ w.courses = s.courses ∧ (w.ctx v.ctx).st = .defined := hw ▸ hcount _
      obtain ⟨t, hs, hr, hc, ht1, ht2, hgive⟩ := State.giveVerdict_jobless hstep hw3 gngShadowUnresolved (v.detail c1 (accs, outs))
      rw [hgive, if_neg (by decide)]
      exact ⟨(hs.trans (congrArg _ (congrArg Grid.shadows hw1))).trans (by rw [hid]), ht1, ht2,
        hr.trans (congrArg Grid.retires hw1)⟩

/-- Settles O17: element-wise pairs by the branches of their operation; verdicts by what a fault, a retirement and a record change. -/
theorem checks : Obligations.Checks := ⟨elementWise, shadowVerdicts⟩

end Sys2Proof.Machine

/-! SUPPORT. Feeds that a gang accepts, and steps of its cells (R54 to R56, R61 to R65, R69). -/

namespace Sys2Proof.Machine

open Sys2Proof.Claims

/-! ## Operands at the edges of a gang -/

/-- The streams that a side feeds: the rows from the west, the columns from the north. -/
def Gang.edgeLanes (g : Gang) (side : Bool) : Map (List Opnd) := if side then g.cols else g.rows

theorem getD_foldl_upd (f : Nat → List Opnd) (m : Map (List Opnd)) (a k x : Nat) :
    ((List.range k).foldl (fun m l => m.upd (a + l) [] (· ++ f l)) m).getD x [] =
      if a ≤ x ∧ x < a + k then m.getD x [] ++ f (x - a) else m.getD x [] := by
  induction k with
  | zero => rw [if_neg (by omega)]; rfl
  | succ k ih =>
    rw [List.range_succ, List.foldl_append, List.foldl_cons, List.foldl_nil, Map.getD_upd]
    by_cases hx : x = a + k
    · subst hx
      rw [if_pos rfl, ih, if_neg (by omega), if_pos (by omega), Nat.add_sub_cancel_left]
    · rw [if_neg hx, ih]
      by_cases hin : a ≤ x ∧ x < a + k
      · rw [if_pos hin, if_pos (by omega)]
      · rw [if_neg hin, if_neg (by omega)]

/-- Feeds that enter a gang change nothing but the streams of their side. -/
theorem Gang.enter_rest (g : Gang) (side : Bool) (base n : Nat) (es : List EdgeFeed) :
    ∃ rows cols, g.enter side base n es = { g with rows := rows, cols := cols } ∧ (if side then rows = g.rows else cols = g.cols) := by
  induction es generalizing g n with
  | nil => exact ⟨g.rows, g.cols, rfl, by cases side <;> rfl⟩
  | cons e es ih =>
    cases side with
    | true =>
      obtain ⟨rows, cols, h, hr⟩ := ih { g with cols := _ } (n + 1)
      exact ⟨rows, cols, h, hr⟩
    | false =>
      obtain ⟨rows, cols, h, hr⟩ := ih { g with rows := _ } (n + 1)
      exact ⟨rows, cols, h, hr⟩

theorem Gang.enter_cons (g : Gang) (side : Bool) (base n : Nat) (e : EdgeFeed) (es : List EdgeFeed) :
    ∃ g' : Gang, g.enter side base n (e :: es) = g'.enter side base (n + 1) es ∧ ∀ x, (g'.edgeLanes side).getD x [] =
      if 4 * n ≤ x ∧ x < 4 * n + 4 then (g.edgeLanes side).getD x [] ++ acceptLane base e.clr (e.lanes.getD (x - 4 * n) [])
      else (g.edgeLanes side).getD x [] := by
  refine ⟨_, rfl, fun x => ?_⟩
  cases side
  · exact getD_foldl_upd (fun l => acceptLane base e.clr (e.lanes.getD l [])) g.rows (4 * n) 4 x
  · exact getD_foldl_upd (fun l => acceptLane base e.clr (e.lanes.getD l [])) g.cols (4 * n) 4 x

/-- A stream before the place where the feeds enter stays. -/
theorem Gang.enter_before (g : Gang) (side : Bool) (base n : Nat) (es : List EdgeFeed) {x : Nat} (hx : x < 4 * n) :
    ((g.enter side base n es).edgeLanes side).getD x [] = (g.edgeLanes side).getD x [] := by
  induction es generalizing g n with
  | nil => rfl
  | cons e es ih =>
    obtain ⟨g', h, hl⟩ := g.enter_cons side base n e es
    rw [h, ih g' (n + 1) (by omega), hl, if_neg (by omega)]

/-- The lanes of the k-th feed enter the k-th core's four streams. -/
theorem Gang.enter_lane (g : Gang) (side : Bool) (base n : Nat) (es : List EdgeFeed) {k l : Nat} (hl : l < 4) (hk : k < es.length) :
    ((g.enter side base n es).edgeLanes side).getD (4 * (n + k) + l) [] =
      (g.edgeLanes side).getD (4 * (n + k) + l) [] ++ acceptLane base es[k].clr (es[k].lanes.getD l []) := by
  induction es generalizing g n k with
  | nil => exact absurd hk (Nat.not_lt_zero _)
  | cons e es ih =>
    obtain ⟨g', h, hg'⟩ := g.enter_cons side base n e es
    rw [h]
    cases k with
    | zero =>
      rw [Gang.enter_before _ _ _ _ _ (by omega), hg', if_pos (by omega), show 4 * (n + 0) + l - 4 * n = l by omega]
      rfl
    | succ k =>
      rw [show n + (k + 1) = (n + 1) + k by omega, ih g' (n + 1) (by simpa using hk), hg', if_neg (by omega)]
      rfl

/-! ## The acceptance of a feed -/

theorem Gang.acc_zeroBank (g : Gang) (bank : Bool) (k : Nat) : ((g.zeroBank bank).cells.getD k Cell.idle).acc bank = 0 := by
  have h := Map.getD_map (fun c : Cell => if bank then { c with acc1 := 0, hist1 := [] } else { c with acc0 := 0, hist0 := [] }) g.cells k
    Cell.idle (by cases bank <;> rfl)
  rw [Gang.zeroBank, h]
  cases bank <;> rfl

/-- The gang and the units after a feed into a gang that may have been idle. -/
theorem State.arrayStart_ite (t : State) (gid rows cols : Nat) (c : Bool) :
    ∃ h, (if c then t.arrayStart gid rows cols else t).gang gid = { t.gang gid with held := h } ∧
      (if c then t.arrayStart gid rows cols else t).mem = t.mem ∧ (if c then t.arrayStart gid rows cols else t).tab = t.tab ∧
      (if c then t.arrayStart gid rows cols else t).fns = t.fns := by
  cases c
  · exact ⟨(t.gang gid).held, rfl, rfl, rfl, rfl⟩
  · exact ⟨true, State.gang_updGang_self .., rfl, rfl, rfl⟩

/-- A gang that has accepted a feed of n steps in all. -/
def Gang.takeFeed (g : Gang) (side bank : Bool) (e0 : EdgeFeed) (es left : List EdgeFeed) (base : Nat) (n : Nat × Nat) : Gang :=
  let g := if e0.clr && e0.steps == 0 then g.zeroBank bank else g
  let g := g.enter side base 0 es
  { g with
    edge := left, ew := false
    acceptedA := if side then g.acceptedA else n
    acceptedB := if side then n else g.acceptedB
    cleared := if e0.clr then putPick g.cleared bank (max base (pick g.cleared bank)) else g.cleared }

section
variable {s : State} {gid rows cols ctx : Nat} {side bank : Bool} {ef : Nat → EdgeFeed} {c0 : Nat} {cs : List Nat}

/-- What a gang does with a feed whose edge feeds have all arrived. -/
theorem State.acceptFeed_arrived (hdims : s.gangDims gid = some (rows, cols)) (hctx : (s.gang gid).ctx = some ctx)
    (hcores : edgeCores gid rows cols side = c0 :: cs)
    (hes : ∀ c ∈ c0 :: cs, (s.gang gid).edgeOf side bank c = some (ef c) ∧ (ef c).wait = none) :
    let g := s.gang gid
    let left := dropEdges side bank g.edge (c0 :: cs)
    let e0 := ef c0
    let acc := if side then g.acceptedB else g.acceptedA
    let t := s.updGang gid (fun g => g.takeFeed side bank e0 ((c0 :: cs).map ef) left (pick acc bank) (putPick acc bank (pick acc bank + e0.steps)))
    s.acceptFeed gid side bank =
      if ((c0 :: cs).map ef).any (fun e => e.clr != e0.clr || e.klen != e0.klen || e.ncw != e0.ncw) then
        (s.updGang gid (fun g => { g.zeroBank bank with edge := left })).faultCtx ctx (s.gridReport gid gngFeedMismatch []) none
      else if (if e0.clr then 0 else g.count (gangCores gid rows cols) side bank) + e0.steps > 2 ^ 32 then
        (s.updGang gid (fun g => { g with edge := left })).faultCtx ctx (s.gridReport gid gngKLimit []) none
      else if e0.clr && e0.steps == 0 && !g.idleNow then s
      else if g.idleNow && e0.steps != 0 then t.arrayStart gid rows cols else t := by
  have hmap : (c0 :: cs).filterMap ((s.gang gid).edgeOf side bank) = ef c0 :: cs.map ef :=
    filterMap_eq_map_of_mem fun c hc => (hes c hc).1
  have hlen : ¬ ((((ef c0 :: cs.map ef).length < (c0 :: cs).length) || (ef c0 :: cs.map ef).any (fun e => e.wait.isSome) ||
      (s.gang gid).ctx.isNone) = true) := by
    have hw : ∀ c ∈ c0 :: cs, (ef c).wait = none := fun c hc => (hes c hc).2
    simpa [hctx] using hw
  intro g left e0 acc t
  unfold State.acceptFeed
  rw [hdims]
  dsimp only
  rw [hcores, hmap]
  dsimp only
  rw [if_neg hlen, hctx]
  rfl

theorem feedsAgree_iff : ((c0 :: cs).map ef).any (fun e => e.clr != (ef c0).clr || e.klen != (ef c0).klen || e.ncw != (ef c0).ncw) = false ↔
    ∀ c ∈ c0 :: cs, (ef c).clr = (ef c0).clr ∧ (ef c).klen = (ef c0).klen ∧ (ef c).ncw = (ef c0).ncw := by
  simp [and_assoc]

/-- The gang of a step that clears nothing but its own streams' ends. -/
theorem Gang.takeFeed_spec (g : Gang) (side bank : Bool) {e0 : EdgeFeed} (hsteps : 0 < e0.steps) (es left : List EdgeFeed) (base : Nat) (n : Nat × Nat) :
    (∀ k l, l < 4 → (h : k < es.length) → ((g.takeFeed side bank e0 es left base n).edgeLanes side).getD (4 * k + l) [] =
      (g.edgeLanes side).getD (4 * k + l) [] ++ acceptLane base es[k].clr (es[k].lanes.getD l [])) ∧
    (if side then (g.takeFeed side bank e0 es left base n).rows = g.rows ∧ (g.takeFeed side bank e0 es left base n).acceptedA = g.acceptedA
      else (g.takeFeed side bank e0 es left base n).cols = g.cols ∧ (g.takeFeed side bank e0 es left base n).acceptedB = g.acceptedB) ∧
    (if side then (g.takeFeed side bank e0 es left base n).acceptedB else (g.takeFeed side bank e0 es left base n).acceptedA) = n ∧
    (g.takeFeed side bank e0 es left base n).cells = g.cells ∧ (g.takeFeed side bank e0 es left base n).drains = g.drains ∧
    (g.takeFeed side bank e0 es left base n).ctx = g.ctx := by
  have hclear : (e0.clr && e0.steps == 0) = false := by
    have : (e0.steps == 0) = false := by simpa using Nat.pos_iff_ne_zero.1 hsteps
    rw [this, Bool.and_false]
  have hlane := fun k l (hl : l < 4) (h : k < es.length) => g.enter_lane side base 0 es hl h
  obtain ⟨rows, cols, he, hr⟩ := g.enter_rest side base 0 es
  simp only [Nat.zero_add] at hlane
  unfold Gang.takeFeed
  rw [hclear]
  simp only [Bool.false_eq_true, if_false]
  rw [he] at hlane ⊢
  refine ⟨hlane, ?_, ?_, rfl, rfl, rfl⟩ <;> cases side
  · exact ⟨hr, rfl⟩
  · exact ⟨hr, rfl⟩
  · rfl
  · rfl

end

theorem edgeCores_ne_nil {gid rows cols : Nat} (side : Bool) (hr : 0 < rows) (hc : 0 < cols) : edgeCores gid rows cols side ≠ [] := by
  cases side <;> simp [edgeCores] <;> omega

/-- R61, R62, R64, R65: a feed that every edge core has issued. -/
theorem feedsAccepted : FeedsAccepted := by
  intro s gid rows cols ctx side bank ef g cores e0 acc same count hgid hdims hrows hcols hctx hst hes
  obtain ⟨c0, cs, hcores⟩ := List.exists_cons_of_ne_nil (edgeCores_ne_nil (gid := gid) side hrows hcols)
  have hcores' : cores = c0 :: cs := hcores
  have he0 : e0 = ef c0 := by simp only [e0, hcores']; rfl
  rw [hcores'] at hes
  have hexec : exec (.feedAccepted gid side bank) s = .next (s.acceptFeed gid side bank) := done_next (by simpa [Instr.wellFormed] using hgid)
  have hdo := State.acceptFeed_arrived hdims hctx hcores hes
  have hsame : ((c0 :: cs).map ef).any (fun e => e.clr != (ef c0).clr || e.klen != (ef c0).klen || e.ncw != (ef c0).ncw) = false ↔ same := by
    rw [feedsAgree_iff]
    simp only [same, he0, hcores']
  have hcount : count + e0.steps = (if (ef c0).clr then 0 else g.count (gangCores gid rows cols) side bank) + (ef c0).steps := by
    simp only [count, he0]
  have hagree : same → ¬ ((c0 :: cs).map ef).any (fun e => e.clr != (ef c0).clr || e.klen != (ef c0).klen || e.ncw != (ef c0).ncw) = true :=
    fun hsm => by rw [hsame.2 hsm]; exact Bool.false_ne_true
  refine ⟨fun hne => ⟨_, hexec.trans (congrArg _ (hdo.trans (if_pos ?_))), ?_⟩,
    fun hsm hk => ⟨_, hexec.trans (congrArg _ (hdo.trans ((if_neg (hagree hsm)).trans (if_pos ?_)))), ?_⟩,
    fun hsm hk hpos => ⟨_, hexec.trans (congrArg _ (hdo.trans ((if_neg (hagree hsm)).trans ((if_neg ?_).trans (if_neg ?_))))), ?_⟩⟩
  · exact Bool.not_eq_false _ ▸ fun h => hne (hsame.1 h)
  · refine ⟨(State.ctx_faultCtx_of_defined (by exact hst) _ none).1, (State.ctx_faultCtx_of_defined (by exact hst) _ none).2, fun k => ?_⟩
    rw [State.gang, (State.faultCtx_units ..).1, ← State.gang, State.gang_updGang_self]
    exact Gang.acc_zeroBank _ bank k
  · exact hcount ▸ hk
  · refine ⟨(State.ctx_faultCtx_of_defined (by exact hst) _ none).1, (State.ctx_faultCtx_of_defined (by exact hst) _ none).2, ?_⟩
    rw [State.gang, (State.faultCtx_units ..).1, ← State.gang, State.gang_updGang_self]
    exact ⟨rfl, rfl, rfl⟩
  · exact Nat.not_lt.2 (hcount ▸ hk)
  · have : ((ef c0).steps == 0) = false := by simpa using Nat.pos_iff_ne_zero.1 (he0 ▸ hpos)
    simp [this]
  · obtain ⟨h, hgang, hmem, htab, hfns⟩ := State.arrayStart_ite (s.updGang gid (fun g => g.takeFeed side bank (ef c0) ((c0 :: cs).map ef)
      (dropEdges side bank (s.gang gid).edge (c0 :: cs)) (pick acc bank) (putPick acc bank (pick acc bank + (ef c0).steps)))) gid rows cols
      (g.idleNow && (ef c0).steps != 0)
    rw [State.gang_updGang_self] at hgang
    obtain ⟨t1, t2, t3, t4, t5, t6⟩ := (s.gang gid).takeFeed_spec side bank (he0 ▸ hpos) ((c0 :: cs).map ef)
      (dropEdges side bank (s.gang gid).edge (c0 :: cs)) (pick acc bank) (putPick acc bank (pick acc bank + (ef c0).steps))
    have hcs : cores.map ef = (c0 :: cs).map ef := by rw [hcores']
    generalize (s.gang gid).takeFeed side bank (ef c0) ((c0 :: cs).map ef) (dropEdges side bank (s.gang gid).edge (c0 :: cs)) (pick acc bank)
      (putPick acc bank (pick acc bank + (ef c0).steps)) = G at hgang t1 t2 t3 t4 t5 t6
    refine ⟨fun n l hl hn => ?_, ?_, ?_, ?_, ?_, ?_, hmem, htab, hfns⟩
    · have := t1 n l hl (by rw [← hcs, List.length_map]; exact hn)
      simp only [← hcs, List.getElem_map] at this
      exact (congrArg (fun g : Gang => Map.getD (g.edgeLanes side) (4 * n + l) []) hgang).trans this
    · exact (congrArg (fun x : Gang => if side then x.rows = g.rows ∧ x.acceptedA = g.acceptedA
        else x.cols = g.cols ∧ x.acceptedB = g.acceptedB) hgang).mpr t2
    · exact (congrArg (fun x : Gang => if side then x.acceptedB else x.acceptedA) hgang).trans (t3.trans (by rw [he0]))
    · exact (congrArg Gang.cells hgang).trans t4
    · exact (congrArg Gang.drains hgang).trans t5
    · exact (congrArg Gang.ctx hgang).trans (t6.trans hctx)

/-! ## A step of a cell -/

theorem cellKey_east (row col : Nat) : cellKey row (col + 1) ≠ cellKey row col := by unfold cellKey; omega

theorem cellKey_south (row col : Nat) : cellKey (row + 1) col ≠ cellKey row col := by unfold cellKey; omega

theorem cellKey_south_east (row : Nat) {col : Nat} (h : col < 256) : cellKey (row + 1) col ≠ cellKey row (col + 1) := by unfold cellKey; omega

/-- A cell after a step: the sum and its history in the step's bank, the operands no longer in its skids. -/
def Cell.stepped (c : Cell) (row col : Nat) (a b : Opnd) : Cell :=
  let before := if a.clr || b.clr then 0 else c.acc a.bank
  let old := if a.clr || b.clr then [] else c.hist a.bank
  let acc := (cellAdd before a b).1
  let h := (old ++ [({ a := a, b := b, before := before } : Hist)]).drop (old.length + 1 - 256)
  let c := if a.bank then { c with acc1 := acc, hist1 := h, done1 := c.done1 + 1 }
    else { c with acc0 := acc, hist0 := h, done0 := c.done0 + 1 }
  { c with aq := if col = 0 then c.aq else takeOp c.aq a.bank, bq := if row = 0 then c.bq else takeOp c.bq a.bank }

theorem Cell.stepped_spec (c : Cell) (row col : Nat) (a b : Opnd) :
    (c.stepped row col a b).acc a.bank = (cellAdd (if a.clr || b.clr then 0 else c.acc a.bank) a b).1 ∧
      (c.stepped row col a b).acc (!a.bank) = c.acc (!a.bank) ∧ (c.stepped row col a b).fired a.bank = c.fired a.bank + 1 := by
  unfold Cell.stepped
  cases a.bank <;> exact ⟨rfl, rfl, rfl⟩

section
variable (g : Gang) (rows cols row col : Nat) (a b : Opnd)

/-- What a gang is after a step of a cell, but for its cells. -/
theorem Gang.fire_rest : (g.fire rows cols row col a b).2 = (cellAdd (if a.clr || b.clr then 0 else (g.cell row col).acc a.bank) a b).2 ∧
    (g.fire rows cols row col a b).1.drains = g.drains ∧ (g.fire rows cols row col a b).1.releasing = g.releasing := by
  refine ⟨rfl, ?_, ?_⟩ <;> unfold Gang.fire <;> dsimp only <;> split <;> split <;> rfl

theorem Gang.cell_pass (g : Gang) (p : Prop) [Decidable p] (n k : Nat) (f : Cell → Cell) :
    (if p then { g with cells := g.cells.upd n Cell.idle f } else g).cells.getD k Cell.idle =
      if p ∧ k = n then f (g.cells.getD k Cell.idle) else g.cells.getD k Cell.idle := by
  by_cases hp : p
  · rw [if_pos hp, Map.getD_upd]
    by_cases hk : k = n
    · rw [if_pos hk, if_pos ⟨hp, hk⟩, hk]
    · rw [if_neg hk, if_neg (fun h => hk h.2)]
  · rw [if_neg hp, if_neg (fun h => hp h.1)]

/-- Each cell after a step of one of them. -/
theorem Gang.fire_cell (k : Nat) :
    (g.fire rows cols row col a b).1.cells.getD k Cell.idle =
      (let x := if k = cellKey row col then (g.cell row col).stepped row col a b else g.cells.getD k Cell.idle
       let x := if col + 1 < 4 * cols ∧ k = cellKey row (col + 1) then { x with aq := x.aq ++ [a] } else x
       if row + 1 < 4 * rows ∧ k = cellKey (row + 1) col then { x with bq := x.bq ++ [b] } else x) := by
  have hput : (g.cells.put (cellKey row col) ((g.cell row col).stepped row col a b)).getD k Cell.idle =
      if k = cellKey row col then (g.cell row col).stepped row col a b else g.cells.getD k Cell.idle := Map.getD_put ..
  exact (Gang.cell_pass _ _ _ k (fun c => { c with bq := c.bq ++ [b] })).trans (congrArg (fun x : Cell =>
    if row + 1 < 4 * rows ∧ k = cellKey (row + 1) col then { x with bq := x.bq ++ [b] } else x)
    ((Gang.cell_pass _ _ _ k (fun c => { c with aq := c.aq ++ [a] })).trans (congrArg (fun x : Cell =>
      if col + 1 < 4 * cols ∧ k = cellKey row (col + 1) then { x with aq := x.aq ++ [a] } else x) hput)))

end

/-- R54 to R56, R69: a cell that holds the operands of its next step, with room beyond it. -/
theorem cellsFire : CellsFire := by
  intro s gid rows cols row col ctx a b g here c r hgid hrow hcol hdims hr hc hheld hrel hctx hpow hready hroomE hroomS
  have hexec : exec (.cellFire gid row col) s = .next (s.cellFire gid row col) := done_next (by simp only [Instr.wellFormed, hgid, hrow, hcol, decide_true, Bool.and_true])
  obtain ⟨h1, h2, h3⟩ := g.fire_rest rows cols row col a b
  have hcell := g.fire_cell rows cols row col a b
  have hroom : (decide (col + 1 ≥ 4 * cols) || decide ((g.cell row (col + 1)).aq.length < skidA rows cols (col + 1))) = true ∧
      (decide (row + 1 ≥ 4 * rows) || decide ((g.cell (row + 1) col).bq.length < skidB (row + 1))) = true := by
    simp only [Bool.or_eq_true, decide_eq_true_eq]
    exact ⟨(Nat.lt_or_ge (col + 1) (4 * cols)).symm.imp_right hroomE, (Nat.lt_or_ge (row + 1) (4 * rows)).symm.imp_right hroomS⟩
  have hopen : ¬ (row ≥ 4 * rows ∨ col ≥ 4 * cols ∨ g.held = true ∨ (s.course (courseOfCore gid)).power ≠ .run) := by
    simp [hheld, hpow]; omega
  obtain ⟨t, ht⟩ : ∃ t, t = (if (g.fire rows cols row col a b).2 = 0 then s.updGang gid (fun _ => (g.fire rows cols row col a b).1)
      else (s.updGang gid (fun _ => (g.fire rows cols row col a b).1)).orFlags ctx (g.fire rows cols row col a b).2) := ⟨_, rfl⟩
  have hgang : t.gang gid = (g.fire rows cols row col a b).1 := by
    rw [ht]
    split <;> exact State.gang_updGang_self ..
  have hdo : s.cellFire gid row col = t := by
    have hset : t.settleRelease gid = t := if_neg (by rw [hgang, h3, hrel, Bool.false_and]; exact Bool.false_ne_true)
    unfold State.cellFire
    rw [hdims]
    refine (if_neg hopen).trans ?_
    dsimp only
    rw [hready]
    refine (if_neg (by rw [hroom.1, hroom.2]; decide)).trans ?_
    rw [hctx]
    exact (congrArg (fun x : State => x.settleRelease gid) ht.symm).trans hset
  have hflags : (t.ctx ctx).numflags = (s.ctx ctx).numflags ||| r.2 := by
    by_cases h0 : (g.fire rows cols row col a b).2 = 0
    · rw [ht, if_pos h0, show r.2 = 0 from h1.symm.trans h0]
      exact (BitVec.or_zero).symm
    · rw [ht, if_neg h0, State.orFlags, State.ctx_updCtx_self, h1]
      rfl
  obtain ⟨hacc, hother, hfired⟩ := c.stepped_spec row col a b
  have hhere : (t.gang gid).cell row col = c.stepped row col a b := by
    rw [hgang, Gang.cell, hcell]
    dsimp only
    rw [if_neg (fun h => cellKey_south row col h.2.symm), if_neg (fun h => cellKey_east row col h.2.symm), if_pos rfl]
  refine ⟨t, hexec.trans (congrArg _ hdo), ?_, fun k hk => ?_, fun he => ?_, fun hs => ?_, hflags, (congrArg Gang.drains hgang).trans h2, ?_, ?_⟩
  · rw [hhere]
    exact ⟨hacc, hother, hfired⟩
  · rw [hgang, hcell]
    dsimp only
    rw [if_neg hk]
    split <;> split <;> exact ⟨rfl, rfl⟩
  · rw [hgang, Gang.cell, hcell]
    dsimp only
    rw [if_neg (fun h => cellKey_south_east row hcol h.2.symm), if_pos ⟨he, rfl⟩, if_neg (cellKey_east row col)]
    rfl
  · rw [hgang, Gang.cell, hcell]
    dsimp only
    rw [if_pos ⟨hs, rfl⟩, if_neg (fun h => cellKey_south_east row hcol h.2), if_neg (cellKey_south row col)]
    rfl
  · rw [ht]; split <;> rfl
  · rw [ht]; split <;> rfl

/-- Settles O15: the acceptance of a feed by its branches, and a step by what each cell is after it. -/
theorem cells : Obligations.Cells := ⟨feedsAccepted, cellsFire⟩

end Sys2Proof.Machine

/-! SUPPORT. Voids of an attempt, its replay, and spares that take a member's place (R31, R158, R241 to R247, R297, R388). -/

namespace Sys2Proof.Machine

open Sys2Proof.Claims

/-! ## What a job notes of messages, agents and refusals -/

/-- Every job stays as it is, but for the messages it has seen and what it has logged. -/
structure State.NotesJobs (s t : State) : Prop where
  job : ∀ fn j b, s.job fn j = some b → ∃ x y z, t.job fn j = some { b with seenMsgs := x, agentLogged := y, nakSeen := z }

namespace State.NotesJobs

variable {s t u : State}

theorem of_jobs (h : ∀ fn, t.jobs fn = s.jobs fn) : s.NotesJobs t := ⟨fun fn j b hb =>
  ⟨_, _, _, (congrArg (fun m : Map Job => m.get? j) (h fn)).trans hb⟩⟩

theorem refl (s : State) : s.NotesJobs s := of_jobs fun _ => rfl

theorem of_fns (h : t.fns = s.fns) : s.NotesJobs t := of_jobs fun fn => State.jobs_of_fns h fn

theorem trans (h : s.NotesJobs t) (h' : t.NotesJobs u) : s.NotesJobs u := ⟨fun fn j b hb => by
  obtain ⟨_, _, _, hb⟩ := h.job fn j b hb
  obtain ⟨_, _, _, hb⟩ := h'.job fn j _ hb
  exact ⟨_, _, _, hb⟩⟩

theorem foldl {α : Type} {f : State → α → State} (hf : ∀ (t : State) x, t.NotesJobs (f t x)) (l : List α) (s : State) : s.NotesJobs (l.foldl f s) := by
  induction l generalizing s with
  | nil => exact refl s
  | cons x l ih => exact (hf s x).trans (ih _)

theorem updJob (s : State) (fn j : Nat) {f : Job → Job}
    (hf : ∀ b, ∃ x y z, f b = { b with seenMsgs := x, agentLogged := y, nakSeen := z }) : s.NotesJobs (s.updJob fn j f) := by
  refine ⟨fun n k b hb => ?_⟩
  rw [State.job_updJob]
  split
  · next h =>
    obtain ⟨x, y, z, hfb⟩ := hf b
    exact ⟨x, y, z, by rw [← h.1, ← h.2, hb, Option.map_some, hfb]⟩
  · exact ⟨_, _, _, hb⟩

theorem record (s : State) (rep : Report) : s.NotesJobs (s.record rep) := of_jobs fun fn => (s.told_record rep).jobs fn

end State.NotesJobs

theorem State.notesJobs_nakNote (s : State) (fn j port : Nat) (src : BitVec 16) (wire : Nat) : s.NotesJobs (s.nakNote fn j port src wire) := by
  unfold State.nakNote
  split
  · exact .refl s
  · split
    · exact .refl s
    · exact (State.NotesJobs.updJob s fn j fun b => ⟨_, _, _, rfl⟩).trans (.record _ _)

theorem State.notesJobs_gutterSend (s : State) (fn j : Nat) (b : Job) (ring : Option Nat) (dest : Member) (h : GHdr) (body : List CodeWord) :
    s.NotesJobs (s.gutterSend fn j b ring dest h body) := by
  unfold State.gutterSend
  dsimp only
  split
  · exact .of_jobs fun n => (s.told_sendOn _ _).jobs n
  · exact s.notesJobs_nakNote _ _ _ _ _

theorem State.notesJobs_spread (s : State) (fn j : Nat) (b : Job) (h : GHdr) (body : List CodeWord) : s.NotesJobs (s.spread fn j b h body) :=
  (State.NotesJobs.updJob s fn j fun b => ⟨_, _, _, rfl⟩).trans (.foldl (fun t _ => t.notesJobs_gutterSend _ _ _ _ _ _ _) _ _)

theorem State.notesJobs_agentNote (s : State) (fn j key : Nat) (st : Status) (unit p : Nat) (delta : DWord) :
    s.NotesJobs (s.agentNote fn j key st unit p delta) := by
  unfold State.agentNote
  split
  · exact .refl s
  · split
    · exact .refl s
    · exact (State.NotesJobs.updJob s fn j fun b => ⟨_, _, _, rfl⟩).trans (.record _ _)

theorem State.jobs_updFn (s : State) (n fn : Nat) {f : Fn → Fn} (hf : ∀ g, (f g).jobs = g.jobs) : (s.updFn n f).jobs fn = s.jobs fn := by
  rw [State.jobs, State.fn_updFn]
  split
  · next h => rw [hf, h]; rfl
  · rfl

theorem State.notesJobs_updFn (s : State) (n : Nat) {f : Fn → Fn} (hf : ∀ g, (f g).jobs = g.jobs) : s.NotesJobs (s.updFn n f) :=
  .of_jobs fun fn => s.jobs_updFn n fn hf

/-- The clearing of a spar by an agent. -/
theorem State.notesJobs_agentClear (s : State) (fn j key unit : Nat) (sp : Option AgSpar) : s.NotesJobs (s.agentOp fn j key unit sp .setZero) := by
  unfold State.agentOp
  dsimp only
  split
  · exact s.notesJobs_agentNote _ _ _ _ _ _ _
  · next a =>
    split
    · refine .trans ?_ (State.notesJobs_agentNote _ fn j key sprStaleGen unit a.phys 0)
      exact s.notesJobs_updFn fn fun _ => rfl
    · split
      · exact s.notesJobs_updFn fn fun _ => rfl
      · split
        · exact s.notesJobs_agentNote _ _ _ _ _ _ _
        · exact .of_fns ((State.afterOp_fns ..).trans (State.updSpar_fns ..))

theorem State.jobs_rewind (s : State) (fn j step : Nat) (cause : Status) (n : Nat) : (s.rewind fn j step cause).jobs n = s.jobs n := by
  unfold State.rewind
  dsimp only
  refine (State.jobs_foldl (fun t q => (t.queueing_settleQueue ..).jobs n) _ _).trans ?_
  refine ((State.queueing_updFn _ fn _ fun g => ⟨_, _, rfl⟩).jobs n).trans ?_
  exact (State.jobs_foldl (fun t c => State.jobs_of_fns (t.clearGangs_fns c) n) _ _).trans (State.jobs_dropSheaves ..)

/-! ## The void -/

theorem State.jobs_dueRetires (s : State) (fn j n : Nat) : (s.dueRetires fn j).jobs n = s.jobs n := rfl

/-- What a void takes back: the attempt's norms, hoard entries, sequences, engine work, ready spars, queue entries and verdicts. -/
def State.takenBack (s : State) (fn j : Nat) (b : Job) (cause : Status) : State :=
  let s := (s.markNorms fn j b 2).digestRecord b 2
  let s := ((s.dropHoard fn b.job).closeSeqs fn).dropEngineWork fn j
  let s := (s.agentOp fn j 0 0x09 b.readySp0 .setZero).agentOp fn j 1 0x09 b.readySp1 .setZero
  let s := s.rewind fn j b.step cause
  (s.dropVerdicts fn j b.step).dueRetires fn j

theorem State.notesJobs_takenBack (s : State) (fn j : Nat) (b : Job) (cause : Status) : s.NotesJobs (s.takenBack fn j b cause) := by
  unfold State.takenBack
  extract_lets t u v w
  have ht : s.NotesJobs t := .of_jobs fun n => ((s.onlyBytes_markNorms ..).trans (State.onlyBytes_digestRecord ..)).jobs n
  have hu : t.NotesJobs u := .of_jobs fun n => State.jobs_dropHoard t fn b.job n
  have hv : u.NotesJobs v := (u.notesJobs_agentClear fn j 0 0x09 b.readySp0).trans (State.notesJobs_agentClear _ fn j 1 0x09 b.readySp1)
  have hw : v.NotesJobs w := .of_jobs fun n => v.jobs_rewind fn j b.step cause n
  exact ((ht.trans hu).trans (hv.trans hw)).trans
    (.of_jobs fun n => (State.jobs_dueRetires _ fn j n).trans (w.jobs_dropVerdicts fn j b.step n))

/-- The job after a void with a cause. -/
def Job.afterVoid (cause : Status) (origin : Nat) (halt : Bool) (b : Job) : Job :=
  { b.newAttempt with
    gen := (b.gen + 1) % 256, voids := b.voids + 1, cause := cause, origin := origin, causeStep := b.step
    st := if holdCause cause halt ∨ b.st = .held then .held else if b.st = .awaitSpare then .awaitSpare else .running
    rewinding := true, verify := cause == gutTallyMismatch
    splitBefore := cause == jobDigestSplit }

theorem Job.afterVoid_spec (b : Job) (cause : Status) (origin : Nat) (halt : Bool) :
    (b.afterVoid cause origin halt).gen = (b.gen + 1) % 256 ∧ (b.afterVoid cause origin halt).step = b.step ∧
      (b.afterVoid cause origin halt).voids = b.voids + 1 ∧ (b.afterVoid cause origin halt).cause = cause ∧
      (b.afterVoid cause origin halt).origin = origin ∧ (b.afterVoid cause origin halt).rewinding = true ∧
      (b.afterVoid cause origin halt).rcvd = [] ∧ (b.afterVoid cause origin halt).ridgeSent = false ∧
      (b.afterVoid cause origin halt).sent = [] ∧ (b.afterVoid cause origin halt).digest = 0 ∧
      (holdCause cause halt = true → (b.afterVoid cause origin halt).st = .held) :=
  ⟨rfl, rfl, rfl, rfl, rfl, rfl, rfl, rfl, rfl, rfl, fun h => if_pos (.inl h)⟩

theorem State.voidJob_eq {s : State} {fn j : Nat} {b : Job} (hb : s.job fn j = some b) (hlim : b.voids + 1 ≤ b.limit) (cause : Status) (origin : Nat)
    (own halt : Bool) : ∃ t, s.NotesJobs t ∧
      s.voidJob fn j cause origin own halt = ((t.updJob fn j (Job.afterVoid cause origin halt)).clearPre b).redeliver b.holdGen := by
  have hno : ¬ b.limit < b.voids + 1 := by omega
  refine ⟨(if own then s.spread fn j b { b.hdr0 7 with cause := cause.toNat } [] else s).takenBack fn j b cause, ?_, ?_⟩
  · refine .trans ?_ (State.notesJobs_takenBack _ fn j b cause)
    split
    · exact s.notesJobs_spread _ _ _ _ _
    · exact .refl s
  · unfold State.voidJob
    rw [hb]
    dsimp only
    rw [if_neg hno, if_neg hno]
    rfl

/-- R31, R242: the job of the new attempt, with the cause that voided the old one. -/
theorem State.voidJob_job {s : State} {fn j : Nat} {b : Job} (hb : s.job fn j = some b) (hlim : b.voids + 1 ≤ b.limit) (cause : Status) (origin : Nat)
    (own halt : Bool) : ∃ x y z, (s.voidJob fn j cause origin own halt).job fn j =
      some (Job.afterVoid cause origin halt { b with seenMsgs := x, agentLogged := y, nakSeen := z }) := by
  obtain ⟨t, ht, heq⟩ := State.voidJob_eq hb hlim cause origin own halt
  obtain ⟨x, y, z, htb⟩ := ht.job fn j b hb
  rw [heq]
  refine ⟨x, y, z, (congrArg (fun m : Map Job => m.get? j) ((State.onlyBytes_clearPre _ b).jobs fn)).trans ?_⟩
  exact (State.job_updJob_self ..).trans (congrArg _ htb)

/-! ## Step spars at a replay -/

theorem State.updWaiter_spars (s : State) (w : Waiter) (f : Slot → Slot) : (s.updWaiter w f).tab.spars = s.tab.spars := by
  unfold State.updWaiter
  split
  · unfold State.updSlot
    split <;> rfl
  · rfl

theorem State.saveWait_spars (s : State) (w : Waiter) : (s.saveWait w).tab.spars = s.tab.spars := by
  unfold State.saveWait
  split
  · exact congrArg Tables.spars (s.onlyBytes_writeNat ..).tab
  · rfl

/-- R297: a step spar restored before a replay. -/
theorem State.restoreSpar_spec (s : State) (p : Nat) : ((s.restoreSpar p).spar p).value = (s.spar p).init ∧
    ((s.restoreSpar p).spar p).waiters = [] ∧ ((s.restoreSpar p).spar p).tokens = [] ∧ ((s.restoreSpar p).spar p).arr = 0 := by
  have hwait : ∀ (t : State) (w : Waiter) (f : Slot → Slot), ((t.updWaiter w f).saveWait w).tab.spars = t.tab.spars := fun t w f =>
    (State.saveWait_spars ..).trans (State.updWaiter_spars ..)
  have hspars : (s.restoreSpar p).tab.spars = (s.updSpar p (fun x => { x with
      value := x.init, arr := 0, dep := if x.kind = 2 then x.count else x.dep, waiters := [], tokens := [] })).tab.spars := by
    unfold State.restoreSpar
    dsimp only
    exact (foldl_keeps (fun t : State => t.tab.spars) (fun t w => hwait t w _) _ _).trans
      (foldl_keeps (fun t : State => t.tab.spars) (fun t w => hwait t w _) _ _)
  have hspar : (s.restoreSpar p).spar p = _ := (congrArg (fun m : Map Spar => m.getD p Spar.idle) hspars).trans (State.spar_updSpar_self ..)
  rw [hspar]
  exact ⟨rfl, rfl, rfl, rfl⟩

theorem State.jobs_restoreSpar (s : State) (p fn : Nat) : (s.restoreSpar p).jobs fn = s.jobs fn := by
  unfold State.restoreSpar
  dsimp only
  refine (State.jobs_updFn _ _ fn ?_).trans (State.jobs_of_fns ?_ fn)
  · exact fun _ => rfl
  · exact (foldl_keeps State.fns (fun t w => t.resume_fns ..) _ _).trans
      ((foldl_keeps State.fns (fun t w => t.updWait_fns ..) _ _).trans (State.updSpar_fns ..))

/-! ## The commands of voids and replays -/

theorem State.around_current {s : State} {port fn j : Nat} {m : Msg} {b : Job} {h : GHdr} (hage : b.age h = .current) (now : State → State) :
    s.around port m fn j b h now = now (if b.seenMsgs.contains (h.type, h.start, h.step, h.gen) then s.take port m
      else (s.take port m).spread fn j b h (msgBody m)) := by
  unfold State.around
  rw [hage]

/-- A message that goes round, of the current attempt. -/
theorem State.gutter_around {s : State} {port type fn j : Nat} {m : Msg} {b : Job} (hin : s.GutterIn port m type fn j b)
    (hage : b.age (gHdrOf m) = .current) (now : State → Nat → Nat → Job → GHdr → State) :
    s.gutter port m type (fun s fn j b h => s.around port m fn j b h (fun s => now s fn j b h)) = now (s.tookOn port m fn j b) fn j b (gHdrOf m) := by
  rw [State.gutter_in hin, State.around_current hage, hin.1.take]
  rfl

theorem exec_void {s : State} {port fn j : Nat} {m : Msg} {b : Job} (hin : s.GutterIn port m 7 fn j b) (hage : b.age (gHdrOf m) = .current) :
    exec (.void port m) s = .next ((s.tookOn port m fn j b).voidJob fn j (BitVec.ofNat 16 (gHdrOf m).cause) (gHdrOf m).start false
      (BitVec.ofNat 16 (gHdrOf m).cause == jobRetryLimit)) :=
  (done_next (c := .void port m) (by simpa [Instr.wellFormed] using hin.1.1)).trans (congrArg _ (State.gutter_around hin hage
    (fun s fn j _ h => s.voidJob fn j (BitVec.ofNat 16 h.cause) h.start false (BitVec.ofNat 16 h.cause == jobRetryLimit))))

/-- The replay of an attempt whose accesses have been accepted. -/
theorem State.replayStart_spec {s : State} {fn j : Nat} {b : Job} (hb : s.job fn j = some b) (hrun : b.st = .running) (hrew : b.rewinding = true)
    (hset : s.settled fn j = true) (hret : s.grid.retires = []) (hpend : b.pendingVoid = none) :
    ∃ b', (s.replayStart fn j).job fn j = some b' ∧ b'.rewinding = false ∧ b'.gen = b.gen ∧ b'.step = b.step := by
  have hopen : ¬ ((!b.rewinding) = true ∨ b.st ≠ .running ∨ (!s.settled fn j) = true ∨
      s.grid.retires.any (fun r => r.fn == fn && decide (r.jslot = some j) && r.due) = true) := by
    simp [hrun, hrew, hset, hret]
  have hspars : ((s.stepSpars fn j).foldl (fun s p => s.restoreSpar p) s).job fn j = some b :=
    (congrArg (fun m : Map Job => m.get? j) (State.jobs_foldl (fun t p => t.jobs_restoreSpar p fn) _ _)).trans hb
  unfold State.replayStart
  rw [hb]
  dsimp only
  rw [if_neg hopen, hpend]
  dsimp only
  generalize (s.stepSpars fn j).foldl (fun s p => s.restoreSpar p) s = t at hspars
  refine ⟨{ b with rewinding := false, pendingVoid := none, bsStarted := t.agentValue b.bsSp },
    (congrArg (fun m : Map Job => m.get? j) ((State.onlyBytes_digestRecord _ b 0).jobs fn)).trans ?_, rfl, rfl, rfl⟩
  exact (State.job_updJob_self ..).trans (by rw [hspars]; rfl)

/-- R31, R158, R241 to R244, R297: voids and replays. -/
theorem voids : Voids := by
  refine ⟨fun s port m fn j b => by intro h hin hage; exact exec_void hin hage, fun s fn j b cause origin own halt hb hlim => ?_,
    fun s fn jslot b hfn hj hb hrun => ⟨fun ht hr => ?_, fun hr => ?_, fun hrew hset hret hpend => ?_⟩, fun s p => s.restoreSpar_spec p⟩
  · obtain ⟨x, y, z, h⟩ := State.voidJob_job hb hlim cause origin own halt
    exact ⟨_, h, Job.afterVoid_spec { b with seenMsgs := x, agentLogged := y, nakSeen := z } cause origin halt⟩
  · refine ⟨s.record (b.report fn jslot gutRidgeTimeout b.missing), ((s.told_record _).job fn jslot).trans hb,
      (done_next (c := .ridgeTimeout fn jslot) (by simp [Instr.wellFormed, fnCount, hfn, hj])).trans (congrArg _ ?_)⟩
    rw [hb]
    dsimp only
    rw [if_neg (by simp [ht, hr, hrun]), State.raiseVoid, ((s.told_record _).job fn jslot).trans hb]
    exact if_neg (by simp [hr, hrun])
  · refine ⟨(s.record (b.report fn jslot gutRidgeTimeout b.missing)).updJob fn jslot (fun b => { b with st := .ridgeOverdue }),
      (done_next (c := .ridgeOverdue fn jslot) (by simp [Instr.wellFormed, fnCount, hfn, hj])).trans (congrArg _ ?_), ?_⟩
    · rw [hb]
      dsimp only
      rw [if_neg (by simp [hr, hrun])]
    · rw [State.job_updJob_self, ((s.told_record _).job fn jslot).trans hb]
      rfl
  · obtain ⟨b', h1, h2⟩ := State.replayStart_spec hb hrun hrew hset hret hpend
    exact ⟨_, b', done_next (c := .replayStart fn jslot) (by simp [Instr.wellFormed, fnCount, hfn, hj]), h1, h2⟩

/-! ## Spares -/

theorem State.updJob_congr {s : State} {fn j : Nat} {f g : Job → Job} (h : ∀ b, s.job fn j = some b → f b = g b) :
    s.updJob fn j f = s.updJob fn j g := by
  unfold State.updJob
  split
  · next b hb => rw [h b hb]
  · rfl

theorem exec_join {s : State} {port fn j e : Nat} {m : Msg} {b : Job} (hin : s.GutterIn port m 8 fn j b) (hage : b.age (gHdrOf m) = .current)
    (haw : b.awaits = [(e, some (gHdrOf m).start)]) (hst : b.st = .awaitSpare) :
    exec (.join port m) s = .next ((s.tookOn port m fn j b).updJob fn j (fun b => { b with awaits := [], st := .running })) := by
  refine (done_next (c := .join port m) (by simpa [Instr.wellFormed] using hin.1.1)).trans (congrArg _ ((State.gutter_around hin hage
    (fun s fn j b h => s.updJob fn j (fun b' => { b' with
      awaits := b.awaits.filter (fun a => decide (a.2 ≠ some h.start))
      st := if (b.awaits.filter (fun a => decide (a.2 ≠ some h.start))).isEmpty ∧ b'.st = .awaitSpare then .running else b'.st }))).trans ?_))
  have hleft : b.awaits.filter (fun a => decide (a.2 ≠ some (gHdrOf m).start)) = [] := by rw [haw]; simp
  rw [hleft]
  have hnotes : s.NotesJobs (s.tookOn port m fn j b) := by
    unfold State.tookOn
    dsimp only
    split
    · exact .of_jobs fun _ => rfl
    · exact (State.NotesJobs.of_jobs (s := s) (t := s.took port m) fun _ => rfl).trans (State.notesJobs_spread _ _ _ _ _ _)
  obtain ⟨x, y, z, hw⟩ := hnotes.job fn j b hin.2.2.2.2.1
  refine State.updJob_congr fun b' hb' => ?_
  have : b'.st = .awaitSpare := by
    rw [hw, Option.some.injEq] at hb'
    rw [← hb']
    exact hst
  rw [if_pos ⟨rfl, this⟩]

/-- A job in which a spare has the place of an expelled member. -/
def Job.replaced (b : Job) (e sp : Nat) : Job :=
  { b with
    members := (b.members.set e { b.member e with expelled := true }).set sp
      { ({ b with members := b.members.set e { b.member e with expelled := true } } : Job).member sp with
        ridx := (b.member e).ridx, first := (b.member e).first, nchunk := (b.member e).nchunk, spare := false } }

theorem State.job_replace {s : State} {fn j : Nat} {b : Job} (h : s.job fn j = some b) (e sp : Nat) :
    (s.replace fn j e sp).job fn j = some (b.replaced e sp) := by
  unfold State.replace
  rw [h]
  exact State.setMember_spec (State.setMember_spec h ..) ..

theorem Job.replaced_members {b : Job} {e : Nat} (hne : e ≠ b.myidx) (he : e < b.members.length) (hme : b.myidx < b.members.length) :
    (b.replaced e b.myidx).me = { b.me with ridx := (b.member e).ridx, first := (b.member e).first, nchunk := (b.member e).nchunk, spare := false } ∧
      ((b.replaced e b.myidx).member e).expelled = true := by
  constructor
  · simp [Job.me, Job.member, Job.replaced, List.getElem?_set, hme, hne]
  · simp [Job.member, Job.replaced, List.getElem?_set, he, hne, Ne.symm hne]

theorem State.jobs_writeParts (s : State) (keep : CkPart → Bool) (ps : List CkPart) (bs : List (Byte × Bool)) (fn : Nat) :
    (s.writeParts keep ps bs).jobs fn = s.jobs fn := by
  induction ps generalizing s bs with
  | nil => rfl
  | cons p ps ih =>
    rw [State.writeParts, ih]
    split
    · exact (s.onlyBytes_writeMarked ..).jobs fn
    · rfl

/-- What a spare does when it has copied a step: its job goes on from there, and the others are told. -/
def State.joined (s : State) (fn j : Nat) (t : Takeover) (age : Nat) : State :=
  let s := s.updJob fn j (fun b => { b.nextStep with step := (t.step.toNat + 1) % 2 ^ 32, gen := t.gen.toNat, st := .running })
  match s.job fn j with
  | none => s
  | some n =>
    let s := s.record (n.report fn j jobSpareJoined (expelDetail t.expelled n.myidx age))
    s.spread fn j n (n.hdr0 8) []

/-- The copy of a step by a spare: weights, buddy state, SEL words, and the rows that wait for their copies. -/
def State.copiedStep (s : State) (fn j : Nat) (b : Job) (e : Member) (t : Takeover) : State :=
  let set := if t.sel then 1 else 0
  let s := s.writeParts (fun _ => true) (s.groupParts b set) (markedBytes t.weights)
  let d := b.ckdesc.getD { localA := 0, slotsz := 0, peer := 0, jrnl := 0, jdepth := 0 }
  let parts := s.ckParts b e (fun _ => set) d
  let state (p : CkPart) : Bool := p.kind == 1 || p.kind == 3
  let s := match t.slot with
    | some (_, body) => s.writeParts state parts (markedBytes body)
    | none => (parts.filter state).foldl (fun (s : State) (p : CkPart) => s.writeBytes p.addr (List.replicate p.len 0)) s
  let s := ((b.upd.map (·.view)).eraseDups).foldl (fun s a => s.writeNat a 8 set) s
  let rows := ((List.range b.upd.length).zip b.upd).flatMap (fun x => if x.2.emb then
      let f := max x.2.first (b.groupFirst b.me.group)
      let n := min (x.2.first + x.2.nchunk) (b.groupFirst b.me.group + b.groupCount b.me.group) - f
      (List.range (n * x.2.rows)).map (fun r => (fn, j, x.1, (f - x.2.first) * x.2.rows + r))
    else [])
  let q := match b.upd with
    | x :: _ => engineOf (s.bufAddr x set 0)
    | [] => 0
  if rows.isEmpty then s else s.updEngine q (fun g => { g with rows := g.rows ++ rows })

theorem State.jobs_copiedStep (s : State) (fn j : Nat) (b : Job) (e : Member) (t : Takeover) (n : Nat) :
    (s.copiedStep fn j b e t).jobs n = s.jobs n := by
  have hif : ∀ (c : Bool) (v : State) (q : Nat) (f : Engine → Engine), (if c = true then v else v.updEngine q f).jobs n = v.jobs n := fun c v q f => by
    cases c <;> rfl
  unfold State.copiedStep
  dsimp only
  refine (hif _ _ _ _).trans ((State.jobs_foldl (fun v a => (v.onlyBytes_writeNat ..).jobs n) _ _).trans ?_)
  split
  · exact (State.jobs_writeParts ..).trans (State.jobs_writeParts ..)
  · exact (State.jobs_foldl (fun v p => (v.onlyBytes_writeBytes ..).jobs n) _ _).trans (State.jobs_writeParts ..)

theorem State.takeover_eq {s : State} {fn j : Nat} {b : Job} {t : Takeover} (hb : s.job fn j = some b)
    (hopen : ¬ ((!b.me.spare) = true ∨ b.me.expelled = true ∨ t.expelled = b.myidx ∨ (b.member t.expelled).group ≠ b.me.group ∨
      (b.member t.expelled).spare = true ∨ b.members.length ≤ t.expelled)) :
    s.takeover fn j t = ((s.replace fn j t.expelled b.myidx).copiedStep fn j (b.replaced t.expelled b.myidx) (b.member t.expelled) t).joined fn j t
      (match t.slot with
        | some (c, _) => (t.step - c).toNat
        | none => 0xFFFFFFFF) := by
  unfold State.takeover
  rw [hb]
  dsimp only
  rw [if_neg hopen, State.job_replace hb]
  rfl

/-- R246, R388: the job of a spare that has copied a sealed step. -/
theorem State.joined_job {s : State} {fn j : Nat} {b : Job} (hb : s.job fn j = some b) (t : Takeover) (age : Nat) :
    ∃ x y z, (s.joined fn j t age).job fn j = some { b.nextStep with
      step := (t.step.toNat + 1) % 2 ^ 32, gen := t.gen.toNat, st := .running, seenMsgs := x, agentLogged := y, nakSeen := z } := by
  have hupd : (s.updJob fn j (fun b => { b.nextStep with step := (t.step.toNat + 1) % 2 ^ 32, gen := t.gen.toNat, st := .running })).job fn j =
      some { b.nextStep with step := (t.step.toNat + 1) % 2 ^ 32, gen := t.gen.toNat, st := .running } := by
    rw [State.job_updJob_self, hb]
    rfl
  unfold State.joined
  dsimp only
  rw [hupd]
  exact ((State.NotesJobs.record _ _).trans (State.notesJobs_spread _ _ _ _ _ _)).job fn j _ hupd

/-- R246, R247, R388: spares join. -/
theorem sparesJoin : SparesJoin := by
  refine ⟨fun s port m fn j e b => by intro h hin hage haw hst; exact exec_join hin hage haw hst, fun s fn jslot b t => ?_⟩
  intro e hfn hj hb hsp hex hne he hme hgrp hesp
  have hopen : ¬ ((!b.me.spare) = true ∨ b.me.expelled = true ∨ t.expelled = b.myidx ∨ (b.member t.expelled).group ≠ b.me.group ∨
      (b.member t.expelled).spare = true ∨ b.members.length ≤ t.expelled) := by
    simp only [hsp, hex, hne, not_or]
    exact ⟨by decide, by decide, id, fun h => h hgrp, by rw [show (b.member t.expelled).spare = false from hesp]; decide, by omega⟩
  have hdo := State.takeover_eq hb hopen
  generalize (match t.slot with
    | some (c, _) => (t.step - c).toNat
    | none => 0xFFFFFFFF) = age at hdo
  have hu : ((s.replace fn jslot t.expelled b.myidx).copiedStep fn jslot (b.replaced t.expelled b.myidx) (b.member t.expelled) t).job fn jslot =
      some (b.replaced t.expelled b.myidx) :=
    (congrArg (fun m : Map Job => m.get? jslot) (State.jobs_copiedStep ..)).trans (State.job_replace hb t.expelled b.myidx)
  generalize State.copiedStep _ fn jslot _ _ t = u at hdo hu
  obtain ⟨x, y, z, hjob⟩ := State.joined_job hu t age
  obtain ⟨hm1, hm2⟩ := Job.replaced_members hne he hme
  have hexec : exec (.spareTakeover fn jslot t) s = .next (u.joined fn jslot t age) :=
    (done_next (c := .spareTakeover fn jslot t) (by simp [Instr.wellFormed, fnCount, hfn, hj])).trans (congrArg _ hdo)
  exact ⟨_, _, hexec, hjob, rfl, rfl, rfl, hm1, hm2⟩

/-- Settles O29: the void by what each of its steps does to the jobs, the takeover by the members of the job. -/
theorem voidsAndJoins : Obligations.VoidsAndJoins := ⟨voids, sparesJoin⟩

end Sys2Proof.Machine

/-! SUPPORT. Results that land, and the placement, saving and return of sheaves (R85 to R87, R92, R102, R314). -/

namespace Sys2Proof.Machine

open Sys2Proof.Claims

/-! ## The save area of a sheaf (R102) -/

section
variable {α β : Type} {f : α → List β} {c : Nat}

theorem drop_flatMap_const (h : ∀ x, (f x).length = c) (l : List α) (i : Nat) : (l.flatMap f).drop (c * i) = (l.drop i).flatMap f := by
  induction i generalizing l with
  | zero => simp
  | succ i ih =>
    cases l with
    | nil => simp
    | cons x l =>
      rw [List.flatMap_cons, List.drop_succ_cons, ← ih l, Nat.mul_succ, Nat.add_comm, ← List.drop_drop, List.drop_append_of_le_length (Nat.le_of_eq (h x).symm),
        List.drop_of_length_le (Nat.le_of_eq (h x)), List.nil_append]

theorem take_drop_append {X Y : List β} {i k : Nat} (h : i + k ≤ X.length) : ((X ++ Y).drop i).take k = (X.drop i).take k := by
  rw [List.drop_append_of_le_length (by omega), List.take_append_of_le_length (by rw [List.length_drop]; omega)]

theorem take_drop_skip {X Y : List β} {i k : Nat} : ((X ++ Y).drop (X.length + i)).take k = (Y.drop i).take k := by
  rw [← List.drop_drop, List.drop_append_of_le_length (Nat.le_refl _), List.drop_of_length_le (Nat.le_refl _), List.nil_append]

/-- A piece of the i-th of chunks of one length. -/
theorem take_drop_chunk (h : ∀ x, (f x).length = c) {l : List α} {i o k : Nat} (hi : i < l.length) (ho : o + k ≤ c) :
    ((l.flatMap f).drop (c * i + o)).take k = ((f l[i]).drop o).take k := by
  rw [← List.drop_drop, drop_flatMap_const h, List.drop_eq_getElem_cons hi, List.flatMap_cons, take_drop_append (by rw [h]; exact ho)]

theorem length_flatMap_const (h : ∀ x, (f x).length = c) (l : List α) : (l.flatMap f).length = c * l.length := by
  induction l with
  | nil => simp
  | cons x l ih => rw [List.flatMap_cons, List.length_append, ih, h, List.length_cons, Nat.mul_succ, Nat.add_comm]

end

theorem ofLe_leBytes (n v : Nat) : ofLe (leBytes n v) = v % 2 ^ (8 * n) := by
  induction n generalizing v with
  | zero => simp [leBytes, ofLe, Nat.mod_one]
  | succ n ih =>
    rw [leBytes, ofLe, ih, BitVec.toNat_ofNat, Nat.shiftRight_eq_div_pow, show 8 * (n + 1) = 8 + 8 * n by omega, Nat.pow_add, Nat.mod_mul]

theorem ofLe_leBytes_toNat {w : Nat} {n : Nat} (h : w = 8 * n) (v : BitVec w) : ofLe (leBytes n v.toNat) = v.toNat := by
  rw [ofLe_leBytes, ← h, Nat.mod_eq_of_lt v.isLt]

/-- The registers of a thread in the save area. -/
def Thread.regArea (t : Thread) : List Byte := (List.range 32).flatMap (fun n => leBytes 4 (t.g.getD n 0).toNat)

theorem Thread.regArea_length (t : Thread) : t.regArea.length = 128 := by
  rw [Thread.regArea, length_flatMap_const (fun _ => leBytes_length _ _), List.length_range]

theorem saveArea_eq (sl : Slot) : ∃ tail : List Byte, tail.length = 64 ∧ saveArea sl =
    ((List.range 16).map sl.thread).flatMap Thread.regArea ++ (((List.range 16).map sl.thread).flatMap (fun t => leBytes 8 t.pc.toNat) ++
      ((List.range 16).flatMap (fun n => leBytes 4 (sl.u.getD n 0).toNat) ++ tail)) := by
  refine ⟨_, ?_, by simp only [saveArea, List.append_assoc]; rfl⟩
  simp [leBytes_length]

theorem saveArea_spec (sl : Slot) : (saveArea sl).length = 2304 ∧
    (∀ m < 16, ∀ n < 32, ofLe (((saveArea sl).drop (128 * m + 4 * n)).take 4) = ((sl.thread m).g.getD n 0).toNat) ∧
    (∀ m < 16, ofLe (((saveArea sl).drop (0x800 + 8 * m)).take 8) = (sl.thread m).pc.toNat) ∧
    (∀ n < 16, ofLe (((saveArea sl).drop (0x880 + 4 * n)).take 4) = (sl.u.getD n 0).toNat) := by
  obtain ⟨tail, htail, heq⟩ := saveArea_eq sl
  have hA : (((List.range 16).map sl.thread).flatMap Thread.regArea).length = 2048 := by
    rw [length_flatMap_const Thread.regArea_length, List.length_map, List.length_range]
  have hB : (((List.range 16).map sl.thread).flatMap (fun t => leBytes 8 t.pc.toNat)).length = 128 := by
    rw [length_flatMap_const (fun _ => leBytes_length _ _), List.length_map, List.length_range]
  have hC : ((List.range 16).flatMap (fun n => leBytes 4 (sl.u.getD n 0).toNat)).length = 64 := by
    rw [length_flatMap_const (fun _ => leBytes_length _ _), List.length_range]
  rw [heq]
  refine ⟨by simp only [List.length_append, hA, hB, hC, htail], fun m hm n hn => ?_, fun m hm => ?_, fun n hn => ?_⟩
  · rw [take_drop_append (by omega), take_drop_chunk Thread.regArea_length (by simpa using hm) (by omega), List.getElem_map, List.getElem_range,
      Thread.regArea, ← Nat.add_zero (4 * n), take_drop_chunk (fun _ => leBytes_length _ _) (by simpa using hn) (by omega), List.getElem_range,
      List.drop_zero, List.take_of_length_le (Nat.le_of_eq (leBytes_length _ _))]
    exact ofLe_leBytes_toNat rfl _
  · rw [show 0x800 + 8 * m = (((List.range 16).map sl.thread).flatMap Thread.regArea).length + 8 * m by rw [hA], take_drop_skip,
      take_drop_append (by omega), ← Nat.add_zero (8 * m), take_drop_chunk (fun _ => leBytes_length _ _) (by simpa using hm) (by omega),
      List.getElem_map, List.getElem_range, List.drop_zero, List.take_of_length_le (Nat.le_of_eq (leBytes_length _ _))]
    exact ofLe_leBytes_toNat rfl _
  · rw [show 0x880 + 4 * n = (((List.range 16).map sl.thread).flatMap Thread.regArea).length +
        ((((List.range 16).map sl.thread).flatMap (fun t => leBytes 8 t.pc.toNat)).length + 4 * n) by rw [hA, hB]; omega, take_drop_skip, take_drop_skip,
      take_drop_append (by omega), ← Nat.add_zero (4 * n), take_drop_chunk (fun _ => leBytes_length _ _) (by simpa using hn) (by omega),
      List.getElem_range, List.drop_zero, List.take_of_length_le (Nat.le_of_eq (leBytes_length _ _))]
    exact ofLe_leBytes_toNat rfl _

/-! ## Sheaves that are saved and placed again -/

@[simp] theorem State.ctx_moveWaiters (s : State) (f : Waiter → Waiter) (n : Nat) : (s.moveWaiters f).ctx n = s.ctx n := rfl

theorem State.waiters_moveWaiters (s : State) (f : Waiter → Waiter) (p : Nat) : ((s.moveWaiters f).spar p).waiters = (s.spar p).waiters.map f := by
  have h := Map.getD_map (fun x : Spar => { x with waiters := x.waiters.map f, tokens := x.tokens.map f }) s.tab.spars p Spar.idle rfl
  exact congrArg Spar.waiters h

theorem State.freeSlotOf_eq {s : State} {core k : Nat} (hk : k < 4) (hnone : s.slot core k = none) (hlow : ∀ j < k, s.slot core j ≠ none) :
    s.freeSlotOf core = some k := by
  have hk' : (s.slot core k).isNone = true := by rw [hnone]; rfl
  have hlow' : ∀ j < k, (s.slot core j).isNone = false := fun j hj => by
    rw [← Option.not_isSome, Option.isSome_iff_ne_none.2 (hlow j hj)]
    rfl
  unfold State.freeSlotOf
  match k, hk with
  | 0, _ => simp only [List.find?_cons, hk']
  | 1, _ => simp only [List.find?_cons, hk', hlow' 0 (by decide)]
  | 2, _ => simp only [List.find?_cons, hk', hlow' 0 (by decide), hlow' 1 (by decide)]
  | 3, _ => simp only [List.find?_cons, hk', hlow' 0 (by decide), hlow' 1 (by decide), hlow' 2 (by decide)]

/-- R102: a parked sheaf is saved, and its slot is free. -/
theorem State.swapOut_spec {s : State} {core slot : Nat} {sl : Slot} (hs : s.slot core slot = some sl) (hp : sl.parked = true)
    (hready : s.sheafReady core = true) (hruns : s.ctxRuns sl.ctx = true) (hr : (s.core core).slots.rising = true) :
    (s.swapOut core slot).slot core slot = none ∧ (∀ j, j ≠ slot → (s.swapOut core slot).slot core j = s.slot core j) ∧
      ((s.swapOut core slot).core core).lsWin = (s.core core).lsWin ∧ ((s.swapOut core slot).core core).ls = (s.core core).ls ∧
      ((s.swapOut core slot).ctx sl.ctx).saved = (s.ctx sl.ctx).saved ++ [{ core := core, area := sl.block, slot := sl }] ∧
      (s.swapOut core slot).mem = (s.writeBytes ((s.ctx sl.ctx).save + 2304 * sl.block) (saveArea sl)).mem ∧
      ∀ p, ((s.swapOut core slot).spar p).waiters = (s.spar p).waiters.map (fun w => match w with
        | .thread c k m => if c = core ∧ k = slot then .saved sl.ctx sl.block m else w
        | _ => w) := by
  have hb := s.onlyBytes_writeBytes ((s.ctx sl.ctx).save + 2304 * sl.block) (saveArea sl)
  have hdo : s.swapOut core slot = (((s.writeBytes ((s.ctx sl.ctx).save + 2304 * sl.block) (saveArea sl)).updCtx sl.ctx (fun c =>
      { c with saved := c.saved ++ [{ core := core, area := sl.block, slot := sl }] })).updCore core (fun c => { c with slots := c.slots.del slot })).moveWaiters
      (fun w => match w with
        | .thread c k t => if c = core ∧ k = slot then .saved sl.ctx sl.block t else w
        | _ => w) := by
    unfold State.swapOut
    rw [hs]
    dsimp only
    rw [hp, hready, hruns]
    rfl
  rw [hdo]
  generalize s.writeBytes ((s.ctx sl.ctx).save + 2304 * sl.block) (saveArea sl) = u at hb
  have hcore : ((u.updCtx sl.ctx (fun c => { c with saved := c.saved ++ [{ core := core, area := sl.block, slot := sl }] })).updCore
      core (fun c => { c with slots := c.slots.del slot })).core core = { s.core core with slots := (s.core core).slots.del slot } := by
    rw [State.core_updCore, if_pos rfl]
    exact congrArg (fun g : Grid => { g.cores.getD core Core.idle with slots := (g.cores.getD core Core.idle).slots.del slot }) hb.grid
  refine ⟨?_, fun j hj => ?_, ?_, ?_, ?_, rfl, fun p => ?_⟩
  · refine (congrArg (fun c : Core => c.slots.get? slot) hcore).trans ?_
    exact Map.get?_del_self hr _
  · refine (congrArg (fun c : Core => c.slots.get? j) hcore).trans ?_
    exact Map.get?_del_of_ne _ hj
  · exact (congrArg Core.lsWin hcore :)
  · exact (congrArg Core.ls hcore :)
  · rw [State.ctx_moveWaiters, State.ctx_updCore, State.ctx_updCtx_self]
    exact congrArg (fun t : Tables => (t.ctxs.getD sl.ctx Ctx.idle).saved ++ [{ core := core, area := sl.block, slot := sl }]) hb.tab
  · refine (State.waiters_moveWaiters _ _ p).trans ?_
    exact congrArg (List.map _) (congrArg (fun t : Tables => (t.spars.getD p Spar.idle).waiters) hb.tab :)

/-- R102, R293: a saved sheaf whose wait has ended is placed again as it stands. -/
theorem State.sheafRestore_spec {s : State} {core n k ctx : Nat} {v : Saved} (hv : (s.savedOn core)[n]? = some (ctx, v))
    (hready : ∃ m < 16, (v.slot.thread m).st = .ready) (hruns : s.ctxRuns ctx = true) (hseat : s.seated ctx = true)
    (hpow : (s.course (courseOfCore core)).power = .run) (hk : s.freeSlotOf core = some k) :
    (s.sheafRestore core n).slot core k = some v.slot ∧ (∀ j, j ≠ k → (s.sheafRestore core n).slot core j = s.slot core j) ∧
      ((s.sheafRestore core n).core core).lsWin = (s.core core).lsWin ∧ ((s.sheafRestore core n).core core).ls = (s.core core).ls ∧
      ((s.sheafRestore core n).ctx ctx).saved = (s.ctx ctx).saved.filter (fun u => u.area != v.area) ∧ (s.sheafRestore core n).mem = s.mem ∧
      ∀ p, ((s.sheafRestore core n).spar p).waiters = (s.spar p).waiters.map (fun w => match w with
        | .saved c a m => if c = ctx ∧ a = v.area then .thread core k m else w
        | _ => w) := by
  have hres : v.resumable = true := by
    obtain ⟨m, hm, hst⟩ := hready
    exact List.any_eq_true.2 ⟨m, List.mem_range.2 hm, by rw [hst]; rfl⟩
  have hdo : s.sheafRestore core n = ((s.updCtx ctx (fun c => { c with saved := c.saved.filter (fun u => u.area != v.area) })).updCore core
      (fun c => { c with slots := c.slots.put k v.slot })).moveWaiters (fun w => match w with
        | .saved c a t => if c = ctx ∧ a = v.area then .thread core k t else w
        | _ => w) := by
    unfold State.sheafRestore
    rw [hv]
    dsimp only
    rw [hres, hruns, hseat]
    refine (if_neg (by decide)).trans ((if_neg (fun h => h hpow)).trans ?_)
    rw [hk] <;> rfl
  rw [hdo]
  have hcore : ((s.updCtx ctx (fun c => { c with saved := c.saved.filter (fun u => u.area != v.area) })).updCore core
      (fun c => { c with slots := c.slots.put k v.slot })).core core = { s.core core with slots := (s.core core).slots.put k v.slot } := by
    rw [State.core_updCore, if_pos rfl]
    rfl
  refine ⟨?_, fun j hj => ?_, ?_, ?_, ?_, rfl, fun p => State.waiters_moveWaiters _ _ p⟩
  · exact (congrArg (fun c : Core => c.slots.get? k) hcore).trans (Map.get?_put_self ..)
  · exact (congrArg (fun c : Core => c.slots.get? j) hcore).trans (Map.get?_put_of_ne _ _ hj)
  · exact (congrArg Core.lsWin hcore :)
  · exact (congrArg Core.ls hcore :)
  · rw [State.ctx_moveWaiters, State.ctx_updCore, State.ctx_updCtx_self]

/-- R102: sheaves that are saved and placed again. -/
theorem sheafSwap : SheafSwap := by
  refine ⟨fun s core slot sl hcore hslot hs hp hready hruns hr => ?_, fun s core n k ctx v hcore hv hready hruns hseat hpow hk hnone hlow => ?_,
    saveArea_spec⟩
  · exact ⟨_, done_next (c := .sheafSwapOut core slot) (by simp [Instr.wellFormed, coreCount, hcore, hslot]),
      State.swapOut_spec hs hp hready hruns hr⟩
  · exact ⟨_, done_next (c := .sheafRestore core n) (by simp [Instr.wellFormed, coreCount, hcore]),
      State.sheafRestore_spec hv hready hruns hseat hpow (State.freeSlotOf_eq hk hnone hlow)⟩

/-! ## The placement of a sheaf (R85, R314) -/

theorem State.entry_updEntry_self (s : State) (e : EntryRef) {f : QEntry → QEntry} (hf : ∀ x, (f x).n = x.n) :
    (s.updEntry e f).entry e = (s.entry e).map f := by
  have hn : ∀ x : QEntry, (if x.n = e.n then f x else x).n = x.n := fun x => by split <;> simp [hf]
  unfold State.entry
  rw [State.queue_updEntry_self]
  induction (s.queue e.fn e.q).entries with
  | nil => rfl
  | cons x l ih =>
    rw [List.map_cons, List.find?_cons, List.find?_cons, hn]
    cases h : x.n == e.n
    · exact ih
    · dsimp only
      rw [if_pos (by simpa using h)]
      rfl

theorem newSlot_thread (e : EntryRef) (x : QEntry) (core slot index block : Nat) {m : Nat} (hm : m < 16) :
    (newSlot e x core slot index block).thread m = { Thread.idle with g := [(0, BitVec.ofNat 32 m)], pc := BitVec.ofNat 64 x.lEntry } := by
  have hget : ∀ l : List Nat, m ∈ l → Map.getD (l.map (fun t => (t,
      { Thread.idle with g := [(0, BitVec.ofNat 32 t)], pc := BitVec.ofNat 64 x.lEntry }))) m Thread.idle =
        { Thread.idle with g := [(0, BitVec.ofNat 32 m)], pc := BitVec.ofNat 64 x.lEntry } := by
    intro l hl
    induction l with
    | nil => cases hl
    | cons y l ih =>
      by_cases hy : m = y
      · subst hy
        simp [Map.getD, Map.get?]
      · have := ih ((List.mem_cons.1 hl).resolve_left hy)
        simpa [Map.getD, Map.get?, hy, Ne.symm hy] using this
  exact hget _ (List.mem_range.2 hm)

theorem newSlot_u (e : EntryRef) (x : QEntry) (core slot index block n : Nat) :
    (newSlot e x core slot index block).u.getD n 0 = match n with
      | 0 => BitVec.ofNat 32 x.lArg
      | 1 => BitVec.ofNat 32 (x.lArg / 2 ^ 32)
      | 2 => BitVec.ofNat 32 index
      | 3 => BitVec.ofNat 32 core
      | 4 => BitVec.ofNat 32 slot
      | _ => 0 := by
  unfold newSlot
  match n with
  | 0 | 1 | 2 | 3 | 4 => rfl
  | n + 5 => simp [Map.getD, Map.get?]

theorem State.updCore_congr {s : State} {k : Nat} {f g : Core → Core} (h : f (s.core k) = g (s.core k)) : s.updCore k f = s.updCore k g :=
  congrArg (fun c : Core => { s with grid := { s.grid with cores := s.grid.cores.put k c } }) h

theorem State.updCore_updCore (s : State) (k : Nat) (f g : Core → Core) : (s.updCore k f).updCore k g = s.updCore k (fun c => g (f c)) := by
  simp only [State.updCore, Map.upd, Map.getD_put_self, Map.put_put]

/-- A core with one more sheaf, in a free slot; the window of its context is set where it had none. -/
def Core.placed (c : Core) (lines : Map NLine) (k : Nat) (sl : Slot) (win : Nat × Nat) : Core :=
  { c with lines := lines, slots := c.slots.put k sl, lsWin := if (c.lsWin.get? sl.ctx).isSome then c.lsWin else c.lsWin.put sl.ctx win }

theorem State.sheafPlace_eq {s : State} {e : EntryRef} {core k b : Nat} {x : QEntry} (hx : s.entry e = some x) (hto : x.toPlace core = true)
    (hruns : s.ctxRuns x.ctx = true) (hseat : s.seated x.ctx = true) (hwith : s.withheld e.fn (tractOfCore core) x = false)
    (hpow : (s.course (courseOfCore core)).power = .run) (hk : s.freeSlotOf core = some k) (hb : s.freeBlock x.ctx = some b) :
    ∃ lines, s.sheafPlace e core = (s.updCore core (fun c =>
      c.placed lines k (newSlot e x core k (x.lPer * (core - x.lCore0) + x.placed.getD core 0) b) (x.lBase, x.lSize))).updEntry e
        (fun y => { y with placed := y.placed.put core (x.placed.getD core 0 + 1) }) := by
  unfold State.sheafPlace
  rw [hx]
  dsimp only
  rw [hto, hruns, hseat, hwith]
  simp only [Bool.not_true, Bool.or_false, Bool.false_eq_true, if_false, hpow, ne_eq, not_true_eq_false, hk, hb]
  by_cases hp : x.placed.getD core 0 = 0
  · rw [if_pos hp, State.dropClean, State.updCore_updCore]
    exact ⟨((s.core core).lines.filter (fun l => !l.2.dirty.isEmpty)), congrArg (State.updEntry · e _) (State.updCore_congr rfl)⟩
  · rw [if_neg hp]
    exact ⟨(s.core core).lines, congrArg (State.updEntry · e _) (State.updCore_congr rfl)⟩

theorem sheafPlacement : SheafPlacement := by
  intro s e core k b x p index he hcore hx hto hruns hseat hwith hpow hk hnone hlow hb
  obtain ⟨lines, hdo⟩ := State.sheafPlace_eq hx hto hruns hseat hwith hpow (State.freeSlotOf_eq hk hnone hlow) hb
  have hexec : exec (.sheafPlace e core) s = .next (s.sheafPlace e core) := done_next (by simp [Instr.wellFormed, coreCount, he, hcore])
  obtain ⟨sl, hsl⟩ : ∃ sl, sl = newSlot e x core k index b := ⟨_, rfl⟩
  have hcoreEq : ∀ c, (s.sheafPlace e core).core c = if c = core then (s.core core).placed lines k sl (x.lBase, x.lSize) else s.core c := fun c => by
    rw [hdo, hsl]
    exact State.core_updCore ..
  have hself := (hcoreEq core).trans (if_pos rfl)
  have hthread : ∀ m < 16, sl.thread m = _ := fun m hm => hsl ▸ newSlot_thread e x core k index b hm
  have hu := fun n => newSlot_u e x core k index b n
  rw [← hsl] at hu
  refine ⟨_, sl, hexec, ?_, hsl ▸ rfl, hsl ▸ rfl, hsl ▸ rfl, hsl ▸ rfl, hsl ▸ rfl, hsl ▸ rfl, hthread, hu, fun j hj => ?_, fun c hc => ?_, ?_, ?_, ?_, ?_, ?_, ?_⟩
  · rw [State.slot, hself]
    exact Map.get?_put_self ..
  · rw [State.slot, hself]
    exact Map.get?_put_of_ne _ _ hj
  · rw [hcoreEq, if_neg hc]
  · rw [hself]
    rfl
  · rw [hself]
    rfl
  · have hctx : sl.ctx = x.ctx := hsl ▸ rfl
    rw [hself, Core.placed, hctx]
    dsimp only
    cases hw : (s.core core).lsWin.get? x.ctx with
    | some w => simp [hw, Map.getD]
    | none => simp [hw, Map.getD, Map.get?_put_self]
  · rw [hdo, State.entry_updEntry_self (hf := ?_)]
    rotate_left
    · exact fun _ => rfl
    have : (s.updCore core (fun c => c.placed lines k (newSlot e x core k (x.lPer * (core - x.lCore0) + x.placed.getD core 0) b)
      (x.lBase, x.lSize))).entry e = some x := hx
    rw [this]
    rfl
  · rw [hdo]
    rfl
  · rw [hdo]
    rfl

/-! ## Results that land (R86, R92) -/

theorem removeAt_eq {α : Type} (l : List α) (n : Nat) : removeAt l n = l.eraseIdx n := by
  induction l generalizing n with
  | nil => rfl
  | cons x l ih =>
    cases n with
    | zero => rfl
    | succ n => rw [removeAt, ih]; rfl

/-- The value at a key of a map each of whose values changed by its key. -/
theorem Map.getD_mapKey {α : Type} (g : Nat → α → α) (m : Map α) (n : Nat) (d : α) (hd : g n d = d) :
    Map.getD (List.map (fun x => (x.1, g x.1 x.2)) m) n d = g n (Map.getD m n d) := by
  induction m with
  | nil => simp [Map.getD, Map.get?, hd]
  | cons x m ih =>
    obtain ⟨k, a⟩ := x
    by_cases h : n = k
    · subst h
      simp [Map.getD, Map.get?]
    · simpa [Map.getD, Map.get?, h, Ne.symm h] using ih

theorem Slot.thread_wake (sl : Slot) (m : Nat) : sl.wake.thread m =
    if (sl.thread m).st = .waitData ∧ ∀ c ∈ (sl.thread m).waits, sl.awaits m (Reg.ofNat c) = false then { sl.thread m with st := .ready, waits := [] }
    else sl.thread m := by
  have h := Map.getD_mapKey (fun k (th : Thread) => if th.st = .waitData && !th.waits.any (fun c => sl.awaits k (Reg.ofNat c))
    then { th with st := .ready, waits := [] } else th) sl.threads m Thread.idle rfl
  refine Eq.trans ?_ (h.trans ?_)
  · unfold Slot.thread Slot.wake
    dsimp only
    congr 1
    refine List.map_congr_left fun x _ => ?_
    split <;> rfl
  · exact ite_eq_of_iff (by simp [Slot.thread]) _ _

/-- A slot in which a result has landed, with the results that still pend. -/
def Slot.landed (sl : Slot) (p : Pend) (rest : List Pend) : Slot := { sl.land p p.val with pend := rest }

section
variable {sl : Slot} {p : Pend} {n : Nat}

theorem Slot.arrive_eq (hclob : p.clobber = false)
    (hfree : ∀ q ∈ sl.pend, q.drain = true → ¬(q.thread = p.thread ∧ q.reg = p.reg)) :
    sl.arrive p (removeAt sl.pend n) = sl.landed p (sl.pend.eraseIdx n) := by
  have hmap : (sl.pend.eraseIdx n).map (fun q => if q.drain && q.thread == p.thread && q.reg == p.reg then { q with clobber := true } else q) =
      sl.pend.eraseIdx n := by
    refine (List.map_congr_left (g := id) fun q hq => if_neg fun h => ?_).trans (List.map_id _)
    simp only [Bool.and_eq_true, beq_iff_eq] at h
    exact hfree q (List.mem_of_mem_eraseIdx hq) h.1.1 ⟨h.1.2, h.2⟩
  unfold Slot.arrive
  rw [hclob, removeAt_eq, hmap]
  rfl

theorem Slot.thread_landed (hreg : p.reg < 32) (rest : List Pend) {m : Nat} (hm : m < 16) :
    (sl.landed p rest).thread m = if p.thread = m then { sl.thread m with g := (sl.thread m).g.put p.reg p.val } else sl.thread m := by
  unfold Slot.landed Slot.land
  rw [if_neg (by omega)]
  by_cases hu : p.thread = 16
  · rw [if_pos hu, if_neg (by omega)]
    rfl
  · rw [if_neg hu]
    rw [Slot.thread, Map.getD_upd]
    by_cases hp : m = p.thread
    · rw [if_pos hp, if_pos hp.symm, hp]
      rfl
    · rw [if_neg hp, if_neg (Ne.symm hp)]
      rfl

theorem Slot.u_landed (hreg : p.reg < 32) (rest : List Pend) (k : Nat) :
    (sl.landed p rest).u.getD k 0 = if p.thread = 16 ∧ p.reg = k then p.val else sl.u.getD k 0 := by
  unfold Slot.landed Slot.land
  rw [if_neg (by omega)]
  by_cases hu : p.thread = 16
  · rw [if_pos hu]
    refine (Map.getD_put ..).trans (ite_eq_of_iff ?_ _ _)
    exact ⟨fun h => ⟨hu, h.symm⟩, fun h => h.2.symm⟩
  · rw [if_neg hu, if_neg (fun h => hu h.1)]

theorem Slot.landed_rest (hreg : p.reg < 32) (rest : List Pend) :
    { (sl.landed p rest).wake with threads := [], u := [] } = { sl with threads := [], u := [], pend := rest } := by
  unfold Slot.landed Slot.land Slot.wake
  rw [if_neg (by omega)]
  split <;> rfl

/-- No thread leaves EXITED, and none enters it, when a result lands. -/
theorem Slot.exited_landed (hreg : p.reg < 32) (rest : List Pend) {m : Nat} (hm : m < 16) :
    ((sl.landed p rest).wake.thread m).st = .exited ↔ (sl.thread m).st = .exited := by
  have hst : ((sl.landed p rest).thread m).st = (sl.thread m).st := by
    rw [Slot.thread_landed hreg rest hm]
    split <;> rfl
  rw [Slot.thread_wake]
  split
  · next h => simp [← hst, h.1]
  · rw [hst]

theorem Slot.over_landed (hreg : p.reg < 32) (rest : List Pend) :
    (sl.landed p rest).wake.over = true ↔ rest = [] ∧ ∀ m < 16, (sl.thread m).st = .exited := by
  rw [Slot.over, Bool.and_eq_true, List.isEmpty_iff, List.all_eq_true]
  refine and_congr (by rfl) ⟨fun h m hm => ?_, fun h m hm => ?_⟩
  · exact (Slot.exited_landed hreg rest hm).1 (by simpa using h m (List.mem_range.2 hm))
  · simpa using (Slot.exited_landed hreg rest (List.mem_range.1 hm)).2 (h m (List.mem_range.1 hm))

end

theorem State.updSlot_eq {s : State} {k j : Nat} {sl : Slot} (h : s.slot k j = some sl) (f : Slot → Slot) :
    s.updSlot k j f = s.updCore k (fun c => { c with slots := c.slots.put j (f sl) }) := by
  unfold State.updSlot
  rw [h]

/-- The landing of the n-th pending result of a slot, as far as the end of its sheaf. -/
theorem exec_pendingWriteLands {s : State} {core slot n : Nat} {sl : Slot} {p : Pend} (hcore : core < 1048576) (hslot : slot < 4)
    (hs : s.slot core slot = some sl) (hp : sl.pend[n]? = some p) (hready : p.ready = true) (hdrain : p.drain = false) (hclob : p.clobber = false)
    (hfree : ∀ q ∈ sl.pend, q ∈ sl.pend.take n ∨ q.drain = true → ¬(q.thread = p.thread ∧ q.reg = p.reg)) :
    exec (.pendingWriteLands core slot n) s =
      .next ((s.updCore core (fun c => { c with slots := c.slots.put slot (sl.landed p (sl.pend.eraseIdx n)).wake })).endSheaf core slot) := by
  refine (done_next (c := .pendingWriteLands core slot n) (by simp [Instr.wellFormed, coreCount, hcore, hslot])).trans (congrArg _ ?_)
  have hfirst : ¬ (!p.ready || p.drain || (sl.pend.take n).any (fun q => q.thread == p.thread && q.reg == p.reg && !q.drain)) = true := by
    rw [hready, hdrain]
    simp only [Bool.not_true, Bool.false_or, Bool.not_eq_true, List.any_eq_false, Bool.and_eq_true, beq_iff_eq]
    exact fun q hq h => hfree q (List.mem_of_mem_take hq) (.inl hq) h.1
  rw [hs]
  dsimp only
  rw [hp]
  dsimp only
  rw [if_neg hfirst, State.settleSlot, State.updSlot_eq hs, Slot.arrive_eq hclob (fun q hq hd => hfree q hq (.inr hd))]
  have hs' : (s.updCore core (fun c => { c with slots := c.slots.put slot (sl.landed p (sl.pend.eraseIdx n)) })).slot core slot =
      some (sl.landed p (sl.pend.eraseIdx n)) := by
    rw [State.slot, State.core_updCore, if_pos rfl]
    exact Map.get?_put_self ..
  rw [State.updSlot_eq hs', State.updCore_updCore]
  simp only [Map.put_put]

theorem resultsLand : ResultsLand := by
  intro s core slot n sl p rest hcore hslot hs hp hready hdrain hclob hreg hfree
  have hexec := exec_pendingWriteLands hcore hslot hs hp hready hdrain hclob hfree
  obtain ⟨W, hW⟩ : ∃ W, W = (sl.landed p rest).wake := ⟨_, rfl⟩
  obtain ⟨u, hu⟩ : ∃ u, u = s.updCore core (fun c => { c with slots := c.slots.put slot W }) := ⟨_, rfl⟩
  have hexec : exec (.pendingWriteLands core slot n) s = .next (u.endSheaf core slot) := by rw [hu, hW]; exact hexec
  have hcoreEq : u.core core = { s.core core with slots := (s.core core).slots.put slot W } := by
    rw [hu, State.core_updCore, if_pos rfl]
  have huslot : u.slot core slot = some W := by
    rw [State.slot, hcoreEq]
    exact Map.get?_put_self ..
  refine ⟨fun ⟨k, hk, hst⟩ => ?_, fun hone hthread hall hr => ⟨_, hexec, ?_⟩⟩
  · have hover : ¬ W.over = true := fun h => hst (((Slot.over_landed hreg rest).1 (hW ▸ h)).2 k hk)
    have hend : u.endSheaf core slot = u := by
      unfold State.endSheaf
      rw [huslot]
      dsimp only
      rw [if_pos (by simpa using hover)]
    refine ⟨u, W, by rw [hexec, hend], hu ▸ State.updCore_only .., hcoreEq, hW ▸ Slot.landed_rest hreg rest, fun k => ?_, fun m hm => ?_⟩
    · rw [hW]
      exact Slot.u_landed hreg rest k
    · rw [hW, Slot.thread_wake, Slot.thread_landed hreg rest hm]
      rfl
  · have hover : W.over = true := hW ▸ (Slot.over_landed hreg rest).2 ⟨?_, hall⟩
    · have hrise : (u.core core).slots.rising = true := by
        rw [hcoreEq]
        exact Map.put_rising hr _ _
      rw [(State.endSheaf_spec hrise huslot hover).1, if_pos rfl]
    · have hn : n = 0 := by
        cases n with
        | zero => rfl
        | succ n => rw [hone] at hp; simp at hp
      simp only [rest, hone, hn]
      rfl

/-- Settles O14: landing, placement and swapping, each by what its slot and core are afterwards. -/
theorem sheafLife : Obligations.SheafLife := ⟨resultsLand, sheafPlacement, sheafSwap⟩

end Sys2Proof.Machine

/-! SUPPORT. Drains, reshapes and releases at their issue (R70, R77, R78, R80, R94, R124, R125). -/

namespace Sys2Proof.Machine

open Sys2Proof.Claims

theorem uregs_specifiers {w : Nat} {c : BitVec 6} {l : List Reg} (hc : 0x20 ≤ c.toNat) (h : specifiers w c = some l) : uregs w c = some l := by
  rw [uregs, if_pos hc, regs_specifiers h]

theorem field_eq (v hi lo : Nat) : field v hi lo = v / 2 ^ lo % 2 ^ (hi + 1 - lo) := by
  rw [field, Nat.shiftRight_eq_div_pow]

/-! ## Whole-sheaf instructions (R99, R108) -/

/-- A whole-sheaf instruction to which the last threads of its sheaf come. -/
theorem State.whole_allCome {s : State} {i : Issue} {w : WholeIns} {q : Form} (hl : s.Leads i) (hg : guardLegal q.guard)
    (hc : s.allCome i w q) (word : Nat) (act : State → State) :
    s.whole i w q.guard ⟨true, q.bound, q.reads⟩ word act = s.actsWhole i w q act := by
  obtain ⟨hgo, hst, hall⟩ := hc
  unfold State.whole
  refine (if_neg (fun h => hst h.1)).trans ((State.issue_acts s i q _ _ hl hg).trans ((if_neg (by simpa using hgo)).trans ?_))
  change (match (s.come i w q).slot i.core (i.leader / 16) with
    | some sl => if sl.barTest = BarTest.whole then (act (s.come i w q)).updSlot i.core (i.leader / 16) Slot.releaseWhole
        else (s.come i w q).testBar i.core (i.leader / 16) i.leader word
    | none => s.come i w q) = _
  revert hall
  cases (s.come i w q).slot i.core (i.leader / 16) with
  | none => exact fun h => h.elim
  | some sl => exact fun h => if_pos h

/-! ## GDRAIN (R70, R94, R124) -/

section
variable {s : State} {i : Issue} {f : FormT} {a : Reg} {b r : List Reg}

/-- The encodings that R124 allows, with the registers that they name. -/
structure DrainForm (f : FormT) (a : Reg) (b r : List Reg) : Prop where
  guard : guardLegal f.guard
  type : f.type = 0
  sc : f.sc = 0
  bit : f.mod.getLsbD 14 = false
  sa : uregs 1 f.sa = some [a]
  sb : uregs 4 f.sb = some b
  dst : (gregs 1 f.dst).isSome
  rq : if field f.mod.toNat 20 15 = 0 then r = [] else uregs 4 (BitVec.ofNat 6 (field f.mod.toNat 20 15)) = some r

theorem DrainForm.of (hg : guardLegal f.guard) (ht : f.type = 0) (hsc : f.sc = 0) (hbit : f.mod.getLsbD 14 = false) (hsa : 0x20 ≤ f.sa.toNat)
    (ha : specifier f.sa = some a) (hsb : 0x20 ≤ f.sb.toNat) (hb : specifiers 4 f.sb = some b) (hd : (gregs 1 f.dst).isSome)
    (hr : if f.mod.toNat / 2 ^ 15 % 64 = 0 then r = []
      else 0x20 ≤ f.mod.toNat / 2 ^ 15 % 64 ∧ specifiers 4 (BitVec.ofNat 6 (f.mod.toNat / 2 ^ 15 % 64)) = some r) : DrainForm f a b r := by
  refine ⟨hg, ht, hsc, hbit, uregs_specifier hsa ha, uregs_specifiers hsb hb, hd, ?_⟩
  rw [field_eq]
  change if f.mod.toNat / 2 ^ 15 % 64 = 0 then _ else _
  have hlt : f.mod.toNat / 2 ^ 15 % 64 < 64 := Nat.mod_lt _ (by decide)
  generalize f.mod.toNat / 2 ^ 15 % 64 = n at *
  split at hr
  · exact (if_pos ‹_›).mpr hr
  · exact (if_neg ‹_›).mpr (uregs_specifiers (by rw [BitVec.toNat_ofNat, Nat.mod_eq_of_lt hlt]; exact hr.1) hr.2)

variable (hf : DrainForm f a b r)
include hf

theorem DrainForm.rqRegs : (if field f.mod.toNat 20 15 = 0 then ([] : List Reg) else (uregs 4 (BitVec.ofNat 6 (field f.mod.toNat 20 15))).getD []) = r := by
  have h := hf.rq
  split at h
  · rw [h, if_pos ‹_›]
  · rw [h, if_neg ‹_›, Option.getD_some]

theorem DrainForm.rqSome : (field f.mod.toNat 20 15 == 0 || (uregs 4 (BitVec.ofNat 6 (field f.mod.toNat 20 15))).isSome) = true := by
  have h := hf.rq
  split at h
  · simp [*]
  · simp [h]

theorem DrainForm.drainGo {t : State} {k m ctx : Nat} {l : List Nat} (hrq : rqLegal (field f.mod.toNat 20 15) (t.drainOf k m ctx f [a] b r l).2 = true)
    (hbad : t.drainBad k ctx (t.drainOf k m ctx f [a] b r l).1 (t.drainOf k m ctx f [a] b r l).2 = none) :
    t.drainGo k m ctx f l = t.addDrain (t.drainOf k m ctx f [a] b r l).1 (t.drainOf k m ctx f [a] b r l).2 := by
  simp only [State.drainGo, hf.sa, hf.sb, hf.rqRegs, Option.getD_some, hrq, hbad, Bool.not_true, Bool.false_eq_true, if_false]

/-- GDRAIN by its target: whole for a sheaf that drains into itself (R94). -/
theorem DrainForm.exec (hl : s.Leads i) : execGdrain i f s = done (.gdrain i f)
    (if dcDest (BitVec.ofNat 64 (s.regsNat i.core i.leader b)) = 0 ∧ field f.mod.toNat 22 21 = i.leader / 16 then
      s.whole i (.drain f) f.guard ⟨true, true, [a] ++ b ++ r⟩ (tWord 0x62 f) (fun t => t.drainAct i.core (i.leader / 16) (s.slotCtx i) f)
    else s.issue i f.guard ⟨true, true, [a] ++ b ++ r⟩ (tWord 0x62 f) (fun t go on => match on with
        | [] => t.nextPc i.core go
        | m :: _ =>
          let live := match t.slot i.core (field f.mod.toNat 22 21) with
            | some sl => (List.range 16).filter (fun p => (sl.thread p).st != .exited)
            | none => []
          (t.drainGo i.core m (s.slotCtx i) f live).nextPc i.core go)) := by
  simp only [execGdrain, hf.type, hf.sc, hf.bit, hf.sa, hf.sb, hf.dst, hf.rqSome, hf.rqRegs, Option.getD_some, Option.isSome_some, Bool.and_true,
    beq_self_eq_true, Bool.not_false] <;> rfl

end

theorem State.gang_updSlot (s : State) (k j n : Nat) (f : Slot → Slot) : (s.updSlot k j f).gang n = s.gang n := by
  unfold State.updSlot
  split <;> rfl

theorem Slot.pends_drainPend (sl : Slot) (tag n : Nat) :
    (sl.drainPend tag n).pends = sl.pends ++ (List.range 16).map (fun p => ⟨tag, p, n, 0, false, true, false⟩) := by
  simp only [Slot.pends, Slot.drainPend, List.map_append, List.map_map]
  congr 1
  exact List.map_congr_left fun p _ => by
    rw [Function.comp_apply]
    split <;> rfl

theorem addDrain_spec (s : State) (gid : Nat) (dr : Drain) :
    let g := s.gang gid
    let t := s.addDrain gid dr
    let need := max (pick g.acceptedA (dcBank dr.dcw)) (pick g.acceptedB (dcBank dr.dcw))
    (t.gang gid).drains = g.drains ++ [{ dr with need := need, tag := s.mem.nextTag }] ∧
    (dcDest dr.dcw = 0 → dr.dst ≠ 0x30 → ∀ sl, s.slot dr.core dr.tslot = some sl →
      (t.slot dr.core dr.tslot).map Slot.pends = some (sl.pends ++ (List.range 16).map (fun p =>
        ⟨s.mem.nextTag, p, dr.dst.toNat, 0, false, true, false⟩))) := by
  intro g t need
  constructor
  · simp only [t, State.addDrain, State.gang_updGang_self]
    split
    · rw [State.gang_updSlot] <;> rfl
    · rfl
  · intro h0 hd sl hs
    simp only [t, State.addDrain, if_pos (And.intro h0 hd)]
    rw [← Slot.pends_drainPend]
    change (((s.newTag).updSlot dr.core dr.tslot _).slot dr.core dr.tslot).map Slot.pends = _
    rw [State.slot_updSlot, if_pos ⟨rfl, rfl⟩, show s.newTag.slot dr.core dr.tslot = some sl from hs]
    rfl

theorem drainIssue : DrainIssue := by
  refine ⟨?_, ?_, addDrain_spec⟩
  · intro s i f a b r m ms rq q x slot live dr hl hg ht hsc hbit hsa ha hsb hb hd hr hdest hact hrq hbad
    have hf := DrainForm.of hg ht hsc hbit hsa ha hsb hb hd hr
    refine (hf.exec hl).trans ((done_next (c := .gdrain i f) hl.ok).trans (congrArg _ ?_))
    refine (if_neg (by rw [field_eq]; exact hdest)).trans ((State.issue_acts s i q _ _ hl hg).trans ?_)
    rw [hact]
    have hx : field f.mod.toNat 22 21 = slot := field_eq ..
    have hq : field f.mod.toNat 20 15 = rq := field_eq ..
    dsimp only
    rw [hx]
    exact congrArg (fun t => State.nextPc t i.core (s.going i q)) (hf.drainGo (l := live) (by rw [hq]; exact hrq) hbad)
  · intro s i f a b r sl rq q x dr hl hg ht hsc hbit hsa ha hsb hb hd hr hdest hslot hcome hsl hon hrq hbad
    have hf := DrainForm.of hg ht hsc hbit hsa ha hsb hb hd hr
    refine (hf.exec hl).trans ((done_next (c := .gdrain i f) hl.ok).trans (congrArg _ ?_))
    refine (if_pos ⟨hdest, by rw [field_eq]; exact hslot⟩).trans ((State.whole_allCome (q := q) hl hg hcome _ _).trans ?_)
    have hact : x.drainAct i.core (i.leader / 16) (s.slotCtx i) f = x.addDrain dr.1 dr.2 := by
      rw [State.drainAct, hsl]
      refine (if_neg (by simpa using hon)).trans (hf.drainGo (by rw [field_eq]; exact hrq) hbad)
    exact congrArg (fun t => State.updSlot t i.core (i.leader / 16) Slot.releaseWhole) hact

/-! ## GRESHAPE and GRELEASE (R77, R78, R80, R125) -/

theorem State.issued_ctx (s : State) (i : Issue) (q : Form) (c : Nat) : (s.issued i q).ctx c = s.ctx c := by
  rw [(s.issued_spec i q).1.1] <;> rfl

theorem State.issued_gang (s : State) (i : Issue) (q : Form) (n : Nat) : (s.issued i q).gang n = s.gang n := by
  rw [(s.issued_spec i q).1.1] <;> rfl

theorem State.updGang_updGang (s : State) (n : Nat) (f g : Gang → Gang) : (s.updGang n f).updGang n g = s.updGang n (fun x => g (f x)) := by
  simp [State.updGang, Map.upd, Map.put_put]

/-- A release settles at once at an idle gang, and is noted at a busy one (R125). -/
theorem State.settleRelease_asked (s : State) (n : Nat) :
    (s.updGang n (fun g => { g with releasing := true })).settleRelease n =
      if (s.gang n).idleNow then s.updGang n (fun g => { g with ctx := none, releasing := false })
      else s.updGang n (fun g => { g with releasing := true }) := by
  unfold State.settleRelease
  simp only [State.gang_updGang_self, State.updGang_updGang, Bool.true_and]
  rfl

/-- GRELEASE once for its group. -/
theorem State.grelease_eq {s : State} {i : Issue} {f : FormT} {a : Reg} {m : Nat} {ms : List Nat} (hl : s.Leads i) (hg : guardLegal f.guard)
    (ht : f.type = 0) (hmod : f.mod = 0) (hsb : f.sb = 0) (hsc : f.sc = 0) (hdst : f.dst = 0) (hsa : 0x20 ≤ f.sa.toNat)
    (ha : specifier f.sa = some a) (hact : s.acting i (formOf f.guard true [a] []) = m :: ms) :
    let q := formOf f.guard true [a] []
    let x := s.issued i q
    let gid := (s.regOf i.core m a).toNat % 2 ^ 20
    exec (.grelease i f) s = .next (match (s.gang gid).ctx with
      | none => x.nextPc i.core (s.going i q)
      | some c =>
        if c ≠ s.slotCtx i then x.gridFault i.core m gngGangOwned (tWord 0x64 f)
        else ((x.updGang gid (fun g => { g with releasing := true })).settleRelease gid).nextPc i.core (s.going i q)) := by
  intro q x gid
  have hm : m ∈ s.acting i q := by rw [hact]; exact List.mem_cons_self
  have hgid : x.regsNat i.core m [a] % 2 ^ 20 = gid := by
    rw [State.issued_regsNat hm, State.regsNat_one (by obtain ⟨sl, h⟩ := State.acting_slot hm; simp [h])]
  refine (done_next (c := .grelease i f) hl.ok).trans (congrArg _ ?_)
  simp only [uregs_specifier hsa ha, Option.getD_some, Option.isSome_some, bareT, ht, hmod, hsb, hsc, hdst, Bool.and_true, beq_self_eq_true]
  refine (State.issue_acts s i q _ _ hl hg).trans ?_
  rw [hact]
  dsimp only
  rw [hgid, State.issued_gang] <;> rfl

theorem reshapeRelease : ReshapeRelease := by
  refine ⟨?_, ?_, ?_⟩
  · intro s i f a d m ms q x r hl hg ht hmod hsb hsc hsa ha hd hact hbusy
    refine (done_next (c := .greshape i f) hl.ok).trans (congrArg _ ?_)
    have hm : m ∈ s.acting i q := by rw [hact]; exact List.mem_cons_self
    obtain ⟨sl, hsl⟩ := State.issued_slot hm
    have hword : BitVec.ofNat 64 (x.regsNat i.core m a) = s.pairOf i.core m a := by
      rw [← State.issued_pairOf hm, ← readNat_pair hsl (specifiers_length ha), State.regsNat, hsl]
    simp only [uregs_specifiers hsa ha, regs_specifier hd, Option.getD_some, Option.isSome_some, bareT, ht, hmod, hsb, hsc, Bool.and_true,
      beq_self_eq_true]
    refine (State.issue_acts s i q _ _ hl hg).trans ?_
    rw [hact]
    dsimp only
    rw [hword, State.issued_mem, State.issued_ctx]
    refine congrArg (fun t => State.nextPc t i.core (s.going i q)) (if_neg ?_)
    rw [hbusy]
    exact Bool.false_ne_true
  · intro s r hr ht hbad
    rw [State.startReshape, hr, ht, hbad]
    exact ⟨rfl, rfl⟩
  · intro s i f a m ms q gid hl hg ht hmod hsb hsc hdst hsa ha hact
    have he := State.grelease_eq hl hg ht hmod hsb hsc hdst hsa ha hact
    refine ⟨fun hc => he.trans ?_, fun hc hidle => he.trans ?_, fun hc hidle => he.trans ?_⟩
    · rw [hc] <;> rfl
    all_goals
      rw [hc]
      refine congrArg _ ((if_neg (Classical.not_not.2 rfl)).trans (congrArg (fun t => State.nextPc t i.core (s.going i q)) ?_))
      rw [State.settleRelease_asked, State.issued_gang, hidle]
      rfl

/-- Settles O10: the checks hold by hypothesis, so each instruction is its effect on the state that its issue leaves. -/
theorem drainAndReshape : Obligations.DrainAndReshape := ⟨drainIssue, reshapeRelease⟩

end Sys2Proof.Machine

/-! SUPPORT. The device allocator and the hoard (R127, R128, R179 to R184, R337 to R340). -/

namespace Sys2Proof.Machine

open Sys2Proof.Claims

/-! ## Operands of two registers -/

theorem State.regsNat_two {s : State} {k m : Nat} (h : (s.slot k (m / 16)).isSome) {l : List Reg} (hl : l.length = 2) :
    s.regsNat k m l = (s.pairOf k m l).toNat := by
  obtain ⟨sl, hs⟩ := Option.isSome_iff_exists.1 h
  match l, hl with
  | [a, b], _ =>
    rw [← readNat_pair hs rfl, State.regsNat, hs, BitVec.toNat_ofNat]
    have ha := (sl.read (m % 16) a).isLt
    have hb := (sl.read (m % 16) b).isLt
    simp only [Slot.readNat]
    omega

theorem State.issued_regsNat_two {s : State} {i : Issue} {q : Form} {m : Nat} (hm : m ∈ s.acting i q) {l : List Reg} (hl : l.length = 2) :
    (s.issued i q).regsNat i.core m l = (s.pairOf i.core m l).toNat := by
  obtain ⟨sl, hs⟩ := State.acting_slot hm
  rw [State.issued_regsNat hm, State.regsNat_two (by simp [hs]) hl]

/-! ## The place of an object (R338, R339) -/

theorem le_alignUp (x : Nat) {n : Nat} (hn : 0 < n) : x ≤ alignUp x n := by
  unfold alignUp
  have hdiv := Nat.div_add_mod (x + n - 1) n
  have hmod := Nat.mod_lt (x + n - 1) hn
  rw [Nat.mul_comm] at hdiv
  omega

theorem alignUp_mod (x n : Nat) : alignUp x n % n = 0 := Nat.mul_mod_left ..

/-- The least of some candidates is one of them. -/
theorem least_mem {l : List Nat} {b : Option Nat} {x : Nat}
    (h : l.foldl (fun b x => match b with
      | none => some x
      | some y => some (min x y)) b = some x) : b = some x ∨ x ∈ l := by
  induction l generalizing b with
  | nil => exact .inl h
  | cons y l ih =>
    obtain h' | h' := ih h
    · cases b with
      | none => cases h'; exact .inr List.mem_cons_self
      | some z =>
        have h' : some (min y z) = some x := h'
        obtain hmin | hmin := Nat.le_total y z
        · rw [Nat.min_eq_left hmin] at h'; cases h'; exact .inr List.mem_cons_self
        · rw [Nat.min_eq_right hmin] at h'; exact .inl h'
    · exact .inr (List.mem_cons_of_mem _ h')

theorem placeObj_spec {taken : List Obj} {ddr : Bool} {heap size align off : Nat} (h : placeObj taken ddr heap size align = some off) :
    off % align = 0 ∧ off + size ≤ heap ∧ ∀ x ∈ taken, x.ddr = ddr → off + size ≤ x.off ∨ x.off + x.size ≤ off := by
  obtain h | h := least_mem h
  · cases h
  · obtain ⟨hmem, hfit⟩ := List.mem_filter.1 h
    simp only [Bool.and_eq_true, decide_eq_true_eq, List.all_eq_true, List.mem_filter, beq_iff_eq] at hfit
    refine ⟨?_, hfit.1, fun x hx hd => hfit.2 x ⟨hx, hd⟩⟩
    obtain rfl | h := List.mem_cons.1 hmem
    · exact Nat.zero_mod _
    · obtain ⟨o, _, rfl⟩ := List.mem_map.1 h
      exact alignUp_mod ..

theorem ObjTab.freeIndex_free {t : ObjTab} {quota idx : Nat} (h : t.freeIndex quota = some idx) : t.objs.get? idx = none := by
  have := List.find?_some h
  simp only [Bool.and_eq_true, Option.isNone_iff_eq_none] at this
  exact this.1

/-! ## Allocation (R127, R164, R338) -/

theorem State.onlyBytes_zeroHeap (s : State) (p : Part) (ddr : Bool) (part gen x n : Nat) : s.OnlyBytes (s.zeroHeap p ddr part gen x n) := by
  induction n generalizing s x with
  | zero => exact .refl s
  | succ n ih => exact (s.onlyBytes_writeObj ..).trans (ih ..)

theorem State.OnlyBytes.objTab {s t : State} (h : s.OnlyBytes t) (fn : Nat) : t.objTab fn = s.objTab fn := by
  rw [State.objTab, State.fn, h.fns] <;> rfl

theorem State.objTab_updObjTab (s : State) (fn : Nat) (f : ObjTab → ObjTab) : (s.updObjTab fn f).objTab fn = f (s.objTab fn) := by
  rw [State.objTab, State.updObjTab, State.fn_updFn_self] <;> rfl

theorem State.objTab_updCtx (s : State) (n fn : Nat) (f : Ctx → Ctx) : (s.updCtx n f).objTab fn = s.objTab fn := rfl

theorem State.OnlyBytes.ctx {s t : State} (h : s.OnlyBytes t) (n : Nat) : t.ctx n = s.ctx n := by
  rw [State.ctx, h.tab] <;> rfl

/-- The charges of a context for an object (R339). -/
def Ctx.charged (c : Ctx) (ddr : Bool) (n : Nat) : Ctx :=
  { c with objs := c.objs + 1, hbmCh := if ddr then c.hbmCh else c.hbmCh + n, ddrCh := if ddr then c.ddrCh + n else c.ddrCh }

theorem State.alloc_ok {s t : State} {ctx size alog h b : Nat} {ddr zero : Bool} (ht : s.alloc ctx size ddr alog zero = .ok (h, b, t)) :
    let fn := (s.ctx ctx).fn
    let n := alignUp (max size 1) 256
    ∃ (p : Part) (off idx : Nat), s.part fn = some p ∧ (if ddr then (s.ctx ctx).ddrCh + n ≤ (s.ctx ctx).ddrLim else (s.ctx ctx).hbmCh + n ≤ (s.ctx ctx).hbmLim) ∧
      placeObj (s.heapUse fn) ddr (if ddr then p.ddrHeap.2 else p.hbmHeap.2) n (2 ^ max 8 alog) = some off ∧
      (s.objTab fn).freeIndex p.objq = some idx ∧ h = handleOf fn ((s.objTab fn).gen idx) idx ∧
      ((s.updObjTab fn (fun t => { t with
        objs := t.objs.put idx { ddr := ddr, off := off, size := n, owner := ctx, holders := [ctx] }
        gens := t.gens.put idx ((s.objTab fn).gen idx) })).updCtx ctx (fun c => c.charged ddr n)).OnlyBytes t := by
  intro fn n
  unfold State.alloc at ht
  dsimp only at ht
  cases hp : s.part (s.ctx ctx).fn with
  | none => rw [hp] at ht; cases ht
  | some p =>
    rw [hp] at ht
    cases ddr
    all_goals
      simp only [if_true, Bool.false_eq_true, if_false] at ht
      split at ht
      · cases ht
      · next hlim =>
        split at ht
        · next off idx hoff hidx =>
          cases ht
          exact ⟨p, off, idx, rfl, Nat.not_lt.1 (fun hlt => hlim (.inr hlt)), hoff, hidx, rfl,
            State.OnlyBytes.trans (.ite (State.onlyBytes_zeroHeap ..) (.refl _)) (State.onlyBytes_saveCtx _ _)⟩
        · cases ht

theorem alloc_spec (s t : State) (ctx size alog h b : Nat) (ddr zero : Bool) (ht : s.alloc ctx size ddr alog zero = .ok (h, b, t)) :
    let fn := (s.ctx ctx).fn
    ∃ (p : Part) (idx : Nat) (o : Obj), s.part fn = some p ∧ h = handleOf fn ((s.objTab fn).gen idx) idx ∧
      (s.objTab fn).objs.get? idx = none ∧ (t.objTab fn).objs.get? idx = some o ∧
      o.ddr = ddr ∧ o.owner = ctx ∧ o.holders = [ctx] ∧ o.size % 256 = 0 ∧ size ≤ o.size ∧ o.off % 2 ^ max 8 alog = 0 ∧
      o.off + o.size ≤ (if ddr then p.ddrHeap.2 else p.hbmHeap.2) ∧
      (∀ x ∈ s.heapUse fn, x.ddr = ddr → o.off + o.size ≤ x.off ∨ x.off + x.size ≤ o.off) ∧
      (t.ctx ctx).objs = (s.ctx ctx).objs + 1 ∧
      (if ddr then (t.ctx ctx).ddrCh = (s.ctx ctx).ddrCh + o.size ∧ (t.ctx ctx).ddrCh ≤ (s.ctx ctx).ddrLim
       else (t.ctx ctx).hbmCh = (s.ctx ctx).hbmCh + o.size ∧ (t.ctx ctx).hbmCh ≤ (s.ctx ctx).hbmLim) := by
  intro fn
  obtain ⟨p, off, idx, hp, hlim, hoff, hidx, hh, hb⟩ := State.alloc_ok ht
  obtain ⟨halign, hheap, hapart⟩ := placeObj_spec hoff
  have hobjs : (t.objTab fn).objs.get? idx =
      some { ddr := ddr, off := off, size := alignUp (max size 1) 256, owner := ctx, holders := [ctx] } := by
    rw [hb.objTab, State.objTab_updCtx, State.objTab_updObjTab]
    exact Map.get?_put_self ..
  have hctx : t.ctx ctx = (s.ctx ctx).charged ddr (alignUp (max size 1) 256) := by
    rw [hb.ctx]
    simp [State.updObjTab]
  have hsize := le_alignUp (max size 1) (n := 256) (by decide)
  refine ⟨p, idx, _, hp, hh, ObjTab.freeIndex_free hidx, hobjs, rfl, rfl, rfl, alignUp_mod .., ?_, halign, hheap, hapart, ?_, ?_⟩
  · exact Nat.le_trans (Nat.le_max_left size 1) hsize
  · rw [hctx]; rfl
  · rw [hctx]
    cases ddr
    · exact ⟨rfl, hlim⟩
    · exact ⟨rfl, hlim⟩

/-- ALLOC for one thread (R127, R338). -/
theorem alloc_exec (s : State) (i : Issue) (f : FormT) (a d : List Reg) :
    let q := formOf f.guard false a d
    s.Leads i → guardLegal f.guard → f.type.toNat ≤ 1 → f.mod.toNat ≤ 30 → f.sb = 0 → f.sc = 0 → specifiers 2 f.sa = some a →
    specifiers 4 f.dst = some d →
    exec (.alloc i f) s = .next (s.acts i q (fun x => (s.acting i q).foldl (fun t m =>
      let to' := if d.any Reg.isU && some m != (s.acting i q).head? then [] else d
      match t.alloc (s.slotCtx i) (s.pairOf i.core m a).toNat (f.type == 1) f.mod.toNat false with
      | .ok (h, b, t') => t'.result' i.core m to' (wordsOfNat 4 (h + b * 2 ^ 64))
      | .error st => t.result' i.core m to' [0, 0, st.setWidth 32, 0]) x)) := by
  intro q hl hg ht hmod hsb hsc ha hd
  refine (done_next (c := .alloc i f) hl.ok).trans (congrArg _ ?_)
  simp only [regs_specifiers ha, regs_specifiers hd, Option.getD_some, Option.isSome_some, hsb, hsc, ht, hmod, decide_true, Bool.and_true,
    beq_self_eq_true]
  refine (State.issue_acts s i q _ _ hl hg).trans ?_
  refine congrArg (fun t => State.nextPc t i.core (s.going i q)) (foldl_eq_of_mem fun t m hm => ?_)
  rw [State.issued_regsNat_two hm (specifiers_length ha)] <;> rfl

theorem free_exec (s : State) (i : Issue) (f : FormT) (a : List Reg) :
    let q := formOf f.guard false a []
    let fn := (s.ctx (s.slotCtx i)).fn
    s.Leads i → guardLegal f.guard → f.type = 0 → f.mod = 0 → f.sb = 0 → f.sc = 0 → f.dst = 0 → specifiers 2 f.sa = some a →
    ((s.issued i q).freeAll i.core fn (tWord 0x81 f) a (s.acting i q)).2 = true →
    exec (.free i f) s = .next (s.acts i q (fun x => (x.freeAll i.core fn (tWord 0x81 f) a (s.acting i q)).1)) := by
  intro q fn hl hg ht hmod hsb hsc hdst ha hok
  refine (done_next (c := .free i f) hl.ok).trans (congrArg _ ?_)
  simp only [regs_specifiers ha, Option.getD_some, Option.isSome_some, bareT, ht, hmod, hsb, hsc, hdst, Bool.and_true, beq_self_eq_true]
  have hb : a.any Reg.isU = q.bound := by simp [q, formOf]
  rw [hb]
  exact (State.issue_acts s i q _ _ hl hg).trans (if_pos hok)

/-! ## Freed handles (R337, R340) -/

theorem ObjTab.get?_limbo (objs : Map Obj) (idx gen : Nat) (o : Obj) : (objs.put (limboKey idx gen) o).get? idx = objs.get? idx :=
  Map.get?_put_of_ne _ _ (by unfold limboKey; omega)

theorem State.freeObj_get? {s : State} {fn idx : Nat} (hr : (s.objTab fn).objs.rising) : ((s.freeObj fn idx).objTab fn).objs.get? idx = none := by
  unfold State.freeObj
  split
  · assumption
  · next o ho =>
    have key : ((s.updObjTab fn (fun t =>
        let objs := t.objs.del idx
        let objs := if s.objInUse fn idx ((s.objTab fn).gen idx) then objs.put (limboKey idx ((s.objTab fn).gen idx)) { o with holders := [] } else objs
        if (s.objTab fn).gen idx = 0x3FFF then { t with objs := objs, retired := insSet t.retired idx }
        else { t with objs := objs, gens := t.gens.put idx ((s.objTab fn).gen idx + 1) })).objTab fn).objs.get? idx = none := by
      rw [State.objTab_updObjTab]
      have hdel := Map.get?_del_self (m := (s.objTab fn).objs) hr idx
      have hobjs : Map.get? (if s.objInUse fn idx ((s.objTab fn).gen idx) then
          ((s.objTab fn).objs.del idx).put (limboKey idx ((s.objTab fn).gen idx)) { o with holders := [] } else (s.objTab fn).objs.del idx) idx = none := by
        split
        · exact (ObjTab.get?_limbo ..).trans hdel
        · exact hdel
      dsimp only
      split <;> exact hobjs
    extract_lets gen t
    split
    · exact key
    · rw [(State.onlyBytes_saveCtx _ _).objTab, State.objTab_updCtx]
      exact key

theorem freeObj_stale (s : State) (fn h idx : Nat) (o : Obj) (hh : s.handle fn h = .ok (idx, o)) (hr : (s.objTab fn).objs.rising) :
    (s.freeObj fn idx).handle fn h = .error alcStaleHandle ∧ ((s.freeObj fn idx).objTab fn).objs.get? idx = none := by
  have hnone := State.freeObj_get? (idx := idx) hr
  refine ⟨?_, hnone⟩
  unfold State.handle at hh ⊢
  dsimp only at hh ⊢
  split at hh
  · cases hh
  · next hfn =>
    rw [if_neg hfn]
    have hidx : h % 2 ^ 24 = idx := by
      split at hh
      · split at hh
        · cases hh; rfl
        · cases hh
      · cases hh
    rw [hidx, hnone]

theorem allocFree : AllocFree := ⟨alloc_exec, alloc_spec, free_exec, freeObj_stale⟩

end Sys2Proof.Machine

/-! SUPPORT. The hoard (R128, R179 to R184). -/

namespace Sys2Proof.Machine

open Sys2Proof.Claims

/-! ## Writes of memory after a free word is drawn -/

/-- The state after a free word is drawn. -/
def State.drawn (s : State) : State := s.drawWord.2

section
variable (s : State)

theorem State.poke_drawn (a : Nat) (b : Byte) : s.drawn.poke a b = (s.poke a b).drawn := by
  have hm : s.drawn.memPut a b none = (s.memPut a b none).drawn := by
    unfold State.memPut State.burst
    by_cases h : isDdr a <;> simp only [h] <;> rfl
  unfold State.poke
  rw [hm]
  change (match s.mem.dlines.get? (a / 128) with
    | some l => _
    | none => _) = _
  cases s.mem.dlines.get? (a / 128) <;> rfl

theorem State.pokeHusk_drawn (w : Nat) (h : Bool) : s.drawn.pokeHusk w h = (s.pokeHusk w h).drawn := by
  unfold State.pokeHusk
  change (match s.mem.dlines.get? (w / 8) with
    | some l => _
    | none => _) = _
  cases s.mem.dlines.get? (w / 8) <;> rfl

theorem State.pokeList_drawn (a : Nat) (bs : List Byte) : s.drawn.pokeList a bs = (s.pokeList a bs).drawn := by
  induction bs generalizing s a with
  | nil => rfl
  | cons b bs ih => rw [State.pokeList, s.poke_drawn, ih] <;> rfl

theorem State.writeBytes_drawn (a : Nat) (bs : List Byte) : s.drawn.writeBytes a bs = (s.writeBytes a bs).drawn := by
  unfold State.writeBytes
  rw [show s.drawn.unsnoop a bs.length = (s.unsnoop a bs.length).drawn from rfl, State.pokeList_drawn]
  exact List.foldl_hom State.drawn (fun t w => State.pokeHusk_drawn t w false)

theorem State.writePieces_drawn (ps : List (Nat × Nat)) (bs : List Byte) : s.drawn.writePieces ps bs = (s.writePieces ps bs).drawn := by
  induction ps generalizing s bs with
  | nil => rfl
  | cons p ps ih =>
    change State.writePieces (s.drawn.writeBytes p.1 _) ps _ = _
    rw [s.writeBytes_drawn, ih] <;> rfl

/-- One piece of a husked write: the position in the data and the state. -/
def huskPiece (bad : List Nat) (acc : Nat × State) (p : Nat × Nat) : Nat × State :=
  (acc.1 + p.2, (bad.filter (fun k => decide (acc.1 < 16 * (k + 1) ∧ 16 * k < acc.1 + p.2))).foldl (fun t k =>
    t.pokeHusk ((p.1 + (max (16 * k) acc.1 - acc.1)) / 16) true) acc.2)

theorem writeHusked_eq (ps : List (Nat × Nat)) (bs : List Byte) (bad : List Nat) :
    s.writeHusked ps bs bad = (ps.foldl (huskPiece bad) (0, s.writePieces ps bs)).2 := rfl

theorem huskPiece_drawn (bad : List Nat) (x : Nat × State) (p : Nat × Nat) :
    huskPiece bad (x.1, x.2.drawn) p = ((huskPiece bad x p).1, (huskPiece bad x p).2.drawn) :=
  Prod.ext rfl (List.foldl_hom State.drawn (fun t _ => State.pokeHusk_drawn t _ true))

theorem State.writeHusked_drawn (ps : List (Nat × Nat)) (bs : List Byte) (bad : List Nat) :
    s.drawn.writeHusked ps bs bad = (s.writeHusked ps bs bad).drawn := by
  rw [writeHusked_eq, writeHusked_eq, s.writePieces_drawn]
  exact congrArg Prod.snd (List.foldl_hom (fun x : Nat × State => (x.1, x.2.drawn)) (init := (0, s.writePieces ps bs)) (huskPiece_drawn bad))

end

/-! ## HPUT and HGET (R128) -/

/-- What a legal HPUT or HGET does on a range that its context reaches, once for its group. -/
theorem State.hoardIssue_eq {s : State} {i : Issue} {f : FormT} {a n : Reg} {b d : List Reg} {m : Nat} {ms : List Nat} {ps : List (Nat × Nat)}
    {opc w : Nat} {k : Acc} {act : State → Nat → Nat → Nat → List (Nat × Nat) → Nat × State}
    (hl : s.Leads i) (hg : guardLegal f.guard) (ht : f.type = 0) (hmod : f.mod = 0) (hsa : 0x20 ≤ f.sa.toNat) (ha : specifier f.sa = some a)
    (hsb : 0x20 ≤ f.sb.toNat) (hb : specifiers 2 f.sb = some b) (hsc : 0x20 ≤ f.sc.toNat) (hn : specifier f.sc = some n)
    (hact : s.acting i (formOf f.guard true ([a] ++ b ++ [n]) d) = m :: ms) (hblock : (s.regOf i.core m a).toNat < 0xFFFF)
    (hlen : (s.regOf i.core m n).toNat % 32 = 0) (hd : specifiers w f.dst = some d)
    (hps : (s.issued i (formOf f.guard true ([a] ++ b ++ [n]) d)).ctxPieces (s.slotCtx i) k (s.pairOf i.core m b).toNat (s.regOf i.core m n).toNat =
      some ps) :
    s.hoardIssue i f opc w k act = s.acts i (formOf f.guard true ([a] ++ b ++ [n]) d) (fun x =>
      (givers d (m :: ms)).foldl (fun t k => t.result' i.core k d
          (wordsOfNat w (act x (s.slotCtx i) (s.regOf i.core m a).toNat (s.regOf i.core m n).toNat ps).1))
        (act x (s.slotCtx i) (s.regOf i.core m a).toNat (s.regOf i.core m n).toNat ps).2) := by
  have hm : m ∈ s.acting i (formOf f.guard true ([a] ++ b ++ [n]) d) := by rw [hact]; exact List.mem_cons_self
  have hone (r : Reg) : (s.issued i (formOf f.guard true ([a] ++ b ++ [n]) d)).regsNat i.core m [r] = (s.regOf i.core m r).toNat := by
    rw [State.issued_regsNat hm, State.regsNat_one (by obtain ⟨sl, h⟩ := State.acting_slot hm; simp [h])]
  simp only [State.hoardIssue, uregs_specifier hsa ha, uregs_specifiers hsb hb, uregs_specifier hsc hn, regs_specifiers hd, Option.getD_some,
    Option.isSome_some, ht, hmod, Bool.and_true, beq_self_eq_true]
  refine (State.issue_acts s i (formOf f.guard true ([a] ++ b ++ [n]) d) _ _ hl hg).trans ?_
  rw [hact]
  simp only [State.hoardArgs, hone, State.issued_regsNat_two hm (specifiers_length hb), hps]
  exact if_neg (fun h => h.elim (fun h => Nat.not_lt.2 h hblock) fun h => h hlen)

/-! ## Entries of the hoard (R179 to R184) -/

theorem State.updFn_congr (s : State) (n : Nat) {f g : Fn → Fn} (h : f (s.fn n) = g (s.fn n)) : s.updFn n f = s.updFn n g := by
  unfold State.updFn Map.upd
  rw [show f (s.fns.getD n _) = g (s.fns.getD n _) from h]

theorem State.hoard_updHoard (s : State) (fn : Nat) (f : Hoard → Hoard) : (s.updHoard fn f).hoard fn = f (s.hoard fn) := by
  rw [State.hoard, State.updHoard, State.fn_updFn_self] <;> rfl

/-- A put under the job and step that the hoard already has moves nothing. -/
theorem State.hoardStep_same {s : State} {fn job step : Nat} (hj : (s.hoard fn).job = job) (hs : (s.hoard fn).step = step)
    (hold : ((s.hoard fn).jobs.get? job).map (·.step) = some step) : s.hoardStep fn job step = s.updHoard fn (fun h => h) := by
  unfold State.hoardStep
  refine (if_pos hold).trans (s.updFn_congr fn ?_)
  change { s.fn fn with hoard := { s.hoard fn with job := job, step := step } } = _
  rw [← hj, ← hs] <;> rfl

theorem State.hoardPlace_fits {s : State} {fn ctx job block need : Nat} {p : Part} (hp : s.part fn = some p)
    (hdeep : ((s.hoard fn).jobs.getD job HJob.idle).deep = none) (hfit : (s.hoard fn).use 0 + need ≤ p.hbmGr) :
    s.hoardPlace fn ctx job block need = (0, s) := by
  unfold State.hoardPlace
  rw [hp]
  dsimp only
  rw [if_neg (by omega), hdeep]
  exact if_pos (by simpa using hfit)

theorem State.readPieces_updHoard (s : State) (fn : Nat) (f : Hoard → Hoard) (ps : List (Nat × Nat)) :
    (s.updHoard fn f).readPieces ps = s.readPieces ps := rfl

theorem State.mapPut_off {s : State} {fn : Nat} (h : (s.hoard fn).mapEn = false) (job block disp : Nat) : s.mapPut fn job block disp = s := by
  unfold State.mapPut
  repeat' split
  · rfl
  · exact State.mapWrite_off h _ _
  · rfl
  · rfl

theorem hoardPuts (s : State) (ctx block len : Nat) (ps : List (Nat × Nat)) (p : Part) :
    let fn := (s.ctx ctx).fn
    let (job, step) := s.hoardKey ctx
    let h := s.hoard fn
    s.part fn = some p → h.mapEn = false → h.job = job → h.step = step → (h.jobs.get? job).map (·.step) = some step →
    (∀ x, h.find job block = some x → s.hput ctx block len ps = (hrdDuplicate.toNat + x.disp * 2 ^ 16, s.updHoard fn (fun h => h))) ∧
    (h.find job block = none → (h.jobs.getD job HJob.idle).deep = none → h.use 0 + granules len ≤ p.hbmGr →
      (s.hput ctx block len ps).1 = 0 ∧
      ∃ e, ((s.hput ctx block len ps).2.hoard fn).entries = h.entries ++ [e] ∧ e.job = job ∧ e.block = block ∧ e.disp = 0 ∧
        e.len = len ∧ e.data = s.readPieces ps) := by
  intro fn
  cases hkey : s.hoardKey ctx with | mk job step => ?_
  intro hp hmap hj hs hold
  generalize hput : s.hput ctx block len ps = r
  rw [State.hput, hkey] at hput
  dsimp only at hput
  have hh : (s.updHoard fn (fun h => h)).hoard fn = s.hoard fn := s.hoard_updHoard fn _
  rw [State.hoardStep_same hj hs hold, hh] at hput
  refine ⟨fun x hx => ?_, fun hx hdeep hfit => ?_⟩
  · rw [hx] at hput
    exact hput.symm
  · rw [hx] at hput
    have hplace : (s.updHoard fn (fun h => h)).hoardPlace fn ctx job block (granules len) = (0, s.updHoard fn (fun h => h)) :=
      State.hoardPlace_fits hp (by rw [hh]; exact hdeep) (by rw [hh]; exact hfit)
    dsimp only at hput
    rw [hplace] at hput
    dsimp only at hput
    rw [State.mapPut_off (by rw [State.hoard_updHoard, hh]; exact hmap)] at hput
    subst hput
    refine ⟨rfl, _, (congrArg Hoard.entries ((State.hoard_updHoard ..).trans (by rw [hh]))), rfl, rfl, rfl, rfl, ?_⟩
    exact State.readPieces_updHoard ..

theorem hoardGets (s : State) (ctx block len : Nat) (ps : List (Nat × Nat)) :
    let fn := (s.ctx ctx).fn
    let (job, step) := s.hoardKey ctx
    let h := s.hoard fn
    (h.jobs.get? job).map (·.step) = some step →
    (h.find job block = none → (s.hget ctx block len ps).1 = hrdNotFound.toNat ∧ (s.hget ctx block len ps).2.2.mem = s.mem) ∧
    (∀ e, h.find job block = some e →
      (e.disp = 2 → s.hget ctx block len ps = (2 * 2 ^ 16, BitVec.ofNat 32 (h.near job block), s)) ∧
      (e.disp ≠ 2 → len < e.len →
        (s.hget ctx block len ps).1 = hrdTooLong.toNat + e.disp * 2 ^ 16 ∧ (s.hget ctx block len ps).2.2.mem = s.mem) ∧
      (e.disp ≠ 2 → e.len ≤ len → (s.hget ctx block len ps).1 = e.disp * 2 ^ 16 ∧
        (s.hget ctx block len ps).2.2.mem = (s.writeHusked (cutPieces e.len ps) e.data e.husks).mem)) := by
  intro fn
  cases hkey : s.hoardKey ctx with | mk job step => ?_
  intro hlive
  generalize hget : s.hget ctx block len ps = r
  rw [State.hget, hkey] at hget
  dsimp only at hget
  rw [if_pos hlive] at hget
  refine ⟨fun hx => ?_, fun e he => ?_⟩
  · rw [hx] at hget
    subst hget
    exact ⟨rfl, rfl⟩
  · rw [he] at hget
    subst hget
    refine ⟨fun h2 => if_pos h2, fun h2 hlt => ?_, fun h2 hle => ?_⟩
    · dsimp only
      rw [if_neg h2, if_pos hlt]
      exact ⟨rfl, rfl⟩
    · dsimp only
      rw [if_neg h2, if_neg (Nat.not_lt.2 hle)]
      have hmem := congrArg State.mem (s.writeHusked_drawn (cutPieces e.len ps) e.data e.husks)
      exact ⟨rfl, hmem⟩

/-- HPUT and HGET act once for their group (R128). -/
theorem hoardIssues (s : State) (i : Issue) (f : FormT) (a n : Reg) (b d : List Reg) (m : Nat) (ms : List Nat) (ps : List (Nat × Nat)) :
    let q := formOf f.guard true ([a] ++ b ++ [n]) d
    let x := s.issued i q
    let block := (s.regOf i.core m a).toNat
    let addr := (s.pairOf i.core m b).toNat
    let len := (s.regOf i.core m n).toNat
    s.Leads i → guardLegal f.guard → f.type = 0 → f.mod = 0 → 0x20 ≤ f.sa.toNat → specifier f.sa = some a →
    0x20 ≤ f.sb.toNat → specifiers 2 f.sb = some b → 0x20 ≤ f.sc.toNat → specifier f.sc = some n →
    s.acting i q = m :: ms → block < 0xFFFF → len % 32 = 0 →
    (specifiers 1 f.dst = some d → x.ctxPieces (s.slotCtx i) .r addr len = some ps →
      exec (.hput i f) s = .next (s.acts i q (fun x =>
        (givers d (m :: ms)).foldl (fun t k => t.result' i.core k d (wordsOfNat 1 (x.hput (s.slotCtx i) block len ps).1))
          (x.hput (s.slotCtx i) block len ps).2))) ∧
    (specifiers 2 f.dst = some d → x.ctxPieces (s.slotCtx i) .w addr len = some ps →
      exec (.hget i f) s = .next (s.acts i q (fun x =>
        let r := x.hget (s.slotCtx i) block len ps
        (givers d (m :: ms)).foldl (fun t k => t.result' i.core k d (wordsOfNat 2 (r.1 + r.2.1.toNat * 2 ^ 32))) r.2.2))) := by
  intro q x block addr len hl hg ht hmod hsa ha hsb hb hsc hn hact hblock hlen
  refine ⟨fun hd hps => (done_next (c := .hput i f) hl.ok).trans (congrArg _ ?_),
    fun hd hps => (done_next (c := .hget i f) hl.ok).trans (congrArg _ ?_)⟩
  · exact State.hoardIssue_eq hl hg ht hmod hsa ha hsb hb hsc hn hact hblock hlen hd hps
  · exact State.hoardIssue_eq hl hg ht hmod hsa ha hsb hb hsc hn hact hblock hlen hd hps

theorem hoard : Claims.Hoard := ⟨hoardIssues, hoardPuts, hoardGets⟩

/-- Settles O12: an allocation takes the place that its search found, and the hoard its branch for the entry found. -/
theorem objectsAndHoard : Obligations.ObjectsAndHoard := ⟨allocFree, hoard⟩

end Sys2Proof.Machine

/-! SUPPORT. Drains: the pipeline of an element, and the completion of a drain (R70 to R74). -/

namespace Sys2Proof.Machine

open Sys2Proof.Claims

/-! ## Elements of the drain pipeline (R71, R73) -/

theorem cmpNum_zero (neg : Bool) (mant : Nat) (exp : Int) : (cmpNum (.fin neg mant exp) .zero == .gt) = true ↔ neg = false ∧ 0 < mant := by
  have hsum : sumNum [.fin neg mant exp, Num.zero.negate] =
      let t : Int := 0 + scaled neg mant exp (min exp 0) + scaled true 0 0 (min exp 0)
      if t = 0 then .fin (neg && mant == 0) 0 0 else .fin (decide (t < 0)) t.natAbs (min exp 0) := by
    simp [sumNum, Num.zero, Num.negate, Num.isNan, minExp, Num.neg?, Num.isZero]
  have hpos : 0 < mant <<< (exp - min exp 0).toNat ↔ 0 < mant := by
    rw [Nat.shiftLeft_eq]
    exact Nat.mul_pos_iff_of_pos_right (Nat.two_pow_pos _)
  change (match sumNum [.fin neg mant exp, Num.zero.negate] with
    | .fin s m _ => if m = 0 then Ordering.eq else if s then .lt else .gt
    | _ => .eq) == .gt ↔ _
  rw [hsum]
  simp only [scaled]
  rw [← hpos]
  generalize mant <<< (exp - min exp 0).toNat = n
  obtain rfl | hn := Nat.eq_zero_or_pos n
  · cases neg <;> simp
  · cases neg
    · have h0 : ¬(n : Int) = 0 := by omega
      have h1 : ¬(n : Int) < 0 := by omega
      simp [hn, h0, h1, Nat.pos_iff_ne_zero.1 hn]
    · have h0 : ¬(n : Int) = 0 := by omega
      simp [hn, h0, Nat.pos_iff_ne_zero.1 hn]

theorem fprime_of_fin {alpha z : Word} {neg : Bool} {mant : Nat} {exp : Int} (hz : ofF32 z = .fin neg mant exp) :
    let x : Machine.Num := .fin neg mant exp
    let positive := neg = false ∧ 0 < mant
    (positive → fprime 1 alpha z = .one ∧ fprime 2 alpha z = .one ∧ fprime 9 alpha z = mulNum (.fin false 2 0) x) ∧
    (¬positive → fprime 1 alpha z = .zero ∧ fprime 2 alpha z = ofF32 alpha ∧ fprime 9 alpha z = .zero) ∧
    fprime 6 alpha z = mulNum x (addNum .one x.negate) ∧ fprime 7 alpha z = addNum .one (mulNum x x).negate := by
  intro x positive
  have hpos := cmpNum_zero neg mant exp
  simp only [fprime, hz, Num.isNan, Bool.false_eq_true, if_false]
  refine ⟨fun h => ?_, fun h => ?_, rfl, rfl⟩
  · rw [hpos.2 h]
    exact ⟨rfl, rfl, rfl⟩
  · rw [Bool.eq_false_iff.2 (fun hgt => h (hpos.1 hgt))]
    exact ⟨rfl, rfl, rfl⟩

theorem drainElements : DrainElements := by
  refine ⟨fun dcw c t z => ?_, fun alpha z neg mant exp hz => fprime_of_fin hz, fun code alpha z hz => ?_⟩
  · intro fused
    have he : drainElem dcw c t z = if dcDeriv dcw = 0 then fused
        else toF32 (mulNum (ofF32 fused) (fprime (dcDeriv dcw) (BitVec.ofNat 32 (dcAlpha dcw * 2 ^ 16)) z)) := by
      unfold drainElem
      split <;> simp_all [fused]
    exact ⟨fun h => he.trans (if_pos h), fun h => he.trans (if_neg h)⟩
  · unfold fprime
    dsimp only
    rw [if_pos hz]
    rfl

/-! ## The cells of a patch (R70) -/

/-- A cell with the accumulator of a bank cleared. -/
def Cell.drained (c : Cell) (bank : Bool) : Cell :=
  if bank then { c with acc1 := 0, hist1 := [] } else { c with acc0 := 0, hist0 := [] }

theorem Cell.acc_drained (c : Cell) (bank : Bool) : (c.drained bank).acc bank = 0 := by cases bank <;> rfl

theorem Cell.acc_drained_other (c : Cell) (bank : Bool) : (c.drained bank).acc (!bank) = c.acc (!bank) := by cases bank <;> rfl

theorem acc_drainedCells (keys : List Nat) (bank : Bool) (m : Map Cell) (k : Nat) :
    ((keys.foldl (fun m k => m.upd k Cell.idle (fun c => c.drained bank)) m).getD k Cell.idle).acc bank =
      if k ∈ keys then 0 else (m.getD k Cell.idle).acc bank := by
  induction keys generalizing m with
  | nil => simp
  | cons x keys ih =>
    rw [List.foldl_cons, ih, Map.getD_upd]
    by_cases hk : k ∈ keys
    · simp [hk]
    · by_cases hx : k = x
      · subst hx; simp [Cell.acc_drained]
      · simp [hk, hx]

theorem acc_drainedCells_other (keys : List Nat) (bank : Bool) (m : Map Cell) (k : Nat) :
    ((keys.foldl (fun m k => m.upd k Cell.idle (fun c => c.drained bank)) m).getD k Cell.idle).acc (!bank) =
      (m.getD k Cell.idle).acc (!bank) := by
  induction keys generalizing m with
  | nil => rfl
  | cons x keys ih =>
    rw [List.foldl_cons, ih, Map.getD_upd]
    split
    · next h => rw [h, Cell.acc_drained_other]
    · rfl

/-! ## What stays over the landing of a drain (R94) -/

/-- A step that leaves the contexts, the gangs, the sampling rates and the local stores alone. -/
structure State.Landing (s t : State) : Prop where
  tab : t.tab = s.tab
  gangs : t.grid.gangs = s.grid.gangs
  shRate : ∀ n, (t.fn n).shRate = (s.fn n).shRate
  ls : ∀ k, (t.core k).ls = (s.core k).ls

namespace State.Landing

variable {s t u : State}

theorem refl (s : State) : s.Landing s := ⟨rfl, rfl, fun _ => rfl, fun _ => rfl⟩

theorem trans (h : s.Landing t) (h' : t.Landing u) : s.Landing u :=
  ⟨h'.tab.trans h.tab, h'.gangs.trans h.gangs, fun n => (h'.shRate n).trans (h.shRate n), fun k => (h'.ls k).trans (h.ls k)⟩

theorem foldl {α : Type} {f : State → α → State} (hf : ∀ (t : State) x, t.Landing (f t x)) (l : List α) (s : State) : s.Landing (l.foldl f s) := by
  induction l generalizing s with
  | nil => exact .refl s
  | cons x l ih => exact (hf s x).trans (ih _)

theorem of_onlyBytes (h : s.OnlyBytes t) : s.Landing t :=
  ⟨h.tab, by rw [h.grid], fun n => by rw [State.fn, h.fns] <;> rfl, fun k => by rw [State.core, h.grid] <;> rfl⟩

end State.Landing

theorem State.landing_updCore (s : State) (k : Nat) {f : Core → Core} (hf : ∀ c, (f c).ls = c.ls) : s.Landing (s.updCore k f) := by
  refine ⟨rfl, rfl, fun _ => rfl, fun n => ?_⟩
  rw [State.core_updCore]
  split
  · next h => rw [hf, h]
  · rfl

theorem State.landing_updSlot (s : State) (k j : Nat) (f : Slot → Slot) : s.Landing (s.updSlot k j f) := by
  unfold State.updSlot
  split
  · exact s.landing_updCore k fun _ => rfl
  · exact .refl s

theorem State.landing_updEntry (s : State) (e : EntryRef) (f : QEntry → QEntry) : s.Landing (s.updEntry e f) := by
  refine ⟨rfl, rfl, fun n => ?_, fun _ => rfl⟩
  unfold State.updEntry State.updQueue
  rw [State.fn_updFn]
  split
  · next h => rw [h] <;> rfl
  · rfl

theorem State.landing_flushNear (s : State) (k : Nat) : s.Landing (s.flushNear k) := by
  have hback : s.Landing (s.writeBackNear k) := by
    unfold State.writeBackNear
    refine .trans (.of_onlyBytes ?_) (State.landing_updCore _ k (f := fun c => { c with lines := c.lines.map (fun l => (l.1, { l.2 with dirty := [] })) })
      fun _ => rfl)
    exact .foldl (fun t l => .foldl (fun t d => t.onlyBytes_writeBytes ..) _ t) _ _
  exact hback.trans (State.landing_updCore _ k (f := fun c => { c with lines := [] }) fun _ => rfl)

theorem State.landing_freeSlot (s : State) (k j ctx : Nat) : s.Landing (s.freeSlot k j ctx) := by
  have hdel := s.landing_updCore k (f := fun c => { c with slots := c.slots.del j }) fun _ => rfl
  unfold State.freeSlot
  dsimp only
  split
  · exact hdel
  · exact hdel.trans (State.landing_updCore _ k (f := fun c => { c with lsWin := c.lsWin.del ctx }) fun _ => rfl)

theorem State.landing_endSheaf (s : State) (k j : Nat) : s.Landing (s.endSheaf k j) := by
  have hlast (t : State) (e : Option EntryRef) (ctx : Nat) : t.Landing (if t.launchOn e ctx k then t else t.flushNear k) := by
    split
    · exact .refl t
    · exact t.landing_flushNear k
  unfold State.endSheaf
  split
  · exact .refl s
  · next sl _ =>
    split
    · exact .refl s
    · refine (s.landing_freeSlot k j sl.ctx).trans ?_
      cases sl.launch with
      | none => exact hlast _ none sl.ctx
      | some e => exact (State.landing_updEntry _ e _).trans (hlast _ (some e) sl.ctx)

theorem State.landing_settleSlot (s : State) (k j : Nat) : s.Landing (s.settleSlot k j) :=
  (s.landing_updSlot ..).trans (State.landing_endSheaf ..)

/-- One pending result of a register drain. -/
def landOne (core slot : Nat) (takers outs : List Nat) (s : State) (p : Pend) : State :=
  if p.clobber then
    let (v, s) := s.drawWord
    s.updSlot core slot (fun sl => sl.land p v)
  else if takers.contains p.thread then s.updSlot core slot (fun sl => sl.land p (BitVec.ofNat 32 (outs.getD p.thread 0)))
  else s

theorem State.landDrain_eq {s : State} {core slot tag : Nat} {takers outs : List Nat} {sl : Slot} (hs : s.slot core slot = some sl) :
    s.landDrain core slot tag takers outs =
      ((sl.pend.filter (fun p => p.tag == tag && p.drain)).foldl (landOne core slot takers outs)
        (s.updSlot core slot (fun sl => { sl with pend := sl.pend.filter (fun p => !(p.tag == tag && p.drain)) }))).settleSlot core slot := by
  unfold State.landDrain
  rw [hs] <;> rfl

theorem State.landing_landDrain (s : State) (core slot tag : Nat) (takers outs : List Nat) : s.Landing (s.landDrain core slot tag takers outs) := by
  cases hs : s.slot core slot with
  | none =>
    rw [State.landDrain, hs]
    exact .refl s
  | some sl =>
    rw [State.landDrain_eq hs]
    refine .trans (.trans (s.landing_updSlot ..) (.foldl (fun t p => ?_) _ _)) (State.landing_settleSlot ..)
    unfold landOne
    split
    · have hdraw : t.Landing t.drawWord.2 := ⟨rfl, rfl, fun _ => rfl, fun _ => rfl⟩
      exact hdraw.trans (State.landing_updSlot ..)
    · split
      · exact t.landing_updSlot ..
      · exact .refl t

end Sys2Proof.Machine

/-! SUPPORT. The completion of a drain (R70 to R74, R94). -/

namespace Sys2Proof.Machine

open Sys2Proof.Claims

/-! ## What a completing drain does, in three parts -/

/-- The outputs of a drain and their events, from the accumulators of its patch. -/
def State.drainResults (s : State) (core : Nat) (d : Drain) (accs : List Word) : List (Nat × Word) :=
  drainOuts d.dcw d.ncw accs (s.tile core d.tOff (dcTfmt d.dcw) (decide (dcEop d.dcw ≠ 0) && decide (dcDest d.dcw ≠ 2)))
    (s.tile core d.zOff (dcZfmt d.dcw) (decide (dcDeriv d.dcw ≠ 0) && decide (dcDest d.dcw ≠ 2)))
    ((List.range 16).map (fun k => s.randOf d.ctx d.tid (roundIndex d.base d.pitch k)))

/-- A gang without the drain that completes, its bank cleared unless the drain keeps it. -/
def Gang.closeDrain (g : Gang) (core gr gc : Nat) (dcw : DWord) (n : Nat) : Gang :=
  { g with
    drains := g.drains.eraseP (fun d => d.core == core && g.drainReady gr gc d)
    cells := if dcKeep dcw then g.cells
      else (patchKeys gr gc).foldl (fun m k => m.upd k Cell.idle (fun c => c.drained (dcBank dcw))) g.cells
    coreClear := if dcKeep dcw then g.coreClear
      else g.coreClear.put core (putPick (g.coreClear.getD core (0, 0)) (dcBank dcw) n) }

/-- The elements of a drain enter the registers or the local store that it names. -/
def State.drainTo (s : State) (core : Nat) (d : Drain) (codes : List Nat) : State :=
  match dcDest d.dcw with
  | 0 => s.landDrain core d.tslot d.tag d.takers codes
  | 1 => s.lsWrite core d.dOff (codes.flatMap (leBytes (ofmtBytes (field d.ncw.toNat 11 9))))
  | _ => s

theorem State.sample_off {s : State} {v : Shadow} {fn : Nat} (h : (s.fn fn).shRate = 0) : s.sample v fn = s := by
  unfold State.sample
  exact if_pos (by rw [h] <;> rfl)

theorem drainTo_cases (s : State) (core : Nat) (d : Drain) (codes : List Nat) :
    (dcDest d.dcw = 0 ∧ s.drainTo core d codes = s.landDrain core d.tslot d.tag d.takers codes) ∨
    (dcDest d.dcw = 1 ∧ s.drainTo core d codes = s.lsWrite core d.dOff (codes.flatMap (leBytes (ofmtBytes (field d.ncw.toNat 11 9))))) ∨
    (dcDest d.dcw ≠ 0 ∧ dcDest d.dcw ≠ 1 ∧ s.drainTo core d codes = s) := by
  unfold State.drainTo
  split
  · next h => exact .inl ⟨h, rfl⟩
  · next h => exact .inr (.inl ⟨h, rfl⟩)
  · next h0 h1 => exact .inr (.inr ⟨h0, h1, rfl⟩)

section
variable (s : State) (core : Nat) (d : Drain) (codes : List Nat)

theorem State.drainTo_rest : (s.drainTo core d codes).tab = s.tab ∧ (s.drainTo core d codes).grid.gangs = s.grid.gangs ∧
    ∀ n, ((s.drainTo core d codes).fn n).shRate = (s.fn n).shRate := by
  obtain ⟨_, h⟩ | ⟨_, h⟩ | ⟨_, _, h⟩ := drainTo_cases s core d codes
  · have hl := s.landing_landDrain core d.tslot d.tag d.takers codes
    rw [h]
    exact ⟨hl.tab, hl.gangs, hl.shRate⟩
  · rw [h]
    exact ⟨rfl, rfl, fun _ => rfl⟩
  · rw [h]
    exact ⟨rfl, rfl, fun _ => rfl⟩

theorem State.drainTo_ls (h1 : dcDest d.dcw ≠ 1) : ((s.drainTo core d codes).core core).ls = (s.core core).ls := by
  obtain ⟨_, h⟩ | ⟨h', _⟩ | ⟨_, _, h⟩ := drainTo_cases s core d codes
  · rw [h]
    exact (s.landing_landDrain core d.tslot d.tag d.takers codes).ls core
  · exact absurd h' h1
  · rw [h]

theorem State.drainTo_local (h1 : dcDest d.dcw = 1) : ((s.drainTo core d codes).core core).ls =
    putList (s.core core).ls d.dOff (codes.flatMap (leBytes (ofmtBytes (field d.ncw.toNat 11 9)))) := by
  obtain ⟨h', _⟩ | ⟨_, h⟩ | ⟨_, h', _⟩ := drainTo_cases s core d codes
  · exact absurd (h1.symm.trans h') (by decide)
  · rw [h, State.lsWrite, State.core_updCore, if_pos rfl]
  · exact absurd h1 h'

theorem State.drainTo_mem (h0 : dcDest d.dcw ≠ 0) : (s.drainTo core d codes).mem = s.mem ∧ ∀ j, (s.drainTo core d codes).slot core j = s.slot core j := by
  obtain ⟨h', _⟩ | ⟨_, h⟩ | ⟨_, _, h⟩ := drainTo_cases s core d codes
  · exact absurd h' h0
  · rw [h]
    exact ⟨rfl, fun j => by simp [State.slot, State.lsWrite]⟩
  · rw [h]
    exact ⟨rfl, fun _ => rfl⟩

end

/-! ## Elements that land in registers (R70, R94) -/

theorem Slot.thread_land {sl : Slot} {p : Pend} (hreg : p.reg < 32) (hth : p.thread < 16) (v : Word) (m : Nat) :
    (sl.land p v).thread m = if p.thread = m then { sl.thread m with g := (sl.thread m).g.put p.reg v } else sl.thread m := by
  unfold Slot.land
  rw [if_neg (by omega), if_neg (by omega), Slot.thread, Map.getD_upd]
  by_cases hp : m = p.thread
  · rw [if_pos hp, if_pos hp.symm, hp]
    rfl
  · rw [if_neg hp, if_neg (Ne.symm hp)]
    rfl

theorem Slot.pend_land (sl : Slot) (p : Pend) (v : Word) : (sl.land p v).pend = sl.pend := by
  unfold Slot.land
  split
  · rfl
  · split <;> rfl

/-- The results of a register drain, each in the register of the thread that takes part. -/
theorem landOnes_spec {core slot : Nat} {takers outs : List Nat} {l : List Pend} (hl : ∀ p ∈ l, p.clobber = false ∧ p.thread < 16 ∧ p.reg < 32)
    {s : State} {sl : Slot} (hs : s.slot core slot = some sl) :
    (l.foldl (landOne core slot takers outs) s).mem = s.mem ∧
    ∃ sl', (l.foldl (landOne core slot takers outs) s).slot core slot = some sl' ∧ sl'.pend = sl.pend ∧
      (∀ m, (sl'.thread m).st = (sl.thread m).st) ∧
      ∀ m n, (sl'.thread m).g.getD n 0 = if m ∈ takers ∧ ∃ p ∈ l, p.thread = m ∧ p.reg = n then BitVec.ofNat 32 (outs.getD m 0)
        else (sl.thread m).g.getD n 0 := by
  induction l generalizing s sl with
  | nil => exact ⟨rfl, sl, hs, rfl, fun _ => rfl, fun m n => by simp⟩
  | cons p l ih =>
    obtain ⟨hclob, hth, hreg⟩ := hl p List.mem_cons_self
    have hl' := fun q hq => hl q (List.mem_cons_of_mem p hq)
    by_cases htake : p.thread ∈ takers
    · have hone : landOne core slot takers outs s p = s.updSlot core slot (fun sl => sl.land p (BitVec.ofNat 32 (outs.getD p.thread 0))) := by
        simp [landOne, hclob, htake]
      have hslot : (landOne core slot takers outs s p).slot core slot = some (sl.land p (BitVec.ofNat 32 (outs.getD p.thread 0))) := by
        rw [hone, State.slot_updSlot, if_pos ⟨rfl, rfl⟩, hs] <;> rfl
      obtain ⟨hmem, sl', h1, h2, h3, h4⟩ := ih hl' hslot
      refine ⟨hmem.trans (by rw [hone, State.updSlot, hs] <;> rfl), sl', h1, h2.trans (sl.pend_land ..), fun m => (h3 m).trans ?_, fun m n => (h4 m n).trans ?_⟩
      · rw [Slot.thread_land hreg hth]
        split <;> rfl
      · rw [Slot.thread_land hreg hth]
        by_cases hm : p.thread = m
        · subst hm
          by_cases hn : p.reg = n
          · subst hn
            simp [htake]
          · simp [htake, hn, Map.getD_put, Ne.symm hn]
        · simp [hm]
    · have hone : landOne core slot takers outs s p = s := by simp [landOne, hclob, htake]
      obtain ⟨hmem, sl', h1, h2, h3, h4⟩ := ih hl' (s := landOne core slot takers outs s p) (by rw [hone]; exact hs)
      refine ⟨hmem.trans (by rw [hone]), sl', h1, h2, h3, fun m n => (h4 m n).trans (ite_eq_of_iff (and_congr_right fun hm => ?_) _ _)⟩
      simp [show p.thread ≠ m from fun h => htake (h ▸ hm)]

theorem landDrain_spec {s : State} {core slot tag : Nat} {takers outs : List Nat} {sl : Slot} (hs : s.slot core slot = some sl)
    (hlive : ∃ m < 16, (sl.thread m).st ≠ .exited)
    (hl : ∀ p ∈ sl.pend, p.tag = tag → p.drain = true → p.clobber = false ∧ p.thread < 16 ∧ p.reg < 32) :
    ∃ sl', (s.landDrain core slot tag takers outs).slot core slot = some sl' ∧
      sl'.pend = sl.pend.filter (fun p => !(p.tag == tag && p.drain)) ∧ (s.landDrain core slot tag takers outs).mem = s.mem ∧
      ∀ m n, (sl'.thread m).g.getD n 0 =
        if m ∈ takers ∧ ∃ p ∈ sl.pend, p.tag = tag ∧ p.drain = true ∧ p.thread = m ∧ p.reg = n then BitVec.ofNat 32 (outs.getD m 0)
        else (sl.thread m).g.getD n 0 := by
  have hslot : (s.updSlot core slot (fun sl => { sl with pend := sl.pend.filter (fun p => !(p.tag == tag && p.drain)) })).slot core slot =
      some { sl with pend := sl.pend.filter (fun p => !(p.tag == tag && p.drain)) } := by
    rw [State.slot_updSlot, if_pos ⟨rfl, rfl⟩, hs] <;> rfl
  obtain ⟨hmem, sl', h1, h2, h3, h4⟩ := landOnes_spec (takers := takers) (outs := outs) (l := sl.pend.filter (fun p => p.tag == tag && p.drain))
    (fun p hp => by
      obtain ⟨hp, htag⟩ := List.mem_filter.1 hp
      rw [Bool.and_eq_true, beq_iff_eq] at htag
      exact hl p hp htag.1 htag.2) hslot
  rw [State.landDrain_eq hs]
  generalize List.foldl (landOne core slot takers outs) _ _ = t at *
  have hwake : (t.updSlot core slot Slot.wake).slot core slot = some sl'.wake := by
    rw [State.slot_updSlot, if_pos ⟨rfl, rfl⟩, h1] <;> rfl
  have hover : sl'.wake.over = false := by
    obtain ⟨m, hm, hst⟩ := hlive
    have hw : (sl'.wake.thread m).st ≠ .exited := by
      rw [Slot.thread_wake]
      split
      · exact fun h => nomatch h
      · rw [h3]; exact hst
    rw [Slot.over, Bool.and_eq_false_iff]
    exact .inr (List.all_eq_false.2 ⟨m, List.mem_range.2 hm, by simpa using hw⟩)
  have hsettle : t.settleSlot core slot = t.updSlot core slot Slot.wake := by
    rw [State.settleSlot, State.endSheaf, hwake]
    exact if_pos (by rw [hover] <;> rfl)
  rw [hsettle]
  refine ⟨sl'.wake, hwake, h2, (?_ : _ = t.mem).trans (hmem.trans ?_), fun m n => ?_⟩
  · rw [State.updSlot, h1] <;> rfl
  · rw [State.updSlot, hs] <;> rfl
  · have hg : (sl'.wake.thread m).g = (sl'.thread m).g := by
      rw [Slot.thread_wake]
      split <;> rfl
    rw [hg, h4]
    refine ite_eq_of_iff (and_congr_right fun _ => exists_congr fun p => ?_) _ _
    simp [List.mem_filter, and_assoc]

/-! ## DRAIN_COMPLETE -/

theorem find?_and_of_find? {α : Type} {p q : α → Bool} {l : List α} {a : α} (h : l.find? p = some a) (hq : q a = true) :
    l.find? (fun x => p x && q x) = some a := by
  obtain ⟨hp, i, hi, rfl, hfirst⟩ := List.find?_eq_some_iff_getElem.1 h
  exact List.find?_eq_some_iff_getElem.2 ⟨by simp [hp, hq], i, hi, rfl, fun j hj => by simp [by simpa using hfirst j hj]⟩

theorem eraseP_and_of_find? {α : Type} {p q : α → Bool} {l : List α} {a : α} (h : l.find? p = some a) (hq : q a = true) :
    l.eraseP (fun x => p x && q x) = l.eraseP p := by
  induction l with
  | nil => rfl
  | cons x l ih =>
    by_cases hx : p x = true
    · rw [List.find?_cons_of_pos hx] at h
      cases h
      rw [List.eraseP_cons_of_pos (by simp [hx, hq]), List.eraseP_cons_of_pos hx]
    · rw [List.find?_cons_of_neg hx] at h
      rw [List.eraseP_cons_of_neg (by simp [hx]), List.eraseP_cons_of_neg hx, ih h]

/-- The completion of a drain whose checks pass, in a function that takes no shadow samples. -/
theorem State.completeDrain_eq {s : State} {gid core rows cols gr gc : Nat} {d : Drain} (hdims : s.gangDims gid = some (rows, cols))
    (hpos : gangPos gid rows cols core = some (gr, gc)) (hfind : (s.gang gid).drains.find? (fun e => e.core == core) = some d)
    (hready : (s.gang gid).drainReady gr gc d = true) (hpow : (s.course (courseOfCore core)).power = .run)
    (hrate : (s.fn (s.ctx d.ctx).fn).shRate = 0)
    (ht : dcEop d.dcw ≠ 0 ∧ dcDest d.dcw ≠ 2 → s.lsHusks core d.tOff (16 * ofmtBytes (dcTfmt d.dcw)) = false)
    (hz : dcDeriv d.dcw ≠ 0 ∧ dcDest d.dcw ≠ 2 → s.lsHusks core d.zOff (16 * ofmtBytes (dcZfmt d.dcw)) = false) :
    let g := s.gang gid
    let outs := s.drainResults core d ((patchKeys gr gc).map (fun k => (g.cells.getD k Cell.idle).acc (dcBank d.dcw)))
    let n := (g.cells.getD ((patchKeys gr gc).headD 0) Cell.idle).fired (dcBank d.dcw)
    let t := (s.updGang gid (fun g => g.closeDrain core gr gc d.dcw n)).drainTo core d (outs.map (·.1))
    s.completeDrain gid core =
      (if dcDest d.dcw = 2 then t else t.orFlags d.ctx (outs.foldl (fun f o => f ||| o.2) 0)).settleRelease gid := by
  intro g outs n t
  have hfirst := find?_and_of_find? (q := fun e => (s.gang gid).drainReady gr gc e) hfind hready
  have hhusks : ((decide (dcEop d.dcw ≠ 0) && decide (dcDest d.dcw ≠ 2)) && s.lsHusks core d.tOff (16 * ofmtBytes (dcTfmt d.dcw)) ||
      (decide (dcDeriv d.dcw ≠ 0) && decide (dcDest d.dcw ≠ 2)) && s.lsHusks core d.zOff (16 * ofmtBytes (dcZfmt d.dcw))) = false := by
    rw [Bool.or_eq_false_iff, Bool.and_eq_false_imp, Bool.and_eq_false_imp]
    exact ⟨fun h => ht (by simpa using h), fun h => hz (by simpa using h)⟩
  unfold State.completeDrain
  rw [hdims]
  dsimp only
  rw [hpos]
  dsimp only
  rw [hfirst]
  dsimp only
  rw [if_neg (Classical.not_not.2 hpow), if_neg (Bool.eq_false_iff.1 hhusks)]
  obtain ⟨htab, _, hsh⟩ := State.drainTo_rest (s.updGang gid (fun g => g.closeDrain core gr gc d.dcw n)) core d (outs.map (·.1))
  have hoff : ∀ v, (t.orFlags d.ctx (outs.foldl (fun f o => f ||| o.2) 0)).sample v
      ((t.orFlags d.ctx (outs.foldl (fun f o => f ||| o.2) 0)).ctx d.ctx).fn = t.orFlags d.ctx (outs.foldl (fun f o => f ||| o.2) 0) := fun v => by
    refine State.sample_off ((hsh _).trans ?_)
    have hctx : t.ctx d.ctx = s.ctx d.ctx := by rw [State.ctx, htab] <;> rfl
    rw [State.orFlags, State.ctx_updCtx, if_pos rfl, hctx]
    exact hrate
  refine congrArg (fun u => State.settleRelease u gid) ?_
  by_cases h2 : dcDest d.dcw = 2
  · refine (if_pos h2).trans ?_
    rfl
  · refine (if_neg h2).trans ?_
    have hoff' (v : Shadow) : (if dcDest d.dcw = 2 then t else t.orFlags d.ctx (outs.foldl (fun f o => f ||| o.2) 0)).sample v
        ((if dcDest d.dcw = 2 then t else t.orFlags d.ctx (outs.foldl (fun f o => f ||| o.2) 0)).ctx d.ctx).fn =
        if dcDest d.dcw = 2 then t else t.orFlags d.ctx (outs.foldl (fun f o => f ||| o.2) 0) := by
      rw [if_neg h2]
      exact hoff v
    exact hoff' _

/-- The outputs of a drain, element by element (R71, R124). -/
theorem State.drainResults_eq (s : State) (core : Nat) (d : Drain) (g : Gang) (gr gc : Nat) :
    s.drainResults core d ((patchKeys gr gc).map (fun k => (g.cells.getD k Cell.idle).acc (dcBank d.dcw))) =
      (List.range 16).map (fun k => convertOut d.ncw (some (s.randOf d.ctx d.tid (roundIndex d.base d.pitch k)))
        (ofF32 (drainElem d.dcw ((g.cells.getD ((patchKeys gr gc).getD k 0) Cell.idle).acc (dcBank d.dcw))
          (if dcEop d.dcw ≠ 0 ∧ dcDest d.dcw ≠ 2 then s.tileElem core d.tOff (dcTfmt d.dcw) k else 0)
          (if dcDeriv d.dcw ≠ 0 ∧ dcDest d.dcw ≠ 2 then s.tileElem core d.zOff (dcZfmt d.dcw) k else 0)))) := by
  unfold State.drainResults drainOuts
  refine List.map_congr_left fun k hk => ?_
  have hk := List.mem_range.1 hk
  simp [State.tile, patchKeys, hk, List.getD_eq_getElem?_getD, List.getElem?_range]

theorem drainsComplete : DrainsComplete := by
  intro s gid core rows cols gr gc d g bank keys useT useZ acc t z out events hgid hcore hdims hpos hfind hready hrel hpow hrate ht hz
  have hdone := State.completeDrain_eq hdims hpos hfind hready hpow hrate ht hz
  have houts : s.drainResults core d ((patchKeys gr gc).map (fun k => (g.cells.getD k Cell.idle).acc (dcBank d.dcw))) = (List.range 16).map out :=
    s.drainResults_eq core d g gr gc
  dsimp only at hdone
  rw [houts] at hdone
  generalize (g.cells.getD ((patchKeys gr gc).headD 0) Cell.idle).fired (dcBank d.dcw) = n at hdone
  have hgang1 : (s.updGang gid (fun g => g.closeDrain core gr gc d.dcw n)).gang gid = g.closeDrain core gr gc d.dcw n := State.gang_updGang_self ..
  have hrest1 : (s.updGang gid (fun g => g.closeDrain core gr gc d.dcw n)).mem = s.mem ∧
      (s.updGang gid (fun g => g.closeDrain core gr gc d.dcw n)).tab = s.tab ∧
      (∀ k, (s.updGang gid (fun g => g.closeDrain core gr gc d.dcw n)).core k = s.core k) ∧
      ∀ k j, (s.updGang gid (fun g => g.closeDrain core gr gc d.dcw n)).slot k j = s.slot k j := ⟨rfl, rfl, fun _ => rfl, fun _ _ => rfl⟩
  generalize s.updGang gid (fun g => g.closeDrain core gr gc d.dcw n) = s1 at *
  obtain ⟨hmem1, htab1, hcore1, hslot1⟩ := hrest1
  have hrest2 := s1.drainTo_rest core d (((List.range 16).map out).map (·.1))
  have hls2 := s1.drainTo_ls core d (((List.range 16).map out).map (·.1))
  have hlocal2 := s1.drainTo_local core d (((List.range 16).map out).map (·.1))
  have hmem2 := s1.drainTo_mem core d (((List.range 16).map out).map (·.1))
  have hregs2 (h0 : dcDest d.dcw = 0) : s1.drainTo core d (((List.range 16).map out).map (·.1)) =
      s1.landDrain core d.tslot d.tag d.takers (((List.range 16).map out).map (·.1)) := by
    unfold State.drainTo
    rw [h0] <;> rfl
  generalize s1.drainTo core d (((List.range 16).map out).map (·.1)) = s2 at *
  obtain ⟨htab2, hgangs2, -⟩ := hrest2
  have hgang2 : s2.gang gid = g.closeDrain core gr gc d.dcw n := by
    rw [← hgang1, State.gang, hgangs2] <;> rfl
  have hctx2 : s2.ctx d.ctx = s.ctx d.ctx := by rw [State.ctx, htab2, htab1] <;> rfl
  generalize hu : (if dcDest d.dcw = 2 then s2 else s2.orFlags d.ctx (((List.range 16).map out).foldl (fun f o => f ||| o.2) 0)) = u at hdone
  have hurest : u.mem = s2.mem ∧ u.grid = s2.grid := by
    subst hu
    split <;> exact ⟨rfl, rfl⟩
  obtain ⟨humem, hugrid⟩ := hurest
  have hcoreu : ∀ k, u.core k = s2.core k := fun k => by rw [State.core, hugrid] <;> rfl
  have hslotu : ∀ k j, u.slot k j = s2.slot k j := fun k j => by rw [State.slot, hcoreu] <;> rfl
  have hgangu : u.gang gid = g.closeDrain core gr gc d.dcw n := by rw [← hgang2, State.gang, hugrid] <;> rfl
  have hsettle : u.settleRelease gid = u := by
    unfold State.settleRelease
    refine if_neg ?_
    rw [hgangu, Gang.closeDrain, hrel]
    simp
  rw [hsettle] at hdone
  refine ⟨u, (done_next (c := .drainComplete gid core) (by simpa [Instr.wellFormed, coreCount, hcore] using hgid)).trans (congrArg _ hdone),
    ?_, fun k => ?_, fun k => ?_, ?_, fun h0 => ?_, fun h1 => ?_, fun h1 => ?_, fun h0 j => ?_, fun h0 sl hsl hlive hpend => ?_⟩
  · rw [hgangu]
    exact eraseP_and_of_find? (q := fun e => g.drainReady gr gc e) hfind hready
  · rw [hgangu]
    unfold Gang.closeDrain
    cases hk : dcKeep d.dcw
    · simp [acc_drainedCells, keys, bank]
    · simp
  · rw [hgangu]
    unfold Gang.closeDrain
    cases hk : dcKeep d.dcw
    · simp [acc_drainedCells_other, bank]
    · simp
  · rw [← hu]
    split
    · rw [hctx2]
    · rw [State.orFlags, State.ctx_updCtx, if_pos rfl, hctx2, List.foldl_map]
  · rw [humem, (hmem2 h0).1, hmem1]
  · rw [hcoreu, hls2 h1, hcore1]
  · rw [hcoreu, hlocal2 h1, hcore1, List.map_map, List.flatMap_map] <;> rfl
  · rw [hslotu, (hmem2 h0).2, hslot1]
  · obtain ⟨sl', h1, h2, h3, h4⟩ := landDrain_spec (takers := d.takers) (outs := ((List.range 16).map out).map (·.1))
      ((hslot1 core d.tslot).trans hsl) hlive hpend
    rw [← hregs2 h0] at h1 h3
    refine ⟨sl', (hslotu ..).trans h1, h2, humem.trans (h3.trans hmem1), fun m hm n => (h4 m n).trans ?_⟩
    rw [show (((List.range 16).map out).map (·.1)).getD m 0 = (out m).1 by simp [List.getD_eq_getElem?_getD, List.getElem?_range, hm]]

/-- Settles O16: the completion is cut into its results, the gang that they leave, and the place where they land. -/
theorem drains : Obligations.Drains := ⟨drainsComplete, drainElements⟩

end Sys2Proof.Machine

/-! SUPPORT. Register feeds and stream feeds (R61, R63, R80, R99, R108, R122, R123). -/

namespace Sys2Proof.Machine

open Sys2Proof.Claims

/-! ## Registers that the threads of a sheaf share -/

/-- A register of the sheaf, not of one thread. -/
def Reg.shared (r : Reg) : Prop := ∀ n, r ≠ .g n

theorem specifier_shared {c : BitVec 6} {r : Reg} (hc : 0x20 ≤ c.toNat) (h : specifier c = some r) : r.shared := by
  intro n hn
  subst hn
  unfold specifier at h
  split at h
  · omega
  · split at h
    · cases h
    · split at h
      · cases h
      · cases h

theorem specifiers_shared {w : Nat} {c : BitVec 6} {l : List Reg} (hc : 0x20 ≤ c.toNat) (h : specifiers w c = some l) : ∀ r ∈ l, r.shared := by
  rintro r hr n rfl
  unfold specifiers at h
  split at h
  · omega
  · split at h
    · split at h
      · cases h
        simp at hr
      · cases h
    · split at h
      · cases h
        exact absurd (List.eq_of_mem_replicate hr) (by simp)
      · cases h

theorem Slot.readNat_shared {a b : Slot} (hu : a.u = b.u) {rs : List Reg} (h : ∀ r ∈ rs, r.shared) (p p' : Nat) : a.readNat p rs = b.readNat p' rs := by
  induction rs with
  | nil => rfl
  | cons r rs ih =>
    have hr : a.read p r = b.read p' r := by
      cases r with
      | g n => exact absurd rfl (h _ List.mem_cons_self n)
      | u n => exact congrArg (fun u : Map Word => u.getD n 0) hu
      | zr => rfl
    rw [Slot.readNat, Slot.readNat, hr, ih fun r' hr' => h r' (List.mem_cons_of_mem _ hr')]

theorem State.come_u (s : State) (i : Issue) (w : WholeIns) (q : Form) (j : Nat) :
    ((s.come i w q).slot i.core j).map Slot.u = (s.slot i.core j).map Slot.u := by
  rw [← (s.issued_spec i q).2.2.2.1 j]
  unfold State.come
  generalize s.issued i q = t
  induction s.going i q generalizing t with
  | nil => rfl
  | cons m l ih =>
    rw [List.foldl_cons, ih]
    exact State.slot_updSlot_map _ _ _ _ _ _ fun _ => rfl

/-- The shared registers of a sheaf that has come to an instruction read as at its issue. -/
theorem State.come_readNat {s : State} {i : Issue} {w : WholeIns} {q : Form} {sl : Slot}
    (hsl : (s.come i w q).slot i.core (i.leader / 16) = some sl) {rs : List Reg} (h : ∀ r ∈ rs, r.shared) :
    sl.readNat 0 rs = s.regsNat i.core i.leader rs ∧ (s.slot i.core (i.leader / 16)).isSome := by
  have hu := s.come_u i w q (i.leader / 16)
  rw [hsl, Option.map_some] at hu
  obtain ⟨sl0, hs, hu0⟩ := Option.map_eq_some_iff.1 hu.symm
  rw [State.regsNat, hs]
  exact ⟨Slot.readNat_shared hu0.symm h _ _, rfl⟩

/-! ## GFEEDR (R61, R108, R122) -/

theorem registerFeed_opens (s : State) (i : Issue) (f : FormT) (a n : Reg) (b : List Reg) (sl : Slot) :
    let q := formOf f.guard true ([a] ++ b ++ [n]) []
    let fp := feedPair (s.pairOf i.core i.leader b).toNat
    let ncw := s.regOf i.core i.leader n
    s.Leads i → guardLegal f.guard → f.type = 0 → f.dst = 0 → f.mod = 1 → a.isU = false → specifier f.sa = some a →
    0x20 ≤ f.sb.toNat → specifiers 2 f.sb = some b → 0x20 ≤ f.sc.toNat → specifier f.sc = some n →
    s.allCome i (.feed f) q → (s.come i (.feed f) q).slot i.core (i.leader / 16) = some sl → sl.openFeed = none →
    (s.come i (.feed f) q).feedBad i.core (s.slotCtx i) fp ncw = none → sideFmt ncw fp.side ≤ 2 →
    exec (.gfeedr i f) s = .next (s.actsWhole i (.feed f) q (fun t => t.takeFragment i.core (i.leader / 16) (s.slotCtx i) [a]
      { gang := fp.gang, side := fp.side, bank := fp.bank, clr := fp.clr, klen := fp.klen
        pairLo := (s.pairOf i.core i.leader b).setWidth 32, ncw := ncw, count := 0, lanes := [] })) := by
  intro q fp ncw hl hg ht hdst hmod hau ha hsb hb hsc hn hcome hsl hopen hbad hfmt
  refine (done_next (c := .gfeedr i f) hl.ok).trans (congrArg _ ?_)
  simp only [gregs_specifier ha hau, uregs_specifiers hsb hb, uregs_specifier hsc hn, Option.getD_some, Option.isSome_some, ht, hdst, hmod,
    Bool.and_true, beq_self_eq_true]
  refine (State.whole_allCome (q := q) hl hg hcome _ _).trans ?_
  refine congrArg (fun t => State.updSlot t i.core (i.leader / 16) Slot.releaseWhole) ?_
  obtain ⟨hpair, hsome⟩ := State.come_readNat hsl (specifiers_shared hsb hb)
  obtain ⟨hncw, -⟩ := State.come_readNat (rs := [n]) hsl fun r hr => by
    rw [List.mem_singleton.1 hr]
    exact specifier_shared hsc hn
  rw [State.regsNat_two hsome (specifiers_length hb)] at hpair
  rw [State.regsNat_one hsome] at hncw
  simp only [State.feedrAct, hsl, gregs_specifier ha hau, uregs_specifiers hsb hb, uregs_specifier hsc hn, Option.getD_some, hpair, hncw,
    BitVec.ofNat_toNat, BitVec.setWidth_eq, hmod, beq_self_eq_true, if_true, hopen]
  change (match (none : Option OpenFeed), (s.come i (.feed f) q).feedBad i.core (s.slotCtx i) fp ncw with
    | some _, _ => _
    | none, some st => _
    | none, none => _) = _
  rw [hbad]
  exact if_neg (Nat.not_lt.2 hfmt)

/-! ## Steps of an open feed (R122) -/

/-- An open feed with the steps of one GFEEDR more. -/
def OpenFeed.extend (o : OpenFeed) (sl : Slot) (r : List Reg) : OpenFeed :=
  { o with lanes := (List.range 4).foldl (fun m l => m.put l (m.getD l [] ++ sl.fragment r l)) o.lanes, count := o.count + 1 }

theorem OpenFeed.lanes_extend (o : OpenFeed) (sl : Slot) (r : List Reg) {l : Nat} (hl : l < 4) :
    (o.extend sl r).lanes.getD l [] = o.lanes.getD l [] ++ sl.fragment r l := by
  have h4 : List.range 4 = [0, 1, 2, 3] := rfl
  simp only [OpenFeed.extend, h4, List.foldl_cons, List.foldl_nil, Map.getD_put]
  obtain rfl | rfl | rfl | rfl : l = 0 ∨ l = 1 ∨ l = 2 ∨ l = 3 := by omega
  all_goals simp

theorem State.takeFragment_eq {s : State} {core slot ctx : Nat} {r : List Reg} {o : OpenFeed} {sl : Slot} (hs : s.slot core slot = some sl) :
    s.takeFragment core slot ctx r o =
      if (feedSteps o.ncw o.klen + 3) / 4 ≤ o.count + 1 then
        (s.updSlot core slot (fun sl' => { sl' with openFeed := some (o.extend sl r) })).closeFeed core slot ctx (o.extend sl r)
      else s.updSlot core slot (fun sl' => { sl' with openFeed := some (o.extend sl r) }) := by
  unfold State.takeFragment
  rw [hs] <;> rfl

theorem slot_updSlot_openFeed {s : State} {core slot : Nat} {sl : Slot} (hs : s.slot core slot = some sl) (o : Option OpenFeed) :
    (s.updSlot core slot (fun sl' => { sl' with openFeed := o })).slot core slot = some { sl with openFeed := o } := by
  rw [State.slot_updSlot, if_pos ⟨rfl, rfl⟩, hs] <;> rfl

theorem takeFragment_closes (s : State) (core slot ctx : Nat) (r : List Reg) (o : OpenFeed) (sl : Slot)
    (hs : s.slot core slot = some sl) (hlast : (feedSteps o.ncw o.klen + 3) / 4 ≤ o.count + 1) :
    let t := s.takeFragment core slot ctx r o
    (t.slot core slot).map Slot.openFeed = some none ∧
    (t.gang o.gang).ctx = some ((s.gang o.gang).ctx.getD ctx) ∧
    ∃ e : EdgeFeed, (t.gang o.gang).edge = (s.gang o.gang).edge ++ [e] ∧ e.core = core ∧ e.side = o.side ∧ e.bank = o.bank ∧
      e.clr = o.clr ∧ e.klen = o.klen ∧ e.ncw = o.ncw ∧ e.steps = feedSteps o.ncw o.klen := by
  intro t
  have ht : t = _ := (State.takeFragment_eq hs).trans (if_pos hlast)
  have hopen := slot_updSlot_openFeed hs (some (o.extend sl r))
  have hgang : (s.updSlot core slot (fun sl' => { sl' with openFeed := some (o.extend sl r) })).gang o.gang = s.gang o.gang :=
    State.gang_updSlot ..
  generalize s.updSlot core slot (fun sl' => { sl' with openFeed := some (o.extend sl r) }) = u at *
  have hclosed := slot_updSlot_openFeed hopen none
  have hgang' : (u.updSlot core slot (fun sl' => { sl' with openFeed := none })).gang o.gang = s.gang o.gang :=
    (State.gang_updSlot ..).trans hgang
  have htg : t.gang o.gang = _ := (congrArg (fun x : State => x.gang o.gang) ht).trans (State.gang_updGang_self ..)
  rw [htg]
  refine ⟨?_, ?_, _, congrArg (fun g : Gang => g.edge ++ _) hgang', rfl, rfl, rfl, rfl, rfl, rfl, rfl⟩
  · rw [ht]
    exact congrArg (Option.map Slot.openFeed) hclosed
  · exact congrArg (fun g : Gang => some (g.ctx.getD ctx)) hgang'

theorem takeFragment_continues (s : State) (core slot ctx : Nat) (r : List Reg) (o : OpenFeed) (sl : Slot)
    (hs : s.slot core slot = some sl) (hmore : o.count + 1 < (feedSteps o.ncw o.klen + 3) / 4) :
    let t := s.takeFragment core slot ctx r o
    t.grid.gangs = s.grid.gangs ∧ ∃ o', (t.slot core slot).map Slot.openFeed = some (some o') ∧ o'.count = o.count + 1 ∧
      o'.gang = o.gang ∧ o'.ncw = o.ncw ∧ o'.klen = o.klen ∧
      ∀ l < 4, o'.lanes.getD l [] = o.lanes.getD l [] ++ sl.fragment r l := by
  intro t
  have ht : t = _ := (State.takeFragment_eq hs).trans (if_neg (Nat.not_le.2 hmore))
  rw [ht]
  refine ⟨?_, o.extend sl r, ?_, rfl, rfl, rfl, rfl, fun l hl => o.lanes_extend sl r hl⟩
  · rw [State.updSlot, hs] <;> rfl
  · rw [slot_updSlot_openFeed hs] <;> rfl

theorem registerFeed : RegisterFeed := ⟨registerFeed_opens, takeFragment_closes, takeFragment_continues⟩

/-! ## GFEEDS (R63, R123) -/

theorem State.issued_regOf_ofNat {s : State} {i : Issue} {q : Form} {m : Nat} (hm : m ∈ s.acting i q) (r : Reg) :
    (s.issued i q).regsNat i.core m [r] = (s.regOf i.core m r).toNat := by
  obtain ⟨sl, hs⟩ := State.acting_slot hm
  rw [State.issued_regsNat hm, State.regsNat_one (by simp [hs])]

theorem streamFeed : StreamFeed := by
  intro s i f a n b m ms lanes fl q x ctx off fp ncw d fmt hl hg ht hdst hmod hsa ha hsb hb hsc hn hact hal hls hhusk hbad hdesc hrem hlanes
  have hm : m ∈ s.acting i q := by rw [hact]; exact List.mem_cons_self
  refine (done_next (c := .gfeeds i f) hl.ok).trans (congrArg _ ?_)
  simp only [uregs_specifier hsa ha, uregs_specifiers hsb hb, uregs_specifier hsc hn, Option.getD_some, Option.isSome_some, ht, hdst, hmod,
    Bool.and_true, beq_self_eq_true]
  refine (State.issue_acts s i q _ _ hl hg).trans ?_
  rw [hact]
  simp only [State.issued_regOf_ofNat hm, State.issued_regsNat_two hm (specifiers_length hb), BitVec.ofNat_toNat, BitVec.setWidth_eq]
  rw [if_neg (Classical.not_not.2 hal), if_neg (by simpa using hls), if_neg (Bool.eq_false_iff.1 hhusk)]
  simp only [x, ctx, off, fp, ncw, d, fmt] at hbad hrem hlanes
  rw [hbad]
  refine (if_neg (Bool.eq_false_iff.1 hdesc)).trans ?_
  rw [hrem]
  dsimp only
  rw [hlanes] <;> rfl

/-- Settles O9: a feed whose checks pass is the edge feed that its instruction describes. -/
theorem feeds : Obligations.Feeds := ⟨registerFeed, streamFeed⟩

end Sys2Proof.Machine

/-! SUPPORT. What leaves the queue of waiting commands and the partitions in force alone (R357 to R361): one lemma for each operation of
the model, in the order of the model's files, as for the configuration above. Each says that the operation's state has the queue and the
partitions of the state it starts from, so that simp carries the fact along a chain of operations. -/

namespace Sys2Proof.Machine

/-- The commands that wait, and the partitions in force (R361). -/
def State.inForce (s : State) : List Instr × Map Part := (s.pending, s.truss.parts)

@[simp] theorem State.inForce_mk (pending : List Instr) (grid : Grid) (courses : Map Course) (mem : Mem) (tab : Tables) (fns : Map Fn)
    (engines : Map Engine) (fab : Fabric) (truss : Truss) (pwr : PowerCtl) (boot : Boot) (spdm : Spdm) (board : Board) (secure : Secure)
    (free : Nat) (vfEnable : Bool) :
    (State.mk pending grid courses mem tab fns engines fab truss pwr boot spdm board secure free vfEnable).inForce =
      (pending, truss.parts) := rfl

@[simp] theorem State.inForce_fold (s : State) : (s.pending, s.truss.parts) = s.inForce := rfl

@[simp] theorem State.inForce_ite (c : Prop) [Decidable c] (s t : State) :
    (if c then s else t).inForce = if c then s.inForce else t.inForce := apply_ite ..

/-- A fold keeps the queue and the partitions of the state that it carries if each step does. -/
theorem foldl_inForce {α β : Type} (state : β → State) {f : β → α → β} (hf : ∀ b x, (state (f b x)).inForce = (state b).inForce)
    (l : List α) (b : β) : (state (l.foldl f b)).inForce = (state b).inForce := by
  induction l generalizing b with
  | nil => rfl
  | cons x l ih => rw [List.foldl_cons, ih, hf]

@[simp] theorem State.inForce_foldl {α : Type} {f : State → α → State} (hf : ∀ t x, (f t x).inForce = t.inForce) (l : List α) (s : State) :
    (l.foldl f s).inForce = s.inForce := foldl_inForce id hf l s

theorem State.OnlyReporting.inForce {s t : State} (h : s.OnlyReporting t) : t.inForce = s.inForce := by
  obtain ⟨_, _, _, _, _, rfl⟩ := h; rfl

/-! ## Units, memory and die caches (R136 to R171) -/

@[simp] theorem State.updFn_inForce (s : State) (n : Nat) (f : Fn → Fn) : (s.updFn n f).inForce = s.inForce := by simp [State.updFn]

@[simp] theorem State.updCourse_inForce (s : State) (n : Nat) (f : Course → Course) : (s.updCourse n f).inForce = s.inForce := by
  simp [State.updCourse]

@[simp] theorem State.updCtx_inForce (s : State) (n : Nat) (f : Ctx → Ctx) : (s.updCtx n f).inForce = s.inForce := by simp [State.updCtx]

@[simp] theorem State.updCore_inForce (s : State) (n : Nat) (f : Core → Core) : (s.updCore n f).inForce = s.inForce := by
  simp [State.updCore]

@[simp] theorem State.updGang_inForce (s : State) (n : Nat) (f : Gang → Gang) : (s.updGang n f).inForce = s.inForce := by
  simp [State.updGang]

@[simp] theorem State.updSpar_inForce (s : State) (n : Nat) (f : Spar → Spar) : (s.updSpar n f).inForce = s.inForce := by
  simp [State.updSpar]

@[simp] theorem State.updPort_inForce (s : State) (n : Nat) (f : Port → Port) : (s.updPort n f).inForce = s.inForce := by
  simp [State.updPort]

@[simp] theorem State.updEngine_inForce (s : State) (n : Nat) (f : Engine → Engine) : (s.updEngine n f).inForce = s.inForce := by
  simp [State.updEngine]

@[simp] theorem State.updQueue_inForce (s : State) (fn q : Nat) (f : Queue → Queue) : (s.updQueue fn q f).inForce = s.inForce := by
  simp [State.updQueue]

@[simp] theorem State.updMbx_inForce (s : State) (fn ch : Nat) (f : Mbx → Mbx) : (s.updMbx fn ch f).inForce = s.inForce := by
  simp [State.updMbx]

@[simp] theorem State.updJob_inForce (s : State) (fn j : Nat) (f : Job → Job) : (s.updJob fn j f).inForce = s.inForce := by
  unfold State.updJob; split <;> simp

@[simp] theorem State.updSlot_inForce (s : State) (core slot : Nat) (f : Slot → Slot) :
    (s.updSlot core slot f).inForce = s.inForce := by
  unfold State.updSlot; split <;> simp

@[simp] theorem State.tick_inForce (s : State) : s.tick.inForce = s.inForce := by simp [State.tick]

@[simp] theorem State.setMem_inForce (s : State) (m : Memory) : (s.setMem m).inForce = s.inForce := by simp [State.setMem]

@[simp] theorem State.burst_inForce (s : State) (a : Nat) (gp : Option (Nat × Nat)) : (s.burst a gp).inForce = s.inForce := by
  simp [State.burst]

@[simp] theorem State.memPut_inForce (s : State) (a : Nat) (b : Byte) (gp : Option (Nat × Nat)) : (s.memPut a b gp).inForce = s.inForce :=
  (s.onlyReporting_memPut ..).inForce

@[simp] theorem State.setHusks_inForce (s : State) (ws : List Nat) (h : Bool) : (s.setHusks ws h).inForce = s.inForce := by
  simp [State.setHusks]

@[simp] theorem State.setLine_inForce (s : State) (n : Nat) (l : DLine) : (s.setLine n l).inForce = s.inForce := by simp [State.setLine]

@[simp] theorem State.dropLine_inForce (s : State) (n : Nat) : (s.dropLine n).inForce = s.inForce := by simp [State.dropLine]

@[simp] theorem State.writeBack_inForce (s : State) (n : Nat) : (s.writeBack n).inForce = s.inForce := by
  unfold State.writeBack; split <;> simp

@[simp] theorem State.enterLine_inForce (s : State) (part n hint : Nat) (remote : Option (Nat × Nat)) :
    (s.enterLine part n hint remote).inForce = s.inForce := by
  unfold State.enterLine
  repeat' split
  all_goals simp

@[simp] theorem State.unsnoop_inForce (s : State) (a len : Nat) : (s.unsnoop a len).inForce = s.inForce := by simp [State.unsnoop]

@[simp] theorem State.poke_inForce (s : State) (a : Nat) (b : Byte) : (s.poke a b).inForce = s.inForce := by
  unfold State.poke; split <;> simp

@[simp] theorem State.pokeList_inForce (s : State) (a : Nat) (bs : List Byte) : (s.pokeList a bs).inForce = s.inForce :=
  (s.onlyReporting_pokeList ..).inForce

@[simp] theorem State.pokeHusk_inForce (s : State) (w : Nat) (h : Bool) : (s.pokeHusk w h).inForce = s.inForce :=
  (s.onlyReporting_pokeHusk ..).inForce

@[simp] theorem State.writeBytes_inForce (s : State) (a : Nat) (bs : List Byte) : (s.writeBytes a bs).inForce = s.inForce :=
  (s.onlyReporting_writeBytes ..).inForce

@[simp] theorem State.writeNat_inForce (s : State) (a len v : Nat) : (s.writeNat a len v).inForce = s.inForce := by simp [State.writeNat]

@[simp] theorem State.writeObj_inForce (s : State) (a : Nat) (bs : List Byte) (part gen : Nat) :
    (s.writeObj a bs part gen).inForce = s.inForce := by simp [State.writeObj]

@[simp] theorem State.copyBytes_inForce (s : State) (src dst len : Nat) : (s.copyBytes src dst len).inForce = s.inForce := by
  simp [State.copyBytes]

@[simp] theorem State.lsWrite_inForce (s : State) (core off : Nat) (bs : List Byte) :
    (s.lsWrite core off bs).inForce = s.inForce := by simp [State.lsWrite]

@[simp] theorem State.cleanPoison_inForce (s : State) (ls : List Nat) : (s.cleanPoison ls).inForce = s.inForce :=
  (s.onlyReporting_cleanPoison ..).inForce

@[simp] theorem State.hostWrite_inForce (s : State) (a : Nat) (bs : List Byte) : (s.hostWrite a bs).inForce = s.inForce := by
  simp [State.hostWrite]

@[simp] theorem State.writePieces_inForce (s : State) (ps : List (Nat × Nat)) (bs : List Byte) : (s.writePieces ps bs).inForce = s.inForce := by
  induction ps generalizing s bs with
  | nil => rfl
  | cons p ps ih => rw [State.writePieces, ih, State.writeBytes_inForce]

@[simp] theorem State.ringWrite_inForce (s : State) (loc : Bool) (a : Nat) (bs : List Byte) : (s.ringWrite loc a bs).inForce = s.inForce :=
  (s.onlyReporting_ringWrite ..).inForce

/-! ## Messages, records and context faults (R104, R263, R366 to R375) -/

@[simp] theorem State.fireVec_inForce (s : State) (n v : Nat) : (s.fireVec n v).inForce = s.inForce := by simp [State.fireVec]

@[simp] theorem State.journal_inForce (s : State) (fn src kind detail : Nat) (digest : BitVec 128) :
    (s.journal fn src kind detail digest).inForce = s.inForce := by simp [State.journal]

@[simp] theorem State.sendOn_inForce (s : State) (p : Nat) (m : Msg) : (s.sendOn p m).inForce = s.inForce := by simp [State.sendOn]

theorem State.send_inForce {s t : State} {m : Msg} {origin : Option Nat} (h : s.send m origin = some t) : t.inForce = s.inForce := by
  simp only [State.send] at h
  split at h
  · obtain rfl := Option.some.inj h
    simp
  · cases h

@[simp] theorem State.sendOr_inForce (s : State) (m : Msg) (origin : Option Nat) : (s.sendOr m origin).inForce = s.inForce := by
  unfold State.sendOr
  cases h : s.send m origin with
  | none => rfl
  | some t => exact State.send_inForce h

@[simp] theorem State.sendNak_inForce (s : State) (m : Msg) (wire : Nat) : (s.sendNak m wire).inForce = s.inForce := by simp [State.sendNak]

@[simp] theorem State.collLose_inForce (s : State) : s.collLose.inForce = s.inForce := by simp [State.collLose]

theorem State.request_inForce {s t : State} {fn window g : Nat} {m : Msg} {why : RemoteWhy}
    (h : s.request fn m window g why = some t) : t.inForce = s.inForce := by
  obtain ⟨u, hu, rfl⟩ := Option.map_eq_some_iff.1 h
  exact State.send_inForce (t := u) hu

@[simp] theorem State.collAsk_inForce (s : State) (fuel : Nat) : (s.collAsk fuel).inForce = s.inForce :=
  (s.onlyReporting_collAsk ..).inForce

@[simp] theorem State.bmcSend_inForce (s : State) (cmd : Nat) (bs : List Byte) : (s.bmcSend cmd bs).inForce = s.inForce := by
  simp [State.bmcSend]

@[simp] theorem State.bmcServe_inForce (s : State) : (s.bmcServe).inForce = s.inForce :=
  (s.onlyReporting_bmcServe ..).inForce

@[simp] theorem State.record_inForce (s : State) (rep : Report) : (s.record rep).inForce = s.inForce :=
  (s.onlyReporting_record ..).inForce

@[simp] theorem State.violate_inForce (s : State) (port : Nat) (m : Msg) (wire : Nat) :
    (s.violate port m wire).inForce = s.inForce := by simp [State.violate]

@[simp] theorem State.saveCtx_inForce (s : State) (n : Nat) : (s.saveCtx n).inForce = s.inForce := by simp [State.saveCtx]

@[simp] theorem State.faultCtx_inForce (s : State) (n : Nat) (rep : Report) (core : Option Nat) :
    (s.faultCtx n rep core).inForce = s.inForce := by
  simp only [State.faultCtx]; split <;> simp

@[simp] theorem State.countHusk_inForce (s : State) (n : Nat) : (s.countHusk n).inForce = s.inForce := by simp [State.countHusk]

/-! ## Issue and register writes (R88 to R92, R107 to R112) -/

@[simp] theorem State.updThread_inForce (s : State) (core idx : Nat) (f : Thread → Thread) :
    (s.updThread core idx f).inForce = s.inForce := by simp [State.updThread]

@[simp] theorem State.waitData_inForce (s : State) (core : Nat) (reads : List Reg) (ms : List Nat) :
    (s.waitData core reads ms).inForce = s.inForce := by
  induction ms generalizing s with
  | nil => rfl
  | cons m ms ih => rw [State.waitData, ih]; split <;> simp

@[simp] theorem State.sheafFault_inForce (s : State) (core m : Nat) (st : Status) (word addr : Nat) :
    (s.sheafFault core m st word addr).inForce = s.inForce := by
  unfold State.sheafFault; split <;> simp

/-- Issue changes the configuration only as far as the instruction's own effect does. -/
@[simp] theorem State.issue_inForce {s : State} {i : Issue} {guard : BitVec 5} {e : Enc} {word : Nat} {act : State → List Nat → List Nat → State}
    (hact : ∀ t go on, (act t go on).inForce = t.inForce) : (s.issue i guard e word act).inForce = s.inForce := by
  simp [State.issue, hact]

@[simp] theorem State.nextPc_inForce (s : State) (core : Nat) (ms : List Nat) : (s.nextPc core ms).inForce = s.inForce := by
  simp [State.nextPc]

@[simp] theorem State.laneWrite_inForce (s : State) (core : Nat) (srcs : List (List Reg)) (dst : List Reg) (f : LaneFn) (ms : List Nat) :
    (s.laneWrite core srcs dst f ms).inForce = s.inForce := by
  induction ms generalizing s with
  | nil => rfl
  | cons m ms ih => rw [State.laneWrite, ih, State.updSlot_inForce]

@[simp] theorem State.lanePend_inForce (s : State) (core : Nat) (srcs : List (List Reg)) (dst : List Reg) (f : LaneFn) (ms : List Nat) :
    (s.lanePend core srcs dst f ms).inForce = s.inForce := by
  induction ms generalizing s with
  | nil => rfl
  | cons m ms ih => rw [State.lanePend, ih, State.updSlot_inForce]

@[simp] theorem State.compute_inForce (s : State) (xu bound : Bool) (i : Issue) (guard : BitVec 5) (word : Nat) (legal : Bool)
    (srcs : List (Option (List Reg))) (dst : Option (List Reg)) (f : LaneFn) :
    (s.compute xu bound i guard word legal srcs dst f).inForce = s.inForce := by simp [State.compute]

/-! ## Numeric flags and predicates (R52, R108) -/

@[simp] theorem State.orFlags_inForce (s : State) (ctx : Nat) (fl : Word) : (s.orFlags ctx fl).inForce = s.inForce := by simp [State.orFlags]

@[simp] theorem State.predWrite_inForce (s : State) (core n : Nat) (f : Slot → Nat → Bool) (ms : List Nat) :
    (s.predWrite core n f ms).inForce = s.inForce := by
  induction ms generalizing s with
  | nil => rfl
  | cons m ms ih => rw [State.predWrite, ih]; split <;> simp

/-! ## Control transfers, exit and barriers (R86, R98 to R100) -/

@[simp] theorem State.writeBackNear_inForce (s : State) (core : Nat) : (s.writeBackNear core).inForce = s.inForce := by
  simp [State.writeBackNear]

@[simp] theorem State.flushNear_inForce (s : State) (core : Nat) : (s.flushNear core).inForce = s.inForce := by simp [State.flushNear]

@[simp] theorem State.dropClean_inForce (s : State) (core : Nat) : (s.dropClean core).inForce = s.inForce := by simp [State.dropClean]

@[simp] theorem State.freeSlot_inForce (s : State) (core slot ctx : Nat) : (s.freeSlot core slot ctx).inForce = s.inForce := by
  simp [State.freeSlot]

@[simp] theorem State.updEntry_inForce (s : State) (e : EntryRef) (f : QEntry → QEntry) : (s.updEntry e f).inForce = s.inForce := by
  simp [State.updEntry]

@[simp] theorem State.endSheaf_inForce (s : State) (core slot : Nat) : (s.endSheaf core slot).inForce = s.inForce := by
  unfold State.endSheaf
  repeat' split
  all_goals simp

@[simp] theorem State.testBar_inForce (s : State) (core slot m word : Nat) : (s.testBar core slot m word).inForce = s.inForce := by
  unfold State.testBar
  repeat' split
  all_goals simp

@[simp] theorem State.branch_inForce {s : State} {core ctx : Nat} {go on : List Nat} {word : Nat} {target : Nat → DWord} {link : State → State}
    (hlink : ∀ t, (link t).inForce = t.inForce) : (s.branch core ctx go on word target link).inForce = s.inForce := by
  unfold State.branch; split <;> simp [hlink]

/-! ## Loads, stores, atomics and fences (R117 to R120, R142 to R147) -/

@[simp] theorem State.nearRoom_inForce (s : State) (core line : Nat) : (s.nearRoom core line).inForce = s.inForce := by simp [State.nearRoom]

@[simp] theorem State.nearFill_inForce (s : State) (core a : Nat) : (s.nearFill core a).inForce = s.inForce := by simp [State.nearFill]

@[simp] theorem State.nearStore_inForce (s : State) (core a : Nat) (bs : List Byte) :
    (s.nearStore core a bs).inForce = s.inForce := by simp [State.nearStore]

@[simp] theorem State.issueRemote_inForce (s : State) (r : MemReq) (window g : Nat) : (s.issueRemote r window g).inForce = s.inForce := by
  unfold State.issueRemote
  split
  · next t h => exact State.request_inForce h
  · simp

@[simp] theorem State.huskFault_inForce (s : State) (core slot thread ctx : Nat) (pc : DWord) (word addr : Nat) :
    (s.huskFault core slot thread ctx pc word addr).inForce = s.inForce := by simp [State.huskFault]

@[simp] theorem State.deliver_inForce (s : State) (r : MemReq) (v : Nat) : (s.deliver r v).inForce = s.inForce := by simp [State.deliver]

@[simp] theorem State.newTag_inForce (s : State) : s.newTag.inForce = s.inForce := by simp [State.newTag]

@[simp] theorem State.await_inForce (s : State) (core m tag : Nat) (d : List Reg) : (s.await core m tag d).inForce = s.inForce := by
  simp [State.await]

@[simp] theorem State.loadOne_inForce (s : State) (core ctx m a size : Nat) (sext : Bool) (hint word : Nat) (d : List Reg) :
    (s.loadOne core ctx m a size sext hint word d).inForce = s.inForce := by
  simp only [State.loadOne]
  repeat' split
  all_goals simp

@[simp] theorem State.storeOne_inForce (s : State) (core ctx m a size v hint word : Nat) :
    (s.storeOne core ctx m a size v hint word).inForce = s.inForce := by
  unfold State.storeOne
  repeat' split
  all_goals simp

/-! ## Home slices, ordered accumulation and scrub (R147 to R157, R171) -/

@[simp] theorem State.countCode_inForce (s : State) (a : Nat) (f : Fn → Fn) : (s.countCode a f).inForce = s.inForce := by
  unfold State.countCode; split <;> simp

@[simp] theorem State.readWord_inForce (s : State) (w : Nat) (st : WordState) (symbols : Nat) :
    (s.readWord w st symbols).inForce = s.inForce := by
  cases st with
  | bad syn => exact (State.record_inForce ..).trans ((State.countCode_inForce ..).trans (State.setHusks_inForce ..))
  | husk => exact State.setHusks_inForce ..
  | clean | single =>
    unfold State.readWord
    dsimp only
    rw [State.inForce_ite]
    simp

@[simp] theorem State.spoil_inForce (s : State) (qs : List (Nat × OrdSeq)) : (s.spoil qs).inForce = s.inForce := by
  induction qs generalizing s with
  | nil => rfl
  | cons q qs ih => rw [State.spoil, ih]; simp

@[simp] theorem State.acceptStore_inForce (s : State) (a size v hint : Nat) : (s.acceptStore a size v hint).inForce = s.inForce := by
  simp [State.acceptStore]

@[simp] theorem State.acceptAtom_inForce (s : State) (op a v cmp hint : Nat) :
    (s.acceptAtom op a v cmp hint).2.inForce = s.inForce := by simp [State.acceptAtom]

@[simp] theorem State.serve_inForce (s : State) (r : MemReq) : (s.serve r).inForce = s.inForce := by
  unfold State.serve; split <;> simp

@[simp] theorem State.bring_inForce (s : State) (line hint : Nat) : (s.bring line hint).inForce = s.inForce := by
  simp only [State.bring]
  repeat' split
  all_goals simp

@[simp] theorem State.homeAccess_inForce (s : State) (n : Nat) : (s.homeAccess n).inForce = s.inForce := by
  simp only [State.homeAccess]
  repeat' split
  all_goals simp

@[simp] theorem State.fill_inForce (s : State) (line : Nat) (words : List WordState) : (s.fill line words).inForce = s.inForce := by
  simp only [State.fill]
  repeat' split
  all_goals simp

@[simp] theorem State.addTo_inForce (s : State) (op addr v : Nat) : (s.addTo op addr v).inForce = s.inForce := by simp [State.addTo]

@[simp] theorem State.drainSeq_inForce (s : State) (addr fuel : Nat) : (s.drainSeq addr fuel).inForce = s.inForce := by
  induction fuel generalizing s with
  | zero => rfl
  | succ fuel ih =>
    unfold State.drainSeq
    repeat' split
    all_goals simp [ih]

@[simp] theorem State.closeSeq_inForce (s : State) (addr : Nat) : (s.closeSeq addr).inForce = s.inForce := by
  unfold State.closeSeq; split <;> simp

@[simp] theorem State.respond_inForce (s : State) (m : Msg) (op cls : Nat) (words : List CodeWord) :
    (s.respond m op cls words).inForce = s.inForce := by simp [State.respond]

@[simp] theorem State.ordered_inForce (s : State) (n : Nat) : (s.ordered n).inForce = s.inForce := by
  simp only [State.ordered]
  repeat' split
  all_goals simp

@[simp] theorem State.resend_inForce (s : State) (r : MemReq) : (s.resend r).inForce = s.inForce := by simp [State.resend]

/-! ## Feeds, drains, reshapes and releases at issue (R61 to R80) -/

@[simp] theorem State.gridFault_inForce (s : State) (core m : Nat) (st : Status) (word : Nat) :
    (s.gridFault core m st word).inForce = s.inForce := by simp [State.gridFault]

@[simp] theorem State.addEdge_inForce (s : State) (gid ctx : Nat) (e : EdgeFeed) : (s.addEdge gid ctx e).inForce = s.inForce := by
  simp [State.addEdge]

@[simp] theorem State.whole_inForce {s : State} {i : Issue} {ins : WholeIns} {guard : BitVec 5} {e : Enc} {word : Nat} {act : State → State}
    (hact : ∀ t, (act t).inForce = t.inForce) : (s.whole i ins guard e word act).inForce = s.inForce := by
  unfold State.whole
  extract_lets slot fire
  have hfire : ∀ t, (fire t).inForce = t.inForce := fun t => by
    unfold fire; split <;> simp [hact]
  simp [hfire]

@[simp] theorem State.closeFeed_inForce (s : State) (core slot ctx : Nat) (o : OpenFeed) :
    (s.closeFeed core slot ctx o).inForce = s.inForce := by simp [State.closeFeed]

@[simp] theorem State.takeFragment_inForce (s : State) (core slot ctx : Nat) (r : List Reg) (o : OpenFeed) :
    (s.takeFragment core slot ctx r o).inForce = s.inForce := by
  unfold State.takeFragment; split <;> simp

@[simp] theorem State.feedrAct_inForce (s : State) (core m ctx : Nat) (f : FormT) :
    (s.feedrAct core m ctx f).inForce = s.inForce := by
  simp only [State.feedrAct]
  repeat' split
  all_goals simp

@[simp] theorem State.streamBring_inForce (s : State) (ctx d fmt : Nat) : (s.streamBring ctx d fmt).inForce = s.inForce := by
  simp [State.streamBring]

@[simp] theorem State.streamDead_inForce (s : State) (ctx d fmt : Nat) : (s.streamDead ctx d fmt).inForce = s.inForce := by
  simp [State.streamDead]

@[simp] theorem State.streamFault_inForce (s : State) (core ctx m : Nat) (pc : DWord) (st : Status) (word addr : Nat) :
    (s.streamFault core ctx m pc st word addr).inForce = s.inForce := by simp [State.streamFault]

@[simp] theorem State.askLines_inForce (s : State) (ctx id hint : Nat) (lines : List Nat) : (s.askLines ctx id hint lines).inForce = s.inForce := by
  induction lines generalizing s with
  | nil => rfl
  | cons line r ih =>
    simp only [State.askLines]
    split
    · next t h => rw [ih, State.request_inForce h]
    · simp

@[simp] theorem State.addDrain_inForce (s : State) (gid : Nat) (dr : Drain) : (s.addDrain gid dr).inForce = s.inForce := by
  simp [State.addDrain]

@[simp] theorem State.drainGo_inForce (s : State) (core m ctx : Nat) (f : FormT) (takers : List Nat) :
    (s.drainGo core m ctx f takers).inForce = s.inForce := by
  simp only [State.drainGo]
  repeat' split
  all_goals simp

@[simp] theorem State.drainAct_inForce (s : State) (core slot ctx : Nat) (f : FormT) :
    (s.drainAct core slot ctx f).inForce = s.inForce := by
  unfold State.drainAct; split <;> simp

@[simp] theorem State.wholeIssue_inForce (s : State) (core slot : Nat) : (s.wholeIssue core slot).inForce = s.inForce := by
  simp only [State.wholeIssue]
  repeat' split
  all_goals simp

@[simp] theorem State.reshapeStatus_inForce (s : State) (r : Reshape) (st : Status) :
    (s.reshapeStatus r st).inForce = s.inForce := by
  unfold State.reshapeStatus
  repeat' split
  all_goals simp

@[simp] theorem State.startReshape_inForce (s : State) (r : Reshape) : (s.startReshape r).inForce = s.inForce := by
  unfold State.startReshape
  repeat' split
  all_goals simp

@[simp] theorem State.settleRelease_inForce (s : State) (gid : Nat) : (s.settleRelease gid).inForce = s.inForce := by
  simp [State.settleRelease]

/-! ## The grid (R53 to R83) -/

@[simp] theorem State.settleSlot_inForce (s : State) (core slot : Nat) : (s.settleSlot core slot).inForce = s.inForce := by
  simp [State.settleSlot]

@[simp] theorem State.arrayStart_inForce (s : State) (gid rows cols : Nat) : (s.arrayStart gid rows cols).inForce = s.inForce := by
  simp [State.arrayStart]

@[simp] theorem State.acceptFeed_inForce (s : State) (gid : Nat) (side bank : Bool) :
    (s.acceptFeed gid side bank).inForce = s.inForce := by
  simp only [State.acceptFeed]
  repeat' split
  all_goals simp

@[simp] theorem State.cellFire_inForce (s : State) (gid row col : Nat) : (s.cellFire gid row col).inForce = s.inForce := by
  simp only [State.cellFire]
  repeat' split
  all_goals simp

@[simp] theorem State.rangeWrite_inForce (s : State) (p : Part) (fuel x : Nat) (bs : List Byte) :
    (s.rangeWrite p fuel x bs).inForce = s.inForce := by
  induction fuel generalizing s x bs with
  | zero => rfl
  | succ fuel ih => simp [State.rangeWrite, ih]

@[simp] theorem State.saveCapture_inForce (s : State) (v : Shadow) (c1 c2 : List Word × List Word) :
    (s.saveCapture v c1 c2).inForce = s.inForce := by
  unfold State.saveCapture; split <;> simp

@[simp] theorem State.sample_inForce (s : State) (v : Shadow) (fn : Nat) : (s.sample v fn).inForce = s.inForce := by
  simp only [State.sample]
  repeat' split
  all_goals simp

@[simp] theorem State.landDrain_inForce (s : State) (core slot tag : Nat) (takers outs : List Nat) :
    (s.landDrain core slot tag takers outs).inForce = s.inForce := by
  unfold State.landDrain; split <;> simp

@[simp] theorem State.completeDrain_inForce (s : State) (gid core : Nat) : (s.completeDrain gid core).inForce = s.inForce := by
  simp only [State.completeDrain]
  repeat' split
  all_goals simp

@[simp] theorem State.elementWise_inForce (s : State) (gid row : Nat) (x y ncw : Word) (dcw : DWord) (doff : Nat) (tid : Word) (elem : DWord) :
    (s.elementWise gid row x y ncw dcw doff tid elem).inForce = s.inForce := by
  unfold State.elementWise; split <;> simp

@[simp] theorem State.nextReshape_inForce (s : State) (tract : Nat) : (s.nextReshape tract).inForce = s.inForce := by
  unfold State.nextReshape; split <;> simp

@[simp] theorem State.nextReshapes_inForce (s : State) (tract fuel : Nat) : (s.nextReshapes tract fuel).inForce = s.inForce := by
  induction fuel generalizing s with
  | zero => rfl
  | succ fuel ih => rw [State.nextReshapes, ih, State.nextReshape_inForce]

@[simp] theorem State.completeReshape_inForce (s : State) (tract : Nat) : (s.completeReshape tract).inForce = s.inForce := by
  unfold State.completeReshape; split <;> simp

/-! ## Spars (R282 to R302) -/

@[simp] theorem State.updWaiter_inForce (s : State) (w : Waiter) (f : Slot → Slot) : (s.updWaiter w f).inForce = s.inForce := by
  unfold State.updWaiter; split <;> simp

@[simp] theorem State.saveWait_inForce (s : State) (w : Waiter) : (s.saveWait w).inForce = s.inForce := by
  unfold State.saveWait; split <;> simp

@[simp] theorem State.updWait_inForce (s : State) (w : Waiter) (f : Thread → Thread) : (s.updWait w f).inForce = s.inForce := by
  simp [State.updWait]

@[simp] theorem State.resume_inForce (s : State) (w : Waiter) (status : Word) (code : Nat) :
    (s.resume w status code).inForce = s.inForce := by simp [State.resume]

@[simp] theorem State.depart_inForce (s : State) (p : Nat) (w : Waiter) : (s.depart p w).inForce = s.inForce := by simp [State.depart]

@[simp] theorem State.evaluate_inForce (s : State) (p fuel : Nat) : (s.evaluate p fuel).inForce = s.inForce := by
  induction fuel generalizing s with
  | zero => rfl
  | succ fuel ih => simp [State.evaluate, ih]

@[simp] theorem State.afterOp_inForce (s : State) (p : Nat) : (s.afterOp p).inForce = s.inForce := by simp [State.afterOp]

theorem State.addSpar_inForce {s t : State} {p : Nat} {delta old : DWord} (h : s.addSpar p delta = .ok (old, t)) : t.inForce = s.inForce := by
  simp only [State.addSpar] at h
  split at h
  · obtain ⟨-, rfl⟩ := Prod.mk.inj (Except.ok.inj h); rfl
  · split at h
    · cases h
    · split at h
      · cases h
      · split at h
        · cases h
        · obtain ⟨-, rfl⟩ := Prod.mk.inj (Except.ok.inj h); simp

@[simp] theorem State.tryFreeSpar_inForce (s : State) (p : Nat) : (s.tryFreeSpar p).inForce = s.inForce := by simp [State.tryFreeSpar]

@[simp] theorem State.abandon_inForce (s : State) (p : Nat) : (s.abandon p).inForce = s.inForce := by simp [State.abandon]

@[simp] theorem State.withdraw_inForce (s : State) (p ctx : Nat) : (s.withdraw p ctx).inForce = s.inForce := by simp [State.withdraw]

@[simp] theorem State.sparStop_inForce (s : State) (ctx : Nat) : (s.sparStop ctx).inForce = s.inForce := by
  simp [State.sparStop]

@[simp] theorem State.clearMap_inForce (s : State) (p ctx lid : Nat) : (s.clearMap p ctx lid).inForce = s.inForce := by simp [State.clearMap]

@[simp] theorem State.clearMaps_inForce (s : State) (ctx : Nat) : (s.clearMaps ctx).inForce = s.inForce := by simp [State.clearMaps]

@[simp] theorem State.restoreSpar_inForce (s : State) (p : Nat) : (s.restoreSpar p).inForce = s.inForce := by simp [State.restoreSpar]

@[simp] theorem State.sparFault_inForce (s : State) (o : SparOp) (st : Status) : (s.sparFault o st).inForce = s.inForce := by
  simp [State.sparFault]

@[simp] theorem State.sparReply_inForce (s : State) (o : SparOp) (v : DWord) : (s.sparReply o v).inForce = s.inForce := by
  simp [State.sparReply]

@[simp] theorem State.arrive_inForce (s : State) (p : Nat) (o : SparOp) :
    (s.arrive p o).inForce = s.inForce := by
  simp only [State.arrive]
  split
  · simp
  · split
    · simp
    · split <;> simp

@[simp] theorem State.applySpar_inForce (s : State) (p : Nat) (o : SparOp) : (s.applySpar p o).inForce = s.inForce := by
  unfold State.applySpar
  dsimp only
  split
  · simp
  · split
    · split
      · next h => simp [State.addSpar_inForce h]
      · simp
    · simp
    · simp
    · simp

@[simp] theorem State.sparIssue_inForce (s : State) (i : Issue) (f : FormT) (opc : Nat) (e : Enc) (ra rb d : List Reg) (park : Option Nat)
    (act : DWord → SparAct) : (s.sparIssue i f opc e ra rb d park act).inForce = s.inForce := by
  refine State.issue_inForce fun t go on => ?_
  split
  · simp
  · refine (State.nextPc_inForce ..).trans (State.inForce_foldl (fun u m => ?_) _ _)
    dsimp only
    repeat' split
    all_goals simp

@[simp] theorem State.exitToken_inForce (s : State) (core m : Nat) : (s.exitToken core m).inForce = s.inForce := by
  unfold State.exitToken; split <;> simp

/-! ## Objects, hoard and mailboxes of sheaves (R127, R128, R132, R179 to R187, R337 to R342) -/

@[simp] theorem State.updObjTab_inForce (s : State) (fn : Nat) (f : ObjTab → ObjTab) : (s.updObjTab fn f).inForce = s.inForce := by
  simp [State.updObjTab]

@[simp] theorem State.zeroHeap_inForce (s : State) (p : Part) (ddr : Bool) (part gen x n : Nat) :
    (s.zeroHeap p ddr part gen x n).inForce = s.inForce := by
  induction n generalizing s x with
  | zero => rfl
  | succ n ih => rw [State.zeroHeap, ih, State.writeObj_inForce]

theorem State.alloc_inForce {s t : State} {ctx size alog h b : Nat} {ddr zero : Bool} (ht : s.alloc ctx size ddr alog zero = .ok (h, b, t)) :
    t.inForce = s.inForce := by
  simp only [State.alloc] at ht
  repeat' split at ht
  all_goals cases ht
  all_goals simp

@[simp] theorem State.freeObj_inForce (s : State) (fn idx : Nat) : (s.freeObj fn idx).inForce = s.inForce := by
  unfold State.freeObj; split <;> simp

@[simp] theorem State.dropHold_inForce (s : State) (fn idx ctx : Nat) : (s.dropHold fn idx ctx).2.inForce = s.inForce := by
  simp only [State.dropHold]
  repeat' split
  all_goals simp

@[simp] theorem State.dropHolds_inForce (s : State) (ctx : Nat) : (s.dropHolds ctx).inForce = s.inForce := by simp [State.dropHolds]

@[simp] theorem State.result'_inForce (s : State) (core m : Nat) (d : List Reg) (vs : List Word) :
    (s.result' core m d vs).inForce = s.inForce := by simp [State.result']

@[simp] theorem State.freeAll_inForce (s : State) (core fn word : Nat) (ra : List Reg) (ms : List Nat) :
    (s.freeAll core fn word ra ms).1.inForce = s.inForce := by
  induction ms generalizing s with
  | nil => rfl
  | cons m ms ih =>
    unfold State.freeAll
    split
    · rw [ih, State.freeObj_inForce]
    · exact State.sheafFault_inForce ..

@[simp] theorem State.updHoard_inForce (s : State) (fn : Nat) (f : Hoard → Hoard) : (s.updHoard fn f).inForce = s.inForce := by
  simp [State.updHoard]

@[simp] theorem State.mapWrite_inForce (s : State) (fn off : Nat) (bs : List Byte) : (s.mapWrite fn off bs).inForce = s.inForce := by
  unfold State.mapWrite
  repeat' split
  all_goals simp

@[simp] theorem State.mapPut_inForce (s : State) (fn job block disp : Nat) : (s.mapPut fn job block disp).inForce = s.inForce := by
  unfold State.mapPut
  repeat' split
  all_goals simp

@[simp] theorem State.hoardLog_inForce (s : State) (fn ctx : Nat) (st : Status) (block : Nat) (exhaust : Bool) :
    (s.hoardLog fn ctx st block exhaust).inForce = s.inForce := by simp [State.hoardLog]

@[simp] theorem State.hoardStep_inForce (s : State) (fn job step : Nat) : (s.hoardStep fn job step).inForce = s.inForce := by
  simp only [State.hoardStep, State.inForce_ite, State.mapWrite_inForce, State.updHoard_inForce, ite_self]

@[simp] theorem State.spill_inForce (s : State) (fn ctx need hbm t2 fuel : Nat) : (s.spill fn ctx need hbm t2 fuel).inForce = s.inForce := by
  induction fuel generalizing s with
  | zero => rfl
  | succ fuel ih =>
    simp only [State.spill]
    split
    · rfl
    · split
      · simp [ih]
      · rfl

@[simp] theorem State.shed_inForce (s : State) (fn job d need hbm fuel : Nat) : (s.shed fn job d need hbm fuel).inForce = s.inForce := by
  induction fuel generalizing s with
  | zero => rfl
  | succ fuel ih =>
    simp only [State.shed]
    split
    · rfl
    · split <;> simp [ih]

@[simp] theorem State.hoardPlace_inForce (s : State) (fn ctx job block need : Nat) :
    (s.hoardPlace fn ctx job block need).2.inForce = s.inForce := by
  simp only [State.hoardPlace]
  repeat' split
  all_goals simp

@[simp] theorem State.hput_inForce (s : State) (ctx block len : Nat) (ps : List (Nat × Nat)) :
    (s.hput ctx block len ps).2.inForce = s.inForce := by
  simp only [State.hput]; split <;> simp

@[simp] theorem State.writeHusked_inForce (s : State) (ps : List (Nat × Nat)) (bs : List Byte) (bad : List Nat) :
    (s.writeHusked ps bs bad).inForce = s.inForce := by
  unfold State.writeHusked
  exact (foldl_inForce Prod.snd (fun _ _ => by simp) ps _).trans (by simp)

@[simp] theorem State.hget_inForce (s : State) (ctx block len : Nat) (ps : List (Nat × Nat)) :
    (s.hget ctx block len ps).2.2.inForce = s.inForce := by
  simp only [State.hget]
  split
  · simp
  · split
    · rfl
    · split <;> simp

@[simp] theorem State.hoardIssue_inForce {s : State} {i : Issue} {f : FormT} {opc w : Nat} {k : Acc}
    {act : State → Nat → Nat → Nat → List (Nat × Nat) → Nat × State}
    (hact : ∀ t ctx block len ps, (act t ctx block len ps).2.inForce = t.inForce) :
    (s.hoardIssue i f opc w k act).inForce = s.inForce := by
  refine State.issue_inForce fun t go on => ?_
  dsimp only
  repeat' split
  all_goals simp [hact]

@[simp] theorem State.mbxReply_inForce (s : State) (q : MbxPark) (st : Status) : (s.mbxReply q st).inForce = s.inForce := by
  simp [State.mbxReply]

@[simp] theorem State.mbxWake_inForce (s : State) (q : MbxPark) : (s.mbxWake q).inForce = s.inForce := by simp [State.mbxWake]

@[simp] theorem State.mbxSend_inForce (s : State) (fn ch : Nat) (q : MbxPark) : (s.mbxSend fn ch q).inForce = s.inForce := by
  simp [State.mbxSend]

@[simp] theorem State.mbxRecv_inForce (s : State) (fn ch : Nat) (q : MbxPark) : (s.mbxRecv fn ch q).inForce = s.inForce := by
  simp [State.mbxRecv]

@[simp] theorem State.mbxServe_inForce (s : State) (fn ch : Nat) : (s.mbxServe fn ch).inForce = s.inForce := by
  simp only [State.mbxServe]; split <;> simp

@[simp] theorem State.mbxIssue_inForce (s : State) (i : Issue) (f : FormT) (opc : Nat) (send : Bool) :
    (s.mbxIssue i f opc send).inForce = s.inForce := by
  refine State.issue_inForce fun t go on => ?_
  split <;> simp

/-! ## Submission entries and completions (R313 to R318) -/

@[simp] theorem State.queueError_inForce (s : State) (fn q : Nat) (st : Status) : (s.queueError fn q st).inForce = s.inForce := by
  simp [State.queueError]

@[simp] theorem State.completionPost_inForce (s : State) (fn q : Nat) : (s.completionPost fn q).inForce = s.inForce := by
  simp only [State.completionPost]; split <;> simp

@[simp] theorem State.flushPosts_inForce (s : State) (fn q : Nat) : (s.flushPosts fn q).inForce = s.inForce := by simp [State.flushPosts]

@[simp] theorem State.settleQueue_inForce (s : State) (fn q : Nat) : (s.settleQueue fn q).inForce = s.inForce := by simp [State.settleQueue]

@[simp] theorem State.postAll_inForce (s : State) (fn q : Nat) (p : QEntry → Option (Status × Word)) :
    (s.postAll fn q p).inForce = s.inForce := by simp [State.postAll]

@[simp] theorem State.conclude_inForce (s : State) (e : EntryRef) : (s.conclude e).inForce = s.inForce := by
  unfold State.conclude
  repeat' split
  all_goals simp

@[simp] theorem State.endUnrun_inForce (s : State) (e : EntryRef) (st : Status) : (s.endUnrun e st).inForce = s.inForce := by
  simp [State.endUnrun]

@[simp] theorem State.endNow_inForce (s : State) (e : EntryRef) (st : Status) : (s.endNow e st).inForce = s.inForce := by simp [State.endNow]

@[simp] theorem State.ran_inForce (s : State) (e : EntryRef) (st : Status) (res : Nat) : (s.ran e st res).inForce = s.inForce := by
  simp [State.ran]

@[simp] theorem State.entryFault_inForce (s : State) (e : EntryRef) (x : QEntry) (rep : Report) :
    (s.entryFault e x rep).inForce = s.inForce := by simp [State.entryFault]

@[simp] theorem State.begin_inForce {s : State} {e : EntryRef} {opc : Nat} {act : State → QEntry → State}
    (hact : ∀ t x, (act t x).inForce = t.inForce) : (s.begin e opc act).inForce = s.inForce := by
  unfold State.begin
  repeat' split
  all_goals simp [hact]

@[simp] theorem State.signal_inForce (s : State) (e : EntryRef) (x : QEntry) : (s.signal e x).inForce = s.inForce := by
  unfold State.signal
  split
  · rfl
  · dsimp only
    split
    · simp
    · split
      · next h => exact State.addSpar_inForce h
      · simp

/-! ## Placing, swapping and stopping work (R83, R85, R102 to R105) -/

@[simp] theorem State.wakeCourse_inForce (s : State) (course : Nat) : (s.wakeCourse course).inForce = s.inForce := by simp [State.wakeCourse]

@[simp] theorem State.sheafPlace_inForce (s : State) (e : EntryRef) (core : Nat) : (s.sheafPlace e core).inForce = s.inForce := by
  unfold State.sheafPlace
  repeat' split
  all_goals simp

@[simp] theorem State.moveWaiters_inForce (s : State) (f : Waiter → Waiter) : (s.moveWaiters f).inForce = s.inForce := by
  simp [State.moveWaiters]

@[simp] theorem State.swapOut_inForce (s : State) (core slot : Nat) : (s.swapOut core slot).inForce = s.inForce := by
  unfold State.swapOut; split <;> simp

@[simp] theorem State.sheafRestore_inForce (s : State) (core n : Nat) : (s.sheafRestore core n).inForce = s.inForce := by
  unfold State.sheafRestore
  repeat' split
  all_goals simp

@[simp] theorem State.orphan_inForce (s : State) (core slot : Nat) : (s.orphan core slot).inForce = s.inForce := by simp [State.orphan]

@[simp] theorem State.withdrawSheaf_inForce (s : State) (ws : List Waiter) : (s.withdrawSheaf ws).inForce = s.inForce := by
  simp [State.withdrawSheaf]

@[simp] theorem State.clearBlock_inForce (s : State) (ctx block : Nat) : (s.clearBlock ctx block).inForce = s.inForce :=
  State.writeBytes_inForce ..

@[simp] theorem State.unparkMbx_inForce (s : State) (core slot : Nat) : (s.unparkMbx core slot).inForce = s.inForce := by
  simp [State.unparkMbx]

@[simp] theorem State.dropSheaf_inForce (s : State) (core slot : Nat) : (s.dropSheaf core slot).inForce = s.inForce := by
  unfold State.dropSheaf; split <;> simp

@[simp] theorem State.dropSaved_inForce (s : State) (ctx : Nat) (v : Saved) : (s.dropSaved ctx v).inForce = s.inForce := by
  simp [State.dropSaved]

@[simp] theorem State.dropSheaves_inForce (s : State) (p : Slot → Bool) : (s.dropSheaves p).inForce = s.inForce := by
  simp [State.dropSheaves]

@[simp] theorem State.clearGang_inForce (s : State) (gid : Nat) : (s.clearGang gid).inForce = s.inForce := by simp [State.clearGang]

@[simp] theorem State.clearGangs_inForce (s : State) (ctx : Nat) : (s.clearGangs ctx).inForce = s.inForce := by simp [State.clearGangs]

/-! ## Jobs and gutter messages (R216 to R226) -/

@[simp] theorem State.nakNote_inForce (s : State) (fn j port : Nat) (src : BitVec 16) (wire : Nat) :
    (s.nakNote fn j port src wire).inForce = s.inForce := by
  unfold State.nakNote; split <;> simp

@[simp] theorem State.gutterSend_inForce (s : State) (fn j : Nat) (b : Job) (ring : Option Nat) (dest : Member) (h : GHdr) (body : List CodeWord) :
    (s.gutterSend fn j b ring dest h body).inForce = s.inForce := by
  simp only [State.gutterSend]; split <;> simp

@[simp] theorem State.spread_inForce (s : State) (fn j : Nat) (b : Job) (h : GHdr) (body : List CodeWord) :
    (s.spread fn j b h body).inForce = s.inForce := by simp [State.spread]

@[simp] theorem State.take_inForce (s : State) (port : Nat) (m : Msg) : (s.take port m).inForce = s.inForce := by
  simp only [State.take]
  repeat' split
  all_goals simp

@[simp] theorem State.quarantined_inForce (s : State) (port : Nat) (m : Msg) : (s.quarantined port m).inForce = s.inForce := by
  simp [State.quarantined]

@[simp] theorem State.receive_inForce {s : State} {port op : Nat} {m : Msg} {act : State → State} (hact : ∀ t, (act t).inForce = t.inForce) :
    (s.receive port m op act).inForce = s.inForce := by
  simp [State.receive, hact]

@[simp] theorem State.stale_inForce (s : State) (port : Nat) (m : Msg) (fn j : Nat) (b : Job) :
    (s.stale port m fn j b).inForce = s.inForce := by simp [State.stale]

@[simp] theorem State.gutter_inForce {s : State} {port type : Nat} {m : Msg} {act : State → Nat → Nat → Job → GHdr → State}
    (hact : ∀ t fn j b h, (act t fn j b h).inForce = t.inForce) : (s.gutter port m type act).inForce = s.inForce := by
  refine State.receive_inForce fun t => ?_
  dsimp only
  repeat' split
  all_goals simp [hact]

@[simp] theorem State.agentNote_inForce (s : State) (fn j key : Nat) (st : Status) (unit p : Nat) (delta : DWord) :
    (s.agentNote fn j key st unit p delta).inForce = s.inForce := by
  unfold State.agentNote; split <;> simp

@[simp] theorem State.setSpar_inForce (s : State) (p : Nat) (v : DWord) : (s.setSpar p v).inForce = s.inForce := by simp [State.setSpar]

@[simp] theorem State.agentOp_inForce (s : State) (fn j key unit : Nat) (sp : Option AgSpar) (op : AgentOp) :
    (s.agentOp fn j key unit sp op).inForce = s.inForce := by
  unfold State.agentOp
  extract_lets delta
  split
  · exact State.agentNote_inForce ..
  · extract_lets x
    split
    · exact State.agentNote_inForce ..
    · split
      · rfl
      · split
        · exact State.agentNote_inForce ..
        · split
          · rfl
          · exact State.setSpar_inForce ..
          · split
            · next h => exact State.addSpar_inForce h
            · exact State.faultCtx_inForce ..

/-! ## Voids and replays (R241 to R244) -/

@[simp] theorem State.stopLaunches_inForce (s : State) (es : List EntryRef) (ctxs : List Nat) :
    (s.stopLaunches es ctxs).inForce = s.inForce := by simp [State.stopLaunches]

@[simp] theorem State.detachReshapes_inForce (s : State) (es : List EntryRef) : (s.detachReshapes es).inForce = s.inForce := by
  simp [State.detachReshapes]

@[simp] theorem State.rewind_inForce (s : State) (fn j step : Nat) (cause : Status) :
    (s.rewind fn j step cause).inForce = s.inForce := by simp [State.rewind]

@[simp] theorem State.endJobEntries_inForce (s : State) (fn j : Nat) (st : Status) :
    (s.endJobEntries fn j st).inForce = s.inForce := by simp [State.endJobEntries]

@[simp] theorem State.closeSeqs_inForce (s : State) (fn : Nat) : (s.closeSeqs fn).inForce = s.inForce := by simp [State.closeSeqs]

@[simp] theorem State.dropHoard_inForce (s : State) (fn job : Nat) : (s.dropHoard fn job).inForce = s.inForce := by simp [State.dropHoard]

@[simp] theorem State.markNorms_inForce (s : State) (fn j : Nat) (b : Job) (state : Nat) : (s.markNorms fn j b state).inForce = s.inForce := by
  simp [State.markNorms]

@[simp] theorem State.digestRecord_inForce (s : State) (b : Job) (flags : Nat) : (s.digestRecord b flags).inForce = s.inForce := by
  simp [State.digestRecord]

@[simp] theorem State.clearPre_inForce (s : State) (b : Job) : (s.clearPre b).inForce = s.inForce := by simp [State.clearPre]

@[simp] theorem State.dropEngineWork_inForce (s : State) (fn j : Nat) : (s.dropEngineWork fn j).inForce = s.inForce := by
  simp [State.dropEngineWork]

@[simp] theorem State.fenceTract_inForce (s : State) (fn tract core : Nat) (cause : Status) :
    (s.fenceTract fn tract core cause).inForce = s.inForce := by simp [State.fenceTract]

@[simp] theorem State.retire_inForce (s : State) (fn core : Nat) (jslot : Option Nat) (due : Bool) (cause : Status) :
    (s.retire fn core jslot due cause).inForce = s.inForce := by simp [State.retire]

@[simp] theorem State.dueRetires_inForce (s : State) (fn j : Nat) : (s.dueRetires fn j).inForce = s.inForce := by simp [State.dueRetires]

@[simp] theorem State.dropVerdicts_inForce (s : State) (fn j step : Nat) : (s.dropVerdicts fn j step).inForce = s.inForce := by
  unfold State.dropVerdicts
  exact (State.inForce_foldl (fun t v => by split <;> simp) _ _).trans (by simp)

@[simp] theorem State.redeliver_inForce (s : State) (ms : List (Nat × Msg)) : (s.redeliver ms).inForce = s.inForce := by
  simp [State.redeliver]

@[simp] theorem State.voidJob_inForce (s : State) (fn j : Nat) (cause : Status) (origin : Nat) (own halt : Bool) :
    (s.voidJob fn j cause origin own halt).inForce = s.inForce := by
  unfold State.voidJob; split <;> simp

@[simp] theorem State.raiseVoid_inForce (s : State) (fn j : Nat) (cause : Status) :
    (s.raiseVoid fn j cause).inForce = s.inForce := by
  unfold State.raiseVoid; split <;> simp

@[simp] theorem State.abortVoid_inForce (s : State) (ctx : Nat) : (s.abortVoid ctx).inForce = s.inForce := by
  unfold State.abortVoid; split <;> simp

@[simp] theorem State.replayStart_inForce (s : State) (fn j : Nat) : (s.replayStart fn j).inForce = s.inForce := by
  unfold State.replayStart
  repeat' split
  all_goals simp

/-! ## Contexts (R83, R105, R329 to R343) -/

@[simp] theorem State.abortEntry_inForce (s : State) (code : Status) (e : EntryRef × QEntry) :
    (s.abortEntry code e).inForce = s.inForce := by
  unfold State.abortEntry; split <;> simp

@[simp] theorem State.stopCtx_inForce (s : State) (ctx : Nat) : (s.stopCtx ctx).inForce = s.inForce := by simp [State.stopCtx]

@[simp] theorem State.ctxAbort_inForce (s : State) (ctx : Nat) : (s.ctxAbort ctx).inForce = s.inForce := by simp [State.ctxAbort]

@[simp] theorem State.startDestroy_inForce (s : State) (ctx : Nat) (self : Option EntryRef) :
    (s.startDestroy ctx self).inForce = s.inForce := by simp [State.startDestroy]

@[simp] theorem State.freeCtx_inForce (s : State) (ctx : Nat) : (s.freeCtx ctx).inForce = s.inForce := by simp [State.freeCtx]

@[simp] theorem State.destroyed_inForce (s : State) (ctx : Nat) : (s.destroyed ctx).inForce = s.inForce := by simp [State.destroyed]

@[simp] theorem State.enterSlot_inForce (s : State) (ctx : Nat) (out : Option Nat) : (s.enterSlot ctx out).inForce = s.inForce := by
  unfold State.enterSlot; split <;> simp

@[simp] theorem State.pageIn_inForce (s : State) (ctx : Nat) : (s.pageIn ctx).inForce = s.inForce := by
  simp only [State.pageIn]
  repeat' split
  all_goals simp

@[simp] theorem State.defineDefault_inForce (s : State) (fn : Nat) :
    (s.defineDefault fn).inForce = s.inForce := by
  unfold State.defineDefault
  split
  · rfl
  · refine (State.saveCtx_inForce ..).trans ?_
    rw [State.inForce_mk, State.inForce_fold]
    exact State.writeBytes_inForce ..

/-! ## The data path of the gutters (R222 to R237) -/

@[simp] theorem State.deadRead_inForce (s : State) (a len : Nat) : (s.deadRead a len).inForce = s.inForce := by
  simp [State.deadRead]

@[simp] theorem State.takeShare_inForce (s : State) (b : Job) (c : Nat) : (s.takeShare b c).2.inForce = s.inForce := by
  simp [State.takeShare]

@[simp] theorem State.tallyFault_inForce (s : State) (fn j : Nat) (unit loc : Nat) (detail : List Byte) :
    (s.tallyFault fn j unit loc detail).inForce = s.inForce := by simp [State.tallyFault]

@[simp] theorem State.shareSent_inForce (s : State) (fn j c : Nat) : (s.shareSent fn j c).inForce = s.inForce := by simp [State.shareSent]

@[simp] theorem State.passChunk_inForce (s : State) (fn j : Nat) (b : Job) (x : Sum) :
    (s.passChunk fn j b x).inForce = s.inForce := by
  simp only [State.passChunk]
  repeat' split
  all_goals simp

@[simp] theorem State.holdAhead_inForce (s : State) (port : Nat) (m : Msg) (fn j : Nat) (b : Job) (h : GHdr) :
    (s.holdAhead port m fn j b h).inForce = s.inForce := by simp [State.holdAhead]

@[simp] theorem State.holdEarly_inForce (s : State) (port : Nat) (m : Msg) (fn j : Nat) :
    (s.holdEarly port m fn j).inForce = s.inForce := by simp [State.holdEarly]

@[simp] theorem State.aged_inForce {s : State} {port fn j : Nat} {m : Msg} {b : Job} {h : GHdr} {now : State → State}
    (hnow : ∀ t, (now t).inForce = t.inForce) : (s.aged port m fn j b h now).inForce = s.inForce := by
  unfold State.aged; split <;> simp [hnow]

@[simp] theorem State.writeCode_inForce (s : State) (a : Nat) (ws : List CodeWord) : (s.writeCode a ws).inForce = s.inForce := by
  simp [State.writeCode]

@[simp] theorem State.putParams_inForce (s : State) (fn j : Nat) (b : Job) (i : Nat) (e : UpdEntry) (c mask : Nat) (body : List CodeWord) :
    (s.putParams fn j b i e c mask body).inForce = s.inForce := by simp [State.putParams]

@[simp] theorem State.sendBlocks_inForce (s : State) (fn j : Nat) (b : Job) (t : BStream) (type : Nat) (x : BSum) :
    (s.sendBlocks fn j b t type x).inForce = s.inForce := by
  simp [State.sendBlocks]

@[simp] theorem State.noteBlock_inForce (s : State) (fn j n seq blk : Nat) (lifts : Nat) (esc : Bool) :
    (s.noteBlock fn j n seq blk lifts esc).inForce = s.inForce := by
  unfold State.noteBlock; split <;> simp

@[simp] theorem State.hopBlocks_inForce (s : State) (fn j : Nat) (t : BStream) (x : BSum) (starting : Bool) :
    (s.hopBlocks fn j t x starting).2.inForce = s.inForce := by
  unfold State.hopBlocks
  extract_lets share all step
  have hstep : ∀ a k, (step a k).2.2.inForce = a.2.2.inForce := fun a k => by simp [step]
  exact foldl_inForce (fun a : List Blk × Bool × State => a.2.2) hstep (List.range 60) ([], x.ovf, s)

@[simp] theorem State.writeResult_inForce (s : State) (b : Job) (t : BStream) (x : BSum) : (s.writeResult b t x).inForce = s.inForce := by
  simp [State.writeResult]

@[simp] theorem State.streamMark_inForce (s : State) (fn j n : Nat) (keys : List Nat) :
    (s.streamMark fn j n keys).inForce = s.inForce := by
  unfold State.streamMark
  repeat' split
  all_goals simp

@[simp] theorem State.streamVoid_inForce (s : State) (fn j : Nat) (t : BStream) (cause : Status) :
    (s.streamVoid fn j t cause).inForce = s.inForce := by
  unfold State.streamVoid; split <;> simp

@[simp] theorem State.finishBlocks_inForce (s : State) (fn j : Nat) (b : Job) (t : BStream) (x : BSum) :
    (s.finishBlocks fn j b t x).inForce = s.inForce := by
  simp only [State.finishBlocks]; split <;> simp

@[simp] theorem State.blocks_inForce {s : State} {port type : Nat} {m : Msg} {act : State → Nat → Nat → Job → BStream → GHdr → State}
    (hact : ∀ t fn j b x h, (act t fn j b x h).inForce = t.inForce) : (s.blocks port m type act).inForce = s.inForce := by
  refine State.gutter_inForce fun t fn j b h => ?_
  extract_lets now
  have hnow : ∀ u, (now u).inForce = u.inForce := fun u => by unfold now; split <;> simp [hact]
  split <;> simp [hnow]

@[simp] theorem State.useEscapes_inForce (s : State) (fn j n c : Nat) : (s.useEscapes fn j n c).inForce = s.inForce := by
  simp [State.useEscapes]

/-! ## Update engines (R192 to R210) -/

@[simp] theorem State.addNorm_inForce (s : State) (a off : Nat) (v : DWord) : (s.addNorm a off v).inForce = s.inForce := by
  simp [State.addNorm]

@[simp] theorem State.openAttempt_inForce (s : State) (q fn j : Nat) (b : Job) : (s.openAttempt q fn j b).inForce = s.inForce := by
  simp [State.openAttempt]

@[simp] theorem State.engineHusk_inForce (s : State) (q fn j chunk : Nat) : (s.engineHusk q fn j chunk).inForce = s.inForce := by
  simp [State.engineHusk]

@[simp] theorem State.engineNonfinite_inForce (s : State) (q fn j : Nat) (b : Job) (e : UpdEntry) (chunk elem what : Nat) :
    (s.engineNonfinite q fn j b e chunk elem what).inForce = s.inForce := by simp [State.engineNonfinite]

@[simp] theorem State.shareParams_inForce (s : State) (fn j : Nat) (b : Job) (c mask : Nat) (w : Option Nat) :
    (s.shareParams fn j b c mask w).inForce = s.inForce := by
  unfold State.shareParams; split <;> simp

@[simp] theorem State.hashChunk_inForce (s : State) (fn j c step a : Nat) : (s.hashChunk fn j c step a).inForce = s.inForce := by
  simp only [State.hashChunk]; split <;> simp

@[simp] theorem State.writeElems_inForce (s : State) (e : UpdEntry) (set c : Nat) (xs : List Elem) :
    (s.writeElems e set c xs).inForce = s.inForce := by
  unfold State.writeElems; split <;> simp

@[simp] theorem State.applyRule_inForce (s : State) (q fn j : Nat) (b : Job) (i : Nat) (e : UpdEntry) (x : EChunk) (rho gamma : Word) :
    (s.applyRule q fn j b i e x rho gamma).inForce = s.inForce := by
  simp only [State.applyRule]
  repeat' split
  all_goals simp

@[simp] theorem State.stageChunk_inForce (s : State) (q fn j : Nat) (b : Job) (i : Nat) (e : UpdEntry) (x : EChunk) (gamma : Word) :
    (s.stageChunk q fn j b i e x gamma).inForce = s.inForce := by
  unfold State.stageChunk
  extract_lets p c base n gs written summed staged noted touches full
  split
  · exact State.engineNonfinite_inForce ..
  · exact (State.inForce_foldl (fun t k => (State.agentOp_inForce ..).trans (State.writeNat_inForce ..)) _ _).trans
      ((State.updJob_inForce ..).trans ((State.addNorm_inForce ..).trans (State.writeBytes_inForce ..)))

@[simp] theorem State.applyChunk_inForce (s : State) (q : Nat) (x : EChunk) : (s.applyChunk q x).inForce = s.inForce := by
  unfold State.applyChunk
  repeat' split
  all_goals simp

@[simp] theorem State.writeEach_inForce (s : State) (e : UpdEntry) (set : Nat) (xs : List Elem) :
    (s.writeEach e set xs).inForce = s.inForce := by simp [State.writeEach]

@[simp] theorem State.finishPre_inForce (s : State) (q fn j : Nat) (b : Job) (e : UpdEntry) (p : PreBlock) (c : Nat) (applied : List Nat) :
    (s.finishPre q fn j b e p c applied).inForce = s.inForce := by simp [State.finishPre]

@[simp] theorem State.applyBlock_inForce (s : State) (fn j : Nat) (b : Job) (i : Nat) (e : UpdEntry) (p : PreBlock) (k : Nat) :
    (s.applyBlock fn j b i e p k).inForce = s.inForce := by
  simp only [State.applyBlock]
  repeat' split
  all_goals simp

@[simp] theorem State.copyRow_inForce (s : State) (e : UpdEntry) (row : Nat) : (s.copyRow e row).inForce = s.inForce := by
  simp [State.copyRow]

/-! ## Shadow verdicts and the row shift (R23, R378 to R380) -/

@[simp] theorem State.dropShadow_inForce (s : State) (id : Nat) : (s.dropShadow id).inForce = s.inForce := by simp [State.dropShadow]

@[simp] theorem State.countShadow_inForce (s : State) (fn : Nat) (f : Fn → Fn) : (s.countShadow fn f).inForce = s.inForce := by
  simp [State.countShadow]

@[simp] theorem State.actVerdict_inForce (s : State) (v : Shadow) (st : Status) (rep : Report) :
    (s.actVerdict v st rep).inForce = s.inForce := by
  unfold State.actVerdict; split <;> simp

@[simp] theorem State.giveVerdict_inForce (s : State) (v : Shadow) (st : Status) (detail : List Byte) :
    (s.giveVerdict v st detail).inForce = s.inForce := by
  unfold State.giveVerdict; split <;> simp

@[simp] theorem State.failSpare_inForce (s : State) (v : Shadow) : (s.failSpare v).inForce = s.inForce := by simp [State.failSpare]

@[simp] theorem State.actKept_inForce (s : State) (fn j : Nat) : (s.actKept fn j).inForce = s.inForce := by
  unfold State.actKept
  exact State.inForce_foldl (fun t v => by split <;> simp) _ _

/-! ## Seals, ridges, checkpoints and takeovers (R211, R238 to R247, R384 to R388) -/

@[simp] theorem State.journalStep_inForce (s : State) (b : Job) (outcome selp : Nat) :
    (s.journalStep b outcome selp).inForce = s.inForce := by
  unfold State.journalStep; split <;> simp

@[simp] theorem State.writeMarked_inForce (s : State) (a : Nat) (bs : List (Byte × Bool)) :
    (s.writeMarked a bs).inForce = s.inForce := by simp [State.writeMarked]

@[simp] theorem State.writeParts_inForce (s : State) (keep : CkPart → Bool) (ps : List CkPart) (bs : List (Byte × Bool)) :
    (s.writeParts keep ps bs).inForce = s.inForce := by
  induction ps generalizing s bs with
  | nil => rfl
  | cons p ps ih => simp [State.writeParts, ih]

theorem State.peerLine_inForce {s t : State} {fn j g : Nat} {ws : List CodeWord} (h : s.peerLine fn j g ws = some t) : t.inForce = s.inForce := by
  unfold State.peerLine at h
  split at h
  · split at h
    · obtain rfl := Option.some.inj h
      simp
    · cases h
  · exact State.request_inForce h

theorem State.peerWrite_inForce {s t : State} {fn j fuel g : Nat} {ws : List CodeWord} (h : s.peerWrite fn j fuel g ws = some t) :
    t.inForce = s.inForce := by
  induction fuel generalizing s g ws with
  | zero => obtain rfl := Option.some.inj h; rfl
  | succ fuel ih =>
    simp only [State.peerWrite] at h
    split at h
    · obtain rfl := Option.some.inj h; rfl
    · split at h
      · next hu => rw [ih h, State.peerLine_inForce hu]
      · cases h

@[simp] theorem State.buddyAbandon_inForce (s : State) (fn j : Nat) : (s.buddyAbandon fn j).inForce = s.inForce := by
  unfold State.buddyAbandon; split <;> simp

@[simp] theorem State.startCheckpoint_inForce (s : State) (fn j : Nat) (b : Job) (step : Nat) :
    (s.startCheckpoint fn j b step).inForce = s.inForce := by
  simp only [State.startCheckpoint]
  split
  · rfl
  · split
    · simp
    · split
      · simp
      · split
        · next h =>
          obtain ⟨u, hu, ht⟩ := Option.bind_eq_some_iff.1 h
          rw [State.peerWrite_inForce ht, State.peerLine_inForce hu]; simp
        · simp

@[simp] theorem State.endRuns_inForce (s : State) (fn j : Nat) : (s.endRuns fn j).inForce = s.inForce := by
  unfold State.endRuns; split <;> simp

@[simp] theorem State.checkpointDone_inForce (s : State) (fn j : Nat) (buddy : Bool) : (s.checkpointDone fn j buddy).inForce = s.inForce := by
  simp only [State.checkpointDone]
  split
  · rfl
  · split
    · split
      · split
        · rfl
        · split
          · simp
          · next h =>
            obtain ⟨u, hu, ht⟩ := Option.bind_eq_some_iff.1 h
            simp [State.peerLine_inForce ht, State.peerWrite_inForce hu]
      · simp
    · rfl

@[simp] theorem State.setMember_inForce (s : State) (fn j i : Nat) (f : Member → Member) :
    (s.setMember fn j i f).inForce = s.inForce := by
  unfold State.setMember; split <;> simp

@[simp] theorem State.replace_inForce (s : State) (fn j e sp : Nat) : (s.replace fn j e sp).inForce = s.inForce := by
  unfold State.replace; split <;> simp

@[simp] theorem State.expel_inForce (s : State) (fn j e : Nat) : (s.expel fn j e).inForce = s.inForce := by
  unfold State.expel
  repeat' split
  all_goals simp

@[simp] theorem State.holdForSpare_inForce (s : State) (fn j : Nat) : (s.holdForSpare fn j).inForce = s.inForce := by
  unfold State.holdForSpare; split <;> simp

@[simp] theorem State.dropRemoteLines_inForce (s : State) (fn : Nat) : (s.dropRemoteLines fn).inForce = s.inForce := by
  simp [State.dropRemoteLines]

@[simp] theorem State.startCopies_inForce (s : State) (fn j : Nat) (b : Job) : (s.startCopies fn j b).inForce = s.inForce := by
  simp [State.startCopies]

@[simp] theorem State.toggleViews_inForce (s : State) (b : Job) : (s.toggleViews b).inForce = s.inForce := by simp [State.toggleViews]

@[simp] theorem State.postSealed_inForce (s : State) (fn j step : Nat) : (s.postSealed fn j step).inForce = s.inForce := by
  simp [State.postSealed]

@[simp] theorem State.seal_inForce (s : State) (fn j : Nat) (b : Job) (expelled : List Nat) :
    (s.seal fn j b expelled).inForce = s.inForce := by
  unfold State.seal
  extract_lets selp ended noted toggled stepped sealed started
  have hstarted : started.inForce = s.inForce := by simp [started, sealed, stepped, toggled, noted, ended]
  split
  · exact hstarted
  · extract_lets cleared readied retired digested checkpointed held redelivered acted
    have hacted : acted.inForce = s.inForce := by
      simp [acted, redelivered, held, checkpointed, digested, retired, readied, cleared, hstarted]
    split
    · exact (State.raiseVoid_inForce ..).trans hacted
    · exact hacted

@[simp] theorem State.expelSelf_inForce (s : State) (fn j : Nat) : (s.expelSelf fn j).inForce = s.inForce := by simp [State.expelSelf]

@[simp] theorem State.trySeal_inForce (s : State) (fn j : Nat) : (s.trySeal fn j).inForce = s.inForce := by
  unfold State.trySeal
  repeat' split
  all_goals simp

@[simp] theorem State.ridgeSend_inForce (s : State) (fn j : Nat) : (s.ridgeSend fn j).inForce = s.inForce := by
  unfold State.ridgeSend; split <;> simp

@[simp] theorem State.around_inForce {s : State} {port fn j : Nat} {m : Msg} {b : Job} {h : GHdr} {now : State → State}
    (hnow : ∀ t, (now t).inForce = t.inForce) : (s.around port m fn j b h now).inForce = s.inForce := by
  unfold State.around; split <;> simp [hnow]

@[simp] theorem State.takeover_inForce (s : State) (fn j : Nat) (t : Takeover) :
    (s.takeover fn j t).inForce = s.inForce := by
  unfold State.takeover
  split
  · rfl
  · extract_lets e set joined _ age
    have hjoined : joined.inForce = s.inForce := State.replace_inForce ..
    split
    · rfl
    · split
      · exact hjoined
      · extract_lets copied d parts read viewed rows q started running
        have hread : read.inForce = s.inForce := by
          unfold read; split <;> simp [copied, hjoined]
        have hrunning : running.inForce = s.inForce := by simp [running, started, viewed, hread]
        split
        · exact hrunning
        · simp [hrunning]

/-! ## Code objects (R133 to R135) -/

@[simp] theorem State.writeCodeTable_inForce (s : State) (ctx : Nat) : (s.writeCodeTable ctx).inForce = s.inForce := by
  simp [State.writeCodeTable]

/-! ## Memory of the queue commands (R305, R313) -/

@[simp] theorem State.hostPut_inForce (s : State) (a : Nat) (bs : List (Byte × Bool)) : (s.hostPut a bs).inForce = s.inForce := by
  simp [State.hostPut]

@[simp] theorem State.windowFault_inForce (s : State) (e : EntryRef) (x : QEntry) : (s.windowFault e x).inForce = s.inForce := by
  simp [State.windowFault]

@[simp] theorem State.writeLines_inForce (s : State) (e : EntryRef) (x : QEntry) (id : Nat) (ls : List (Nat × Nat × Nat))
    (bs : List (Byte × Bool)) : (s.writeLines e x id ls bs).inForce = s.inForce := by
  induction ls generalizing s bs with
  | nil => rfl
  | cons l ls ih =>
    unfold State.writeLines
    split
    · next h => rw [ih, State.request_inForce h]
    · simp

@[simp] theorem State.putSpans_inForce (s : State) (e : EntryRef) (x : QEntry) (id : Nat) (ps : List Span) (bs : List (Byte × Bool)) :
    (s.putSpans e x id ps bs).inForce = s.inForce := by
  induction ps generalizing s bs with
  | nil => rfl
  | cons p ps ih => rw [State.putSpans, ih]; split <;> simp

@[simp] theorem State.deliverTo_inForce (s : State) (e : EntryRef) (x : QEntry) (dst : List Span) (bs : List (Byte × Bool)) (st : Status) (res : Nat) :
    (s.deliverTo e x dst bs st res).inForce = s.inForce := by simp [State.deliverTo]

@[simp] theorem State.copyEnd_inForce (s : State) (e : EntryRef) (x : QEntry) (src dst : List Span) (bs : List (Byte × Bool)) :
    (s.copyEnd e x src dst bs).inForce = s.inForce := by simp [State.copyEnd]

@[simp] theorem State.codeLoad_inForce (s : State) (e : EntryRef) (x : QEntry) (src : List Span) (bs : List (Byte × Bool)) :
    (s.codeLoad e x src bs).inForce = s.inForce := by
  simp only [State.codeLoad]
  split
  · simp
  · split
    · simp
    · split
      · simp
      · split
        · simp
        · simp only [State.ran_inForce, State.writeCodeTable_inForce, State.updCtx_inForce]
          exact State.inForce_foldl (fun t w => by split <;> simp) _ _

@[simp] theorem State.deadLines_inForce (s : State) (ps : List Span) : (s.deadLines ps).inForce = s.inForce := by
  simp [State.deadLines]

@[simp] theorem State.gathered_inForce (s : State) (e : EntryRef) (x : QEntry) (src dst : List Span) (got : Map (Nat × Bool)) :
    (s.gathered e x src dst got).inForce = s.inForce := by simp [State.gathered]

@[simp] theorem State.issueReads_inForce (s : State) (e : EntryRef) (x : QEntry) (id hint : Nat) (ls : List (Nat × Nat × Nat)) :
    (s.issueReads e x id hint ls).inForce = s.inForce := by
  induction ls generalizing s with
  | nil => rfl
  | cons l ls ih =>
    unfold State.issueReads
    split
    · next h => rw [ih, State.request_inForce h]
    · simp

@[simp] theorem State.gather_inForce (s : State) (e : EntryRef) (x : QEntry) (hint : Nat) (src dst : List Span) :
    (s.gather e x hint src dst).inForce = s.inForce := by simp [State.gather]

@[simp] theorem State.gotSource_inForce (s : State) (e : EntryRef) (id addr : Nat) (ws : List CodeWord) :
    (s.gotSource e id addr ws).inForce = s.inForce := by
  unfold State.gotSource; split <;> simp

@[simp] theorem State.gotAck_inForce (s : State) (e : EntryRef) (id : Nat) : (s.gotAck e id).inForce = s.inForce := by
  unfold State.gotAck; split <;> simp

@[simp] theorem State.transferFailed_inForce (s : State) (e : EntryRef) (id : Nat) (rep : Report) :
    (s.transferFailed e id rep).inForce = s.inForce := by
  unfold State.transferFailed; split <;> simp

/-! ## Remote memory access (R249 to R261) -/

@[simp] theorem State.serveRemote_inForce {s : State} {port op : Nat} {m : Msg} {legal : Bool} {span : Nat × Nat} {act : State → State}
    (hact : ∀ t, (act t).inForce = t.inForce) : (s.serveRemote port m op legal span act).inForce = s.inForce := by
  refine State.receive_inForce fun t => ?_
  dsimp only
  repeat' split
  all_goals simp [hact]

@[simp] theorem State.dropRemote_inForce (s : State) (e : Remote) : (s.dropRemote e).inForce = s.inForce := by simp [State.dropRemote]

@[simp] theorem State.late_inForce (s : State) (port : Nat) : (s.late port).inForce = s.inForce := by simp [State.late]

@[simp] theorem State.answered_inForce {s : State} {port op : Nat} {m : Msg} {act : State → Remote → State}
    (hact : ∀ t e, (act t e).inForce = t.inForce) : (s.answered port m op act).inForce = s.inForce := by
  refine State.receive_inForce fun t => ?_
  split <;> simp [hact]

@[simp] theorem State.keepRemote_inForce (s : State) (e : Remote) (r : MemReq) (v : Nat × List Nat) :
    (s.keepRemote e r v).inForce = s.inForce := by
  simp only [State.keepRemote]
  repeat' split
  all_goals simp

@[simp] theorem State.gotLoad_inForce (s : State) (e : Remote) (r : MemReq) (ws : List CodeWord) :
    (s.gotLoad e r ws).inForce = s.inForce := by simp [State.gotLoad]

@[simp] theorem State.gotLine_inForce (s : State) (id line : Nat) (ws : List CodeWord) :
    (s.gotLine id line ws).inForce = s.inForce := by
  simp only [State.gotLine]
  repeat' split
  all_goals simp

@[simp] theorem State.collNext_inForce (s : State) : s.collNext.inForce = s.inForce := by simp [State.collNext]

@[simp] theorem State.collFail_inForce (s : State) : s.collFail.inForce = s.inForce := by simp [State.collFail]

@[simp] theorem State.remoteFailed_inForce (s : State) (e : Remote) (st : Status) (port : Nat) :
    (s.remoteFailed e st port).inForce = s.inForce := by
  unfold State.remoteFailed
  repeat' split
  all_goals simp

/-! ## Links and transit (R262 to R281) -/

@[simp] theorem State.flushPort_inForce (s : State) (port : Nat) : (s.flushPort port).inForce = s.inForce := by simp [State.flushPort]

@[simp] theorem State.injEvent_inForce (s : State) (port : Nat) : (s.injEvent port).2.inForce = s.inForce := by simp [State.injEvent]

@[simp] theorem State.corrupt_inForce (s : State) (port : Nat) (m : Msg) : (s.corrupt port m).2.inForce = s.inForce := by
  unfold State.corrupt; split <;> simp

@[simp] theorem State.pass_inForce (s : State) (port : Nat) (m : Msg) : (s.pass port m).inForce = s.inForce := by simp [State.pass]

@[simp] theorem State.inject_inForce (s : State) (port : Nat) (m : Msg) : (s.inject port m).inForce = s.inForce := by simp [State.inject]

@[simp] theorem State.release_inForce (s : State) (port : Nat) (ack : BitVec 12) : (s.release port ack).inForce = s.inForce := by
  simp [State.release]

@[simp] theorem State.flit_inForce (s : State) (port : Nat) (f : Flit) : (s.flit port f).inForce = s.inForce := by
  simp only [State.flit]
  repeat' split
  all_goals simp

@[simp] theorem State.trained_inForce (s : State) (port : Nat) (lanes : Byte) (peer : BitVec 16) (peerPort : BitVec 6) :
    (s.trained port lanes peer peerPort).inForce = s.inForce := by simp [State.trained]

@[simp] theorem State.forward_inForce (s : State) (port : Nat) (m : Msg) : (s.forward port m).inForce = s.inForce := by
  simp only [State.forward]
  repeat' split
  all_goals simp

/-! ## Queue commands (R313, R335 to R346) -/

@[simp] theorem State.copyEntry_inForce (s : State) (e : EntryRef) (x : QEntry) : (s.copyEntry e x).inForce = s.inForce := by
  simp only [State.copyEntry]; split <;> simp

@[simp] theorem State.codeUnload_inForce (s : State) (e : EntryRef) (x : QEntry) : (s.codeUnload e x).inForce = s.inForce := by
  simp [State.codeUnload]

@[simp] theorem State.handleFault_inForce (s : State) (e : EntryRef) (x : QEntry) (h : Nat) (st : Status) :
    (s.handleFault e x h st).inForce = s.inForce := by simp [State.handleFault]

@[simp] theorem State.putObj_inForce (s : State) (part gen : Nat) (ps : List (Nat × Nat)) (bs : List (Byte × Bool)) :
    (s.putObj part gen ps bs).inForce = s.inForce := by
  induction ps generalizing s bs with
  | nil => rfl
  | cons p ps ih => simp [State.putObj, ih]

@[simp] theorem State.ocopyEnd_inForce (s : State) (e : EntryRef) (x : QEntry) : (s.ocopyEnd e x).inForce = s.inForce := by
  simp only [State.ocopyEnd]; split <;> simp

/-! ## The queue engine (R310 to R318, R451) -/

@[simp] theorem State.writeHqCtl_inForce (s : State) (fn n : Nat) (v : DWord) : (s.writeHqCtl fn n v).inForce = s.inForce := by
  simp [State.writeHqCtl]

@[simp] theorem State.dbSq_inForce (s : State) (fn n tail : Nat) : (s.dbSq fn n tail).inForce = s.inForce := by simp [State.dbSq]

@[simp] theorem State.dbCq_inForce (s : State) (fn n head : Nat) : (s.dbCq fn n head).inForce = s.inForce := by simp [State.dbCq]

@[simp] theorem State.takeJob_inForce (s : State) (x : QEntry) : (s.takeJob x).inForce = s.inForce := by
  unfold State.takeJob; split <;> simp

@[simp] theorem State.entryFetch_inForce (s : State) (fn n : Nat) : (s.entryFetch fn n).inForce = s.inForce := by
  simp only [State.entryFetch]
  repeat' split
  all_goals simp

@[simp] theorem State.entryFinish_inForce (s : State) (e : EntryRef) : (s.entryFinish e).inForce = s.inForce := by
  unfold State.entryFinish
  repeat' split
  all_goals simp

/-! ## Mailbox channels and spar operations of the host (R298 to R302, R319 to R322) -/

@[simp] theorem State.updChan_inForce (s : State) (fn ch : Nat) (f : Mbx → Mbx) : (s.updChan fn ch f).inForce = s.inForce := by
  simp [State.updChan]

@[simp] theorem State.chanSend_inForce (s : State) (fn ch : Nat) : (s.chanSend fn ch).inForce = s.inForce := by simp [State.chanSend]

@[simp] theorem State.chanClear_inForce (s : State) (fn ch : Nat) : (s.chanClear fn ch).inForce = s.inForce := by simp [State.chanClear]

@[simp] theorem State.chanOpen_inForce (s : State) (fn ch : Nat) (v : Word) : (s.chanOpen fn ch v).inForce = s.inForce := by
  simp [State.chanOpen]

@[simp] theorem State.secureDeny_inForce (s : State) : s.secureDeny.inForce = s.inForce := by simp [State.secureDeny]

@[simp] theorem State.claim_inForce (s : State) (rid : BitVec 16) (ide : Bool) (v : DWord) :
    (s.claim rid ide v).inForce = s.inForce := by simp [State.claim]

@[simp] theorem State.sprFields_inForce (s : State) (fn : Nat) (v : DWord) : (s.sprFields fn v).inForce = s.inForce := by
  simp [State.sprFields]

@[simp] theorem State.updSpr_inForce (s : State) (fn : Nat) (f : SprRegs → SprRegs) : (s.updSpr fn f).inForce = s.inForce := by
  simp [State.updSpr]

@[simp] theorem State.sprDone_inForce (s : State) (fn : Nat) (st : Status) : (s.sprDone fn st).inForce = s.inForce := by simp [State.sprDone]

@[simp] theorem State.putMap_inForce (s : State) (p ctx lid : Nat) (own : Bool) : (s.putMap p ctx lid own).inForce = s.inForce := by
  simp [State.putMap]

@[simp] theorem State.sprCreate_inForce (s : State) (fn : Nat) : (s.sprCreate fn).inForce = s.inForce := by
  simp only [State.sprCreate]
  repeat' split
  all_goals simp

@[simp] theorem State.sprMap_inForce (s : State) (fn : Nat) : (s.sprMap fn).inForce = s.inForce := by
  simp only [State.sprMap]
  repeat' split
  all_goals simp

@[simp] theorem State.sprUnmap_inForce (s : State) (fn : Nat) : (s.sprUnmap fn).inForce = s.inForce := by simp [State.sprUnmap]

@[simp] theorem State.sprDestroy_inForce (s : State) (fn : Nat) : (s.sprDestroy fn).inForce = s.inForce := by
  unfold State.sprDestroy; split <;> simp

@[simp] theorem State.sprRead_inForce (s : State) (fn : Nat) : (s.sprRead fn).inForce = s.inForce := by
  unfold State.sprRead; split <;> simp

@[simp] theorem State.sprSet_inForce (s : State) (fn : Nat) : (s.sprSet fn).inForce = s.inForce := by
  simp only [State.sprSet]; split <;> simp

@[simp] theorem State.sprCmd_inForce (s : State) (fn : Nat) (v : DWord) : (s.sprCmd fn v).inForce = s.inForce := by
  unfold State.sprCmd; split <;> simp

/-! ## Job registers (R190 to R248, R385 to R391) -/

@[simp] theorem State.jobLoad_inForce (s : State) (fn j : Nat) : (s.jobLoad fn j).2.inForce = s.inForce := by
  unfold State.jobLoad
  split
  · rfl
  · exact (State.digestRecord_inForce ..).trans (State.clearPre_inForce ..)

@[simp] theorem State.finishRows_inForce (s : State) (fn j : Nat) (b : Job) :
    (s.finishRows fn j b).inForce = s.inForce := by
  refine State.inForce_foldl (fun t q => ?_) _ _
  extract_lets mine copied
  have hcopied : copied.inForce = t.inForce := State.inForce_foldl (fun u r => by split <;> simp) mine t
  simp [hcopied]

@[simp] theorem State.discard_inForce (s : State) (fn j : Nat) (b : Job) : (s.discard fn j b).inForce = s.inForce := by simp [State.discard]

@[simp] theorem State.dropJob_inForce (s : State) (fn j : Nat) (b : Job) (st : Status) :
    (s.dropJob fn j b st).inForce = s.inForce := by simp [State.dropJob]

@[simp] theorem State.jobUnload_inForce (s : State) (fn j : Nat) : (s.jobUnload fn j).2.inForce = s.inForce := by
  unfold State.jobUnload; split <;> simp

@[simp] theorem State.jobForceVoid_inForce (s : State) (fn j : Nat) : (s.jobForceVoid fn j).2.inForce = s.inForce := by
  unfold State.jobForceVoid
  repeat' split
  all_goals simp

theorem State.placeSpares_inForce {s t : State} {fn j : Nat} {es : List Nat} (h : s.placeSpares fn j es = some t) : t.inForce = s.inForce := by
  induction es generalizing s with
  | nil => obtain rfl := Option.some.inj h; rfl
  | cons e es ih =>
    unfold State.placeSpares at h
    split at h
    · cases h
    · split at h
      · cases h
      · rw [ih h]; simp

@[simp] theorem State.jobReload_inForce (s : State) (fn j : Nat) : (s.jobReload fn j).2.inForce = s.inForce := by
  simp only [State.jobReload]
  split
  · rfl
  · split
    · rfl
    · split
      · rfl
      · split
        · rfl
        · next h => exact (State.updJob_inForce ..).trans ((State.placeSpares_inForce h).trans (State.updJob_inForce ..))

@[simp] theorem State.gutJdctl_inForce (s : State) (fn : Nat) (v : DWord) : (s.gutJdctl fn v).inForce = s.inForce := by
  unfold State.gutJdctl; split <;> simp

@[simp] theorem State.releaseHold_inForce (s : State) (fn j : Nat) (b : Job) (skip : Bool) :
    (s.releaseHold fn j b skip).inForce = s.inForce := by simp [State.releaseHold]

@[simp] theorem State.stepCtl_inForce (s : State) (fn : Nat) (v : DWord) : (s.stepCtl fn v).inForce = s.inForce := by
  simp only [State.stepCtl]
  repeat' split
  all_goals simp

@[simp] theorem State.ckRegister_inForce (s : State) (fn j : Nat) : (s.ckRegister fn j).2.inForce = s.inForce := by
  simp only [State.ckRegister]
  repeat' split
  all_goals simp

@[simp] theorem State.ckResume_inForce (s : State) (fn j : Nat) : (s.ckResume fn j).2.inForce = s.inForce := by
  unfold State.ckResume
  repeat' split
  all_goals simp

@[simp] theorem State.restoreFrom_inForce (s : State) (b : Job) (d : CkDesc) (slot : List (Byte × Bool)) :
    (s.restoreFrom b d slot).2.inForce = s.inForce := by
  simp only [State.restoreFrom]
  repeat' split
  all_goals simp

@[simp] theorem State.ckRestore_inForce (s : State) (fn j : Nat) (slot : Bool) (buddy : Option (List CodeWord)) :
    (s.ckRestore fn j slot buddy).2.inForce = s.inForce := by
  unfold State.ckRestore
  repeat' split
  all_goals simp

@[simp] theorem State.ckCtl_inForce (s : State) (fn : Nat) (v : DWord) (buddy : List CodeWord) :
    (s.ckCtl fn v buddy).inForce = s.inForce := by
  unfold State.ckCtl; split <;> simp

@[simp] theorem State.hrdCtl_inForce (s : State) (fn : Nat) (v : Word) : (s.hrdCtl fn v).inForce = s.inForce := by
  simp only [State.hrdCtl, State.inForce_ite, State.mapWrite_inForce, State.updHoard_inForce, ite_self]

@[simp] theorem State.errCtl_inForce (s : State) (fn : Nat) (v : Word) : (s.errCtl fn v).inForce = s.inForce := by simp [State.errCtl]

/-! ## Windows, ports and injection (R252 to R254, R277 to R281) -/

@[simp] theorem State.updWindow_inForce (s : State) (n : Nat) (f : Window → Window) : (s.updWindow n f).inForce = s.inForce := by
  simp [State.updWindow]

@[simp] theorem State.winDone_inForce (s : State) (fn j n : Nat) : (s.winDone fn j n).inForce = s.inForce := by simp [State.winDone]

@[simp] theorem State.winWord0_inForce (s : State) (fn j : Nat) (v : DWord) : (s.winWord0 fn j v).inForce = s.inForce := by
  unfold State.winWord0; split <;> simp

@[simp] theorem State.winWord_inForce (s : State) (fn j k : Nat) (v : DWord) : (s.winWord fn j k v).inForce = s.inForce := by
  unfold State.winWord; split <;> simp

@[simp] theorem State.portCtl_inForce (s : State) (fn port : Nat) (v : DWord) : (s.portCtl fn port v).inForce = s.inForce := by
  simp [State.portCtl]

@[simp] theorem State.injCtl_inForce (s : State) (fn port : Nat) (v : DWord) : (s.injCtl fn port v).inForce = s.inForce := by
  simp [State.injCtl]

@[simp] theorem State.injSeed_inForce (s : State) (fn port : Nat) (v : DWord) : (s.injSeed fn port v).inForce = s.inForce := by
  simp [State.injSeed]

@[simp] theorem State.sigCtl_inForce (s : State) (fn : Nat) (v : Word) : (s.sigCtl fn v).inForce = s.inForce := by simp [State.sigCtl]

@[simp] theorem State.sigBase_inForce (s : State) (fn : Nat) (v : DWord) : (s.sigBase fn v).inForce = s.inForce := by simp [State.sigBase]

@[simp] theorem State.setCap_inForce (s : State) (cap window : Nat) : (s.setCap cap window).inForce = s.inForce := by simp [State.setCap]

@[simp] theorem State.pwrCap_inForce (s : State) (fn : Nat) (v : DWord) : (s.pwrCap fn v).inForce = s.inForce := by simp [State.pwrCap]

@[simp] theorem State.ctxKill_inForce (s : State) (fn : Nat) (v : DWord) : (s.ctxKill fn v).inForce = s.inForce := by
  simp only [State.ctxKill]
  repeat' split
  all_goals simp

/-! ## What an apply clears and sets (R361, R417) -/

@[simp] theorem State.clearUnit_inForce (s : State) (u : Nat) : (s.clearUnit u).inForce = s.inForce := by simp [State.clearUnit]

@[simp] theorem State.clearCourse_inForce (s : State) (c : Nat) : (s.clearCourse c).inForce = s.inForce := by simp [State.clearCourse]

@[simp] theorem State.cutWays_inForce (s : State) (part : Nat) (old new ls : List Nat) :
    (s.cutWays part old new ls).inForce = s.inForce := by
  induction ls generalizing s with
  | nil => rfl
  | cons l ls ih =>
    simp only [State.cutWays]
    split
    · exact ih s
    · split
      · simp [ih]
      · rw [ih]; split <;> simp

@[simp] theorem State.applyWays_inForce (s : State) (parts : Map Part) : (s.applyWays parts).inForce = s.inForce := by simp [State.applyWays]

@[simp] theorem State.applyShares_inForce (s : State) (parts : Map Part) : (s.applyShares parts).inForce = s.inForce := by
  simp [State.applyShares]

@[simp] theorem State.applyOwners_inForce (s : State) (parts : Map Part) : (s.applyOwners parts).inForce = s.inForce := by
  unfold State.applyOwners
  extract_lets courses units cleared lost dropped shared
  have hshared : shared.inForce = s.inForce := by simp [shared, dropped, cleared]
  clear_value shared
  exact hshared

@[simp] theorem State.dropDefault_inForce (s : State) (n : Nat) : (s.dropDefault n).inForce = s.inForce := by simp [State.dropDefault]

@[simp] theorem State.resetSlot_inForce (s : State) (n : Nat) : (s.resetSlot n).inForce = s.inForce := by simp [State.resetSlot]

@[simp] theorem State.applyShapes_inForce (s : State) (p : Part) : (s.applyShapes p).inForce = s.inForce := by simp [State.applyShapes]

@[simp] theorem State.applySpare_inForce (s : State) (c fence : Nat) (rows : Map Nat) : (s.applySpare c fence rows).inForce = s.inForce := by
  simp [State.applySpare]

@[simp] theorem State.applyDevice_inForce (s : State) (img : TrussImg) : (s.applyDevice img).inForce = s.inForce := by
  simp [State.applyDevice]

@[simp] theorem State.journalInject_inForce (s : State) (img : TrussImg) : (s.journalInject img).inForce = s.inForce := by
  simp [State.journalInject]

@[simp] theorem State.becomeReady_inForce (s : State) (n : Nat) : (s.becomeReady n).inForce = s.inForce := by simp [State.becomeReady]

/-! ## Functions (R323 to R326) -/

@[simp] theorem State.shutCtx_inForce (s : State) (c : Nat) : (s.shutCtx c).inForce = s.inForce := by simp [State.shutCtx]

@[simp] theorem State.shutJob_inForce (s : State) (n j : Nat) : (s.shutJob n j).inForce = s.inForce := by
  unfold State.shutJob; split <;> simp

@[simp] theorem State.stopQueues_inForce (s : State) (n : Nat) : (s.stopQueues n).inForce = s.inForce := by simp [State.stopQueues]

@[simp] theorem State.freeSpars_inForce (s : State) (n : Nat) : (s.freeSpars n).inForce = s.inForce := by simp [State.freeSpars]

@[simp] theorem State.releaseAll_inForce (s : State) (n : Nat) : (s.releaseAll n).inForce = s.inForce := by simp [State.releaseAll]

@[simp] theorem State.dropWindows_inForce (s : State) (n : Nat) : (s.dropWindows n).inForce = s.inForce := by
  unfold State.dropWindows; split <;> simp

@[simp] theorem State.shutdownDone_inForce (s : State) (n us : Nat) : (s.shutdownDone n us).inForce = s.inForce := by
  simp [State.shutdownDone]

@[simp] theorem State.wedge_inForce (s : State) (n us : Nat) : (s.wedge n us).inForce = s.inForce := by simp [State.wedge]

@[simp] theorem State.enableFn_inForce (s : State) (n : Nat) : (s.enableFn n).inForce = s.inForce := by simp [State.enableFn]

@[simp] theorem State.beginErase_inForce (s : State) (fn target : Nat) : (s.beginErase fn target).inForce = s.inForce := by
  simp [State.beginErase]

@[simp] theorem State.eraseDone_inForce (s : State) (n : Nat) : (s.eraseDone n).inForce = s.inForce := by
  unfold State.eraseDone
  repeat' split
  all_goals simp

/-! ## Boot (R415 to R425) -/

@[simp] theorem State.toStage_inForce (s : State) (n : Nat) : (s.toStage n).inForce = s.inForce := by simp [State.toStage]

@[simp] theorem State.bootStatus_inForce (s : State) (st : Status) : (s.bootStatus st).inForce = s.inForce := by simp [State.bootStatus]

@[simp] theorem State.delivered_inForce (s : State) (bs : List Byte) : (s.delivered bs).inForce = s.inForce := by simp [State.delivered]

@[simp] theorem State.fwReject_inForce (s : State) : s.fwReject.inForce = s.inForce := by simp [State.fwReject]

@[simp] theorem State.doeReply_inForce (s : State) (st : Status) : (s.doeReply st).inForce = s.inForce := by simp [State.doeReply]

@[simp] theorem State.doeRefuse_inForce (s : State) (restart : Bool) : (s.doeRefuse restart).inForce = s.inForce := by simp [State.doeRefuse]

@[simp] theorem State.doeChunk_inForce (s : State) (kind : Nat) (last : Bool) (off total : Nat) (data : List Byte) :
    (s.doeChunk kind last off total data).inForce = s.inForce := by simp [State.doeChunk]

/-! ## Power, clocks and heat (R397 to R413) -/

@[simp] theorem State.blankCourse_inForce (s : State) (c : Nat) : (s.blankCourse c).inForce = s.inForce := by simp [State.blankCourse]

@[simp] theorem State.startGang_inForce (s : State) (x : Start) : (s.startGang x).inForce = s.inForce := by
  simp only [State.startGang]
  repeat' split
  all_goals simp

@[simp] theorem State.setSteps_inForce (s : State) : s.setSteps.inForce = s.inForce := by simp [State.setSteps]

@[simp] theorem State.applyGrant_inForce (s : State) (g : Grant) (low : Bool) : (s.applyGrant g low).inForce = s.inForce := by
  unfold State.applyGrant; split <;> simp

@[simp] theorem State.countRes_inForce (s : State) : s.countRes.inForce = s.inForce := by simp [State.countRes]

@[simp] theorem State.countParts_inForce (s : State) : s.countParts.inForce = s.inForce := by simp [State.countParts]

@[simp] theorem State.budgetTick_inForce (s : State) (energy : Nat) (demand : List (Nat × Nat × Nat)) (island : Int × Nat) :
    (s.budgetTick energy demand island).inForce = s.inForce := by simp [State.budgetTick]

@[simp] theorem State.abortCourse_inForce (s : State) (c : Nat) (st : Status) : (s.abortCourse c st).inForce = s.inForce := by
  simp [State.abortCourse]

@[simp] theorem State.thermtrip_inForce (s : State) : s.thermtrip.inForce = s.inForce := by simp [State.thermtrip]

@[simp] theorem State.powerRecord_inForce (s : State) (st : Status) (course : Option Nat) :
    (s.powerRecord st course).inForce = s.inForce := by simp [State.powerRecord]

@[simp] theorem State.tempSample_inForce (s : State) (c : Nat) (temp : Int) (mv : Nat) :
    (s.tempSample c temp mv).inForce = s.inForce := by simp [State.tempSample]

@[simp] theorem State.supplyFault_inForce (s : State) (c : Nat) : (s.supplyFault c).inForce = s.inForce := by simp [State.supplyFault]

@[simp] theorem State.pmbusPoll_inForce (s : State) (answers : Bool) (vin iin : Nat) (status : BitVec 16) :
    (s.pmbusPoll answers vin iin status).inForce = s.inForce := by simp [State.pmbusPoll]

@[simp] theorem State.chargePart_inForce (s : State) (fn e : Nat) : (s.chargePart fn e).inForce = s.inForce := by simp [State.chargePart]

@[simp] theorem State.chargeBase_inForce (s : State) (e : Nat) : (s.chargeBase e).inForce = s.inForce := by simp [State.chargeBase]

@[simp] theorem State.chargeCtx_inForce (s : State) (ctx e : Nat) : (s.chargeCtx ctx e).inForce = s.inForce := by
  simp only [State.chargeCtx]
  repeat' split
  all_goals simp

@[simp] theorem State.chargeJob_inForce (s : State) (fn j e : Nat) : (s.chargeJob fn j e).inForce = s.inForce := by simp [State.chargeJob]

/-! ## Registers (R5 to R7, R307) -/

@[simp] theorem State.writeChan_inForce (s : State) (fn ch o : Nat) (v : Word) : (s.writeChan fn ch o v).inForce = s.inForce := by
  unfold State.writeChan; split <;> simp

@[simp] theorem State.writeMbx_inForce (s : State) (fn off : Nat) (v : Word) : (s.writeMbx fn off v).inForce = s.inForce := by
  simp [State.writeMbx]

@[simp] theorem State.clearFlags_inForce (s : State) (fn : Nat) (v : Word) : (s.clearFlags fn v).inForce = s.inForce := by
  simp [State.clearFlags]

@[simp] theorem State.setTherm_inForce (s : State) (v : Word) : (s.setTherm v).inForce = s.inForce := by simp [State.setTherm]

@[simp] theorem State.write32_inForce (s : State) (fn off : Nat) (v : Word) : (s.write32 fn off v).inForce = s.inForce := by
  unfold State.write32
  repeat' split
  all_goals simp

@[simp] theorem State.writeQueue_inForce (s : State) (fn off : Nat) (v : DWord) : (s.writeQueue fn off v).inForce = s.inForce := by
  unfold State.writeQueue; split <;> simp

@[simp] theorem State.writeCtx_inForce (s : State) (fn off : Nat) (v : DWord) : (s.writeCtx fn off v).inForce = s.inForce := by
  unfold State.writeCtx; split <;> simp

@[simp] theorem State.writeSpr_inForce (s : State) (fn off : Nat) (v : DWord) : (s.writeSpr fn off v).inForce = s.inForce := by
  unfold State.writeSpr; split <;> simp

@[simp] theorem State.writeGut_inForce (s : State) (fn off : Nat) (v : DWord) : (s.writeGut fn off v).inForce = s.inForce := by
  unfold State.writeGut; split <;> simp

@[simp] theorem State.setRoute_inForce (s : State) (fn id : Nat) (hi : Bool) (v : DWord) :
    (s.setRoute fn id hi v).inForce = s.inForce := by simp [State.setRoute]

@[simp] theorem State.fabCfg_inForce (s : State) (fn : Nat) (v : DWord) : (s.fabCfg fn v).inForce = s.inForce := by simp [State.fabCfg]

@[simp] theorem State.writeFab_inForce (s : State) (fn off : Nat) (v : DWord) : (s.writeFab fn off v).inForce = s.inForce := by
  unfold State.writeFab
  repeat' split
  all_goals simp

@[simp] theorem State.writePwr_inForce (s : State) (fn off : Nat) (v : DWord) : (s.writePwr fn off v).inForce = s.inForce := by
  unfold State.writePwr; split <;> simp

@[simp] theorem State.writeExport_inForce (s : State) (fn off : Nat) (v : DWord) : (s.writeExport fn off v).inForce = s.inForce := by
  unfold State.writeExport
  repeat' split
  all_goals simp

@[simp] theorem State.writeErr_inForce (s : State) (fn off : Nat) (v : DWord) : (s.writeErr fn off v).inForce = s.inForce := by
  unfold State.writeErr; split <;> simp

@[simp] theorem State.writeInj_inForce (s : State) (fn off : Nat) (v : DWord) : (s.writeInj fn off v).inForce = s.inForce := by
  unfold State.writeInj; split <;> simp

@[simp] theorem State.writeUpd_inForce (s : State) (fn off : Nat) (v : DWord) : (s.writeUpd fn off v).inForce = s.inForce := by
  unfold State.writeUpd; split <;> simp

@[simp] theorem State.readLow_inForce (s : State) (rid : BitVec 16) (ide : Bool) (fn off : Nat) :
    (s.readLow rid ide fn off).inForce = s.inForce := by simp [State.readLow]

@[simp] theorem State.writeBar2_inForce (s : State) (fn o : Nat) (v : Word) : (s.writeBar2 fn o v).inForce = s.inForce := by
  simp [State.writeBar2]

@[simp] theorem State.lateInj_inForce (s : State) (fn off : Nat) (v : DWord) : (s.lateInj fn off v).inForce = s.inForce := by
  simp [State.lateInj]

/-! ## CXL.mem (R304, R305) -/

@[simp] theorem State.trackLine_inForce (s : State) (n : Nat) : (s.trackLine n).inForce = s.inForce := by simp [State.trackLine]

@[simp] theorem State.cxlRead_inForce (s : State) (n : Nat) : (s.cxlRead n).inForce = s.inForce := by
  simp only [State.cxlRead]
  repeat' split
  all_goals simp

@[simp] theorem State.cxlWrite_inForce (s : State) (a : Nat) (bs : List Byte) (poison : Bool) :
    (s.cxlWrite a bs poison).inForce = s.inForce := by simp [State.cxlWrite]

@[simp] theorem State.cxlStore_inForce (s : State) (poison : Bool) (fuel a : Nat) (bs : List Byte) :
    (s.cxlStore poison fuel a bs).inForce = s.inForce := by
  induction fuel generalizing s a bs with
  | zero => rfl
  | succ fuel ih => cases bs <;> simp [State.cxlStore, ih]

/-! ## Lanes (R114, R116) -/

@[simp] theorem t1_inForce (xu : Bool) (opc : Nat) (i : Issue) (f : FormT) (legal : Bool) (g : Word → Word) (s : State) :
    (t1 xu opc i f legal g s).inForce = s.inForce := by simp [t1]

@[simp] theorem t2_inForce (xu : Bool) (opc : Nat) (i : Issue) (f : FormT) (legal : Bool) (g : Word → Word → Word) (s : State) :
    (t2 xu opc i f legal g s).inForce = s.inForce := by simp [t2]

@[simp] theorem t3_inForce (opc : Nat) (i : Issue) (f : FormT) (legal : Bool) (g : Word → Word → Word → Word) (s : State) :
    (t3 opc i f legal g s).inForce = s.inForce := by simp [t3]

@[simp] theorem i1_inForce (opc : Nat) (i : Issue) (f : FormI) (g : Word → Word → Word) (s : State) :
    (i1 opc i f g s).inForce = s.inForce := by simp [i1]

/-! ## SPDM (R427 to R429) -/

@[simp] theorem State.spdmSend_inForce (s : State) (code : Nat) (p1 p2 : Byte) (body : List Byte) :
    (s.spdmSend code p1 p2 body).inForce = s.inForce := by simp [State.spdmSend]

@[simp] theorem State.spdmError_inForce (s : State) (code : Byte) : (s.spdmError code).inForce = s.inForce := by simp [State.spdmError]

@[simp] theorem State.spdmSay_inForce (s : State) (req : Nat) (r : SpdmReq) (p1 p2 : Byte) (body : List Byte) :
    (s.spdmSay req r p1 p2 body).inForce = s.inForce := by simp [State.spdmSay]

@[simp] theorem State.spdmSigned_inForce (s : State) (req : Nat) (r : SpdmReq) (p1 p2 : Byte) (body : List Byte) :
    (s.spdmSigned req r p1 p2 body).inForce = s.inForce := by simp [State.spdmSigned]

@[simp] theorem State.spdmServe_inForce {s : State} {first : Bool} {phase : Nat} {act : State → State} (hact : ∀ t, (act t).inForce = t.inForce) :
    (s.spdmServe first phase act).inForce = s.inForce := by
  simp [State.spdmServe, hact]

@[simp] theorem State.inSession_inForce {s : State} {act : State → State} (hact : ∀ t, (act t).inForce = t.inForce) :
    (s.inSession act).inForce = s.inForce := by
  simp [State.inSession, hact]

/-! ## PLDM (R374, R376) -/

@[simp] theorem State.bmc_inForce {s : State} {act : State → State} (hact : ∀ t, (act t).inForce = t.inForce) :
    (s.bmc act).inForce = s.inForce := by
  simp [State.bmc, hact]

@[simp] theorem State.bmcPoll_inForce (s : State) (ack : Nat) : (s.bmcPoll ack).inForce = s.inForce := by
  simp only [State.bmcPoll]; split <;> simp

@[simp] theorem State.setEffecter_inForce (s : State) (id value : Nat) : (s.setEffecter id value).inForce = s.inForce := by
  simp [State.setEffecter]

/-! ## The test port (R443, R444) -/

@[simp] theorem State.setTap_inForce (s : State) (code : Nat) : (s.setTap code).inForce = s.inForce := by simp [State.setTap]

/-! ## An idle step (R395) -/

@[simp] theorem idle_inForce (s : State) : (idle s).inForce = s.inForce := by simp [idle]

end Sys2Proof.Machine

/-! SUPPORT. Loads, shut-downs, boot and register writes leave the queue of waiting commands alone; only resets and applies change the
partitions in force (R361, R417, R425). -/

namespace Sys2Proof.Machine

/-! ## Loads and shut-downs (R323, R359, R365) -/

@[simp] theorem State.loadRefused_inForce (s : State) (r : Refused) (digest : BitVec 128) : (s.loadRefused r digest).inForce = s.inForce := by
  simp [State.loadRefused]

@[simp] theorem State.load_inForce (s : State) (slot : Option Nat) : (s.load slot).inForce = s.inForce := by
  simp only [State.load]
  repeat' split
  all_goals simp

@[simp] theorem State.trsCtl_inForce (s : State) (fn : Nat) (v : DWord) : (s.trsCtl fn v).inForce = s.inForce := by
  simp only [State.trsCtl]
  repeat' split
  all_goals simp

@[simp] theorem State.beginApply_inForce (s : State) (img : TrussImg) : (s.beginApply img).inForce = s.inForce := by
  unfold State.beginApply
  extract_lets slot _ begun
  split
  · exact s.loadRefused_inForce ..
  · exact s.loadRefused_inForce ..
  · exact State.inForce_foldl (s := begun) (fun t n => t.updFn_inForce ..) _

@[simp] theorem State.abandonLoad_inForce (s : State) : s.abandonLoad.inForce = s.inForce := by
  unfold State.abandonLoad
  split
  · exact s.loadRefused_inForce ..
  · rfl

@[simp] theorem State.beginShutdown_inForce (s : State) (n : Nat) : (s.beginShutdown n).inForce = s.inForce := by
  unfold State.beginShutdown
  extract_lets torn stopped aborted left
  have hleft : left.inForce = s.inForce := by simp [left, aborted, stopped, torn]
  split
  · rfl
  · split
    · exact left.abandonLoad_inForce.trans hleft
    · exact hleft

@[simp] theorem State.fnShutdown_inForce (s : State) (fn target : Nat) : (s.fnShutdown fn target).inForce = s.inForce := by
  simp [State.fnShutdown]

@[simp] theorem State.clearVfs_inForce (s : State) : s.clearVfs.inForce = s.inForce := by
  simp [State.clearVfs]

@[simp] theorem State.flr_inForce (s : State) (n : Nat) : (s.flr n).inForce = s.inForce := by
  simp [State.flr]

/-! ## Boot (R415 to R421) -/

@[simp] theorem State.bootRefused_inForce (s : State) (r : Refused) (digest : BitVec 128) : (s.bootRefused r digest).inForce = s.inForce := by
  simp [State.bootRefused]

@[simp] theorem State.bootServe_inForce (s : State) : s.bootServe.inForce = s.inForce := by
  simp only [State.bootServe]
  repeat' split
  all_goals simp

@[simp] theorem State.bootCtl_inForce (s : State) (v : Word) : (s.bootCtl v).inForce = s.inForce := by
  simp [State.bootCtl]

@[simp] theorem State.writeCfg_inForce (s : State) (fn o : Nat) (v : Word) : (s.writeCfg fn o v).inForce = s.inForce := by
  unfold State.writeCfg
  repeat' split
  all_goals simp

@[simp] theorem State.writeTrs_inForce (s : State) (fn off : Nat) (v : DWord) : (s.writeTrs fn off v).inForce = s.inForce := by
  unfold State.writeTrs
  repeat' split
  all_goals simp

/-! ## Applies and resets (R326, R361, R417, R439) -/

/-- The queue of waiting commands is that of s, and unless r holds so are the partitions in force. -/
def State.After (s : State) (r : Prop) (t : State) : Prop := t.pending = s.pending ∧ (¬r → t.truss.parts = s.truss.parts)

namespace State.After

variable {s t u : State} {r : Prop}

theorem frame (h : s.After r t) (hu : u.inForce = t.inForce) : s.After r u := by
  obtain ⟨hpending, hparts⟩ := Prod.mk.inj hu
  exact ⟨hpending.trans h.1, fun hr => hparts.trans (h.2 hr)⟩

theorem same (ht : t.inForce = s.inForce) : s.After r t := frame ⟨rfl, fun _ => rfl⟩ ht

theorem of_pending (hr : r) (h : t.pending = s.pending) : s.After r t := ⟨h, fun h => absurd hr h⟩

theorem ite {c : Prop} [Decidable c] (ht : s.After r t) (hu : s.After r u) : s.After r (if c then t else u) := by
  split <;> assumption

theorem mono {r' : Prop} (h : s.After r t) (hr : r → r') : s.After r' t := ⟨h.1, fun h' => h.2 (mt hr h')⟩

end State.After

theorem State.pending_of_inForce {s t : State} (h : t.inForce = s.inForce) : t.pending = s.pending := congrArg Prod.fst h

theorem State.applyImage_pending (s : State) (img : TrussImg) : (s.applyImage img).pending = s.pending := by
  unfold State.applyImage
  extract_lets slots owned reset _ set shaped spared device seq journaled injected
  have hreset : reset.inForce = s.inForce := by simp [reset, owned]
  have hset : set.pending = s.pending := (congrArg Prod.fst hreset :)
  have hshaped : shaped.inForce = set.inForce := State.inForce_foldl (fun t n => by split <;> simp) _ _
  have hinjected : injected.inForce = set.inForce := by simp [injected, journaled, device, spared, hshaped]
  exact (State.pending_of_inForce ((State.inForce_foldl (fun t n => t.updFn_inForce ..) _ _).trans hinjected)).trans hset

theorem State.endApply_pending (s : State) (img : TrussImg) : (s.endApply img).pending = s.pending := by
  unfold State.endApply
  extract_lets held applied _ cleared injected
  have hinjected : injected.inForce = cleared.inForce := State.inForce_foldl (fun t w => by dsimp only; repeat' split; all_goals simp) _ _
  have hready (l : List Nat) : (l.foldl (fun s n => s.becomeReady n) injected).inForce = injected.inForce :=
    State.inForce_foldl (fun t n => t.becomeReady_inForce n) _ _
  exact (State.pending_of_inForce ((hready _).trans hinjected)).trans (s.applyImage_pending img)

@[simp] theorem State.settleLines_inForce (s : State) : s.settleLines.inForce = s.inForce := by
  simp only [State.settleLines]
  refine (State.inForce_foldl (fun t l => ?_) _ _).trans (State.inForce_foldl (fun t c => ?_) _ _)
  all_goals
    repeat' split
    all_goals simp

theorem State.fullReset_pending (s : State) (cause : Nat) : (s.fullReset cause).pending = s.pending :=
  (State.pending_of_inForce (s.abandonLoad.settleLines_inForce.trans s.abandonLoad_inForce) :)

theorem State.mainLoss_pending (s : State) : s.mainLoss.pending = s.pending := State.fullReset_pending _ 4

theorem State.aonApply_pending (s : State) (testmode sris : Bool) : (s.aonApply testmode sris).pending = s.pending := by
  unfold State.aonApply
  split <;> rfl

/-! ## Register writes (R7, R307) -/

namespace State.After

variable {s t : State} {r : Prop}

theorem devCtl (h : s.After r t) (fn : Nat) (v : DWord) (hr : fn = 0 → r) : s.After r (t.devCtl fn v) := by
  unfold State.devCtl
  split
  · next hfn => exact .of_pending (hr hfn.1) ((t.fullReset_pending 3).trans h.1)
  · exact h

theorem writeId (h : s.After r t) (fn off : Nat) (v : DWord) (hr : fn = 0 → r) : s.After r (t.writeId fn off v) := by
  unfold State.writeId
  split
  · next n _ =>
    refine h.frame ?_
    dsimp only
    repeat' split
    all_goals simp
  · split
    · exact h.devCtl fn v hr
    · exact h

theorem write64 (h : s.After r t) (fn off : Nat) (v : DWord) (hr : fn = 0 → r) : s.After r (t.write64 fn off v) := by
  unfold State.write64
  refine .ite (h.writeId fn off v hr) (h.frame ?_)
  repeat' split
  all_goals simp

/-- An access first applies a low half that was held back. -/
theorem access (h : s.After r t) (fn : Nat) (hr : fn = 0 → (t.fn 0).heldLow ≠ none → r) : s.After r (t.access fn) := by
  unfold State.access
  extract_lets u
  have hu : s.After r u := h.frame (State.updFn_inForce ..)
  split
  · exact hu
  · next hheld => exact hu.write64 _ _ _ fun h0 => hr h0 (by subst h0; rw [hheld]; simp)

theorem onReg (h : s.After r t) {act : State → State} (fn : Nat) (hr : fn = 0 → (t.fn 0).heldLow ≠ none → r)
    (hact : ∀ u, s.After r u → s.After r (act u)) : s.After r (t.onReg fn act) :=
  .ite (hact _ (h.access fn hr)) h

theorem onRow (h : s.After r t) {act : State → State} (fn : Nat) (ok : Bool) (hr : fn = 0 → (t.fn 0).heldLow ≠ none → r)
    (hact : ∀ u, s.After r u → s.After r (act u)) : s.After r (t.onRow fn ok act) :=
  .ite (h.onReg fn hr hact) h

theorem writeBar0 (h : s.After r t) (rid : BitVec 16) (ide : Bool) (fn off : Nat) (wide : Bool) (v : DWord) (hr : fn = 0 → r) :
    s.After r (t.writeBar0 rid ide fn off wide v) := by
  have hacc : s.After r (t.access fn) := h.access fn fun h0 _ => hr h0
  unfold State.writeBar0
  extract_lets lo base
  split
  · exact hacc.frame (State.secureDeny_inForce _)
  · split
    · exact hacc.frame (by simp)
    · split
      · exact hacc.write64 _ _ _ hr
      · split
        · exact hacc.frame (State.updFn_inForce ..)
        · split
          · exact .ite ((h.frame (State.updFn_inForce ..)).write64 _ _ _ hr) (hacc.write64 _ _ _ hr)
          · exact hacc.write64 _ _ _ hr

theorem writeReg (h : s.After r t) (rid : BitVec 16) (ide : Bool) (fn off : Nat) (wide : Bool) (v : DWord) (hr : fn = 0 → r) :
    s.After r (t.writeReg rid ide fn off wide v) := by
  unfold State.writeReg
  extract_lets lo hi o one
  have hone : ∀ {u : State} (o : Nat) (w : Word), s.After r u → s.After r (one u o w) := fun o w hu =>
    .ite (.ite (hu.frame (State.writeBar2_inForce ..)) hu) (hu.frame (State.writeCfg_inForce ..))
  refine .ite (.ite (h.writeBar0 _ _ _ _ _ _ hr) (.ite (h.frame (State.lateInj_inForce ..)) h)) ?_
  exact .ite (hone _ _ (hone _ _ h)) (hone _ _ h)

end State.After

end Sys2Proof.Machine

/-! SUPPORT. Every command leaves the queue of waiting commands alone, and only those of R361, R417 and R425 change the partitions in force. -/

namespace Sys2Proof.Machine

/-- The commands that may change the partitions in force: the apply of a load, the boot image, the resets of the device, and a register
write of the PF, which may be one of those. -/
def Reconfigures (c : Instr) : Prop :=
  c = .trussApply ∨ c = .bootImageApply ∨ c = .conventionalReset ∨ c = .cxlReset ∨ c = .vinMainLoss ∨ c = .vinAonLoss ∨ c = .clockReturn ∨
    (∃ a b, c = .vinAonApplied a b) ∨ (∃ v, c = .fullreset 0 v) ∨ (∃ rid ide off wide v, c = .registerWrite rid ide 0 off wide v)

/-- What may make a command change the partitions in force: its kind, or a half of a split write that the PF holds back. -/
def State.Moves (s : State) (c : Instr) : Prop := Reconfigures c ∨ (s.fn 0).heldLow ≠ none

/-! ## Outcomes -/

/-- Whatever state an outcome of a command leads to keeps the queue, and the partitions in force where nothing may change them. -/
def State.Leaves (s : State) (c : Instr) (o : Host.Outcome State Fault Refusal) : Prop := ∀ t, o = .next t → s.After (s.Moves c) t

section
variable {s t : State} {c c' : Instr}

theorem State.leaves_next (h : s.After (s.Moves c) t) : s.Leaves c (.next t) := by
  rintro _ ⟨⟩
  exact h

theorem State.leaves_doneIf {ok : Bool} (h : s.After (s.Moves c) t) : s.Leaves c (doneIf ok t) := by
  cases ok with
  | true => exact State.leaves_next h
  | false => exact fun _ => nofun

theorem State.leaves_done (h : s.After (s.Moves c) t) : s.Leaves c (done c' t) := State.leaves_doneIf h

/-- A command that leaves the queue and the partitions alone. -/
theorem State.leaves_frame (h : t.inForce = s.inForce) : s.Leaves c (done c' t) := State.leaves_done (.same h)

theorem State.leaves_frameIf {ok : Bool} (h : t.inForce = s.inForce) : s.Leaves c (doneIf ok t) := State.leaves_doneIf (.same h)

theorem State.leaves_frameNext (h : t.inForce = s.inForce) : s.Leaves c (.next t) := State.leaves_next (.same h)

/-- A command that may change the partitions, but not the queue. -/
theorem State.leaves_reconfigures (hc : Reconfigures c) (h : t.pending = s.pending) : s.Leaves c (done c' t) :=
  State.leaves_done (.of_pending (.inl hc) h)

theorem State.after_refl : s.After (s.Moves c) s := .same rfl

theorem State.after_onRow {fn : Nat} {ok : Bool} {act : State → State} (hact : ∀ u, s.After (s.Moves c) u → s.After (s.Moves c) (act u)) :
    s.After (s.Moves c) (s.onRow fn ok act) :=
  State.after_refl.onRow fn ok (fun _ h => .inr h) hact

/-- The write of a register that leaves the queue and the partitions alone; the access first applies a low half that was held back. -/
theorem State.leaves_row {fn : Nat} {ok : Bool} {act : State → State} (hact : ∀ t, (act t).inForce = t.inForce) :
    s.Leaves c (done c' (s.onRow fn ok act)) :=
  State.leaves_done (State.after_onRow fun u hu => hu.frame (hact u))

end

/-! ## Loads, stores, atomics and fences (R117 to R120, R142 to R147) -/

theorem execLd_leaves {i : Issue} {f : FormI} {s : State} {c : Instr} : s.Leaves c (execLd i f s) := by
  refine State.leaves_frame (State.issue_inForce fun t go on => ?_)
  repeat' split
  all_goals simp

theorem execSt_leaves {i : Issue} {f : FormI} {s : State} {c : Instr} : s.Leaves c (execSt i f s) := by
  refine State.leaves_frame (State.issue_inForce fun t go on => ?_)
  repeat' split
  all_goals simp

theorem execLdl_leaves {i : Issue} {f : FormI} {s : State} {c : Instr} : s.Leaves c (execLdl i f s) := by
  refine State.leaves_frame (State.issue_inForce fun t go on => ?_)
  dsimp only
  repeat' split
  all_goals simp

theorem execStl_leaves {i : Issue} {f : FormI} {s : State} {c : Instr} : s.Leaves c (execStl i f s) := by
  refine State.leaves_frame (State.issue_inForce fun t go on => ?_)
  repeat' split
  all_goals simp

theorem execAtom_leaves {i : Issue} {f : FormT} {s : State} {c : Instr} : s.Leaves c (execAtom i f s) := by
  refine State.leaves_frame (State.issue_inForce fun t go on => ?_)
  dsimp only
  split
  · exact State.sheafFault_inForce ..
  · refine (State.nextPc_inForce ..).trans (State.inForce_foldl (fun u m => ?_) _ _)
    repeat' split
    all_goals simp

/-! ## Home slices, ordered accumulation and scrub (R147 to R157, R171) -/

theorem execHomeSliceAccess_leaves {n : Nat} {s : State} {c : Instr} : s.Leaves c (execHomeSliceAccess n s) :=
  State.leaves_frame (State.homeAccess_inForce ..)

theorem execFillArrives_leaves {line : Nat} {words : List WordState} {s : State} {c : Instr} : s.Leaves c (execFillArrives line words s) :=
  State.leaves_frame (State.fill_inForce ..)

theorem execOrderedContribution_leaves {n : Nat} {s : State} {c : Instr} : s.Leaves c (execOrderedContribution n s) :=
  State.leaves_frame (State.ordered_inForce ..)

theorem execOrderedRetry_leaves {n : Nat} {s : State} {c : Instr} : s.Leaves c (execOrderedRetry n s) := by
  refine State.leaves_frame ?_
  dsimp only
  split <;> simp

theorem execOrderedSequenceAbandon_leaves {addr : Nat} {s : State} {c : Instr} : s.Leaves c (execOrderedSequenceAbandon addr s) := by
  refine State.leaves_frame ?_
  dsimp only
  split <;> simp

theorem execScrub_leaves {addr : Nat} {st : WordState} {symbols : Word} {s : State} {c : Instr} : s.Leaves c (execScrub addr st symbols s) :=
  State.leaves_frame (by simp)

/-! ## Feeds, drains, reshapes and releases at issue (R61 to R80) -/

theorem execGfeeds_leaves {i : Issue} {f : FormT} {s : State} {c : Instr} : s.Leaves c (execGfeeds i f s) := by
  refine State.leaves_frame (State.issue_inForce fun t go on => ?_)
  dsimp only
  repeat' split
  all_goals simp

theorem execGdrain_leaves {i : Issue} {f : FormT} {s : State} {c : Instr} : s.Leaves c (execGdrain i f s) := by
  refine State.leaves_frame ?_
  split
  · exact State.whole_inForce fun t => State.drainAct_inForce ..
  · refine State.issue_inForce fun t go on => ?_
    cases on <;> simp

theorem execGreshape_leaves {i : Issue} {f : FormT} {s : State} {c : Instr} : s.Leaves c (execGreshape i f s) := by
  refine State.leaves_frame (State.issue_inForce fun t go on => ?_)
  dsimp only
  repeat' split
  all_goals simp

theorem execGrelease_leaves {i : Issue} {f : FormT} {s : State} {c : Instr} : s.Leaves c (execGrelease i f s) := by
  refine State.leaves_frame (State.issue_inForce fun t go on => ?_)
  dsimp only
  repeat' split
  all_goals simp

/-! ## The grid (R53 to R83) -/

theorem execPendingWriteLands_leaves {core slot n : Nat} {s : State} {c : Instr} : s.Leaves c (execPendingWriteLands core slot n s) := by
  refine State.leaves_frame ?_
  repeat' split
  all_goals simp

theorem execGangParityError_leaves {gang core part : Nat} {s : State} {c : Instr} : s.Leaves c (execGangParityError gang core part s) := by
  refine State.leaves_frame ?_
  dsimp only
  repeat' split
  all_goals simp

/-! ## Spars (R282 to R302) -/

theorem execSparHomeOperation_leaves {spar : Nat} {s : State} {c : Instr} : s.Leaves c (execSparHomeOperation spar s) := by
  refine State.leaves_frame ?_
  split <;> simp

/-! ## Objects, hoard and mailboxes of sheaves (R127, R128, R132, R179 to R187, R337 to R342) -/

theorem execAlloc_leaves {i : Issue} {f : FormT} {s : State} {c : Instr} : s.Leaves c (execAlloc i f s) := by
  refine State.leaves_frame (State.issue_inForce fun t go on => ?_)
  refine (State.nextPc_inForce ..).trans (State.inForce_foldl (fun u m => ?_) _ _)
  dsimp only
  split
  · next h => exact (State.result'_inForce ..).trans (State.alloc_inForce h)
  · exact State.result'_inForce ..

theorem execFree_leaves {i : Issue} {f : FormT} {s : State} {c : Instr} : s.Leaves c (execFree i f s) := by
  refine State.leaves_frame (State.issue_inForce fun t go on => ?_)
  split
  next freed ok h =>
    have hfreed : freed.inForce = t.inForce := (congrArg (·.1.inForce) h).symm.trans (State.freeAll_inForce ..)
    split <;> simp [hfreed]

/-! ## Jobs and gutter messages (R216 to R226) -/

theorem execAgentSparOperation_leaves {fn jslot : Nat} {which : AgentSpar} {op : AgentOp} {s : State} {c : Instr} :
    s.Leaves c (execAgentSparOperation fn jslot which op s) := by
  refine State.leaves_frame ?_
  dsimp only
  split <;> simp

/-! ## The data path of the gutters (R222 to R237) -/

theorem execChunkStart_leaves {fn jslot chunk : Nat} {s : State} {c : Instr} : s.Leaves c (execChunkStart fn jslot chunk s) := by
  refine State.leaves_frame ?_
  dsimp only
  repeat' split
  all_goals simp

theorem execParameterMessage_leaves {port : Nat} {m : Msg} {s : State} {c : Instr} : s.Leaves c (execParameterMessage port m s) := by
  refine State.leaves_frame (State.gutter_inForce fun t fn j b h => State.aged_inForce fun u => ?_)
  dsimp only
  repeat' split
  all_goals simp

theorem execBlockStreamStart_leaves {fn jslot : Nat} {s : State} {c : Instr} : s.Leaves c (execBlockStreamStart fn jslot s) := by
  refine State.leaves_frame ?_
  dsimp only
  repeat' split
  all_goals simp

/-! ## Update engines (R192 to R210) -/

theorem execEngineApplyChunk_leaves {engine : Nat} {s : State} {c : Instr} : s.Leaves c (execEngineApplyChunk engine s) := by
  refine State.leaves_frame ?_
  split <;> simp

theorem execPreBlockApply_leaves {fn jslot entry : Nat} {s : State} {c : Instr} : s.Leaves c (execPreBlockApply fn jslot entry s) := by
  refine State.leaves_frame ?_
  split
  · rfl
  · split
    · rfl
    · split
      · rfl
      · refine State.inForce_foldl (fun t k => ?_) _ _
        split <;> simp

theorem execRowCopyDone_leaves {engine : Nat} {s : State} {c : Instr} : s.Leaves c (execRowCopyDone engine s) := by
  refine State.leaves_frame ?_
  dsimp only
  repeat' split
  all_goals simp

/-! ## Shadow verdicts and the row shift (R23, R378 to R380) -/

theorem execCheckerResult_leaves {id : Nat} {accs outs : List Word} {s : State} {c : Instr} : s.Leaves c (execCheckerResult id accs outs s) := by
  refine State.leaves_frame ?_
  dsimp only
  split <;> simp

theorem execArbiterVerdict_leaves {id : Nat} {accs outs : List Word} {s : State} {c : Instr} : s.Leaves c (execArbiterVerdict id accs outs s) := by
  refine State.leaves_frame ?_
  dsimp only
  repeat' split
  all_goals simp

theorem execRowShift_leaves {course row : Nat} {s : State} {c : Instr} : s.Leaves c (execRowShift course row s) := by
  refine State.leaves_frame ?_
  dsimp only
  split <;> simp

theorem execRowShiftDone_leaves {course row : Nat} {s : State} {c : Instr} : s.Leaves c (execRowShiftDone course row s) := by
  refine State.leaves_frame ?_
  dsimp only
  split <;> simp

/-! ## Seals, ridges, checkpoints and takeovers (R211, R238 to R247, R384 to R388) -/

theorem execRidge_leaves {port : Nat} {m : Msg} {s : State} {c : Instr} : s.Leaves c (execRidge port m s) := by
  refine State.leaves_frame (State.gutter_inForce fun t fn j b h => ?_)
  dsimp only
  split
  · simp
  · split
    · simp
    · split <;> simp
    · exact State.around_inForce fun u => by simp

theorem execRidgeTimeout_leaves {fn jslot : Nat} {s : State} {c : Instr} : s.Leaves c (execRidgeTimeout fn jslot s) := by
  refine State.leaves_frame ?_
  split <;> simp

theorem execRidgeOverdue_leaves {fn jslot : Nat} {s : State} {c : Instr} : s.Leaves c (execRidgeOverdue fn jslot s) := by
  refine State.leaves_frame ?_
  split <;> simp

/-! ## Remote memory access (R249 to R261) -/

theorem execReadResp_leaves {port : Nat} {m : Msg} {s : State} {c : Instr} : s.Leaves c (execReadResp port m s) := by
  refine State.leaves_frame (State.answered_inForce fun t e => ?_)
  repeat' split
  all_goals simp

theorem execWriteAck_leaves {port : Nat} {m : Msg} {s : State} {c : Instr} : s.Leaves c (execWriteAck port m s) := by
  refine State.leaves_frame (State.answered_inForce fun t e => ?_)
  repeat' split
  all_goals simp

theorem execAtomicResp_leaves {port : Nat} {m : Msg} {s : State} {c : Instr} : s.Leaves c (execAtomicResp port m s) := by
  refine State.leaves_frame (State.answered_inForce fun t e => ?_)
  split
  · split <;> simp
  · split
    · rfl
    · split
      · next h => exact (t.onlyReporting_collSend h).inForce
      · simp
  · rfl

theorem execReturnMsg_leaves {port : Nat} {m : Msg} {s : State} {c : Instr} : s.Leaves c (execReturnMsg port m s) := by
  refine State.leaves_frame (State.answered_inForce fun t e => ?_)
  repeat' split
  all_goals simp

theorem execNak_leaves {port : Nat} {m : Msg} {s : State} {c : Instr} : s.Leaves c (execNak port m s) := by
  refine State.leaves_frame (State.receive_inForce fun t => ?_)
  dsimp only
  repeat' split
  all_goals simp

theorem execRemoteTimeout_leaves {tag : Nat} {s : State} {c : Instr} : s.Leaves c (execRemoteTimeout tag s) := by
  refine State.leaves_frame ?_
  dsimp only
  split <;> simp

/-! ## Links and transit (R262 to R281) -/

theorem execReorderRelease_leaves {port : Nat} {s : State} {c : Instr} : s.Leaves c (execReorderRelease port s) := by
  refine State.leaves_frame ?_
  dsimp only
  split <;> simp

theorem execViolationScoreDecay_leaves {s : State} {c : Instr} : s.Leaves c (execViolationScoreDecay s) := State.leaves_frame (by simp)

/-! ## Queue commands (R313, R335 to R346) -/

theorem execFill_leaves {e : EntryRef} {s : State} {c : Instr} : s.Leaves c (execFill e s) := by
  refine State.leaves_frame (State.begin_inForce fun t x => ?_)
  dsimp only
  split <;> simp

theorem execReshape_leaves {e : EntryRef} {s : State} {c : Instr} : s.Leaves c (execReshape e s) := by
  refine State.leaves_frame (State.begin_inForce fun t x => ?_)
  split <;> simp

theorem execSparadd_leaves {e : EntryRef} {s : State} {c : Instr} : s.Leaves c (execSparadd e s) := by
  refine State.leaves_frame (State.begin_inForce fun t x => ?_)
  dsimp only
  split
  · simp
  · split
    · simp
    · next h => exact (State.ran_inForce ..).trans (State.addSpar_inForce h)

theorem execCtxdestroy_leaves {e : EntryRef} {s : State} {c : Instr} : s.Leaves c (execCtxdestroy e s) := by
  refine State.leaves_frame ?_
  dsimp only
  repeat' split
  all_goals simp

theorem execCtxrecover_leaves {e : EntryRef} {s : State} {c : Instr} : s.Leaves c (execCtxrecover e s) := by
  refine State.leaves_frame (State.begin_inForce fun t x => ?_)
  split <;> simp

theorem execCodeload_leaves {e : EntryRef} {s : State} {c : Instr} : s.Leaves c (execCodeload e s) := by
  refine State.leaves_frame (State.begin_inForce fun t x => ?_)
  split <;> simp

theorem execCodeunload_leaves {e : EntryRef} {s : State} {c : Instr} : s.Leaves c (execCodeunload e s) := by
  refine State.leaves_frame ?_
  split <;> simp

theorem execOalloc_leaves {e : EntryRef} {s : State} {c : Instr} : s.Leaves c (execOalloc e s) := by
  refine State.leaves_frame (State.begin_inForce fun t x => ?_)
  extract_lets res rhost
  split
  · simp
  · next ps _ =>
    extract_lets put
    have hput : ∀ u bs st, (put u bs st).inForce = u.inForce := fun u bs st => by simp [put]
    split
    · next h => exact (hput ..).trans (State.alloc_inForce h)
    · exact hput ..

theorem execOfree_leaves {e : EntryRef} {s : State} {c : Instr} : s.Leaves c (execOfree e s) := by
  refine State.leaves_frame (State.begin_inForce fun t x => ?_)
  split <;> simp

theorem execOshare_leaves {e : EntryRef} {s : State} {c : Instr} : s.Leaves c (execOshare e s) := by
  refine State.leaves_frame (State.begin_inForce fun t x => ?_)
  split <;> simp

theorem execOdrop_leaves {e : EntryRef} {s : State} {c : Instr} : s.Leaves c (execOdrop e s) := by
  refine State.leaves_frame (State.begin_inForce fun t x => ?_)
  split <;> simp

theorem execOcopy_leaves {e : EntryRef} {s : State} {c : Instr} : s.Leaves c (execOcopy e s) := by
  refine State.leaves_frame (State.begin_inForce fun t x => ?_)
  dsimp only
  repeat' split
  all_goals simp

theorem execQuery_leaves {e : EntryRef} {s : State} {c : Instr} : s.Leaves c (execQuery e s) := by
  refine State.leaves_frame (State.begin_inForce fun t x => ?_)
  dsimp only
  repeat' split
  all_goals simp

/-! ## Windows, ports and injection (R252 to R254, R277 to R281) -/

theorem execWindowInvalidateDone_leaves {fn index : Nat} {s : State} {c : Instr} : s.Leaves c (execWindowInvalidateDone fn index s) := by
  refine State.leaves_frame ?_
  split <;> simp

/-! ## What an apply clears and sets (R361, R417) -/

theorem execTrussApply_leaves {s : State} : s.Leaves .trussApply (execTrussApply s) := by
  refine State.leaves_reconfigures (.inl rfl) ?_
  split
  · rfl
  · split
    · exact s.endApply_pending _
    · exact State.pending_of_inForce (s.beginApply_inForce _)

/-! ## Functions (R323 to R326) -/

theorem execVfEnableClear_leaves {s : State} {c : Instr} : s.Leaves c (execVfEnableClear s) := State.leaves_frame s.clearVfs_inForce

theorem execConventionalReset_leaves {s : State} : s.Leaves .conventionalReset (execConventionalReset s) :=
  State.leaves_reconfigures (.inr (.inr (.inl rfl))) (s.fullReset_pending _)

theorem execCxlReset_leaves {s : State} : s.Leaves .cxlReset (execCxlReset s) :=
  State.leaves_reconfigures (.inr (.inr (.inr (.inl rfl)))) (s.fullReset_pending _)

/-! ## Boot (R415 to R425) -/

theorem execBootMailboxSend_leaves {v : Word} {s : State} {c : Instr} : s.Leaves c (execBootMailboxSend v s) :=
  State.leaves_frame (s.bootCtl_inForce _)

theorem execDoeBootChunk_leaves {kind : Byte} {last : Bool} {off total : Word} {data : List Byte} {s : State} {c : Instr} :
    s.Leaves c (execDoeBootChunk kind last off total data s) := State.leaves_frame (State.doeChunk_inForce ..)

theorem execFirmwareVerify_leaves {s : State} {c : Instr} : s.Leaves c (execFirmwareVerify s) := by
  refine State.leaves_done (.ite State.after_refl (.ite (.same ?_) (.same ?_)))
  · exact (State.bootServe_inForce _).trans rfl
  · exact (State.bootServe_inForce _).trans s.fwReject_inForce

theorem execBootImageApply_leaves {s : State} : s.Leaves .bootImageApply (execBootImageApply s) := by
  refine State.leaves_reconfigures (.inr (.inl rfl)) ?_
  have hrefused (r : Refused) (digest : BitVec 128) : ((s.bootRefused r digest).bootServe).pending = s.pending :=
    State.pending_of_inForce ((State.bootServe_inForce _).trans (s.bootRefused_inForce r digest))
  split
  · rfl
  · dsimp only
    split
    · exact hrefused ..
    · split
      · exact hrefused ..
      · exact s.applyImage_pending _

theorem execFabricBringupComplete_leaves {s : State} {c : Instr} : s.Leaves c (execFabricBringupComplete s) := State.leaves_frame (by simp)

theorem execIdentityKeysReady_leaves {ok : Bool} {s : State} {c : Instr} : s.Leaves c (execIdentityKeysReady ok s) := State.leaves_frame (by simp)

/-! ## Power, clocks and heat (R397 to R413) -/

theorem execDeliveryThrottleEnd_leaves {s : State} {c : Instr} : s.Leaves c (execDeliveryThrottleEnd s) := State.leaves_frame (by simp)

theorem execVinMainLoss_leaves {s : State} : s.Leaves .vinMainLoss (execVinMainLoss s) :=
  State.leaves_reconfigures (.inr (.inr (.inr (.inr (.inl rfl))))) s.mainLoss_pending

theorem execVinMainStable_leaves {perst : Bool} {s : State} {c : Instr} : s.Leaves c (execVinMainStable perst s) :=
  State.leaves_next (.ite State.after_refl (.ite (.same (State.bootServe_inForce _)) (.same rfl)))

theorem execVinAonApplied_leaves {testmode sris : Bool} {s : State} : s.Leaves (.vinAonApplied testmode sris) (execVinAonApplied testmode sris s) :=
  State.leaves_next (.of_pending (.inl (.inr (.inr (.inr (.inr (.inr (.inr (.inr (.inl ⟨_, _, rfl⟩))))))))) (s.aonApply_pending ..))

theorem execVinAonLoss_leaves {s : State} : s.Leaves .vinAonLoss (execVinAonLoss s) := by
  refine State.leaves_reconfigures (.inr (.inr (.inr (.inr (.inr (.inl rfl)))))) ?_
  split
  · rfl
  · exact State.fullReset_pending _ 4

theorem execClockStop_leaves {s : State} {c : Instr} : s.Leaves c (execClockStop s) := State.leaves_frame (by simp)

theorem execClockReturn_leaves {s : State} : s.Leaves .clockReturn (execClockReturn s) := by
  refine State.leaves_reconfigures (.inr (.inr (.inr (.inr (.inr (.inr (.inl rfl))))))) ?_
  split
  · rfl
  · exact State.fullReset_pending _ 4

/-! ## Registers (R5 to R7, R307) -/

theorem execSplitWriteTimeout_leaves {fn : Nat} {s : State} {c : Instr} : s.Leaves c (execSplitWriteTimeout fn s) :=
  State.leaves_done (State.after_refl.onReg fn (fun _ h => .inr h) fun _ hu => hu)

theorem execSplitReadLow_leaves {rid : BitVec 16} {ide : Bool} {fn off : Nat} {s : State} {c : Instr} :
    s.Leaves c (execSplitReadLow rid ide fn off s) :=
  State.leaves_done (.ite (State.after_refl.onReg fn (fun _ h => .inr h) fun _ hu => hu.frame (State.readLow_inForce ..)) State.after_refl)

theorem execRegisterWrite_leaves {rid : BitVec 16} {ide : Bool} {fn off : Nat} {wide : Bool} {v : DWord} {s : State} :
    s.Leaves (.registerWrite rid ide fn off wide v) (execRegisterWrite rid ide fn off wide v s) :=
  State.leaves_done (State.after_refl.writeReg _ _ _ _ _ _ fun h => by
    subst h
    exact .inl (.inr (.inr (.inr (.inr (.inr (.inr (.inr (.inr (.inr ⟨_, _, _, _, _, rfl⟩))))))))))

/-! ## Register writes with a command of their own (R7) -/

theorem execSecureClaim_leaves {rid : BitVec 16} {ide : Bool} {v : DWord} {s : State} {c : Instr} : s.Leaves c (execSecureClaim rid ide v s) :=
  State.leaves_row fun _ => State.claim_inForce ..

theorem execInjPctlWrite_leaves {fn port : Nat} {v : DWord} {s : State} {c : Instr} : s.Leaves c (execInjPctlWrite fn port v s) :=
  State.leaves_done (.ite (State.after_onRow fun _ hu => hu.frame (State.injCtl_inForce ..)) (.same (s.lateInj_inForce ..)))

theorem execInjPseedWrite_leaves {fn port : Nat} {v : DWord} {s : State} {c : Instr} : s.Leaves c (execInjPseedWrite fn port v s) :=
  State.leaves_done (.ite (State.after_onRow fun _ hu => hu.frame (State.injSeed_inForce ..)) (.same (s.lateInj_inForce ..)))

theorem execFullreset_leaves {fn : Nat} {v : DWord} {s : State} : s.Leaves (.fullreset fn v) (execFullreset fn v s) :=
  State.leaves_done (State.after_onRow fun _ hu => hu.devCtl _ _ fun h => by
    subst h
    exact .inl (.inr (.inr (.inr (.inr (.inr (.inr (.inr (.inr (.inl ⟨_, rfl⟩))))))))))

/-! ## CXL.mem (R304, R305) -/

theorem execCxlMemRead_leaves {dpa len : Nat} {s : State} {c : Instr} : s.Leaves c (execCxlMemRead dpa len s) := State.leaves_frame (by simp)

theorem execCxlMemWrite_leaves {dpa : Nat} {data : List Byte} {poison : Bool} {s : State} {c : Instr} :
    s.Leaves c (execCxlMemWrite dpa data poison s) := State.leaves_frame (State.cxlStore_inForce ..)

/-! ## SPDM (R427 to R429) -/

theorem execGetVersion_leaves {r : SpdmReq} {s : State} {c : Instr} : s.Leaves c (execGetVersion r s) := State.leaves_frame (by simp)

theorem execGetCapabilities_leaves {r : SpdmReq} {s : State} {c : Instr} : s.Leaves c (execGetCapabilities r s) := State.leaves_frame (by simp)

theorem execNegotiateAlgorithms_leaves {r : SpdmReq} {s : State} {c : Instr} : s.Leaves c (execNegotiateAlgorithms r s) := State.leaves_frame (by simp)

theorem execGetDigests_leaves {r : SpdmReq} {s : State} {c : Instr} : s.Leaves c (execGetDigests r s) := State.leaves_frame (by simp)

theorem execGetCertificate_leaves {r : SpdmReq} {s : State} {c : Instr} : s.Leaves c (execGetCertificate r s) := State.leaves_frame (by simp)

theorem execChallenge_leaves {r : SpdmReq} {s : State} {c : Instr} : s.Leaves c (execChallenge r s) := State.leaves_frame (by simp)

theorem execGetMeasurements_leaves {r : SpdmReq} {s : State} {c : Instr} : s.Leaves c (execGetMeasurements r s) := State.leaves_frame (by simp)

theorem execVendorDefinedRequest_leaves {r : SpdmReq} {s : State} {c : Instr} : s.Leaves c (execVendorDefinedRequest r s) := by
  refine State.leaves_frame (State.spdmServe_inForce fun t => ?_)
  dsimp only
  repeat' split
  all_goals simp

theorem execKeyExchange_leaves {r : SpdmReq} {s : State} {c : Instr} : s.Leaves c (execKeyExchange r s) := State.leaves_frame (by simp)

theorem execFinish_leaves {r : SpdmReq} {s : State} {c : Instr} : s.Leaves c (execFinish r s) := State.leaves_frame (by simp)

theorem execHeartbeat_leaves {r : SpdmReq} {s : State} {c : Instr} : s.Leaves c (execHeartbeat r s) := State.leaves_frame (by simp)

theorem execEndSession_leaves {r : SpdmReq} {s : State} {c : Instr} : s.Leaves c (execEndSession r s) := State.leaves_frame (by simp)

/-! ## PLDM (R374, R376) -/

theorem execGetPdrRepositoryInfo_leaves {s : State} {c : Instr} : s.Leaves c (execGetPdrRepositoryInfo s) := State.leaves_frame (by simp)

theorem execGetPdr_leaves {record : Nat} {s : State} {c : Instr} : s.Leaves c (execGetPdr record s) := by
  refine State.leaves_frame ?_
  split <;> simp

theorem execGetSensorReading_leaves {id : Nat} {s : State} {c : Instr} : s.Leaves c (execGetSensorReading id s) := by
  refine State.leaves_frameNext (State.bmc_inForce fun t => ?_)
  split <;> simp

/-! ## The test port (R443, R444) -/

theorem execTapReset_leaves {s : State} {c : Instr} : s.Leaves c (execTapReset s) := State.leaves_frame (State.setTap_inForce ..)

theorem execBypass_leaves {s : State} {c : Instr} : s.Leaves c (execBypass s) := State.leaves_frame (State.setTap_inForce ..)

theorem execIdcode_leaves {s : State} {c : Instr} : s.Leaves c (execIdcode s) := State.leaves_frame (State.setTap_inForce ..)

theorem execSamplePreload_leaves {s : State} {c : Instr} : s.Leaves c (execSamplePreload s) := State.leaves_frame (State.setTap_inForce ..)

theorem execExtest_leaves {s : State} {c : Instr} : s.Leaves c (execExtest s) := State.leaves_frame (State.setTap_inForce ..)

theorem execClamp_leaves {s : State} {c : Instr} : s.Leaves c (execClamp s) := State.leaves_frame (State.setTap_inForce ..)

theorem execHighz_leaves {s : State} {c : Instr} : s.Leaves c (execHighz s) := State.leaves_frame (State.setTap_inForce ..)

theorem execInstrNet_leaves {s : State} {c : Instr} : s.Leaves c (execInstrNet s) := State.leaves_frame (State.setTap_inForce ..)

/-! ## Every command -/

/-- The table of the commands: what each leaves alone. -/
theorem exec_leaves : ∀ (c : Instr) (s : State), s.Leaves c (exec c s)
  | .nop .., _ => State.leaves_frame (by simp)
  | .bra .., _ => State.leaves_frame (by simp)
  | .brx .., _ => State.leaves_frame (by simp)
  | .call .., _ => State.leaves_frame (State.issue_inForce fun t go on => by simp)
  | .exit .., _ => State.leaves_frame (by simp)
  | .bar .., _ => State.leaves_frame (by simp)
  | .rdsr .., _ => State.leaves_frame (State.compute_inForce ..)
  | .iadd .., _ => State.leaves_frame (t2_inForce ..)
  | .isub .., _ => State.leaves_frame (t2_inForce ..)
  | .imul .., _ => State.leaves_frame (t2_inForce ..)
  | .imulh .., _ => State.leaves_frame (t2_inForce ..)
  | .imad .., _ => State.leaves_frame (t3_inForce ..)
  | .imin .., _ => State.leaves_frame (t2_inForce ..)
  | .imax .., _ => State.leaves_frame (t2_inForce ..)
  | .iabs .., _ => State.leaves_frame (t1_inForce ..)
  | .and .., _ => State.leaves_frame (t2_inForce ..)
  | .or .., _ => State.leaves_frame (t2_inForce ..)
  | .xor .., _ => State.leaves_frame (t2_inForce ..)
  | .shl .., _ => State.leaves_frame (t2_inForce ..)
  | .shr .., _ => State.leaves_frame (t2_inForce ..)
  | .sar .., _ => State.leaves_frame (t2_inForce ..)
  | .popc .., _ => State.leaves_frame (t1_inForce ..)
  | .clz .., _ => State.leaves_frame (t1_inForce ..)
  | .bfe .., _ => State.leaves_frame (t3_inForce ..)
  | .bfi .., _ => State.leaves_frame (State.compute_inForce ..)
  | .iaddi .., _ => State.leaves_frame (i1_inForce ..)
  | .imuli .., _ => State.leaves_frame (i1_inForce ..)
  | .andi .., _ => State.leaves_frame (i1_inForce ..)
  | .ori .., _ => State.leaves_frame (i1_inForce ..)
  | .xori .., _ => State.leaves_frame (i1_inForce ..)
  | .shli .., _ => State.leaves_frame (i1_inForce ..)
  | .shri .., _ => State.leaves_frame (i1_inForce ..)
  | .sari .., _ => State.leaves_frame (i1_inForce ..)
  | .movi .., _ => State.leaves_frame (State.compute_inForce ..)
  | .mov .., _ => State.leaves_frame (t1_inForce ..)
  | .sel .., _ => State.leaves_frame (State.compute_inForce ..)
  | .fadd .., _ => State.leaves_frame (t2_inForce ..)
  | .fsub .., _ => State.leaves_frame (t2_inForce ..)
  | .fmul .., _ => State.leaves_frame (t2_inForce ..)
  | .ffma .., _ => State.leaves_frame (t3_inForce ..)
  | .fmin .., _ => State.leaves_frame (t2_inForce ..)
  | .fmax .., _ => State.leaves_frame (t2_inForce ..)
  | .fabs .., _ => State.leaves_frame (t1_inForce ..)
  | .fneg .., _ => State.leaves_frame (t1_inForce ..)
  | .fdiv .., _ => State.leaves_frame (t2_inForce ..)
  | .fsqrt .., _ => State.leaves_frame (t1_inForce ..)
  | .frcp .., _ => State.leaves_frame (t1_inForce ..)
  | .frsq .., _ => State.leaves_frame (t1_inForce ..)
  | .fexp2 .., _ => State.leaves_frame (t1_inForce ..)
  | .flog2 .., _ => State.leaves_frame (t1_inForce ..)
  | .ftanh .., _ => State.leaves_frame (t1_inForce ..)
  | .fmuli .., _ => State.leaves_frame (i1_inForce ..)
  | .fsin .., _ => State.leaves_frame (t1_inForce ..)
  | .fcos .., _ => State.leaves_frame (t1_inForce ..)
  | .isetp .., _ => State.leaves_frame (State.issue_inForce fun t go on => by simp)
  | .fsetp .., _ => State.leaves_frame (State.issue_inForce fun t go on => by simp)
  | .plop .., _ => State.leaves_frame (by simp)
  | .i2f .., _ => State.leaves_frame (t1_inForce ..)
  | .f2i .., _ => State.leaves_frame (t1_inForce ..)
  | .cvt .., _ => State.leaves_frame (by simp)
  | .ld .., _ => execLd_leaves
  | .st .., _ => execSt_leaves
  | .ldl .., _ => execLdl_leaves
  | .stl .., _ => execStl_leaves
  | .atom .., _ => execAtom_leaves
  | .fence .., _ => State.leaves_frame (by simp)
  | .gfeedr .., _ => State.leaves_frame (by simp)
  | .gfeeds .., _ => execGfeeds_leaves
  | .gdrain .., _ => execGdrain_leaves
  | .greshape .., _ => execGreshape_leaves
  | .grelease .., _ => execGrelease_leaves
  | .spadd .., _ => State.leaves_frame (by simp)
  | .spwait .., _ => State.leaves_frame (by simp)
  | .sparrive .., _ => State.leaves_frame (by simp)
  | .spread .., _ => State.leaves_frame (by simp)
  | .alloc .., _ => execAlloc_leaves
  | .free .., _ => execFree_leaves
  | .hput .., _ => State.leaves_frame (by simp)
  | .hget .., _ => State.leaves_frame (by simp)
  | .philox .., _ => State.leaves_frame (State.compute_inForce ..)
  | .rnde .., _ => State.leaves_frame (State.compute_inForce ..)
  | .msend .., _ => State.leaves_frame (State.mbxIssue_inForce ..)
  | .mrecv .., _ => State.leaves_frame (State.mbxIssue_inForce ..)
  | .pendingWriteLands .., _ => execPendingWriteLands_leaves
  | .sheafPlace .., _ => State.leaves_frame (State.sheafPlace_inForce ..)
  | .sheafSwapOut .., _ => State.leaves_frame (State.swapOut_inForce ..)
  | .sheafRestore .., _ => State.leaves_frame (State.sheafRestore_inForce ..)
  | .feedAccepted .., _ => State.leaves_frame (State.acceptFeed_inForce ..)
  | .cellFire .., _ => State.leaves_frame (State.cellFire_inForce ..)
  | .elementWisePair .., _ => State.leaves_frame (State.elementWise_inForce ..)
  | .drainComplete .., _ => State.leaves_frame (State.completeDrain_inForce ..)
  | .checkerResult .., _ => execCheckerResult_leaves
  | .arbiterVerdict .., _ => execArbiterVerdict_leaves
  | .rowShift .., _ => execRowShift_leaves
  | .rowShiftDone .., _ => execRowShiftDone_leaves
  | .reshapeComplete .., _ => State.leaves_frame (State.completeReshape_inForce ..)
  | .gangParityError .., _ => execGangParityError_leaves
  | .contextAbort .., _ => State.leaves_frame (State.ctxAbort_inForce ..)
  | .homeSliceAccess .., _ => execHomeSliceAccess_leaves
  | .fillArrives .., _ => execFillArrives_leaves
  | .orderedContribution .., _ => execOrderedContribution_leaves
  | .orderedRetry .., _ => execOrderedRetry_leaves
  | .orderedSequenceAbandon .., _ => execOrderedSequenceAbandon_leaves
  | .scrub .., _ => execScrub_leaves
  | .sparHomeOperation .., _ => execSparHomeOperation_leaves
  | .agentSparOperation .., _ => execAgentSparOperation_leaves
  | .chunkStart .., _ => execChunkStart_leaves
  | .contribution .., _ => State.leaves_frame (by simp)
  | .engineApplyChunk .., _ => execEngineApplyChunk_leaves
  | .preBlockApply .., _ => execPreBlockApply_leaves
  | .rowCopyDone .., _ => execRowCopyDone_leaves
  | .parameterMessage .., _ => execParameterMessage_leaves
  | .blockStreamStart .., _ => execBlockStreamStart_leaves
  | .blockContribution .., _ => State.leaves_frame (by simp)
  | .escape .., _ => State.leaves_frame (by simp)
  | .blockResult .., _ => State.leaves_frame (by simp)
  | .ridgeSend .., _ => State.leaves_frame (State.ridgeSend_inForce ..)
  | .ridge .., _ => execRidge_leaves
  | .void .., _ => State.leaves_frame (by simp)
  | .replayStart .., _ => State.leaves_frame (State.replayStart_inForce ..)
  | .join .., _ => State.leaves_frame (by simp)
  | .spareTakeover .., _ => State.leaves_frame (State.takeover_inForce ..)
  | .ridgeTimeout .., _ => execRidgeTimeout_leaves
  | .ridgeOverdue .., _ => execRidgeOverdue_leaves
  | .checkpointStreamComplete .., _ => State.leaves_frame (State.checkpointDone_inForce ..)
  | .read .., _ => State.leaves_frame (by simp)
  | .write .., _ => State.leaves_frame (by simp)
  | .atomic .., _ => State.leaves_frame (by simp)
  | .atomicOrd .., _ => State.leaves_frame (by simp)
  | .readResp .., _ => execReadResp_leaves
  | .writeAck .., _ => execWriteAck_leaves
  | .atomicResp .., _ => execAtomicResp_leaves
  | .returnMsg .., _ => execReturnMsg_leaves
  | .nak .., _ => execNak_leaves
  | .messageForward .., _ => State.leaves_frame (State.forward_inForce ..)
  | .remoteTimeout .., _ => execRemoteTimeout_leaves
  | .flitReceive .., _ => State.leaves_frame (State.flit_inForce ..)
  | .retryRequest .., _ => State.leaves_frame (by simp)
  | .berWindow .., _ => State.leaves_frame (by simp)
  | .portTrainingComplete .., _ => State.leaves_frame (State.trained_inForce ..)
  | .vcStalled .., _ => State.leaves_frame (by simp)
  | .violationScoreDecay, _ => execViolationScoreDecay_leaves
  | .reorderRelease .., _ => execReorderRelease_leaves
  | .queueNop .., _ => State.leaves_frame (by simp)
  | .launch .., _ => State.leaves_frame (by simp)
  | .copy .., _ => State.leaves_frame (by simp)
  | .fill .., _ => execFill_leaves
  | .reshape .., _ => execReshape_leaves
  | .sparadd .., _ => execSparadd_leaves
  | .ctxcreate .., _ => State.leaves_frame (by simp)
  | .ctxdestroy .., _ => execCtxdestroy_leaves
  | .ctxrecover .., _ => execCtxrecover_leaves
  | .codeload .., _ => execCodeload_leaves
  | .codeunload .., _ => execCodeunload_leaves
  | .oalloc .., _ => execOalloc_leaves
  | .ofree .., _ => execOfree_leaves
  | .oshare .., _ => execOshare_leaves
  | .odrop .., _ => execOdrop_leaves
  | .ocopy .., _ => execOcopy_leaves
  | .query .., _ => execQuery_leaves
  | .entryFetch .., _ => State.leaves_frame (State.entryFetch_inForce ..)
  | .entryFinish .., _ => State.leaves_frame (State.entryFinish_inForce ..)
  | .completionPost .., _ => State.leaves_frame (State.completionPost_inForce ..)
  | .modtimeExpires .., _ => State.leaves_frame (by simp)
  | .pageIn .., _ => State.leaves_frame (State.pageIn_inForce ..)
  | .destructionComplete .., _ => State.leaves_frame (State.destroyed_inForce ..)
  | .hqDbsq .., _ => State.leaves_row fun _ => State.dbSq_inForce ..
  | .hqDbcq .., _ => State.leaves_row fun _ => State.dbCq_inForce ..
  | .queueEnable .., _ => State.leaves_row fun _ => State.writeHqCtl_inForce ..
  | .queueDisable .., _ => State.leaves_row fun _ => State.writeHqCtl_inForce ..
  | .mailboxSend .., _ => State.leaves_row fun _ => State.chanSend_inForce ..
  | .inboundGoClear .., _ => State.leaves_row fun _ => State.chanClear_inForce ..
  | .channelOpenWrite .., _ => State.leaves_row fun _ => State.chanOpen_inForce ..
  | .mcAccept .., _ => State.leaves_frame (by simp)
  | .mcAnswer .., _ => State.leaves_frame (by simp)
  | .secureClaim .., _ => execSecureClaim_leaves
  | .sparCreate .., _ => State.leaves_row fun _ => State.sprCmd_inForce ..
  | .sparMap .., _ => State.leaves_row fun _ => State.sprCmd_inForce ..
  | .sparUnmap .., _ => State.leaves_row fun _ => State.sprCmd_inForce ..
  | .sparDestroy .., _ => State.leaves_row fun _ => State.sprCmd_inForce ..
  | .sparRead .., _ => State.leaves_row fun _ => State.sprCmd_inForce ..
  | .sparSet .., _ => State.leaves_row fun _ => State.sprCmd_inForce ..
  | .jobLoad .., _ => State.leaves_row fun _ => State.gutJdctl_inForce ..
  | .jobUnload .., _ => State.leaves_row fun _ => State.gutJdctl_inForce ..
  | .forceVoid .., _ => State.leaves_row fun _ => State.gutJdctl_inForce ..
  | .membershipReload .., _ => State.leaves_row fun _ => State.gutJdctl_inForce ..
  | .replay .., _ => State.leaves_row fun _ => State.stepCtl_inForce ..
  | .skip .., _ => State.leaves_row fun _ => State.stepCtl_inForce ..
  | .checkpointRegister .., _ => State.leaves_row fun _ => State.ckCtl_inForce ..
  | .resume .., _ => State.leaves_row fun _ => State.ckCtl_inForce ..
  | .restore .., _ => State.leaves_row fun _ => State.ckCtl_inForce ..
  | .restoreFromBuddy .., _ => State.leaves_row fun _ => State.ckCtl_inForce ..
  | .hoardRelease .., _ => State.leaves_row fun _ => State.hrdCtl_inForce ..
  | .errCodeClear .., _ => State.leaves_row fun _ => State.errCtl_inForce ..
  | .windowEntryEnable .., _ => State.leaves_row fun _ => State.winWord0_inForce ..
  | .windowEntryInvalidate .., _ => State.leaves_row fun _ => State.winWord0_inForce ..
  | .windowInvalidateDone .., _ => execWindowInvalidateDone_leaves
  | .quarantineClear .., _ => State.leaves_row fun _ => State.portCtl_inForce ..
  | .retrain .., _ => State.leaves_row fun _ => State.portCtl_inForce ..
  | .injPctlWrite .., _ => execInjPctlWrite_leaves
  | .injPseedWrite .., _ => execInjPseedWrite_leaves
  | .signatureRingEnable .., _ => State.leaves_row fun _ => State.sigCtl_inForce ..
  | .powerCapWrite .., _ => State.leaves_row fun _ => State.pwrCap_inForce ..
  | .ctxKill .., _ => State.leaves_row fun _ => State.ctxKill_inForce ..
  | .fullLoad .., _ => State.leaves_row fun _ => State.trsCtl_inForce ..
  | .partitionLoad .., _ => State.leaves_row fun _ => State.trsCtl_inForce ..
  | .trussApply, _ => execTrussApply_leaves
  | .shutdown .., _ => State.leaves_row fun _ => State.fnShutdown_inForce ..
  | .flr .., s => State.leaves_frame (s.flr_inForce _)
  | .vfEnableClear, _ => execVfEnableClear_leaves
  | .shutdownComplete .., _ => State.leaves_frame (State.shutdownDone_inForce ..)
  | .functionWedged .., _ => State.leaves_frame (State.wedge_inForce ..)
  | .functionEnable .., _ => State.leaves_frame (State.enableFn_inForce ..)
  | .erase .., _ => State.leaves_row fun _ => State.beginErase_inForce ..
  | .eraseComplete .., _ => State.leaves_frame (State.eraseDone_inForce ..)
  | .fullreset .., _ => execFullreset_leaves
  | .conventionalReset, _ => execConventionalReset_leaves
  | .cxlReset, _ => execCxlReset_leaves
  | .cxlMemRead .., _ => execCxlMemRead_leaves
  | .cxlMemWrite .., _ => execCxlMemWrite_leaves
  | .splitWriteTimeout .., _ => execSplitWriteTimeout_leaves
  | .splitReadLow .., _ => execSplitReadLow_leaves
  | .registerWrite .., _ => execRegisterWrite_leaves
  | .bootMailboxSend .., _ => execBootMailboxSend_leaves
  | .doeBootChunk .., _ => execDoeBootChunk_leaves
  | .firmwareVerify, _ => execFirmwareVerify_leaves
  | .bootImageApply, _ => execBootImageApply_leaves
  | .memoryTrainingComplete .., _ => State.leaves_frame (by simp)
  | .fabricBringupComplete, _ => execFabricBringupComplete_leaves
  | .identityKeysReady .., _ => execIdentityKeysReady_leaves
  | .getVersion .., _ => execGetVersion_leaves
  | .getCapabilities .., _ => execGetCapabilities_leaves
  | .negotiateAlgorithms .., _ => execNegotiateAlgorithms_leaves
  | .getDigests .., _ => execGetDigests_leaves
  | .getCertificate .., _ => execGetCertificate_leaves
  | .challenge .., _ => execChallenge_leaves
  | .getMeasurements .., _ => execGetMeasurements_leaves
  | .keyExchange .., _ => execKeyExchange_leaves
  | .finish .., _ => execFinish_leaves
  | .heartbeat .., _ => execHeartbeat_leaves
  | .endSession .., _ => execEndSession_leaves
  | .vendorDefinedRequest .., _ => execVendorDefinedRequest_leaves
  | .getPdrRepositoryInfo, _ => execGetPdrRepositoryInfo_leaves
  | .getPdr .., _ => execGetPdr_leaves
  | .getSensorReading .., _ => execGetSensorReading_leaves
  | .getNumericEffecterValue .., _ => State.leaves_frameNext (by simp)
  | .setNumericEffecterValue .., _ => State.leaves_frameNext (by simp)
  | .setEventReceiver .., _ => State.leaves_frameNext (by simp)
  | .pollForPlatformEventMessage .., _ => State.leaves_frameNext (by simp)
  | .entdaa .., _ => State.leaves_frameNext (by simp)
  | .powerBudgetTick .., _ => State.leaves_frameNext (State.budgetTick_inForce ..)
  | .courseStandby .., _ => State.leaves_frameIf (by simp)
  | .courseOff .., _ => State.leaves_frameIf (by simp)
  | .courseWakeComplete .., _ => State.leaves_frameIf (by simp)
  | .pacingInterval .., _ => State.leaves_frameIf (by simp)
  | .temperatureSample .., _ => State.leaves_frameIf (State.tempSample_inForce ..)
  | .thermalTripTimeout .., _ => State.leaves_frameIf (by simp)
  | .hbmStackTemperature .., _ => State.leaves_frameIf (by simp)
  | .deliverySense .., _ => State.leaves_frameNext (by simp)
  | .deliveryThrottleEnd, _ => execDeliveryThrottleEnd_leaves
  | .courseSupplyFault .., _ => State.leaves_frameIf (State.supplyFault_inForce ..)
  | .vinMainOutOfLimits .., _ => State.leaves_frameNext (by simp)
  | .vinMainLoss, _ => execVinMainLoss_leaves
  | .vinMainStable .., _ => execVinMainStable_leaves
  | .vinAonApplied .., _ => execVinAonApplied_leaves
  | .vinAonLoss, _ => execVinAonLoss_leaves
  | .pmbusPoll .., _ => State.leaves_frameNext (State.pmbusPoll_inForce ..)
  | .energySample .., _ => State.leaves_frameNext (by simp)
  | .contextEnergyWriteback .., _ => State.leaves_frameIf (by simp)
  | .clockStop, _ => execClockStop_leaves
  | .clockReturn, _ => execClockReturn_leaves
  | .tapReset, _ => execTapReset_leaves
  | .bypass, _ => execBypass_leaves
  | .idcode, _ => execIdcode_leaves
  | .samplePreload, _ => execSamplePreload_leaves
  | .extest, _ => execExtest_leaves
  | .clamp, _ => execClamp_leaves
  | .highz, _ => execHighz_leaves
  | .instrNet, _ => execInstrNet_leaves
  | .vinMainReturnsWithinLimits .., _ => State.leaves_frameNext (by simp)
  | .pldmBaseRequest .., _ => State.leaves_frameNext (by simp)
  | .ideKmMessage .., _ => State.leaves_frameNext (by simp)

/-- Settles O58: the queue is in the frame of every operation, and so are the partitions in force but for an apply and a reset. -/
theorem queueAndConfiguration : Obligations.QueueAndConfiguration := by
  refine ⟨fun c s t ht => (exec_leaves c s t ht).1, fun c s t hheld ht hparts => ?_⟩
  refine Classical.byContradiction fun hc => ?_
  exact hparts ((exec_leaves c s t ht).2 fun h => h.elim hc fun hlow => hlow hheld)

end Sys2Proof.Machine
